-- ==== Sys2Proof/Word.lean ====
section
/-! DEFINITION. The word types of the module: bytes, 32-bit and 64-bit words (R13). -/
namespace Sys2Proof

/-- One byte of memory or of a structure image. -/
abbrev Byte := BitVec 8

/-- A 32-bit word: FP32 patterns, 32-bit registers, sequence numbers. -/
abbrev Word32 := BitVec 32

/-- A 64-bit word: the unit of every structure table of the manual. -/
abbrev Word64 := BitVec 64

/-- Function ID, 0 is PF0 and 1 to 255 are VF1 to VF255 (R3). -/
abbrev FnId := Fin 256

/-- Submission or completion ring of one function (R339). -/
abbrev RingIx := Fin 16

/-- Physical stone number, house × 25 + index (R392, R395). -/
abbrev StoneP := Fin 100

/-- House ID (R3). -/
abbrev House := Fin 4

/-- Partition ID (R3). -/
abbrev PartId := Fin 4

/-- Set index of a stone (R3). -/
abbrev SetIx := Fin 4

/-- Ubnimus port of the module (R216). -/
abbrev PortIx := Fin 12

end Sys2Proof
end

