-- ==== Sys2Proof/Syntax.lean ====
section
/-! DEFINITION. The commands and events of the module: one constructor of `Instr` per row of spec/opcode_table.json. -/
namespace Sys2Proof

/-- The weir marks of the module, by source (R188). -/
inductive WeirId where
  | sq (f : FnId) (r : RingIx)
  | cq (f : FnId) (c : RingIx)
  | pondCache (h : House)
  | media (h : House)
  | combineSlots (h : House)
  | copyStaging (h : House)
  | latentPool (p : PartId)
  | gristTable (p : PartId)
  deriving DecidableEq, Repr

/-- Where a register write of the host lands: a BAR0 offset of the function (R334, R335), or a register of its configuration space
that R332 and R355 name and PCIe lays out: MSI-X Message Control, Device Control, AER Uncorrectable Error Status. -/
inductive RegSpace where
  | bar0
  | msixControl
  | deviceControl
  | aerStatus
  deriving DecidableEq, Repr

/-- The levels that the carrier gives to the pins of the boundary register, the module's own pulls aside (R420, R427). -/
structure PinLevels where
  perst   : Bool
  resetIn : Bool
  uartRx  : Bool
  uartTx  : Bool
  smbClk  : Bool
  smbDat  : Bool
  /-- SMB_ADDR1, SMB_ADDR0. -/
  smbAddr : BitVec 2
  gpio    : BitVec 4
  deriving DecidableEq, Repr

/-- Commands, bus operations, timer expiries and pin events of the module. A command of a submission ring names the
function and the ring that run it; its descriptor stands in the machine, where `descriptorFetch` put it (R344, R347). -/
inductive Instr where
  -- commands of the submission rings (R362)
  | nop (f : FnId) (r : RingIx)
  | runPlan (f : FnId) (r : RingIx)
  | copy (f : FnId) (r : RingIx)
  | allGather (f : FnId) (r : RingIx)
  | fill (f : FnId) (r : RingIx)
  | combine (f : FnId) (r : RingIx)
  | allReduce (f : FnId) (r : RingIx)
  | reduceScatter (f : FnId) (r : RingIx)
  | signal (f : FnId) (r : RingIx)
  | wait (f : FnId) (r : RingIx)
  | fence (f : FnId) (r : RingIx)
  | pawlTake (f : FnId) (r : RingIx)
  | pawlGive (f : FnId) (r : RingIx)
  | gristJoin (f : FnId) (r : RingIx)
  | gristLeave (f : FnId) (r : RingIx)
  | gristStep (f : FnId) (r : RingIx)
  | hopperBatch (f : FnId) (r : RingIx)
  | raceDecode (f : FnId) (r : RingIx)
  | raceEncode (f : FnId) (r : RingIx)
  | damselSeed (f : FnId) (r : RingIx)
  | damselDraw (f : FnId) (r : RingIx)
  | bolterSample (f : FnId) (r : RingIx)
  | snapshot (f : FnId) (r : RingIx)
  | restore (f : FnId) (r : RingIx)
  | timestamp (f : FnId) (r : RingIx)
  | query (f : FnId) (r : RingIx)
  | linkSchedule (f : FnId) (r : RingIx)
  | linkScheduleHalt (f : FnId) (r : RingIx)
  -- ring engine
  | descriptorFetch (f : FnId) (r : RingIx)
  | completionEntryWrite (f : FnId) (r : RingIx)
  -- stones; `mismatch` says whether a checker furrow disagreed with the furrow it duplicates (R83)
  | passIssue (p : StoneP) (mismatch : Bool)
  | dummyPass (p : StoneP) (mismatch : Bool)
  | vaneReadout (p : StoneP)
  | vaneOpUnit (p : StoneP)
  | bindingDone (p : StoneP) (i : SetIx)
  | tileReady (p : StoneP) (i : SetIx)
  | setSwitch (p : StoneP)
  | switchInDone (p : StoneP)
  | setComplete (p : StoneP) (i : SetIx)
  | heartbeat (p : StoneP)
  | checkerRotate (p : StoneP)
  | schedWindow (p : StoneP)
  | allotmentExpiry (p : StoneP)
  -- stage pipelines
  | chuteFillDone (p : StoneP) (i : SetIx)
  | phaseStart (p : StoneP) (i : SetIx)
  | spoutSegmentMove (p : StoneP) (i : SetIx) (spout : Fin 4)
  | inletRead (p : StoneP) (i : SetIx) (inlet : Fin 4)
  | stagePawlGive (p : StoneP) (i : SetIx)
  | planComplete (f : FnId) (r : RingIx)
  -- data movement and combine units
  | stagedCopyStart (f : FnId) (r : RingIx)
  | chunkArrive (f : FnId) (r : RingIx)
  | combineTagGranted (f : FnId) (r : RingIx)
  | combineTimeoutExpiry (p : PartId) (tag : BitVec 16)
  | tagFreeTimeout (p : PartId) (tag : BitVec 16)
  | ringTimeout (f : FnId) (r : RingIx)
  -- links; lane and slot of a flit are the receiver's own counts, its payload is none where it is uncorrectable; a marker slot brings
  -- the flit of each lane, header and payload, and its arrival after this module's boundary in units of 83.3 ps; offsets of pulses
  -- from the expected boundary are in picoseconds
  | turnBoundary
  | tsyncPulseIn (widthNs : Nat) (offsetPs : Int)
  | tsyncFbPulse (widthNs : Nat) (offsetPs : Int)
  | tsyncLost
  | markerReceive (port : PortIx) (lanes : List (Option (BitVec 20 × List Byte))) (arrival : Int)
  | flitReceive (port : PortIx) (lane : Fin 8) (slot : Fin 80) (header : BitVec 20) (payload : Option (List Byte))
  | writePacket (port : PortIx) (chan : Fin 16)
  | combinePacket (port : PortIx) (chan : Fin 16)
  | ringPacket (port : PortIx) (chan : Fin 16)
  | ackPacket (port : PortIx) (chan : Fin 16)
  | portTrained (port : PortIx) (latencyNs : Nat)
  | los (port : PortIx)
  | stall (port : PortIx) (chan : Fin 16)
  | linkScheduleTimeout
  -- waits
  | pawlTakeTimeout (f : FnId) (r : RingIx)
  | waitPoll (f : FnId) (r : RingIx)
  | waitTimeout (f : FnId) (r : RingIx)
  | fenceTimeout (f : FnId) (r : RingIx)
  -- partitions
  | zeroingDone (p : PartId)
  | releaseDone (p : PartId)
  -- Hopper
  | sampleDeadline (f : FnId) (r : RingIx)
  | sampleBuffersTaken (f : FnId) (r : RingIx)
  -- faults, Miller, log
  | stoneDeadDeclared (p : StoneP)
  | millerScan
  | faultWindowBoundary
  | logRecordProgrammed
  | logCopyDone
  | stoneTestDone (p : StoneP) (passed : Bool)
  | fwProgramDone (keyOk flashOk : Bool)
  | moderationTimer (f : FnId) (c : RingIx)
  -- power, clocks, start-up; the measured values are the controller's readings, `straps` the level of SMB_ADDR1 and SMB_ADDR0
  | capPeriod (powerW : Nat) (currentMa : Nat) (voltageMv : Nat) (tempMilliC : Int) (floorSecond : Bool)
  | thermalTrip
  | pllUnlock
  | millerWatchdog
  | powerFail
  | holdupExpiry
  | startUp (straps : BitVec 2)
  | pllLock
  | trainingEnd (hbmFail : BitVec 12) (tierFail : BitVec 4)
  | resetInAssert
  | perstAssert
  | perstRelease
  | pcieLinkDown
  | functionLevelReset (f : FnId)
  | pf0FunctionLevelReset
  | flrEnd (f : FnId)
  | d3hotEntry (f : FnId)
  | d0Return (f : FnId)
  | msixUnmask (f : FnId) (vector : Fin 17)
  | memwinRead (offset : BitVec 32) (len : Nat)
  | memwinWrite (offset : BitVec 32) (data : List Byte)
  -- TAP, SMBus, UART; `pins` are the levels that the carrier gives, `pec` says that the host clocks the PEC of a read, `won` that no
  -- lower address answers, `line` is a console line without its CR or LF
  | tapReset
  | bypass
  | idcode
  | samplePreload (pins : PinLevels) (preload : BitVec 9)
  | extest (pins : PinLevels)
  | smbIdentity (pec : Bool)
  | smbHealth (pec : Bool)
  | smbLogEnd (pec : Bool)
  | smbLogSelect (seq : Word64) (pecOk : Bool)
  | smbLogRead (pec : Bool)
  | smbAlertResponse (won causeAfter : Bool)
  | uartId
  | uartHealth
  | uartLogend
  | uartLog (line : List Byte)
  -- ring control pages and doorbells; a value is the whole register as written
  | sqEnable (f : FnId) (r : RingIx) (value : Word32)
  | sqDisable (f : FnId) (r : RingIx) (value : Word32)
  | sqResume (f : FnId) (r : RingIx)
  | sqAbort (f : FnId) (r : RingIx) (resume : Bool)
  | cqEnable (f : FnId) (c : RingIx) (value : Word64)
  | cqDisable (f : FnId) (c : RingIx) (value : Word64)
  | doorbellSqTail (f : FnId) (d : RingIx) (value : Word32)
  | doorbellCqHead (f : FnId) (d : RingIx) (value : BitVec 16)
  | cqRearm (f : FnId) (d : RingIx) (value : BitVec 16)
  | weirLevelWrite (w : WeirId) (value : Word32)
  | weirFallingWrite (w : WeirId) (value : Word32)
  | weirCrossedClear (w : WeirId) (value : Word32)
  | weirCountClear (w : WeirId) (value : Word32)
  -- setup registers; `level` is the level that the carrier gives to the pin
  | setupLockWrite (value : Word32)
  | partitionCommit (p : PartId) (value : Word32)
  | partitionRelease (p : PartId) (value : Word32)
  | tenantKill (f : FnId) (value : Word32)
  | stoneTest (p : StoneP)
  | stoneRetire (p : StoneP)
  | fwProgram (value : Word64)
  | gpioAssignWrite (pin : Fin 4) (value : Word32) (level : Bool)
  | combineTimeoutWrite (value : Word32) (expired : List (PartId × BitVec 16))
  | faultThresholdWrite (value : Word32)
  | logSelectWrite (value : Word64)
  | registerWrite (f : FnId) (space : RegSpace) (offset : BitVec 20) (width : Nat) (value : Word64)
  -- remaining pin, configuration and timer events
  | inputRemoved
  | configurationReady (rate : Fin 3) (x16 : Bool)
  | vfEnableWrite (enable : Bool) (numVfs : Nat)
  | completionTimeout (f : FnId) (r : RingIx) (address : BitVec 48)
  | debugTrigPulseEnd (pin : Fin 2)
  deriving DecidableEq, Repr

end Sys2Proof
end

