-- ==== Sys2Proof/Decode.lean ====
section
/-! DEFINITION. Words of the opcode table. -/
namespace Sys2Proof

/-- The command that a word spells by the table's bits. No row of the opcode table of this module gives bits: its commands
come from descriptors, register writes, pins and timers. -/
def decodeTableWord (_nbits _w : Nat) : Option Instr := none

end Sys2Proof
end

