-- ==== Sys2Proof/Config.lean ====
section
/-! DEFINITION. What one module fixes and what the manual leaves open: constants without a body. -/
namespace Sys2Proof.Config

/-- SERIAL, fused (R463). -/
opaque serial : Word64

/-- SILICON, fused (R463). -/
opaque silicon : BitVec 16

/-- ENC_REV of the image that runs, by its VERSION (R463, R315). -/
opaque encRev : BitVec 16 → BitVec 16

/-- Fused spare row of a physical stone, at most 32 (R82). -/
opaque fuseRow : Nat → Fin 33

/-- Fused spare column of a physical stone, at most 32 (R82). -/
opaque fuseColumn : Nat → Fin 33

/-- Enabled checker furrows of a physical stone, at most 64 (R83). -/
opaque checkers : Nat → Fin 65

/-- Nanoseconds that have passed since the clock was last read: a free value for each reading. -/
opaque elapsedNs : Nat → Nat

/-- Stone clocks of a gap between the last dummy pass, or the last real one, and the next real one: a free value for each pass
(R103). -/
opaque gapsBefore : Nat → Nat

/-- A byte of data that an uncorrectable error or poison has destroyed: a free value for each byte read (R390). -/
opaque freeByte : Nat → Byte

/-- Row of a DRAM unit, by class, that holds a device address: R165 and R166 give the offset in a channel and no row (R394). -/
opaque dramRow : (cls address : Nat) → Nat

/-- Rows that post-package repair can replace in an HBM stack (R394). -/
opaque hbmRepairs : (stack : Nat) → Nat

/-- Whether a dirty line of a Pond cache has been displaced before a write: a free value for each write and line (R171). -/
opaque displaces : Nat → Nat → Bool

/-- Which of a house's cache steps, or media steps, holds a granule, by its place: the manual gives no place (R171, R392). -/
opaque pondStep : (place : Nat) → Nat

/-- Bytes that follow the last byte of a channel in a slot that the channel does not fill: a free value each (R230). -/
opaque slotFill : Nat → Byte

/-- A 64-bit value that the manual leaves open: one for each reading. -/
opaque freeWord : Nat → Word64

/-- γ (`false`) and β (`true`) of a NORM_APPLY in ROW mode whose GB_DIV is 0, where R154 divides by 0: a function of the block's
fields and of the domain and element, so that equal plans give equal bits (R11). -/
opaque openGamma : (block : List Nat) → (domain element : Nat) → Bool → Word32

/-- The boundary register as it captures the pins, from the pin levels packed in the order of `State.capture`: R427 gives the
register's pins and not the order of its cells. -/
opaque boundary : Word32 → Word32

/-- Whether a reading finds GPIO0 inside the low pulse of a root with TSYNC_FB: pulses take 100 or 400 ns of a turn, and the state counts
turns (R431). -/
opaque inPulse : Nat → Bool

/-! ## Codecs: the standards that R293 names, and the unpublished decisions of the encoder (R315) -/

/-- What the headers of one picture of a coded unit say, as its standard reads them. -/
structure Frame where
  width    : Nat
  height   : Nat
  /-- Bits of a sample. -/
  depth    : Nat
  /-- 0 4:2:0, 1 4:2:2, 2 4:4:4, 3 monochrome or one component; any other number another sampling. -/
  chroma   : Nat
  /-- seq_profile of AV1, general_profile_idc of HEVC, the number n of SOFn of JPEG. -/
  profile  : Nat
  /-- general_level_idc of HEVC. -/
  level    : Nat
  /-- A mode or format of the last column of R293's table. -/
  outside  : Bool
  /-- 1 BT.601, 2 BT.709, 3 BT.2020, 0 not signalled or another. -/
  matrix   : BitVec 2
  full     : Bool
  key      : Bool
  shown    : Bool
  /-- An AV1 header that shows a picture again and decodes none: its reference is the slot shown. -/
  again    : Bool
  /-- Film grain is applied to the written picture. -/
  grain    : Bool
  /-- OrderHint or picture order count. -/
  order    : Int
  /-- Bits of an AV1 OrderHint. -/
  hintBits : Nat
  /-- References, each once: AV1 slots, or HEVC picture order counts. -/
  refs     : List Int
  /-- refresh_frame_flags of AV1. -/
  refresh  : BitVec 8
  /-- Picture order counts that the reference picture set of HEVC keeps. -/
  keep     : List Int
  deriving DecidableEq, Repr, Inhabited

/-- A coded unit: its bytes and its pictures, shown or not, in decoding order. -/
structure CodedUnit where
  /-- The bytes hold a complete coded unit, and every parameter set it needs has come. -/
  sound  : Bool
  bytes  : Nat
  frames : List Frame
  deriving DecidableEq, Repr, Inhabited

/-- What R295 and R311 fix of a picture that the tailrace codes. -/
structure Coding where
  codec       : Nat
  frame       : Frame
  quantiser   : Nat
  /-- JPEG, quantisation tables for luma and chroma. -/
  tables      : List (List Nat)
  /-- Edge of a superblock or coding tree block. -/
  block       : Nat
  tileColumns : Nat
  wavefront   : Bool
  deblocking  : Bool
  cdef        : Bool
  sao         : Bool
  /-- Parameter sets precede the picture. -/
  headers     : Bool
  /-- JPEG, MCUs of a restart interval. -/
  restart     : Nat
  /-- The recommendation that gives matrix, primaries and transfer, coded as MATRIX. -/
  colour      : Nat
  deriving DecidableEq, Repr, Inhabited

/-- The published codecs, 1 AV1, 2 HEVC, 3 JPEG: how the coded unit at the start of some bytes reads after earlier units of its stream,
and how a picture is written from what R295 fixes, its motion vectors and the encoder's other choices. What is written conforms (R315):
it reads as the picture that was coded. -/
structure Codec where
  read     : (codec : Nat) → (earlier : List (List Byte)) → List Byte → CodedUnit
  write    : Coding → (vectors : List (List (Int × Int))) → (choices : List Nat) → (earlier : List (List Byte)) → List Byte
  conforms : ∀ c vectors choices earlier, read c.codec earlier (write c vectors choices earlier) =
    { sound := true, bytes := (write c vectors choices earlier).length, frames := [c.frame] }

/-- The fields of a picture as a number, and back. -/
def Frame.code (f : Frame) : Nat :=
  let b (x : Bool) : Int := if x then 1 else 0
  Encodable.encode (([f.width, f.height, f.depth, f.chroma, f.profile, f.level, b f.outside, f.matrix.toNat, b f.full, b f.key, b f.shown,
    b f.again, b f.grain, f.order, f.hintBits, f.refresh.toNat] : List Int), f.refs, f.keep)
def Frame.decode (n : Nat) : Frame :=
  match (Encodable.decode n : Option (List Int × List Int × List Int)) with
  | some ([w, h, d, c, p, l, o, m, u, k, s, a, g, r, i, x], refs, keep) =>
    { width := w.toNat, height := h.toNat, depth := d.toNat, chroma := c.toNat, profile := p.toNat, level := l.toNat, outside := o == 1
      matrix := BitVec.ofNat 2 m.toNat, full := u == 1, key := k == 1, shown := s == 1, again := a == 1, grain := g == 1, order := r
      hintBits := i.toNat, refs := refs, refresh := BitVec.ofNat 8 x.toNat, keep := keep }
  | _ => default

theorem Frame.decode_code (f : Frame) : Frame.decode f.code = f := by
  rw [Frame.decode, Frame.code, Encodable.encodek]
  have bit (x : Bool) : ((if x then 1 else 0 : Int) == 1) = x := by cases x <;> rfl
  cases f
  simp [bit]

/-- That codecs with this property exist: one that writes a picture's fields as a length. It is no codec of the module. -/
def Codec.exists_ : Codec where
  read _ _ bs := { sound := true, bytes := bs.length, frames := [Frame.decode bs.length] }
  write c _ _ _ := List.replicate c.frame.code 0
  conforms c _ _ _ := by simp [Frame.decode_code]

/-- The codecs: a free value, of which nothing is known but that what is written conforms. -/
opaque someCodec : Option Codec
def codec : Codec := someCodec.getD Codec.exists_

/-- Sample (y, x) of a plane of a picture of the newest unit as the standard reconstructs it, given the bytes of every unit, newest
first, and the samples and motion data of the pictures that stand for its references. -/
opaque decodedSample : (codec : Nat) → (units : List (List Byte)) → (frame : Nat) → 
  (refs : List ((Nat → Nat → Nat → Nat) × List Nat)) → (plane y x : Nat) → Nat

/-- Motion data that later pictures take from that picture; the empty list stands for zero motion. -/
opaque motionData : (codec : Nat) → (units : List (List Byte)) → (frame : Nat) → (motion : List (List Nat)) → List Nat

/-- Does that sample lie in a tile, slice or restart interval that is concealed (R308)? -/
opaque concealed : (codec : Nat) → (units : List (List Byte)) → (frame plane y x : Nat) → Bool

/-- Tiles, slices or restart intervals of that picture that are concealed (R308). -/
opaque badUnits : (codec : Nat) → (units : List (List Byte)) → (frame : Nat) → Nat

/-- The sample with film grain, from the sample as it is stored (R293). -/
opaque filmGrain : (codec : Nat) → (units : List (List Byte)) → (frame plane y x stored : Nat) → Nat

/-- What an encoder revision puts into the headers where R295 leaves it open: order values, reference slots, the level. -/
opaque encodedFrame : (rev : BitVec 16) → (spec : List Byte) → (earlier : List (List Byte)) → Frame

/-- Vectors of a 64 × 64 block in quarter samples, rows first, by its luma samples and the window of one reference (R313, R315). -/
opaque chosenVectors : (rev : BitVec 16) → (spec : List Byte) → (q : Nat) → (block : Nat → Nat → Nat) → (window : Int → Int → Nat) →
  List (Int × Int)

/-- Every other choice of an encoder revision for a picture, after earlier pictures of its stream (R315). -/
opaque choices : (rev : BitVec 16) → (spec : List Byte) → (earlier : List (List Byte)) → (picture : List Byte) → (q : Nat) → List Nat

end Sys2Proof.Config
end

