-- ==== Sys2Proof/Machine/State.lean ====
section
/-! DEFINITION. Everything the module holds, as plain data, and its state after reset. -/
namespace Sys2Proof.Machine

/-! ## Why a step can stop -/

/-- A machine fault. The module reports every error it finds in a completion entry, a status register, a notice or the
fault log and goes on, so no step of this model ends in a fault; the one constructor is never raised. Safe. -/
inductive Fault where
  /-- Raised by no meaning. Safe. -/
  | none
  deriving DecidableEq, Repr

/-- Why a command has no meaning. -/
inductive Refusal where
  /-- Raised by the dispatcher for a row that has no meaning in this model. Safe. -/
  | notModelled (mnemonic : String)
  deriving DecidableEq, Repr

/-! ## Tables: sparse data by index -/

/-- Sparse data by index: index and value pairs in rising order of index, none equal to what an unlisted index reads
as. What an unlisted index holds is said by each accessor. -/
abbrev Table (α : Type) := List (Nat × α)

/-- Bytes by address, sparse, canonical as `Table` says; an unlisted address reads as 0 (R249, R91). -/
abbrev Memory := List Host.Cell

/-! ## Small enumerations -/

/-- Partition shape (R6), coded as MODULE_CFG.SHAPE (R464). -/
inductive Shape where | whole | halves | quarters
  deriving DecidableEq, Repr

/-- Partition state (R247), coded as PART_CTRL.STATE. -/
inductive PState where | unassigned | zeroing | active | releasing
  deriving DecidableEq, Repr

/-- Submission ring state (R342). -/
inductive SqState where | disabled | running | halted | stopping
  deriving DecidableEq, Repr

/-- Completion ring state (R351). -/
inductive CqState where | disabled | running | faulted
  deriving DecidableEq, Repr

/-- Moderation state (R356). -/
inductive ModState where | armed | pending | fired
  deriving DecidableEq, Repr

/-- Completion status (R366). -/
inductive Status where
  | ok | okFlags | replaced | malformed | range | access | state | capacity | timeout | aborted | broken
  | dataError | refMissing | stale | deviceError
  deriving DecidableEq, Repr

/-- Module power state (R437). -/
inductive PowerState where | off | standby | start | run
  deriving DecidableEq, Repr

/-- Physical stone state (R395); VACANT belongs to logical stones. -/
inductive StoneState where | active | spare | retired | suspect | quarantined | testing | restorable
  deriving DecidableEq, Repr

/-- Set state (R96). -/
inductive SetState where | empty | binding | waiting | ready | running | stopping
  deriving DecidableEq, Repr

/-- Accumulation group state (R93). -/
inductive GroupState where | closed | opened | draining
  deriving DecidableEq, Repr

/-- Grist entry state (R263). -/
inductive GristState where | free | queued | admitted | leaving
  deriving DecidableEq, Repr

/-- Link state (R385 LSTATE). -/
inductive LState where | idle | sync | run | halt
  deriving DecidableEq, Repr

/-- TAP instruction (R427). -/
inductive TapInstr where | bypass | idcode | sample | extest
  deriving DecidableEq, Repr

/-- Programming state of FW_CTRL (R457). -/
inductive FwState where | idle | checking | erasing | programming | verifying | done | failed
  deriving DecidableEq, Repr

/-- State of a granule's stored code word (R388 to R390): the data as ECC finds it at the next read. A granule is 8 bytes in an
SRAM store and 32 bytes in HBM and the stacked tier. -/
inductive EccState where | correctable | uncorrectable | poisoned
  deriving DecidableEq, Repr

/-- How the host answers a read (R337). -/
inductive HostResp where | unsupported | abort | poisoned | timeout
  deriving DecidableEq, Repr

/-! ## Weir marks, rings and functions -/

/-- WEIR_LEVEL and WEIR_STAT of one mark (R189). -/
structure Weir where
  /-- R189, WEIR_LEVEL.HIGH. -/
  high    : BitVec 16 := 0xFFFF
  /-- R189, WEIR_LEVEL.LOW. -/
  low     : BitVec 16 := 0xFFFE
  /-- R189, WEIR_STAT.LIVE. -/
  live    : Bool := false
  /-- R189, WEIR_STAT.CROSSED. -/
  crossed : Bool := false
  /-- R189, WEIR_STAT.NOTIFY. -/
  notify  : Bool := false
  /-- R189, WEIR_STAT.FALLING. -/
  falling : Bool := false
  /-- R189, WEIR_STAT.COUNT. -/
  count   : BitVec 16 := 0
  deriving DecidableEq, Repr

/-- The five sticky flags of a command (R71, R72). -/
structure Flags where
  /-- R72, INV. -/
  inv : Bool := false
  /-- R72, OVF. -/
  ovf : Bool := false
  /-- R72, UFL. -/
  ufl : Bool := false
  /-- R72, INX. -/
  inx : Bool := false
  /-- R72, SAT. -/
  sat : Bool := false
  deriving DecidableEq, Repr

/-- Exponent histogram record of one output tensor while it is built (R74 to R77). -/
structure Hist where
  /-- R77, TENSOR. -/
  tensor   : Nat := 0
  /-- R77, FORMAT. -/
  format   : BitVec 8 := 0
  /-- R77, FLAGS. -/
  flags    : Flags := {}
  /-- R77, STAGE. -/
  stage    : BitVec 16 := 0xFFFF
  /-- R77, ELEMENTS. -/
  elements : BitVec 64 := 0
  /-- R77, BIN[i]. -/
  bins     : Table (BitVec 32) := []
  /-- R77, ZERO. -/
  zero     : BitVec 32 := 0
  /-- R77, FLUSHED. -/
  flushed  : BitVec 32 := 0
  /-- R77, INF. -/
  infs     : BitVec 32 := 0
  /-- R77, NAN. -/
  nans     : BitVec 32 := 0
  deriving DecidableEq, Repr

/-- Row-event record of one SOFTMAX while it is built (R150). -/
structure RowEvents where
  /-- R150, EMPTY_ROWS. -/
  emptyRows  : BitVec 32 := 0
  /-- R150, SAT_INPUTS. -/
  satInputs  : BitVec 32 := 0
  /-- R150, FIRST_EMPTY. -/
  firstEmpty : BitVec 32 := 0xFFFF_FFFF
  deriving DecidableEq, Repr

/-- A fault as a fault record reports it (R354). -/
structure FaultRec where
  /-- R354, CAUSE. -/
  cause   : BitVec 8 := 0
  /-- R354, ADDRESS. -/
  address : BitVec 48 := 0
  /-- R354, UNIT. -/
  unit    : BitVec 8 := 0
  /-- R354, ENGINE. -/
  engine  : BitVec 8 := 0
  deriving DecidableEq, Repr

/-- A ring collective of this member while it runs (R235 to R238). -/
structure Collective where
  /-- R235, kind: 0 ALL_REDUCE, 1 REDUCE_SCATTER, 2 ALL_GATHER. -/
  kind     : Nat := 0
  ring     : Nat := 0
  tag      : BitVec 16 := 0
  len      : Nat := 0
  fmt      : BitVec 8 := 0
  src      : BitVec 48 := 0
  dst      : BitVec 48 := 0
  /-- R187, house whose open-tag count its tag uses. -/
  house    : Nat := 0
  /-- R227, this member's position. -/
  pos      : Nat := 0
  /-- R235, members. -/
  n        : Nat := 1
  /-- Bytes of final results that this member has written to its destination. -/
  written  : Nat := 0
  /-- Bytes of running sums that this member has added to and passed on. -/
  summed   : Nat := 0
  /-- R237, pieces of final results whose chunk is not whole yet, by offset. -/
  parts    : List (Nat × List Byte) := []
  deriving DecidableEq, Repr

/-- One stage set of a running plan: the physical stone and set index that hold it. -/
structure StageRef where
  stone : Nat := 0
  set   : Nat := 0
  deriving DecidableEq, Repr

/-- A running RUN_PLAN or RESTORE (R195, R209). -/
structure PlanRun where
  plan     : BitVec 48 := 0
  /-- R192, ROUNDS. -/
  rounds   : Nat := 0
  stages   : List StageRef := []
  /-- R261, PLAN_CHECK as read at binding. -/
  check    : Word32 := 0
  /-- R215, a stage pawl was granted BROKEN. -/
  broken   : Bool := false
  /-- R209, flags of the stages that have finished. -/
  flags    : Flags := {}
  /-- Numbers of the stages that have finished. -/
  finished : List Nat := []
  /-- R209, histogram records of the finished stages, each with the row-event record that follows it (R150). -/
  hists    : List (Hist × Option RowEvents) := []
  deriving DecidableEq, Repr

/-- How the sample of a batch stands: not begun; its first read issued under a deadline; waiting for reference buffers; in
Race with its buffers taken (R287, R316). -/
inductive SamplePhase where | idle | issued | waiting | decoding
  deriving DecidableEq, Repr

/-- A Hopper batch that has started (R282 to R290). -/
structure HopperJob where
  house     : Nat := 0
  stream    : Nat := 0
  close     : Bool := false
  /-- R272, cursor of the batch: epoch and position. -/
  epoch     : Word32 := 0
  pos       : Nat := 0
  phase     : SamplePhase := .idle
  slot      : Nat := 0
  /-- R288, SKIPS since the previous slot. -/
  skips     : Nat := 0
  /-- R289, skips of the batch. -/
  total     : Nat := 0
  index     : Nat := 0
  bounds    : Nat := 0
  crc       : Nat := 0
  decode    : Nat := 0
  deadline  : Nat := 0
  truncated : Nat := 0
  imgHist   : Hist := {}
  condHist  : Hist := { tensor := 1 }
  flags     : Flags := {}
  /-- R390, destroyed data have reached the batch. -/
  device    : Bool := false
  deriving DecidableEq, Repr

/-- What a started command that has not completed is waiting for. -/
inductive WaitKind where
  | none                                             -- fetched: its opcode step has not run
  | word (last : Word64)                             -- WAIT, with the last value read (R377)
  | pawl (id : Nat)                                  -- PAWL_TAKE in the queue of a pawl (R212)
  | fence (on : List (Nat × Word32))                 -- FENCE: rings and sequence numbers awaited (R378)
  | staging (house : Nat) (shape : List Word64)      -- COPY that waits for its house's staging, its shape record read (R177)
  | tag                                              -- COMBINE that waits for an open tag (R187)
  | combine (next : Nat)                             -- COMBINE: next chunk of the partial to send (R182)
  | collective (c : Collective)                      -- ring collective (R235)
  /-- Sent whole: after the last ACK it writes these side records and ends with this status (R74, R234). -/
  | acks (st : Status) (recs : List (Nat × List Byte))
  | plan (p : PlanRun)                               -- RUN_PLAN or RESTORE (R209)
  | snapshot (sq : Nat) (seq : Word32)               -- SNAPSHOT whose instance's sets stop (R100, R259)
  | hopper (j : HopperJob)                           -- HOPPER_BATCH that waits for reference buffers (R316)
  | link                                             -- LINK_SCHEDULE in SYNC (R228)
  | linkHalt                                         -- LINK_SCHEDULE with HALT before the halt boundary (R386)
  deriving DecidableEq, Repr

/-- A descriptor: eight 64-bit words (R345). -/
abbrev Desc := List Word64

/-- The command running on a submission ring (R344). -/
structure Running where
  /-- R344, sequence number. -/
  seq      : Word32 := 0
  /-- R345, the 64 descriptor bytes as eight little-endian words. -/
  desc     : Desc := []
  wait     : WaitKind := .none
  /-- Status and RESULT once decided; the entry then waits for room (R353). -/
  done     : Option (Status × Word32) := Option.none
  /-- R353, place of the command in the order in which commands of the module have completed. -/
  doneAt   : Nat := 0
  /-- R350, the completion halts the ring whatever HALT_ON_ERROR says. -/
  forceHalt : Bool := false
  /-- R349, the ring was aborted while the command ran. -/
  aborted  : Bool := false
  flags    : Flags := {}
  /-- R354, 16-byte units written to the side buffer. -/
  sideUsed : Nat := 0
  /-- R354, SIDE_OVF. -/
  sideOvf  : Bool := false
  /-- R354, the status with which a side-buffer write faulted: no further record. -/
  sideEnd  : Option Status := Option.none
  /-- R322, a stream record and the counter that is written to it when the command completes. -/
  counter  : Option (BitVec 48 × BitVec 128) := Option.none
  /-- R177, the house whose copy staging this command holds, and the 64 KiB units it holds. -/
  staged   : Option (Nat × Nat) := Option.none
  deriving DecidableEq, Repr

/-- One submission ring (R340 to R349). -/
structure SubRing where
  /-- R340, SQ_BASE.BASE [47:12]. -/
  base       : BitVec 36 := 0
  /-- R341, ENABLE. -/
  enable     : Bool := false
  /-- R341, HALT_ON_ERROR. -/
  haltOnErr  : Bool := false
  /-- R341, CLASS: true is Overshot. -/
  overshot   : Bool := false
  /-- R341, LOG2_SIZE. -/
  log2       : BitVec 5 := 0
  /-- R341, CQ. -/
  cq         : BitVec 4 := 0
  /-- R342, SEQ_NEXT. -/
  seqNext    : Word32 := 0
  /-- R342, STATE. -/
  state      : SqState := .disabled
  /-- R342, DB_ERR. -/
  dbErr      : Bool := false
  /-- R342, HALT_STATUS. -/
  haltStatus : BitVec 8 := 0
  /-- R342, HEAD. -/
  head       : BitVec 16 := 0
  /-- R342, TAIL. -/
  tail       : BitVec 16 := 0
  /-- R344, the command the ring runs. -/
  running    : Option Running := none
  /-- R339, R358, weir mark of the ring. -/
  weir       : Weir := {}
  deriving DecidableEq, Repr

/-- One completion ring (R340, R351 to R356). -/
structure CompRing where
  /-- R340, CQ_BASE.BASE [47:12]. -/
  base    : BitVec 36 := 0
  /-- R351, TIMER in µs. -/
  timer   : BitVec 10 := 0
  /-- R351, ENABLE. -/
  enable  : Bool := false
  /-- R351, LOG2_SIZE. -/
  log2    : BitVec 5 := 0
  /-- R351, COUNT_TH; 0 means 256. -/
  countTh : BitVec 8 := 1
  /-- R351, VECTOR. -/
  vector  : BitVec 4 := 0
  /-- R351, HEAD. -/
  head    : BitVec 16 := 0
  /-- R351, STATE. -/
  state   : CqState := .disabled
  /-- R351, MOD. -/
  mod     : ModState := .armed
  /-- R356, entries counted in PENDING. -/
  count   : Nat := 0
  /-- R351, DB_ERR. -/
  dbErr   : Bool := false
  /-- R351, TAIL. -/
  tail    : BitVec 16 := 0
  /-- R351, CQ_LOST.SEQ. -/
  lostSeq : Word32 := 0
  /-- R351, CQ_LOST.VALID. -/
  lost    : Bool := false
  /-- R351, CQ_LOST.SQ. -/
  lostSq  : BitVec 4 := 0
  /-- R339, R358, weir mark of the ring. -/
  weir    : Weir := {}
  deriving DecidableEq, Repr

/-- One MSI-X table entry (R335, R355), as PCIe lays it out: address, data, and the mask bit, set at reset. -/
structure Vector32 where
  addr   : Word64 := 0
  data   : Word32 := 0
  masked : Bool := true
  deriving DecidableEq, Repr

/-- NOTICE_CAUSE and NOTICE_EN bits (R357). -/
structure Notices where
  weir      : Bool := false
  sqHalt    : Bool := false
  doorbell  : Bool := false
  cqFault   : Bool := false
  partition : Bool := false
  link      : Bool := false
  fault     : Bool := false
  deriving DecidableEq, Repr

/-- What one function holds in its page set and configuration space (R335, R339, R355). -/
structure Func where
  /-- R339, submission rings; unlisted rings stand as after reset. -/
  sqs       : Table SubRing := []
  /-- R339, completion rings. -/
  cqs       : Table CompRing := []
  /-- R357, FUNC_STAT.WREJ. -/
  wrej      : Bool := false
  /-- R357, NOTICE_CAUSE. -/
  cause     : Notices := {}
  /-- R357, NOTICE_EN. -/
  causeEn   : Notices := {}
  /-- R336, MEMWIN_BASE.BASE [43:32]; PF0 only. -/
  memwin    : BitVec 12 := 0
  /-- R355, MSI-X table. -/
  msix      : Table Vector32 := []
  /-- R355, pending bits of vectors 0 to 16. -/
  pending   : BitVec 17 := 0
  /-- R355, MSI-X Enable. -/
  msixEn    : Bool := false
  /-- R355, Function Mask. -/
  fnMask    : Bool := false
  /-- R437, the function is in D3hot. -/
  d3hot     : Bool := false
  /-- R359, a function-level reset is in progress. -/
  resetting : Bool := false
  /-- R332, Max Payload Size and Max Read Request Size as PCIe codes them, and AER Uncorrectable Error Status. -/
  maxPayload : BitVec 3 := 0
  maxRead    : BitVec 3 := 2
  aer        : Word32 := 0
  deriving DecidableEq, Repr

/-! ## Setup registers -/

/-- PART_CTRL, PART_CARVE, PART_POOL of one partition (R248, R251, R265), and its Grist unit. -/
structure Partition where
  /-- R248, STATE. -/
  state       : PState := .unassigned
  /-- R248, MEM_READY. -/
  memReady    : Bool := false
  /-- R248, RESERVE. -/
  reserve     : BitVec 7 := 48
  /-- R248, QUANTUM. -/
  quantum     : BitVec 14 := 128
  /-- R469, PAWL_COUNT. -/
  pawlCount   : BitVec 11 := 0
  /-- R469, GRIST_COUNT. -/
  gristCount  : BitVec 13 := 0
  /-- R265, LATENT_SLOTS. -/
  latentSlots : BitVec 12 := 0
  /-- R265, SLOT_SIZE. -/
  slotSize    : BitVec 4 := 0
  /-- R265, POOL_BASE [43:16]. -/
  poolBase    : BitVec 28 := 0
  /-- R188, R189, latent-pool mark. -/
  poolWeir    : Weir := {}
  /-- R188, R189, Grist-table mark. -/
  gristWeir   : Weir := {}
  /-- R269, partition step serial. -/
  serial      : Word32 := 0
  /-- R267, join sequence counter. -/
  joinSeq     : Word32 := 0
  /-- R269, previous list of each function, as entry numbers. -/
  prevList    : Table (List Nat) := []
  deriving DecidableEq, Repr

/-- FUNC_BIND and MMU_ROOT of one function (R250, R470). -/
structure Binding where
  /-- R250, VALID. -/
  valid     : Bool := false
  /-- R250, OVERSHOT_OK. -/
  overOk    : Bool := false
  /-- R250, PARTITION. -/
  part      : BitVec 2 := 0
  /-- R250, GRIST_MAX. -/
  gristMax  : BitVec 12 := 0
  /-- R250, KILL, set until the kill ends. -/
  kill      : Bool := false
  /-- R470, MMU_ROOT.ROOT [43:12]. -/
  root      : BitVec 32 := 0
  /-- R470, MMU_ROOT.VALID. -/
  rootValid : Bool := false
  deriving DecidableEq, Repr

/-- POND_SPLIT, RACE_POOL and the engines' marks of one house (R472, R473, R188). -/
structure HouseRegs where
  /-- R472, CACHE_OFF. -/
  cacheOff   : BitVec 16 := 0
  /-- R472, MEDIA_STEPS. -/
  media      : BitVec 5 := 2
  /-- R472, SCRATCH_STEPS. -/
  scratch    : BitVec 5 := 0
  /-- R471, the split in force since the last COMMIT: media steps and scratch steps. -/
  mediaOn    : BitVec 5 := 2
  /-- R471, scratch steps in force since the last COMMIT. -/
  scratchOn  : BitVec 5 := 0
  /-- R473, BUF_MIB. -/
  bufMib     : BitVec 8 := 0
  /-- R473, BASE [43:21]. -/
  poolBase   : BitVec 23 := 0
  /-- R471, BUF_MIB in force since the last COMMIT. -/
  bufMibOn   : BitVec 8 := 0
  /-- R471, BASE in force since the last COMMIT. -/
  poolBaseOn : BitVec 23 := 0
  /-- R173, 64 KiB units of the media carve-out claimed. -/
  mediaUsed  : Nat := 0
  /-- R182, combine slots held. -/
  slotsUsed  : Nat := 0
  /-- R182, combine slots held for Overshot commands. -/
  slotsOver  : Nat := 0
  /-- R177, 64 KiB units of copy staging held; 0 when no copy is staged. -/
  staged     : Nat := 0
  /-- R316, reference buffers held by Hopper video samples. -/
  hopperBufs : Nat := 0
  /-- R189, Pond-cache mark. -/
  pondWeir   : Weir := {}
  /-- R189, media carve-out mark. -/
  mediaWeir  : Weir := {}
  /-- R189, combine-slot mark. -/
  slotWeir   : Weir := {}
  /-- R189, copy-staging mark. -/
  stageWeir  : Weir := {}
  deriving DecidableEq, Repr

/-- GPIO_ASSIGN of one pin (R429) and what happens on the pin. -/
structure Gpio where
  /-- R429, LEVEL as the carrier drives or pulls it: 0 until the carrier has shown one. -/
  extern  : Bool := false
  /-- R429, OUT_LOW. -/
  outLow  : Bool := false
  /-- R429, DEBUG_TRIG. -/
  debug   : Bool := false
  /-- R429, TSYNC_FB. -/
  tsync   : Bool := false
  /-- R429, GENERAL_OUT. -/
  genOut  : Bool := false
  /-- R429, GENERAL_IN. -/
  genIn   : Bool := false
  /-- R432, a DEBUG_TRIG pulse is running. -/
  pulse   : Bool := false
  deriving DecidableEq, Repr

/-! ## Grist, pawls, combine tags -/

/-- One Grist entry (R263). -/
structure GristEntry where
  /-- R263, SLOT; 0xFFF is none. -/
  slot    : BitVec 12 := 0xFFF
  /-- R263, STEP. -/
  step    : BitVec 16 := 0
  /-- R263, TOTAL. -/
  total   : BitVec 16 := 0
  /-- R263, LAST. -/
  last    : Bool := false
  /-- R263, CLASS. -/
  overshot : Bool := false
  /-- R263, FIRST. -/
  first   : Bool := false
  /-- R263, STATE. -/
  state   : GristState := .free
  /-- R263, SEED. -/
  seed    : Word64 := 0
  /-- R263, FUNCTION. -/
  owner   : BitVec 8 := 0
  /-- R263, COND0. -/
  cond0   : BitVec 48 := 0
  /-- R263, COND1. -/
  cond1   : BitVec 48 := 0
  /-- R263, USER. -/
  user    : Word64 := 0
  /-- R263, JOIN_SEQ. -/
  joinSeq : Word32 := 0
  /-- R263, LISTED. -/
  listed  : Word32 := 0
  deriving DecidableEq, Repr

/-- Who holds or waits for a pawl (R211): a ring of a function, or a set of a physical stone. -/
inductive Taker where
  | ring (f : Nat) (r : Nat)
  | set (stone : Nat) (i : Nat)
  deriving DecidableEq, Repr

/-- One pawl (R211 to R214). -/
structure Pawl where
  /-- R211, HELD by, or FREE. -/
  holder : Option Taker := none
  /-- R211, BROKEN. -/
  broken : Bool := false
  /-- R213, waiting takers, oldest first. -/
  queue  : List Taker := []
  deriving DecidableEq, Repr

/-- A contributor of a combine tag (R183). -/
structure Contributor where
  f       : Nat := 0
  r       : Nat := 0
  seq     : Word32 := 0
  index   : Nat := 0
  /-- R184, chunks of the partial added. -/
  added   : Nat := 0
  /-- R234, contributor of another module, by module ID and packet SEQ. -/
  remote  : Option (Nat × Word32) := none
  deriving DecidableEq, Repr

/-- A chunk held in a combine slot (R181, R182). -/
structure HeldChunk where
  chunk    : Nat := 0
  index    : Nat := 0
  house    : Nat := 0
  overshot : Bool := false
  data     : List Byte := []
  /-- R234, source module and SEQ of the packet that brought it. -/
  packet   : Option (Nat × Word32) := none
  /-- R388, stored error of its slot. -/
  ecc      : Option EccState := none
  deriving DecidableEq, Repr

/-- Where a chunk of a COMBINE's destination lies (R161, R183): a device address of this module and whether its page bypasses the
Pond cache, or another module and the device address there. -/
inductive ChunkPlace where
  | here (pa : Nat) (noCache : Bool)
  | away (m pa : Nat)
  deriving DecidableEq, Repr

/-- An open combine tag of a partition (R180 to R187). -/
structure CombineTag where
  /-- R183, destination as the device physical address of its base, and the function whose tables translate it. -/
  pa       : Nat := 0
  fn       : Nat := 0
  dst      : BitVec 48 := 0
  /-- R183, where each chunk of the destination lies, as the first COMBINE found it; none where its walk faulted. -/
  places   : List (Option ChunkPlace) := []
  len      : Nat := 0
  fmt      : BitVec 8 := 0
  count    : Nat := 0
  arrival  : Bool := false
  init     : Bool := false
  /-- R234, a packet opened the tag: chunks are named by their 1 KiB of device memory, else by their number. -/
  byPlace  : Bool := false
  /-- R187, houses whose open-tag count this tag uses. -/
  houses   : List Nat := []
  parts    : List Contributor := []
  /-- R184, indices of contributors that have completed. -/
  finished : List Nat := []
  /-- R181, expected index of each chunk; in arrival mode the number of additions. -/
  expected : Table Nat := []
  /-- R182, held chunks. -/
  held     : List HeldChunk := []
  /-- R185, the tag is broken. -/
  broken   : Bool := false
  deriving DecidableEq, Repr

/-! ## Stones -/

/-- A level word of a loop table (R109). -/
structure Level where
  dim   : Nat := 0
  step  : Nat := 0
  count : Nat := 1
  deriving DecidableEq, Repr

/-- A ring entry of a layer block (R112, R116). -/
structure RingEntry where
  comp  : Bool := false
  group : Nat := 0
  slot  : Nat := 0
  deriving DecidableEq, Repr

/-- A buffer word of a layer block (R112, offsets 0x30, 0x40, 0x48). -/
structure Buf where
  pitch  : Nat := 0
  stride : Nat := 0
  base   : Nat := 0
  deriving DecidableEq, Repr

/-- A layer block (R112). -/
structure Layer where
  fmtOut     : BitVec 8 := 0
  fmtBias    : BitVec 8 := 0
  fmtB       : BitVec 8 := 0
  fmtA       : BitVec 8 := 0
  readout    : Nat := 0
  accLevel   : Nat := 0
  ringLast   : Nat := 0
  outDest    : Nat := 0
  spout      : Nat := 0
  conv       : Bool := false
  biasFull   : Bool := false
  tk         : Nat := 0
  tn         : Nat := 0
  tm         : Nat := 0
  tox        : Nat := 0
  extK       : Nat := 0
  extN       : Nat := 0
  extM       : Nat := 0
  extOy      : Nat := 0
  extOx      : Nat := 0
  ih         : Nat := 0
  iw         : Nat := 0
  ring       : List RingEntry := []
  a          : Buf := {}
  b          : Buf := {}
  bias       : Buf := {}
  aPlane     : Nat := 0
  padT       : Nat := 0
  padL       : Nat := 0
  kh         : Nat := 0
  kw         : Nat := 0
  sy         : Nat := 0
  sx         : Nat := 0
  dy         : Nat := 0
  dx         : Nat := 0
  padValue   : Word32 := 0
  outBase    : Nat := 0
  outPlane   : Nat := 0
  outRow     : Nat := 0
  outScale   : Nat := 0
  gPitch     : Nat := 0
  deriving DecidableEq, Repr

/-- A loop table (R107 to R112). -/
structure LoopTable where
  stage     : BitVec 16 := 0
  tileEntry : Nat := 0x3F
  levels    : List Level := []
  layers    : List Layer := []
  deriving DecidableEq, Repr

/-- A readout record (R132). -/
structure ReadoutRec where
  func      : Nat := 0
  resFmt    : BitVec 8 := 0
  scaleMode : Nat := 0
  resAfter  : Bool := false
  scaleBase : Nat := 0
  resBase   : Nat := 0
  resPlane  : Nat := 0
  resRow    : Nat := 0
  deriving DecidableEq, Repr

/-- A vane operation block (R143). -/
structure VaneBlock where
  vop       : Nat := 0
  fmtOut    : BitVec 8 := 0
  fmtIn     : BitVec 8 := 0
  fmtAux    : BitVec 8 := 0
  readout   : Nat := 0
  inMem     : Bool := false
  outDest   : Nat := 0
  spout     : Nat := 0
  column    : Bool := false
  biasEn    : Bool := false
  inBase    : Nat := 0
  outBase   : Nat := 0
  auxBase   : Nat := 0
  rows      : Nat := 0
  rowLen    : Nat := 0
  inPitch   : Nat := 0
  outPitch  : Nat := 0
  ih        : Nat := 0
  iw        : Nat := 0
  oh        : Nat := 0
  ow        : Nat := 0
  conv      : Layer := {}
  cIn       : Nat := 0
  cOut      : Nat := 0
  groups    : Nat := 0
  gbShare   : Nat := 0
  w48hi     : Nat := 0
  w48lo     : Nat := 0
  aux2Base  : Nat := 0
  const     : Word32 := 0
  imgPitch  : Nat := 0
  deriving DecidableEq, Repr

/-- A chute fill record (R197). -/
structure FillRec where
  transpose : Bool := false
  esize     : Nat := 1
  src       : Nat := 0
  dst       : Nat := 0
  srcPitch  : Nat := 0
  rows      : Nat := 0
  rowBytes  : Nat := 0
  dstPitch  : Nat := 0
  deriving DecidableEq, Repr

/-- What a phase runs (R193 KIND). -/
inductive PhaseBody where
  | loop (t : LoopTable)
  | vane (b : VaneBlock)
  deriving DecidableEq, Repr

/-- A phase as read at binding (R194). -/
structure Phase where
  body       : PhaseBody := .loop {}
  fills      : List FillRec := []
  roundWrap  : Nat := 0
  roundPitch : Nat := 0
  deriving DecidableEq, Repr

/-- An inlet record (R205). -/
structure Inlet where
  port       : Nat := 0
  feedback   : Bool := false
  transpose  : Bool := false
  esize      : Nat := 1
  waitStage  : Nat := 0
  src        : Nat := 0
  lag        : Nat := 0
  roundPitch : Nat := 0
  roundWrap  : Nat := 0
  rows       : Nat := 0
  rowBytes   : Nat := 0
  segPitch   : Nat := 0
  srcPitch   : Nat := 0
  deriving DecidableEq, Repr

/-- Spout target and inbound port fields of a stage record (R193). -/
structure SpoutTarget where
  valid : Bool := false
  stage : Nat := 0
  port  : Nat := 0
  deriving DecidableEq, Repr

/-- Inbound port of a stage record (R193). -/
structure PortRec where
  phase   : Nat := 0
  operand : Nat := 0
  segs    : Nat := 0
  deriving DecidableEq, Repr

/-- A stage record and every list it names, as read at binding (R192, R193). -/
structure StagePlan where
  stone    : Nat := 0
  vane     : Bool := false
  spouts   : Nat := 0
  tables   : Nat := 0
  groups   : Nat := 0
  accSlots : Nat := 0
  binUnits : Nat := 1
  pawl     : Nat := 0
  pawlEn   : Bool := false
  phases   : List Phase := []
  readouts : List ReadoutRec := []
  inlets   : List Inlet := []
  targets  : List SpoutTarget := []
  ports    : List PortRec := []
  clipLen  : Nat := 0
  overlap  : Nat := 0
  deriving DecidableEq, Repr

/-- A programmable governor table (R141). -/
structure GovTable where
  xLo      : Word32 := 0
  invStep  : Word32 := 0
  lowMode  : Bool := false
  highMode : Bool := false
  value    : List Word32 := []
  slope    : List Word32 := []
  deriving DecidableEq, Repr

/-- Tile origin: coordinates M, N, K, OY, OX, G (R109, R110). -/
structure Origin where
  m  : Nat := 0
  n  : Nat := 0
  k  : Nat := 0
  oy : Nat := 0
  ox : Nat := 0
  g  : Nat := 0
  deriving DecidableEq, Repr

/-- The buffer an operand reads and the origin of the previous tile body (R115). -/
structure Flip where
  buf    : Nat := 0
  origin : Origin := {}
  used   : Bool := false
  /-- R115, the next tile body is the first of a later run and flips whatever its origin. -/
  force  : Bool := false
  deriving DecidableEq, Repr

/-- Loop state of a set (R92): level counters, layer, current pass of the tile body. -/
structure LoopPos where
  /-- R110, counter of levels 0 to 5. -/
  counts : List Nat := [0, 0, 0, 0, 0, 0]
  /-- R110, layer whose body runs. -/
  layer  : Nat := 0
  /-- R113, sub-tile row, sub-tile column, pass. -/
  ms     : Nat := 0
  ns     : Nat := 0
  j      : Nat := 0
  /-- R113, the body has begun: its buffers are chosen and its group is open. -/
  begun  : Bool := false
  /-- R116, place r in the ring of each layer. -/
  ringAt : List Nat := []
  /-- The walk of the phase has ended. -/
  ended  : Bool := false
  deriving DecidableEq, Repr

/-- An accumulation group of a set (R92, R93). -/
structure Group where
  state   : GroupState := .closed
  comp    : Bool := false
  base    : Nat := 0
  layer   : Nat := 0
  phase   : Nat := 0
  round   : Nat := 0
  origin  : Origin := {}
  /-- R115, the bias buffer of the span. -/
  biasBuf : Nat := 0
  /-- R204, fills of the BIAS port and of the RES port begun when the group opened; the last of each serves the group. -/
  biasFill : Nat := 0
  resFill  : Nat := 0
  /-- R93, slots still marked initial. -/
  initial : List Nat := []
  /-- R131, order of closing within the stone. -/
  closed  : Nat := 0
  deriving DecidableEq, Repr

/-- One element of a segment on its way to a consumer (R202): producer coordinates and stored code bits. -/
structure SegElem where
  at_  : Origin := {}
  bits : Word32 := 0
  deriving DecidableEq, Repr

/-- One segment in a spout ring (R201, R204). -/
structure Segment where
  elems  : List SegElem := []
  /-- R30, block scales of an MX producer, by row m and block. -/
  scales : List (Nat × Nat × Byte) := []
  bytes  : Nat := 0
  conv   : Bool := false
  /-- R388, stored error of the ring's granules that hold it. -/
  ecc    : Option EccState := none
  deriving DecidableEq, Repr

/-- Inbound state of one port (R201, R115). Fills are numbered from 0 over the whole command, in the order of their use. -/
structure PortState where
  /-- R201, segments landed in the fill in progress. -/
  landed : Nat := 0
  /-- R115, fills that have landed whole. -/
  fills  : Nat := 0
  /-- R115, fills that the consumer has begun to read. -/
  begun  : Nat := 0
  deriving DecidableEq, Repr

/-- How a set stands with its stage pawl (R215). -/
inductive StagePawl where | none | queued | held | given
  deriving DecidableEq, Repr

/-- A set context (R92). -/
structure SetCtx where
  /-- R96. -/
  state     : SetState := .empty
  /-- R92, owner function, ring and sequence number of its command. -/
  f         : Nat := 0
  r         : Nat := 0
  seq       : Word32 := 0
  /-- R92, service class. -/
  overshot  : Bool := false
  /-- Stage number in the plan. -/
  stage     : Nat := 0
  plan      : StagePlan := {}
  /-- R207, rounds the stage runs. -/
  rounds    : Nat := 1
  /-- R90, bin window offset in bytes within each half. -/
  binOff    : Nat := 0
  /-- R90, accumulator base slot. -/
  accBase   : Nat := 0
  /-- R90, groups of the set. -/
  groups    : List Group := []
  /-- R88, spout areas held, ascending. -/
  areas     : List Nat := []
  /-- R140, pool numbers of its programmable tables. -/
  tables    : List Nat := []
  /-- R196, half marker: true is half 1. -/
  half      : Bool := false
  /-- R196, phase in progress. -/
  phase     : Nat := 0
  /-- R207, round in progress. -/
  round     : Nat := 0
  /-- R198, the phase has been started. -/
  started   : Bool := false
  /-- R198, the fill of the inactive half has ended. -/
  filled    : Bool := false
  /-- R198, place of the set's due fill in the order of its stone's chute; 0 when none is due. -/
  fillDue   : Nat := 0
  /-- R92, loop state. -/
  pos       : LoopPos := {}
  /-- R115, buffer alternation by phase × 64 + layer × 8 + operand. -/
  flips     : Table Flip := []
  /-- R144, next unit of a vane operation. -/
  unit      : Nat := 0
  /-- R204, spout rings of spouts 0 to 3, oldest segment first. -/
  rings     : Table (List Segment) := []
  /-- R193, inbound ports. -/
  inbound   : Table PortState := []
  /-- R92, Damsel counter. -/
  counter   : BitVec 128 := 0
  /-- R92, Damsel key. -/
  key       : Word64 := 0
  /-- R92, flag byte so far. -/
  flags     : Flags := {}
  /-- R92, partial histogram records, by phase × 8 + layer. -/
  hists     : Table Hist := []
  /-- R150, row events of its SOFTMAX phases. -/
  rowEvents : Table RowEvents := []
  /-- R215. -/
  pawl      : StagePawl := .none
  /-- R98, order in which the set became READY. -/
  readyAt   : Nat := 0
  /-- R209, rounds completed. -/
  roundsDone : Nat := 0
  /-- R96, the stage has run every round. -/
  finished  : Bool := false
  deriving DecidableEq, Repr

/-- A physical stone (R78, R395). -/
structure Stone where
  /-- R395, state. -/
  state     : StoneState := .active
  /-- R395, logical stone it carries. -/
  logical   : Option Nat := none
  /-- R401, epoch of its logical ID as the stone last knew it. -/
  epoch     : Word32 := 0
  /-- R402, heard from since it was declared dead. -/
  heard     : Bool := false
  /-- R83, windows of 4,096 stone clocks since the stone left reset. -/
  checkK    : Nat := 0
  /-- R103, activity level in 4,000ths. -/
  level     : Nat := 0
  /-- R103, credit in 4,000ths. -/
  credit    : Nat := 0
  /-- R103, gap clocks in a row. -/
  gap       : Nat := 0
  /-- R84, bin store: byte at half × 3 MiB + offset. -/
  bin       : Memory := []
  /-- R89, accumulator memory: byte at bank × 65,536 + word × 128 + byte. -/
  acc       : Memory := []
  /-- R75, accumulator entries whose last write flushed a non-zero result, by address. -/
  flushed   : Table Bool := []
  /-- R388, stored errors of 8-byte granules: bin-store granules from 0, accumulator granules from 2^20, granules of set context
  i from 2^21 + 128 i, of programmable table n from 2^22 + 512 n. -/
  ecc       : Table EccState := []
  /-- R81, accumulator slot that the last real pass entered. -/
  lastSlot  : Option Nat := none
  /-- R90, set contexts. -/
  sets      : Table SetCtx := []
  /-- R140, programmable tables of the pool. -/
  tables    : Table GovTable := []
  /-- R99, set whose loop state is loaded. -/
  loaded    : Option Nat := none
  /-- R99, a switch is in progress. -/
  switching : Bool := false
  /-- R99, the RUNNING set waits at a tile boundary or has not issued since its last tile. -/
  atBoundary : Bool := true
  /-- R255, stone clocks of Overshot class in this window. -/
  overCount : Nat := 0
  /-- R248, R255, RESERVE in force in this window. -/
  reserve   : BitVec 7 := 48
  /-- R256, the allotment of the RUNNING set has ended. -/
  expired   : Bool := false
  /-- Order counter for READY sets and closed groups of this stone. -/
  order     : Nat := 0
  deriving DecidableEq, Repr

/-- What one section of a snapshot image holds beyond the bytes of its windows (R261): the model's own. -/
structure SavedSet where
  /-- R261, the 1,024 bytes of the context in the image, whose contents are opaque. -/
  code    : List Byte := []
  /-- Logical stone and set index of the section. -/
  logical : Nat := 0
  index   : Nat := 0
  ctx     : SetCtx := {}
  plan    : PlanRun := {}
  /-- R75, flush marks, by address from the start of the accumulator window. -/
  flushed : Table Bool := []
  /-- R140, programmable tables in the order of the set's. -/
  tables  : List GovTable := []
  deriving DecidableEq, Repr, Inhabited

/-! ## Faults and log -/

/-- Event counters of one unit (R392, R405). -/
structure UnitCount where
  /-- R405, WINDOW_EVENTS. -/
  window        : BitVec 16 := 0
  /-- R405, LASTING. -/
  lasting       : Bool := false
  /-- R405, MISMATCHES. -/
  mismatches    : Word32 := 0
  /-- R405, STALE_WRITES. -/
  stale         : Word32 := 0
  /-- R405, CORRECTED. -/
  corrected     : Word32 := 0
  /-- R405, UNCORRECTABLE. -/
  uncorrectable : Word32 := 0
  /-- R405, LAST_TIME. -/
  lastTime      : Word64 := 0
  /-- R407, UNCORRECTABLE records written in this window. -/
  logged        : Nat := 0
  /-- R394, the unit has been declared lasting in this step and its action is still to be taken. -/
  due           : Bool := false
  /-- R394, rows of a DRAM unit that had an event since its declaration. -/
  rows          : List Nat := []
  deriving DecidableEq, Repr

/-- A fault-log record without its check (R407). -/
structure LogRec where
  seq     : Word64 := 0
  time    : Word64 := 0
  turn    : Word64 := 0
  unit    : BitVec 16 := 0
  cls     : BitVec 8 := 0
  kind    : BitVec 8 := 0
  boot    : Word32 := 0
  address : Word64 := 0
  count   : Word32 := 0
  epoch   : Word32 := 0
  lost    : Word32 := 0
  /-- R407, DETAIL bytes from 0x040; the rest are zero. -/
  detail  : List Byte := []
  deriving DecidableEq, Repr

/-- A firmware image slot of the flash (R455, R456). -/
structure FwSlot where
  /-- R455, the slot is fully erased. -/
  erased     : Bool := true
  /-- R456, MAGIC, HEADER_CHECK, LENGTH, BODY_CHECK and GEN_CHECK are correct. -/
  checksOk   : Bool := false
  /-- R456, the key hash matches and SIGNATURE verifies. -/
  keyOk      : Bool := false
  /-- R455, VERSION. -/
  version    : BitVec 16 := 0xFFFF
  /-- R455, GENERATION. -/
  generation : Word32 := 0xFFFF_FFFF
  /-- R455, ATTEMPT. -/
  attempt    : Byte := 0xFF
  /-- R455, CONFIRMED. -/
  confirmed  : Byte := 0xFF
  deriving DecidableEq, Repr

/-- What the Miller keeps in flash of one physical stone (R404). -/
structure KeptStone where
  state   : StoneState := .active
  logical : Option Nat := none
  deriving DecidableEq, Repr

/-- The persistent state of the Miller flash (R404, R454). -/
structure Kept where
  /-- R404, states and map. -/
  stones  : Table KeptStone := []
  /-- R404, epochs of logical stones. -/
  epochs  : Table Word32 := []
  /-- R404, LASTING units, by class × 1,024 + index. -/
  lasting : Table Bool := []
  deriving DecidableEq, Repr

/-! ## Links -/

/-- A schedule image as loaded by LINK_SCHEDULE (R226, R227). -/
structure Schedule where
  /-- R226, SCHED_TAG. -/
  tag        : Word64 := 0
  /-- R226, START_TURN. -/
  startTurn  : Word64 := 0
  /-- R226, START_DELAY. -/
  startDelay : Nat := 0
  /-- R226, ROOT_MODULE. -/
  root       : Nat := 0
  /-- R226, PERIOD. -/
  period     : Nat := 1
  /-- R226, PORT_MASK. -/
  mask       : BitVec 12 := 0
  /-- R226, PEER module ID of each port. -/
  peers      : List Nat := []
  /-- R227, slot map bytes. -/
  slotMap    : List Byte := []
  /-- R227, route entries: port and channel, if VALID. -/
  routes     : List (Option (Nat × Nat)) := []
  /-- R227, rings as member lists. -/
  rings      : List (List Nat) := []
  /-- R227, credit table, by port × 16 + channel. -/
  credits    : List Nat := []
  deriving DecidableEq, Repr

/-- A packet (R233). -/
structure Packet where
  kind    : Nat := 0
  dst     : Nat := 0
  src     : Nat := 0
  tag     : BitVec 16 := 0
  addr    : Nat := 0
  index   : Nat := 0
  countM1 : Nat := 0
  fmt     : BitVec 8 := 0
  init    : Bool := false
  op      : Nat := 0
  ring    : Nat := 0
  seq     : Word32 := 0
  payload : List Byte := []
  deriving DecidableEq, Repr

/-- One direction pair of a channel of a port (R230). -/
structure Chan where
  /-- R230, bytes waiting to be sent. -/
  tx       : List Byte := []
  /-- R230, flits sent since the schedule started. -/
  sent     : Word32 := 0
  /-- R230, CREDIT of the latest peer marker. -/
  credit   : Word32 := 0
  /-- R230, bytes of the channel passed to memory or forwarded since the schedule started. -/
  passed   : Nat := 0
  /-- R232, bytes delivered to the channel and not yet parsed into packets. -/
  rx       : List Byte := []
  /-- Packets for this module whose step has not run. -/
  packets  : List Packet := []
  /-- R240, turns in a row in which the channel held bytes to send and no credit for a slot. -/
  starved  : Nat := 0
  deriving DecidableEq, Repr

/-- Bytes received in one turn (R232): the slot, the lane, and the payload, none while a replay is awaited. -/
structure RxFlit where
  slot    : Nat := 0
  lane    : Nat := 0
  payload : Option (List Byte) := none
  deriving DecidableEq, Repr

/-- A flit this module sends (R218). The payload of an IDLE flit, of which the manual says nothing, is not held. -/
structure TxFlit where
  port    : Nat := 0
  type    : Nat := 0
  /-- R231, the slot in which it goes; SLOT of its header differs only in a replay. -/
  sentIn  : Nat := 0
  slot    : Nat := 0
  lane    : Nat := 0
  turnLo  : Nat := 0
  payload : List Byte := []
  deriving DecidableEq, Repr

/-- One Ubnimus port (R216). -/
structure Port where
  /-- R225, transmitters on: the port is part of a schedule. -/
  on        : Bool := false
  /-- R225, training has completed. -/
  trained   : Bool := false
  /-- R223, one-way latency in ns. -/
  latency   : Nat := 0
  /-- R223, latest skew in units of 83.3 ps. -/
  skew      : BitVec 32 := 0
  /-- R230, channels. -/
  chans     : Table Chan := []
  /-- R232, flits of the present turn, and of the two before it. -/
  rx0       : List RxFlit := []
  rx1       : List RxFlit := []
  rx2       : List RxFlit := []
  /-- R231, data flits sent in the last turn, for replay. -/
  lastTx    : List TxFlit := []
  /-- R231, uncorrectable slots of the present turn, for the next marker: lane and slot. -/
  req       : List (Nat × Nat) := []
  /-- R231, slots that the last marker asked for, and those that the one before it did: lane and slot. -/
  asked     : List (Nat × Nat) := []
  asked1    : List (Nat × Nat) := []
  /-- R231, lanes of the uncorrectable codewords of the present turn. -/
  bad       : List Nat := []
  deriving DecidableEq, Repr

/-- A halt record or failure detection (R220, R242). -/
structure Halt where
  turn   : Word64 := 0
  origin : Nat := 0
  port   : Nat := 0
  reason : BitVec 8 := 0
  deriving DecidableEq, Repr

/-- A packet that awaits its ACK (R234), with the command that sent it. -/
structure Awaited where
  dst : Nat := 0
  seq : Word32 := 0
  f   : Nat := 0
  r   : Nat := 0
  cmd : Word32 := 0
  deriving DecidableEq, Repr

/-- The link engine of the module (R216 to R246). -/
structure Leat where
  /-- R385, LSTATE. -/
  state     : LState := .idle
  /-- R224, turn count. -/
  turn      : Word64 := 0
  sched     : Schedule := {}
  ports     : Table Port := []
  /-- R225, turns since SYNC began. -/
  syncTurns : Nat := 0
  /-- R225, a pulse has been accepted since SYNC began. -/
  synced    : Bool := false
  /-- R222, consecutive turns without an accepted edge. -/
  missed    : Nat := 0
  /-- R222, an edge has been accepted in this turn. -/
  edge      : Bool := false
  /-- R222, TSYNC_IN has shown an edge in this turn, accepted or not. -/
  shown     : Bool := false
  /-- R224, START_TURN has been loaded since SYNC began. -/
  loaded    : Bool := false
  /-- R224, a start pulse has been accepted for the next boundary. -/
  startNext : Bool := false
  /-- R221, glitches counted. -/
  glitches  : Nat := 0
  /-- R241, halt at the next boundary. -/
  haltNext  : Bool := false
  /-- R242, kept halt record. -/
  halt      : Option Halt := none
  /-- R244, this module's own first detection. -/
  own       : Option Halt := none
  /-- R244, turn of the halt boundary. -/
  haltAt    : Word64 := 0
  /-- R233, next SEQ to each destination. -/
  seqs      : Table Word32 := []
  /-- R234, packets awaiting ACK. -/
  awaited   : List Awaited := []
  /-- R234, packets that wait because 4,096 await ACK. -/
  queued    : List (Packet × Awaited) := []
  /-- R228, function ring that runs LINK_SCHEDULE. -/
  cmdRing   : Option Nat := none
  /-- R218, flits sent in the last turn. -/
  out       : List TxFlit := []
  /-- R221, pulse driven on TSYNC_OUT at the last boundary: none, turn or start pulse. -/
  pulse     : Option Bool := none
  /-- R238, tags whose packets are discarded. -/
  dead      : List (BitVec 16) := []
  deriving DecidableEq, Repr

/-! ## Media engines -/

/-- An ingest specification (R273). -/
structure Ingest where
  fmtImg     : BitVec 8 := 0
  fmtCond    : BitVec 8 := 0
  matrix     : Nat := 0
  range      : Nat := 0
  colour     : Nat := 0
  shuffle    : Bool := false
  autoEpoch  : Bool := false
  truncate   : Bool := false
  random     : Bool := false
  bos        : Bool := false
  eos        : Bool := false
  seed       : Word64 := 0
  shardList  : Nat := 0
  n          : Nat := 0
  shards     : Nat := 0
  startPos   : Nat := 0
  deadline   : Nat := 0
  batch      : Nat := 0
  startEpoch : Word32 := 0
  oh         : Nat := 0
  ow         : Nat := 0
  ch         : Nat := 0
  cw         : Nat := 0
  minH       : Nat := 0
  minW       : Nat := 0
  maxH       : Nat := 0
  maxW       : Nat := 0
  stageUnits : Nat := 0
  flipP      : Nat := 0
  frameStride : Nat := 0
  frames     : Nat := 0
  mean       : List Word32 := []
  scale      : List Word32 := []
  captionMax : Nat := 0
  unkId      : Nat := 0
  padId      : Nat := 0
  t          : Nat := 0
  replaceMax : Nat := 0
  eosId      : Nat := 0
  bosId      : Nat := 0
  dict       : Nat := 0
  condElems  : Nat := 0
  outImg     : Nat := 0
  outTok     : Nat := 0
  outCond    : Nat := 0
  outMeta    : Nat := 0
  batchWrap  : Nat := 0
  batchPitch : Nat := 0
  deriving DecidableEq, Repr

/-- One Hopper stream context (R272, R290). -/
structure HopperStream where
  opened    : Bool := false
  owner     : Option Nat := none
  spec      : Ingest := {}
  /-- R272, cursor: epoch and position. -/
  epoch     : Word32 := 0
  pos       : Nat := 0
  /-- R272, batch serial. -/
  serial    : Word32 := 0
  /-- R274, 64 KiB units claimed. -/
  claim     : Nat := 0
  cIndex    : Word32 := 0
  cBounds   : Word32 := 0
  cCrc      : Word32 := 0
  cDecode   : Word32 := 0
  cDeadline : Word32 := 0
  cTrunc    : Word32 := 0
  /-- R275, batches of the stream that wait for it, in arrival order: function, ring and sequence number. -/
  line      : List (Nat × Nat × Word32) := []
  deriving DecidableEq, Repr

/-- A Race stream specification (R297). -/
structure RaceSpec where
  /-- The specification as read. -/
  image     : List Byte := []
  fmt       : BitVec 8 := 0
  codec     : Nat := 0
  encode    : Bool := false
  chroma    : Nat := 0
  tenBit    : Bool := false
  inRgb     : Bool := false
  matrix    : Nat := 0
  fullRange : Bool := false
  refBufs   : Nat := 0
  meRefs    : Nat := 0
  width     : Nat := 0
  height    : Nat := 0
  maxW      : Nat := 0
  maxH      : Nat := 0
  yPitch    : Nat := 0
  cPitch    : Nat := 0
  p1        : Nat := 0
  p2        : Nat := 0
  quality   : Nat := 0
  qStep     : Nat := 0
  gopLen    : Nat := 0
  capWindow : Nat := 0
  capBits   : Nat := 0
  deriving DecidableEq, Repr

/-- One reference buffer of a stream's claim (R306). -/
structure RefBuf where
  marked : Bool := false
  order  : Int := 0
  slots  : BitVec 8 := 0
  /-- R304, the picture it holds: its unit, counted in the order of decoding since START, and its place in the unit. -/
  unit   : Nat := 0
  frame  : Nat := 0
  deriving DecidableEq, Repr

/-- How a picture of a unit is reconstructed: its sample bits, and the pictures, by unit and place, that stand for its references and
for what is concealed; none for mid-grey (R307, R308). -/
structure RacePicture where
  depth   : Nat := 8
  refs    : List (Option (Nat × Nat)) := []
  conceal : Option (Nat × Nat) := none
  /-- The unit shows its one reference again. -/
  again   : Bool := false
  deriving DecidableEq, Repr

/-- A coded unit that a stream decoded or wrote. -/
structure RaceUnit where
  bytes  : List Byte := []
  pics   : List RacePicture := []
  /-- R315, samples of the picture that an encode stream was given. -/
  source : List Byte := []
  deriving DecidableEq, Repr

/-- One Race stream context (R296, R309). -/
structure RaceStream where
  opened     : Bool := false
  owner      : Option Nat := none
  spec       : RaceSpec := {}
  serial     : Nat := 0
  bufs       : List RefBuf := []
  /-- R314, 64 KiB units of the media carve-out claimed. -/
  claim      : Nat := 0
  /-- R311, bits of the written pictures since START, newest first. -/
  bits       : List Nat := []
  /-- R315, coded units decoded or written since START, newest first. -/
  history    : List RaceUnit := []
  cPictures  : Word32 := 0
  cMissing   : Word32 := 0
  cEvict     : Word32 := 0
  cErrUnits  : Word32 := 0
  cCapMiss   : Word32 := 0
  deriving DecidableEq, Repr

/-! ## Power, pins, management ports -/

/-- POWER (R438) without its measured field. -/
structure Power where
  /-- R438, SKIP. -/
  skip      : BitVec 6 := 0
  /-- R438, THERMAL. -/
  thermal   : Bool := false
  /-- R438, CURRENT. -/
  current   : Bool := false
  /-- R438, POWER_LIM. -/
  powerLim  : Bool := false
  /-- R438, FLOOR. -/
  floor     : Bool := false
  /-- R438, POWER_W, the controller's latest reading. -/
  watts     : BitVec 16 := 0
  /-- R438, I_LIMIT. -/
  iLimit    : BitVec 8 := 85
  /-- R438, CAP_W. -/
  capW      : BitVec 16 := 3800
  /-- R424, input current in 10 mA of the latest reading. -/
  amps      : BitVec 16 := 0
  /-- R424, hottest junction in 0.125 °C of the latest reading. -/
  tj        : BitVec 16 := 0
  /-- R424, input voltage in 10 mV. -/
  volts     : BitVec 16 := 0
  deriving DecidableEq, Repr

/-- TAP of the module (R427). -/
structure Tap where
  instr   : TapInstr := .idcode
  /-- R427, the value the selected data register shifts out. -/
  out     : Word32 := 0
  /-- Boundary register: drive values of PWRGOOD, ALERT#, GPIO0 to GPIO3, UART_TX, SMB_CLK and SMB_DAT. -/
  preload : BitVec 9 := 0
  deriving DecidableEq, Repr

/-- FW_SRC, FW_CTRL (R457). -/
structure FwCtrl where
  /-- R457, FW_SRC [43:12]. -/
  src        : BitVec 32 := 0
  /-- R457, PROGRAM. -/
  program    : Bool := false
  /-- R457, STATE. -/
  state      : FwState := .idle
  /-- R457, CAUSE. -/
  cause      : BitVec 4 := 0
  /-- R457, RUNNING_SLOT: true is B. -/
  runningB   : Bool := false
  /-- R457, ROLLED_BACK. -/
  rolledBack : Bool := false
  /-- R457, RUNNING_VERSION. -/
  version    : BitVec 16 := 0
  deriving DecidableEq, Repr

/-- A power-fail marker (R453). -/
structure Marker where
  time      : Word64 := 0
  discarded : BitVec 16 := 0
  deriving DecidableEq, Repr

/-- Everything in flash (R404, R406, R453, R455). -/
structure Flash where
  slotA   : FwSlot := {}
  slotB   : FwSlot := {}
  kept    : Kept := {}
  /-- R406, valid records, newest first. -/
  log     : List LogRec := []
  /-- R407, start-ups since manufacture. -/
  boots   : Word32 := 0
  /-- R453, marker not yet retired. -/
  marker  : Option Marker := none
  deriving DecidableEq, Repr

/-- One MSI-X message sent: function, whose routing ID is the requester ID (R337), vector, and the address and data of the vector's
table entry (R355). Relaxed Ordering is clear (R337). -/
structure Message where
  f    : Nat := 0
  v    : Nat := 0
  addr : Word64 := 0
  data : Word32 := 0
  deriving DecidableEq, Repr

/-- One request to host memory (R337): requester, address, bytes, whether it writes, and whether R337 asks for Relaxed Ordering to
be clear. -/
structure HostReq where
  f      : Nat := 0
  addr   : Nat := 0
  n      : Nat := 0
  write  : Bool := false
  strict : Bool := false
  deriving DecidableEq, Repr

/-! ## The whole module -/

/-- The state of the module and of the host memory and pins it sees. -/
structure State where
  /-- Commands that wait, first in, first out: the model's own. -/
  pending    : List Instr := []
  /-- The model's own count of free values drawn. -/
  freeCount  : Nat := 0
  /-- R384, nanoseconds since module reset. -/
  clockNs    : Nat := 0
  /-- R437, power state. -/
  power      : PowerState := .standby
  /-- R449, power-fail has been detected and the hold-up runs. -/
  holdup     : Bool := false
  /-- R433, the 48 V input is at its turn-on level. -/
  input      : Bool := true
  /-- R422, RESET_IN# level. -/
  resetIn    : Bool := false
  /-- R422, PERST# level. -/
  perst      : Bool := false
  /-- R446, configuration space answers. -/
  cfgReady   : Bool := false
  /-- R434, PLL locked and PWRGOOD high. -/
  pllLocked  : Bool := false
  /-- R413, THERMTRIP# latch held low. -/
  tripped    : Bool := false
  /-- R425, ALERT# pulled low. -/
  alert      : Bool := false
  /-- R424, LOG_NEW. -/
  logNew     : Bool := false
  /-- R424, straps SMB_ADDR1 and SMB_ADDR0. -/
  straps     : BitVec 2 := 0
  /-- R436 to R438. -/
  pwr        : Power := {}
  /-- R429. -/
  gpio       : Table Gpio := []
  /-- R427. -/
  tap        : Tap := {}
  /-- R424, last SMBus block returned. -/
  smbOut     : List Byte := []
  /-- R424, record selected for LOG_READ, and the cursor. -/
  smbSeq     : Word64 := 0
  smbCursor  : Nat := 0
  /-- R426, last lines returned by the console, as bytes. -/
  uartOut    : List Byte := []
  /-- R336, data returned by the last read through the PF memory window, and whether it was poisoned. -/
  winOut     : List Byte := []
  winPoison  : Bool := false
  /-- R355, messages sent, newest first. -/
  msgs       : List Message := []
  /-- R337, requests to host memory, newest first. -/
  hostReqs   : List HostReq := []
  /-- R353, commands that have completed, as a number for the order. -/
  ends       : Nat := 0
  /-- R332, rate of the trained PCIe link, 0 16 GT/s, 1 32 GT/s, 2 64 GT/s, and whether it is x16. -/
  pcieRate   : BitVec 2 := 0
  pcieX16    : Bool := false
  /-- R461, LOCK. -/
  locked     : Bool := false
  /-- R460, WREJ and REJ_OFFSET. -/
  wrej       : Bool := false
  rejOffset  : BitVec 20 := 0
  /-- R464, SHAPE. -/
  shape      : Shape := .whole
  /-- R464, MODULE_ID. -/
  moduleId   : BitVec 10 := 0
  /-- R465, TURN_ROOT. -/
  turnRoot   : Bool := false
  /-- R465, TSYNC_DELAY. -/
  tsyncDelay : BitVec 15 := 0
  /-- R444, HBM_FAIL. -/
  hbmFail    : BitVec 12 := 0
  /-- R444, TIER_FAIL. -/
  tierFail   : BitVec 4 := 0
  /-- R444, LOST_POWER. -/
  lostPower  : Bool := false
  /-- R444, TRAINED. -/
  trained    : Bool := false
  /-- R466, TIMEOUT_US. -/
  combineUs  : Word32 := 100000
  /-- R467, FAULT_WINDOW. -/
  faultWin   : BitVec 6 := 32
  /-- R393, FAULT_WINDOW in force. -/
  faultWinOn : BitVec 6 := 32
  /-- R467, FAULT_THRESHOLD. -/
  faultTh    : BitVec 8 := 8
  /-- R468, STONE_CMD.BUSY, RESULT, RESULT_STONE, STONE. -/
  stBusy     : BitVec 4 := 0
  stResult   : BitVec 2 := 0
  stResStone : BitVec 7 := 0
  stStone    : BitVec 7 := 0
  /-- R457. -/
  fw         : FwCtrl := {}
  /-- R474, LOG_SELECT.SEQ. -/
  logSel     : Word64 := 0
  /-- R474, READY and VALID of LOG_STATUS. -/
  logReady   : Bool := false
  /-- R474, LOG_SELECT has been written and the copy has not ended. -/
  logBusy    : Bool := false
  logValid   : Bool := false
  /-- R474, LOG_WINDOW: the copied record. -/
  logCopy    : Option LogRec := none
  /-- R333, VF Enable and NumVFs. -/
  vfEnable   : Bool := false
  numVfs     : BitVec 8 := 0
  /-- R248, R265, R469. -/
  parts      : Table Partition := []
  /-- R250, R470. -/
  binds      : Table Binding := []
  /-- R472, R473. -/
  houses     : Table HouseRegs := []
  /-- R335. -/
  fns        : Table Func := []
  /-- R156, device memory by physical address. -/
  mem        : Memory := []
  /-- R388 to R390, stored errors, by granule: of device memory by first address, of a line cached in a Pond by 2^44 + first
  address, of the buffers of a house by 2^45 + (house × 8 + kind) × 65,536 + granule. Kinds are 0 copy engine, 1 Hopper, 2 Race,
  3 MMU caches, 4 media carve-out. -/
  ecc        : Table EccState := []
  /-- R171, dirty lines of the Pond caches, by line number of the device address, newest first. -/
  dirty      : List Nat := []
  /-- R158, R337, host memory by host address. -/
  hostMem    : Memory := []
  /-- R337, how the host answers reads, by 64 bytes of host memory. -/
  hostResp   : Table HostResp := []
  /-- R263. -/
  grist      : Table GristEntry := []
  /-- R211. -/
  pawls      : Table Pawl := []
  /-- R180, open tags, by partition × 65,536 + tag. -/
  tags       : Table CombineTag := []
  /-- R78, R395, physical stones. -/
  stones     : Table Stone := []
  /-- R396, epochs of logical stones. -/
  epochs     : Table Word32 := []
  /-- R392, units, by class × 1,024 + index. -/
  units      : Table UnitCount := []
  /-- R394, spare rows that repairs have used, by class × 1,024 + index of the DRAM unit. -/
  repairs    : Table Nat := []
  /-- R409, queued records, oldest first; the first is being programmed. -/
  logQueue   : List LogRec := []
  /-- R409, LOST. -/
  logLost    : Word32 := 0
  /-- R452, flash contents. -/
  flash      : Flash := {}
  /-- R216 to R246. -/
  leat       : Leat := {}
  /-- R272, Hopper streams by house × 16 + stream. -/
  hopper     : Table HopperStream := []
  /-- R296, Race streams by house × 64 + stream. -/
  race       : Table RaceStream := []
  /-- R261, what the sections of snapshot images hold, newest first: the model's own. -/
  saved      : List SavedSet := []
  deriving DecidableEq, Repr

/-- A shipped image slot: valid, booted to TRAINED, generation 1 (R455, R456). The manual does not say what a module is
shipped with. DESIGN CHOICE. Unsafe: a proof can lean on it. -/
def FwSlot.shipped : FwSlot :=
  { erased := false, checksOk := true, keyOk := true, version := 1, generation := 1, attempt := 0, confirmed := 0 }

/-- The module right after reset: STANDBY, with RESET_IN# and PERST# low, every register at the reset value its rule
gives. Partition 0 holds every pawl and entry (R251), PF0 is bound to it (R250), image slot A holds a shipped image. -/
def State.reset : State :=
  { parts := [(0, { pawlCount := 1024, gristCount := 4096 })]
    binds := [(0, { valid := true, overOk := true })]
    flash := { slotA := FwSlot.shipped } }

end Sys2Proof.Machine
end

