-- ==== Sys2Proof/Machine/Bits.lean ====
section
/-! DEFINITION. Sparse tables and memories, byte order, bit fields and CRC-32C. -/
namespace Sys2Proof.Machine

/-! ## Tables -/

/-- What a table holds at an index; `d` is what an unlisted index holds. -/
def Table.get {α : Type} (d : α) (t : Table α) (k : Nat) : α :=
  match t.find? (fun c => c.1 == k) with
  | some c => c.2
  | none => d

/-- The table with `v` at index `k`, in canonical form. -/
def Table.put {α : Type} [DecidableEq α] (d : α) (t : Table α) (k : Nat) (v : α) : Table α :=
  t.filter (fun c => c.1 < k) ++ (if v = d then [] else [(k, v)]) ++ t.filter (fun c => k < c.1)

/-- The table without the indices that `p` holds of: they read as unlisted again. -/
def Table.drop {α : Type} (t : Table α) (p : Nat → Bool) : Table α := t.filter (fun c => !p c.1)

/-! ## Memories -/

/-- One byte; an unlisted address reads 0. -/
def Memory.read (m : Memory) (a : Nat) : Byte := Table.get (0 : Byte) m a

/-- `n` bytes from address `a` upwards. -/
def Memory.readN (m : Memory) (a n : Nat) : List Byte :=
  let w := m.filter (fun c => a ≤ c.1 && c.1 < a + n)
  (List.range n).map (fun i => Memory.read w (a + i))

/-- The cells of a run of bytes at `a`, without the bytes that an unlisted address reads as. -/
def Memory.cells (a : Nat) : List Byte → Memory
  | [] => []
  | b :: bs => if b = 0 then Memory.cells (a + 1) bs else (a, b) :: Memory.cells (a + 1) bs

/-- The memory with the bytes `bs` stored from address `a` upwards. -/
def Memory.write (m : Memory) (a : Nat) (bs : List Byte) : Memory :=
  m.filter (fun c => c.1 < a) ++ Memory.cells a bs ++ m.filter (fun c => a + bs.length ≤ c.1)

/-- The memory with `n` bytes from `a` zeroed. -/
def Memory.clear (m : Memory) (a n : Nat) : Memory :=
  m.filter (fun c => c.1 < a) ++ m.filter (fun c => a + n ≤ c.1)

/-- Strictly rising addresses. -/
def Memory.rising : Memory → Bool
  | [] => true
  | [_] => true
  | a :: b :: l => decide (a.1 < b.1) && Memory.rising (b :: l)

/-- The canonical form: addresses strictly rise and no cell holds what an unlisted address reads as. -/
def Memory.wf (m : Memory) : Bool := Memory.rising m && m.all (fun c => decide (c.2 ≠ 0))

/-! ## Little-endian bytes (R13) -/

/-- The number that bytes in ascending address order spell. -/
def leNat : List Byte → Nat
  | [] => 0
  | b :: bs => b.toNat + 256 * leNat bs

/-- The low `n` bytes of a number, least significant first. -/
def natLe : Nat → Nat → List Byte
  | 0, _ => []
  | n + 1, w => BitVec.ofNat 8 w :: natLe n (w / 256)

/-- Bits [hi:lo] of a number. -/
def bitsOf (w hi lo : Nat) : Nat := w / 2 ^ lo % 2 ^ (hi + 1 - lo)

/-- Bits [hi:lo] of a 64-bit word. -/
def fld (w : Word64) (hi lo : Nat) : Nat := bitsOf w.toNat hi lo

/-- Bit `i` of a 64-bit word. -/
def bitAt (w : Word64) (i : Nat) : Bool := w.toNat.testBit i

/-- 1 or 0. -/
def b2n (b : Bool) : Nat := if b then 1 else 0

/-- `n` words of 64 bits from a list of bytes. -/
def wordsOf (bs : List Byte) : Nat → List Word64
  | 0 => []
  | n + 1 => BitVec.ofNat 64 (leNat (bs.take 8)) :: wordsOf (bs.drop 8) n

/-- Word `i` of a structure of 64-bit words, 0 beyond its end. -/
def wordAt (ws : List Word64) (i : Nat) : Word64 := ws.getD i 0

/-- The 64-bit word at byte offset `o` of a byte image. -/
def word64At (bs : List Byte) (o : Nat) : Word64 := BitVec.ofNat 64 (leNat ((bs.drop o).take 8))

/-- The 32-bit word at byte offset `o` of a byte image. -/
def word32At (bs : List Byte) (o : Nat) : Word32 := BitVec.ofNat 32 (leNat ((bs.drop o).take 4))

/-- A two's complement reading of the low `w` bits of a number. -/
def signed (w n : Nat) : Int := if n % 2 ^ w < 2 ^ (w - 1) then (n % 2 ^ w : Nat) else (n % 2 ^ w : Nat) - (2 ^ w : Nat)

/-- The low `w` bits of an integer in two's complement. -/
def toTwos (w : Nat) (i : Int) : Nat := (i % (2 ^ w : Nat)).toNat

/-- ⌈a ÷ b⌉, 0 when `b` is 0. -/
def ceilDiv (a b : Nat) : Nat := (a + b - 1) / b

/-- Least c with n ≤ 2^c. -/
def ceilLog2 (n : Nat) : Nat := if n ≤ 1 then 0 else Nat.log2 (n - 1) + 1

/-- A saturating 32-bit increment (R76, R309, R405). -/
def sat32 (w : Word32) (n : Nat) : Word32 := if w.toNat + n ≥ 2 ^ 32 then 0xFFFF_FFFF else w + BitVec.ofNat 32 n

/-- A saturating 16-bit increment (R189, R405). -/
def sat16 (w : BitVec 16) : BitVec 16 := if w = 0xFFFF then w else w + 1

/-! ## CRC-32C, the Castagnoli polynomial in its published reflected form -/

/-- Steps of the CRC register, and what follows them. -/
def crcSteps : Nat → (Word32 → Word32) → Word32 → Word32
  | 0, k, c => k c
  | n + 1, k, c => if c.toNat.testBit 0 then crcSteps n k ((c >>> 1) ^^^ 0x82F6_3B78) else crcSteps n k (c >>> 1)

/-- The register after a byte string. -/
def crcBytes : List Byte → Word32 → Word32
  | [], c => c
  | b :: bs, c => crcSteps 8 (crcBytes bs) (c ^^^ b.setWidth 32)

/-- CRC-32C of a byte string (R261, R278, R407, R453). -/
def crc32c (bs : List Byte) : Word32 := crcBytes bs 0xFFFF_FFFF ^^^ 0xFFFF_FFFF

/-! ## Lists -/

/-- Put an element in its place of a sorted list, after those it does not come before. -/
def insertBy {α : Type} (before : α → α → Bool) (x : α) : List α → List α
  | [] => [x]
  | y :: ys => if before x y then x :: y :: ys else y :: insertBy before x ys

/-- A list in the order that `before` gives; equal elements keep their order. -/
def sortBy {α : Type} (before : α → α → Bool) : List α → List α
  | [] => []
  | x :: xs => (xs.foldl (fun l y => insertBy before y l) [x])

/-- The list with its element `i` replaced, if it has one. -/
def setAt {α : Type} (l : List α) (i : Nat) (v : α) : List α := l.set i v

/-- `[a, a + 1, …]`, `n` numbers. -/
def upFrom (a n : Nat) : List Nat := (List.range n).map (a + ·)

end Sys2Proof.Machine
end

