-- ==== Sys2Proof/Machine/Numbers.lean ====
section
/-! DEFINITION. Number formats: exact values, rounding, decoding, encoding, MX blocks, packing (01_number_formats.md). -/
namespace Sys2Proof.Machine

/-! ## Exact values -/

/-- A value: NaN, a signed infinity, or (−1)^neg × n ÷ d × 2^e exactly, with a sign also for zero. -/
inductive Num where
  | nan
  | inf (neg : Bool)
  | fin (neg : Bool) (n d : Nat) (e : Int)
  deriving DecidableEq, Repr

/-- The value of an integer. -/
def numOfInt (i : Int) : Num := .fin (decide (i < 0)) i.natAbs 1 0

/-- +0. -/
def numZero : Num := .fin false 0 1 0

def Num.isNan : Num → Bool | .nan => true | _ => false
def Num.isInf : Num → Bool | .inf _ => true | _ => false
def Num.neg? : Num → Bool | .nan => false | .inf s => s | .fin s _ _ _ => s
def Num.isZero : Num → Bool | .fin _ n _ _ => n == 0 | _ => false
def Num.isNegZero : Num → Bool | .fin s n _ _ => s && n == 0 | _ => false
def Num.abs : Num → Num | .nan => .nan | .inf _ => .inf false | .fin _ n d e => .fin false n d e
def Num.negate : Num → Num | .nan => .nan | .inf s => .inf (!s) | .fin s n d e => .fin (!s) n d e

/-- Scale a number up by a power of two given as an integer exponent above a floor. -/
def shl (n : Nat) (e : Int) : Nat := n * 2 ^ e.toNat

/-- Numerator over 2^f of a finite value whose denominator is `d`, as a signed integer. -/
def scaledInt (neg : Bool) (n : Nat) (e f : Int) : Int := if neg then -(shl n (e - f) : Nat) else (shl n (e - f) : Nat)

/-- The exact sum of two values. Infinities of two signs, and NaN, give NaN. A zero sum is +0 unless both are −0. -/
def Num.add : Num → Num → Num
  | .nan, _ => .nan
  | _, .nan => .nan
  | .inf s, .inf t => if s = t then .inf s else .nan
  | .inf s, .fin _ _ _ _ => .inf s
  | .fin _ _ _ _, .inf t => .inf t
  | .fin s n d e, .fin t m c g =>
    let f := min e g
    let x := scaledInt s (n * c) e f + scaledInt t (m * d) g f
    if x = 0 then .fin (s && t && n == 0 && m == 0) 0 1 0 else .fin (decide (x < 0)) x.natAbs (d * c) f

/-- The exact product. An infinity times zero is NaN. -/
def Num.mul : Num → Num → Num
  | .nan, _ => .nan
  | _, .nan => .nan
  | .inf s, .inf t => .inf (s != t)
  | .inf s, .fin t m _ _ => if m = 0 then .nan else .inf (s != t)
  | .fin s n _ _, .inf t => if n = 0 then .nan else .inf (s != t)
  | .fin s n d e, .fin t m c g => .fin (s != t) (n * m) (d * c) (e + g)

/-- The exact quotient of finite values by a value that is not zero; zero or infinite divisors as IEEE gives. -/
def Num.div : Num → Num → Num
  | .nan, _ => .nan
  | _, .nan => .nan
  | .inf _, .inf _ => .nan
  | .inf s, .fin t _ _ _ => .inf (s != t)
  | .fin s _ _ _, .inf t => .fin (s != t) 0 1 0
  | .fin s n d e, .fin t m c g =>
    if m = 0 then (if n = 0 then .nan else .inf (s != t)) else .fin (s != t) (n * c) (d * m) (e - g)

def Num.sub (a b : Num) : Num := a.add b.negate

/-- The value times 2^k. -/
def Num.scale (k : Int) : Num → Num
  | .fin s n d e => .fin s n d (e + k)
  | v => v

/-- Compare finite or infinite values: −1, 0 or 1; NaN compares as 0. -/
def Num.cmp (a b : Num) : Int :=
  match a, b with
  | .nan, _ => 0
  | _, .nan => 0
  | .inf s, .inf t => if s = t then 0 else if s then -1 else 1
  | .inf s, _ => if s then -1 else 1
  | _, .inf t => if t then 1 else -1
  | .fin s n d e, .fin t m c g =>
    let f := min e g
    let x := scaledInt s (n * c) e f - scaledInt t (m * d) g f
    if x < 0 then -1 else if x = 0 then 0 else 1

def Num.lt (a b : Num) : Bool := !a.isNan && !b.isNan && Num.cmp a b == -1
def Num.le (a b : Num) : Bool := !a.isNan && !b.isNan && Num.cmp a b != 1

/-- ⌊log2 (n ÷ d × 2^e)⌋ for positive n and d. -/
def floorLog2 (n d : Nat) (e : Int) : Int :=
  let a : Int := (Nat.log2 n : Int) - Nat.log2 d
  let under := if 0 ≤ a then n < d * 2 ^ a.toNat else n * 2 ^ (-a).toNat < d
  (if under then a - 1 else a) + e

/-- ⌊log2⌋ of the magnitude of a finite non-zero value. -/
def Num.log : Num → Int | .fin _ n d e => floorLog2 n d e | _ => 0

/-- Nearest integer to a ÷ b, ties to even, and whether it is inexact. -/
def rneDiv (a b : Nat) : Nat × Bool :=
  let q := a / b
  let r := a % b
  if 2 * r < b then (q, r != 0) else if 2 * r > b then (q + 1, true) else (if q % 2 = 0 then q else q + 1, true)

/-- n ÷ d × 2^e in units of 2^u, rounded to nearest even, and whether that is inexact. -/
def toUnits (n d : Nat) (e u : Int) : Nat × Bool :=
  if u ≤ e then rneDiv (shl n (e - u)) d else rneDiv n (shl d (u - e))

/-- ⌊n ÷ d × 2^e⌋ in units of 2^u. -/
def floorUnits (n d : Nat) (e u : Int) : Nat × Bool :=
  let a := if u ≤ e then shl n (e - u) else n
  let b := if u ≤ e then d else shl d (u - e)
  (a / b, a % b != 0)

/-- ⌊x⌋ of a finite value. -/
def Num.floor : Num → Int
  | .fin s n d e =>
    let q := floorUnits n d e 0
    if s then (if q.2 then -(q.1 : Int) - 1 else -(q.1 : Int)) else q.1
  | _ => 0

/-! ## Flags -/

/-- A computation that may set sticky flags (R71). -/
abbrev FM := StateM Flags

def Flags.or (a b : Flags) : Flags :=
  { inv := a.inv || b.inv, ovf := a.ovf || b.ovf, ufl := a.ufl || b.ufl, inx := a.inx || b.inx, sat := a.sat || b.sat }

/-- The flag byte (R72). -/
def Flags.byte (f : Flags) : Nat := b2n f.inv + 2 * b2n f.ovf + 4 * b2n f.ufl + 8 * b2n f.inx + 16 * b2n f.sat

def setInv : FM Unit := modify (fun f => { f with inv := true })
def setOvf : FM Unit := modify (fun f => { f with ovf := true })
def setUfl : FM Unit := modify (fun f => { f with ufl := true })
def setInx : FM Unit := modify (fun f => { f with inx := true })
def setSat : FM Unit := modify (fun f => { f with sat := true })

/-! ## Formats -/

/-- Fields of a floating format (R16): fraction bits, bias, exponent bits. -/
structure FloatFmt where
  frac : Nat
  ebits : Nat
  bias : Nat
  deriving DecidableEq, Repr

/-- The floating formats by code (R16). F19 is listed with its ten fraction bits; its container adds 13 zero bits. -/
def floatFmt : Nat → Option FloatFmt
  | 0x1 => some ⟨23, 8, 127⟩
  | 0x2 => some ⟨10, 8, 127⟩
  | 0x3 => some ⟨7, 8, 127⟩
  | 0x4 => some ⟨10, 5, 15⟩
  | 0x5 => some ⟨2, 5, 15⟩
  | 0x6 => some ⟨3, 4, 7⟩
  | 0x7 => some ⟨2, 3, 3⟩
  | 0x8 => some ⟨3, 2, 1⟩
  | 0x9 => some ⟨1, 2, 1⟩
  | _ => none

/-- Storage bits by code (R15). -/
def storageBits : Nat → Nat
  | 0x1 => 32 | 0x2 => 32 | 0x3 => 16 | 0x4 => 16 | 0x5 => 8 | 0x6 => 8 | 0x7 => 6 | 0x8 => 6 | 0x9 => 4
  | 0xA => 8 | 0xB => 8 | 0xC => 4 | 0xD => 32 | 0xE => 16 | 0xF => 8 | _ => 0

/-- Integer kinds: signedness and width (R20). -/
def intFmt : Nat → Option (Bool × Nat)
  | 0xA => some (true, 8)
  | 0xB => some (false, 8)
  | 0xC => some (true, 4)
  | 0xD => some (true, 32)
  | _ => none

/-- Format word fields (R22). -/
def fwCode (w : BitVec 8) : Nat := w.toNat % 16
def fwMx (w : BitVec 8) : Bool := w.toNat.testBit 4
def fwTrunc (w : BitVec 8) : Bool := w.toNat.testBit 5
def fwE4nan (w : BitVec 8) : Bool := w.toNat.testBit 6

/-- The place a format word stands in (R23). -/
inductive FmtUse where | operand | dest | other
  deriving DecidableEq, Repr

/-- The rules of R23 on one format word; `opt` says that the structure marks the operand optional. -/
def fmtOk (u : FmtUse) (opt : Bool) (w : BitVec 8) : Bool :=
  let c := fwCode w
  !(w.toNat.testBit 7) &&
  (if c = 0 then decide (w = 0) && opt else true) &&
  (!(fwMx w) || (5 ≤ c && c ≤ 9) || c == 0xA || c == 0xC) &&
  (!(fwTrunc w) || (c == 1 && decide (u = .operand))) &&
  (!(fwE4nan w) || (c == 6 && decide (u = .dest))) &&
  (!(decide (u = .operand)) || c < 0xD)

/-- Is the code one of FP32, F19, BF16, whose subnormals are read and written as zero (R19, R38)? -/
def flushes (code : Nat) : Bool := code == 1 || code == 2 || code == 3

/-- Decode a float pattern with `f` (R16, R17); `code` decides what the top exponent means. -/
def decodeFloat (code : Nat) (f : FloatFmt) (bits : Nat) : FM Num := do
  let frac := bits % 2 ^ f.frac
  let ex := bits / 2 ^ f.frac % 2 ^ f.ebits
  let s := (bits / 2 ^ (f.frac + f.ebits)) % 2 == 1
  let top := 2 ^ f.ebits - 1
  if ex = top && (code ≤ 5) then
    return if frac = 0 then .inf s else .nan
  else if code = 6 && ex = top && frac = 7 then
    return .nan
  else if ex = 0 then
    if frac ≠ 0 && flushes code then
      setUfl
      return .fin s 0 1 0
    else
      return .fin s frac 1 (1 - (f.bias : Int) - f.frac)
  else
    return .fin s (2 ^ f.frac + frac) 1 ((ex : Int) - f.bias - f.frac)

/-- Read one stored element of an unscaled format (R16 to R21). -/
def decodeElem (code bits : Nat) : FM Num :=
  match floatFmt code with
  | some f => decodeFloat code f (if code = 2 then bits / 2 ^ 13 else bits)
  | none =>
    match intFmt code with
    | some (sg, w) => pure (numOfInt (if sg then signed w bits else ((bits % 2 ^ w : Nat) : Int)))
    | none =>
      if code = 0xE then pure (.fin false (bits % 65536) 65535 0)
      else if code = 0xF then pure (if bits % 256 = 255 then .nan else .fin false 1 1 ((bits % 256 : Nat) - 127))
      else pure .nan

/-- Read one MX element under its scale byte (R26 to R28). -/
def decodeMx (code bits : Nat) (scale : Byte) : FM Num := do
  if scale = 0xFF then return .nan
  let v ← decodeElem code bits
  let k : Int := (scale.toNat : Int) - 127
  let q : Int := if code = 0xA then -6 else if code = 0xC then -2 else 0
  return v.scale (k + q)

/-- FP32 pattern of a sign and a magnitude in units of 2^u with at most 24 bits and a normal exponent. -/
def packFloat (f : FloatFmt) (s : Bool) (k : Nat) (u : Int) : Nat :=
  let sgn := b2n s * 2 ^ (f.frac + f.ebits)
  if k = 0 then sgn
  else
    let lg : Int := Nat.log2 k
    let ex := lg + u + f.bias
    if ex ≤ 0 then sgn + shl k (u - (1 - (f.bias : Int) - f.frac))
    else sgn + ex.toNat * 2 ^ f.frac + (if lg ≤ f.frac then k * 2 ^ (f.frac - lg.toNat) else k / 2 ^ (lg.toNat - f.frac)) % 2 ^ f.frac

/-- Largest finite magnitude: significand and unit exponent (R16). -/
def maxFinite (code : Nat) (f : FloatFmt) : Nat × Int :=
  let top : Int := (2 ^ f.ebits - 1 : Nat)
  if code ≤ 5 then (2 ^ (f.frac + 1) - 1, top - 1 - f.bias - f.frac)
  else if code = 6 then (14, top - f.bias - f.frac)
  else (2 ^ (f.frac + 1) - 1, top - f.bias - f.frac)

/-- Is k × 2^u greater than m × 2^v? -/
def unitsGt (k : Nat) (u : Int) (m : Nat) (v : Int) : Bool :=
  if u ≤ v then k > shl m (v - u) else shl k (u - v) > m

/-- The NaN the module writes (R17). -/
def nanBits : Nat → Nat
  | 1 => 0x7FC0_0000 | 2 => 0x3FE00 | 3 => 0x7FC0 | 4 => 0x7E00 | 5 => 0x7E | 6 => 0x7F | 0xF => 0xFF | _ => 0

/-- Round a finite magnitude to nearest even with `p` significand bits and no exponent bound: units and unit. -/
def roundUnbounded (p : Nat) (n d : Nat) (e : Int) : Nat × Int × Bool :=
  let u := floorLog2 n d e - (p - 1 : Int)
  let q := toUnits n d e u
  (q.1, u, q.2)

/-- The overflow result of a floating destination (R36). `fromInf`: the source is an infinity. -/
def overflowBits (code : Nat) (f : FloatFmt) (e4nan s fromInf : Bool) : FM Nat := do
  let sgn := b2n s * 2 ^ (f.frac + f.ebits)
  if code ≤ 5 then
    if !fromInf then do setOvf; setInx
    return sgn + (2 ^ f.ebits - 1) * 2 ^ f.frac
  else
    setOvf
    if !fromInf then setInx
    if code = 6 && e4nan then return 0x7F
    let m := maxFinite code f
    return packFloat f s m.1 m.2

/-- Encode an exact value into a floating format, rounded once (R35 to R38). -/
def encodeFloat (code : Nat) (f : FloatFmt) (e4nan : Bool) (v : Num) : FM Nat := do
  match v with
  | .nan =>
    if code ≥ 7 then setInv
    return nanBits code
  | .inf s => overflowBits code f e4nan s true
  | .fin s n d e =>
    let sgn := b2n s * 2 ^ (f.frac + f.ebits)
    if n = 0 then return sgn
    let emin : Int := 1 - (f.bias : Int)
    let r := roundUnbounded (f.frac + 1) n d e
    let r := if flushes code || emin ≤ floorLog2 n d e then r
             else let q := toUnits n d e (emin - f.frac); (q.1, emin - f.frac, q.2)
    let m := maxFinite code f
    if unitsGt r.1 r.2.1 m.1 m.2 then overflowBits code f e4nan s false
    else if flushes code && unitsGt 1 emin r.1 r.2.1 then
      setUfl; setInx
      return sgn
    else
      if r.2.2 then setInx
      return packFloat f s r.1 r.2.1

/-- A finite value beyond the range of an integer or UN16 destination was clamped: SAT, and INX because the result differs from
the exact source value (R39, R41, R43). That the first row of R43 counts a clamp is the model's reading: DEDUCED, log entry 28. -/
def setClamped : FM Unit := modify (fun f => { f with sat := true, inx := true })

/-- Encode into an unscaled integer format (R39, R40). -/
def encodeInt (sg : Bool) (w : Nat) (v : Num) : FM Nat := do
  let hi : Int := if sg then 2 ^ (w - 1) - 1 else 2 ^ w - 1
  let lo : Int := if sg then -(2 ^ (w - 1)) else 0
  match v with
  | .nan => setInv; return 0
  | .inf s => setSat; return toTwos w (if s then lo else hi)
  | .fin s n d e =>
    let q := toUnits n d e 0
    let i : Int := if s then -(q.1 : Int) else q.1
    if i > hi then do setClamped; return toTwos w hi
    else if i < lo then do setClamped; return toTwos w lo
    else
      if q.2 then setInx
      return toTwos w i

/-- Encode into UN16 (R41). -/
def encodeUn16 (v : Num) : FM Nat := do
  match v with
  | .nan => setInv; return 0
  | .inf s => setSat; return if s then 0 else 65535
  | .fin s n d e =>
    if n = 0 then return 0
    if s then do setClamped; return 0
    let c := Num.cmp v (.fin false 1 1 0)
    if c = 1 then do setClamped; return 65535
    let q := toUnits (n * 65535) d e 0
    if q.2 then setInx
    return q.1

/-- Encode an exact value into the unscaled destination of a format word (R35 to R41). -/
def encodeElem (w : BitVec 8) (v : Num) : FM Nat :=
  let code := fwCode w
  match floatFmt code with
  | some f => do
    let b ← encodeFloat code f (fwE4nan w) v
    return if code = 2 then b * 2 ^ 13 else b
  | none =>
    match intFmt code with
    | some (sg, wd) => encodeInt sg wd v
    | none => if code = 0xE then encodeUn16 v else pure 0

/-- Round once to FP32 (R54, R57). -/
def toFp32 (v : Num) : FM Word32 := do
  let b ← encodeFloat 1 ⟨23, 8, 127⟩ false v
  return BitVec.ofNat 32 b

/-- Read an FP32 pattern (R19). -/
def ofFp32 (w : Word32) : FM Num := decodeFloat 1 ⟨23, 8, 127⟩ w.toNat

/-- The value of an FP32 pattern, subnormals as zero, without a flag. -/
def fp32 (w : Word32) : Num := (ofFp32 w |>.run {}).1

/-- Read a source element exactly and bring it to FP32 (R34 item 3, R130). -/
def readFp32 (code bits : Nat) : FM Word32 := do
  let v ← decodeElem code bits
  toFp32 v

/-- Narrow an FP32 runner operand to F19 (R25). -/
def narrow (trunc : Bool) (bits : Nat) : FM Num := do
  let v ← decodeElem 1 bits
  match v with
  | .fin s n d e =>
    if n = 0 then return v
    if trunc then
      let q := floorUnits n d e (floorLog2 n d e - 10)
      if q.2 then setInx
      return .fin s q.1 1 (floorLog2 n d e - 10)
    else
      let r := roundUnbounded 11 n d e
      if r.2.2 then setInx
      if unitsGt r.1 r.2.1 2047 117 then do setOvf; return .inf s
      return .fin s r.1 1 r.2.1
  | _ => return v

/-! ## FP32 operations of the vane (R57) -/

/-- One FP32 operation: the exact result rounded once. A NaN produced from operands that are no NaN sets INV. -/
def fpRound (ins : List Num) (exact : Num) : FM Word32 := do
  if exact.isNan && !(ins.any Num.isNan) then setInv
  toFp32 exact

def fpAdd (a b : Word32) : FM Word32 := do
  let x ← ofFp32 a
  let y ← ofFp32 b
  fpRound [x, y] (x.add y)

def fpMul (a b : Word32) : FM Word32 := do
  let x ← ofFp32 a
  let y ← ofFp32 b
  fpRound [x, y] (x.mul y)

def fpSub (a b : Word32) : FM Word32 := do
  let x ← ofFp32 a
  let y ← ofFp32 b
  fpRound [x, y] (x.sub y)

def fpDiv (a b : Word32) : FM Word32 := do
  let x ← ofFp32 a
  let y ← ofFp32 b
  fpRound [x, y] (x.div y)

/-- a × b + c, rounded once (R130). -/
def fpFma (a b c : Word32) : FM Word32 := do
  let x ← ofFp32 a
  let y ← ofFp32 b
  let z ← ofFp32 c
  fpRound [x, y, z] ((x.mul y).add z)

/-! ## MX quantisation (R30, R31) -/

/-- emax of R30. -/
def mxEmax : Nat → Int
  | 5 => 15 | 6 => 8 | 7 => 4 | 8 => 2 | 9 => 2 | _ => 0

/-- encode_clamped of R30: nearest even in the element format, clamped to its largest magnitude. -/
def encodeClamped (code : Nat) (v : Num) : FM Nat := do
  match v with
  | .fin s n d e =>
    match floatFmt code with
    | some f =>
      if n = 0 then return b2n s * 2 ^ (f.frac + f.ebits)
      let emin : Int := 1 - (f.bias : Int)
      let u := max (floorLog2 n d e) emin - f.frac
      let q := toUnits n d e u
      let m := maxFinite code f
      if q.2 then setInx
      if unitsGt q.1 u m.1 m.2 then do setInx; return packFloat f s m.1 m.2
      return packFloat f s q.1 u
    | none =>
      let w := if code = 0xA then 8 else 4
      let k : Int := if code = 0xA then 6 else 2
      let q := toUnits n d (e + k) 0
      if q.2 then setInx
      let i : Int := if s then -(q.1 : Int) else q.1
      if i > 2 ^ (w - 1) - 1 then do setInx; return toTwos w (2 ^ (w - 1) - 1)
      if i < -(2 ^ (w - 1)) then do setInx; return toTwos w (-(2 ^ (w - 1)))
      return toTwos w i
  | _ => return 0

/-- The larger of two magnitudes. -/
def maxMag (a b : Num) : Num := if Num.cmp a.abs b.abs = -1 then b.abs else a.abs

/-- mx_quantise of R30 on the real elements of one block: scale byte and element codes. -/
def mxQuantise (code : Nat) (block : List Num) : FM (Byte × List Nat) := do
  if block.any (fun v => v.isNan || v.isInf) then
    setInv
    return (0xFF, block.map (fun _ => 0))
  let amax := block.foldl maxMag numZero
  let raw : Int := if amax.isZero then 127 else amax.log - mxEmax code + 127
  if raw > 254 then setOvf
  let c : Int := max 0 (min 254 raw)
  let elems ← block.mapM (fun v => encodeClamped code (v.scale (127 - c)))
  return (BitVec.ofNat 8 c.toNat, elems)

/-! ## Packing (R32, R33) -/

/-- Elements per packed group and bytes per group. -/
def groupElems (bits : Nat) : Nat := if bits = 4 then 2 else if bits = 6 then 4 else 1
def groupBytes (bits : Nat) : Nat := if bits = 4 then 1 else if bits = 6 then 3 else bits / 8

/-- Byte offset of the group of element `j` of a row (R32). -/
def packedOff (bits j : Nat) : Nat := j / groupElems bits * groupBytes bits

/-- Bytes of a packed row of `n` elements, in whole groups (R33). -/
def rowBytes (bits n : Nat) : Nat := ceilDiv n (groupElems bits) * groupBytes bits

/-- The code of element `j` of a row whose bytes are read by `rd` from the row's first address. -/
def rowElem (rd : Nat → Byte) (bits j : Nat) : Nat :=
  let o := packedOff bits j
  let w := leNat ((List.range (groupBytes bits)).map (fun i => rd (o + i)))
  if bits < 8 then w / 2 ^ (bits * (j % groupElems bits)) % 2 ^ bits else w

/-- A group of codes as its bytes. -/
def packGroup (bits : Nat) (codes : List Nat) : List Byte :=
  natLe (groupBytes bits) (codes.foldr (fun c w => c % 2 ^ bits + w * 2 ^ bits) 0)

/-- A whole row of codes as bytes; unused elements of a partial group are code 0 (R33). -/
def packRow (bits : Nat) (codes : List Nat) : List Byte :=
  (List.range (ceilDiv codes.length (groupElems bits))).flatMap
    (fun g => packGroup bits ((codes.drop (g * groupElems bits)).take (groupElems bits)))

/-! ## Width classes and operand pairs (R44 to R46) -/

/-- Width class of an operand code: 0 W, 1 H, 2 B, 3 N. -/
def widthClass : Nat → Nat
  | 1 => 0 | 2 => 0 | 3 => 1 | 4 => 1 | 9 => 3 | 0xC => 3 | _ => 2

/-- Pass size P of a pair (R45, R47). -/
def passSize (a b : BitVec 8) : Nat := 16 * 2 ^ min (widthClass (fwCode a)) (widthClass (fwCode b))

/-- Is the operand an unscaled integer (R27, R46)? -/
def isIntOperand (w : BitVec 8) : Bool := !(fwMx w) && (fwCode w == 0xA || fwCode w == 0xB || fwCode w == 0xC)

/-- Integer pair of R46. -/
def intPair (a b : BitVec 8) : Bool := isIntOperand a && isIntOperand b

/-- Legal pair of R46. -/
def pairOk (a b : BitVec 8) : Bool := isIntOperand a == isIntOperand b

/-! ## Histogram (R74 to R77) -/

/-- Count one element: its value before conversion, whether a flush made its zero, whether its conversion flushes it. -/
def Hist.add (h : Hist) (v : Num) (wasFlushed : Bool) (code : Nat) : Hist :=
  let h := { h with elements := h.elements + 1 }
  match v with
  | .nan => { h with nans := sat32 h.nans 1 }
  | .inf _ => { h with infs := sat32 h.infs 1 }
  | .fin _ n d e =>
    if n = 0 then
      if wasFlushed then { h with flushed := sat32 h.flushed 1 } else { h with zero := sat32 h.zero 1 }
    else
      let p := match floatFmt code with | some f => f.frac + 1 | none => 24
      let r := roundUnbounded p n d e
      if flushes code && unitsGt 1 (-126) r.1 r.2.1 then { h with flushed := sat32 h.flushed 1 }
      else
        let i := (max (-32) (min 31 (floorLog2 n d e)) + 32).toNat
        { h with bins := Table.put 0 h.bins i (sat32 (Table.get 0 h.bins i) 1) }

/-- The 288 bytes of a histogram record (R77). -/
def Hist.bytes (h : Hist) : List Byte :=
  natLe 2 h.tensor ++ natLe 1 h.format.toNat ++ natLe 1 h.flags.byte ++ natLe 2 0 ++ natLe 2 h.stage.toNat ++
  natLe 8 h.elements.toNat ++ (List.range 64).flatMap (fun i => natLe 4 (Table.get 0 h.bins i).toNat) ++
  natLe 4 h.zero.toNat ++ natLe 4 h.flushed.toNat ++ natLe 4 h.infs.toNat ++ natLe 4 h.nans.toNat

end Sys2Proof.Machine
end

