-- ==== Sys2Proof/Machine/Ops.lean ====
section
/-! DEFINITION. The named operations over the state: geometry of the module, accessors, time, messages, weir marks,
events and the fault log. -/
namespace Sys2Proof.Machine

/-! ## Geometry of the module (R3, R6, R156) -/

/-- Bytes in a GiB, a MiB and a KiB. -/
def gib : Nat := 2 ^ 30
def mib : Nat := 2 ^ 20
def kib : Nat := 2 ^ 10

/-- Partition that holds a house (R6). -/
def partOfHouse : Shape → Nat → Nat
  | .whole, _ => 0
  | .halves, h => h / 2
  | .quarters, h => h

/-- Partitions that a shape forms (R6). -/
def partCount : Shape → Nat
  | .whole => 1
  | .halves => 2
  | .quarters => 4

/-- Houses of a partition, ascending (R6). -/
def housesOf (sh : Shape) (p : Nat) : List Nat := (List.range 4).filter (fun h => partOfHouse sh h == p)

/-- The three ranges of the physical map (R156). -/
inductive Region where | hbm | tier | pond
  deriving DecidableEq, Repr

/-- Range, house range and offset within the house range of a physical address (R156); none where nothing is mapped
whatever the scratch sizes. -/
def regionOf (pa : Nat) : Option (Region × Nat × Nat) :=
  if pa < 0x0090_0000_0000 then some (.hbm, pa / 0x0024_0000_0000, pa % 0x0024_0000_0000)
  else if 0x0100_0000_0000 ≤ pa ∧ pa < 0x0110_0000_0000 then
    some (.tier, (pa - 0x0100_0000_0000) / 0x0004_0000_0000, (pa - 0x0100_0000_0000) % 0x0004_0000_0000)
  else if 0x0200_0000_0000 ≤ pa ∧ pa < 0x0200_4000_0000 then
    some (.pond, (pa - 0x0200_0000_0000) / 0x1000_0000, (pa - 0x0200_0000_0000) % 0x1000_0000)
  else none

/-- hbm_place of R165: stack, channel, pseudo-channel, offset. -/
def hbmPlace (sh : Shape) (pa : Nat) : Nat × Nat × Nat × Nat :=
  let (first, a, n) := if sh = .halves then (2 * (pa / (288 * gib)), pa % (288 * gib), 6)
                       else (pa / (144 * gib), pa % (144 * gib), 3)
  let g := a / 256
  let s := g % n
  let q := g / n
  let f := (q / 2 ^ 5) ^^^ (q / 2 ^ 10) ^^^ (q / 2 ^ 15) ^^^ (q / 2 ^ 20)
  (3 * first + s, (q ^^^ f) % 32, q / 32 % 2, q / 64 * 256 + pa % 256)

/-- tier_place of R166: house, channel, offset. -/
def tierPlace (sh : Shape) (pa : Nat) : Nat × Nat × Nat :=
  let a0 := pa - 0x0100_0000_0000
  let (first, a, b) := if sh = .halves then (2 * (a0 / (32 * gib)), a0 % (32 * gib), 8)
                       else (a0 / (16 * gib), a0 % (16 * gib), 7)
  let g := a / 128
  let f := (g / 2 ^ b) ^^^ (g / 2 ^ (2 * b)) ^^^ (g / 2 ^ (3 * b)) ^^^ (g / 2 ^ (4 * b))
  let c := (g ^^^ f) % 2 ^ b
  (first + c / 128, c % 128, g / 2 ^ b * 128 + pa % 128)

/-- Unit class and index that holds a physical address (R392). -/
def unitOf (sh : Shape) (pa : Nat) : Nat × Nat :=
  match regionOf pa with
  | some (.hbm, _, _) => let x := hbmPlace sh pa; (1, x.1 * 64 + x.2.1 * 2 + x.2.2.1)
  | some (.tier, _, _) => let x := tierPlace sh pa; (2, x.1 * 128 + x.2.1)
  | some (.pond, h, o) => (3, h * 16 + o / (12 * mib))
  | none => (4, 0)

/-! ## Accessors: one home for every table -/

/-- A partition's registers (R248). -/
def State.part (s : State) (p : Nat) : Partition := Table.get {} s.parts p
def State.setPart (s : State) (p : Nat) (v : Partition) : State := { s with parts := Table.put {} s.parts p v }

/-- A function's binding (R250). -/
def State.bind (s : State) (f : Nat) : Binding := Table.get {} s.binds f
def State.setBind (s : State) (f : Nat) (v : Binding) : State := { s with binds := Table.put {} s.binds f v }

/-- A house's registers (R472, R473). -/
def State.house (s : State) (h : Nat) : HouseRegs := Table.get {} s.houses h
def State.setHouse (s : State) (h : Nat) (v : HouseRegs) : State := { s with houses := Table.put {} s.houses h v }

/-- A function's page set (R335). -/
def State.fn (s : State) (f : Nat) : Func := Table.get {} s.fns f
def State.setFn (s : State) (f : Nat) (v : Func) : State := { s with fns := Table.put {} s.fns f v }

/-- A submission ring (R339). -/
def State.sq (s : State) (f r : Nat) : SubRing := Table.get {} (s.fn f).sqs r
def State.setSq (s : State) (f r : Nat) (v : SubRing) : State :=
  s.setFn f { s.fn f with sqs := Table.put {} (s.fn f).sqs r v }

/-- A completion ring (R339). -/
def State.cq (s : State) (f c : Nat) : CompRing := Table.get {} (s.fn f).cqs c
def State.setCq (s : State) (f c : Nat) (v : CompRing) : State :=
  s.setFn f { s.fn f with cqs := Table.put {} (s.fn f).cqs c v }

/-- An MSI-X table entry (R355). -/
def State.vec (s : State) (f v : Nat) : Vector32 := Table.get {} (s.fn f).msix v

/-- A physical stone as shipped (R395): index 24 of each house is the spare. -/
def stoneShipped (p : Nat) : Stone :=
  if p % 25 = 24 then { state := .spare } else { logical := some (p / 25 * 24 + p % 25) }

/-- A physical stone (R78). -/
def State.stone (s : State) (p : Nat) : Stone := Table.get (stoneShipped p) s.stones p
def State.setStone (s : State) (p : Nat) (v : Stone) : State :=
  { s with stones := Table.put (stoneShipped p) s.stones p v }

/-- A set of a physical stone (R90). -/
def Stone.set (x : Stone) (i : Nat) : SetCtx := Table.get {} x.sets i
def Stone.setSet (x : Stone) (i : Nat) (v : SetCtx) : Stone := { x with sets := Table.put {} x.sets i v }
def State.setCtx (s : State) (p i : Nat) : SetCtx := (s.stone p).set i
def State.putCtx (s : State) (p i : Nat) (v : SetCtx) : State := s.setStone p ((s.stone p).setSet i v)

/-- The physical stone that carries a logical stone now (R395). -/
def State.physOf (s : State) (l : Nat) : Option Nat :=
  (List.range 100).find? (fun p => (s.stone p).state == .active && (s.stone p).logical == some l)

/-- Current epoch of a logical stone (R396). -/
def State.epoch (s : State) (l : Nat) : Word32 := Table.get 0 s.epochs l

/-- A Grist entry (R263). -/
def State.entry (s : State) (e : Nat) : GristEntry := Table.get {} s.grist e
def State.setEntry (s : State) (e : Nat) (v : GristEntry) : State := { s with grist := Table.put {} s.grist e v }

/-- A pawl (R211). -/
def State.pawl (s : State) (n : Nat) : Pawl := Table.get {} s.pawls n
def State.setPawl (s : State) (n : Nat) (v : Pawl) : State := { s with pawls := Table.put {} s.pawls n v }

/-- Key of a combine tag of a partition. -/
def tagKey (p t : Nat) : Nat := p * 65536 + t

/-- An open or broken combine tag (R180); contributors 0 mark a free tag. -/
def State.tag (s : State) (p t : Nat) : CombineTag := Table.get {} s.tags (tagKey p t)
def State.setTag (s : State) (p t : Nat) (v : CombineTag) : State := { s with tags := Table.put {} s.tags (tagKey p t) v }

/-- Event counters of a unit (R405). -/
def State.unit (s : State) (cls i : Nat) : UnitCount := Table.get {} s.units (cls * 1024 + i)
def State.setUnit (s : State) (cls i : Nat) (v : UnitCount) : State :=
  { s with units := Table.put {} s.units (cls * 1024 + i) v }

/-- A Hopper stream and a Race stream (R272, R296). -/
def State.hop (s : State) (h i : Nat) : HopperStream := Table.get {} s.hopper (h * 16 + i)
def State.setHop (s : State) (h i : Nat) (v : HopperStream) : State :=
  { s with hopper := Table.put {} s.hopper (h * 16 + i) v }
def State.rac (s : State) (h i : Nat) : RaceStream := Table.get {} s.race (h * 64 + i)
def State.setRac (s : State) (h i : Nat) (v : RaceStream) : State :=
  { s with race := Table.put {} s.race (h * 64 + i) v }

/-- A port of the link engine, and a channel of it (R216, R230). -/
def State.port (s : State) (p : Nat) : Port := Table.get {} s.leat.ports p
def State.setPort (s : State) (p : Nat) (v : Port) : State :=
  { s with leat := { s.leat with ports := Table.put {} s.leat.ports p v } }
def Port.chan (x : Port) (c : Nat) : Chan := Table.get {} x.chans c
def Port.setChan (x : Port) (c : Nat) (v : Chan) : Port := { x with chans := Table.put {} x.chans c v }

/-- A GPIO pin (R429). -/
def State.pin (s : State) (g : Nat) : Gpio := Table.get {} s.gpio g
def State.setPin (s : State) (g : Nat) (v : Gpio) : State := { s with gpio := Table.put {} s.gpio g v }

/-! ## Free values and time -/

/-- The next index of a free value. -/
def State.tick (s : State) : State := { s with freeCount := s.freeCount + 1 }

/-- TIME of R384: the clock advances by a free amount at each reading. -/
def State.now (s : State) : Word64 × State :=
  let s := { s with clockNs := s.clockNs + Config.elapsedNs s.freeCount }.tick
  (BitVec.ofNat 64 s.clockNs, s)

/-- The next free 32-bit value. -/
def State.freeWord (s : State) : Word32 × State := ((Config.freeWord s.freeCount).setWidth 32, s.tick)

/-! ## Tenants (R333, R250) -/

/-- Is the function a VF beyond NumVFs, or a VF while VF Enable is 0 (R333)? -/
def State.vfOff (s : State) (f : Nat) : Bool := f != 0 && (!s.vfEnable || f > s.numVfs.toNat)

/-- A tenant: bound and valid, its partition formed by the shape, its VF enabled (R250, R333). -/
def State.tenant (s : State) (f : Nat) : Bool :=
  (s.bind f).valid && (s.bind f).part.toNat < partCount s.shape && !s.vfOff f

/-- Partition that a function is bound to. -/
def State.partOf (s : State) (f : Nat) : Nat := (s.bind f).part.toNat

/-- Does partition `p` hold a house (R8)? -/
def State.owns (s : State) (p h : Nat) : Bool := decide (h < 4) && partOfHouse s.shape h == p

/-- First and count of the pawls of a partition (R251). -/
def State.pawlCarve (s : State) (p : Nat) : Nat × Nat :=
  ((List.range p).foldl (fun n q => n + (s.part q).pawlCount.toNat) 0, (s.part p).pawlCount.toNat)

/-- First and count of the Grist entries of a partition (R251). -/
def State.gristCarve (s : State) (p : Nat) : Nat × Nat :=
  ((List.range p).foldl (fun n q => n + (s.part q).gristCount.toNat) 0, (s.part p).gristCount.toNat)

/-- Is a number inside a carve? -/
def inCarve (c : Nat × Nat) (n : Nat) : Bool := c.1 ≤ n && n < c.1 + c.2

/-- Listed entries of a partition that are not FREE, ascending, with their numbers. -/
def State.entriesOf (s : State) (p : Nat) : List (Nat × GristEntry) :=
  s.grist.filter (fun e => inCarve (s.gristCarve p) e.1 && e.2.state != .free)

/-! ## Messages and notices (R355, R357) -/

/-- Send a message on a vector: none while MSI-X Enable is 0, in D3hot (R437) or during a reset (R359); pending when
masked. -/
def State.message (s : State) (f v : Nat) : State :=
  let x := s.fn f
  if !x.msixEn || x.d3hot || x.resetting then s
  else if x.fnMask || (s.vec f v).masked then s.setFn f { x with pending := x.pending ||| (1 <<< v) }
  else { s with msgs := { f := f, v := v, addr := (s.vec f v).addr, data := (s.vec f v).data } :: s.msgs }

/-- The causes of a notice (R357). -/
inductive Cause where | weir | sqHalt | doorbell | cqFault | partition | link | fault
  deriving DecidableEq, Repr

/-- A cause bit. -/
def Notices.has (n : Notices) : Cause → Bool
  | .weir => n.weir | .sqHalt => n.sqHalt | .doorbell => n.doorbell | .cqFault => n.cqFault
  | .partition => n.partition | .link => n.link | .fault => n.fault

/-- Set a cause bit. -/
def Notices.mark (n : Notices) : Cause → Notices
  | .weir => { n with weir := true } | .sqHalt => { n with sqHalt := true }
  | .doorbell => { n with doorbell := true } | .cqFault => { n with cqFault := true }
  | .partition => { n with partition := true } | .link => { n with link := true }
  | .fault => { n with fault := true }

/-- NOTICE_CAUSE as a register word. -/
def Notices.word (n : Notices) : Nat :=
  b2n n.weir + 2 * b2n n.sqHalt + 4 * b2n n.doorbell + 8 * b2n n.cqFault + 16 * b2n n.partition +
  32 * b2n n.link + 64 * b2n n.fault

/-- A notice event: its cause bit is set and, if enabled, one message goes to vector 16 (R357). During a reset of the
function it is lost (R359). -/
def State.notice (s : State) (f : Nat) (c : Cause) : State :=
  let x := s.fn f
  if x.resetting then s
  else
    let s := s.setFn f { x with cause := x.cause.mark c }
    if x.causeEn.has c then s.message f 16 else s

/-! ## Weir marks (R188 to R191) -/

/-- LIVE after a step of the level (R190). -/
def Weir.liveAt (w : Weir) (level : Nat) : Bool :=
  if w.falling then
    if level ≤ w.low.toNat then true else if level > w.high.toNat then false else w.live
  else
    if level ≥ w.high.toNat then true else if level < w.low.toNat then false else w.live

/-- One step of a mark at a level: the mark after it, and whether it sends a notice (R190, R191). -/
def Weir.step (w : Weir) (level : Nat) : Weir × Bool :=
  let live := w.liveAt level
  if live && !w.live then ({ w with live := true, crossed := true, count := sat16 w.count }, !w.crossed && w.notify)
  else ({ w with live := live }, false)

/-- Level of a submission ring (R358). -/
def SubRing.posted (q : SubRing) : Nat := (q.tail - q.head).toNat

/-- Entries of a ring (R343). -/
def SubRing.entries (q : SubRing) : Nat := 2 ^ q.log2.toNat
def CompRing.entries (q : CompRing) : Nat := 2 ^ q.log2.toNat

/-- Entries written and not yet released, and the level of a completion ring (R358). -/
def CompRing.used (q : CompRing) : Nat := (q.tail - q.head).toNat
def CompRing.level (q : CompRing) : Nat := q.entries - q.used

/-- Latent slots of a partition that ADMITTED or LEAVING entries hold (R266). -/
def State.slotsHeld (s : State) (p : Nat) : List Nat :=
  (s.entriesOf p).filterMap
    (fun e => if e.2.state = .admitted ∨ e.2.state = .leaving then some e.2.slot.toNat else none)

/-- Free latent slots and free entries (R188). -/
def State.freeSlots (s : State) (p : Nat) : Nat := (s.part p).latentSlots.toNat - (s.slotsHeld p).length
def State.freeEntries (s : State) (p : Nat) : Nat := (s.part p).gristCount.toNat - (s.entriesOf p).length

/-- A mark by its source. -/
def State.weir (s : State) : WeirId → Weir
  | .sq f r => (s.sq f r).weir
  | .cq f c => (s.cq f c).weir
  | .pondCache h => (s.house h).pondWeir
  | .media h => (s.house h).mediaWeir
  | .combineSlots h => (s.house h).slotWeir
  | .copyStaging h => (s.house h).stageWeir
  | .latentPool p => (s.part p).poolWeir
  | .gristTable p => (s.part p).gristWeir

def State.setWeir (s : State) (id : WeirId) (w : Weir) : State :=
  match id with
  | .sq f r => s.setSq f r { s.sq f r with weir := w }
  | .cq f c => s.setCq f c { s.cq f c with weir := w }
  | .pondCache h => s.setHouse h { s.house h with pondWeir := w }
  | .media h => s.setHouse h { s.house h with mediaWeir := w }
  | .combineSlots h => s.setHouse h { s.house h with slotWeir := w }
  | .copyStaging h => s.setHouse h { s.house h with stageWeir := w }
  | .latentPool p => s.setPart p { s.part p with poolWeir := w }
  | .gristTable p => s.setPart p { s.part p with gristWeir := w }

/-- House whose Pond may hold a line of HBM (R171). -/
def lineHouse (sh : Shape) (line : Nat) : Option Nat :=
  match regionOf (line * 256) with
  | some (.hbm, _, _) => some ((hbmPlace sh (line * 256)).1 / 3)
  | _ => none

/-- Dirty lines of a house's Pond cache (R188). -/
def State.dirtyLines (s : State) (h : Nat) : Nat := (s.dirty.filter (fun l => lineHouse s.shape l == some h)).length

/-- Present level of a source (R188); none while a ring is DISABLED (R358). -/
def State.level (s : State) : WeirId → Option Nat
  | .sq f r => if (s.sq f r).state = .disabled then none else some (s.sq f r).posted
  | .cq f c => if (s.cq f c).state = .disabled then none else some (s.cq f c).level
  | .pondCache h => some (s.dirtyLines h / 1024)
  | .media h => some (s.house h).mediaUsed
  | .combineSlots h => some (s.house h).slotsUsed
  | .copyStaging h => some (s.house h).staged
  | .latentPool p => some (s.freeSlots p)
  | .gristTable p => some (s.freeEntries p)

/-- Owner of a source (R188). -/
def weirOwner : WeirId → Nat
  | .sq f _ => f
  | .cq f _ => f
  | _ => 0

/-- Evaluate a mark at the present level, with its notice (R190, R191). -/
def State.evalWeir (s : State) (id : WeirId) : State :=
  match s.level id with
  | none => s
  | some l =>
    let w := (s.weir id).step l
    let s := s.setWeir id w.1
    if w.2 then s.notice (weirOwner id) .weir else s

/-- A function, ring, house or partition number as an operand names it. -/
def fnId (n : Nat) : FnId := Fin.ofNat 256 n
def ringIx (n : Nat) : RingIx := Fin.ofNat 16 n
def houseIx (n : Nat) : House := Fin.ofNat 4 n

/-! ## The fault log (R406 to R409) -/

/-- Kinds of records (R407). -/
def kindLasting : BitVec 8 := 1
def kindUncorrectable : BitVec 8 := 2
def kindRetired : BitVec 8 := 3
def kindDead : BitVec 8 := 4
def kindQuarantined : BitVec 8 := 5
def kindOperator : BitVec 8 := 6
def kindLinkHalt : BitVec 8 := 7
def kindPower : BitVec 8 := 8
def kindFirmware : BitVec 8 := 9

/-- Queue a record: TIME, TURN and BOOT are filled in. A record that finds one being programmed and 64 waiting is dropped and
counted; the first of the queue is being programmed and carries the number dropped before it (R409). -/
def State.log (s : State) (r : LogRec) : State :=
  let (t, s) := s.now
  let turn := if s.leat.state = .run then s.leat.turn else 0
  let r := { r with time := t, turn := turn, boot := s.flash.boots }
  if s.logQueue.length ≥ 65 then { s with logLost := s.logLost + 1 }
  else if s.logQueue = [] then { s with logQueue := [{ r with lost := r.lost + s.logLost }], logLost := 0 }
  else { s with logQueue := s.logQueue ++ [r] }

/-- DETAIL of POWER and FIRMWARE records (R450). -/
def eventDetail (event value : Nat) (time : Nat) : List Byte := natLe 2 event ++ natLe 2 value ++ natLe 4 0 ++ natLe 8 time

/-- A POWER record (R450). -/
def State.logPower (s : State) (event value : Nat) : State :=
  s.log { kind := kindPower, detail := eventDetail event value 0 }

/-- A FIRMWARE record (R450). -/
def State.logFirmware (s : State) (event value : Nat) : State :=
  s.log { kind := kindFirmware, detail := eventDetail event value 0 }

/-- The persistent state as it stands (R404). -/
def State.keep (s : State) : State :=
  let stones := s.stones.map (fun c => (c.1, ({ state := c.2.state, logical := c.2.logical } : KeptStone)))
  let lasting := (s.units.filter (fun c => c.2.lasting)).map (fun c => (c.1, true))
  { s with flash := { s.flash with kept := { stones := stones, epochs := s.epochs, lasting := lasting } } }

/-! ## Events (R389 to R394) -/

/-- What is counted. -/
inductive Event where | corrected | uncorrectable | mismatch
  deriving DecidableEq, Repr

/-- Bytes of a fault-record body (R354). -/
def FaultRec.body (r : FaultRec) : List Byte :=
  natLe 6 r.address.toNat ++ natLe 1 0 ++ natLe 1 r.cause.toNat ++ natLe 1 r.engine.toNat ++ natLe 1 r.unit.toNat ++ natLe 6 0

/-- A unit is declared lasting: the bit is kept in flash, then a LASTING record is written (R394, R404). -/
def State.declare (s : State) (cls i : Nat) : State :=
  let s := (s.setUnit cls i { s.unit cls i with lasting := true, due := true, rows := [] }).keep
  s.log { kind := kindLasting, cls := BitVec.ofNat 8 cls, unit := BitVec.ofNat 16 i,
          count := ((s.unit cls i).window).setWidth 32 }

/-- Count one event against a unit (R392, R405); log an UNCORRECTABLE record, at most 16 in a window (R407); declare the
unit lasting when its count reaches FAULT_THRESHOLD (R392, R393). -/
def State.event (s : State) (cls i : Nat) (k : Event) (addr : Nat) (rec : FaultRec) : State :=
  let (t, s) := s.now
  let u := s.unit cls i
  let row := Config.dramRow cls addr
  let u := { u with window := sat16 u.window, lastTime := t,
                    rows := if u.lasting && (cls == 1 || cls == 2) && !u.rows.contains row then u.rows ++ [row] else u.rows }
  let u := match k with
    | .corrected => { u with corrected := sat32 u.corrected 1 }
    | .uncorrectable => { u with uncorrectable := sat32 u.uncorrectable 1 }
    | .mismatch => { u with mismatches := sat32 u.mismatches 1 }
  let logIt := k == .uncorrectable && u.logged < 16
  let s := s.setUnit cls i (if logIt then { u with logged := u.logged + 1 } else u)
  let s := if logIt then
      let c := Config.freeByte s.freeCount
      s.tick.log { kind := kindUncorrectable, cls := BitVec.ofNat 8 cls, unit := BitVec.ofNat 16 i,
                   address := BitVec.ofNat 64 addr, count := u.window.setWidth 32,
                   detail := { rec with cause := c }.body }
    else s
  let th := s.faultTh.toNat
  if th ≠ 0 && !u.lasting && u.window.toNat == th then s.declare cls i else s

end Sys2Proof.Machine
end

