-- ==== Sys2Proof/Machine/Mmu.lean ====
section
/-! DEFINITION. Translation and access: page tables, faults, host and device memory with its code words (R156 to R163,
R337, R388 to R390). -/
namespace Sys2Proof.Machine

/-! ## The engine computation -/

/-- Why an engine stops: the status its command completes with and the fault record of R354, if one is written. -/
structure Stop where
  status : Status := .access
  report : Option FaultRec := none
  deriving DecidableEq, Repr

/-- What an engine changes while it works: the state, the flags of its command, and whether data destroyed by an
uncorrectable error or by poison has reached the command (R390). -/
structure Eng where
  s      : State
  flags  : Flags := {}
  device : Bool := false
  /-- R390, runs of device bytes that it has written. -/
  wrote  : List (Nat × Nat) := []
  deriving DecidableEq, Repr

/-- An engine's work: it may stop, and what it did before it stopped remains (R160). -/
abbrev Run := ExceptT Stop (StateM Eng)

/-- The state of the module. -/
def getS : Run State := do return (← get).s

/-- Change the state of the module. -/
def modS (g : State → State) : Run Unit := modify (fun e => { e with s := g e.s })

/-- Run a computation that sets flags, and give them to the command. -/
def withFlags {α : Type} (m : FM α) : Run α := do
  let r := m.run {}
  modify (fun e => { e with flags := e.flags.or r.2 })
  return r.1

/-- Run a computation and keep its flags apart. -/
def pureFlags {α : Type} (m : FM α) : α × Flags := m.run {}

/-- Stop with a status and no record. -/
def halt {α : Type} (st : Status) : Run α := throw { status := st }

/-! ## Accesses -/

/-- Who accesses: function, engine and unit of a fault record (R354), and the page types it may use beyond TYPE 0
(R161). -/
structure Acc where
  f      : Nat
  engine : Nat := 0
  unit   : Nat := 0
  host   : Bool := false
  remote : Bool := false
  /-- R337, the write goes with Relaxed Ordering clear. -/
  strict : Bool := false
  deriving DecidableEq, Repr

/-- The fault record of an access. -/
def Acc.fault (a : Acc) (cause : Nat) (va : Nat) : FaultRec :=
  { cause := BitVec.ofNat 8 cause, address := BitVec.ofNat 48 va, unit := BitVec.ofNat 8 a.unit,
    engine := BitVec.ofNat 8 a.engine }

/-- Where a virtual address leads. -/
inductive Phys where
  | dev (pa : Nat)
  | remote (m pa : Nat)
  | host (ha : Nat)
  deriving DecidableEq, Repr

/-- Does an address lie in the Race reference pool of some house (R473)? -/
def State.inRacePool (s : State) (pa : Nat) : Bool :=
  (List.range 4).any (fun h =>
    let b := (s.house h).poolBaseOn.toNat * 2 ^ 21
    b ≤ pa && pa < b + 32 * (s.house h).bufMibOn.toNat * mib)

/-- Does an address lie in the HBM or stacked tier of partition `p`? -/
def State.inDram (s : State) (p pa : Nat) : Bool :=
  match regionOf pa with
  | some (.hbm, h, _) => s.owns p h
  | some (.tier, h, _) => s.owns p h
  | _ => false

/-- Is an address mapped, a Pond offset below the configured scratch size (R156, R157)? -/
def State.mapped (s : State) (pa : Nat) : Bool :=
  match regionOf pa with
  | some (.pond, h, o) => decide (o < (s.house h).scratchOn.toNat * (12 * mib))
  | some _ => true
  | none => false

/-- May an engine of partition `p` reach an address (R7, R157)? -/
def State.reaches (s : State) (p pa : Nat) : Bool :=
  match regionOf pa with
  | some (_, h, _) => s.owns p h && s.mapped pa
  | none => false

/-- The latent slot of partition `p` that an address falls in (R265, R266). -/
def State.poolSlot (s : State) (p pa : Nat) : Option Nat :=
  let x := s.part p
  let b := x.poolBase.toNat * 65536
  let z := 65536 * 2 ^ x.slotSize.toNat
  if b ≤ pa ∧ pa < b + x.latentSlots.toNat * z then some ((pa - b) / z) else none

/-- May function `f` touch slot `n` of its partition's pool (R266)? -/
def State.holdsSlot (s : State) (f p n : Nat) : Bool :=
  (s.entriesOf p).any (fun e => (e.2.state == .admitted || e.2.state == .leaving) && e.2.slot.toNat == n &&
    e.2.owner.toNat == f)

/-! ## Stored code words (R388 to R390) -/

/-- Keys of `State.ecc` from which those of cached lines and of house buffers count. -/
def lineKey : Nat := 2 ^ 44
def bufKey : Nat := 2 ^ 45

/-- Bytes of a granule of device memory (R388). -/
def granuleBytes (pa : Nat) : Nat :=
  match regionOf pa with
  | some (.pond, _, _) => 8
  | _ => 32

/-- The granules of device memory that a run of bytes touches, by first address. -/
def granules (pa n : Nat) : List Nat :=
  let z := granuleBytes pa
  if n = 0 then [] else (upFrom (pa / z) ((pa + n - 1) / z + 1 - pa / z)).map (fun g => g * z)

/-- The granules of cached lines that a run of bytes touches, where a Pond may hold its line (R171). -/
def lineGranules (sh : Shape) (pa n : Nat) : List Nat :=
  if (lineHouse sh (pa / 256)).isNone || n = 0 then []
  else (upFrom (pa / 8) ((pa + n - 1) / 8 + 1 - pa / 8)).map (fun g => lineKey + g * 8)

/-- First address and bytes of the device memory that a stored error lies in; none for a house buffer. -/
def eccSpan (k : Nat) : Option (Nat × Nat) :=
  if k < lineKey then some (k, granuleBytes k) else if k < bufKey then some (k - lineKey, 8) else none

/-- Does a run of bytes cover the granule of a stored error whole? -/
def eccCovered (pa n k : Nat) : Bool :=
  match eccSpan k with
  | some (g, z) => decide (pa ≤ g ∧ g + z ≤ pa + n)
  | none => false

/-- Do runs of bytes cover the granule of a stored error whole, between them? -/
def eccWritten (runs : List (Nat × Nat)) (k : Nat) : Bool :=
  match eccSpan k with
  | some (g, z) => (List.range z).all (fun i => runs.any (fun r => r.1 ≤ g + i && g + i < r.1 + r.2))
  | none => false

/-- Steps of a house's Pond that cache HBM (R170, R472). -/
def State.cacheSteps (s : State) (h : Nat) : List Nat :=
  let x := s.house h
  (upFrom x.scratchOn.toNat (16 - x.mediaOn.toNat - x.scratchOn.toNat)).filter (fun k => !x.cacheOff.toNat.testBit k)

/-- Bytes of a house's Pond that cache HBM. -/
def State.cacheBytes (s : State) (h : Nat) : Nat := (s.cacheSteps h).length * (12 * mib)

/-- Unit class and index that holds the granule of a stored error (R392). Which step holds a cached line or media data is open. -/
def State.eccUnit (s : State) (k : Nat) : Nat × Nat :=
  if k < lineKey then unitOf s.shape k
  else if k < bufKey then
    let h := (lineHouse s.shape ((k - lineKey) / 256)).getD 0
    let l := s.cacheSteps h
    (3, h * 16 + l.getD (Config.pondStep k % l.length) 0)
  else
    let x := (k - bufKey) / 65536
    if x % 8 = 4 then
      let n := (s.house (x / 8)).mediaOn.toNat
      (3, x / 8 * 16 + 15 - Config.pondStep k % n)
    else (4, x / 8)

/-- Meet stored errors at a read: correct, or poison, and count events. Answers the granules whose data are destroyed. A buffer of a
house is filled again at its next use, so nothing stays of its error. -/
def meetEcc (rec : FaultRec) : List Nat → State → List Nat × State
  | [], s => ([], s)
  | g :: gs, s =>
    let u := s.eccUnit g
    let at_ := (eccSpan g).elim 0 (·.1)
    let hit := s.ecc.find? (fun c => c.1 == g)
    let clean := { s with ecc := Table.drop s.ecc (fun k => k == g) }
    let s' := match hit with
      | some (_, .correctable) => clean.event u.1 u.2 .corrected at_ rec
      | some (_, .uncorrectable) =>
        (if g < bufKey then { s with ecc := Table.put .correctable s.ecc g .poisoned } else clean).event u.1 u.2 .uncorrectable at_ rec
      | _ => s
    let bad := match hit with | some (_, .correctable) => false | some _ => true | none => false
    let r := meetEcc rec gs s'
    (if bad then g :: r.1 else r.1, r.2)

/-- The next `n` free bytes. -/
def State.freeBytes (s : State) (n : Nat) : List Byte × State :=
  ((upFrom s.freeCount n).map Config.freeByte, { s with freeCount := s.freeCount + n })

/-- Read device memory by physical address; destroyed bytes are free values (R390). Answers whether any was. -/
def State.devRead (s : State) (rec : FaultRec) (pa n : Nat) : List Byte × Bool × State :=
  let listed := (granules pa n ++ lineGranules s.shape pa n).filter (fun g => s.ecc.any (fun c => c.1 == g))
  let e := meetEcc rec listed s
  let bytes := e.2.mem.readN pa n
  if e.1 = [] then (bytes, false, e.2)
  else
    let fr := e.2.freeBytes n
    let lost (a : Nat) : Bool := e.1.any (fun k => match eccSpan k with
      | some (g, z) => g ≤ a && a < g + z
      | none => false)
    (((List.range n).zip (bytes.zip fr.1)).map (fun x => if lost (pa + x.1) then x.2.2 else x.2.1), true, fr.2)

/-- Write device memory by physical address; a wholly covered granule loses its poison (R390). -/
def State.devWrite (s : State) (pa : Nat) (bs : List Byte) : State :=
  { s with mem := s.mem.write pa bs, ecc := Table.drop s.ecc (eccCovered pa bs.length) }

/-- Zero device memory: contents and code words (R249). -/
def State.devZero (s : State) (pa n : Nat) : State :=
  { s with mem := s.mem.clear pa n, ecc := Table.drop s.ecc (eccCovered pa n) }

/-! ## The Pond cache (R171) -/

/-- Is the stored error of a cached line among some lines? -/
def inLines (ls : List Nat) (k : Nat) : Bool := decide (lineKey ≤ k) && decide (k < bufKey) && ls.contains ((k - lineKey) / 256)

/-- Dirty lines are written back: what a stored error has destroyed is poisoned in HBM (R390). -/
def State.writeBack (s : State) (ls : List Nat) : State :=
  let lost := s.ecc.filter (fun c => inLines ls c.1 && c.2 != .correctable)
  let s := (meetEcc {} ((s.ecc.filter (fun c => inLines ls c.1)).map (·.1)) s).2
  { s with ecc := lost.foldl (fun t c => Table.put .correctable t ((c.1 - lineKey) / 32 * 32) .poisoned)
                    (Table.drop s.ecc (inLines ls)) }

/-- Can no level of the Pond cache move a mark: a high alarm above the 786,432 lines of a Pond, and no alarm now? -/
def Weir.beyondPond (w : Weir) : Bool := !w.falling && !w.live && 768 < w.high.toNat

/-- A write through the cache of the Pond of house `h` makes a line dirty; other dirty lines may have been displaced since the last
write, and more than the cache holds cannot stay (R171). -/
def State.dirtyLine (s : State) (h l : Nat) : State :=
  let mine (k : Nat) : Bool := lineHouse s.shape k == some h
  let stay := s.dirty.filter (fun k => k != l && !(mine k && Config.displaces s.freeCount k))
  let excess := ((l :: stay).filter mine).drop (s.cacheBytes h / 256)
  let keep := l :: stay.filter (fun k => !excess.contains k)
  let s' := (s.writeBack (s.dirty.filter (fun k => !keep.contains k))).tick
  let s' := { s' with dirty := keep }
  if (s'.house h).pondWeir.beyondPond then s' else s'.evalWeir (.pondCache (houseIx h))

/-- The lines that a write to device memory makes dirty (R171): those of HBM whose house has cache steps, unless the page bypasses
the cache. -/
def State.pondWrite (s : State) (noCache : Bool) (pa n : Nat) : State :=
  if noCache || n = 0 then s
  else (upFrom (pa / 256) ((pa + n - 1) / 256 + 1 - pa / 256)).foldl (fun s l =>
    match lineHouse s.shape l with
    | some h => if s.cacheBytes h = 0 then s else s.dirtyLine h l
    | none => s) s

/-- A write to device memory through the Pond that serves it. -/
def State.devStore (s : State) (noCache : Bool) (pa : Nat) (bs : List Byte) : State :=
  (s.devWrite pa bs).pondWrite noCache pa bs.length

/-! ## Buffers of a house (R388, R392) -/

/-- An engine uses a buffer of its house: stored errors there are corrected or found lost. Which granules a use reaches is open:
all of them. DESIGN CHOICE, log entry 32. Unsafe. -/
def meetBuf (kind h : Nat) : Run Unit := do
  let s ← getS
  let mine := (s.ecc.filter (fun c => decide (bufKey ≤ c.1) && (c.1 - bufKey) / 65536 == h * 8 + kind)).map (·.1)
  let r := meetEcc {} mine s
  modify (fun e => { e with s := r.2, device := e.device || r.1 != [] })

/-- The house whose MMU caches serve an access: of a stone or an engine its own, else the lowest of the partition. -/
def State.accHouse (s : State) (a : Acc) : Nat :=
  if a.engine < 2 then a.unit / 24 else if a.engine < 7 then a.unit else (housesOf s.shape (s.partOf a.f)).headD 0

/-! ## The walk (R158 to R160) -/

/-- Read a structure from device memory: destroyed bytes stop the engine with DEVICE_ERROR (R390). -/
def readStruct (a : Acc) (va pa n : Nat) : Run (List Byte) := do
  let r := (← getS).devRead (a.fault 0 va) pa n
  modS (fun _ => r.2.2)
  if r.2.1 then halt .deviceError
  return r.1

/-- The leaf that maps a virtual address: its word and its page size in bits. -/
def walk (a : Acc) (va : Nat) : (level : Nat) → (table : Nat) → Run (Word64 × Nat)
  | level, table => do
    let s ← getS
    let p := s.partOf a.f
    if !s.inDram p table || s.inRacePool table then throw { report := some (a.fault 3 va) }
    let bs ← readStruct a va (table + 8 * (va / 2 ^ (12 + 9 * level) % 512)) 8
    let e := word64At bs 0
    let bad : Run (Word64 × Nat) := throw { report := some (a.fault 1 va) }
    if !bitAt e 0 || fld e 11 6 != 0 then bad
    else
      match level with
      | 0 => leaf e 12 bad
      | l + 1 =>
        if bitAt e 1 then (if l = 2 then bad else leaf e (12 + 9 * (l + 1)) bad)
        else if fld e 5 4 != 0 || fld e 63 44 != 0 then bad
        else walk a va l (fld e 43 12 * 4096)
where
  /-- The checks of a leaf that do not depend on the access. -/
  leaf (e : Word64) (bits : Nat) (bad : Run (Word64 × Nat)) : Run (Word64 × Nat) :=
    let ty := fld e 5 4
    if ty = 3 || (ty ≠ 2 && fld e 53 44 != 0) || (ty = 0 && fld e 63 54 != 0) then bad
    else if (fld e 63 12 * 4096) % 2 ^ bits ≠ 0 then bad
    else pure (e, bits)

/-- A walk uses the MMU caches of the house; a translation that an error has destroyed stops the engine with DEVICE_ERROR. -/
def mmuBuf (a : Acc) : Run Unit := do
  let before := (← get).device
  modify (fun e => { e with device := false })
  meetBuf 3 ((← getS).accHouse a)
  let bad := (← get).device
  modify (fun e => { e with device := before })
  if bad then halt .deviceError

/-- What a virtual address leads to for an access, and whether the page bypasses the Pond cache; or the fault of
R160. -/
def translate (a : Acc) (write : Bool) (va : Nat) : Run (Phys × Bool) := do
  mmuBuf a
  let s ← getS
  let b := s.bind a.f
  if !b.rootValid then throw { report := some (a.fault 1 va) }
  let (e, bits) ← walk a va 3 (b.root.toNat * 4096)
  let ty := fld e 5 4
  let s ← getS
  let p := s.partOf a.f
  if write && !bitAt e 2 then throw { report := some (a.fault 2 va) }
  let off := va % 2 ^ bits
  if ty = 2 then
    if !a.host then throw { report := some (a.fault 4 va) }
    return (.host (fld e 63 12 * 4096 + off), bitAt e 3)
  else if ty = 1 then
    if !(write && a.remote && s.shape == .whole) then throw { report := some (a.fault 4 va) }
    return (.remote (fld e 63 54) (fld e 43 12 * 4096 + off), bitAt e 3)
  else
    let pa := fld e 43 12 * 4096 + off
    if !s.reaches p pa || s.inRacePool pa then throw { report := some (a.fault 3 va) }
    match s.poolSlot p pa with
    | some n => if s.holdsSlot a.f p n then return (.dev pa, bitAt e 3) else throw { report := some (a.fault 3 va) }
    | none => return (.dev pa, bitAt e 3)

/-! ## Host memory (R337) -/

/-- A request of a function to host memory. -/
def State.hostIssue (s : State) (q : HostReq) : State := { s with hostReqs := q :: s.hostReqs }

/-- AER Uncorrectable Error Status takes an error of a function (R332; the bits are PCIe's). -/
def State.setAer (s : State) (f bit : Nat) : State := s.setFn f { s.fn f with aer := (s.fn f).aer ||| ((1 : Word32) <<< bit) }
def aerPoisoned : Nat := 12
def aerTimeout : Nat := 14

/-- A read of host memory within one page; it ends at the first 64 bytes that the host does not answer with data. -/
def hostRead (a : Acc) (va ha n : Nat) : Run (List Byte) := do
  modS (fun s => s.hostIssue { f := a.f, addr := ha, n := n })
  let s ← getS
  match s.hostResp.find? (fun c => c.1 * 64 < ha + n && ha < c.1 * 64 + 64) with
  | some (k, .unsupported) => throw { status := .access, report := some (a.fault 5 (va + (k * 64 - ha))) }
  | some (k, .abort) => throw { status := .access, report := some (a.fault 5 (va + (k * 64 - ha))) }
  | some (k, .poisoned) =>
    modS (fun s => s.setAer a.f aerPoisoned)
    throw { status := .dataError, report := some (a.fault 6 (va + (k * 64 - ha))) }
  | some (k, .timeout) =>
    modS (fun s => s.setAer a.f aerTimeout)
    throw { status := .dataError, report := some (a.fault 6 (va + (k * 64 - ha))) }
  | none => return s.hostMem.readN ha n

/-! ## Virtual accesses -/

/-- Pieces of a run of bytes that lie in one 4 KiB page each: address, offset in the run, length. A virtual address
counts modulo 2^48. -/
def pieces (va n : Nat) : List (Nat × Nat × Nat) :=
  if n = 0 then [] else
    let first := va / 4096
    (List.range ((va + n - 1) / 4096 + 1 - first)).map (fun i =>
      let lo := max va ((first + i) * 4096)
      let hi := min (va + n) ((first + i + 1) * 4096)
      (lo % 2 ^ 48, lo - va, hi - lo))

/-- Read one piece as data: destroyed bytes are free values and mark the command (R390). -/
def readPiece (a : Acc) (x : Nat × Nat × Nat) : Run (List Byte) := do
  let t ← translate a false x.1
  match t.1 with
  | .dev pa =>
    let r := (← getS).devRead (a.fault 0 x.1) pa x.2.2
    modify (fun e => { e with s := r.2.2, device := e.device || r.2.1 })
    return r.1
  | .host ha => hostRead a x.1 ha x.2.2
  | .remote _ _ => throw { report := some (a.fault 4 x.1) }

/-- Read `n` bytes as data from a virtual address. -/
def readV (a : Acc) (va n : Nat) : Run (List Byte) := do
  let parts ← (pieces va n).mapM (readPiece a)
  return parts.flatten

/-- Read `n` bytes of a structure: destroyed bytes stop the engine with DEVICE_ERROR. -/
def readSV (a : Acc) (va n : Nat) : Run (List Byte) := do
  let before := (← get).device
  modify (fun e => { e with device := false })
  let bs ← readV a va n
  let bad := (← get).device
  modify (fun e => { e with device := before })
  if bad then halt .deviceError
  return bs

/-- `n` 64-bit words of a structure. -/
def readWords (a : Acc) (va n : Nat) : Run (List Word64) := do
  let bs ← readSV a va (8 * n)
  return wordsOf bs n

/-- Write bytes to a virtual address, page by page; writes before a fault remain (R160). The writes of a TYPE 1 page are
handed to `remote`: module, physical address and bytes. -/
def writeV (a : Acc) (va : Nat) (bs : List Byte) (remote : Nat → Nat → List Byte → State → State := fun _ _ _ s => s) :
    Run Unit :=
  (pieces va bs.length).forM (fun x => do
    let t ← translate a true x.1
    let d := (bs.drop x.2.1).take x.2.2
    match t.1 with
    | .dev pa => modify (fun e => { e with s := e.s.devStore t.2 pa d, wrote := e.wrote ++ [(pa, d.length)] })
    | .host ha => modS (fun s => ({ s with hostMem := s.hostMem.write ha d }).hostIssue
        { f := a.f, addr := ha, n := d.length, write := true, strict := a.strict })
    | .remote m pa => modS (remote m pa d))

/-- Write bytes piece by piece: how many were written before a fault, and the fault. -/
def writePieces (a : Acc) (bs : List Byte) : List (Nat × Nat × Nat) → Nat → Run (Nat × Option Stop)
  | [], n => pure (n, none)
  | x :: xs, n => do
    let r ← tryCatch (do writeV a x.1 ((bs.drop x.2.1).take x.2.2); return none) (fun e => return some e)
    match r with
    | none => writePieces a bs xs (n + x.2.2)
    | some e => return (n, some e)

/-! ## Ending an engine's work -/

/-- Granules that the writes of an engine's work have covered whole, between them, have no stored error (R390). -/
def Eng.clearWritten (e : Eng) : Eng := { e with s := { e.s with ecc := Table.drop e.s.ecc (eccWritten e.wrote) } }

/-- The outcome of an engine's work: a value, or the stop. -/
def Run.exec {α : Type} (m : Run α) (s : State) (flags : Flags := {}) : Except Stop α × Eng :=
  let x := (m.run).run { s := s, flags := flags }
  (x.1, x.2.clearWritten)

end Sys2Proof.Machine
end

