-- ==== Sys2Proof/Machine/Flags.lean ====
section
/-! DEFINITION. Completion statuses, their precedence, and the status that flags earn (R73, R366, R367). -/
namespace Sys2Proof.Machine

/-- Status code (R366). -/
def Status.code : Status → Nat
  | .ok => 0x00 | .okFlags => 0x01 | .replaced => 0x02 | .malformed => 0x08 | .range => 0x09 | .access => 0x0A
  | .state => 0x0B | .capacity => 0x0C | .timeout => 0x0D | .aborted => 0x0E | .broken => 0x0F
  | .dataError => 0x10 | .refMissing => 0x11 | .stale => 0x12 | .deviceError => 0x1F

/-- Precedence of the statuses of started commands, 1 highest (R366); 0 for those decided before a start. -/
def Status.prec : Status → Nat
  | .deviceError => 1 | .aborted => 2 | .stale => 3 | .access => 4 | .dataError => 5 | .timeout => 6 | .range => 7
  | .broken => 8 | .refMissing => 9 | .replaced => 10 | .okFlags => 11 | .ok => 12
  | .malformed => 0 | .state => 0 | .capacity => 0

/-- The status of higher precedence (R366). -/
def worse (a b : Status) : Status := if a.prec ≤ b.prec then a else b

/-- Status of a command that met nothing but its flags (R73). -/
def Flags.status (f : Flags) : Status := if f.inv || f.ovf || f.ufl || f.sat then .okFlags else .ok

/-- A completion with this status leaves a ring with HALT_ON_ERROR running (R348), and a plan's pawls whole (R214
does not count REF_MISSING). -/
def Status.mild : Status → Bool
  | .ok | .okFlags | .replaced | .refMissing => true
  | _ => false

/-- Statuses with which no histogram record is written (R74). -/
def Status.noHist : Status → Bool
  | .aborted | .stale | .access | .deviceError => true
  | _ => false

/-- Does the opcode report a flag byte (R367)? A COPY does when it converts. -/
def flagged (copyConverts : Bool) : Nat → Bool
  | 0x01 | 0x31 | 0x04 | 0x18 | 0x20 | 0x21 | 0x29 | 0x2A => true
  | 0x02 => copyConverts
  | _ => false

/-- Status of an engine's work that ran to its end: DEVICE_ERROR if destroyed data reached it (R390), else what its
flags earn. -/
def Eng.status (e : Eng) : Status := if e.device then .deviceError else e.flags.status

/-- A stop of an engine that has met destroyed data: DEVICE_ERROR where it takes precedence (R366, R390). -/
def Stop.met (x : Stop) (e : Eng) : Stop := if e.device then { x with status := worse x.status .deviceError } else x

end Sys2Proof.Machine
end

