-- ==== Sys2Proof/Machine/Operands.lean ====
section
/-! DEFINITION. Descriptors: the fields of every opcode and the checks of R363 (14_commands.md, R345). -/
namespace Sys2Proof.Machine

/-- Opcodes (R362). -/
inductive Opcode where
  | nop | runPlan | copy | fill | combine | signal | wait | fence | pawlTake | pawlGive | gristJoin | gristLeave
  | gristStep | hopperBatch | raceDecode | raceEncode | damselSeed | damselDraw | bolterSample | snapshot | restore
  | timestamp | query | linkSchedule
  deriving DecidableEq, Repr

/-- Opcode by its code; none for a reserved code (R362). -/
def opcodeOf : Nat → Option Opcode
  | 0x00 => some .nop | 0x01 => some .runPlan | 0x02 => some .copy | 0x03 => some .fill | 0x04 => some .combine
  | 0x08 => some .signal | 0x09 => some .wait | 0x0A => some .fence | 0x0C => some .pawlTake | 0x0D => some .pawlGive
  | 0x10 => some .gristJoin | 0x11 => some .gristLeave | 0x12 => some .gristStep | 0x18 => some .hopperBatch
  | 0x20 => some .raceDecode | 0x21 => some .raceEncode | 0x28 => some .damselSeed | 0x29 => some .damselDraw
  | 0x2A => some .bolterSample | 0x30 => some .snapshot | 0x31 => some .restore | 0x38 => some .timestamp
  | 0x39 => some .query | 0x3F => some .linkSchedule | _ => none

/-! ## Fields -/

/-- Bits [hi:lo] of the word at byte offset `o`. -/
def Desc.field (d : Desc) (o hi lo : Nat) : Nat := fld (wordAt d (o / 8)) hi lo

/-- Bits [hi:lo] of OPERAND0 (R345). -/
def Desc.op0 (d : Desc) (hi lo : Nat) : Nat := fld (wordAt d 0) (32 + hi) (32 + lo)

/-- A virtual address at bits [47:0] of the word at offset `o`. -/
def Desc.addr (d : Desc) (o : Nat) : Nat := d.field o 47 0

/-- OPCODE, IRQ_NOW, SIDE_LEN and SIDE_BASE (R345). -/
def Desc.opcode (d : Desc) : Nat := fld (wordAt d 0) 7 0
def Desc.irqNow (d : Desc) : Bool := bitAt (wordAt d 0) 9
def Desc.sideLen (d : Desc) : Nat := d.field 8 63 48
def Desc.sideBase (d : Desc) : Nat := d.addr 8

/-- RING_EN, RING of COPY and COMBINE (R371, R374). -/
def Desc.ringEn (d : Desc) : Bool := d.op0 31 31 == 1
def Desc.ring (d : Desc) : Nat := d.op0 30 25

/-- COPY and FILL (R371). -/
def Desc.src10 (d : Desc) : Nat := d.addr 0x10
def Desc.fmtSrc (d : Desc) : BitVec 8 := BitVec.ofNat 8 (d.field 0x10 63 56)
def Desc.fmtDst (d : Desc) : BitVec 8 := BitVec.ofNat 8 (d.field 0x10 55 48)
def Desc.dst18 (d : Desc) : Nat := d.addr 0x18
def Desc.tag (d : Desc) : Nat := d.field 0x18 63 48
def Desc.shape (d : Desc) : Nat := d.addr 0x20
def Desc.len (d : Desc) : Nat := d.field 0x28 63 0

/-- COMBINE (R374). -/
def Desc.scatter (d : Desc) : Bool := d.op0 24 24 == 1
def Desc.arrival (d : Desc) : Bool := d.op0 23 23 == 1
def Desc.init (d : Desc) : Bool := d.op0 22 22 == 1
def Desc.dst10 (d : Desc) : Nat := d.addr 0x10
def Desc.src18 (d : Desc) : Nat := d.addr 0x18
def Desc.index (d : Desc) : Nat := d.field 0x20 63 52
def Desc.count (d : Desc) : Nat := d.field 0x20 51 39

/-- TIMEOUT of FENCE and PAWL_TAKE at 0x10, of WAIT at 0x20 (R375, R379). -/
def Desc.timeout10 (d : Desc) : Nat := d.field 0x10 31 0
def Desc.timeout20 (d : Desc) : Nat := d.field 0x20 31 0
def noLimit : Nat := 0xFFFF_FFFF

/-! ## Reserved fields (R14) -/

/-- A mask of bits [hi:lo]. -/
def bits (hi lo : Nat) : Nat := 2 ^ (hi + 1) - 2 ^ lo

/-- OPERAND0 bits as bits of word 0. -/
def opBits (hi lo : Nat) : Nat := bits (32 + hi) (32 + lo)

/-- The bits that an opcode gives a meaning, in words 0 and 2 to 7 (R369 to R386). -/
def usedBits : Opcode → List Nat
  | .nop | .timestamp => [0, 0, 0, 0, 0, 0, 0, 0]
  | .runPlan | .restore => [0, 0, bits 47 0, 0, 0, 0, 0, 0]
  | .snapshot => [opBits 3 0, 0, bits 31 0, bits 47 0, bits 63 0, 0, 0, 0]
  | .copy => [opBits 31 25, 0, bits 63 0, bits 63 0, bits 47 0, bits 63 0, 0, 0]
  | .fill => [opBits 31 0, 0, bits 55 48, bits 47 0, bits 47 0, 0, 0, 0]
  | .combine => [opBits 31 22, 0, bits 63 56 + bits 47 0, bits 63 0, bits 63 39, bits 63 0, 0, 0]
  | .signal => [opBits 0 0, 0, bits 47 0, bits 63 0, 0, 0, 0, 0]
  | .wait => [opBits 1 0, 0, bits 47 0, bits 63 0, bits 31 0, 0, 0, 0]
  | .fence => [opBits 31 16 + opBits 0 0, 0, bits 31 0, 0, 0, 0, 0, 0]
  | .pawlTake => [opBits 9 0, 0, bits 31 0, 0, 0, 0, 0, 0]
  | .pawlGive => [opBits 9 0, 0, 0, 0, 0, 0, 0, 0]
  | .gristJoin => [opBits 31 31 + opBits 15 0, 0, bits 63 0, bits 47 0, bits 47 0, bits 63 0, 0, 0]
  | .gristLeave => [opBits 11 0, 0, 0, 0, 0, 0, 0, 0]
  | .gristStep => [opBits 31 31 + opBits 8 0, 0, bits 47 0, 0, 0, 0, 0, 0]
  | .hopperBatch => [opBits 31 30 + opBits 5 0, 0, bits 47 0, 0, 0, 0, 0, 0]
  | .raceDecode | .raceEncode =>
    [opBits 31 30 + opBits 9 8 + opBits 5 0, 0, bits 47 0, bits 47 0, bits 47 0, bits 31 0, 0, 0]
  | .damselSeed => [opBits 31 0, 0, bits 47 0, bits 63 0, bits 31 0, 0, 0, 0]
  | .damselDraw =>
    [opBits 31 12 + opBits 7 0, 0, bits 63 0, bits 47 0, bits 63 0, bits 47 0, bits 63 32, bits 34 0]
  | .bolterSample =>
    [opBits 31 17 + opBits 10 0, 0, bits 47 0, bits 47 0, bits 47 0, bits 63 0, bits 63 32 + bits 18 0, bits 47 0]
  | .query => [opBits 31 0, 0, 0, 0, 0, 0, 0, 0]
  | .linkSchedule => [opBits 0 0, 0, bits 47 0, 0, 0, 0, 0, 0]

/-- The common header's bits of words 0 and 1 (R345). -/
def headerBits : List Nat := [bits 9 9 + bits 7 0, bits 63 0]

/-- Does every reserved bit of the descriptor hold 0 (R14)? -/
def reservedZero (o : Opcode) (d : Desc) : Bool :=
  (List.range 8).all (fun i => (wordAt d i).toNat &&& (2 ^ 64 - 1 - ((usedBits o).getD i 0 ||| headerBits.getD i 0)) == 0)

/-! ## Ranges, encodings and alignment (R363 item 3) -/

def aligned (a n : Nat) : Bool := a % n == 0

/-- Are the low `bits` of a format the only ones set in a FILL value (R371)? -/
def valueFits (v bits : Nat) : Bool := v < 2 ^ bits

/-- The ranges, encodings and alignments that 14_commands.md gives the fields of an opcode. -/
def fieldsOk (o : Opcode) (d : Desc) : Bool :=
  match o with
  | .nop | .timestamp | .pawlTake | .pawlGive | .gristLeave | .gristJoin => true
  | .runPlan | .restore => aligned (d.addr 0x10) 64
  | .snapshot => aligned (d.addr 0x18) 64
  | .copy =>
    fmtOk .other false d.fmtSrc && fmtOk .dest false d.fmtDst && aligned d.shape 16 &&
    (if d.ringEn then d.shape == 0 && d.fmtSrc == d.fmtDst else d.len == 0 && d.tag == 0)
  | .fill =>
    fmtOk .dest false d.fmtDst && aligned d.shape 16 && valueFits (d.op0 31 0) (storageBits (fwCode d.fmtDst))
  | .combine =>
    aligned d.dst10 1024 && (d.field 0x10 63 56 == 1 || d.field 0x10 63 56 == 3) &&
    d.len != 0 && d.len ≤ 2 ^ 36 && aligned d.len (if d.field 0x10 63 56 == 1 then 4 else 2) &&
    (if d.ringEn then d.index == 0 && d.count == 0 && !d.arrival && !d.init
     else 1 ≤ d.count && d.count ≤ 4096 && d.index < d.count && !d.scatter)
  | .signal => aligned (d.addr 0x10) 8
  | .wait => aligned (d.addr 0x10) 8 && d.op0 1 0 != 3
  | .fence => true
  | .gristStep => aligned (d.addr 0x10) 64 && 1 ≤ d.op0 8 0 && d.op0 8 0 ≤ 256
  | .hopperBatch => aligned (d.addr 0x10) 64 && (d.op0 31 31 == 1 || d.addr 0x10 == 0)
  | .raceDecode | .raceEncode =>
    aligned (d.addr 0x10) 64 && (d.op0 31 31 == 1 || d.addr 0x10 == 0) && aligned (d.addr 0x18) 64
  | .damselSeed => aligned (d.addr 0x10) 32 && 2 ≤ d.op0 31 0
  | .damselDraw =>
    let mode := d.op0 22 22
    d.op0 31 25 < 96 && d.op0 24 23 != 3 && fmtOk .dest false (BitVec.ofNat 8 (d.op0 7 0)) &&
    1 ≤ d.field 0x38 34 0 && d.field 0x38 34 0 ≤ 2 ^ 34 &&
    (if mode = 0 then
       d.op0 20 12 == 0 && d.op0 21 21 == 0 && d.field 0x30 63 32 == 0 && d.addr 0x18 == 0 && aligned (d.addr 0x28) 32
     else 1 ≤ d.op0 20 12 && d.op0 20 12 ≤ 256 && aligned (d.addr 0x28) 64 && 2 ≤ d.field 0x30 63 32) &&
    (if d.op0 24 23 == 2 then d.field 0x20 63 0 == 0 else d.field 0x10 63 48 == 0)
  | .bolterSample =>
    d.op0 31 25 < 96 && fmtOk .other false (BitVec.ofNat 8 (d.op0 24 17)) && d.op0 10 0 ≤ 1024 &&
    aligned (d.addr 0x38) 32
  | .query => true
  | .linkSchedule => if d.op0 0 0 == 1 then d.addr 0x10 == 0 else aligned (d.addr 0x10) 64

/-- The checks of R363, in one: the opcode of a descriptor that passes them. -/
def checkDesc (d : Desc) : Option Opcode :=
  match opcodeOf d.opcode with
  | none => none
  | some o => if reservedZero o d && fieldsOk o d && aligned d.sideBase 16 then some o else none

end Sys2Proof.Machine
end

