-- ==== Sys2Proof/Machine/Rings.lean ====
section
/-! DEFINITION. Submission and completion rings: side records, ends of commands, completion entries, moderation, halts
and fetches (13_host_rings.md). -/
namespace Sys2Proof.Machine

/-! ## The running command -/

/-- The command that ring `r` of function `f` runs. -/
def State.running (s : State) (f r : Nat) : Option Running := (s.sq f r).running

/-- Replace the running command. -/
def State.setRunning (s : State) (f r : Nat) (c : Option Running) : State :=
  s.setSq f r { s.sq f r with running := c }

/-- Change the running command, if there is one. -/
def State.modRunning (s : State) (f r : Nat) (g : Running → Running) : State :=
  match s.running f r with
  | some c => s.setRunning f r (some (g c))
  | none => s

/-- The running command of a ring, when it is one of opcode `o` whose effect has not begun. -/
def State.fresh (s : State) (f r : Nat) (o : Opcode) : Option Running :=
  match s.running f r with
  | some c =>
    if c.wait = .none ∧ c.done = none ∧ opcodeOf c.desc.opcode = some o ∧ (s.part (s.partOf f)).state = .active
    then some c else none
  | none => none

/-- Access of a function's ring and side-buffer traffic (R161). -/
def ringAcc (f r : Nat) : Acc := { f := f, engine := 8, unit := r, host := true }
def sideAcc (f r : Nat) : Acc := { f := f, engine := 7, unit := r, host := true }

/-- Accesses of a stone, of a house's Hopper and of its Race (R161, R354). -/
def stoneAcc (f stone : Nat) : Acc := { f := f, engine := 0, unit := stone }
def hopperAcc (f h : Nat) : Acc := { f := f, engine := 4, unit := h, host := true }
def raceAcc (f h : Nat) : Acc := { f := f, engine := 5, unit := h, host := true }

/-- Access of a unit that the table of R354 does not name: ENGINE and UNIT of its fault record are free values. -/
def State.unnamedAcc (s : State) (f : Nat) : Acc :=
  { f := f, engine := (Config.freeByte s.freeCount).toNat, unit := (Config.freeByte (s.freeCount + 1)).toNat }

/-! ## Ends of commands -/

/-- Status and RESULT of a command that ends, merged with an end it already has by precedence (R366). A status decided
before the start stands alone (R364). -/
def mergeEnd (old : Option (Status × Word32)) (st : Status) (res : Word32) : Option (Status × Word32) :=
  match old with
  | none => some (st, res)
  | some (st0, res0) => if st0.prec = 0 then old else if st.prec < st0.prec then some (st, res) else some (st0, res0)

/-- The next place in the order of completions (R353). -/
def State.ended (s : State) : State := { s with ends := s.ends + 1 }

/-- The status that a command ends with, once a fault of its side buffer is counted in (R354, R366). -/
def Running.statusOf (c : Running) (st : Status) : Status :=
  match c.sideEnd with
  | some x => worse st x
  | none => st

/-- End the running command. It waits then for its completion entry (R353). -/
def State.finish (s : State) (f r : Nat) (st : Status) (res : Word32) : State :=
  s.ended.modRunning f r (fun c => { c with done := mergeEnd c.done (c.statusOf st) res, wait := .none, doneAt := s.ends })

/-- Add flags to the running command. -/
def State.addFlags (s : State) (f r : Nat) (fl : Flags) : State :=
  s.modRunning f r (fun c => { c with flags := c.flags.or fl })

/-- The bytes of a side record: header and body, padded to 16 bytes (R354). -/
def sideBytes (kind : Nat) (body : List Byte) : List Byte :=
  natLe 1 kind ++ natLe 1 0 ++ natLe 2 body.length ++ natLe 4 0 ++ natLe 8 0 ++ body ++
  natLe ((16 - body.length % 16) % 16) 0

/-- Write one side record, if it fits and no earlier one failed (R354). -/
def State.side (s : State) (f r kind : Nat) (body : List Byte) : State :=
  match s.running f r with
  | none => s
  | some c =>
    let bs := sideBytes kind body
    if c.sideOvf || c.sideEnd.isSome then s.setRunning f r (some { c with sideOvf := true })
    else if c.sideUsed + bs.length / 16 > c.desc.sideLen then s.setRunning f r (some { c with sideOvf := true })
    else
      let x := (writeV (sideAcc f r) (c.desc.sideBase + 16 * c.sideUsed) bs).exec s
      match x.1 with
      | .ok _ => x.2.s.modRunning f r (fun c => { c with sideUsed := c.sideUsed + bs.length / 16 })
      | .error e => x.2.s.modRunning f r (fun c => { c with sideEnd := some (e.met x.2).status })

/-- Write side records in order, the fault record last (R354). -/
def State.sides (s : State) (f r : Nat) (recs : List (Nat × List Byte)) (fault : Option FaultRec) : State :=
  let s := recs.foldl (fun s x => s.side f r x.1 x.2) s
  match fault with
  | some x => s.side f r 0x03 x.body
  | none => s

/-- End a command that has started: side records, then its status and RESULT. -/
def State.finishWith (s : State) (f r : Nat) (st : Status) (res : Word32) (recs : List (Nat × List Byte) := [])
    (fault : Option FaultRec := none) : State :=
  (s.sides f r recs fault).finish f r st res

/-- RESULT of a command that a check turned away: 0 or the chunks of a COMBINE where the results table gives them
(R387), else a free value. -/
def State.failResult (s : State) (d : Desc) : Word32 × State :=
  match opcodeOf d.opcode with
  | some .combine => (BitVec.ofNat 32 (ceilDiv d.len 1024), s)
  | some .nop | some .copy | some .fill | some .fence | some .pawlTake | some .pawlGive | some .gristLeave
  | some .damselSeed => (0, s)
  | _ => s.freeWord

/-- Turn a command away before it starts: the status alone, flag byte 0, no side record (R364). -/
def State.fail (s : State) (f r : Nat) (st : Status) : State :=
  match s.running f r with
  | none => s
  | some c =>
    let x := s.failResult c.desc
    x.2.ended.setRunning f r (some { c with done := some (st, x.1), flags := {}, wait := .none, doneAt := x.2.ends })

/-- End a command whose engine stopped at a read made while it was bound: the status and the fault record (R364). -/
def State.failRead (s : State) (f r : Nat) (e : Stop) : State :=
  match s.running f r with
  | none => s
  | some c =>
    let x := s.failResult c.desc
    let s := x.2.sides f r [] e.report
    s.ended.modRunning f r (fun c =>
      { c with done := mergeEnd c.done (c.statusOf e.status) x.1, flags := {}, wait := .none, doneAt := s.ends })

/-- End a started command whose engine stopped: its status, the fault record last; RESULT as the results table gives it for what was
done (R387), else as a failing command's. -/
def State.stopped (s : State) (f r : Nat) (e : Stop) (recs : List (Nat × List Byte) := []) (res : Option Word32 := none) : State :=
  match s.running f r with
  | none => s
  | some c =>
    let x := match res with | some v => (v, s) | none => s.failResult c.desc
    x.2.finishWith f r e.status x.1 recs e.report

/-! ## Moderation (R356) -/

/-- COUNT_TH as a number (R351). -/
def CompRing.threshold (q : CompRing) : Nat := if q.countTh = 0 then 256 else q.countTh.toNat

/-- The moderation step of an entry written: the ring and whether it sends its message. -/
def CompRing.onEntry (q : CompRing) (irqNow : Bool) : CompRing × Bool :=
  match q.mod with
  | .armed =>
    if irqNow || q.threshold == 1 || q.timer == 0 then ({ q with mod := .fired }, true)
    else ({ q with mod := .pending, count := 1 }, false)
  | .pending =>
    if q.count + 1 ≥ q.threshold || irqNow then ({ q with mod := .fired, count := q.count + 1 }, true)
    else ({ q with count := q.count + 1 }, false)
  | .fired => (q, false)

/-- The moderation step of an accepted CQ_HEAD with REARM = 1, after the head has moved. -/
def CompRing.onRearm (q : CompRing) : CompRing × Bool :=
  match q.mod with
  | .fired =>
    if q.used = 0 then ({ q with mod := .armed }, false)
    else if q.used ≥ q.threshold then ({ q with count := q.used }, true)
    else ({ q with mod := .pending, count := q.used }, false)
  | _ => (q, false)

/-! ## Completion entries (R351 to R353) -/

/-- The 16 bytes of a completion entry (R352). -/
def entryBytes (q : CompRing) (r : Nat) (c : Running) (st : Status) (res : Word32) (halted : Bool) : List Byte :=
  let phase := ((q.tail.toNat / 2 ^ q.log2.toNat) % 2 + 1) % 2
  natLe 4 c.seq.toNat ++ natLe 2 0 ++ natLe 1 (r * 16) ++ natLe 1 st.code ++
  natLe 1 c.flags.byte ++ natLe 1 (phase + 2 * b2n halted + 4 * b2n c.sideOvf) ++ natLe 2 c.sideUsed ++ natLe 4 res.toNat

/-- FENCEs of the function learn that a command has completed (R378). -/
def State.tellFences (s : State) (f r : Nat) (seq : Word32) : State :=
  (List.range 16).foldl (fun s q =>
    match s.running f q with
    | some c =>
      match c.wait with
      | .fence on =>
        let left := on.filter (fun x => !(x.1 == r && x.2 == seq))
        if left = [] then s.finish f q .ok 0 else s.setRunning f q (some { c with wait := .fence left })
      | _ => s
    | none => s) s

/-- Staging that the command held is free again (R177). -/
def State.unstage (s : State) (c : Running) : State :=
  match c.staged with
  | some (h, _) => (s.setHouse h { s.house h with staged := 0 }).evalWeir (.copyStaging (houseIx h))
  | none => s

/-- A command has completed: its ring runs nothing; a STOPPING ring becomes DISABLED, one that halts enters HALTED
(R343, R353); where the completion itself halts it, HALT_STATUS and the notice say so (R348, R350). -/
def State.retire (s : State) (f r : Nat) (c : Running) (halts : Bool) (st : Status) (notify : Bool) : State :=
  let s := s.unstage c
  let q := s.sq f r
  let q := { q with running := none }
  let s :=
    if q.state = .stopping then s.setSq f r { q with state := .disabled }
    else if halts then
      let s := s.setSq f r { q with state := .halted, haltStatus := if notify then BitVec.ofNat 8 st.code else q.haltStatus }
      if notify then s.notice f .sqHalt else s
    else s.setSq f r q
  s.tellFences f r c.seq

/-- A completion ring becomes FAULTED: the first lost entry is recorded, every submission ring bound to it that runs
nothing halts now, the others when their command has finished (R353). -/
def State.faultCq (s : State) (f cqi r : Nat) (seq : Word32) : State :=
  let q := s.cq f cqi
  let q := if q.lost then q else { q with lost := true, lostSeq := seq, lostSq := BitVec.ofNat 4 r }
  let s := s.setCq f cqi { q with state := .faulted }
  let s := (List.range 16).foldl (fun s i =>
    let x := s.sq f i
    if x.cq.toNat = cqi ∧ x.state = .running ∧ x.running = none then s.setSq f i { x with state := .halted } else s) s
  s.notice f .cqFault

/-- Does the completion halt its ring (R348, R350)? -/
def haltsRing (q : SubRing) (c : Running) (st : Status) : Bool := c.forceHalt || (q.haltOnErr && !st.mild)

/-- Has a command of another ring with the same completion ring completed earlier, its entry still to be written (R353)? -/
def State.entryAhead (s : State) (f r : Nat) (c : Running) : Bool :=
  (List.range 16).any (fun q => q != r && (s.sq f q).cq == (s.sq f r).cq &&
    (match s.running f q with | some k => k.done.isSome && k.doneAt < c.doneAt | none => false))

/-- Does a command with this status advance its stream (R322)? -/
def Status.advances : Status → Bool
  | .ok | .okFlags | .replaced => true
  | _ => false

/-- The advanced counter of a stream is written to its record as the command completes, before the entry (R322). A fault of that write
is the command's. -/
def State.writeCounter (s : State) (f r : Nat) : State :=
  match s.running f r with
  | none => s
  | some c =>
    match c.counter, c.done with
    | some (va, n), some (st, res) =>
      if !st.advances then s
      else
        let x := (writeV (stoneAcc f (c.desc.op0 31 25)) va.toNat (natLe 16 n.toNat)).exec s
        match x.1 with
        | .ok _ => x.2.s
        | .error e => x.2.s.stopped f r (e.met x.2) [] (some res)
    | _, _ => s

/-- A command that has ended completes: its entry is written, unless its completion ring is disabled or FAULTED (R352, R353). -/
def State.completeNow (s : State) (f r : Nat) (c : Running) (st : Status) (res : Word32) : State :=
  let q := s.sq f r
  let cqi := q.cq.toNat
  let k := s.cq f cqi
  let halts := haltsRing q c st && q.state != .stopping
  match k.state with
  | .disabled => s.retire f r c false st false
  | .faulted => s.retire f r c true st halts
  | .running =>
    let va := k.base.toNat * 4096 + k.tail.toNat % k.entries * 16
    let x := (writeV { ringAcc f r with strict := true } va (entryBytes k r c st res halts)).exec s
    match x.1 with
    | .error _ => (x.2.s.faultCq f cqi r c.seq).retire f r c true st halts
    | .ok _ =>
      let s := x.2.s
      let m := ({ k with tail := k.tail + 1 }).onEntry c.desc.irqNow
      let s := (s.setCq f cqi m.1).evalWeir (.cq (fnId f) (ringIx cqi))
      let s := if m.2 then s.message f k.vector.toNat else s
      s.retire f r c halts st true

/-- Must the entry of a command wait: while its completion ring is full, or while an entry of a command that completed earlier is to
come first (R353)? -/
def State.entryWaits (s : State) (f r : Nat) (c : Running) : Bool :=
  let k := s.cq f (s.sq f r).cq.toNat
  k.state == .running && (decide (k.used ≥ k.entries) || s.entryAhead f r c)

/-- Complete a command that has ended. Nothing happens during a reset of the function (R359). -/
def State.complete (s : State) (f r : Nat) : State :=
  match s.running f r with
  | none => s
  | some c =>
    if c.done.isNone || (s.fn f).resetting || s.entryWaits f r c then s
    else
      let s := s.writeCounter f r
      match s.running f r with
      | none => s
      | some c =>
        match c.done with
        | none => s
        | some (st, res) => s.completeNow f r c st res

/-! ## Fetch (R344 to R350, R363) -/

/-- May the ring fetch a descriptor now? -/
def State.canFetch (s : State) (f r : Nat) : Bool :=
  let q := s.sq f r
  q.state == .running && q.running == none && q.tail != q.head &&
  (s.part (s.partOf f)).state == .active && s.tenant f && !(s.fn f).d3hot && !(s.fn f).resetting && s.power == .run

/-- Fetch the descriptor at HEAD and make the checks that come before every opcode's own (R347, R350, R363, R254). -/
def State.fetch (s : State) (f r : Nat) : State :=
  if !s.canFetch f r then s
  else
    let q := s.sq f r
    let va := q.base.toNat * 4096 + q.head.toNat % q.entries * 64
    let x := (readWords (ringAcc f r) va 8).exec s
    let s := x.2.s
    let c : Running := { seq := q.seqNext }
    let start (c : Running) (s : State) : State :=
      (s.setSq f r { s.sq f r with head := q.head + 1, seqNext := q.seqNext + 1, running := some c }).evalWeir
        (.sq (fnId f) (ringIx r))
    match x.1 with
    | .error e =>
      let w := s.freeWord
      start { c with done := some (e.status, w.1), forceHalt := e.status != .deviceError, doneAt := w.2.ends } w.2.ended
    | .ok d =>
      let s := start { c with desc := d } s
      match checkDesc d with
      | none => s.fail f r .malformed
      | some _ => if q.overshot && !(s.bind f).overOk then s.fail f r .access else s

end Sys2Proof.Machine
end

