-- ==== Sys2Proof/Machine/Links.lean ====
section
/-! DEFINITION. Packets, their queues and link failures: what the other engines use of the links (R233, R234, R240). -/
namespace Sys2Proof.Machine

/-! ## Packets (R233) -/

/-- Payload rounded up to 32 bytes. -/
def padded32 (n : Nat) : Nat := ceilDiv n 32 * 32

/-- The bytes of a packet. -/
def Packet.bytes (p : Packet) : List Byte :=
  let n := p.payload.length
  natLe 8 (n + p.tag.toNat * 2 ^ 24 + p.src * 2 ^ 40 + p.dst * 2 ^ 50 + p.kind * 2 ^ 60) ++
  natLe 8 p.addr ++
  natLe 8 (p.ring * 2 ^ 23 + p.op * 2 ^ 29 + b2n p.init * 2 ^ 31 + p.fmt.toNat * 2 ^ 32 + p.countM1 * 2 ^ 40 +
    p.index * 2 ^ 52) ++
  natLe 4 0 ++ natLe 4 p.seq.toNat ++ p.payload ++ natLe (padded32 n - n) 0

/-- A packet header read from 32 bytes: the packet without its payload and its payload length; none for a reserved KIND, a
LEN above 4,096 or a reserved field that is not zero, which is a failure of reason PROTOCOL. -/
def parseHeader (bs : List Byte) : Option (Packet × Nat) :=
  let w0 := word64At bs 0
  let w1 := word64At bs 8
  let w2 := word64At bs 16
  let w3 := word64At bs 24
  let kind := fld w0 63 60
  let n := fld w0 12 0
  if kind = 0 || kind > 4 || n > 4096 || fld w0 23 13 != 0 || fld w1 63 44 != 0 || fld w2 22 0 != 0 || fld w3 31 0 != 0 then none
  else some ({ kind := kind, dst := fld w0 59 50, src := fld w0 49 40, tag := BitVec.ofNat 16 (fld w0 39 24),
               addr := fld w1 43 0, index := fld w2 63 52, countM1 := fld w2 51 40,
               fmt := BitVec.ofNat 8 (fld w2 39 32), init := bitAt w2 31, op := fld w2 30 29, ring := fld w2 28 23,
               seq := BitVec.ofNat 32 (fld w3 63 32) }, n)

/-! ## Failures (R240, R242) -/

def reasonLos : BitVec 8 := 0x01
def reasonFec : BitVec 8 := 0x02
def reasonMark : BitVec 8 := 0x03
def reasonAlign : BitVec 8 := 0x04
def reasonCount : BitVec 8 := 0x05
def reasonTag : BitVec 8 := 0x06
def reasonPeer : BitVec 8 := 0x07
def reasonSkew : BitVec 8 := 0x08
def reasonTsync : BitVec 8 := 0x09
def reasonStall : BitVec 8 := 0x0A
def reasonRoute : BitVec 8 := 0x0B
def reasonProtocol : BitVec 8 := 0x0C
def reasonLocal : BitVec 8 := 0x0D
def reasonRoot : BitVec 8 := 0x0E

/-- Does record `a` come before `b`: smaller HALT_TURN, then HALT_ORIGIN, then HALT_REASON (R242)? -/
def Halt.before (a b : Halt) : Bool :=
  if a.turn ≠ b.turn then a.turn < b.turn
  else if a.origin ≠ b.origin then a.origin < b.origin
  else a.reason < b.reason

/-- The record kept of two (R242). -/
def keepHalt (old : Option Halt) (new : Halt) : Option Halt :=
  match old with
  | none => some new
  | some o => if new.before o then some new else some o

/-- Is a schedule in SYNC or RUN (R225)? -/
def State.linkUp (s : State) : Bool := s.leat.state == .sync || s.leat.state == .run

/-- This module detects a failure: it halts at the next turn boundary, keeps its own first detection and the earlier of
the halt records (R241, R242, R244). -/
def State.linkFail (s : State) (port : Nat) (reason : BitVec 8) : State :=
  if !s.linkUp then s
  else
    let h : Halt := { turn := s.leat.turn, origin := s.moduleId.toNat, port := port, reason := reason }
    { s with leat := { s.leat with haltNext := true, halt := keepHalt s.leat.halt h, own := s.leat.own.or (some h) } }

/-! ## Sending (R227, R234) -/

/-- The route entry of a destination (R227). -/
def State.route (s : State) (dst : Nat) : Option (Nat × Nat) := (s.leat.sched.routes.getD dst none)

/-- Append a packet to the channel that its route names; a destination without a VALID entry fails with ROUTE (R233). -/
def State.pushPacket (s : State) (p : Packet) : State :=
  match s.route p.dst with
  | none => s.linkFail 0 reasonRoute
  | some (port, c) =>
    let x := s.port port
    s.setPort port (x.setChan c { x.chan c with tx := (x.chan c).tx ++ p.bytes })

/-- Give a packet of this module its SEQ and send it. -/
def State.emit (s : State) (p : Packet) : State × Word32 :=
  let q := Table.get (0 : Word32) s.leat.seqs p.dst
  let s := { s with leat := { s.leat with seqs := Table.put 0 s.leat.seqs p.dst (q + 1) } }
  (s.pushPacket { p with seq := q, src := s.moduleId.toNat }, q)

/-- Packets that wait are sent while fewer than 4,096 await their ACK (R234); `n` bounds how many. -/
def State.sendQueued (s : State) : Nat → State
  | 0 => s
  | n + 1 =>
    match s.leat.queued with
    | [] => s
    | (p, a) :: rest =>
      if s.leat.awaited.length ≥ 4096 then s
      else
        let x := ({ s with leat := { s.leat with queued := rest } }).emit p
        ({ x.1 with leat := { x.1.leat with awaited := x.1.leat.awaited ++ [{ a with seq := x.2 }] } }).sendQueued n

/-- Every waiting packet that may go is sent. -/
def State.sendAll (s : State) : State := s.sendQueued s.leat.queued.length

/-- Queue bytes that a command writes to another module. Bytes that follow the last queued ones of the same command within one
4 KiB page join their packet, up to 4,096 bytes (R234). -/
def State.queueBytes (s : State) (like : Packet) (f r : Nat) (cmd : Word32) (m pa : Nat) (bs : List Byte) : State :=
  let fresh := s.leat.queued ++ [({ like with dst := m, addr := pa, payload := bs }, { dst := m, f := f, r := r, cmd := cmd })]
  let q := match s.leat.queued.getLast? with
    | some (p, a) =>
      if a.f = f ∧ a.r = r ∧ a.cmd = cmd ∧ p.kind = like.kind ∧ p.dst = m ∧ p.addr + p.payload.length = pa ∧
         p.addr / 4096 = pa / 4096 then
        s.leat.queued.dropLast ++ [({ p with payload := p.payload ++ bs }, a)]
      else fresh
    | none => fresh
  { s with leat := { s.leat with queued := q } }

/-- Packets of a command that await an ACK or wait to be sent. -/
def State.owedAcks (s : State) (f r : Nat) (cmd : Word32) : Nat :=
  (s.leat.awaited.filter (fun a => a.f == f && a.r == r && a.cmd == cmd)).length +
  (s.leat.queued.filter (fun a => a.2.f == f && a.2.r == r && a.2.cmd == cmd)).length

/-- Answer a packet with an ACK (R234). -/
def State.ack (s : State) (p : Packet) : State := s.pushPacket { kind := 4, dst := p.src, src := s.moduleId.toNat, seq := p.seq }

end Sys2Proof.Machine
end

