-- ==== Sys2Proof/Machine/Endings.lean ====
section
/-! DEFINITION. How work ends early: pawls, combine tags, sets, plans, aborts, retirement of stones, resets of functions
(R101, R185, R210 to R214, R252, R349, R359, R397, R400). -/
namespace Sys2Proof.Machine

/-! ## Pawls (R211 to R215) -/

/-- A stage pawl granted with BROKEN set marks its command (R215). -/
def State.markPlanBroken (s : State) (f r : Nat) : State :=
  s.modRunning f r (fun c => match c.wait with | .plan p => { c with wait := .plan { p with broken := true } } | _ => c)

/-- A queued taker receives a pawl (R212, R214, R215). -/
def State.grantPawl (s : State) (t : Taker) (broken : Bool) : State :=
  match t with
  | .ring f r => s.finish f r (if broken then .broken else .ok) 0
  | .set p i =>
    let x := s.setCtx p i
    let s := s.putCtx p i { x with pawl := .held }
    if broken then s.markPlanBroken x.f x.r else s

/-- The holder of a pawl is gone: the head of the queue receives it, or it is FREE with the flag as given (R212, R214). -/
def State.passPawl (s : State) (n : Nat) (broken : Bool) : State :=
  let x := s.pawl n
  match x.queue with
  | [] => s.setPawl n { x with holder := none, broken := broken }
  | t :: ts => (s.setPawl n { x with holder := some t, broken := false, queue := ts }).grantPawl t broken

/-- A taker ends: pawls it holds are released with BROKEN set, and it leaves every queue (R214). -/
def State.dropTaker (s : State) (t : Taker) : State :=
  s.pawls.foldl (fun s c =>
    let x := s.pawl c.1
    if x.holder = some t then s.passPawl c.1 true
    else s.setPawl c.1 { x with queue := x.queue.filter (fun u => u ≠ t) }) s

/-- Order of takers that arrive in one clock: rings by function and ring, then sets by stone and set (R213). -/
def Taker.key : Taker → Nat
  | .ring f r => f * 16 + r
  | .set p i => 65536 + p * 4 + i

/-! ## Combine tags (R185) -/

/-- Free the slots of held chunks (R182, R185). -/
def State.freeSlotsOf (s : State) (held : List HeldChunk) : State :=
  held.foldl (fun s h =>
    let x := s.house h.house
    (s.setHouse h.house { x with slotsUsed := x.slotsUsed - 1, slotsOver := x.slotsOver - b2n h.overshot }).evalWeir
      (.combineSlots (houseIx h.house))) s

/-- A tag breaks: every waiting contributor completes with `st`, every slot is freed, held chunks that
packets brought are acknowledged; `skip` ends by its own status. -/
def State.breakTag (s : State) (p t : Nat) (st : Status) (skip : Option (Nat × Nat)) : State :=
  let x := s.tag p t
  if x.count = 0 || x.broken then s
  else
    let s := s.freeSlotsOf x.held
    let s := ((x.held.filterMap (·.packet)).dedup).foldl (fun s k => s.pushPacket
      { kind := 4, dst := k.1, src := s.moduleId.toNat, seq := k.2 }) s
    let s := s.setTag p t { x with broken := true, held := [], parts := x.parts }
    x.parts.foldl (fun s k =>
      if k.remote.isSome || x.finished.contains k.index || skip = some (k.f, k.r) then s
      else s.finish k.f k.r st (BitVec.ofNat 32 (ceilDiv x.len 1024))) s

/-- Tags of a partition on which a command of ring (f, r) still waits. -/
def State.tagsOf (s : State) (f r : Nat) : List (Nat × Nat) :=
  (s.tags.filter (fun c => c.2.parts.any (fun k => k.remote.isNone && k.f == f && k.r == r && !c.2.finished.contains k.index))).map
    (fun c => (c.1 / 65536, c.1 % 65536))

/-! ## Sets -/

/-- Every programmable table of a set is free again (R140). -/
def Stone.freeTables (x : Stone) (ts : List Nat) : Stone :=
  { x with tables := Table.drop x.tables (fun k => ts.contains k) }

/-- A set returns to EMPTY: its windows, groups, areas and tables are free (R88, R90, R96). -/
def Stone.empty (x : Stone) (i : Nat) : Stone :=
  let c := x.set i
  let x := (x.freeTables c.tables).setSet i {}
  if x.loaded = some i then { x with loaded := none, switching := false, atBoundary := true, expired := false } else x

/-- Sets that a command binds, on stones that still work: physical stone and set index, ascending. -/
def State.setsOf (s : State) (f r : Nat) (seq : Word32) : List (Nat × Nat) :=
  s.stones.flatMap (fun c =>
    if c.2.state = .active then
      c.2.sets.filterMap (fun k => if k.2.state ≠ .empty ∧ k.2.f = f ∧ k.2.r = r ∧ k.2.seq = seq then some (c.1, k.1) else none)
    else [])

/-- Discard a set: its pawl is released with BROKEN set or its place in the queue given up, then it is EMPTY (R101, R214). -/
def State.discardSet (s : State) (p i : Nat) : State :=
  let s := s.dropTaker (.set p i)
  s.setStone p ((s.stone p).empty i)

/-- SNAPSHOTs of an instance that wait for its sets end with `st`; their image is incomplete (R260, R399). -/
def State.endSnapshots (s : State) (f r : Nat) (seq : Word32) (st : Status) : State :=
  (List.range 16).foldl (fun s q =>
    match s.running f q with
    | some k =>
      if k.wait = .snapshot r seq then
        let x := s.failResult k.desc
        x.2.finish f q st x.1
      else s
    | none => s) s

/-- Sets of an instance that its SNAPSHOT stopped go on, when the SNAPSHOT itself is aborted: R96 lets STOPPING lead back. DESIGN
CHOICE, log entry 15. -/
def State.resumeSets (s : State) (f r : Nat) (seq : Word32) : State :=
  (s.setsOf f r seq).foldl (fun s x =>
    let c := s.setCtx x.1 x.2
    if c.state = .stopping then s.putCtx x.1 x.2 { c with state := .waiting } else s) s

/-- Stop every stage of a plan command and end it (R210): its flags so far, the fewest rounds any stage has completed, no
histogram record. -/
def State.stopPlan (s : State) (f r : Nat) (st : Status) (report : Option FaultRec) : State :=
  match s.running f r with
  | none => s
  | some c =>
    let sets := s.setsOf f r c.seq
    let ctxs := sets.map (fun x => s.setCtx x.1 x.2)
    let fl := ctxs.foldl (fun a x => a.or x.flags) (match c.wait with | .plan p => c.flags.or p.flags | _ => c.flags)
    let rounds := match c.wait with
      | .plan p => ((List.range p.stages.length).zip p.stages).foldl (fun n x =>
          if p.finished.contains x.1 then n else min n (s.setCtx x.2.stone x.2.set).roundsDone) p.rounds
      | _ => 0
    let s := sets.foldl (fun s x => s.discardSet x.1 x.2) s
    ((s.endSnapshots f r c.seq .state).addFlags f r fl).finishWith f r st (BitVec.ofNat 32 rounds) [] report

/-! ## Streams -/

/-- 64 KiB units of the media carve-out are released (R173). -/
def State.releaseMedia (s : State) (h n : Nat) : State :=
  if n = 0 then s
  else (s.setHouse h { s.house h with mediaUsed := (s.house h).mediaUsed - n }).evalWeir (.media (houseIx h))

/-- Close a Hopper stream: its claim is released (R274). -/
def State.closeHopper (s : State) (h i : Nat) : State :=
  let x := s.hop h i
  (s.setHop h i { x with opened := false, claim := 0 }).releaseMedia h x.claim

/-- Close a Race stream: its claim and its reference buffers are released (R299). -/
def State.closeRace (s : State) (h i : Nat) : State :=
  let x := s.rac h i
  (s.setRac h i { x with opened := false, claim := 0, bufs := [] }).releaseMedia h x.claim

/-! ## Ending a running command (R101, R349) -/

/-- The link engine holds its ports off again (R228). -/
def State.leatOff (s : State) : State :=
  { s with leat := { s.leat with state := .idle, ports := [], cmdRing := none, haltNext := false, startNext := false,
                                 awaited := [], queued := [], out := [] } }

/-- Packets of a command no longer await an answer. -/
def State.dropAcks (s : State) (f r : Nat) (cmd : Word32) : State :=
  { s with leat := { s.leat with
      awaited := s.leat.awaited.filter (fun a => !(a.f == f && a.r == r && a.cmd == cmd))
      queued := s.leat.queued.filter (fun a => !(a.2.f == f && a.2.r == r && a.2.cmd == cmd)) } }

/-- The reference buffers of a video sample that is being decoded are free again (R316). -/
def State.freeVideo (s : State) (j : HopperJob) : State :=
  if j.phase = .decoding then s.setHouse j.house { s.house j.house with hopperBufs := (s.house j.house).hopperBufs - 9 } else s

/-- End the running command of a ring with `st`, as R101 ends it: what it holds is released. -/
def State.endCommand (s : State) (f r : Nat) (st : Status) : State :=
  match s.running f r with
  | none => s
  | some c =>
    let zero : Word32 := 0
    match c.wait with
    | .plan _ => s.stopPlan f r st none
    | .snapshot q seq =>
      let x := s.failResult c.desc
      (x.2.resumeSets f q seq).finish f r st x.1
    | .word last => s.finish f r st (last.setWidth 32)
    | .pawl id =>
      let x := s.pawl id
      (s.setPawl id { x with queue := x.queue.filter (fun u => u ≠ .ring f r) }).finish f r st zero
    | .combine _ =>
      let s := (s.dropAcks f r c.seq)
      let s := (s.tagsOf f r).foldl (fun s x => s.breakTag x.1 x.2 .broken (some (f, r))) s
      s.finish f r st (BitVec.ofNat 32 (ceilDiv c.desc.len 1024))
    | .tag => s.finish f r st (BitVec.ofNat 32 (ceilDiv c.desc.len 1024))
    | .collective k =>
      let s := { s with leat := { s.leat with dead := s.leat.dead ++ [k.tag] } }
      s.finish f r st (if k.kind = 2 then zero else BitVec.ofNat 32 (ceilDiv c.desc.len 1024))
    | .acks st0 recs =>
      let s := (s.dropAcks f r c.seq).sides f r (if st0.noHist && !(s.fn f).resetting then recs else []) none
      let s := s.finish f r st0 (if opcodeOf c.desc.opcode = some .combine then BitVec.ofNat 32 (ceilDiv c.desc.len 1024) else zero)
      s.finish f r st (if opcodeOf c.desc.opcode = some .combine then BitVec.ofNat 32 (ceilDiv c.desc.len 1024) else zero)
    | .link => (if s.leat.cmdRing = some r then s.leatOff else s).finish f r st (s.leat.turn.setWidth 32)
    | .linkHalt => s.finish f r st (s.leat.turn.setWidth 32)
    | .fence _ => s.finish f r st zero
    | .staging _ _ => s.finish f r st zero
    | .hopper j =>
      let s := (s.addFlags f r j.flags).freeVideo j
      let x := s.hop j.house j.stream
      (if j.close then s.closeHopper j.house j.stream else s).finish f r (if j.device then worse st .deviceError else st) x.serial
    | .none =>
      match c.done with
      | some (_, res) => s.finish f r st res
      | none => let x := s.failResult c.desc; x.2.finish f r st x.1

/-! ## The stone map (R395 to R400) -/

/-- The stone record of a physical stone (R385). -/
def State.stoneRecord (s : State) (p : Nat) : List Byte :=
  let x := s.stone p
  let l := match x.logical with | some l => l | none => 0x7F
  let st : Nat := match x.state with
    | .active => 0 | .spare => 1 | .retired => 2 | .suspect => 3 | .quarantined => 4 | .testing => 5 | .restorable => 7
  let ep := match x.logical with | some l => (s.epoch l).toNat | none => 0
  natLe 8 (l + p * 2 ^ 8 + (Config.fuseRow p).val * 2 ^ 16 + (Config.fuseColumn p).val * 2 ^ 24 +
    (Config.checkers p).val * 2 ^ 32 + st * 2 ^ 40) ++ natLe 4 ep ++ natLe 4 0

/-- The stone record of a VACANT logical stone (R395). -/
def State.vacantRecord (s : State) (l : Nat) : List Byte :=
  natLe 8 (l + 0x7F * 2 ^ 8 + 6 * 2 ^ 40) ++ natLe 4 (s.epoch l).toNat ++ natLe 4 0

/-- A stone as it leaves reset in a state: stores zeroed, no set, counts at their start. -/
def freshStone (st : StoneState) (l : Option Nat) (epoch : Word32) : Stone := { state := st, logical := l, epoch := epoch }

/-- A stone that was not in reset takes a logical ID: its stores are empty and zeroed (R397), its clock count, activity level and
class count go on (R83, R103, R255). -/
def Stone.takeId (x : Stone) (l : Nat) (epoch : Word32) : Stone :=
  { freshStone .active (some l) epoch with
    checkK := x.checkK, level := x.level, credit := x.credit, gap := x.gap, overCount := x.overCount, reserve := x.reserve }

/-- Does a stone's clock count: the module in RUN (R437), the stone not held in reset (R397, R402)? -/
def State.clocked (s : State) (p : Nat) : Bool :=
  s.power == .run && (s.stone p).state != .retired && (s.stone p).state != .quarantined

/-- Physical place of a logical row or column of a runner whose fuses exclude `fuse` (R82). -/
def fusedPlace (fuse i : Nat) : Nat := if i < fuse then i else i + 1

/-- Physical row and column of a logical furrow of a physical stone (R79, R82). -/
def furrowPlace (p i j : Nat) : Nat × Nat := (fusedPlace (Config.fuseRow p).val i, fusedPlace (Config.fuseColumn p).val j)

/-- The physical stone of a house in a state, lowest first. -/
def State.stoneIn (s : State) (h : Nat) (st : StoneState) : Option Nat :=
  (upFrom (h * 25) 25).find? (fun p => (s.stone p).state == st)

/-- The epoch of a logical stone increases by one (R396). -/
def State.bumpEpoch (s : State) (l : Nat) : State := { s with epochs := Table.put 0 s.epochs l (s.epoch l + 1) }

/-- Bind a logical stone to the house spare, or leave it VACANT; either way its epoch increases (R397). The old stone
no longer carries it. -/
def State.rebind (s : State) (l : Nat) : State :=
  let s := s.bumpEpoch l
  match s.stoneIn (l / 24) .spare with
  | some p => s.setStone p ((s.stone p).takeId l (s.epoch l))
  | none => s

/-- Commands that have sets on a physical stone. -/
def State.ownersOn (s : State) (p : Nat) : List (Nat × Nat) :=
  ((s.stone p).sets.filterMap (fun k =>
    if k.2.state ≠ .empty ∧ (s.running k.2.f k.2.r).map (·.seq) = some k.2.seq then some (k.2.f, k.2.r) else none)).dedup

/-- SNAPSHOTs of commands that have sets on a stone end with ABORTED (R399). -/
def State.abortImages (s : State) (p : Nat) : State :=
  (s.ownersOn p).foldl (fun s x =>
    match s.running x.1 x.2 with
    | some c => s.endSnapshots x.1 x.2 c.seq .aborted
    | none => s) s

/-- Retirement of a stone (R397). -/
def State.retireStone (s : State) (p : Nat) : State :=
  let s := s.abortImages p
  let s := (s.ownersOn p).foldl (fun s x => s.endCommand x.1 x.2 .aborted) s
  let l := (s.stone p).logical
  let s := s.setStone p (freshStone .retired none 0)
  let s := match l with | some l => s.rebind l | none => s
  let s := s.keep
  s.log { kind := kindRetired, cls := 0, unit := BitVec.ofNat 16 p, count := ((s.unit 0 p).window).setWidth 32,
          epoch := match l with | some l => s.epoch l | none => 0, detail := s.stoneRecord p }

/-- A stone is declared dead (R400). An ACTIVE stone keeps its sets and what it last knew; its logical ID moves, and its
commands complete with STALE. -/
def State.declareDead (s : State) (p : Nat) : State :=
  let s := s.abortImages p
  let owners := s.ownersOn p
  let l := (s.stone p).logical
  let s := s.setStone p { s.stone p with state := .suspect, logical := none, heard := false }
  let s := owners.foldl (fun s x =>
    let mine := ((s.stone p).sets.filter (fun k => k.2.f == x.1 && k.2.r == x.2)).map (·.1)
    let s := mine.foldl (fun s i => s.dropTaker (.set p i)) s
    s.endCommand x.1 x.2 .stale) s
  let s := match l with | some l => s.rebind l | none => s
  let s := s.keep
  s.log { kind := kindDead, cls := 0, unit := BitVec.ofNat 16 p, count := ((s.unit 0 p).window).setWidth 32,
          epoch := match l with | some l => s.epoch l | none => 0, detail := s.stoneRecord p }

/-- Units whose declaration awaits its action: stones are retired, lowest logical stone first (R394, R399). -/
def State.settle (s : State) : State :=
  let due := s.units.filter (fun c => c.2.due)
  let s := { s with units := s.units.map (fun c => (c.1, { c.2 with due := false })) }
  let key (c : Nat × UnitCount) : Nat := match (s.stone c.1).logical with | some l => l | none => 96 + c.1
  (sortBy (fun a b => key a < key b) (due.filter (fun c => c.1 < 100))).foldl (fun s c => if (s.stone c.1).state = .active then s.retireStone c.1
    else if (s.stone c.1).state = .spare ∨ (s.stone c.1).state = .restorable then s.retireStone c.1 else s) s

/-! ## Grist entries -/

/-- Zero the latent slot of an entry and free the entry (R263, R266). -/
def State.freeEntry (s : State) (p e : Nat) : State :=
  let x := s.entry e
  let s := if x.state = .admitted ∨ x.state = .leaving then
      let z := 65536 * 2 ^ (s.part p).slotSize.toNat
      s.devZero ((s.part p).poolBase.toNat * 65536 + x.slot.toNat * z) z
    else s
  let held := x.state == .admitted || x.state == .leaving
  let s := s.setPart p { s.part p with
    prevList := ((s.part p).prevList.map (fun c => (c.1, c.2.filter (fun n => n != e)))).filter (fun c => c.2 != []) }
  let s := (s.setEntry e {}).evalWeir (.gristTable (houseIx p))
  if held then s.evalWeir (.latentPool (houseIx p)) else s

/-! ## Function-level reset (R252, R359) -/

/-- Reset a function: its commands end, its pawls break, its tags break, its Grist entries and streams are freed, its page set
returns to reset values. It writes nothing for the function until the reset ends, and KILL reads 1 until then. A LINK_SCHEDULE that
the reset of PF0 ends leaves the leat as it stands (R360). What PCIe keeps through such a reset stays: Max Payload Size and AER. -/
def State.resetFunction (s : State) (f : Nat) (keepMemwin : Bool) : State :=
  let p := s.partOf f
  let s := s.setFn f { s.fn f with resetting := true }
  let s := s.setBind f { s.bind f with kill := true }
  let s := if f = 0 then { s with leat := { s.leat with cmdRing := none } } else s
  let s := (List.range 16).foldl (fun s r => s.endCommand f r .aborted) s
  let s := (List.range 16).foldl (fun s r =>
    match s.running f r with | some c => s.unstage c | none => s) s
  let s := (List.range 16).foldl (fun s r => s.dropTaker (.ring f r)) s
  let s := s.tags.foldl (fun s c =>
    if c.2.parts.any (fun k => k.remote.isNone && k.f == f) then s.breakTag (c.1 / 65536) (c.1 % 65536) .broken none else s) s
  let s := (s.entriesOf p).foldl (fun s e => if e.2.owner.toNat = f then s.freeEntry p e.1 else s) s
  let s := s.setPart p { s.part p with prevList := Table.drop (s.part p).prevList (fun k => k == f) }
  let s := (List.range 64).foldl (fun s i =>
    if (s.hop (i / 16) (i % 16)).opened && (s.hop (i / 16) (i % 16)).owner == some f then s.closeHopper (i / 16) (i % 16) else s) s
  let s := (List.range 256).foldl (fun s i =>
    if (s.rac (i / 64) (i % 64)).opened && (s.rac (i / 64) (i % 64)).owner == some f then s.closeRace (i / 64) (i % 64) else s) s
  s.setFn f { resetting := true, memwin := if keepMemwin then (s.fn f).memwin else 0, maxPayload := (s.fn f).maxPayload,
              aer := (s.fn f).aer }

/-- The reset of a function ends: KILL reads 0 (R359). -/
def State.endReset (s : State) (f : Nat) : State :=
  (s.setFn f { s.fn f with resetting := false }).setBind f { s.bind f with kill := false }

end Sys2Proof.Machine
end

