-- ==== Sys2Proof/Machine/Commands.lean ====
section
/-! DEFINITION. Ordering commands, pawl commands, TIMESTAMP, QUERY, and the ring engine's own steps
(14_commands.md, 13_host_rings.md). -/
namespace Sys2Proof.Machine

/-- The outcome of a meaning. -/
abbrev Out := Host.Outcome State Fault Refusal

/-- Run the effect of opcode `o` on the command that ring (f, r) has fetched; with none there, nothing happens. -/
def State.runCmd (s : State) (f r : Nat) (o : Opcode) (k : Running → State) : State :=
  match s.fresh f r o with
  | none => s
  | some c => k c

/-! ## The ring engine -/

/-- DESCRIPTOR_FETCH (R347). -/
def execDescriptorFetch (f : FnId) (r : RingIx) (s : State) : Out := .next (s.fetch f r).settle

/-- COMPLETION_ENTRY_WRITE (R352). -/
def execCompletionEntryWrite (f : FnId) (r : RingIx) (s : State) : Out := .next (s.complete f r).settle

/-- The moderation timer of a completion ring expires (R356). -/
def State.moderationExpiry (s : State) (f c : Nat) : State :=
  let q := s.cq f c
  if q.mod = .pending then (s.setCq f c { q with mod := .fired }).message f q.vector.toNat else s

/-- MODERATION_TIMER (R356). -/
def execModerationTimer (f : FnId) (c : RingIx) (s : State) : Out := .next (s.moderationExpiry f c)

/-! ## NOP -/

/-- NOP (R362): completes with OK and does nothing else. -/
def execNop (f : FnId) (r : RingIx) (s : State) : Out := .next (s.runCmd f r .nop (fun _ => s.finish f r .ok 0))

/-! ## SIGNAL and WAIT (R375 to R377) -/

/-- Where the word of a SIGNAL or WAIT lies. -/
def wordAtPhys (f r va : Nat) (write : Bool) : Run Phys := do
  return (← translate (ringAcc f r) write va).1

/-- The condition of a WAIT on a value read (R377). -/
def condMet (cond : Nat) (word value : Word64) : Bool :=
  match cond with
  | 0 => (word - value).toNat < 2 ^ 63
  | 1 => word == value
  | _ => word != value

/-- Read the word of a WAIT and test it (R377). A fault ends the WAIT. -/
def State.pollWait (s : State) (f r : Nat) : State :=
  match s.running f r with
  | none => s
  | some c =>
    let va := c.desc.addr 0x10
    let x := (readSV (ringAcc f r) va 8).exec s
    match x.1 with
    | .error e => x.2.s.stopped f r e [] (match c.wait with | .word last => some (last.setWidth 32) | _ => none)
    | .ok bs =>
      let w := word64At bs 0
      if condMet (c.desc.op0 1 0) w (wordAt c.desc 3) then x.2.s.finish f r .ok (w.setWidth 32)
      else x.2.s.setRunning f r (some { c with wait := .word w })

/-- Is the command of a ring a WAIT that waits on the word at `at_`? -/
def State.waitsOn (s : State) (f r : Nat) (at_ : Phys) : Bool :=
  match s.running f r with
  | some c =>
    match c.wait with
    | .word _ =>
      match ((wordAtPhys f r (c.desc.addr 0x10) false).exec s).1 with
      | .ok p => p == at_
      | .error _ => false
    | _ => false
  | none => false

/-- Every WAIT on a word that a SIGNAL has written reads it (R377). -/
def State.wakeWaits (s : State) (at_ : Phys) : State :=
  s.fns.foldl (fun s x => (List.range 16).foldl (fun s r => if s.waitsOn x.1 r at_ then s.pollWait x.1 r else s) s) s

/-- Write or add to the word (R376): where it lies and its new value. -/
def signalWord (f r : Nat) (d : Desc) : Run (Phys × Word64) := do
  let a := ringAcc f r
  let va := d.addr 0x10
  let at_ ← wordAtPhys f r va true
  if d.op0 0 0 = 0 then
    writeV a va (natLe 8 (wordAt d 3).toNat)
    return (at_, wordAt d 3)
  else
    let old ← readSV a va 8
    let w := word64At old 0 + wordAt d 3
    writeV a va (natLe 8 w.toNat)
    return (at_, w)

/-- The effect of a SIGNAL (R376). -/
def State.signal (s : State) (f r : Nat) (c : Running) : State :=
  let x := (signalWord f r c.desc).exec s
  match x.1 with
  | .error e => x.2.s.stopped f r e
  | .ok v => (x.2.s.wakeWaits v.1).finish f r .ok (v.2.setWidth 32)

/-- SIGNAL (R376). -/
def execSignal (f : FnId) (r : RingIx) (s : State) : Out := .next (s.runCmd f r .signal (s.signal f r)).settle

/-- WAIT starts: it reads its word (R377). -/
def execWait (f : FnId) (r : RingIx) (s : State) : Out := .next (s.runCmd f r .wait (fun _ => s.pollWait f r)).settle

/-- Is the command of the ring a WAIT that waits? -/
def State.waiting (s : State) (f r : Nat) : Option Running :=
  match s.running f r with
  | some c => match c.wait with | .word _ => some c | _ => none
  | none => none

/-- WAIT_POLL (R377): the waiting WAIT reads its word again. -/
def execWaitPoll (f : FnId) (r : RingIx) (s : State) : Out :=
  .next (match s.waiting f r with | some _ => (s.pollWait f r).settle | none => s)

/-- A WAIT ran past its limit (R377, R368). -/
def State.waitTimeout (s : State) (f r : Nat) : State :=
  match s.waiting f r with
  | some c =>
    match c.wait with
    | .word last => if c.desc.timeout20 = noLimit then s else s.finish f r .timeout (last.setWidth 32)
    | _ => s
  | none => s

/-- WAIT_TIMEOUT (R377). -/
def execWaitTimeout (f : FnId) (r : RingIx) (s : State) : Out := .next (s.waitTimeout f r)

/-! ## FENCE (R378) -/

/-- The commands that a FENCE waits for. -/
def State.fenceSet (s : State) (f r : Nat) (d : Desc) : List (Nat × Word32) :=
  (List.range 16).filterMap (fun q =>
    if q ≠ r ∧ (d.op0 31 16).testBit q then (s.running f q).map (fun c => (q, c.seq)) else none)

/-- The effect of a FENCE. Translations are never cached in this model, so INVAL has nothing left to drop. -/
def State.fence (s : State) (f r : Nat) (c : Running) : State :=
  let on := s.fenceSet f r c.desc
  if on = [] then s.finish f r .ok 0 else s.setRunning f r (some { c with wait := .fence on })

/-- FENCE (R378). -/
def execFence (f : FnId) (r : RingIx) (s : State) : Out := .next (s.runCmd f r .fence (s.fence f r))

/-- A FENCE ran past its limit (R378). -/
def State.fenceTimeout (s : State) (f r : Nat) : State :=
  match s.running f r with
  | some c =>
    match c.wait with
    | .fence _ => if c.desc.timeout10 = noLimit then s else s.finish f r .timeout 0
    | _ => s
  | none => s

/-- FENCE_TIMEOUT (R378). -/
def execFenceTimeout (f : FnId) (r : RingIx) (s : State) : Out := .next (s.fenceTimeout f r)

/-! ## Pawls (R212, R379) -/

/-- The effect of a PAWL_TAKE. -/
def State.pawlTake (s : State) (f r : Nat) (c : Running) : State :=
  let n := c.desc.op0 9 0
  let x := s.pawl n
  if !inCarve (s.pawlCarve (s.partOf f)) n then s.fail f r .access
  else if x.holder = some (.ring f r) then s.fail f r .state
  else
    match x.holder with
    | none => (s.setPawl n { x with holder := some (.ring f r), broken := false }).finish f r (if x.broken then .broken else .ok) 0
    | some _ =>
      if c.desc.timeout10 = 0 then s.finish f r .timeout 0
      else (s.setPawl n { x with queue := x.queue ++ [.ring f r] }).setRunning f r (some { c with wait := .pawl n })

/-- PAWL_TAKE (R212). -/
def execPawlTake (f : FnId) (r : RingIx) (s : State) : Out := .next (s.runCmd f r .pawlTake (s.pawlTake f r))

/-- The effect of a PAWL_GIVE. -/
def State.pawlGive (s : State) (f r : Nat) (c : Running) : State :=
  let n := c.desc.op0 9 0
  if !inCarve (s.pawlCarve (s.partOf f)) n then s.fail f r .access
  else if (s.pawl n).holder ≠ some (.ring f r) then s.fail f r .state
  else (s.passPawl n false).finish f r .ok 0

/-- PAWL_GIVE (R212). -/
def execPawlGive (f : FnId) (r : RingIx) (s : State) : Out := .next (s.runCmd f r .pawlGive (s.pawlGive f r))

/-- A queued PAWL_TAKE ran past its limit: it leaves the queue (R212). -/
def State.pawlTimeout (s : State) (f r : Nat) : State :=
  match s.running f r with
  | some c =>
    match c.wait with
    | .pawl n =>
      if c.desc.timeout10 = noLimit then s
      else (s.setPawl n { s.pawl n with queue := (s.pawl n).queue.filter (fun t => t ≠ .ring f r) }).finish f r .timeout 0
    | _ => s
  | none => s

/-- PAWL_TAKE_TIMEOUT (R212). -/
def execPawlTakeTimeout (f : FnId) (r : RingIx) (s : State) : Out := .next (s.pawlTimeout f r)

/-! ## TIMESTAMP (R384) -/

/-- The effect of a TIMESTAMP. -/
def State.timestamp (s : State) (f r : Nat) : State :=
  let up := s.leat.state == .run
  let x := s.now
  let turn : Word64 := if up then s.leat.turn else 0
  x.2.finishWith f r .ok (if up then 1 else 0) [(0x10, natLe 8 x.1.toNat ++ natLe 8 turn.toNat)]

/-- TIMESTAMP (R384). -/
def execTimestamp (f : FnId) (r : RingIx) (s : State) : Out := .next (s.runCmd f r .timestamp (fun _ => s.timestamp f r)).settle

/-! ## QUERY (R385) -/

/-- Identity record (R385). -/
def State.identity (s : State) (f : Nat) : List Byte :=
  natLe 8 Config.serial.toNat ++ natLe 2 s.fw.version.toNat ++ natLe 2 Config.silicon.toNat ++
  natLe 2 (Config.encRev s.fw.version).toNat ++ natLe 2 0 ++
  natLe 8 (s.moduleId.toNat + (match s.shape with | .whole => 0 | .halves => 1 | .quarters => 2) * 2 ^ 16 +
    s.partOf f * 2 ^ 18 + f * 2 ^ 24) ++ natLe 8 0

/-- Code of a Grist state (R263). -/
def GristState.code : GristState → Nat
  | .free => 0 | .queued => 1 | .admitted => 2 | .leaving => 3

/-- The 64-byte record of a Grist entry (R263). -/
def GristEntry.bytes (e : GristEntry) (n : Nat) : List Byte :=
  natLe 8 (e.state.code * 2 ^ 3 + b2n e.first * 2 ^ 5 + b2n e.overshot * 2 ^ 6 + b2n e.last * 2 ^ 7 + e.total.toNat * 2 ^ 8 +
    e.step.toNat * 2 ^ 24 + e.slot.toNat * 2 ^ 40 + n * 2 ^ 52) ++
  natLe 8 e.seed.toNat ++ natLe 8 (e.cond0.toNat + e.owner.toNat * 2 ^ 56) ++ natLe 8 e.cond1.toNat ++
  natLe 8 e.user.toNat ++ natLe 8 (e.listed.toNat + e.joinSeq.toNat * 2 ^ 32) ++ natLe 16 0

/-- LSTATE (R385). -/
def LState.code : LState → Nat
  | .idle => 0 | .sync => 1 | .run => 2 | .halt => 3

/-- Link record (R385). -/
def State.linkRecord (s : State) : List Byte :=
  let l := s.leat
  let h := l.halt.getD {}
  let o := l.own.getD {}
  natLe 8 l.turn.toNat ++ natLe 8 h.turn.toNat ++
  natLe 8 (h.reason.toNat + h.port * 2 ^ 18 + h.origin * 2 ^ 22 + l.state.code * 2 ^ 61) ++
  natLe 8 l.haltAt.toNat ++ natLe 8 o.turn.toNat ++
  natLe 8 (o.reason.toNat + o.port * 2 ^ 8 + b2n l.own.isSome * 2 ^ 12) ++
  (List.range 12).flatMap (fun p => natLe 4 (s.port p).skew.toNat)

/-- Unit event record (R405). -/
def UnitCount.bytes (u : UnitCount) : List Byte :=
  natLe 8 (u.window.toNat + b2n u.lasting * 2 ^ 31) ++ natLe 4 u.mismatches.toNat ++ natLe 4 u.stale.toNat ++
  natLe 4 u.corrected.toNat ++ natLe 4 u.uncorrectable.toNat ++ natLe 8 u.lastTime.toNat

/-- Units of a class (R392). -/
def unitsIn : Nat → Nat
  | 0 => 100 | 1 => 768 | 2 => 512 | 3 => 64 | 4 => 4 | _ => 0

/-- The body of a QUERY, or the status of its first failing check (R385). -/
def State.queryBody (s : State) (f : Nat) (item arg : Nat) : Except Status (List Byte) :=
  let p := s.partOf f
  match item with
  | 1 => if arg ≠ 0 then .error .malformed else .ok (s.identity f)
  | 2 =>
    let n := arg % 128
    let phys := arg.testBit 15
    if arg &&& 0xFF7F80 ≠ 0 || n ≥ (if phys then 100 else 96) then .error .malformed
    else if phys then (if f = 0 || s.owns p (n / 25) then .ok (s.stoneRecord n) else .error .access)
    else if !s.owns p (n / 24) then .error .access
    else match s.physOf n with | some q => .ok (s.stoneRecord q) | none => .ok (s.vacantRecord n)
  | 3 =>
    if arg ≥ 4096 then .error .malformed
    else if !inCarve (s.gristCarve p) arg then .error .access
    else if (s.entry arg).state ≠ .free ∧ (s.entry arg).owner.toNat ≠ f then .error .access
    else .ok ((s.entry arg).bytes arg)
  | 4 =>
    if arg ≥ 64 then .error .malformed
    else
      let x := s.hop (arg / 16) (arg % 16)
      if !s.owns p (arg / 16) || (x.owner.isSome && x.owner != some f) then .error .access
      else .ok ([x.cIndex, x.cBounds, x.cCrc, x.cDecode, x.cDeadline, x.cTrunc].flatMap (fun w => natLe 4 w.toNat) ++ natLe 8 0)
  | 5 =>
    if arg &&& 0xFFFCC0 ≠ 0 then .error .malformed
    else
      let h := arg / 256
      let x := s.rac h (arg % 64)
      if !s.owns p h || (x.owner.isSome && x.owner != some f) then .error .access
      else .ok ([x.cPictures, x.cMissing, x.cEvict, x.cErrUnits, x.cCapMiss].flatMap (fun w => natLe 4 w.toNat) ++
        natLe 2 (if x.owner.isSome then (Config.encRev s.fw.version).toNat else 0) ++ natLe 10 0)
  | 6 => if arg ≠ 0 then .error .malformed else if f ≠ 0 then .error .access else .ok s.linkRecord
  | 7 =>
    if arg % 2 ^ 20 ≥ unitsIn (arg / 2 ^ 20) then .error .malformed
    else if f ≠ 0 then .error .access
    else .ok (s.unit (arg / 2 ^ 20) (arg % 2 ^ 20)).bytes
  | _ => .error .malformed

/-- The effect of a QUERY. -/
def State.query (s : State) (f r : Nat) (c : Running) : State :=
  match s.queryBody f (c.desc.op0 31 24) (c.desc.op0 23 0) with
  | .error st => s.fail f r st
  | .ok body => s.finishWith f r .ok (BitVec.ofNat 32 body.length) [(0x10 + c.desc.op0 31 24, body)]

/-- QUERY (R385). -/
def execQuery (f : FnId) (r : RingIx) (s : State) : Out := .next (s.runCmd f r .query (s.query f r)).settle

end Sys2Proof.Machine
end

