-- ==== Sys2Proof/Machine/Arith.lean ====
section
/-! DEFINITION. Products, pass sums and accumulator entries (02_arithmetic.md). -/
namespace Sys2Proof.Machine

/-- 2^128, the magnitude at which a product overflows (R50). -/
def two128 : Num := .fin false 1 1 128

/-- One product of a float pair (R49, R50). The scales of R26 are part of the operand values. -/
def product (a b : Num) : FM Num := do
  if a.isNan || b.isNan then
    setInv
    return .nan
  let p := a.mul b
  if p.isNan then
    setInv
    return .nan
  if !p.isInf && Num.le two128 p.abs then
    setOvf
    setInx
    return .inf p.neg?
  return p

/-- Is the value finite and not zero? -/
def Num.isOrdinary : Num → Bool
  | .fin _ n _ _ => n != 0
  | _ => false

/-- A product's magnitude in units of 2^q, cut at the window floor, with its sign; and whether a non-zero bit was removed. -/
def windowTerm (q : Int) : Num → Int × Bool
  | .fin s n d e => let k := floorUnits n d e q; (if s then -(k.1 : Int) else k.1, k.2)
  | _ => (0, false)

/-- The exponent of the largest of the products (R51). -/
def topExponent (ps : List Num) : Int :=
  match ps.map Num.log with
  | [] => 0
  | x :: xs => xs.foldl max x

/-- The pass sum of the products of the present positions of one pass (R51). -/
def passSum (ps : List Num) : FM Num := do
  if ps.any Num.isNan then return .nan
  let pos := ps.any (fun p => p.isInf && !p.neg?)
  let neg := ps.any (fun p => p.isInf && p.neg?)
  if pos && neg then
    setInv
    return .nan
  if pos || neg then return .inf neg
  let fs := ps.filter Num.isOrdinary
  if fs = [] then return .fin (ps.all Num.isNegZero) 0 1 0
  let q := topExponent fs - 55
  let terms := fs.map (windowTerm q)
  if terms.any (·.2) then setInx
  let t : Int := (terms.map (·.1)).foldl (· + ·) 0
  return .fin (decide (t < 0)) t.natAbs 1 q

/-- acc_enter (R54): the new FP32 entry, and whether it is a zero that a flush made (R75). The entry has no subnormal. -/
def accEnter (a : Word32) (t : Num) : FM (Word32 × Bool) := do
  let x := fp32 a
  if x.isNan || t.isNan then return (0x7FC0_0000, false)
  if x.isInf && t.isInf && x.neg? != t.neg? then
    setInv
    return (0x7FC0_0000, false)
  if x.isInf then return (a, false)
  let y := x.add t
  let r ← toFp32 y
  return (r, y.isOrdinary && (fp32 r).isZero)

/-- acc_enter_comp (R63): sum, carry, and whether the sum is a zero that a flush made. -/
def accEnterComp (s c : Word32) (t : Num) : FM (Word32 × Word32 × Bool) := do
  let x := fp32 s
  if x.isNan || x.isInf || t.isNan || t.isInf then
    let r ← accEnter s t
    return (r.1, 0, r.2)
  let add := t.add (fp32 c)
  let y := x.add add
  let r ← accEnter s add
  let new := fp32 r.1
  if new.isInf then return (r.1, 0, false)
  match y.sub new with
  | .fin sg n d e =>
    if n = 0 then return (r.1, 0, r.2)
    let k := roundUnbounded 24 n d e
    if k.2.2 then setInx
    if unitsGt 1 (-126) k.1 k.2.1 then
      setInx
      return (r.1, 0, r.2)
    return (r.1, BitVec.ofNat 32 (packFloat ⟨23, 8, 127⟩ sg k.1 k.2.1), r.2)
  | _ => return (r.1, 0, r.2)

/-- An INT32 entry takes an integer pass sum (R55). -/
def accEnterInt (a : Word32) (t : Int) : FM Word32 := do
  let x := a.toInt + t
  if x > 2147483647 then
    setSat
    return 0x7FFF_FFFF
  if x < -2147483648 then
    setSat
    return 0x8000_0000
  return BitVec.ofInt 32 x

/-- The integer that an integer element stands for (R52). -/
def Num.int : Num → Int
  | .fin s n d e => let k := floorUnits n d e 0; if s then -(k.1 : Int) else k.1
  | _ => 0

/-- The pass sum of an integer pair (R52). -/
def intPassSum (ps : List (Num × Num)) : Int := (ps.map (fun p => p.1.int * p.2.int)).foldl (· + ·) 0

/-- The value that the readout of a compensated entry converts (R64). -/
def compValue (s c : Word32) : Num :=
  let x := fp32 s
  if x.isNan || x.isInf || (fp32 c).isZero then x else x.add (fp32 c)

end Sys2Proof.Machine
end

