-- ==== Sys2Proof/Machine/Governor.lean ====
section
/-! DEFINITION. The governor: node values of its functions, fixed functions, programmable tables and soft maximum
(R135 to R142, R148 to R150). Real quantities are enclosed between fixed-point numbers until their rounding is settled. -/
namespace Sys2Proof.Machine

/-! ## Fixed-point enclosures -/

/-- Newton steps to ⌊√n⌋ from a start that is not below it. -/
def isqrtFrom : Nat → Nat → Nat → Nat
  | 0, _, x => x
  | k + 1, n, x => let y := (x + n / x) / 2; if y < x then isqrtFrom k n y else x

/-- ⌊√n⌋. -/
def isqrt (n : Nat) : Nat := if n = 0 then 0 else isqrtFrom 64 n (2 ^ (Nat.log2 n / 2 + 1))

/-- (−1)^i × n. -/
def altSign (i n : Nat) : Int := if i % 2 = 0 then (n : Int) else -(n : Int)

/-- Σ (−1)^i (2^w ÷ k^(2i+1)) ÷ (2i+1): the arc tangent of 1 ÷ k. -/
def atanInv : Nat → Nat → Nat → Nat → Int
  | 0, _, _, _ => 0
  | f + 1, p, k2, i => altSign i (p / (2 * i + 1)) + atanInv f (p / k2) k2 (i + 1)

/-- π × 2^w. -/
def piFix (w : Nat) : Nat :=
  (16 * atanInv (w / 4 + 4) (2 ^ w / 5) 25 0 - 4 * atanInv (w / 15 + 4) (2 ^ w / 239) 57121 0).toNat

/-- √(2π) × 2^w. -/
def rootTwoPi (w : Nat) : Nat := isqrt (2 * piFix w * 2 ^ w)

/-- Σ (−r)^i ÷ i!. -/
def expSeries : Nat → Nat → Nat → Nat → Nat → Int
  | 0, _, _, _, _ => 0
  | f + 1, w, r, t, i => altSign i t + expSeries f w r (t * r / 2 ^ w / (i + 1)) (i + 1)

/-- Square a fixed-point number `k` times. -/
def squareFix (w : Nat) : Nat → Nat → Nat
  | 0, x => x
  | k + 1, x => squareFix w k (x * x / 2 ^ w)

/-- e^(−n/d) × 2^w for n ÷ d below 64. -/
def expNegFix (w n d : Nat) : Nat :=
  squareFix w 14 (expSeries (w / 8 + 8) w (n * 2 ^ w / d / 2 ^ 14) (2 ^ w) 0).toNat

/-- Σ (−1)^i u^(2i+1) ÷ (2^i i! (2i+1)). -/
def phiSeries : Nat → Nat → Nat → Nat → Nat → Int
  | 0, _, _, _, _ => 0
  | f + 1, w, u2, t, i =>
    altSign i (t / (2 * i + 1)) +
      phiSeries f w u2 (t * u2 / 2 ^ w / (2 * (i + 1))) (i + 1)

/-- (Φ(n/d) − 1/2) × 2^w for n ÷ d at most 8. -/
def phiFix (w n d : Nat) : Nat :=
  let u := n * 2 ^ w / d
  (phiSeries (w / 2 + 120) w (u * u / 2 ^ w) u 0).toNat * 2 ^ w / rootTwoPi w

/-- Σ z^(2i+1) ÷ (2i+1): half the logarithm of (1 + z) ÷ (1 − z). -/
def lnSeries : Nat → Nat → Nat → Nat → Nat → Nat
  | 0, _, _, _, _ => 0
  | f + 1, w, z2, t, i => t / (2 * i + 1) + lnSeries f w z2 (t * z2 / 2 ^ w) (i + 1)

/-- ln(n/d) × 2^w for n ÷ d in [1, 2]. -/
def lnFix (w n d : Nat) : Nat :=
  let z := (n - d) * 2 ^ w / (n + d)
  2 * lnSeries (w / 3 + 8) w (z * z / 2 ^ w) z 0

/-- A magnitude in units of 2^−p rounded to 24 significant bits. -/
def round24 (v p : Nat) : Num :=
  if v = 0 then numZero else let r := roundUnbounded 24 v 1 (-(p : Int)); .fin false r.1 1 r.2.1

/-- The first precision at which both ends of an enclosure round alike (R136). An enclosure of precision `p` gives bounds in
units of 2^−p. -/
def settled (enc : Nat → Nat × Nat) : List Nat → Num
  | [] => numZero
  | [p] => round24 (enc p).1 p
  | p :: ps =>
    let x := enc p
    if Num.cmp (round24 x.1 p) (round24 x.2 p) = 0 then round24 x.1 p else settled enc ps

/-- Precisions tried in turn. -/
def precisions : List Nat := [96, 192, 384, 768, 1536]

/-- The enclosure of a fixed-point computation whose error stays below 2^128 units of its working precision. -/
def guarded (f : Nat → Nat) (p : Nat) : Nat × Nat :=
  let v := f (p + 128) / 2 ^ 128
  (v - 1, v + 2)

/-- A node value of a computation (R136). -/
def nodeOf (f : Nat → Nat) : Num := settled (guarded f) precisions

/-- Nested square roots: the 2^k-th root, and whether it is exact so far. -/
def rootFix : Nat → Nat → Nat → Nat × Bool
  | 0, _, v => (v, true)
  | k + 1, p, v =>
    let r := isqrt (v * 2 ^ p)
    let x := rootFix k p r
    (x.1, x.2 && r * r == v * 2 ^ p)

/-- The 2^k-th root of n ÷ d at least 2^−20, correctly rounded (R136). -/
def rootNode (k n d : Nat) : Num :=
  settled (fun p =>
    let q := p + 64
    let x := rootFix k q (n * 2 ^ q / d)
    if x.2 && n * 2 ^ q % d == 0 then (x.1, x.1) else (x.1 - 2, x.1 + 3))
    precisions |> fun v => match v with | .fin s n d e => .fin s n d (e - 64) | x => x

/-! ## Node values (R137) -/

/-- Φ(u) − 1/2 at n ÷ d. -/
def nodePhi (n d : Nat) : Num := nodeOf (fun w => phiFix w n d)

/-- σ(u) − 1/2 at n ÷ d. -/
def nodeSigma (n d : Nat) : Num :=
  nodeOf (fun w => let q := expNegFix w n d; (2 ^ w - q) * 2 ^ w / (2 * (2 ^ w + q)))

/-- tanh u at n ÷ d. -/
def nodeTanh (n d : Nat) : Num :=
  nodeOf (fun w => let q := expNegFix w n d; let q2 := q * q / 2 ^ w; (2 ^ w - q2) * 2 ^ w / (2 ^ w + q2))

/-- log2 m at n ÷ d in [1, 2]. -/
def nodeLog (n d : Nat) : Num :=
  if n = d then numZero else if n = 2 * d then .fin false 1 1 0 else nodeOf (fun w => lnFix w n d * 2 ^ w / lnFix w 2 1)

/-- 2^(j/16), 2^(j/256). -/
def nodeExp16 (j : Nat) : Num := rootNode 4 (2 ^ j) 1
def nodeExp256 (j : Nat) : Num := rootNode 8 (2 ^ j) 1

/-- 1/√(n/d). -/
def nodeRsqrt (n d : Nat) : Num := rootNode 1 d n

/-- 1 ÷ (n/d) rounded. -/
def nodeRecip (n d : Nat) : Num := let r := roundUnbounded 24 d n 0; .fin false r.1 1 r.2.1

/-- 1 ÷ √(2π) in FP32 (R137). -/
def invRootTwoPi : Num := nodeOf (fun w => 2 ^ w * 2 ^ w / rootTwoPi w)

/-! ## Interpolation (R136) -/

/-- The chord between two values at t. -/
def chord (v0 v1 t : Num) : Num := v0.add ((v1.sub v0).mul t)

/-- n × 2^e as a fraction. -/
def asFrac (n : Nat) (e : Int) : Nat × Nat := if 0 ≤ e then (n * 2 ^ e.toNat, 1) else (n, 2 ^ (-e).toNat)

/-- Interpolate at a positive value n × 2^e between the two of 16 nodes of its binade that enclose it. -/
def interp (node : Nat → Nat → Num) (n : Nat) (e : Int) : Num :=
  let b := floorLog2 n 1 e
  let q := floorUnits n 1 e (b - 4)          -- 16 + j, in units of the segment width
  let t := (Num.fin false n 1 e).sub (.fin false q.1 1 (b - 4)) |>.scale (4 - b)
  let at_ (k : Nat) : Num := let f := asFrac k (b - 4); node f.1 f.2
  chord (at_ q.1) (at_ (q.1 + 1)) t

/-- A half. -/
def half : Num := .fin false 1 1 (-1)

/-! ## Fixed functions (R135 to R139) -/

/-- A lane result: the FP32 value of an exact one, and whether the rounding flushed it to zero (R57, R75). -/
def laneRound (v : Num) : FM (Word32 × Bool) := do
  let w ← toFp32 v
  return (w, v.isOrdinary && (fp32 w).isZero)

/-- FP32 patterns of special results. -/
def wNaN : Word32 := 0x7FC0_0000
def wInf (neg : Bool) : Word32 := if neg then 0xFF80_0000 else 0x7F80_0000
def wZero (neg : Bool) : Word32 := if neg then 0x8000_0000 else 0

/-- NaN with INV. -/
def laneNaN : FM (Word32 × Bool) := do
  setInv
  return (wNaN, false)

/-- Φ or σ of a finite non-zero value before its rounding: 1/2 ± g (R137). -/
def halfPlus (gelu neg : Bool) (n : Nat) (e : Int) : Num :=
  let u := Num.fin false n 1 e
  let top : Num := .fin false 1 1 (if gelu then 3 else 5)
  let g := if Num.lt u (.fin false 1 1 (-6)) then (if gelu then u.mul invRootTwoPi else u.scale (-2))
    else if Num.le top u then half else interp (if gelu then nodePhi else nodeSigma) n e
  if neg then half.sub g else half.add g

/-- tanh of a finite non-zero magnitude (R137). -/
def tanhMag (n : Nat) (e : Int) : Num :=
  let u := Num.fin false n 1 e
  if Num.lt u (.fin false 1 1 (-6)) then u else if Num.le (.fin false 1 1 3) u then .fin false 1 1 0 else interp nodeTanh n e

/-- 2^x of an exact value by chords over 2^k equal segments of [0, 1) (R137, R149). -/
def expWide (node : Nat → Num) (k : Nat) (x : Num) : Num :=
  let i := x.floor
  let f := (x.sub (numOfInt i)).scale k
  let j := f.floor
  ((chord (node j.toNat) (node (j.toNat + 1)) (f.sub (numOfInt j)))).scale i

/-- A fixed function of a finite value that is not zero (R136 to R138). -/
def governorFinite (code : Nat) (neg : Bool) (n : Nat) (e : Int) : FM (Word32 × Bool) := do
  let x := Num.fin neg n 1 e
  match code with
  | 1 => let p ← laneRound (halfPlus true neg n e); laneRound (x.mul (fp32 p.1))
  | 2 => let p ← laneRound (halfPlus false neg n e); laneRound (x.mul (fp32 p.1))
  | 3 => laneRound (halfPlus false neg n e)
  | 4 => laneRound (let v := tanhMag n e; if neg then v.negate else v)
  | 5 =>
    if Num.le (numOfInt 128) x then do setOvf; setInx; return (wInf false, false)
    else if Num.lt x (numOfInt (-126)) then do setUfl; setInx; return (0, true)
    else laneRound (expWide nodeExp16 4 x)
  | 6 =>
    if neg then laneNaN
    else let b := floorLog2 n 1 e; laneRound ((numOfInt b).add (interp nodeLog n (e - b)))
  | 7 =>
    if neg then laneNaN
    else let b := floorLog2 n 1 e / 2; laneRound ((interp nodeRsqrt n (e - 2 * b)).scale (-b))
  | _ =>
    if Num.lt (.fin false 1 1 126) x.abs then do setUfl; setInx; return (wZero neg, true)
    else let b := floorLog2 n 1 e
         laneRound (let v := (interp nodeRecip n (e - b)).scale (-b); if neg then v.negate else v)

/-- A fixed function at ±0 (R138). -/
def governorZero (code : Nat) (x : Word32) (neg : Bool) : Word32 :=
  match code with
  | 3 => 0x3F00_0000 | 5 => 0x3F80_0000 | 6 => wInf true | 7 => wInf neg | 8 => wInf neg | _ => x

/-- A fixed function at ±Inf (R138). -/
def governorInf (code : Nat) (neg : Bool) : FM (Word32 × Bool) :=
  match code, neg with
  | 1, false | 2, false | 5, false | 6, false => pure (wInf false, false)
  | 1, true | 2, true => pure (wZero true, false)
  | 3, false | 4, false => pure (0x3F80_0000, false)
  | 3, true | 5, true => pure (0, false)
  | 4, true => pure (0xBF80_0000, false)
  | 7, false | 8, false => pure (0, false)
  | 8, true => pure (wZero true, false)
  | _, _ => laneNaN

/-- A fixed function (R135, R138). -/
def governorFixed (code : Nat) (x : Word32) : FM (Word32 × Bool) :=
  match fp32 x with
  | .nan => laneNaN
  | .inf s => governorInf code s
  | .fin s n _ e => if n = 0 then pure (governorZero code x s, false) else governorFinite code s n e

/-! ## Programmable tables (R142) -/

def GovTable.valueAt (t : GovTable) (j : Nat) : Word32 := t.value.getD j 0
def GovTable.slopeAt (t : GovTable) (j : Nat) : Word32 := t.slope.getD j 0

/-- u of a finite or infinite input: exact; infinite with sign(x) × sign(INV_STEP). -/
def GovTable.arg (t : GovTable) (x : Num) : Num :=
  let s := fp32 t.invStep
  match x with
  | .inf g => .inf (g != s.neg?)
  | _ => (x.sub (fp32 t.xLo)).mul s

/-- The segment that an argument uses. -/
def segmentOf (u : Num) : Nat :=
  if Num.lt u numZero then 0 else if Num.le (numOfInt 256) u then 255 else u.floor.toNat

/-- governor_table of R142. At u = j the term SLOPE × 0 leaves VALUE[j] as it is. -/
def GovTable.eval (t : GovTable) (w : Word32) : FM (Word32 × Bool) := do
  let x := fp32 w
  if x.isNan || (x.isInf && (fp32 t.invStep).isZero) then return ← laneNaN
  let u := t.arg x
  if Num.lt u numZero && !t.lowMode then return (t.valueAt 0, false)
  if Num.le (numOfInt 256) u && !t.highMode then
    return ← laneRound ((fp32 (t.valueAt 255)).add (fp32 (t.slopeAt 255)))
  let j := segmentOf u
  let m := fp32 (t.slopeAt j)
  if u.isInf then
    if m.isZero then return (t.valueAt j, false)
    setOvf
    return (wInf (m.neg? != u.neg?), false)
  let d := u.sub (numOfInt j)
  if d.isZero then return (t.valueAt j, false)
  laneRound ((fp32 (t.valueAt j)).add (m.mul d))

/-- A governor function by its code (R135); tables are the set's own (R140). -/
def governor (tables : List GovTable) (code : Nat) (x : Word32) : FM (Word32 × Bool) :=
  if code = 0 then pure (x, false)
  else if 0x10 ≤ code then (tables.getD (code - 0x10) {}).eval x
  else governorFixed code x

/-! ## Soft maximum (R148 to R150) -/

/-- Round a non-negative value to FW24, with gradual underflow; a rounding that changes it sets INX (R139). -/
def roundFw24 (v : Num) : FM Num := do
  match v with
  | .fin _ n d e =>
    if n = 0 then return numZero
    let u := max (floorLog2 n d e) (-510) - 13
    let q := toUnits n d e u
    if q.2 then setInx
    return .fin false q.1 1 u
  | _ => return numZero

/-- log2 e rounded to 40 significant bits (R149). -/
def log2e40 : Num := .fin false 0xB8AA3B295C 1 (-39)

/-- The term of one input of a row of 2^c leaves (R149): the term, and whether the input counted as +350. -/
def softTerm (c : Nat) (w : Word32) : FM (Num × Bool) := do
  let x := fp32 w
  let big := Num.lt (numOfInt 350) x
  if big then setOvf
  if Num.lt x (numOfInt (-360)) then return (numZero, false)
  let v := if big then numOfInt 350 else x
  let t ← roundFw24 ((expWide nodeExp256 8 (v.mul log2e40)).scale (-(c : Int)))
  return (t, big)

/-- One level of the tree: neighbours are added. -/
def addPairs : List Num → FM (List Num)
  | a :: b :: l => do
    let x ← roundFw24 (a.add b)
    let rest ← addPairs l
    return x :: rest
  | l => pure l

/-- The sum of a complete tree of 2^c leaves, zeros after the given ones. -/
def treeSum : Nat → List Num → FM Num
  | 0, l => pure (l.headD numZero)
  | c + 1, l => do
    let next ← addPairs (if l.length % 2 = 1 then l ++ [numZero] else l)
    treeSum c next

/-- soft_max_row of R149: results with their flush marks, inputs counted as +350, whether the row is empty. -/
def softMaxRow (row : List Word32) : FM (List (Word32 × Bool) × Nat × Bool) := do
  if row.any (fun w => (fp32 w).isNan) then
    setInv
    return (row.map (fun _ => (wNaN, false)), 0, false)
  let c := ceilLog2 row.length
  let terms ← row.mapM (softTerm c)
  let sats := (terms.filter (·.2)).length
  let s ← treeSum c (terms.map (·.1))
  if s.isZero then return (row.map (fun _ => ((0 : Word32), false)), sats, true)
  let out ← (terms.map (·.1)).mapM (fun t => laneRound (t.div s))
  return (out, sats, false)

end Sys2Proof.Machine
end

