-- ==== Sys2Proof/Machine/LoopTables.lean ====
section
/-! DEFINITION. Loop tables: layout, checks, capacity, walk, tile bodies and operand addresses (04_loop_tables.md). -/
namespace Sys2Proof.Machine

/-! ## Layout (R107 to R112) -/

/-- A level word (R109). -/
def levelOf (w : Word64) : Option Level :=
  if fld w 63 47 ≠ 0 || fld w 46 44 = 7 || fld w 23 0 = 0 then none
  else some { dim := fld w 46 44, step := fld w 43 24, count := fld w 23 0 }

/-- A ring entry (R112). -/
def ringEntryOf (v : Nat) : Option RingEntry :=
  if bitsOf v 11 9 ≠ 0 then none else some { comp := v.testBit 15, group := bitsOf v 14 12, slot := bitsOf v 8 0 }

/-- A buffer word (R112, offset 0x30). -/
def bufOf (w : Word64) : Option Buf :=
  if fld w 47 44 ≠ 0 then none else some { pitch := fld w 63 48, stride := fld w 43 22, base := fld w 21 0 }

/-- The fields of word 0x38 of a layer block (R112). -/
def Layer.withConv (l : Layer) (w : Word64) : Layer :=
  { l with aPlane := fld w 63 42, padT := fld w 41 36, padL := fld w 35 30, kh := fld w 29 25, kw := fld w 24 20,
           sy := fld w 19 16, sx := fld w 15 12, dy := fld w 11 8, dx := fld w 7 4 }

/-- Reserved fields of a layer block, and fields that must be zero in its kind (R112, R118). -/
def layerReserved (ws : List Word64) : Bool :=
  let w (i : Nat) := wordAt ws i
  let conv := bitAt (w 0) 5
  fld (w 0) 23 19 == 0 && fld (w 0) 15 13 == 0 && fld (w 0) 3 0 == 0 && fld (w 1) 3 0 == 0 && fld (w 7) 3 0 == 0 &&
  fld (w 10) 63 32 == 0 && fld (w 11) 63 48 == 0 && fld (w 13) 63 48 == 0 && fld (w 14) 63 48 == 0 && w 15 == 0 &&
  (conv || (w 7 == 0 && fld (w 10) 31 0 == 0 && fld (w 3) 31 0 == 0 && fld (w 1) 15 4 == 0)) &&
  (if fld (w 0) 9 8 = 1 then w 11 == 0 && w 12 == 0 && w 13 == 0 && w 14 == 0 else fld (w 0) 7 6 == 0)

/-- A layer block (R112), if its fields have a meaning. The table bounds TK and TN from below and not TM and TOX: a block with
TM = 0, or with CONV = 1 and TOX = 0, has no meaning here. DESIGN CHOICE, log entry 31. -/
def layerOf (ws : List Word64) : Option Layer := do
  let w (i : Nat) := wordAt ws i
  let ring ← ((List.range 4).map (fun e => fld (w 4) (16 * e + 15) (16 * e)) ++
              (List.range 4).map (fun e => fld (w 5) (16 * e + 15) (16 * e))).mapM ringEntryOf
  let a ← bufOf (w 6)
  let b ← bufOf (w 8)
  let bias ← bufOf (w 9)
  let conv := bitAt (w 0) 5
  let fmt (hi lo : Nat) : BitVec 8 := BitVec.ofNat 8 (fld (w 0) hi lo)
  let l : Layer :=
    { fmtOut := fmt 63 56, fmtBias := fmt 55 48, fmtB := fmt 47 40, fmtA := fmt 39 32,
      readout := fld (w 0) 31 24, accLevel := fld (w 0) 18 16, ringLast := fld (w 0) 12 10, outDest := fld (w 0) 9 8,
      spout := fld (w 0) 7 6, conv := conv, biasFull := bitAt (w 0) 4,
      tk := fld (w 1) 63 40, tn := fld (w 1) 39 28, tm := fld (w 1) 27 16, tox := fld (w 1) 15 4,
      extK := fld (w 2) 63 32, extN := fld (w 2) 31 0,
      extM := if conv then 0 else fld (w 3) 63 32,
      extOy := if conv then fld (w 3) 63 48 else 0, extOx := if conv then fld (w 3) 47 32 else 0,
      ih := fld (w 3) 31 16, iw := fld (w 3) 15 0, ring := ring, a := a, b := b, bias := bias,
      padValue := BitVec.ofNat 32 (fld (w 10) 31 0), outBase := fld (w 11) 47 0, outPlane := fld (w 12) 63 32,
      outRow := fld (w 12) 31 0, outScale := fld (w 13) 47 0,gPitch := fld (w 14) 47 0 }
  let l := l.withConv (w 7)
  if layerReserved ws && l.outDest ≠ 3 && l.accLevel ≤ 6 && 1 ≤ l.tk && 1 ≤ l.tn && 1 ≤ l.tm &&
     (!conv || (1 ≤ l.tox && l.tm % l.tox == 0 && 1 ≤ l.kh && 1 ≤ l.kw && 1 ≤ l.sy && 1 ≤ l.sx && 1 ≤ l.dy && 1 ≤ l.dx))
  then some l else none

/-- Bytes of a loop table, from its first word (R107, R108). -/
def loopTableBytes (head : List Byte) : Nat := 64 + 128 * (fld (word64At head 0) 9 8 + 1)

/-- A loop table from its bytes (R107, R108). -/
def loopTableOf (bs : List Byte) : Option LoopTable := do
  let h := word64At bs 0
  if fld h 63 32 ≠ 0 || fld h 7 0 ≠ 0 || word64At bs 8 ≠ 0 then none
  let levels ← (List.range 6).mapM (fun l => levelOf (word64At bs (0x10 + 8 * l)))
  let layers ← (List.range (fld h 9 8 + 1)).mapM (fun i => layerOf (wordsOf (bs.drop (0x40 + 0x80 * i)) 16))
  some { stage := BitVec.ofNat 16 (fld h 31 16), tileEntry := fld h 15 10, levels := levels, layers := layers }

/-! ## Fields by coordinate -/

def Layer.toy (l : Layer) : Nat := l.tm / l.tox

/-- Tile extent of a coordinate: 1 M, 2 N, 3 K, 4 OY, 5 OX, 6 G (R109, R112). -/
def Layer.tileOf (l : Layer) : Nat → Nat
  | 1 => l.tm | 2 => l.tn | 3 => l.tk | 4 => l.toy | 5 => l.tox | _ => 1

/-- Extent of a coordinate (R112). -/
def Layer.extOf (l : Layer) : Nat → Nat
  | 1 => l.extM | 2 => l.extN | 3 => l.extK | 4 => l.extOy | 5 => l.extOx | _ => 0

/-- Pass size of the layer's pair (R47), and whether it accumulates in INT32 (R46). -/
def Layer.p (l : Layer) : Nat := passSize l.fmtA l.fmtB
def Layer.isInt (l : Layer) : Bool := intPair l.fmtA l.fmtB

def bitsOfFmt (w : BitVec 8) : Nat := storageBits (fwCode w)

/-- The last layer, which writes the table's output. -/
def LoopTable.last (t : LoopTable) : Layer := t.layers.getLastD {}

/-- Does the table name a tile menu entry (R124)? -/
def LoopTable.menu (t : LoopTable) : Bool := t.tileEntry != 0x3F

/-- Input tile of a convolution (R120). -/
def Layer.ihT (l : Layer) : Nat := (l.toy - 1) * l.sy + (l.kh - 1) * l.dy + 1
def Layer.iwT (l : Layer) : Nat := (l.tox - 1) * l.sx + (l.kw - 1) * l.dx + 1

/-- Accumulator words per entry of a ring entry (R65). -/
def RingEntry.w (e : RingEntry) : Nat := if e.comp then 2 else 1

/-- Sub-tile rows and columns of a full tile, and the slots of a ring entry (R116, R122). -/
def Layer.subRows (l : Layer) : Nat := ceilDiv l.tm 32
def Layer.subCols (l : Layer) : Nat := ceilDiv l.tn 32
def Layer.slotsOf (l : Layer) (e : RingEntry) : Nat := l.subRows * l.subCols * e.w

/-- The ring in use (R116). -/
def Layer.ringUsed (l : Layer) : List RingEntry := l.ring.take (l.ringLast + 1)

/-! ## Checks (R123) -/

/-- Formats of a layer: R23, R46, R42, R53, R56. -/
def Layer.formatsOk (l : Layer) : Bool :=
  let c := fwCode l.fmtBias
  fmtOk .operand false l.fmtA && fmtOk .operand false l.fmtB && fmtOk .dest false l.fmtOut && fmtOk .other true l.fmtBias &&
  pairOk l.fmtA l.fmtB && fwCode l.fmtOut != 0xF && !(l.isInt && fwCode l.fmtOut == 0xE && l.readout == 0) &&
  !(fwMx l.fmtBias) && (c == 0 || (if l.isInt then 0xA ≤ c && c ≤ 0xD else c ≤ 0xC))

/-- STEP of each level of a coordinate, inner to outer, follows the one below it (R111). -/
def chainOk : Nat → List Level → Bool
  | _, [] => true
  | st, l :: ls => l.step == st && chainOk (l.step * l.count) ls

/-- Levels of a coordinate, inner to outer. -/
def LoopTable.levelsOf (t : LoopTable) (d : Nat) : List Level := t.levels.filter (fun l => l.dim == d)

/-- The number of iterations of levels. -/
def countOf (ls : List Level) : Nat := (ls.map (·.count)).foldl (· * ·) 1

/-- R111 for one coordinate of a layer. -/
def LoopTable.covers (t : LoopTable) (l : Layer) (d : Nat) : Bool :=
  let ls := t.levelsOf d
  if ls = [] then d == 6 || l.extOf d ≤ l.tileOf d
  else
    !(if l.conv then d == 1 else d == 4 || d == 5) && chainOk (l.tileOf d) ls &&
    (d == 6 || countOf ls == (if l.extOf d = 0 then 1 else ceilDiv (l.extOf d) (l.tileOf d)))

/-- R111. -/
def LoopTable.coverageOk (t : LoopTable) : Bool :=
  t.levels.all (fun l => l.dim != 0 || (l.count == 1 && l.step == 0)) && [1, 2, 3, 4, 5, 6].all (t.covers t.last)

/-- Row pitch of an A or B operand (R114). -/
def pitchOk (fmt : BitVec 8) (pitch tk : Nat) : Bool :=
  rowBytes (bitsOfFmt fmt) (if fwMx fmt then ceilDiv tk 32 * 32 else tk) ≤ pitch && (bitsOfFmt fmt != 6 || pitch % 3 == 0)

/-- Rows of an MX destination are allocated in whole blocks (R29): in memory rows of EXT_N elements, in the bin window of the tile's
columns; a spout has no rows, and one row needs no pitch. -/
def Layer.outBlocksOk (l : Layer) : Bool :=
  let len := if l.outDest = 2 then l.extN else min l.tn l.extN
  let rows := if l.outDest = 2 then l.extM else min l.tm l.extM
  l.outDest == 1 || rows ≤ 1 || rowBytes (bitsOfFmt l.fmtOut) (ceilDiv len 32 * 32) ≤ l.outRow

/-- Placement rules of one layer: R114, R29, R33, R118. -/
def Layer.placementOk (l : Layer) : Bool :=
  (l.conv || pitchOk l.fmtA l.a.pitch l.tk) && pitchOk l.fmtB l.b.pitch l.tk &&
  [l.a, l.b, l.bias].all (fun x => x.base % 128 == 0 && x.stride % 128 == 0) &&
  (!(fwMx l.fmtA || fwMx l.fmtB) || l.extK ≤ l.tk || l.tk % 32 == 0) &&
  (bitsOfFmt l.fmtBias != 6 || !l.biasFull || l.bias.pitch % 3 == 0) &&
  (bitsOfFmt l.fmtOut != 6 || (l.outRow % 3 == 0 && (!l.conv || l.outPlane % 3 == 0) && (l.outDest != 2 || l.gPitch % 3 == 0))) &&
  (!(fwMx l.fmtOut) || (!l.conv && (l.tn % 32 == 0 || l.extN ≤ l.tn) && l.outBlocksOk))

/-- Do two ranges of slots or bytes meet? -/
def meets (a b : Nat × Nat) : Bool := a.1 < b.2 && b.1 < a.2

/-- No element of a list stands in relation with a later one. -/
def pairwise {α : Type} (bad : α → α → Bool) : List α → Bool
  | [] => true
  | x :: xs => xs.all (fun y => !bad x y) && pairwise bad xs

/-- Accumulation span and ring rules of a table: R116, R94, R117. -/
def LoopTable.ringsOk (t : LoopTable) (groups : Nat) : Bool :=
  let entries := t.layers.flatMap (fun l => l.ringUsed.map (fun e => (e, (e.slot, e.slot + l.slotsOf e))))
  t.layers.all (fun l =>
    ((List.range 6).zip t.levels).all (fun x => if x.1 < l.accLevel then x.2.dim == 3 || x.2.dim == 0 else x.2.dim != 3) &&
    (l.ring.drop (l.ringLast + 1)).all (fun e => decide (e = {})) &&
    l.ringUsed.all (fun e => e.group < groups && (!e.comp || (e.slot % 2 == 0 && !l.isInt)))) &&
  pairwise (fun a b => a.1.group == b.1.group || meets a.2 b.2) entries

/-- Convolution rules of one layer: R119, R120. PAD_VALUE is read under R482. -/
def Layer.convOk (l : Layer) : Bool :=
  let kk := l.kh * l.kw
  !l.conv ||
  (l.extK % kk == 0 && l.tk % kk == 0 && !(fwMx l.fmtA) && bitsOfFmt l.fmtA != 4 && bitsOfFmt l.fmtA != 6 &&
   !(fwMx l.fmtOut) && decide (((encodeElem (BitVec.ofNat 8 (fwCode l.fmtA)) (fp32 l.padValue)).run {}).2 = {}) &&
   rowBytes (bitsOfFmt l.fmtA) l.iwT ≤ l.a.pitch && l.ihT * l.a.pitch ≤ l.aPlane)

/-- What a set gives a table: bytes of a half's window, accumulator slots, groups. -/
structure Window where
  bin    : Nat
  slots  : Nat
  groups : Nat
  deriving DecidableEq, Repr

/-- One line of the tile menu (R124): convolution, TM, TN, TK, COMP, slots, bin window in KiB. -/
def menuLine (entry p : Nat) : Option (Bool × Nat × Nat × Nat × Bool × Nat × Nat) :=
  match entry with
  | 0 => some (false, 32, 32, 64 * p, false, 2, 576)
  | 1 => some (false, 64, 64, 64 * p, false, 8, 1152)
  | 2 => some (false, 128, 128, 32 * p, false, 32, 1152)
  | 3 => some (false, 128, 128, 32 * p, true, 64, 1152)
  | 4 => some (false, 256, 128, 16 * p, false, 64, 832)
  | 5 => some (true, 256, 64, 288, false, 32, 384)
  | _ => none

/-- R124. -/
def LoopTable.menuOk (t : LoopTable) (sh : Shape) (w : Window) : Bool :=
  if !t.menu then decide (sh = .whole)
  else
    let l := t.last
    match menuLine t.tileEntry l.p with
    | none => false
    | some (conv, tm, tn, tk, comp, slots, bin) =>
      l.conv == conv && l.tm == tm && l.tn == tn && l.tk == tk && l.ringLast == 1 && l.ringUsed.all (fun e => e.comp == comp) &&
      t.layers.length == 1 && !l.biasFull && l.outDest != 0 && w.bin == bin * 1024 && w.slots == slots && w.groups == 2 &&
      (!conv || (l.kh == 3 && l.kw == 3 && l.sy ≤ 2 && l.sx ≤ 2 && l.dy ≤ 2 && l.dx ≤ 2 && l.tox == 32 &&
        bitsOfFmt l.fmtA ≤ 16 && bitsOfFmt l.fmtB ≤ 16))

/-- The rules between a layer and the next one of a fused table (R126, R127). -/
def linkOk (a b : Layer) : Bool :=
  a.outDest == 0 && fwCode a.fmtOut == fwCode b.fmtA && b.a.base == a.outBase && b.a.stride == 0 &&
  b.a.pitch == a.outRow && b.aPlane == a.outPlane && b.ih == a.extOy && b.iw == a.extOx && a.toy == b.ihT && a.tox == b.iwT

/-- Rules between neighbours. -/
def linksOk : List Layer → Bool
  | a :: b :: ls => linkOk a b && linksOk (b :: ls)
  | _ => true

/-- R126, R127. -/
def LoopTable.fusedOk (t : LoopTable) : Bool :=
  t.layers.length == 1 ||
  (t.layers.all (fun l => l.conv && l.accLevel == 0 && l.extK ≤ l.tk && l.extN ≤ l.tn) &&
   t.levels.all (fun l => l.dim == 0 || l.dim == 4 || l.dim == 5 || l.dim == 6) && linksOk t.layers)

/-- Every rule whose breach is MALFORMED (R123). -/
def LoopTable.legal (t : LoopTable) (sh : Shape) (w : Window) : Bool :=
  t.layers.all Layer.formatsOk && t.coverageOk && t.layers.all Layer.placementOk && t.ringsOk w.groups &&
  t.layers.all Layer.convOk && t.menuOk sh w && t.fusedOk

/-! ## Capacity (R122, R133) -/

/-- Footprints of the A and B buffers (R122), and of the bias: of a packed 4-bit or 6-bit bias with BIAS_MODE 0 the packed size of a
row of TN elements, where the table says element bytes. DESIGN CHOICE, log entry 31. -/
def Layer.sizeA (l : Layer) : Nat :=
  if l.conv then l.tk / (l.kh * l.kw) * l.aPlane
  else l.tm * l.a.pitch + (if fwMx l.fmtA then l.tm * ceilDiv l.tk 32 else 0)
def Layer.sizeB (l : Layer) : Nat := l.tn * l.b.pitch + (if fwMx l.fmtB then l.tn * ceilDiv l.tk 32 else 0)
def Layer.sizeBias (l : Layer) : Nat :=
  if l.fmtBias = 0 then 0 else if l.biasFull then l.tm * l.bias.pitch else rowBytes (bitsOfFmt l.fmtBias) l.tn

/-- Footprint of an output in the bin window (R122). -/
def Layer.sizeOut (l : Layer) : Nat :=
  if l.outDest ≠ 0 then 0
  else if l.conv then l.tn * l.outPlane
  else l.tm * l.outRow + (if fwMx l.fmtOut then l.tm * ceilDiv l.tn 32 else 0)

/-- Bin-window offset of a bin-window output. -/
def Layer.outOff (l : Layer) : Nat := l.outBase % 2 ^ 22

/-- Ranges of a buffer: it, and buffer 1 where it is double. -/
def Buf.ranges (b : Buf) (size : Nat) : List (Nat × Nat) :=
  if b.stride = 0 then [(b.base, b.base + size)]
  else [(b.base, b.base + size), (b.base + b.stride, b.base + b.stride + size)]

/-- Ranges that a readout record reads for a layer (R133). The scalar of SCALE_MODE 2 covers 4 bytes: R122 and R133 give the
footprint of the residual and the scale vector only. DESIGN CHOICE, log entry 31. -/
def ReadoutRec.ranges (r : ReadoutRec) (l : Layer) : List (Nat × Nat) :=
  (if r.scaleMode = 1 then [(r.scaleBase, r.scaleBase + l.tn * 4)]
   else if r.scaleMode = 2 then [(r.scaleBase, r.scaleBase + 4)] else []) ++
  (if r.resFmt = 0 then [] else
    [(r.resBase, r.resBase + (if l.conv then l.tn * r.resPlane else l.tm * r.resRow))])

/-- A tagged range: 0 an output and 1 an A buffer, each with its layer; 2 anything else. -/
abbrev TagRange := Nat × Nat × Nat × Nat

/-- Ranges of layer `i`. -/
def Layer.ranges (l : Layer) (i : Nat) (r : Option ReadoutRec) : List TagRange :=
  let tag (k : Nat) (l : List (Nat × Nat)) : List TagRange := l.map (fun x => (k, i, x.1, x.2))
  tag 1 (l.a.ranges l.sizeA) ++ tag 2 (l.b.ranges l.sizeB) ++
  (if l.fmtBias = 0 then [] else tag 2 (l.bias.ranges l.sizeBias)) ++
  (if l.outDest = 0 then tag 0 [(l.outOff, l.outOff + l.sizeOut)] else []) ++
  (match r with | some x => tag 2 (x.ranges l) | none => [])

/-- May two ranges of a table overlap? An output is the next layer's A buffer (R126). -/
def sharesBuffer (a b : TagRange) : Bool :=
  (a.1 == 0 && b.1 == 1 && b.2.1 == a.2.1 + 1) || (b.1 == 0 && a.1 == 1 && a.2.1 == b.2.1 + 1)

/-- The record that a layer's READOUT selects (R132). -/
def recordOf (recs : List ReadoutRec) (n : Nat) : Option ReadoutRec := if n = 0 then none else recs[n - 1]?

/-- R122. -/
def LoopTable.fits (t : LoopTable) (recs : List ReadoutRec) (w : Window) : Bool :=
  let ranges := (((List.range t.layers.length).zip t.layers).flatMap
    (fun x => x.2.ranges x.1 (recordOf recs x.2.readout))).filter (fun r => r.2.2.1 < r.2.2.2)
  let stride (b : Buf) (size : Nat) : Bool := b.stride == 0 || size ≤ b.stride
  t.layers.all (fun l => stride l.a l.sizeA && stride l.b l.sizeB && (l.fmtBias == 0 || stride l.bias l.sizeBias) &&
    l.ringUsed.all (fun e => e.slot + l.slotsOf e ≤ w.slots)) &&
  ranges.all (fun r => r.2.2.2 ≤ w.bin) &&
  pairwise (fun a b => meets a.2.2 b.2.2 && !sharesBuffer a b) ranges

/-! ## The walk (R110, R116, R127) -/

/-- Coordinate of an origin. -/
def Origin.at_ (o : Origin) : Nat → Nat
  | 1 => o.m | 2 => o.n | 3 => o.k | 4 => o.oy | 5 => o.ox | 6 => o.g | _ => 0

/-- Origin of the counters (R110). -/
def LoopTable.origin (t : LoopTable) (counts : List Nat) : Origin :=
  let sum (d : Nat) : Nat := ((counts.zip t.levels).map (fun x => if x.2.dim = d then x.1 * x.2.step else 0)).foldl (· + ·) 0
  { m := sum 1, n := sum 2, k := sum 3, oy := sum 4, ox := sum 5, g := sum 6 }

/-- A signed tile position along the two pixel axes: in a fused table it may lie before the image (R127). -/
structure Body where
  o  : Origin
  oy : Int
  ox : Int
  deriving DecidableEq, Repr

/-- Pixel origin of layer `i` from the last layer's, backwards (R127): the layers after it, in order. -/
def haloOrigin : List Layer → Int × Int → Int × Int
  | [], o => o
  | l :: ls, o => let x := haloOrigin ls o; (x.1 * l.sy - l.padT, x.2 * l.sx - l.padL)

/-- The body of layer `i` at the counters. -/
def LoopTable.body (t : LoopTable) (i : Nat) (counts : List Nat) : Body :=
  let o := t.origin counts
  let x := haloOrigin (t.layers.drop (i + 1)) ((o.oy : Int), (o.ox : Int))
  { o := o, oy := x.1, ox := x.2 }

def LoopTable.layer (t : LoopTable) (i : Nat) : Layer := t.layers.getD i {}

/-- Valid rows of a tile: the last valid one plus 1 (R113). -/
def validRows (l : Layer) (b : Body) : Nat :=
  if l.conv then
    let voy := min (l.toy : Int) (l.extOy - b.oy)
    let vox := min (l.tox : Int) (l.extOx - b.ox)
    if voy ≤ 0 || vox ≤ 0 then 0 else ((voy - 1) * l.tox + vox).toNat
  else min l.tm (l.extM - b.o.m)

def validCols (l : Layer) (b : Body) : Nat := min l.tn (l.extN - b.o.n)
def validK (l : Layer) (b : Body) : Nat := min l.tk (l.extK - b.o.k)

/-- Is tile row `r` not gated (R105, R113)? A pixel before the image of a fused layer is no valid row either. -/
def rowValid (l : Layer) (b : Body) (r : Nat) : Bool :=
  if l.conv then
    let y := b.oy + (r / l.tox : Nat)
    let x := b.ox + (r % l.tox : Nat)
    r < l.tm && 0 ≤ y && y < l.extOy && 0 ≤ x && x < l.extOx
  else r < validRows l b

/-- Sub-tile rows, sub-tile columns and passes of a body (R113). -/
def bodyShape (t : LoopTable) (l : Layer) (b : Body) : Nat × Nat × Nat :=
  if t.menu then (l.subRows, l.subCols, ceilDiv l.tk l.p)
  else (ceilDiv (validRows l b) 32, ceilDiv (validCols l b) 32, ceilDiv (validK l b) l.p)

/-- Present positions of pass `j`: first position relative to the tile, and how many (R48). -/
def passSpan (l : Layer) (b : Body) (j : Nat) : Nat × Nat := (j * l.p, min l.p (validK l b - j * l.p))

/-- Valid grid rows of sub-tile row `ms`, as tile rows, and valid columns of sub-tile column `ns`. -/
def subRowsValid (l : Layer) (b : Body) (ms : Nat) : List Nat := (upFrom (32 * ms) 32).filter (rowValid l b)
def subColsValid (l : Layer) (b : Body) (ns : Nat) : List Nat := (upFrom (32 * ns) 32).filter (fun c => c < validCols l b)

/-- Does a body start an accumulation span, or end one (R116)? -/
def spanStart (l : Layer) (counts : List Nat) : Bool := (counts.take l.accLevel).all (· == 0)
def spanEnd (t : LoopTable) (l : Layer) (counts : List Nat) : Bool :=
  ((counts.zip t.levels).take l.accLevel).all (fun x => x.1 + 1 == x.2.count)

/-- The counters after one iteration of level 0; none at the end of the walk (R110). -/
def nextCounts : List Nat → List Level → Option (List Nat)
  | c :: cs, l :: ls => if c + 1 < l.count then some ((c + 1) :: cs) else (nextCounts cs ls).map (0 :: ·)
  | _, _ => none

/-! ## Operand origins and fills (R115) -/

/-- Operands of a port or a layer: 1 A, 2 B, 3 BIAS, 4 RES, 5 SRC (R193). -/
def originDims (l : Layer) : Nat → List Nat
  | 1 => if l.conv then [4, 5, 3, 6] else [1, 3, 6]
  | 2 => [2, 3, 6]
  | 3 => if l.biasFull then [1, 2, 6] else [2, 6]
  | 4 => [1, 2, 4, 5, 6]
  | _ => []

/-- The coordinates of an origin that an operand depends on; the others are 0. -/
def operandOrigin (l : Layer) (op : Nat) (o : Origin) : Origin :=
  let d := originDims l op
  let keep (k : Nat) : Nat := if d.contains k then o.at_ k else 0
  { m := keep 1, n := keep 2, k := keep 3, oy := keep 4, ox := keep 5, g := keep 6 }

/-- Lowest level whose coordinate an operand depends on and that iterates. -/
def LoopTable.flipLevel (t : LoopTable) (l : Layer) (op : Nat) : Nat :=
  (((List.range 6).zip t.levels).find? (fun x => (originDims l op).contains x.2.dim && 1 < x.2.count)).elim 6 (·.1)

/-- Buffer fills of an operand per run of the table (R115). -/
def LoopTable.fillsOf (t : LoopTable) (l : Layer) (op : Nat) : Nat := countOf (t.levels.drop (t.flipLevel l op))

/-- Counters of mixed radix `n`. -/
def digits : Nat → List Level → List Nat
  | _, [] => []
  | n, l :: ls => n % l.count :: digits (n / l.count) ls

/-- Counters of the first body of fill `n` of a run. -/
def LoopTable.fillCounts (t : LoopTable) (l : Layer) (op n : Nat) : List Nat :=
  let k := t.flipLevel l op
  List.replicate k 0 ++ digits n (t.levels.drop k)

/-- Segments that a layer's output forms per run (R201): its accumulation spans. -/
def LoopTable.spans (t : LoopTable) (l : Layer) : Nat := countOf (t.levels.drop l.accLevel)

/-- G coverage of a table (R111, R208). -/
def LoopTable.gCoverage (t : LoopTable) : Nat := countOf (t.levelsOf 6)

/-! ## Operand addresses (R114, R118, R119) -/

/-- Base of a buffer. -/
def Buf.at_ (b : Buf) (n : Nat) : Nat := b.base + (if n = 0 then 0 else b.stride)

/-- An element in the bin window: offset of its packed group, its place in it, and its scale byte if it has one. -/
structure Elem where
  off   : Nat
  j     : Nat
  bits  : Nat
  scale : Option Nat := none
  deriving DecidableEq, Repr

/-- Element `j` of a packed row at `base`. -/
def elemOf (base bits j : Nat) : Elem := { off := base + packedOff bits j, j := j, bits := bits }

/-- A or B element at tile row `r` and K position `k` of a matrix operand (R114). -/
def matElem (fmt : BitVec 8) (buf : Buf) (n rows tk r k : Nat) : Elem :=
  let base := buf.at_ n
  let e := elemOf (base + r * buf.pitch) (bitsOfFmt fmt) k
  if fwMx fmt then { e with scale := some (base + rows * buf.pitch + r * ceilDiv tk 32 + k / 32) } else e

/-- A element of a convolution at tile row `r` and K position `k`; none is padding (R119). -/
def convElem (l : Layer) (b : Body) (n r k : Nat) : Option Elem :=
  let c := k / (l.kh * l.kw)
  let q := k % (l.kh * l.kw)
  let ky := q / l.kw
  let kx := q % l.kw
  let oy := b.oy + (r / l.tox : Nat)
  let ox := b.ox + (r % l.tox : Nat)
  let iy : Int := oy * l.sy + (ky * l.dy : Nat) - l.padT
  let ix : Int := ox * l.sx + (kx * l.dx : Nat) - l.padL
  if iy < 0 || iy ≥ l.ih || ix < 0 || ix ≥ l.iw then none
  else
    let iy0 : Int := b.oy * l.sy - l.padT
    let ix0 : Int := b.ox * l.sx - l.padL
    some (elemOf (l.a.at_ n + c * l.aPlane + (iy - iy0).toNat * l.a.pitch) (bitsOfFmt l.fmtA) (ix - ix0).toNat)

/-- Bias element of tile entry (m, n) (R118). -/
def biasElem (l : Layer) (buf m n : Nat) : Elem :=
  elemOf (l.bias.at_ buf + (if l.biasFull then m * l.bias.pitch else 0)) (bitsOfFmt l.fmtBias) n

end Sys2Proof.Machine
end

