-- ==== Sys2Proof/Machine/Plans.lean ====
section
/-! DEFINITION. Plan images: layout and the checks that bind a plan or refuse it (R132, R134, R141, R143, R144, R192 to R208,
R215). -/
namespace Sys2Proof.Machine

/-! ## Reading structures -/

/-- Binding: engine work that keeps every byte it reads, for PLAN_CHECK (R261). -/
abbrev Bind := StateT (List Byte) Run

/-- Read bytes of a structure. -/
def fetchBytes (a : Acc) (va n : Nat) : Bind (List Byte) := do
  let bs ← (readSV a va n : Run (List Byte))
  modify (· ++ bs)
  return bs

/-- A check: MALFORMED or the given status when it fails. -/
def need (ok : Bool) (st : Status := .malformed) : Bind Unit := if ok then pure () else (halt st : Run Unit)

/-- A structure that must have a meaning. -/
def must {α : Type} (o : Option α) : Bind α := match o with | some x => pure x | none => (halt .malformed : Run α)

def chuteAcc (f stone : Nat) : Acc := { f := f, engine := 1, unit := stone }

/-- Is the pattern a subnormal FP32 value? -/
def isSubnormal (w : Word32) : Bool := w.toNat / 2 ^ 23 % 256 == 0 && w.toNat % 2 ^ 23 != 0

/-- An FP32 constant as R482 reads it. -/
def readConst (w : Word32) : Word32 := if isSubnormal w then w &&& 0x8000_0000 else w

/-! ## Readout records (R132, R134) -/

/-- A readout record; none if a reserved bit is set. -/
def readoutOf (bs : List Byte) : Option ReadoutRec :=
  let a := word64At bs 0
  let b := word64At bs 8
  if fld a 44 22 ≠ 0 || fld b 3 0 ≠ 0 then none
  else some { func := fld a 63 56, resFmt := BitVec.ofNat 8 (fld a 55 48), scaleMode := fld a 47 46, resAfter := bitAt a 45,
              scaleBase := fld a 21 0, resBase := fld b 63 42, resPlane := fld b 41 20, resRow := fld b 19 4 }

/-- Does a governor function code name a function, or a table of the set (R135, R140)? -/
def funcOk (tables code : Nat) : Bool := code ≤ 8 || (0x10 ≤ code && code < 0x10 + tables)

/-- R134 for one record. -/
def ReadoutRec.ok (r : ReadoutRec) (tables : Nat) : Bool :=
  let c := fwCode r.resFmt
  funcOk tables r.func && r.scaleMode != 3 && fmtOk .other true r.resFmt && !(fwMx r.resFmt) && (c ≤ 6 || c == 0xE)

/-! ## Programmable tables (R141) -/

/-- Is the pattern a finite FP32 value? -/
def isFinite32 (w : Word32) : Bool := w.toNat / 2 ^ 23 % 256 != 255

/-- A table image: the table, and whether a constant was subnormal. -/
def govTableOf (bs : List Byte) : Option (GovTable × Bool) :=
  let consts := [word32At bs 0, word32At bs 4] ++ (List.range 512).map (fun i => word32At bs (0x20 + 4 * i))
  let mode := (word32At bs 8).toNat
  if !consts.all isFinite32 || mode / 4 ≠ 0 || ((bs.drop 0x0C).take 20).any (· != 0) then none
  else
    let word (o : Nat) : Word32 := readConst (word32At bs o)
    some ({ xLo := word 0, invStep := word 4, lowMode := mode.testBit 0, highMode := mode.testBit 1,
            value := (List.range 256).map (fun j => word (0x20 + 8 * j)),
            slope := (List.range 256).map (fun j => word (0x24 + 8 * j)) }, consts.any isSubnormal)

/-! ## Vane operation blocks (R143, R144) -/

def VaneBlock.isConv (b : VaneBlock) : Bool := b.vop == 1
def VaneBlock.isCrop (b : VaneBlock) : Bool := b.vop == 2
def VaneBlock.isSoft (b : VaneBlock) : Bool := b.vop == 3
def VaneBlock.isStats (b : VaneBlock) : Bool := b.vop == 4
def VaneBlock.isNorm (b : VaneBlock) : Bool := b.vop == 5

/-- Reserved bits of a vane operation block. -/
def vaneReserved (ws : List Word64) : Bool :=
  let w (i : Nat) := wordAt ws i
  fld (w 0) 59 56 == 0 && fld (w 0) 16 0 == 0 && fld (w 1) 63 48 == 0 && fld (w 2) 63 48 == 0 && fld (w 3) 63 22 == 0 &&
  fld (w 7) 3 0 == 0 && fld (w 10) 63 22 == 0 && fld (w 11) 63 32 == 0 && fld (w 12) 63 48 == 0 && w 13 == 0 && w 14 == 0 && w 15 == 0

/-- A vane operation block from its sixteen words. -/
def vaneOf (ws : List Word64) : Option VaneBlock :=
  let w (i : Nat) := wordAt ws i
  let fmt (hi lo : Nat) : BitVec 8 := BitVec.ofNat 8 (fld (w 0) hi lo)
  if !vaneReserved ws then none
  else some
    { vop := fld (w 0) 63 60, fmtOut := fmt 55 48, fmtIn := fmt 47 40, fmtAux := fmt 39 32, readout := fld (w 0) 31 24
      inMem := bitAt (w 0) 23, outDest := fld (w 0) 22 21, spout := fld (w 0) 20 19, column := bitAt (w 0) 18
      biasEn := bitAt (w 0) 17, inBase := fld (w 1) 47 0, outBase := fld (w 2) 47 0, auxBase := fld (w 3) 21 0
      rows := fld (w 4) 63 32, rowLen := fld (w 4) 31 0, inPitch := fld (w 5) 63 32, outPitch := fld (w 5) 31 0
      ih := fld (w 6) 63 48, iw := fld (w 6) 47 32, oh := fld (w 6) 31 16, ow := fld (w 6) 15 0
      conv := ({} : Layer).withConv (w 7)
      cIn := fld (w 8) 63 48, cOut := fld (w 8) 47 32, groups := fld (w 8) 31 16, gbShare := fld (w 8) 63 32
      w48hi := fld (w 9) 63 32, w48lo := fld (w 9) 31 0, aux2Base := fld (w 10) 21 0
      const := BitVec.ofNat 32 (fld (w 11) 31 0), imgPitch := fld (w 12) 47 0 }

/-- May the vane read a format (R23, R130)? -/
def vaneSource (w : BitVec 8) : Bool :=
  let c := fwCode w
  fmtOk .other false w && !(fwMx w) && bitsOfFmt w != 4 && bitsOfFmt w != 6 && c != 0xF

/-- Does an MX-scaled or packed destination stand as a vane operation may write it (R30, R33)? The rows of a 6-bit tensor start on
3-byte groups. An MX-scaled FMT_OUT is refused for every OUT_DEST: R144 does not list it, and R118 speaks of layers. DESIGN CHOICE,
log entry 31. -/
def VaneBlock.outOk (b : VaneBlock) : Bool :=
  fmtOk .dest false b.fmtOut && !(fwMx b.fmtOut) && fwCode b.fmtOut != 0xF &&
  (bitsOfFmt b.fmtOut != 6 || (b.outPitch % 3 == 0 && (!(b.isConv || b.isCrop) || (b.w48hi % 3 == 0 && b.w48lo % 3 == 0))))

/-- R144, with the ranges that R143 and R153 give. -/
def VaneBlock.legal (b : VaneBlock) : Bool :=
  1 ≤ b.vop && b.vop ≤ 5 && b.outDest != 3 && vaneSource b.fmtIn &&
  (if b.isStats then b.fmtOut == 0 && 16 ≤ b.outPitch && b.outPitch % 16 == 0
   else b.outOk) &&
  (if b.isConv then vaneSource b.fmtAux else if b.isNorm then b.fmtAux == 0 || vaneSource b.fmtAux else b.fmtAux == 0) &&
  !(b.inMem && (b.isConv || b.isCrop)) && (b.readout == 0 || !(b.isSoft || b.isStats)) &&
  (!b.isSoft || b.rowLen ≤ 2 ^ 20) && (!(b.isStats || b.isNorm) || b.rowLen ≤ 2 ^ 24) && (!b.isCrop || b.rows ≤ 4096) &&
  (!b.isConv || (b.groups != 0 && b.cIn % b.groups == 0 && b.cOut % b.groups == 0 &&
    b.cIn / b.groups * b.conv.kh * b.conv.kw ≤ 4096 && 1 ≤ b.conv.kh && 1 ≤ b.conv.kw && 1 ≤ b.conv.sy && 1 ≤ b.conv.sx &&
    1 ≤ b.conv.dy && 1 ≤ b.conv.dx))

/-- Units of a vane operation (R144). -/
def VaneBlock.units (b : VaneBlock) : Nat :=
  match b.vop with
  | 1 => b.rows * b.cOut * ceilDiv (b.oh * b.ow) 256
  | 5 => if b.column then b.rowLen * ceilDiv b.rows 256 else b.rows * ceilDiv b.rowLen 256
  | _ => b.rows

/-! ## Phases, fills, inlets (R194, R197, R205) -/

/-- A fill record. -/
def fillOf (bs : List Byte) : Option FillRec :=
  let w (i : Nat) := word64At bs (8 * i)
  if fld (w 0) 60 48 ≠ 0 || fld (w 0) 62 61 = 3 || fld (w 1) 41 32 ≠ 0 || fld (w 3) 63 32 ≠ 0 then none
  else
    let x : FillRec := { transpose := bitAt (w 0) 63, esize := 2 ^ fld (w 0) 62 61, src := fld (w 0) 47 0, dst := fld (w 1) 63 42,
                         srcPitch := fld (w 1) 31 0, rows := fld (w 2) 63 32, rowBytes := fld (w 2) 31 0,
                         dstPitch := fld (w 3) 31 0 }
    if x.transpose && x.rowBytes % x.esize != 0 then none else some x

/-- Destination rows of a fill, and bytes in each (R197). -/
def FillRec.shape (x : FillRec) : Nat × Nat :=
  if x.transpose then (x.rowBytes / x.esize, x.rows * x.esize) else (x.rows, x.rowBytes)

/-- Does a fill stay in a window of `n` bytes (R197)? -/
def FillRec.inside (x : FillRec) (n : Nat) : Bool :=
  let y := x.shape
  y.1 == 0 || y.2 == 0 || x.dst + (y.1 - 1) * x.dstPitch + y.2 ≤ n

/-- An inlet record. -/
def inletOf (bs : List Byte) : Option Inlet :=
  let w (i : Nat) := word64At bs (8 * i)
  if bitAt (w 0) 48 || fld (w 0) 59 58 = 3 || fld (w 1) 63 48 = 0 then none
  else
    let x : Inlet := { port := fld (w 0) 63 62, feedback := bitAt (w 0) 61, transpose := bitAt (w 0) 60,
                       esize := 2 ^ fld (w 0) 59 58, waitStage := fld (w 0) 57 49, src := fld (w 0) 47 0,
                       lag := fld (w 1) 63 48, roundPitch := fld (w 1) 47 0, roundWrap := fld (w 2) 63 48,
                       rows := fld (w 2) 47 32, rowBytes := fld (w 2) 31 0, segPitch := fld (w 3) 63 32,
                       srcPitch := fld (w 3) 31 0 }
    if x.transpose && x.rowBytes % x.esize != 0 then none else some x

/-- Read the table or block of a phase (R107, R143). -/
def fetchBody (a : Acc) (vane : Bool) (va : Nat) : Bind PhaseBody := do
  if vane then
    let b ← must (vaneOf (wordsOf (← fetchBytes a va 128) 16))
    return .vane b
  else
    let head ← fetchBytes a va 64
    let rest ← fetchBytes a (va + 64) (loopTableBytes head - 64)
    let t ← must (loopTableOf (head ++ rest))
    return .loop t

/-- Read one phase record with its fills (R194, R197); `bin` bytes bound the window. -/
def fetchPhase (a : Acc) (bin : Nat) (bs : List Byte) : Bind (Phase × Nat) := do
  let w (i : Nat) := word64At bs (8 * i)
  need (fld (w 1) 63 48 == 0 && w 3 == 0 && aligned (fld (w 0) 47 0) 64 && aligned (fld (w 1) 47 0) 32)
  let n := fld (w 0) 63 48
  let raw ← fetchBytes a (fld (w 1) 47 0) (32 * n)
  let fills ← must ((List.range n).mapM (fun i => fillOf ((raw.drop (32 * i)).take 32)))
  need (fills.all (fun x => x.inside bin)) .capacity
  return ({ fills := fills, roundWrap := fld (w 2) 63 48, roundPitch := fld (w 2) 47 0 }, fld (w 0) 47 0)

/-! ## What phases write and read -/

/-- Destination, spout and format of a phase's output. -/
def PhaseBody.outDest : PhaseBody → Nat | .loop t => t.last.outDest | .vane b => b.outDest
def PhaseBody.spout : PhaseBody → Nat | .loop t => t.last.spout | .vane b => b.spout
def PhaseBody.fmtOut : PhaseBody → BitVec 8 | .loop t => t.last.fmtOut | .vane b => b.fmtOut

/-- Segments that a phase's output forms per round (R201). -/
def PhaseBody.segments : PhaseBody → Nat | .loop t => t.spans t.last | .vane b => b.units

def StagePlan.phase (x : StagePlan) (q : Nat) : Phase := x.phases.getD q {}

/-- The record of a layer. -/
def StagePlan.record (x : StagePlan) (n : Nat) : Option ReadoutRec := recordOf x.readouts n

/-- The layer whose readout record has a residual: the first of the table. -/
def StagePlan.resLayer (x : StagePlan) (t : LoopTable) : Option (Nat × Layer × ReadoutRec) :=
  ((List.range t.layers.length).zip t.layers).findSome? (fun y =>
    match x.record y.2.readout with | some r => if r.resFmt = 0 then none else some (y.1, y.2, r) | none => none)

/-- Layer of a loop table that reads operand `op` of a port (R203). -/
def StagePlan.portLayer (x : StagePlan) (t : LoopTable) (op : Nat) : Layer :=
  if op = 4 then (x.resLayer t).elim {} (·.2.1) else t.layer 0

/-- Format of the operand that a port feeds (R203). -/
def StagePlan.portFmt (x : StagePlan) (pt : PortRec) : BitVec 8 :=
  match (x.phase pt.phase).body with
  | .vane b => b.fmtIn
  | .loop t =>
    match pt.operand with
    | 1 => (t.layer 0).fmtA
    | 2 => (t.layer 0).fmtB
    | 3 => (t.layer 0).fmtBias
    | _ => (x.resLayer t).elim 0 (·.2.2.resFmt)

/-- Buffer fills per round of the operand that a port feeds (R115). -/
def StagePlan.portFills (x : StagePlan) (pt : PortRec) : Nat :=
  match (x.phase pt.phase).body with
  | .vane _ => 1
  | .loop t => t.fillsOf (x.portLayer t pt.operand) pt.operand

/-- Is an operand of a port one that the phase reads (R203)? -/
def StagePlan.portReads (x : StagePlan) (pt : PortRec) : Bool :=
  match (x.phase pt.phase).body with
  | .vane _ => pt.operand == 5
  | .loop _ => 1 ≤ pt.operand && pt.operand ≤ 4

/-! ## One stage record (R193, R195 steps 1 to 4) -/

/-- Fields of a stage record. -/
def stageOf (ws : List Word64) : Option StagePlan :=
  let w (i : Nat) := wordAt ws i
  let x : StagePlan :=
    { stone := fld (w 0) 63 57, vane := bitAt (w 0) 56, spouts := fld (w 0) 55 53, tables := fld (w 0) 52 49
      groups := fld (w 0) 43 40, accSlots := fld (w 0) 36 27, binUnits := fld (w 0) 26 21, pawl := fld (w 0) 20 11
      pawlEn := bitAt (w 0) 10
      targets := (List.range 4).map (fun s => { valid := bitAt (w 5) (16 * s + 15), stage := fld (w 5) (16 * s + 14) (16 * s + 6),
                                                port := fld (w 5) (16 * s + 5) (16 * s + 4) })
      ports := (List.range 4).map (fun p => { phase := fld (w 6) (16 * p + 15) (16 * p + 13),
                                              operand := fld (w 6) (16 * p + 12) (16 * p + 10),
                                              segs := fld (w 6) (16 * p + 9) (16 * p) })
      clipLen := fld (w 7) 63 48, overlap := fld (w 7) 47 32 }
  if fld (w 0) 9 0 = 0 && fld (w 1) 63 48 = 0 && fld (w 2) 63 48 = 0 && fld (w 3) 63 48 = 0 && fld (w 4) 63 52 = 0 &&
     (List.range 4).all (fun s => fld (w 5) (16 * s + 3) (16 * s) == 0) && fld (w 7) 31 0 = 0 &&
     x.stone ≤ 95 && x.spouts ≤ 4 && x.tables ≤ 8 && fld (w 0) 48 44 ≤ 16 && x.groups ≤ 8 && x.accSlots ≤ 512 &&
     1 ≤ x.binUnits && x.binUnits ≤ 48 && fld (w 4) 51 48 ≤ 4 && x.ports.all (fun p => p.operand < 6) &&
     aligned (fld (w 1) 47 0) 32 && aligned (fld (w 2) 47 0) 16 && aligned (fld (w 3) 47 0) 32 && aligned (fld (w 4) 47 0) 32
  then some x else none

/-- Bytes of a stage's bin window in each half. -/
def StagePlan.bin (x : StagePlan) : Nat := x.binUnits * 65536

/-- The rules of R203 that concern the record alone. -/
def StagePlan.streamsOk (x : StagePlan) : Bool :=
  let named := (x.phases.filter (fun q => q.body.outDest == 1)).map (fun q => q.body.spout)
  ((List.range 4).zip x.targets).all (fun t => !t.2.valid || t.1 < x.spouts) &&
  pairwise (fun a b => a == b) named && named.all (fun s => (x.targets.getD s {}).valid) &&
  x.ports.all (fun p => p.operand == 0 || (p.segs != 0 && p.phase < x.phases.length && x.portReads p))

/-- R205: an inlet that feeds a per-column bias has one row. -/
def StagePlan.inletOk (x : StagePlan) (i : Inlet) : Bool :=
  let p := x.ports.getD i.port {}
  p.operand != 0 &&
  (p.operand != 3 || (match (x.phase p.phase).body with
    | .loop t => (t.layer 0).biasFull || i.rows * p.segs == 1
    | .vane _ => true))

/-- R208. -/
def StagePlan.clipOk (x : StagePlan) : Bool :=
  x.clipLen == 0 ||
  (x.overlap < x.clipLen &&
   (match x.phases.getLast? with
    | some q =>
      (match q.body with
       | .loop t => t.gCoverage == x.clipLen && t.last.outDest == 2 && !(fwMx t.last.fmtOut) && q.roundPitch == 0
       | .vane _ => false)
    | none => false))

/-- Step 1 of R195: the structural rules of the record alone. -/
def checkRecord (f : Nat) (survey : Bool) (stages : Nat) (ws : List Word64) : Bind StagePlan := do
  let s ← (getS : Run State)
  let x ← must (stageOf ws)
  need (survey || s.owns (s.partOf f) (x.stone / 24)) .access
  need (survey || !x.pawlEn || inCarve (s.pawlCarve (s.partOf f)) x.pawl) .access
  let a := stoneAcc f x.stone
  let q := fld (wordAt ws 0) 39 37 + 1
  let raw ← fetchBytes a (fld (wordAt ws 1) 47 0) (32 * q)
  let heads ← (List.range q).mapM (fun i => fetchPhase a x.bin ((raw.drop (32 * i)).take 32))
  let bodies ← heads.mapM (fun h => fetchBody a x.vane h.2)
  let x := { x with phases := (heads.zip bodies).map (fun (y : (Phase × Nat) × PhaseBody) => { y.1.1 with body := y.2 }) }
  need x.streamsOk
  let n := fld (wordAt ws 4) 51 48
  let raw ← fetchBytes a (fld (wordAt ws 4) 47 0) (32 * n)
  let inlets ← must ((List.range n).mapM (fun i => inletOf ((raw.drop (32 * i)).take 32)))
  need (inlets.all (fun i => x.inletOk i && i.waitStage < stages))
  let x := { x with inlets := inlets }
  need x.clipOk
  return x

/-- Read the readout list of a stage. -/
def fetchReadouts (a : Acc) (ws : List Word64) : Bind (List ReadoutRec) := do
  let n := fld (wordAt ws 0) 48 44
  let raw ← fetchBytes a (fld (wordAt ws 2) 47 0) (16 * n)
  must ((List.range n).mapM (fun i => readoutOf ((raw.drop (16 * i)).take 16)))

/-- READOUT fields of a phase. -/
def PhaseBody.readoutNos : PhaseBody → List Nat | .loop t => t.layers.map (·.readout) | .vane b => [b.readout]

/-- Step 2 of R195 for the phases in order: a table's rules, then its capacity, which reads the readout list when a layer of
the table names a record. -/
def checkBodies (a : Acc) (ws : List Word64) (x : StagePlan) (sh : Shape) :
    List Phase → Option (List ReadoutRec) → Bind (Option (List ReadoutRec))
  | [], recs => pure recs
  | q :: qs, recs => do
    match q.body with
    | .vane b =>
      need b.legal
      checkBodies a ws x sh qs recs
    | .loop t =>
      let w : Window := { bin := x.bin, slots := x.accSlots, groups := x.groups }
      need (t.legal sh w)
      let recs ← if recs.isNone && t.layers.any (fun l => l.readout != 0) then do
          let l ← fetchReadouts a ws
          pure (some l)
        else pure recs
      need (t.fits (recs.getD []) w) .capacity
      checkBodies a ws x sh qs recs

/-- Steps 2 to 4 of R195: the stage, its tables, and whether a constant was subnormal (R482). -/
def checkLists (f : Nat) (ws : List Word64) (x : StagePlan) : Bind (StagePlan × List GovTable × Bool) := do
  let s ← (getS : Run State)
  let a := stoneAcc f x.stone
  let recs ← checkBodies a ws x s.shape x.phases none
  let recs ← match recs with | some l => pure l | none => fetchReadouts a ws
  need (recs.all (fun r => r.ok x.tables))
  need (x.phases.all (fun q => q.body.readoutNos.all (fun n => n ≤ recs.length)))
  let x := { x with readouts := recs }
  need (x.phases.all (fun q => match q.body with
    | .vane b => (match x.record b.readout with | some r => r.resFmt == 0 | none => true)
    | .loop _ => true))
  let raw ← fetchBytes a (fld (wordAt ws 3) 47 0) (2080 * x.tables)
  let tabs ← must ((List.range x.tables).mapM (fun i => govTableOf ((raw.drop (2080 * i)).take 2080)))
  let small := tabs.any (·.2) || x.phases.any (fun q => match q.body with
    | .loop t => t.layers.any (fun l => isSubnormal l.padValue)
    | .vane b => isSubnormal b.const)
  return (x, tabs.map (·.1), small)

/-! ## Rules between records (R203, R215) -/

/-- Stages and spouts that feed port `p` of stage `c`. -/
def feeders (xs : List StagePlan) (c p : Nat) : List (StagePlan × Nat) :=
  xs.flatMap (fun x => ((List.range 4).zip x.targets).filterMap (fun t =>
    if t.2.valid && t.2.stage == c && t.2.port == p then some (x, t.1) else none))

/-- The phase that writes a spout. -/
def StagePlan.writer (x : StagePlan) (s : Nat) : Option (Nat × PhaseBody) :=
  ((List.range x.phases.length).zip (x.phases.map (·.body))).find? (fun q => q.2.outDest == 1 && q.2.spout == s)

/-- Spout targets exist (R203). -/
def targetsOk (xs : List StagePlan) : Bool :=
  xs.all (fun x => x.targets.all (fun t => !t.valid || (t.stage < xs.length &&
    ((xs.getD t.stage {}).ports.getD t.port {}).operand != 0)))

/-- Ports are fed by one stream (R203). -/
def feedsOk (xs : List StagePlan) : Bool :=
  ((List.range xs.length).zip xs).all (fun c => ((List.range 4).zip c.2.ports).all (fun p =>
    p.2.operand == 0 || (feeders xs c.1 p.1).length + (c.2.inlets.filter (fun i => i.port == p.1)).length == 1))

/-- Formats and segment counts of streams agree (R203). -/
def streamsMatch (xs : List StagePlan) : Bool :=
  ((List.range xs.length).zip xs).all (fun c => ((List.range 4).zip c.2.ports).all (fun p =>
    p.2.operand == 0 || (feeders xs c.1 p.1).all (fun y =>
      match y.1.writer y.2 with
      | none => false
      | some (_, b) =>
        let fc := c.2.portFmt p.2
        fwCode b.fmtOut == fwCode fc && fwMx b.fmtOut == fwMx fc && b.segments == p.2.segs * c.2.portFills p.2)))

/-- Edges of the graph of R203. -/
def planEdges (xs : List StagePlan) : List ((Nat × Nat) × (Nat × Nat)) :=
  ((List.range xs.length).zip xs).flatMap (fun x =>
    (List.range (x.2.phases.length - 1)).map (fun q => ((x.1, q), (x.1, q + 1))) ++
    ((List.range 4).zip x.2.targets).filterMap (fun t =>
      match x.2.writer t.1 with
      | some (q, _) => if t.2.valid then some ((x.1, q), (t.2.stage, ((xs.getD t.2.stage {}).ports.getD t.2.port {}).phase)) else none
      | none => none))

/-- Remove edges whose source no remaining edge enters, `n` times: what stays lies on or behind a cycle. -/
def pruneEdges : Nat → List ((Nat × Nat) × (Nat × Nat)) → List ((Nat × Nat) × (Nat × Nat))
  | 0, es => es
  | n + 1, es => pruneEdges n (es.filter (fun e => es.any (fun d => d.2 == e.1)))

/-- The graph has no cycle (R203). -/
def acyclic (xs : List StagePlan) : Bool := let es := planEdges xs; pruneEdges (es.length + 1) es == []

/-- No two stages name one stage pawl (R215). -/
def pawlsOk (xs : List StagePlan) : Bool := pairwise (fun a b => a == b) ((xs.filter (·.pawlEn)).map (·.pawl))

/-- The rules that relate records, in their order: each failure is MALFORMED (R195). -/
def crossOk (xs : List StagePlan) : Bool :=
  targetsOk xs && feedsOk xs && streamsMatch xs && acyclic xs && pawlsOk xs

end Sys2Proof.Machine
end

