-- ==== Sys2Proof/Machine/Sets.lean ====
section
/-! DEFINITION. Sets of a stone: access to its stores, stops, rank, readiness of tiles, fills of ports, and the walk
(R84 to R101, R113 to R116, R196 to R207). -/
namespace Sys2Proof.Machine

/-! ## Accessors -/

/-- Change a set. -/
def State.modCtx (s : State) (p i : Nat) (g : SetCtx → SetCtx) : State := s.putCtx p i (g (s.setCtx p i))

/-- Change a stone. -/
def State.modStone (s : State) (p : Nat) (g : Stone → Stone) : State := s.setStone p (g (s.stone p))

/-- The next order number of a stone. -/
def State.nextOrder (s : State) (p : Nat) : Nat × State :=
  let n := (s.stone p).order + 1
  (n, s.modStone p (fun x => { x with order := n }))

def SetCtx.phaseRec (c : SetCtx) : Phase := c.plan.phase c.phase
def SetCtx.phaseCount (c : SetCtx) : Nat := c.plan.phases.length
def SetCtx.port (c : SetCtx) (n : Nat) : PortState := Table.get {} c.inbound n
def SetCtx.setPort (c : SetCtx) (n : Nat) (v : PortState) : SetCtx := { c with inbound := Table.put {} c.inbound n v }
def SetCtx.hist (c : SetCtx) (layer : Nat) : Hist := Table.get {} c.hists (c.phase * 8 + layer)
def SetCtx.setHist (c : SetCtx) (layer : Nat) (v : Hist) : SetCtx :=
  { c with hists := Table.put {} c.hists (c.phase * 8 + layer) v }
def SetCtx.group (c : SetCtx) (g : Nat) : Group := c.groups.getD g {}
def SetCtx.setGroup (c : SetCtx) (g : Nat) (v : Group) : SetCtx := { c with groups := c.groups.set g v }
def SetCtx.flip (c : SetCtx) (layer op : Nat) : Flip := Table.get {} c.flips (c.phase * 64 + layer * 8 + op)
def SetCtx.setFlip (c : SetCtx) (layer op : Nat) (v : Flip) : SetCtx :=
  { c with flips := Table.put {} c.flips (c.phase * 64 + layer * 8 + op) v }
def SetCtx.spoutRing (c : SetCtx) (n : Nat) : List Segment := Table.get [] c.rings n
def SetCtx.setSpoutRing (c : SetCtx) (n : Nat) (v : List Segment) : SetCtx := { c with rings := Table.put [] c.rings n v }

/-- Advance of device-memory bases in the present round (R207). -/
def SetCtx.roundAdd (c : SetCtx) : Nat :=
  let q := c.phaseRec
  (if q.roundWrap = 0 then c.round else c.round % q.roundWrap) * q.roundPitch

/-- The half in which phase `q` of round `t` runs (R196): true is half 1. -/
def SetCtx.halfOf (c : SetCtx) (t q : Nat) : Bool :=
  if c.phaseCount ≤ 1 then true else (t * c.phaseCount + q + 1) % 2 == 1

/-! ## Writes of a stone (R401) -/

/-- Does the fabric take a stone's writes: does it carry a logical stone, whose epoch it knows (R401)? -/
def State.speaks (s : State) (p : Nat) : Bool :=
  let x := s.stone p
  match x.logical with
  | some l => x.state == .active && x.epoch == s.epoch l
  | none => false

/-- Count a dropped write of a stone (R401, R405). -/
def State.staleWrite (s : State) (p : Nat) : State := s.setUnit 0 p { s.unit 0 p with stale := sat32 (s.unit 0 p).stale 1 }

/-! ## Stops -/

/-- Is the command of a set still the one its ring runs, on a stone that works? -/
def State.ownsSet (s : State) (p i : Nat) : Bool :=
  let c := s.setCtx p i
  (s.stone p).state == .active && (s.running c.f c.r).map (·.seq) == some c.seq

/-- A set stops (R92, R160, R390): its command ends and every stage with it (R210). A set of a fenced stone is dropped. -/
def State.stopSet (s : State) (p i : Nat) (e : Stop) : State :=
  let c := s.setCtx p i
  if s.ownsSet p i then s.stopPlan c.f c.r e.status e.report else s.setStone p ((s.stone p).empty i)

/-- Run work of a set: its flags join the set's, a stop stops the set, destroyed data end its command with DEVICE_ERROR
(R390). -/
def State.work {α : Type} (s : State) (p i : Nat) (m : Run α) (k : α → Flags → State → State) : State :=
  let x := m.exec s
  let s := x.2.s.modCtx p i (fun c => { c with flags := c.flags.or x.2.flags })
  match x.1 with
  | .error e => s.stopSet p i (e.met x.2)
  | .ok v => if x.2.device then s.stopSet p i { status := .deviceError } else k v x.2.flags s

/-! ## The bin store and the accumulator memory (R84, R89, R92, R388 to R390) -/

/-- Bytes of one half of the bin store. -/
def halfBytes : Nat := 3 * mib

/-- Bank, row and byte of the line of offset `o` of half `h` (R84). Which bank serves an access affects only timing (R87). -/
def binBank (h o : Nat) : Nat × Nat × Nat :=
  let line := o / 128
  (h * 48 + line % 48, line / 48, o % 128)

/-- Meet stored errors of granules of a stone at a read: corrected, or found lost. -/
def meetStone (p : Nat) : List Nat → State → Bool × State
  | [], s => (false, s)
  | g :: gs, s =>
    let x := s.stone p
    let info : FaultRec := { unit := BitVec.ofNat 8 (x.logical.getD 0x7F) }
    let hit := x.ecc.find? (fun c => c.1 == g)
    let s' := match hit with
      | some (_, .correctable) => (s.setStone p { x with ecc := Table.drop x.ecc (fun k => k == g) }).event 0 p .corrected 0 info
      | some (_, .uncorrectable) =>
        (s.setStone p { x with ecc := Table.put .correctable x.ecc g .poisoned }).event 0 p .uncorrectable 0 info
      | _ => s
    let bad := match hit with | some (_, .correctable) => false | some _ => true | none => false
    let r := meetStone p gs s'
    (bad || r.1, r.2)

/-- Granules of 8 bytes that a run touches. -/
def granules8 (a n : Nat) : List Nat := if n = 0 then [] else upFrom (a / 8) ((a + n - 1) / 8 + 1 - a / 8)

/-- Read stored bytes of a stone whose granule numbers start at `base`. -/
def meetRead (p base a n : Nat) : Run Unit := do
  let s ← getS
  let listed := ((granules8 a n).map (base + ·)).filter (fun g => (s.stone p).ecc.any (fun c => c.1 == g))
  let r := meetStone p listed s
  modify (fun e => { e with s := r.2, device := e.device || r.1 })

/-- First granule numbers of a set context and of a programmable table. -/
def ctxKey (i : Nat) : Nat := 2 ^ 21 + 128 * i
def tableKey (t : Nat) : Nat := 2 ^ 22 + 512 * t

/-- Is a granule one of a set's context, or of some tables? -/
def inCtx (i : Nat) (ts : List Nat) (g : Nat) : Bool :=
  (decide (ctxKey i ≤ g) && decide (g < ctxKey i + 128)) || ts.any (fun t => decide (tableKey t ≤ g) && decide (g < tableKey t + 512))

/-- The context of a set is read, whole. -/
def meetCtx (p i : Nat) : Run Unit := meetRead p (ctxKey i) 0 1024

/-- The programmable table that a set's readout record names is read, whole (R140). -/
def meetTable (p : Nat) (c : SetCtx) (r : Option ReadoutRec) : Run Unit :=
  match r.bind (fun q => if 0x10 ≤ q.func then c.tables[q.func - 0x10]? else none) with
  | some t => meetRead p (tableKey t) 0 2112
  | none => pure ()

/-- A segment is read from its spout ring, whose SRAM the house of its producer counts (R392). -/
def meetSegment (h : Nat) (seg : Segment) : Run Unit := do
  if seg.ecc = some .correctable then modS (fun s => s.event 4 h .corrected 0 {})
  if seg.ecc = some .uncorrectable then modS (fun s => s.event 4 h .uncorrectable 0 {})
  modify (fun e => { e with device := e.device || seg.ecc == some .uncorrectable || seg.ecc == some .poisoned })

/-- Place of an offset of a set's bin window in the store of its stone; outside the window the set stops with ACCESS (R92). -/
def binPlace (p i : Nat) (half : Bool) (off n : Nat) : Run Nat := do
  let c := (← getS).setCtx p i
  if off + n > c.plan.bin then halt .access
  return (if half then halfBytes else 0) + c.binOff + off

/-- Read a set's bin window. -/
def binRead (p i : Nat) (half : Bool) (off n : Nat) : Run (List Byte) := do
  let a ← binPlace p i half off n
  meetRead p 0 a n
  return ((← getS).stone p).bin.readN a n

/-- Write a set's bin window; a granule written whole has no stored error. -/
def binWrite (p i : Nat) (half : Bool) (off : Nat) (bs : List Byte) : Run Unit := do
  let a ← binPlace p i half off bs.length
  modS (fun s => s.modStone p (fun x => { x with
    bin := x.bin.write a bs, ecc := Table.drop x.ecc (fun g => a ≤ g * 8 && g * 8 + 8 ≤ a + bs.length) }))

/-- Where entry (i, j) of an accumulator slot lies (R89). -/
def accAddr (slot row col : Nat) : Nat := col * 65536 + slot * 128 + 4 * row

/-- Read a word of the accumulator memory. -/
def accRead (p a : Nat) : Run Word32 := do
  meetRead p (2 ^ 20) a 4
  return BitVec.ofNat 32 (leNat (((← getS).stone p).acc.readN a 4))

/-- The word that the last pass is writing in the clock in which the next pass takes it: no read of the memory (R81). -/
def accForward (p a : Nat) : Run Word32 := do
  return BitVec.ofNat 32 (leNat (((← getS).stone p).acc.readN a 4))

/-- Granules of an accumulator slot, two rows of one column each, that entries of `rows` and `cols` cover whole. -/
def slotGranules (slot : Nat) (rows cols : List Nat) : List Nat :=
  cols.flatMap (fun c => (rows.filter (fun r => r % 2 == 0 && rows.contains (r + 1))).map (fun r =>
    2 ^ 20 + accAddr slot (r % 32) (c % 32) / 8))

/-- A pass has entered a slot: granules that it wrote whole have no stored error (R390), and the slot is the last one entered
(R81). -/
def Stone.entered (x : Stone) (slot w : Nat) (rows cols : List Nat) : Stone :=
  let gs := slotGranules slot rows cols ++ (if w = 2 then slotGranules (slot + 1) rows cols else [])
  { x with ecc := Table.drop x.ecc (fun g => gs.contains g), lastSlot := some slot }

/-- Write a word of the accumulator memory, with its flush mark (R75). -/
def accWrite (p a : Nat) (w : Word32) (flushed : Bool) : Run Unit :=
  modS (fun s => s.modStone p (fun x => { x with
    acc := x.acc.write a (natLe 4 w.toNat), flushed := Table.put false x.flushed a flushed }))

/-- Slot of a set's accumulator window in the memory of its stone (R92). -/
def accSlot (p i slot w : Nat) : Run Nat := do
  let c := (← getS).setCtx p i
  if slot + w > c.plan.accSlots then halt .access
  return c.accBase + slot

/-- The code of a packed element. -/
def binElem (p i : Nat) (half : Bool) (e : Elem) : Run Nat := do
  let bs ← binRead p i half e.off (groupBytes e.bits)
  let w := leNat bs
  return if e.bits < 8 then w / 2 ^ (e.bits * (e.j % groupElems e.bits)) % 2 ^ e.bits else w

/-- Write the code of a packed element into its group. -/
def binPutElem (p i : Nat) (half : Bool) (e : Elem) (code : Nat) : Run Unit := do
  if e.bits < 8 then
    let bs ← binRead p i half e.off (groupBytes e.bits)
    let sh := e.bits * (e.j % groupElems e.bits)
    let w := leNat bs
    let old := w / 2 ^ sh % 2 ^ e.bits
    binWrite p i half e.off (natLe (groupBytes e.bits) (w - old * 2 ^ sh + code % 2 ^ e.bits * 2 ^ sh))
  else binWrite p i half e.off (natLe (e.bits / 8) code)

/-! ## Rank (R255) -/

/-- Does a set have Overshot rank? -/
def Stone.high (x : Stone) (c : SetCtx) : Bool := c.overshot && x.overCount < x.reserve.toNat * 1024

/-! ## Operands of the next tile (R96, R115, R201) -/

/-- The loop table that a set runs. -/
def SetCtx.table (c : SetCtx) : Option LoopTable := match c.phaseRec.body with | .loop t => some t | .vane _ => none

/-- Does the body of layer `l` at an origin begin a new fill of operand `op` (R115)? -/
def SetCtx.newFill (c : SetCtx) (layer : Nat) (l : Layer) (op : Nat) (o : Origin) : Bool :=
  let x := c.flip layer op
  !x.used || x.force || operandOrigin l op o != x.origin

/-- Layer that a port's operand belongs to. -/
def SetCtx.portLayer (c : SetCtx) (t : LoopTable) (op : Nat) : Nat := if op = 4 then (c.plan.resLayer t).elim 0 (·.1) else 0

/-- Does the coming body of the layer at `pos` begin a new fill of a port? -/
def SetCtx.portNew (c : SetCtx) (t : LoopTable) (op : Nat) (counts : List Nat) : Bool :=
  let k := c.portLayer t op
  if op = 4 then spanStart (t.layer k) counts else c.newFill k (t.layer k) op (t.origin counts)

/-- Inbound ports of the present phase, with their numbers. -/
def SetCtx.phasePorts (c : SetCtx) : List (Nat × PortRec) :=
  ((List.range 4).zip c.plan.ports).filter (fun x => x.2.operand != 0 && x.2.phase == c.phase)

/-- Has the inbound data of the next tile arrived (R96)? -/
def SetCtx.portsReady (c : SetCtx) : Bool :=
  match c.phaseRec.body with
  | .loop t =>
    c.pos.begun || c.phasePorts.all (fun x =>
      c.portLayer t x.2.operand != c.pos.layer ||
      (c.port x.1).begun + b2n (c.portNew t x.2.operand c.pos.counts) ≤ (c.port x.1).fills)
  | .vane _ => 0 < c.unit || c.phasePorts.all (fun x => (c.port x.1).begun + 1 ≤ (c.port x.1).fills)

/-- Has the phase work left to issue? -/
def SetCtx.working (c : SetCtx) : Bool :=
  c.started && (match c.phaseRec.body with | .loop _ => !c.pos.ended | .vane b => c.unit < b.units)

/-- Are the operands of the set's next tile all present (R96), and its stage pawl held (R215)? -/
def SetCtx.tileReady (c : SetCtx) : Bool := c.working && c.pawl != .queued && c.portsReady

/-! ## Finished fills (R204) -/

/-- Fills that groups still need, as the number of the last finished one. -/
def SetCtx.heldFills (c : SetCtx) (op : Nat) : Option Nat :=
  let used := (c.groups.filter (fun g => g.state != .closed)).filterMap (fun g =>
    let n := if op = 3 then g.biasFill else if op = 4 then g.resFill else 0
    if n = 0 then none else some (n - 1))
  used.foldl (fun m n => some (match m with | none => n | some k => min k n)) none

/-- Fills of a port that the set has finished reading. -/
def SetCtx.finishedFills (c : SetCtx) (n : Nat) (pt : PortRec) : Nat :=
  let b := (c.port n).begun
  let open_ := match (c.plan.phase pt.phase).body with
    | .vane v => pt.phase == c.phase && c.started && 0 < c.unit && c.unit < v.units
    | .loop t =>
      if pt.phase ≠ c.phase || !c.started || c.pos.ended || pt.operand = 4 then false
      else if c.pos.layer = 0 then c.pos.begun || !c.portNew t pt.operand c.pos.counts
      else match nextCounts c.pos.counts t.levels with
        | some n => !c.portNew t pt.operand n
        | none => false
  let k := if open_ then b - 1 else b
  match c.heldFills pt.operand with | some h => min k h | none => k

/-- Buffers of the operand that a port feeds. -/
def SetCtx.portBuffers (c : SetCtx) (pt : PortRec) : Nat :=
  match (c.plan.phase pt.phase).body with
  | .vane _ => 1
  | .loop t =>
    let l := t.layer 0
    let st := match pt.operand with | 1 => l.a.stride | 2 => l.b.stride | 3 => l.bias.stride | _ => 0
    if st = 0 then 1 else 2

/-- May a segment land in the fill in progress of a port (R204)? -/
def SetCtx.mayLand (c : SetCtx) (n : Nat) (pt : PortRec) : Bool :=
  (c.port n).fills < c.finishedFills n pt + c.portBuffers pt

/-! ## Groups and the walk (R93, R110, R116, R128) -/

/-- Number of the ring entry in use of a layer, and the entry. -/
def SetCtx.ringPos (c : SetCtx) (layer : Nat) : Nat := c.pos.ringAt.getD layer 0
def SetCtx.ringEntry (c : SetCtx) (t : LoopTable) (layer : Nat) : RingEntry := (t.layer layer).ring.getD (c.ringPos layer) {}

/-- Is the group that layer `k` closed last CLOSED (R128)? -/
def SetCtx.prevClosed (c : SetCtx) (t : LoopTable) (k : Nat) : Bool :=
  let l := t.layer k
  let n := l.ringLast + 1
  let e := l.ring.getD ((c.ringPos k + n - 1) % n) {}
  (c.group e.group).state == .closed

/-- May the coming body begin: its group CLOSED if it opens one (R93), the layer before it read out (R128)? -/
def SetCtx.mayBegin (c : SetCtx) (t : LoopTable) : Bool :=
  let l := t.layer c.pos.layer
  (!spanStart l c.pos.counts || (c.group (c.ringEntry t c.pos.layer).group).state == .closed) &&
  (c.pos.layer == 0 || c.prevClosed t (c.pos.layer - 1))

/-- The buffer alternation of one operand at the start of a body (R115). -/
def SetCtx.alternate (c : SetCtx) (layer : Nat) (l : Layer) (o : Origin) (op stride : Nat) : SetCtx :=
  let x := c.flip layer op
  let new := c.newFill layer l op o
  let buf := if stride = 0 || !x.used then 0 else if new then 1 - x.buf else x.buf
  c.setFlip layer op { buf := buf, origin := operandOrigin l op o, used := true }

/-- Ports of the phase whose coming fill the body begins to read. -/
def SetCtx.beginFills (c : SetCtx) (t : LoopTable) : SetCtx :=
  c.phasePorts.foldl (fun d x =>
    if c.portLayer t x.2.operand = c.pos.layer && c.portNew t x.2.operand c.pos.counts then
      d.setPort x.1 { d.port x.1 with begun := (d.port x.1).begun + 1 }
    else d) c

/-- Fills begun of the port that feeds an operand of a layer, 0 without one. -/
def SetCtx.begunOf (c : SetCtx) (t : LoopTable) (layer op : Nat) : Nat :=
  match c.phasePorts.find? (fun x => x.2.operand == op && c.portLayer t op == layer) with
  | some x => (c.port x.1).begun
  | none => 0

/-- Open the group of the span that begins, every slot of it marked initial (R93). -/
def SetCtx.openGroup (c : SetCtx) (t : LoopTable) : SetCtx :=
  let k := c.pos.layer
  let l := t.layer k
  let e := c.ringEntry t k
  c.setGroup e.group
    { state := .opened, comp := e.comp, base := e.slot, layer := k, phase := c.phase, round := c.round
      origin := t.origin c.pos.counts, biasBuf := (c.flip k 3).buf, biasFill := c.begunOf t k 3, resFill := c.begunOf t k 4
      initial := (List.range (l.subRows * l.subCols)).map (fun n => e.slot + n * e.w) }

/-- Begin a tile body: fills, buffers, group. -/
def SetCtx.beginBody (c : SetCtx) (t : LoopTable) : SetCtx :=
  let k := c.pos.layer
  let l := t.layer k
  let o := t.origin c.pos.counts
  let d := c.beginFills t
  let d := d.alternate k l o 1 l.a.stride
  let d := d.alternate k l o 2 l.b.stride
  let d := d.alternate k l o 3 l.bias.stride
  let d := if spanStart l c.pos.counts then d.openGroup t else d
  { d with pos := { d.pos with begun := true, ms := 0, ns := 0, j := 0 } }

/-- End a tile body: its group closes at the end of the span (R116), and the walk goes on (R110). `n` orders the closing. -/
def SetCtx.endBody (c : SetCtx) (t : LoopTable) (n : Nat) : SetCtx :=
  let k := c.pos.layer
  let l := t.layer k
  let c := if spanEnd t l c.pos.counts then
      let g := (c.ringEntry t k).group
      let c := c.setGroup g { c.group g with state := .draining, closed := n }
      { c with pos := { c.pos with ringAt := c.pos.ringAt.set k ((c.ringPos k + 1) % (l.ringLast + 1)) } }
    else c
  let pos := { c.pos with begun := false, ms := 0, ns := 0, j := 0 }
  if k + 1 < t.layers.length then { c with pos := { pos with layer := k + 1 } }
  else match nextCounts pos.counts t.levels with
    | some counts => { c with pos := { pos with layer := 0, counts := counts } }
    | none => { c with pos := { pos with layer := 0, ended := true } }

/-! ## Order of READY sets and switches (R97, R98) -/

/-- Does READY set `a` come before `b` (R98)? -/
def Stone.before (x : Stone) (a b : Nat × SetCtx) : Bool :=
  if x.high a.2 != x.high b.2 then x.high a.2
  else if a.2.readyAt ≠ b.2.readyAt then a.2.readyAt < b.2.readyAt
  else a.1 < b.1

/-- READY sets in the order of R98. -/
def Stone.readySets (x : Stone) : List (Nat × SetCtx) := sortBy x.before (x.sets.filter (fun k => k.2.state == .ready))

/-- Must the RUNNING set give the runner up at this boundary (R97 items 1 to 3)? -/
def Stone.mustSwitch (x : Stone) (c : SetCtx) : Bool :=
  x.readySets != [] &&
  (!c.tileReady || (!x.high c && x.readySets.any (fun k => x.high k.2)) || x.expired)

/-! ## The walk -/

/-- Has a SNAPSHOT been requested for a set (item 4 of R97)? -/
def State.snapOn (s : State) (c : SetCtx) : Bool :=
  (List.range 16).any (fun q => (s.running c.f q).any (fun k => decide (k.wait = .snapshot c.r c.seq)))

/-- Must the RUNNING set of a stone give the runner up at the boundary where it stands (R97)? -/
def State.leaves (s : State) (p : Nat) (c : SetCtx) : Bool := (s.stone p).mustSwitch c || s.snapOn c

/-- The RUNNING set that may begin its next tile body now, with its table: its tile is ready, its group and the layer before it
allow it, and no switch is due at the boundary where it stands (R96, R97). -/
def State.canBegin (s : State) (p : Nat) : Option (Nat × LoopTable) :=
  let x := s.stone p
  match x.loaded with
  | none => none
  | some i =>
    let c := x.set i
    match c.table with
    | none => none
    | some t =>
      if c.state = .running && !x.switching && c.tileReady && !c.pos.begun && c.mayBegin t && !(x.atBoundary && s.leaves p c)
      then some (i, t) else none

/-- Passes of the body at the present position. -/
def SetCtx.bodyPasses (c : SetCtx) (t : LoopTable) : Nat :=
  let sh := bodyShape t (t.layer c.pos.layer) (t.body c.pos.layer c.pos.counts)
  sh.1 * sh.2.1 * sh.2.2

/-- The tile bodies without a pass that the RUNNING set of a stone begins and ends, up to the next body with passes or the next
wait (R93, R106, R113). `n` bounds the bodies: no more than the groups of a table can pass without a readout. -/
def State.advance (s : State) (p : Nat) : Nat → State
  | 0 => s
  | n + 1 =>
    match s.canBegin p with
    | none => s
    | some (i, t) =>
      let c := s.setCtx p i
      if c.bodyPasses t ≠ 0 then s
      else
        let o := s.nextOrder p
        ((o.2.putCtx p i ((c.beginBody t).endBody t o.1)).modStone p (fun y => { y with atBoundary := true })).advance p n

/-- The body with passes that comes next begins, if it may. -/
def State.beginNext (s : State) (p : Nat) : State :=
  match s.canBegin p with
  | none => s
  | some (i, t) =>
    let c := s.setCtx p i
    if c.bodyPasses t = 0 then s
    else (s.putCtx p i (c.beginBody t)).modStone p (fun y => { y with atBoundary := false })

/-- As far as it goes. -/
def State.walkOn (s : State) (p : Nat) : State := s.advance p 64

/-- The set whose next real pass is ready, with its table. -/
def State.passReady (s : State) (p : Nat) : Option (Nat × LoopTable) :=
  let x := s.stone p
  match x.loaded with
  | none => none
  | some i =>
    let c := x.set i
    match c.table with
    | some t => if c.state = .running && !x.switching && c.pos.begun then some (i, t) else none
    | none => none

end Sys2Proof.Machine
end

