-- ==== Sys2Proof/Machine/Image.lean ====
section
/-! DEFINITION. Snapshot images, and how the sets of an instance stop for one (R97, R100, R259 to R261, R399). -/
/-- What the 1,024 opaque bytes of a section's context stand for, that a set of a logical stone and index of another module saved
(R261). -/
opaque Sys2Proof.Config.foreignSet : (logical index : Nat) → List Sys2Proof.Byte → Sys2Proof.Machine.SavedSet

namespace Sys2Proof.Machine

/-- A set's bin window and accumulator window. -/
def SetCtx.binRange (c : SetCtx) : Nat × Nat := (c.binOff, c.binOff + c.plan.bin)
def SetCtx.accRange (c : SetCtx) : Nat × Nat := (c.accBase, c.accBase + c.plan.accSlots)

/-! ## The image (R261) -/

/-- Bytes of a set's section. -/
def StagePlan.sectionBytes (x : StagePlan) : Nat :=
  64 + 1024 + 2 * x.bin + x.accSlots * 4096 + x.tables * 2112 + x.readouts.length * 16 + x.spouts * 262144

/-- The sets of a plan that are not EMPTY: logical stone, physical stone and set index, in the order of their sections. -/
def State.sectionsOf (s : State) (f r : Nat) (seq : Word32) : List (Nat × Nat × Nat) :=
  sortBy (fun a b => a.1 * 4 + a.2.2 < b.1 * 4 + b.2.2)
    ((s.setsOf f r seq).map (fun x => ((s.stone x.1).logical.getD 0x7F, x.1, x.2)))

/-- Bytes of a plan's image. -/
def State.imageSize (s : State) (f r : Nat) (seq : Word32) : Nat :=
  64 + ((s.sectionsOf f r seq).map (fun x => (s.setCtx x.2.1 x.2.2).plan.sectionBytes)).sum

/-- A readout record as its list holds it (R132). -/
def ReadoutRec.bytes (r : ReadoutRec) : List Byte :=
  natLe 8 (r.func * 2 ^ 56 + r.resFmt.toNat * 2 ^ 48 + r.scaleMode * 2 ^ 46 + b2n r.resAfter * 2 ^ 45 + r.scaleBase) ++
  natLe 8 (r.resBase * 2 ^ 42 + r.resPlane * 2 ^ 20 + r.resRow * 2 ^ 4)

/-- A programmable table as its image holds it (R141), padded to 2,112 bytes. -/
def GovTable.bytes (t : GovTable) : List Byte :=
  natLe 4 t.xLo.toNat ++ natLe 4 t.invStep.toNat ++ natLe 4 (b2n t.lowMode + 2 * b2n t.highMode) ++ natLe 20 0 ++
  (t.value.zip t.slope).flatMap (fun x => natLe 4 x.1.toNat ++ natLe 4 x.2.toNat) ++ natLe 32 0

/-- The header of a section: 64 bytes. -/
def sectionHead (l i : Nat) (x : StagePlan) : List Byte :=
  [l, i, x.binUnits, x.accSlots, x.tables, x.readouts.length, x.spouts, 0].flatMap (fun n => natLe 8 n)

/-- Read both halves of a set's bin window. -/
def readBins (p : Nat) (c : SetCtx) : Run (List Byte) := do
  let halves ← [c.binOff, halfBytes + c.binOff].mapM (fun a => do
    meetRead p 0 a c.plan.bin
    return ((← getS).stone p).bin.readN a c.plan.bin)
  return halves.flatten

/-- Runs of a set's accumulator window, in slot order: one column of a slot each. -/
def SetCtx.accRuns (c : SetCtx) : List Nat :=
  (upFrom c.accBase c.plan.accSlots).flatMap (fun slot => (List.range 32).map (fun col => accAddr slot 0 col))

/-- Read a set's accumulator window. -/
def readAccs (p : Nat) (c : SetCtx) : Run (List Byte) := do
  let runs ← c.accRuns.mapM (fun a => do
    meetRead p (2 ^ 20) a 128
    return ((← getS).stone p).acc.readN a 128)
  return runs.flatten

/-- Free bytes for what an image holds and software cannot name. -/
def opaqueBytes (n : Nat) : Run (List Byte) := do
  let x := (← getS).freeBytes n
  modS (fun _ => x.2)
  return x.1

/-- The section of one set, and what it keeps. -/
def saveSet (run : PlanRun) (x : Nat × Nat × Nat) : Run (List Byte) := do
  let y := (← getS).stone x.2.1
  let c := y.set x.2.2
  meetCtx x.2.1 x.2.2
  c.tables.forM (fun t => meetRead x.2.1 (tableKey t) 0 2112)
  c.rings.forM (fun k => k.2.forM (meetSegment (x.2.1 / 25)))
  let code ← opaqueBytes 1024
  let bins ← readBins x.2.1 c
  let accs ← readAccs x.2.1 c
  let spouts ← opaqueBytes (c.plan.spouts * 262144)
  let tabs := c.tables.map (fun t => Table.get {} y.tables t)
  let lo := c.accRange.1 * 128
  let marks := (y.flushed.filter (fun k => let w := k.1 % 65536 / 128; c.accRange.1 ≤ w && w < c.accRange.2)).map
    (fun (k : Nat × Bool) => (k.1 - lo, k.2))
  modS (fun s => { s with saved := { code := code, logical := x.1, index := x.2.2, ctx := { c with state := .stopping }, plan := run
                                     flushed := marks, tables := tabs } :: s.saved })
  return sectionHead x.1 x.2.2 c.plan ++ code ++ bins ++ accs ++ tabs.flatMap (·.bytes) ++ c.plan.readouts.flatMap (·.bytes) ++
    spouts

/-- The header of an image. -/
def imageHead (valid : Bool) (sets f : Nat) (run : PlanRun) (bytes : Nat) (check : Word32) : List Byte :=
  natLe 8 (b2n valid * 2 ^ 63 + sets * 2 ^ 48 + run.plan.toNat) ++ natLe 8 bytes ++
  natLe 8 (run.check.toNat * 2 ^ 32 + check.toNat) ++ natLe 8 f ++ natLe 32 0

/-! ## Sets stop, and the image is written (R100, R259) -/

/-- The RUNNING set of a stone whose SNAPSHOT is requested enters STOPPING at its tile boundary (R100). -/
def State.stopDue (s : State) (p : Nat) : State :=
  let x := s.stone p
  match x.loaded with
  | none => s
  | some i =>
    let c := x.set i
    if c.state = .running && x.atBoundary && !x.switching && s.snapOn c then s.putCtx p i { c with state := .stopping } else s

/-- A set that does not run stops at once (R100). -/
def State.stopIdle (s : State) (p i : Nat) : State :=
  let c := s.setCtx p i
  if (c.state = .waiting || c.state = .ready) && s.snapOn c then s.putCtx p i { c with state := .stopping } else s

/-- The body of an image and its header, VALID last; it stays 0 where a section's data are destroyed (R390), or where the reads
declare a stone of the instance lasting, which aborts the SNAPSHOT (R399). -/
def imageWork (a : Acc) (base f size : Nat) (run : PlanRun) (xs : List (Nat × Nat × Nat)) : Run Unit := do
  let parts ← xs.mapM (saveSet run)
  let body := parts.flatten
  let bad := (← get).device
  writeV a base (imageHead false xs.length f run size (crc32c body))
  writeV a (base + 64) body
  let s ← getS
  if xs.any (fun x => (s.unit 0 x.2.1).due) then halt .aborted
  if bad then halt .deviceError
  writeV a base (imageHead true xs.length f run size (crc32c body))

/-- The image of an instance is written, and both commands end (R259). -/
def State.writeImage (s : State) (f r : Nat) (c : Running) (sq : Nat) (seq : Word32) (run : PlanRun) : State :=
  let size := s.imageSize f sq seq
  let x := (imageWork (stoneAcc f 0) (c.desc.addr 0x18) f size run (s.sectionsOf f sq seq)).exec s
  let s := (x.2.s.setRunning f r (some { c with wait := .none })).stopPlan f sq .aborted none
  match x.1 with
  | .error e => s.stopped f r e
  | .ok _ => s.finish f r .ok (BitVec.ofNat 32 size)

/-- The image that the SNAPSHOT of a ring waits for is written once every set of its instance has stopped. -/
def State.imageDue (s : State) (f r : Nat) : State :=
  match s.running f r with
  | none => s
  | some c =>
    match c.wait with
    | .snapshot sq seq =>
      match s.running f sq with
      | none => s
      | some k =>
        match k.wait with
        | .plan run =>
          if (s.sectionsOf f sq seq).all (fun x => decide ((s.setCtx x.2.1 x.2.2).state = .stopping)) then
            s.writeImage f r c sq seq run
          else s
        | _ => s
    | _ => s

/-- The images of a function that are due. -/
def State.imagesOf (s : State) (f : Nat) : State := (List.range 16).foldl (fun s r => s.imageDue f r) s

/-- The RUNNING set of a stone stops if it must, and an image that waited for it is written. -/
def State.stopRunner (s : State) (p : Nat) : State :=
  match (s.stone p).loaded with
  | none => s
  | some i => (s.stopDue p).imagesOf (s.setCtx p i).f

end Sys2Proof.Machine
end

