-- ==== Sys2Proof/Machine/Binding.lean ====
section
/-! DEFINITION. RUN_PLAN binds every stage of a plan or none; sets leave BINDING (R88, R90, R91, R140, R192, R195, R398). -/
namespace Sys2Proof.Machine

/-! ## Windows, areas, groups and tables (R88, R90, R140) -/

/-- Sets of a stone that hold windows. -/
def Stone.bound (x : Stone) : List (Nat × SetCtx) := x.sets.filter (fun k => k.2.state != .empty)

/-- Offsets of a spout area in each half (R88). -/
def areaRange (a : Nat) : Nat × Nat := (halfBytes - (a + 1) * 131072, halfBytes - a * 131072)

/-- The lowest place, a multiple of `unit`, for `size` below `limit` that meets no busy range: the choice of log entry 29. -/
def firstFit (busy : List (Nat × Nat)) (size limit unit : Nat) : Option Nat :=
  if size = 0 then some 0
  else ((List.range (limit / unit + 1)).map (· * unit)).find? (fun o => o + size ≤ limit && busy.all (fun b => !meets (o, o + size) b))

/-- What a stone gives a set. -/
structure Place where
  set     : Nat
  binOff  : Nat
  accBase : Nat
  areas   : List Nat
  tables  : List Nat
  deriving DecidableEq, Repr

/-- Does a stage use a compensated group, whose slots start at an even word (R89)? -/
def StagePlan.compensated (x : StagePlan) : Bool :=
  x.phases.any (fun q => match q.body with
    | .loop t => t.layers.any (fun l => l.ringUsed.any (fun e => e.comp))
    | .vane _ => false)

/-- The place for a stage on a stone: the set named, or the lowest EMPTY one; none is refused with CAPACITY. R90 does not say which
offset, base slot and set a stone gives: the lowest that fit. DESIGN CHOICE, log entry 29. -/
def Stone.place (x : Stone) (sp : StagePlan) (want : Option Nat) : Option Place := do
  let bound := x.bound
  let set ← match want with
    | some i => some i
    | none => (List.range 4).find? (fun i => (x.set i).state == .empty)
  let held := bound.flatMap (fun k => k.2.areas)
  let areas := ((List.range 4).filter (fun a => !held.contains a)).take sp.spouts
  if areas.length < sp.spouts || areas.any (fun a => bound.any (fun k => meets (areaRange a) k.2.binRange)) then none
  let binOff ← firstFit (bound.map (fun k => k.2.binRange) ++ (held ++ areas).map areaRange) sp.bin halfBytes 65536
  let accBase ← firstFit ((bound.filter (fun k => k.2.plan.accSlots != 0)).map (fun k => k.2.accRange)) sp.accSlots 512
    (if sp.compensated then 2 else 1)
  if (bound.map (fun k => k.2.groups.length)).foldl (· + ·) 0 + sp.groups > 8 then none
  let busy := bound.flatMap (fun k => k.2.tables)
  let tables := ((List.range 8).filter (fun t => !busy.contains t)).take sp.tables
  if tables.length < sp.tables then none
  some { set := set, binOff := binOff, accBase := accBase, areas := areas, tables := tables }

/-- The context of a set as binding leaves it (R92, R96). -/
def Place.ctx (x : Place) (f r : Nat) (seq : Word32) (overshot : Bool) (stage rounds : Nat) (sp : StagePlan) (small : Bool) :
    SetCtx :=
  { state := .binding, f := f, r := r, seq := seq, overshot := overshot, stage := stage, plan := sp, rounds := rounds
    binOff := x.binOff, accBase := x.accBase, groups := List.replicate sp.groups {}, areas := x.areas, tables := x.tables
    flags := { ufl := small } }

/-- The stone with a set bound at a place, its tables loaded (R140); what binding writes whole has no stored error. -/
def Stone.bind (x : Stone) (pl : Place) (c : SetCtx) (tabs : List GovTable) : Stone :=
  let x := x.setSet pl.set c
  { x with tables := (pl.tables.zip tabs).foldl (fun t y => Table.put {} t y.1 y.2) x.tables
           ecc := Table.drop x.ecc (inCtx pl.set pl.tables) }

/-! ## Binding a plan (R192, R195) -/

/-- Who binds: function, ring, sequence number, class. A survey reads a plan for its check value alone, wherever its stones lie
(step 1 of R262). -/
structure Binder where
  f : Nat
  r : Nat
  seq : Word32
  overshot : Bool
  survey : Bool := false
  deriving DecidableEq, Repr

/-- The set that a stage receives: the lowest EMPTY one, one that an image names, or none, its work being over (R262). -/
inductive Want where | lowest | named (i : Nat) | over
  deriving DecidableEq, Repr

/-- Step 5 of R195: a set of the stone that carries the logical stone now (R397, R398). -/
def bindStage (b : Binder) (stage rounds : Nat) (sp : StagePlan) (tabs : List GovTable) (small : Bool) (want : Want) :
    Bind StageRef := do
  if want = .over then return {}
  let s ← (getS : Run State)
  match s.physOf sp.stone with
  | none => (halt .state : Run StageRef)
  | some p =>
    match (s.stone p).place sp (match want with | .named i => some i | _ => none) with
    | none => (halt .capacity : Run StageRef)
    | some pl =>
      (modS (fun s => s.modStone p (fun x => x.bind pl (pl.ctx b.f b.r b.seq b.overshot stage rounds sp small) tabs)) : Run Unit)
      return { stone := p, set := pl.set }

/-- Check and bind the stage records in order (R195); `want` names the sets of a RESTORE. -/
def bindStages (b : Binder) (rounds stages : Nat) (want : Nat → Want) :
    Nat → List (List Word64) → Bind (List (StagePlan × StageRef))
  | _, [] => pure []
  | n, ws :: rest => do
    let x ← checkRecord b.f b.survey stages ws
    let y ← checkLists b.f ws x
    let st ← bindStage b n rounds y.1 y.2.1 y.2.2 (want n)
    let more ← bindStages b rounds stages want (n + 1) rest
    return (y.1, st) :: more

/-- Bind a plan image: the run of a command, without PLAN_CHECK. -/
def bindPlan (b : Binder) (va : Nat) (want : Nat → Want) : Bind PlanRun := do
  let a := stoneAcc b.f 0
  let head ← fetchBytes a va 64
  let h := word64At head 0
  let n := fld h 8 0
  need (fld h 31 9 == 0 && 1 ≤ n && n ≤ 384 && fld h 63 32 != 0 && (head.drop 8).all (· == 0))
  let raw ← fetchBytes a (va + 64) (64 * n)
  let xs ← bindStages b (fld h 63 32) n want 0 ((List.range n).map (fun i => wordsOf (raw.drop (64 * i)) 8))
  need (crossOk (xs.map (·.1)))
  return { plan := BitVec.ofNat 48 va, rounds := fld h 63 32, stages := xs.map (·.2) }

/-- Run a binding: on a failure no set is bound. Its plan run carries PLAN_CHECK. -/
def State.tryBind (s : State) (m : Bind PlanRun) : Except Stop PlanRun × State :=
  let x := (m.run []).exec s
  match x.1 with
  | .error e => (.error e, { x.2.s with stones := s.stones })
  | .ok y => (.ok { y.1 with check := crc32c y.2 }, x.2.s)

/-- Who binds for the running command of a ring. -/
def State.binder (s : State) (f r : Nat) (c : Running) : Binder := { f := f, r := r, seq := c.seq, overshot := (s.sq f r).overshot }

/-- The effect of a RUN_PLAN. -/
def State.runPlan (s : State) (f r : Nat) (c : Running) : State :=
  let x := s.tryBind (bindPlan (s.binder f r c) (c.desc.addr 0x10) (fun _ => .lowest))
  match x.1 with
  | .error e => x.2.failRead f r e
  | .ok run => x.2.setRunning f r (some { c with wait := .plan run })

/-- RUN_PLAN (R195). -/
def execRunPlan (f : FnId) (r : RingIx) (s : State) : Out := .next (s.runCmd f r .runPlan (s.runPlan f r)).settle

/-! ## Leaving BINDING (R91, R96, R215) -/

/-- Zero a set's windows: both halves of its bin window and its accumulator slots (R91). -/
def Stone.zeroWindows (x : Stone) (c : SetCtx) : Stone :=
  let b := c.binRange
  let bins := [b.1, halfBytes + b.1]
  let n := c.plan.bin
  let bin := bins.foldl (fun m a => m.clear a n) x.bin
  let inAcc (a : Nat) : Bool := let w := a % 65536 / 128; c.accRange.1 ≤ w && w < c.accRange.2
  let acc := x.acc.filter (fun k => !inAcc k.1)
  let inBin (g : Nat) : Bool := bins.any (fun a => a ≤ g * 8 && g * 8 < a + n)
  { x with bin := bin, acc := acc, flushed := Table.drop x.flushed inAcc
           ecc := Table.drop x.ecc (fun g => if g < 2 ^ 20 then inBin g else decide (g < 2 ^ 21) && inAcc ((g - 2 ^ 20) * 8)) }

/-- A set takes its stage pawl, or joins its queue (R213, R215); the fabric drops what a fenced stone sends (R401). -/
def State.takeStagePawl (s : State) (p i : Nat) : State :=
  let c := s.setCtx p i
  if !c.plan.pawlEn then s
  else if !s.speaks p then s.staleWrite p
  else
    let n := c.plan.pawl
    let x := s.pawl n
    match x.holder with
    | none => (s.setPawl n { x with holder := some (.set p i), broken := false }).grantPawl (.set p i) x.broken
    | some _ => (s.setPawl n { x with queue := x.queue ++ [.set p i] }).modCtx p i (fun c => { c with pawl := .queued })

/-- A set's windows are zeroed and it leaves BINDING: its first fill is due (R198) and it takes its pawl. Where a SNAPSHOT of its
instance waits, it stops at once. -/
def State.bindingDone (s : State) (p i : Nat) : State :=
  let c := s.setCtx p i
  if c.state ≠ .binding then s
  else
    let s := s.modStone p (fun x => x.zeroWindows c)
    let o := s.nextOrder p
    let s := (o.2.modCtx p i (fun c => { c with state := .waiting, fillDue := o.1 })).takeStagePawl p i
    (s.stopIdle p i).imagesOf c.f

/-- BINDING_DONE (R91). -/
def execBindingDone (p : StoneP) (i : SetIx) (s : State) : Out := .next (s.bindingDone p i).settle

end Sys2Proof.Machine
end

