-- ==== Sys2Proof/Machine/Copy.lean ====
section
/-! DEFINITION. The copy engine: COPY, FILL and staged copies (R174 to R179, R371, R372). -/
namespace Sys2Proof.Machine

/-! ## Shapes (R371, R372, R176) -/

/-- A shape record: extents and signed strides of dimensions 0 to 3. -/
structure CopyShape where
  ext : List Nat
  src : List Int
  dst : List Int
  deriving DecidableEq, Repr

/-- A shape record from its ten words. -/
def copyShapeOf (ws : List Word64) : CopyShape :=
  let w (i : Nat) : Word64 := wordAt ws i
  { ext := [fld (w 0) 31 0, fld (w 0) 63 32, fld (w 1) 31 0, fld (w 1) 63 32]
    src := (List.range 4).map (fun d => signed 64 (w (2 + d)).toNat)
    dst := (List.range 4).map (fun d => signed 64 (w (6 + d)).toNat) }

/-- A packed format (R178). -/
def isPacked (bits : Nat) : Bool := bits == 4 || bits == 6

/-- Extent and stride of dimension `d`. -/
def CopyShape.n (x : CopyShape) (d : Nat) : Nat := x.ext.getD d 1
def strideAt (st : List Int) (d : Nat) : Int := st.getD d 0

/-- Bytes of an element, or of the packed row that stands for one (R176). -/
def CopyShape.unitBytes (x : CopyShape) (bits : Nat) : Nat := if isPacked bits then rowBytes bits (x.n 0) else bits / 8

/-- Is an operand nested (R176)? -/
def CopyShape.nested (x : CopyShape) (st : List Int) (bits : Nat) : Bool :=
  let dims := ((List.range 4).filter (fun d => x.n d > 1 && !(d == 0 && isPacked bits))).map
    (fun d => ((strideAt st d).natAbs, x.n d))
  let sorted := sortBy (fun a b => a.1 < b.1) dims
  (sorted.foldl (fun (ok, least) y => (ok && decide (y.1 ≥ least), y.2 * y.1)) (true, x.unitBytes bits)).1

/-- Strides an operand may have: below 2^47 in magnitude, none on a packed row, whole groups between 6-bit rows (R33,
R372). -/
def CopyShape.stridesOk (x : CopyShape) (st : List Int) (bits : Nat) : Bool :=
  st.all (fun v => decide (v.natAbs < 2 ^ 47)) && (!isPacked bits || strideAt st 0 == 0) &&
  (bits != 6 || [1, 2, 3].all (fun d => x.n d ≤ 1 || (strideAt st d) % 3 == 0))

/-- May a value be converted between two formats (R42, R178)? -/
def convertible (a b : BitVec 8) : Bool :=
  let ca := fwCode a
  let cb := fwCode b
  !(fwMx a) && !(fwMx b) && ca != 0xF && cb != 0xF &&
  !(ca == 0xE && (intFmt cb).isSome) && !(cb == 0xE && (intFmt ca).isSome)

/-- Elements that a shape has. -/
def CopyShape.count (x : CopyShape) : Nat := x.n 0 * x.n 1 * x.n 2 * x.n 3

/-! ## Walking -/

/-- Index tuples of a walk: dimensions outermost first, those in `desc` downwards. -/
def walkIx (size : Nat → Nat) (desc : Nat → Bool) : List Nat → List (List Nat)
  | [] => [[0, 0, 0, 0]]
  | d :: inner =>
    let l := List.range (size d)
    (if desc d then l.reverse else l).flatMap (fun i => (walkIx size desc inner).map (fun ix => ix.set d i))

/-- Address of the element, or of the packed row, that an index tuple names. -/
def elemAt (base : Nat) (st : List Int) (bits : Nat) (ix : List Nat) : Nat :=
  toTwos 48 ((base : Int) + ((List.range 4).map (fun d =>
    if d == 0 && isPacked bits then 0 else (ix.getD d 0 : Int) * strideAt st d)).foldl (· + ·) 0)

/-- Read the code of one element. -/
def readElemV (a : Acc) (base : Nat) (st : List Int) (bits : Nat) (ix : List Nat) : Run Nat := do
  let at_ := elemAt base st bits ix
  if isPacked bits then
    let j := ix.getD 0 0
    let bs ← readV a (at_ + packedOff bits j) (groupBytes bits)
    return leNat bs / 2 ^ (bits * (j % groupElems bits)) % 2 ^ bits
  else
    return leNat (← readV a at_ (bits / 8))

/-- What a copy engine works on. -/
structure CopyJob where
  a     : Acc
  shape : CopyShape
  src   : Nat
  dst   : Nat
  fs    : BitVec 8
  fd    : BitVec 8
  /-- Bytes that reach a TYPE 1 page. -/
  remote : Nat → Nat → List Byte → State → State

def CopyJob.bs (j : CopyJob) : Nat := storageBits (fwCode j.fs)
def CopyJob.bd (j : CopyJob) : Nat := storageBits (fwCode j.fd)

/-- Elements of dimension 0 written together: a packed group of the destination. -/
def CopyJob.group (j : CopyJob) : Nat := groupElems j.bd

/-- Units of a dimension. -/
def CopyJob.size (j : CopyJob) (d : Nat) : Nat := if d = 0 then ceilDiv (j.shape.n 0) j.group else j.shape.n d

/-- Elements of a unit, as index tuples. -/
def CopyJob.elems (j : CopyJob) (ix : List Nat) : List (List Nat) :=
  let first := ix.getD 0 0 * j.group
  (upFrom first (min j.group (j.shape.n 0 - first))).map (fun i => ix.set 0 i)

/-- Read the source codes of a unit. -/
def CopyJob.read (j : CopyJob) (ix : List Nat) : Run (List Nat) :=
  (j.elems ix).mapM (fun e => readElemV j.a j.src j.shape.src j.bs e)

/-- Convert one code and count it (R34 item 4, R74). -/
def convertCode (fs fd : BitVec 8) (code : Nat) (h : Hist) : FM (Nat × Hist) := do
  let v ← decodeElem (fwCode fs) code
  let b ← encodeElem fd v
  return (b, h.add v false (fwCode fd))

/-- Convert the codes of a unit, when the format words differ. -/
def CopyJob.convert (j : CopyJob) : List Nat → Hist → Run (List Nat × Hist)
  | [], h => pure ([], h)
  | c :: cs, h => do
    if j.fs = j.fd then return (c :: cs, h)
    let x ← withFlags (convertCode j.fs j.fd c h)
    let y ← j.convert cs x.2
    return (x.1 :: y.1, y.2)

/-- Write the codes of a unit; unused elements of its group are written as code 0 (R33). -/
def CopyJob.write (j : CopyJob) (ix : List Nat) (codes : List Nat) : Run Unit :=
  let at_ := elemAt j.dst j.shape.dst j.bd (ix.set 0 (ix.getD 0 0 * j.group))
  if isPacked j.bd then writeV j.a (at_ + ix.getD 0 0 * groupBytes j.bd) (packGroup j.bd codes) j.remote
  else writeV j.a at_ (natLe (j.bd / 8) (codes.headD 0)) j.remote

/-- Copy units one by one in the order of the walk; answers the histogram so far and what stopped the copy. -/
def CopyJob.direct (j : CopyJob) : List (List Nat) → Hist → Run (Hist × Option Stop)
  | [], h => pure (h, none)
  | ix :: rest, h => do
    let x ← tryCatch (do
      let y ← j.convert (← j.read ix) h
      j.write ix y.1
      return (y.2, none)) (fun e => return (h, some e))
    if x.2.isSome then return x
    j.direct rest x.1

/-- Write units whose source codes stand in the Pond. -/
def CopyJob.unload (j : CopyJob) : List (List Nat × List Nat) → Hist → Run (Hist × Option Stop)
  | [], h => pure (h, none)
  | (ix, codes) :: rest, h => do
    let x ← tryCatch (do
      let y ← j.convert codes h
      j.write ix y.1
      return (y.2, none)) (fun e => return (h, some e))
    if x.2.isSome then return x
    j.unload rest x.1

/-- A staged copy: the whole source first, then the destination (R177). -/
def CopyJob.staged (j : CopyJob) (units : List (List Nat)) (h : Hist) : Run (Hist × Option Stop) := do
  let x ← tryCatch (do return (← units.mapM j.read, none)) (fun e => return ([], some e))
  match x.2 with
  | some e => return (h, some e)
  | none => j.unload (units.zip x.1) h

/-! ## Overlap (R177) -/

/-- Lowest and highest byte of an operand. -/
def CopyShape.span (x : CopyShape) (base : Nat) (st : List Int) (bits : Nat) : Int × Int :=
  (List.range 4).foldl (fun (lo, hi) d =>
    if d == 0 && isPacked bits then (lo, hi)
    else
      let v := ((x.n d : Int) - 1) * strideAt st d
      if v < 0 then (lo + v, hi) else (lo, hi + v)) ((base : Int), (base : Int) + (x.unitBytes bits : Int) - 1)

/-- Do source and destination overlap? -/
def CopyJob.overlaps (j : CopyJob) : Bool :=
  let a := j.shape.span j.src j.shape.src j.bs
  let b := j.shape.span j.dst j.shape.dst j.bd
  decide (a.1 ≤ b.2 ∧ b.1 ≤ a.2)

/-- Is the copy monotone? -/
def CopyJob.monotone (j : CopyJob) : Bool :=
  j.shape.nested j.shape.src j.bs && j.shape.nested j.shape.dst j.bd && j.bs == j.bd && j.shape.src == j.shape.dst

/-- Does a monotone copy traverse dimension `d` downwards? A packed row follows the direction of the move. -/
def CopyJob.down (j : CopyJob) (d : Nat) : Bool :=
  let k : Int := if d = 0 ∧ isPacked j.bd then 1 else strideAt j.shape.dst d
  decide (k * ((j.dst : Int) - j.src) > 0)

/-- Dimensions of a monotone walk, outermost first: the largest stride outermost, so that no element is written before the
source element under it is read (R174). -/
def CopyJob.monoOrder (j : CopyJob) : List Nat :=
  let key (d : Nat) : Nat := if d = 0 ∧ isPacked j.bd then 0 else (strideAt j.shape.dst d).natAbs
  sortBy (fun a b => key a > key b) [3, 2, 1, 0]

/-- Units of a copy in the order in which it visits them. -/
def CopyJob.units (j : CopyJob) : List (List Nat) :=
  if j.overlaps && j.monotone then walkIx j.size j.down j.monoOrder else walkIx j.size (fun _ => false) [3, 2, 1, 0]

/-- Source bytes of a staged copy. -/
def CopyJob.sourceBytes (j : CopyJob) : Nat :=
  j.shape.n 1 * j.shape.n 2 * j.shape.n 3 * (if isPacked j.bs then rowBytes j.bs (j.shape.n 0) else j.shape.n 0 * (j.bs / 8))

/-- The staging limit of a house (R177). -/
def State.stageLimit (s : State) (h : Nat) : Nat := min (64 * mib) (s.cacheBytes h)

/-! ## The home house (R175) -/

/-- Where an address of a function leads, if its walk does not fault. -/
def State.leads (s : State) (a : Acc) (write : Bool) (va : Nat) : Option Phys :=
  match ((translate a write va).exec s).1 with
  | .ok x => some x.1
  | .error _ => none

/-- House of a local device address. -/
def Phys.house : Phys → Option Nat
  | .dev pa => (regionOf pa).map (fun x => x.2.1)
  | _ => none

/-- Home house of a copy: of its destination base, else of its source base, else the lowest of the partition; in Halves
the lower house of the partition. A destination page without WRITE still tells its house. -/
def State.copyHome (s : State) (f dst : Nat) (src : Option Nat) : Nat :=
  let a : Acc := { f := f, engine := 2, host := true, remote := true }
  let low := (housesOf s.shape (s.partOf f)).headD 0
  if s.shape = .halves then low
  else
    match (s.leads a false dst).bind Phys.house with
    | some h => h
    | none =>
      match src with
      | some v => ((s.leads a false v).bind Phys.house).getD low
      | none => low

/-! ## COPY -/

/-- The job of a COPY on a shape. -/
def State.copyJob (s : State) (f r : Nat) (c : Running) (x : CopyShape) : CopyJob :=
  let d := c.desc
  { a := { f := f, engine := 2, unit := s.copyHome f d.dst18 (some d.src10), host := true, remote := true }
    shape := x, src := d.src10, dst := d.dst18, fs := d.fmtSrc, fd := d.fmtDst
    remote := fun m pa bs t => t.queueBytes { kind := 1 } f r c.seq m pa bs }

/-- Does a copy reach a TYPE 1 page (R243)? -/
def CopyJob.reachesLink (j : CopyJob) (s : State) : Bool :=
  j.units.any (fun ix => match s.leads j.a true (elemAt j.dst j.shape.dst j.bd (ix.set 0 (ix.getD 0 0 * j.group))) with
    | some (.remote _ _) => true
    | _ => false)

/-- Status of a command whose data have moved: what stopped it, or what it met. -/
def endStatus (stop : Option Stop) (e : Eng) : Status :=
  match stop with
  | some x => worse x.status e.status
  | none => e.status

/-- Complete a command now, or when its last packet has been acknowledged, with its side records (R74, R234). -/
def State.finishAcked (s : State) (f r : Nat) (st : Status) (res : Word32) (recs : List (Nat × List Byte) := []) : State :=
  let s := s.sendAll
  match s.running f r with
  | none => s
  | some c =>
    if s.owedAcks f r c.seq = 0 then s.finishWith f r st res recs
    else
      let st' := match mergeEnd c.done st res with | some x => x.1 | none => st
      s.setRunning f r (some { c with wait := .acks st' recs, done := none })

/-- A side record of a fault (R354). -/
def faultRecs (e : Option FaultRec) : List (Nat × List Byte) :=
  match e with
  | some x => [(0x03, x.body)]
  | none => []

/-- The fault that a read of another module's memory takes before any packet goes (R161, R234): the first of some addresses whose
page no read may use. -/
def State.remoteRead (s : State) (a : Acc) (vas : List Nat) : Option Stop :=
  vas.findSome? (fun va => match ((translate a false va).exec s).1 with
    | .error e => if (e.report.map (·.cause)) = some 4 then some e else none
    | .ok _ => none)

/-- Addresses of the source elements of a copy. -/
def CopyJob.sources (j : CopyJob) : List Nat :=
  j.units.flatMap (fun ix => (j.elems ix).map (fun e =>
    elemAt j.src j.shape.src j.bs e + (if isPacked j.bs then packedOff j.bs (e.getD 0 0) else 0)))

/-- Move the data of a COPY and end it. -/
def State.runCopy (s : State) (f r : Nat) (j : CopyJob) (staged : Bool) : State :=
  let h : Hist := { format := j.fd }
  match if j.reachesLink s then s.remoteRead j.a j.sources else none with
  | some stop => s.stopped f r stop
  | none =>
    let x := (do meetBuf 0 j.a.unit; if staged then j.staged j.units h else j.direct j.units h : Run (Hist × Option Stop)).exec s
    let e := x.2
    match x.1 with
    | .error stop => e.s.stopped f r stop
    | .ok (h, stop) =>
      let st := endStatus stop e
      let recs := if j.fs ≠ j.fd ∧ !st.noHist then [(0x01, { h with flags := e.flags }.bytes)] else []
      (e.s.addFlags f r e.flags).finishAcked f r st 0 (recs ++ faultRecs (stop.bind (·.report)))

/-- Checks of a COPY's shape and formats (R371, R372, R176, R178). -/
def CopyJob.malformed (j : CopyJob) : Bool :=
  !(j.shape.stridesOk j.shape.src j.bs) || !(j.shape.stridesOk j.shape.dst j.bd) ||
  (j.fs != j.fd && !convertible j.fs j.fd) ||
  (j.shape.count != 0 && !(j.shape.nested j.shape.dst j.bd))

/-- Take the staging of a house (R177) and run a staged copy. -/
def State.stageCopy (s : State) (f r : Nat) (j : CopyJob) : State :=
  let h := j.a.unit
  let n := ceilDiv j.sourceBytes 65536
  let s := (s.setHouse h { s.house h with staged := n }).evalWeir (.copyStaging (houseIx h))
  (s.modRunning f r (fun c => { c with staged := some (h, n), wait := .none })).runCopy f r j true

/-- The effect of a COPY. -/
def State.copy (s : State) (f r : Nat) (c : Running) : State :=
  let x := (readWords (ringAcc f r) c.desc.shape 10).exec s
  let s := x.2.s
  match x.1 with
  | .error e => s.failRead f r e
  | .ok ws =>
    let j := s.copyJob f r c (copyShapeOf ws)
    if j.malformed then s.fail f r .malformed
    else if j.shape.count = 0 then s.finish f r .ok 0
    else if s.leat.state ≠ .run ∧ j.reachesLink s then s.fail f r .state
    else if j.overlaps && !j.monotone then
      if j.sourceBytes > s.stageLimit j.a.unit then s.finish f r .range 0
      else if (s.house j.a.unit).staged ≠ 0 then s.setRunning f r (some { c with wait := .staging j.a.unit ws })
      else s.stageCopy f r j
    else s.runCopy f r j false

/-- COPY (R174). A COPY with RING_EN set is an ALL_GATHER. -/
def execCopy (f : FnId) (r : RingIx) (s : State) : Out :=
  .next (s.runCmd f r .copy (fun c => if c.desc.ringEn then s else s.copy f r c)).settle

/-! ## Staged copies that wait (R177, R258) -/

/-- Does an Overshot copy of some ring wait for the staging of a house? -/
def State.overshotWaits (s : State) (h : Nat) : Bool :=
  s.fns.any (fun x => (List.range 16).any (fun r =>
    (s.sq x.1 r).overshot && (match s.running x.1 r with | some { wait := .staging k _, .. } => k == h | _ => false)))

/-- A waiting copy receives the free staging of its house, Overshot copies first. -/
def State.startStaged (s : State) (f r : Nat) : State :=
  match s.running f r with
  | some c =>
    match c.wait with
    | .staging h ws =>
      if (s.house h).staged ≠ 0 ∨ (s.overshotWaits h ∧ !(s.sq f r).overshot) then s
      else
        let j := s.copyJob f r c (copyShapeOf ws)
        s.stageCopy f r { j with a := { j.a with unit := h } }
    | _ => s
  | none => s

/-- STAGED_COPY_START (R177). -/
def execStagedCopyStart (f : FnId) (r : RingIx) (s : State) : Out := .next (s.startStaged f r).settle

/-! ## FILL (R179) -/

/-- The job of a FILL on a shape: every unit writes the value. -/
def State.fillJob (s : State) (f : Nat) (d : Desc) (x : CopyShape) : CopyJob :=
  { a := { f := f, engine := 2, unit := s.copyHome f d.dst18 none, host := true }
    shape := x, src := 0, dst := d.dst18, fs := d.fmtDst, fd := d.fmtDst, remote := fun _ _ _ t => t }

/-- Write the value to every element. -/
def CopyJob.fill (j : CopyJob) (value : Nat) : Run Unit :=
  j.units.forM (fun ix => j.write ix ((j.elems ix).map (fun _ => value)))

/-- Checks of a FILL's shape (R371, R372, R176). -/
def CopyJob.fillMalformed (j : CopyJob) : Bool :=
  !(j.shape.stridesOk j.shape.dst j.bd) || j.shape.src.any (· != 0) ||
  (j.shape.count != 0 && !(j.shape.nested j.shape.dst j.bd))

/-- The effect of a FILL. -/
def State.fill (s : State) (f r : Nat) (c : Running) : State :=
  let x := (readWords (ringAcc f r) c.desc.shape 10).exec s
  let s := x.2.s
  match x.1 with
  | .error e => s.failRead f r e
  | .ok ws =>
    let j := s.fillJob f c.desc (copyShapeOf ws)
    if j.fillMalformed then s.fail f r .malformed
    else if j.shape.count = 0 then s.finish f r .ok 0
    else
      let y := (do meetBuf 0 j.a.unit; j.fill (c.desc.op0 31 0) : Run Unit).exec s
      match y.1 with
      | .error e => y.2.s.stopped f r (e.met y.2)
      | .ok _ => y.2.s.finish f r (if y.2.device then .deviceError else .ok) 0

/-- FILL (R179). -/
def execFill (f : FnId) (r : RingIx) (s : State) : Out := .next (s.runCmd f r .fill (s.fill f r)).settle

end Sys2Proof.Machine
end

