-- ==== Sys2Proof/Machine/Combine.lean ====
section
/-! DEFINITION. Combine units: COMBINE, its tags, slots and chunks (R180 to R187). -/
namespace Sys2Proof.Machine

/-! ## Adding one chunk (R180, R181, R186) -/

/-- Bytes of an element of a COMBINE format: FP32 4, BF16 2. -/
def combineSize (fmt : BitVec 8) : Nat := if fmt = 1 then 4 else 2

/-- Add two elements: under R57 for FP32; for BF16 the exact sum rounded once. -/
def combineAdd (fmt : BitVec 8) (a b : Nat) : FM Nat := do
  if fmt = 1 then
    let w ← fpAdd (BitVec.ofNat 32 a) (BitVec.ofNat 32 b)
    return w.toNat
  let x ← decodeElem 3 a
  let y ← decodeElem 3 b
  let z := x.add y
  if z.isNan && !x.isNan && !y.isNan then setInv
  encodeElem 3 z

/-- Add two runs of elements. -/
def combineBytes (fmt : BitVec 8) (old new : List Byte) : FM (List Byte) := do
  let z := combineSize fmt
  let parts ← (List.range (new.length / z)).mapM (fun i => do
    let v ← combineAdd fmt (leNat ((old.drop (i * z)).take z)) (leNat ((new.drop (i * z)).take z))
    return natLe z v)
  return parts.flatten

/-- The access of a combine unit through the tables of a function. -/
def combineAcc (f h : Nat) : Acc := { f := f, engine := 3, unit := h }

/-- Bytes of chunk `q` of a partial. -/
def chunkBytes (len q : Nat) : Nat := min 1024 (len - q * 1024)

/-- Chunks of a partial. -/
def chunksOf (len : Nat) : Nat := ceilDiv len 1024

/-- Where a chunk of a destination lies, if its walk does not fault. -/
def State.chunkPlace (s : State) (fn dst q : Nat) : Option Nat :=
  match s.leads (combineAcc fn 0) false ((dst + q * 1024) % 2 ^ 48) with
  | some (.dev pa) => some pa
  | _ => none

/-- The device address of this module that a chunk's place names. -/
def ChunkPlace.pa : ChunkPlace → Option Nat
  | .here pa _ => some pa
  | .away _ _ => none

/-- Where a chunk of a destination may be written to, if its walk does not fault (R161, R183). -/
def State.writePlace (s : State) (fn va : Nat) : Option ChunkPlace :=
  match ((translate { combineAcc fn 0 with remote := true } true va).exec s).1 with
  | .ok (.dev pa, n) => some (.here pa n)
  | .ok (.remote m pa, _) => some (.away m pa)
  | _ => none

/-- The places of a destination's chunks, as the first COMBINE of a tag fixes them (R183). -/
def State.fixPlaces (s : State) (fn dst len : Nat) : List (Option ChunkPlace) :=
  (List.range (chunksOf len)).map (fun q => s.writePlace fn ((dst + q * 1024) % 2 ^ 48))

/-- Where chunk `q` of a tag's destination lies: as the first COMBINE fixed it, else, where its walk faulted then, as it lies now;
none where it still faults, which the chunk's addition finds (R183, R184). -/
def State.tagPlace (s : State) (x : CombineTag) (q : Nat) : Option Nat :=
  match x.places.getD q none with
  | some p => p.pa
  | none => s.chunkPlace x.fn x.dst.toNat q

/-- Home house of a chunk (R180): in Halves house 2p + (chunk mod 2), else the house holding it. -/
def State.chunkHome (s : State) (p q : Nat) (pa : Option Nat) : Nat :=
  if s.shape = .halves then 2 * p + q % 2
  else match pa.bind (fun x => (regionOf x).map (fun y => y.2.1)) with
    | some h => h
    | none => (housesOf s.shape p).headD 0

/-- Key of a chunk of a tag: its number, or its 1 KiB of device memory where a packet opened the tag. -/
def CombineTag.key (x : CombineTag) (q pa : Nat) : Nat := if x.byPlace then pa / 1024 else q

/-- The contributor of a tag with an index. -/
def CombineTag.by_ (x : CombineTag) (i : Nat) : Option Contributor := x.parts.find? (fun k => k.index == i)

/-! ## Slots (R182) -/

/-- Is a slot free for a class? 512 of the 4,096 slots serve Overshot commands only. -/
def State.slotFree (s : State) (h : Nat) (overshot : Bool) : Bool :=
  let x := s.house h
  x.slotsUsed < 4096 && (overshot || x.slotsUsed - x.slotsOver < 3584)

/-- Take or give back one slot. -/
def State.takeSlot (s : State) (h : Nat) (overshot : Bool) : State :=
  let x := s.house h
  (s.setHouse h { x with slotsUsed := x.slotsUsed + 1, slotsOver := x.slotsOver + b2n overshot }).evalWeir
    (.combineSlots (houseIx h))
def State.giveSlot (s : State) (h : Nat) (overshot : Bool) : State :=
  let x := s.house h
  (s.setHouse h { x with slotsUsed := x.slotsUsed - 1, slotsOver := x.slotsOver - b2n overshot }).evalWeir
    (.combineSlots (houseIx h))

/-! ## Contributors that end (R184, R185) -/

/-- Has a tag received everything that is to come: every contributor complete, or, where only packets have come, every
chunk seen so far? -/
def CombineTag.full (x : CombineTag) : Bool :=
  if x.len = 0 then x.held == [] && x.expected != [] && x.expected.all (fun e => e.2 == x.count)
  else x.finished.length == x.count

/-- Free a tag when nothing more is to come (R184). -/
def State.freeIfFull (s : State) (p t : Nat) : State := if (s.tag p t).full then s.setTag p t {} else s

/-- A contributor whose last chunk is added or sent completes, after the ACKs of the packets that it sent (R184, R234). -/
def State.endPartial (s : State) (k : Contributor) (n : Nat) : State :=
  match s.running k.f k.r with
  | some c => s.finishAcked k.f k.r c.flags.status (BitVec.ofNat 32 n)
  | none => s

/-- A chunk of contributor `i` has been added: it completes once every chunk of its partial has been (R184). -/
def State.chunkAdded (s : State) (p t i : Nat) (key : Nat) (fl : Flags) : State :=
  let x := s.tag p t
  let x := { x with
    expected := Table.put 0 x.expected key (if x.arrival then Table.get 0 x.expected key + 1 else i + 1)
    parts := x.parts.map (fun (k : Contributor) => if k.index = i then { k with added := k.added + 1 } else k) }
  match x.by_ i with
  | none => s.setTag p t x
  | some k =>
    let n := chunksOf x.len
    let ends := x.len != 0 && k.added == n
    let x := if ends then { x with finished := x.finished ++ [i] } else x
    let s := s.setTag p t x
    let s := if k.remote.isSome then s else
      let s := s.addFlags k.f k.r fl
      if ends then s.endPartial k n else s
    s.freeIfFull p t

/-- A chunk of contributor `i` has gone to another module (R161, R234): it counts as one of the chunks of its partial. -/
def State.chunkSent (s : State) (p t i : Nat) : State :=
  let x := s.tag p t
  let x := { x with parts := x.parts.map (fun (k : Contributor) => if k.index = i then { k with added := k.added + 1 } else k) }
  match x.by_ i with
  | none => s.setTag p t x
  | some k =>
    let n := chunksOf x.len
    let s := s.setTag p t (if k.added = n then { x with finished := x.finished ++ [i] } else x)
    (if k.added = n then s.endPartial k n else s).freeIfFull p t

/-- A contributor stops on what an access met: it ends by its own status, and the tag breaks (R184, R185). -/
def State.chunkFails (s : State) (p t i : Nat) (e : Stop) : State :=
  let x := s.tag p t
  match x.by_ i with
  | none => s
  | some k =>
    if k.remote.isSome then s.breakTag p t .broken none
    else
      match s.running k.f k.r with
      | none => s.breakTag p t .broken none
      | some c => ((s.dropAcks k.f k.r c.seq).stopped k.f k.r e).breakTag p t .broken (some (k.f, k.r))

/-- Acknowledge the packet that brought a chunk, once no chunk of it is held any more (R234). -/
def State.ackChunk (s : State) (p t : Nat) (packet : Option (Nat × Word32)) : State :=
  match packet with
  | none => s
  | some k =>
    if (s.tag p t).held.any (fun h => h.packet == packet) then s
    else s.pushPacket { kind := 4, dst := k.1, src := s.moduleId.toNat, seq := k.2 }

/-- The addition of one chunk at its destination: write where INIT says so, else add (R181, R186). `va` names the function and
address whose walk has to be made again; none means that the tag or a packet has fixed the device address. -/
def addChunk (x : CombineTag) (key i home pa : Nat) (noCache : Bool) (va : Option (Nat × Nat)) (data : List Byte) :
    Run Unit := do
  let first := x.init && (if x.arrival then Table.get 0 x.expected key == 0 else i == 0)
  match va with
  | some (fn, va) =>
    let a := combineAcc fn home
    if first then writeV a va data
    else
      let old ← readSV a va data.length
      writeV a va (← withFlags (combineBytes x.fmt old data))
  | none =>
    if first then modS (fun s => s.devStore noCache pa data)
    else
      let old ← readStruct (combineAcc 0 home) 0 pa data.length
      let v ← withFlags (combineBytes x.fmt old data)
      modS (fun s => s.devStore noCache pa v)

/-- The walk that an addition to chunk `q` of a tag has to make again: none where the first COMBINE or a packet has fixed the device
address (R183, R234). -/
def CombineTag.path (x : CombineTag) (q : Nat) : Option (Nat × Nat) :=
  match x.byPlace, x.places.getD q none with
  | false, none => some (x.fn, (x.dst.toNat + q * 1024) % 2 ^ 48)
  | _, _ => none

/-- Does the page of chunk `q` of a tag bypass the Pond cache? -/
def CombineTag.uncached (x : CombineTag) (q : Nat) : Bool :=
  match x.byPlace, x.places.getD q none with
  | false, some (.here _ n) => n
  | _, _ => false

/-- Flags of a chunk's addition go to the command whose partial was added (R180); those of a packet's chunk reach no command
of this module. -/
def State.addFlagsOf (s : State) (p t i : Nat) (fl : Flags) : State :=
  match (s.tag p t).by_ i with
  | some k => if k.remote.isSome then s else s.addFlags k.f k.r fl
  | none => s

/-- Add one chunk of contributor `i` and account for it. Answers whether the tag still stands. -/
def State.addOne (s : State) (p t q pa home i : Nat) (data : List Byte) : Bool × State :=
  let x := s.tag p t
  let key := x.key q pa
  let y := (addChunk x key i home pa (x.uncached q) (x.path q) data).exec s
  match y.1 with
  | .error e => (false, (y.2.s.addFlagsOf p t i y.2.flags).chunkFails p t i e)
  | .ok _ => (true, y.2.s.chunkAdded p t i key y.2.flags)

/-- Add a held chunk: an uncorrectable error of its slot stops its contributor (R185, R388 to R390). -/
def State.addHeld (s : State) (p t q pa home : Nat) (h : HeldChunk) : Bool × State :=
  let lost (s : State) : Bool × State := (false, s.chunkFails p t h.index { status := .deviceError })
  match h.ecc with
  | none => s.addOne p t q pa home h.index h.data
  | some .correctable => (s.event 4 h.house .corrected 0 {}).addOne p t q pa home h.index h.data
  | some .uncorrectable => lost (s.event 4 h.house .uncorrectable 0 {})
  | some .poisoned => lost s

/-- Held chunks whose turn has come are added one after another (R181). -/
def State.drainHeld (s : State) (p t q pa home : Nat) : Nat → State
  | 0 => s
  | n + 1 =>
    let x := s.tag p t
    let key := x.key q pa
    let e := Table.get 0 x.expected key
    match x.held.find? (fun h => h.chunk == key && h.index == e) with
    | none => s
    | some h =>
      let s := (s.setTag p t { x with held := x.held.filter (fun k => k != h) }).giveSlot h.house h.overshot
      let y := s.addHeld p t q pa home h
      let s := y.2.ackChunk p t h.packet
      if y.1 then s.drainHeld p t q pa home n else s

/-- A chunk of contributor `i` reaches its home unit: added, written or held (R181, R186); none while it needs a slot and
none is free (R182). `place` is where its destination lies; none where the walk to it faults, which its addition finds. -/
def State.arrive (s : State) (p t q : Nat) (place : Option Nat) (i : Nat) (overshot : Bool)
    (packet : Option (Nat × Word32)) (data : List Byte) : Option State :=
  let x := s.tag p t
  let pa := place.getD 0
  let key := x.key q pa
  let home := s.chunkHome p q place
  if !x.arrival && Table.get 0 x.expected key != i then
    if s.slotFree home overshot then
      some ((s.setTag p t { x with held := x.held ++ [{ chunk := key, index := i, house := home, overshot := overshot,
                                                        data := data, packet := packet }] }).takeSlot home overshot)
    else none
  else
    let y := s.addOne p t q pa home i data
    some (if y.1 && !x.arrival then y.2.drainHeld p t q pa home x.held.length else y.2)

/-! ## Tags (R183, R187) -/

/-- Open tags that a house's combine unit tracks: combine tags and the tags of ring collectives (R187, R238). -/
def State.openTags (s : State) (h : Nat) : Nat :=
  (s.tags.filter (fun c => c.2.houses.contains h)).length +
  (s.fns.map (fun x => ((List.range 16).filter (fun r => match s.running x.1 r with
    | some { wait := .collective k, .. } => k.house == h
    | _ => false)).length)).sum

/-- Houses whose units a COMBINE's chunks need. -/
def State.tagHouses (s : State) (f dst len : Nat) : List Nat :=
  ((List.range (chunksOf len)).map (fun q => s.chunkHome (s.partOf f) q (s.chunkPlace f dst q))).dedup

/-- The destination of a COMBINE as its tag keeps it: the physical address of its base, in this module or another; a base whose walk
faults is told apart by function and address. -/
def State.combineBase (s : State) (f dst : Nat) : Nat :=
  match s.chunkPlace f dst 0, s.writePlace f dst with
  | some pa, _ => pa
  | none, some (.away m pa) => 2 ^ 44 * (m + 1) + pa
  | none, _ => 2 ^ 60 + f * 2 ^ 48 + dst

/-- Does a COMBINE agree with an open tag (R183)? -/
def CombineTag.agrees (x : CombineTag) (d : Desc) (base : Nat) : Bool :=
  x.fmt.toNat == d.field 0x10 63 56 && x.count == d.count && x.arrival == d.arrival && x.init == d.init &&
  (x.len == 0 || (x.len == d.len && x.pa == base)) && (x.by_ d.index).isNone

/-- A COMBINE joins a tag as a contributor and starts to send its chunks. -/
def State.joinTag (s : State) (f r : Nat) (c : Running) (x : CombineTag) : State :=
  let d := c.desc
  let k : Contributor := { f := f, r := r, seq := c.seq, index := d.index }
  (s.setTag (s.partOf f) d.tag { x with parts := x.parts ++ [k] }).setRunning f r (some { c with wait := .combine 0 })

/-- A COMBINE arrives at its tag (R183, R185, R187): it waits where it needs a house that already tracks 256 tags. -/
def State.enterTag (s : State) (f r : Nat) (c : Running) : State :=
  let d := c.desc
  let p := s.partOf f
  let x := s.tag p d.tag
  let base := s.combineBase f d.dst10
  let hs := (s.tagHouses f d.dst10 d.len).filter (fun h => !x.houses.contains h)
  let fixed (x : CombineTag) : CombineTag :=
    { x with pa := base, fn := f, dst := BitVec.ofNat 48 d.dst10, len := d.len, places := s.fixPlaces f d.dst10 d.len,
             houses := x.houses ++ hs,
             finished := (x.parts.filter (fun k => k.added == chunksOf d.len)).map (·.index) }
  let room := !hs.any (fun h => s.openTags h ≥ 256)
  let wait := s.setRunning f r (some { c with wait := .tag })
  if x.count ≠ 0 then
    if x.broken then s.finish f r .broken (BitVec.ofNat 32 (chunksOf d.len))
    else if !x.agrees d base then s.fail f r .state
    else if x.len ≠ 0 then s.joinTag f r c x
    else if room then s.joinTag f r c (fixed x) else wait
  else if room then
    s.joinTag f r c (fixed { fmt := BitVec.ofNat 8 (d.field 0x10 63 56), count := d.count, arrival := d.arrival, init := d.init })
  else wait

/-! ## COMBINE to another module (R234) -/

/-- The packet that carries bytes of a contributor's partial (R233, R234). -/
def combinePart (d : Desc) : Packet :=
  { kind := 2, tag := BitVec.ofNat 16 d.tag, index := d.index, countM1 := d.count - 1,
    fmt := BitVec.ofNat 8 (d.field 0x10 63 56), init := d.init, op := b2n d.arrival }

/-- Read the partial and queue the COMBINE packets of a destination in TYPE 1 pages: at most 4,096 bytes, within one
page. A page of another type there is of a kind not allowed. -/
def sendPartial (f r : Nat) (c : Running) (h : Nat) : List (Nat × Nat × Nat) → Run Unit
  | [] => pure ()
  | x :: xs => do
    let d := c.desc
    let bs ← readSV (combineAcc f h) ((d.src18 + x.2.1) % 2 ^ 48) x.2.2
    let t ← translate { combineAcc f h with remote := true } true x.1
    match t.1 with
    | .remote m pa => modS (fun s => s.queueBytes (combinePart d) f r c.seq m pa bs)
    | _ => throw { report := some ((combineAcc f h).fault 4 x.1) }
    sendPartial f r c h xs

/-- Addresses of the chunks of a COMBINE's partial. -/
def partialChunks (d : Desc) : List Nat := (List.range (chunksOf d.len)).map (fun q => (d.src18 + q * 1024) % 2 ^ 48)

/-- The effect of a COMBINE whose destination lies in other modules. -/
def State.combineRemote (s : State) (f r : Nat) (c : Running) : State :=
  let d := c.desc
  let h := (housesOf s.shape (s.partOf f)).headD 0
  let res : Word32 := BitVec.ofNat 32 (chunksOf d.len)
  match s.remoteRead (combineAcc f h) (partialChunks d) with
  | some e => s.stopped f r e
  | none =>
    let x := (sendPartial f r c h (pieces d.dst10 d.len)).exec s
    match x.1 with
    | .error e => x.2.s.finishAcked f r e.status res (faultRecs e.report)
    | .ok _ => x.2.s.finishAcked f r .ok res

/-- Does some chunk of a COMBINE's destination lie in a TYPE 1 page, and does some in a TYPE 0 page? -/
def State.combineLeaves (s : State) (f : Nat) (d : Desc) : Bool × Bool :=
  let l := s.fixPlaces f d.dst10 d.len
  (l.any (fun p => match p with | some (.away _ _) => true | _ => false),
   l.any (fun p => match p with | some (.here _ _) => true | _ => false))

/-! ## COMBINE -/

/-- The effect of a COMBINE: it opens or joins its tag; its chunks follow one by one. One whose whole destination lies in other
modules is a tag of theirs alone. -/
def State.combine (s : State) (f r : Nat) (c : Running) : State :=
  let l := s.combineLeaves f c.desc
  if l.1 && s.leat.state != .run then s.fail f r .state
  else if l.1 && !l.2 then s.combineRemote f r c
  else
    match if l.1 then s.remoteRead (combineAcc f 0) (partialChunks c.desc) else none with
    | some e => s.stopped f r e
    | none => s.enterTag f r c

/-- COMBINE (R180). One with RING_EN set is a ring collective. -/
def execCombine (f : FnId) (r : RingIx) (s : State) : Out :=
  .next (s.runCmd f r .combine (fun c => if c.desc.ringEn then s else s.combine f r c)).settle

/-- The next chunk of a contributor's partial reaches its home unit (R181 to R184). Its destination is checked when the
chunk is added; a tag that a packet opened names its chunks by where they lie, so there the walk must end. -/
def State.chunkArrive (s : State) (f r : Nat) : State :=
  match s.running f r with
  | none => s
  | some c =>
    match c.wait with
    | .combine q =>
      let d := c.desc
      let p := s.partOf f
      let x := s.tag p d.tag
      if q ≥ chunksOf d.len then s
      else
        let away := match x.byPlace, x.places.getD q none with
          | false, some (.away m pa) => some (m, pa)
          | _, _ => none
        let place := s.tagPlace x q
        let home := s.chunkHome p q place
        let va := (x.dst.toNat + q * 1024) % 2 ^ 48
        let y := ((do
          let bs ← readSV (combineAcc f home) ((d.src18 + q * 1024) % 2 ^ 48) (chunkBytes d.len q)
          if x.byPlace && place.isNone then
            let _ ← translate (combineAcc x.fn home) true va
            throw { report := some ((combineAcc x.fn home).fault 4 va) }
          return bs : Run (List Byte))).exec s
        match y.1 with
        | .error e => y.2.s.chunkFails p d.tag d.index e
        | .ok bs =>
          let s := y.2.s.setRunning f r (some { c with wait := .combine (q + 1) })
          match away with
          | some k => (s.queueBytes (combinePart d) f r c.seq k.1 k.2 bs).chunkSent p d.tag d.index
          | none =>
            match s.arrive p d.tag q place d.index (s.sq f r).overshot none bs with
            | some t => t
            | none => s.setRunning f r (some c)
    | _ => s

/-- CHUNK_ARRIVE (R181). -/
def execChunkArrive (f : FnId) (r : RingIx) (s : State) : Out := .next (s.chunkArrive f r).settle

/-! ## Waiting for a tag (R187) -/

/-- A COMBINE that waits for an open tag tries again, now that one may have been freed. -/
def State.retryTag (s : State) (f r : Nat) (c : Running) : State := s.enterTag f r c

/-! ## Timeouts (R185) -/

/-- A tag has waited past the combine timeout with no addition: it breaks with TIMEOUT. -/
def State.combineExpiry (s : State) (p t : Nat) : State := s.breakTag p t .timeout none

/-- COMBINE_TIMEOUT_EXPIRY (R185). -/
def execCombineTimeoutExpiry (p : PartId) (tag : BitVec 16) (s : State) : Out := .next (s.combineExpiry p tag.toNat)

/-- A broken tag is freed after a further timeout with no arrival. -/
def State.freeBroken (s : State) (p t : Nat) : State := if (s.tag p t).broken then s.setTag p t {} else s

/-- TAG_FREE_TIMEOUT (R185). -/
def execTagFreeTimeout (p : PartId) (tag : BitVec 16) (s : State) : Out := .next (s.freeBroken p tag.toNat)

end Sys2Proof.Machine
end

