-- ==== Sys2Proof/Machine/Collective.lean ====
section
/-! DEFINITION. Ring collectives: ALL_REDUCE, REDUCE_SCATTER, ALL_GATHER (R235 to R238, R373). -/
namespace Sys2Proof.Machine

/-! ## Chunks (R235) -/

/-- Bytes of a full chunk: S of R235. -/
def Collective.size (k : Collective) : Nat := ceilDiv k.len (k.n * 1024) * 1024

/-- Bytes of chunk `c`. -/
def Collective.chunkLen (k : Collective) (c : Nat) : Nat := min k.size (k.len - c * k.size)

/-- Offset and length of the pieces of chunk `c`, at most 4,096 bytes each. -/
def Collective.chunkPieces (k : Collective) (c : Nat) : List (Nat × Nat) :=
  (List.range (ceilDiv (k.chunkLen c) 4096)).map (fun i =>
    (c * k.size + i * 4096, min 4096 (k.chunkLen c - i * 4096)))

/-- Has the member done all its part? -/
def Collective.ended (k : Collective) : Bool :=
  if k.kind = 1 then k.written == k.chunkLen k.pos && k.summed == k.len - k.chunkLen k.pos else k.written == k.len

/-- The access of a member's collective. -/
def Collective.acc (k : Collective) (f : Nat) : Acc := { f := f, engine := 6, unit := k.house, host := k.kind == 2 }

/-- Members of a ring of the running schedule (R227). -/
def State.ringMembers (s : State) (ring : Nat) : List Nat := s.leat.sched.rings.getD ring []

/-- Send a RING packet to the ring successor (R236). -/
def State.emitRing (s : State) (k : Collective) (op o : Nat) (bs : List Byte) : State :=
  (s.emit { kind := 3, dst := (s.ringMembers k.ring).getD ((k.pos + 1) % k.n) 0, tag := k.tag, addr := o, index := k.pos,
            countM1 := k.n - 1, fmt := k.fmt, op := op, ring := k.ring, payload := bs }).1

/-! ## A member's work -/

/-- Read a piece of the member's source. A member of an ALL_GATHER holds its own chunk only (R373). -/
def Collective.source (k : Collective) (f o n : Nat) : Run (List Byte) :=
  let base := if k.kind = 2 then o - k.pos * k.size else o
  readSV (k.acc f) ((k.src.toNat + base) % 2 ^ 48) n

/-- Write a whole chunk of the final result, given as pieces: every page is tried before the first byte changes, so that a fault
leaves the chunk as it was (R237). -/
def Collective.put (k : Collective) (f : Nat) (parts : List (Nat × List Byte)) : Run Unit := do
  parts.forM (fun x => (pieces ((k.dst.toNat + x.1) % 2 ^ 48) x.2.length).forM (fun y => do
    let _ ← translate (k.acc f) true y.1))
  parts.forM (fun x => writeV (k.acc f) ((k.dst.toNat + x.1) % 2 ^ 48) x.2)

/-- A piece of the final result is there: with the last piece of its chunk the chunk is written (R237). -/
def Collective.final (k : Collective) (f o : Nat) (bs : List Byte) : Run Collective := do
  let c := o / k.size
  let parts := k.parts ++ [(o, bs)]
  let mine := parts.filter (fun x => x.1 / k.size == c)
  if (mine.map (fun x => x.2.length)).sum < k.chunkLen c then return { k with parts := parts }
  k.put f mine
  return { k with parts := parts.filter (fun x => x.1 / k.size != c), written := k.written + k.chunkLen c }

/-- What a member does when it starts: an ALL_GATHER writes and sends its own chunk, a reduction sends its source of the chunk
whose sum starts here; a ring of one member writes its source. -/
def Collective.begin_ (k : Collective) (f : Nat) : List (Nat × Nat) → Run Collective
  | [] => pure k
  | x :: xs => do
    let bs ← k.source f x.1 x.2
    if k.kind = 2 then
      if k.n > 1 then modS (fun s => s.emitRing k 1 x.1 bs)
      (← k.final f x.1 bs).begin_ f xs
    else if k.n = 1 then
      (← k.final f x.1 bs).begin_ f xs
    else
      modS (fun s => s.emitRing k 0 x.1 bs)
      ({ k with summed := k.summed + x.2 }).begin_ f xs

/-- What a member does with a RING packet that agrees with its command (R236). -/
def Collective.take (k : Collective) (f : Nat) (p : Packet) : Run Collective := do
  let n := p.payload.length
  let c := p.addr / k.size
  if p.op = 0 then
    let own ← k.source f p.addr n
    let acc ← withFlags (combineBytes k.fmt p.payload own)
    if c = k.pos then
      if k.kind = 0 then modS (fun s => s.emitRing k 1 p.addr acc)
      k.final f p.addr acc
    else
      modS (fun s => s.emitRing k 0 p.addr acc)
      return { k with summed := k.summed + n }
  else
    if (k.pos + 1) % k.n ≠ c then modS (fun s => s.emitRing k 1 p.addr p.payload)
    k.final f p.addr p.payload

/-- RESULT of a collective: the chunks of a COMBINE's partial, 0 for a COPY. -/
def Collective.result (k : Collective) : Word32 := if k.kind = 2 then 0 else BitVec.ofNat 32 (chunksOf k.len)

/-- Every later packet of the tag is discarded (R238). -/
def State.deadTag (s : State) (t : BitVec 16) : State :=
  if s.leat.dead.contains t then s else { s with leat := { s.leat with dead := s.leat.dead ++ [t] } }

/-- Take the outcome of a member's work: it stops, ends, or waits for packets. -/
def Collective.collected (k : Collective) (f r : Nat) (x : Except Stop Collective × Eng) : State :=
  let t := (x.2.s).addFlags f r x.2.flags
  match x.1 with
  | .error e => (t.finishWith f r e.status k.result [] e.report).deadTag k.tag
  | .ok k' =>
    match t.running f r with
    | none => t
    | some c => if k'.ended then t.finish f r c.flags.status k.result else t.setRunning f r (some { c with wait := .collective k' })

/-! ## Starting -/

/-- The collective that a descriptor asks for. -/
def State.collectiveOf (s : State) (f : Nat) (d : Desc) : Collective :=
  let members := s.ringMembers d.ring
  let combine := opcodeOf d.opcode == some .combine
  let src := if combine then d.src18 else d.src10
  let dst := if combine then d.dst10 else d.dst18
  let house := match (s.leads { f := f, engine := 6, host := true } true dst).bind Phys.house with
    | some h => h
    | none => 0
  { kind := if combine then b2n d.scatter else 2, ring := d.ring, tag := BitVec.ofNat 16 d.tag, len := d.len,
    fmt := if combine then BitVec.ofNat 8 (d.field 0x10 63 56) else d.fmtSrc,
    src := BitVec.ofNat 48 src, dst := BitVec.ofNat 48 dst, house := house,
    pos := members.idxOf s.moduleId.toNat, n := members.length }

/-- The chunk that a member sends or keeps when it starts. -/
def Collective.first (k : Collective) : Nat := if k.kind = 2 then k.pos else (k.pos + k.n - 1) % k.n

/-- The effect of a ring collective (R235). A collective on a ring that the schedule does not give this module completes with
STATE, as link work does that cannot run. -/
def State.startCollective (s : State) (f r : Nat) (c : Running) : State :=
  let k := s.collectiveOf f c.desc
  if s.leat.state ≠ .run ∨ !(s.ringMembers k.ring).contains s.moduleId.toNat then s.fail f r .state
  else if s.openTags k.house ≥ 256 then s.setRunning f r (some { c with wait := .tag })
  else
    let s := { s with leat := { s.leat with dead := s.leat.dead.filter (fun t => t != k.tag) } }
    let s := s.setRunning f r (some { c with wait := .collective k })
    k.collected f r ((k.begin_ f (k.chunkPieces k.first)).exec s)

/-- ALL_GATHER (R373). -/
def execAllGather (f : FnId) (r : RingIx) (s : State) : Out :=
  .next (s.runCmd f r .copy (fun c => if c.desc.ringEn then s.startCollective f r c else s)).settle

/-- ALL_REDUCE (R236). -/
def execAllReduce (f : FnId) (r : RingIx) (s : State) : Out :=
  .next (s.runCmd f r .combine (fun c => if c.desc.ringEn && !c.desc.scatter then s.startCollective f r c else s)).settle

/-- REDUCE_SCATTER (R235). -/
def execReduceScatter (f : FnId) (r : RingIx) (s : State) : Out :=
  .next (s.runCmd f r .combine (fun c => if c.desc.ringEn && c.desc.scatter then s.startCollective f r c else s)).settle

/-! ## Tags granted, packets, timeouts -/

/-- A command that waits for an open tag proceeds (R187). -/
def State.tagGranted (s : State) (f r : Nat) : State :=
  match s.running f r with
  | some c =>
    if c.wait = .tag then (if c.desc.ringEn then s.startCollective f r c else s.retryTag f r c) else s
  | none => s

/-- COMBINE_TAG_GRANTED (R187). -/
def execCombineTagGranted (f : FnId) (r : RingIx) (s : State) : Out := .next (s.tagGranted f r).settle

/-- The member of this module that a tag names: function, ring and collective. -/
def State.memberOf (s : State) (t : BitVec 16) : Option (Nat × Nat × Collective) :=
  (s.fns.flatMap (fun x => (List.range 16).filterMap (fun r =>
    match s.running x.1 r with
    | some { wait := .collective k, .. } => if k.tag = t then some (x.1, r, k) else none
    | _ => none))).head?

/-- Does a RING packet agree with a member's command (R238)? A packet carries the tag, the format word and n; the header has no
field for L and the kind, which show in OP and in the pieces that L gives. -/
def Collective.agrees (k : Collective) (p : Packet) : Bool :=
  p.ring == k.ring && p.countM1 + 1 == k.n && p.fmt == k.fmt && p.payload != [] &&
  (p.op == 0 && k.kind != 2 || p.op == 1 && k.kind != 1) &&
  (k.chunkPieces (p.addr / k.size)).contains (p.addr, p.payload.length) &&
  (k.kind == 2 || p.payload.length % combineSize k.fmt == 0)

/-- A RING packet at its member; none while no command of the tag has started here and the tag is not dead. -/
def State.ringPacket (s : State) (p : Packet) : Option State :=
  match s.memberOf p.tag with
  | none => if s.leat.dead.contains p.tag then some s else none
  | some (f, r, k) =>
    if !k.agrees p then some ((s.finish f r .broken k.result).deadTag k.tag)
    else some (k.collected f r ((k.take f p).exec s))

/-- A member waited past the combine timeout with no packet (R238). -/
def State.ringExpiry (s : State) (f r : Nat) : State :=
  match s.running f r with
  | some c =>
    match c.wait with
    | .collective k => (s.finish f r .timeout k.result).deadTag k.tag
    | _ => s
  | none => s

/-- RING_TIMEOUT (R238). -/
def execRingTimeout (f : FnId) (r : RingIx) (s : State) : Out := .next (s.ringExpiry f r)

end Sys2Proof.Machine
end

