-- ==== Sys2Proof/Machine/Runner.lean ====
section
/-! DEFINITION. The runner: passes, freewheeling, set switches and scheduling windows (R47 to R55, R63, R80 to R83, R96 to R105,
R113, R125, R255, R256). -/
namespace Sys2Proof.Machine

/-! ## Operands of a pass (R49, R114, R119) -/

/-- A place where a set works: physical stone, set, half. -/
structure Site where
  p    : Nat
  i    : Nat
  half : Bool
  deriving DecidableEq, Repr

/-- The value of a runner operand from its code and scale (R16 to R27). -/
def operandValue (fmt : BitVec 8) (code : Nat) (scale : Option Byte) : FM Num :=
  if fwCode fmt = 1 then narrow (fwTrunc fmt) code
  else match scale with
    | some sc => decodeMx (fwCode fmt) code sc
    | none => decodeElem (fwCode fmt) code

/-- Read an operand element from the current half. -/
def Site.operand (x : Site) (fmt : BitVec 8) (e : Elem) : Run Num := do
  let code ← binElem x.p x.i x.half e
  let scale ← match e.scale with
    | some o => do
      let bs ← binRead x.p x.i x.half o 1
      pure (some (bs.headD 0))
    | none => pure none
  withFlags (operandValue fmt code scale)

/-- A padded element: PAD_VALUE in the operand's format (R119). -/
def padOperand (l : Layer) : FM Num := operandValue l.fmtA
  (if fwCode l.fmtA = 1 then (readConst l.padValue).toNat else ((encodeElem l.fmtA (fp32 l.padValue)).run {}).1) none

/-- A elements of tile row `r` at K positions `ks`, relative to the tile. -/
def Site.rowA (x : Site) (l : Layer) (b : Body) (buf : Nat) (ks : List Nat) (r : Nat) : Run (List Num) :=
  ks.mapM (fun k =>
    if l.conv then
      match convElem l b buf r k with
      | some e => x.operand l.fmtA e
      | none => withFlags (padOperand l)
    else x.operand l.fmtA (matElem l.fmtA l.a buf l.tm l.tk r k))

/-- B elements of tile column `c`. -/
def Site.colB (x : Site) (l : Layer) (buf : Nat) (ks : List Nat) (c : Nat) : Run (List Num) :=
  ks.mapM (fun k => x.operand l.fmtB (matElem l.fmtB l.b buf l.tn l.tk c k))

/-! ## Accumulator entries (R53 to R55, R63, R89, R93) -/

/-- The initial value of tile entry (m, n): +0, or its bias element (R53, R118). -/
def Site.initial (x : Site) (l : Layer) (buf m n : Nat) : Run Word32 := do
  if l.fmtBias = 0 then return 0
  let code ← binElem x.p x.i x.half (biasElem l buf m n)
  if l.isInt then
    let v ← withFlags (decodeElem (fwCode l.fmtBias) code)
    return BitVec.ofInt 32 v.int
  withFlags (readFp32 (fwCode l.fmtBias) code)

/-- What an entry holds: the entry and its carry; the initial value of a slot marked initial (R93), else through `rd`, a read of the
memory or the forwarding of R81. -/
def Site.entry (x : Site) (rd : Nat → Nat → Run Word32) (l : Layer) (g : Group) (slot abs m n : Nat) :
    Run (Word32 × Word32) := do
  if g.initial.contains slot then return (← x.initial l g.biasBuf m n, 0)
  let e ← rd x.p (accAddr abs (m % 32) (n % 32))
  if g.comp then return (e, ← rd x.p (accAddr (abs + 1) (m % 32) (n % 32)))
  return (e, 0)

/-- Enter the pass sum of one furrow (R51, R52, R54, R55, R63); `rd` gives what stage 5 takes (R81). -/
def Site.enter (x : Site) (rd : Nat → Nat → Run Word32) (l : Layer) (g : Group) (slot abs m n : Nat) (as bs : List Num) :
    Run Unit := do
  let old ← x.entry rd l g slot abs m n
  let a := accAddr abs (m % 32) (n % 32)
  if l.isInt then
    let w ← withFlags (accEnterInt old.1 (intPassSum (as.zip bs)))
    accWrite x.p a w false
  else
    let ps ← withFlags ((as.zip bs).mapM (fun y => product y.1 y.2))
    let t ← withFlags (passSum ps)
    if g.comp then
      let r ← withFlags (accEnterComp old.1 old.2 t)
      accWrite x.p a r.1 r.2.2
      accWrite x.p (accAddr (abs + 1) (m % 32) (n % 32)) r.2.1 false
    else
      let r ← withFlags (accEnter old.1 t)
      accWrite x.p a r.1 r.2

/-- One real pass (ms, ns, j) of a body into its group (R79, R80, R113). Entries of gated furrows are left alone (R105). -/
def Site.pass (x : Site) (c : SetCtx) (l : Layer) (b : Body) (g : Group) (rows cols : List Nat) : Run Unit := do
  let k := c.pos.layer
  let span := passSpan l b c.pos.j
  let ks := upFrom span.1 span.2
  let w := if g.comp then 2 else 1
  let slot := g.base + (c.pos.ms * l.subCols + c.pos.ns) * w
  let abs ← accSlot x.p x.i slot w
  let rd := if ((← getS).stone x.p).lastSlot = some abs then accForward else accRead
  let as ← rows.mapM (x.rowA l b (c.flip k 1).buf ks)
  let bs ← cols.mapM (x.colB l (c.flip k 2).buf ks)
  (rows.zip as).forM (fun ra => (cols.zip bs).forM (fun cb => x.enter rd l g slot abs ra.1 cb.1 ra.2 cb.2))
  modS (fun s => s.modStone x.p (fun y => y.entered abs w rows cols))

/-! ## Freewheeling (R103, R104) -/

/-- Stone clocks with a real pass ready until one issues: level and credit in 4,000ths (R103). Answers the clocks. -/
def rampUp : Nat → Stone → Stone × Nat
  | 0, x => (x, 0)
  | n + 1, x =>
    let level := min 4000 (x.level + 1)
    let credit := x.credit + level
    if credit ≥ 4000 then ({ x with level := level, credit := credit - 4000, gap := 0 }, 1)
    else let y := rampUp n { x with level := level, credit := credit, gap := 0 }; (y.1, y.2 + 1)

/-- Gap clocks until a dummy pass issues or the runner is idle at level 0; answers whether a pass issued, and the clocks. -/
def rampDown : Nat → Stone → Stone × Bool × Nat
  | 0, x => (x, false, 0)
  | n + 1, x =>
    let gap := x.gap + 1
    let level := if gap > 256 then x.level - 1 else x.level
    let credit := x.credit + level
    let y := { x with gap := gap, level := level, credit := credit }
    if credit ≥ 4000 then ({ y with credit := credit - 4000 }, true, 1)
    else if level = 0 then (y, false, 1)
    else let z := rampDown n y; (z.1, z.2.1, z.2.2 + 1)

/-- At most `n` gap clocks that issue no dummy pass (R103): the clocks of a gap that real work ends. -/
def gapClocks : Nat → Stone → Stone
  | 0, x => x
  | n + 1, x =>
    let gap := x.gap + 1
    let level := if gap > 256 then x.level - 1 else x.level
    let credit := x.credit + level
    if credit ≥ 4000 then x else gapClocks n { x with gap := gap, level := level, credit := credit }

/-- Stone clocks that count for the class of the RUNNING set (R255). -/
def Stone.spend (x : Stone) (n : Nat) : Stone :=
  match x.loaded with
  | some i => if (x.set i).state = .running && (x.set i).overshot then { x with overCount := x.overCount + n } else x
  | none => x

/-- A checker of a stone disagrees with the furrow it duplicates: one event (R83, R391). A pass in which several checkers
disagree counts one event: the manual does not say. DESIGN CHOICE, log entry 30. -/
def State.checkerMismatch (s : State) (p : Nat) : State :=
  if (Config.checkers p).val = 0 then s
  else s.event 0 p .mismatch 0 { unit := BitVec.ofNat 8 ((s.stone p).logical.getD 0x7F) }

/-! ## PASS_ISSUE (R80, R113, R125) -/

/-- Flags of a pass count for the tensor that the layer writes (R72, R75). -/
def SetCtx.tensorFlags (c : SetCtx) (layer : Nat) (fl : Flags) : SetCtx :=
  c.setHist layer { c.hist layer with flags := (c.hist layer).flags.or fl }

/-- Move to the next pass of the body; none at its end. -/
def LoopPos.nextPass (x : LoopPos) (sh : Nat × Nat × Nat) : Option LoopPos :=
  if x.j + 1 < sh.2.2 then some { x with j := x.j + 1 }
  else if x.ns + 1 < sh.2.1 then some { x with ns := x.ns + 1, j := 0 }
  else if x.ms + 1 < sh.1 then some { x with ms := x.ms + 1, ns := 0, j := 0 }
  else none

/-- The sequencer goes on after a pass: the next pass of the body, or its end, which is a tile boundary (R97). -/
def State.afterPass (s : State) (p i : Nat) (t : LoopTable) : State :=
  let c := s.setCtx p i
  let sh := bodyShape t (t.layer c.pos.layer) (t.body c.pos.layer c.pos.counts)
  match c.pos.nextPass sh with
  | some pos => s.putCtx p i { c with pos := pos }
  | none =>
    let o := s.nextOrder p
    ((o.2.putCtx p i (c.endBody t o.1)).modStone p (fun x => { x with atBoundary := true })).walkOn p

/-- The pass that the sequencer issues: a real one, or in a menu table a dummy one in place of an empty one (R125). A real pass in
which a checker disagrees fails its command (R391); the event has been counted. -/
def State.doPass (s : State) (p i : Nat) (t : LoopTable) (mismatch : Bool) : State :=
  let c := s.setCtx p i
  let k := c.pos.layer
  let l := t.layer k
  let b := t.body k c.pos.counts
  let rows := subRowsValid l b c.pos.ms
  let cols := subColsValid l b c.pos.ns
  if rows = [] || cols = [] || (passSpan l b c.pos.j).2 = 0 then s.afterPass p i t
  else
    let e := c.ringEntry t k
    let g := c.group e.group
    let x : Site := { p := p, i := i, half := c.half }
    let slot := g.base + (c.pos.ms * l.subCols + c.pos.ns) * e.w
    s.work p i (x.pass c l b g rows cols) (fun _ fl s =>
      let s := s.modCtx p i (fun c =>
        let g := c.group e.group
        (c.setGroup e.group { g with initial := g.initial.filter (fun n => n != slot) }).tensorFlags k fl)
      if mismatch && (Config.checkers p).val ≠ 0 then s.stopSet p i { status := .deviceError } else s.afterPass p i t)

/-- Stone clocks pass until the pass that is ready issues, and it issues. Before them lie gap clocks without a dummy pass, a free
number of them (R103; log entry 11). With no pass ready the event does not occur. A dummy pass that a menu table issues in place
of an empty one (R125) counts as a real pass for level, credit and gap: the manual does not say. DESIGN CHOICE, log entry 30. -/
def State.passIssue (s : State) (p : Nat) (mismatch : Bool) : State :=
  let s := s.walkOn p
  match (s.beginNext p).passReady p with
  | none => s
  | some (i, t) =>
    let n := Config.gapsBefore s.freeCount
    let s := (s.beginNext p).modStone p (fun x => let y := rampUp 4000 (gapClocks n x); y.1.spend y.2)
    let s := s.tick
    (if mismatch then s.checkerMismatch p else s).doPass p i t mismatch

/-- PASS_ISSUE (R80). -/
def execPassIssue (p : StoneP) (mismatch : Bool) (s : State) : Out := .next ((s.passIssue p mismatch).stopRunner p).settle

/-- Gap clocks up to a dummy pass (R103, R104): a clock with a real pass ready is no gap clock. The clocks of a switch count for the
incoming set when it ends (R99, R255). -/
def State.dummyPass (s : State) (p : Nat) (mismatch : Bool) : State :=
  let s := s.walkOn p
  if !s.clocked p || ((s.beginNext p).passReady p).isSome then s
  else
    let y := rampDown 8000 (s.stone p)
    let s := s.setStone p (if y.1.switching then y.1 else y.1.spend y.2.2)
    if y.2.1 && mismatch then s.checkerMismatch p else s

/-- DUMMY_PASS (R104). -/
def execDummyPass (p : StoneP) (mismatch : Bool) (s : State) : Out := .next (s.dummyPass p mismatch).settle

/-! ## Readiness and switches (R96 to R99) -/

/-- The state of a set that does not run: READY when its next tile's operands are present. `n` is its place in the order. -/
def SetCtx.rest (c : SetCtx) (n : Nat) : SetCtx :=
  if c.tileReady then { c with state := .ready, readyAt := n } else { c with state := .waiting }

/-- A WAITING set whose next tile is ready becomes READY (R96). A RUNNING set that waited at a boundary goes on (R97). -/
def State.nextTile (s : State) (p i : Nat) : State :=
  let c := s.setCtx p i
  if c.state = .waiting && c.tileReady then
    let o := s.nextOrder p
    o.2.modCtx p i (fun c => { c with state := .ready, readyAt := o.1 })
  else if c.state = .running then s.walkOn p
  else s

/-- TILE_READY (R96). -/
def execTileReady (p : StoneP) (i : SetIx) (s : State) : Out := .next (s.nextTile p i).settle

/-- Another set takes the runner (R97 to R99); a set whose SNAPSHOT is requested enters STOPPING (item 4 of R97, R100). -/
def State.switchSet (s : State) (p : Nat) : State :=
  let s := s.stopDue p
  let x := s.stone p
  match x.readySets with
  | [] => s
  | (j, _) :: _ =>
    let take (s : State) : State :=
      (s.modCtx p j (fun c => { c with state := .running })).modStone p (fun x =>
        { x with loaded := some j, switching := x.loaded != some j, atBoundary := false, expired := false })
    match x.loaded with
    | none => take s
    | some i =>
      let c := x.set i
      if c.state ≠ .running then take s
      else if x.atBoundary && !x.switching && x.mustSwitch c then
        let o := s.nextOrder p
        take (o.2.putCtx p i (c.rest o.1))
      else s

/-- SET_SWITCH (R97). -/
def execSetSwitch (p : StoneP) (s : State) : Out :=
  .next ((s.switchSet p).imagesOf ((s.stone p).loaded.elim 0 (fun i => (s.setCtx p i).f))).settle

/-- The 64 stone clocks of a switch end (R99). They count for the incoming set (R255), whose context the stone has read (R390). -/
def State.switchInDone (s : State) (p : Nat) : State :=
  let x := s.stone p
  let t := s.setStone p ({ x with switching := false }.spend 64)
  if !x.switching then s
  else match x.loaded with
    | some i => t.work p i (meetCtx p i) (fun _ _ s => s.walkOn p)
    | none => t.walkOn p

/-- SWITCH_IN_DONE (R99). -/
def execSwitchInDone (p : StoneP) (s : State) : Out := .next (s.switchInDone p).settle

/-! ## Scheduling windows and allotments (R255, R256) -/

/-- A scheduling window starts: the Overshot count is 0 again, and RESERVE of the partition takes effect. -/
def State.schedWindow (s : State) (p : Nat) : State :=
  if !s.clocked p then s
  else s.modStone p (fun x => { x with overCount := 0, reserve := (s.part (partOfHouse s.shape (p / 25))).reserve })

/-- SCHED_WINDOW (R255). -/
def execSchedWindow (p : StoneP) (s : State) : Out := .next (s.schedWindow p)

/-- The allotment of the RUNNING set ends (R256): it is used up while a set of the same or a higher rank is READY; or its
Overshot rank falls, because the stone clocks of Overshot class in this window have reached RESERVE × 1,024. -/
def State.allotmentEnds (s : State) (p : Nat) : State :=
  let x := s.stone p
  match x.loaded with
  | none => s
  | some i =>
    let c := x.set i
    if c.state ≠ .running then s
    else if x.readySets.any (fun k => x.high k.2 || !x.high c) then s.setStone p { x with expired := true }
    else if x.high c && x.reserve.toNat < 64 then
      s.setStone p { x with expired := true, overCount := x.reserve.toNat * 1024 }
    else s

/-- ALLOTMENT_EXPIRY (R256). -/
def execAllotmentExpiry (p : StoneP) (s : State) : Out := .next (s.allotmentEnds p)

end Sys2Proof.Machine
end

