-- ==== Sys2Proof/Machine/Readout.lean ====
section
/-! DEFINITION. Readout of accumulation groups by the vane, readout records, writes of stones, and the end of a phase (R56, R64,
R74, R75, R93, R95, R118, R131 to R133, R196, R201, R207, R208, R401). -/
namespace Sys2Proof.Machine

/-! ## Writes of a stone (R401) -/

/-- Logical stone of a physical stone, as fault records name it. -/
def State.stoneUnit (s : State) (p : Nat) : Nat := (s.stone p).logical.getD 0x7F

/-- Write device memory for a set; the writes of a fenced stone are dropped. -/
def stoneWrite (p f va : Nat) (bs : List Byte) : Run Unit := do
  let s ← getS
  if s.speaks p then writeV (stoneAcc f (s.stoneUnit p)) va bs else modS (fun s => s.staleWrite p)

/-- Read device memory for a set. -/
def stoneRead (p f va n : Nat) : Run (List Byte) := do
  let s ← getS
  readV (stoneAcc f (s.stoneUnit p)) va n

/-! ## Runs of a packed row (R32, R33) -/

/-- A run of elements of one packed row: place of the row, first element, length of the row, codes. -/
structure RowRun where
  row   : Nat
  j     : Nat
  len   : Nat
  codes : List Nat
  deriving DecidableEq, Repr

/-- First byte and bytes of the packed groups that a run of `n` elements from `j` touches. -/
def groupSpan (bits j n : Nat) : Nat × Nat :=
  let e := groupElems bits
  (packedOff bits j, ((j + n + e - 1) / e - j / e) * groupBytes bits)

/-- Codes of a run within the bytes of its groups. -/
def runCodes (bits j n : Nat) (bs : List Byte) : List Nat :=
  (List.range n).map (fun i => rowElem (fun o => bs.getD o 0) bits (j % groupElems bits + i))

/-- The bytes of a run's groups: elements of the row outside the run keep their codes, elements beyond the row are 0. -/
def RowRun.bytes (x : RowRun) (bits : Nat) (old : List Byte) : List Byte :=
  let e := groupElems bits
  let first := x.j / e * e
  let n := (groupSpan bits x.j x.codes.length).2 / groupBytes bits * e
  let keep := runCodes bits first n old
  packRow bits ((List.range n).map (fun i =>
    let a := first + i
    if a < x.j then keep.getD i 0
    else if a < x.j + x.codes.length then x.codes.getD (a - x.j) 0
    else if a < x.len then keep.getD i 0 else 0))

/-- Does a run fill its groups, so that nothing of them is kept? -/
def RowRun.whole (x : RowRun) (bits : Nat) : Bool :=
  let e := groupElems bits
  x.j % e == 0 && ((x.j + x.codes.length) % e == 0 || x.len ≤ x.j + x.codes.length)

/-- Write a run through `rd` and `wr`. -/
def putRun (rd : Nat → Nat → Run (List Byte)) (wr : Nat → List Byte → Run Unit) (bits : Nat) (x : RowRun) : Run Unit := do
  let g := groupSpan bits x.j x.codes.length
  let old ← if x.whole bits then pure [] else rd (x.row + g.1) g.2
  wr (x.row + g.1) (x.bytes bits old)

/-- Write a run to device memory for a set. -/
def memRun (p f bits : Nat) (x : RowRun) : Run Unit := do
  let s ← getS
  if s.speaks p then putRun (stoneRead p f) (stoneWrite p f) bits x else modS (fun s => s.staleWrite p)

/-- Write a run to the bin window of a set. -/
def Site.binRun (x : Site) (bits : Nat) (r : RowRun) : Run Unit := putRun (binRead x.p x.i x.half) (binWrite x.p x.i x.half) bits r

/-! ## Lane operations (R57, R133) -/

/-- A value on its way to a conversion, and whether the operation that last wrote it flushed it to zero (R75). -/
abbrev Mark := Num × Bool

/-- An FP32 lane value with the same mark. -/
abbrev Lane := Word32 × Bool

/-- One rounding of an exact value to a lane (R57). -/
def toLane (v : Num) : FM Lane := do
  let r ← toFp32 v
  return (r, v.isOrdinary && (fp32 r).isZero)

def laneMul (a b : Word32) : FM Lane := do
  let r ← fpMul a b
  return (r, ((fp32 a).mul (fp32 b)).isOrdinary && (fp32 r).isZero)

def laneAdd (a b : Word32) : FM Lane := do
  let r ← fpAdd a b
  return (r, ((fp32 a).add (fp32 b)).isOrdinary && (fp32 r).isZero)

def laneSub (a b : Word32) : FM Lane := do
  let r ← fpSub a b
  return (r, ((fp32 a).sub (fp32 b)).isOrdinary && (fp32 r).isZero)

def laneFma (a b c : Word32) : FM Lane := do
  let r ← fpFma a b c
  return (r, (((fp32 a).mul (fp32 b)).add (fp32 c)).isOrdinary && (fp32 r).isZero)

/-- The steps of a readout record on one value (R133). -/
def ReadoutRec.apply (r : ReadoutRec) (tables : List GovTable) (scale res : Word32) (v : Lane) : FM Lane := do
  let v ← if r.scaleMode = 0 then pure v else laneMul v.1 scale
  let v ← if r.resFmt ≠ 0 && !r.resAfter then laneAdd v.1 res else pure v
  let v ← if r.func ≠ 0 then governor tables r.func v.1 else pure v
  if r.resFmt ≠ 0 && r.resAfter then laneAdd v.1 res else pure v

/-- The source of an entry's direct conversion (R56, R64). -/
def entryValue (isInt comp : Bool) (e : Word32 × Word32) (mark : Bool) : Mark :=
  if isInt then (numOfInt e.1.toInt, false)
  else if comp then (compValue e.1 e.2, mark && (fp32 e.2).isZero)
  else (fp32 e.1, mark)

/-- An entry as one FP32 value (R56, R133). With `sum` a compensated entry is s + c rounded once also where c is ±0, as a record and
an MX-scaled destination take it; else R64 keeps s itself there. A sum of two zeros keeps the mark of s. -/
def entryLane (isInt comp sum : Bool) (e : Word32 × Word32) (mark : Bool) : FM Lane := do
  let wild := (fp32 e.1).isNan || (fp32 e.1).isInf
  if isInt then toLane (numOfInt e.1.toInt)
  else if comp && !wild && (sum || !(fp32 e.2).isZero) then
    let y ← toLane ((fp32 e.1).add (fp32 e.2))
    return (y.1, y.2 || (mark && (fp32 e.1).isZero && (fp32 e.2).isZero))
  else return (e.1, mark)

/-- Blend a window's element with the one stored (R208). -/
def blend (old : Word32) (overlap g : Nat) (v : Lane) : FM Lane := do
  let alpha := (toFp32 (.fin false (g + 1) (overlap + 1) 0)).run {} |>.1
  let d ← laneSub v.1 old
  let e ← laneMul d.1 alpha
  laneAdd old e.1

/-! ## What a readout knows -/

/-- A group on its way out. -/
structure Drain where
  x      : Site
  c      : SetCtx
  t      : LoopTable
  l      : Layer
  g      : Group
  b      : Body
  record : Option ReadoutRec
  tables : List GovTable
  /-- Number and frame overlap of a clip window that blends (R208). -/
  clip   : Option Nat

/-- The body whose span a group accumulated. -/
def LoopTable.bodyAt (t : LoopTable) (i : Nat) (o : Origin) : Body :=
  let x := haloOrigin (t.layers.drop (i + 1)) ((o.oy : Int), (o.ox : Int))
  { o := o, oy := x.1, ox := x.2 }

/-- Does a set write clip windows with the layer (R208)? -/
def SetCtx.clips (c : SetCtx) (t : LoopTable) (layer : Nat) : Bool :=
  c.plan.clipLen != 0 && c.phase + 1 == c.phaseCount && layer + 1 == t.layers.length

/-- The tables of a set's pool. -/
def Stone.tablesOf (x : Stone) (c : SetCtx) : List GovTable := c.tables.map (Table.get {} x.tables)

/-- The group `n` of set `i` as a drain. -/
def State.drain (s : State) (p i n : Nat) (t : LoopTable) : Drain :=
  let c := s.setCtx p i
  let g := c.group n
  let l := t.layer g.layer
  { x := { p := p, i := i, half := c.half }, c := c, t := t, l := l, g := g, b := t.bodyAt g.layer g.origin
    record := c.plan.record l.readout, tables := (s.stone p).tablesOf c
    clip := if c.clips t g.layer && 0 < c.round && g.origin.g < c.plan.overlap then some c.plan.overlap else none }

/-- Memory offset of a group's frame or instance (R118, R207, R208). -/
def Drain.frame (d : Drain) : Nat :=
  let t := d.c.round * (d.c.plan.clipLen - d.c.plan.overlap)
  (if d.c.clips d.t d.g.layer then t + d.g.origin.g else d.g.origin.g) * d.l.gPitch + d.c.roundAdd

/-- Row place, first element and row length of the run that starts at tile entry (r, n) (R118). -/
def Drain.place (d : Drain) (r n : Nat) : Nat × Nat × Nat :=
  let l := d.l
  let mem := l.outDest == 2
  let base := if mem then l.outBase + d.frame else l.outOff
  if l.conv then
    let y := r / l.tox
    let x := r % l.tox
    if mem then (base + (d.b.o.n + n) * l.outPlane + (d.b.oy + y).toNat * l.outRow, (d.b.ox + x).toNat, l.extOx)
    else (base + n * l.outPlane + y * l.outRow, x, min l.tox ((l.extOx : Int) - d.b.ox).toNat)
  else if mem then (base + (d.b.o.m + r) * l.outRow, d.b.o.n + n, l.extN)
  else (base + r * l.outRow, n, validCols l d.b)

/-- Place of the scale byte of tile row `r` and the block of column `n` (R118). -/
def Drain.scalePlace (d : Drain) (r n : Nat) : Nat :=
  let l := d.l
  if l.outDest = 2 then
    l.outScale + d.c.roundAdd + (d.g.origin.g * l.extM + d.b.o.m + r) * ceilDiv l.extN 32 + (d.b.o.n + n) / 32
  else l.outOff + l.tm * l.outRow + r * ceilDiv l.tn 32 + n / 32

/-- Accumulator slot of tile entry (r, n), relative to the set's window. -/
def Drain.slot (d : Drain) (r n : Nat) : Nat :=
  d.g.base + (r / 32 * d.l.subCols + n / 32) * (if d.g.comp then 2 else 1)

/-- An entry, and the mark of its last write. -/
def Drain.entry (d : Drain) (r n : Nat) : Run ((Word32 × Word32) × Bool) := do
  let slot := d.slot r n
  let abs ← accSlot d.x.p d.x.i slot (if d.g.comp then 2 else 1)
  let e ← d.x.entry accRead d.l d.g slot abs r n
  let mark := !(d.g.initial.contains slot) &&
    Table.get false ((← getS).stone d.x.p).flushed (accAddr abs (r % 32) (n % 32))
  return (e, mark)

/-- An FP32 word of the bin window. -/
def Site.word (x : Site) (off : Nat) : Run Word32 := do
  let bs ← binRead x.p x.i x.half off 4
  return BitVec.ofNat 32 (leNat bs)

/-- Scale of a column under a record. -/
def Site.scaleOf (x : Site) (r : ReadoutRec) (col : Nat) : Run Word32 :=
  if r.scaleMode = 0 then pure 0 else x.word (r.scaleBase + (if r.scaleMode = 1 then 4 * col else 0))

/-- Residual of tile entry (r, n) (R133). -/
def Drain.residual (d : Drain) (q : ReadoutRec) (r n : Nat) : Run Word32 := do
  if q.resFmt = 0 then return 0
  let bits := bitsOfFmt q.resFmt
  let e := if d.l.conv then elemOf (q.resBase + n * q.resPlane + r / d.l.tox * q.resRow) bits (r % d.l.tox)
           else elemOf (q.resBase + r * q.resRow) bits n
  let code ← binElem d.x.p d.x.i d.x.half e
  withFlags (readFp32 (fwCode q.resFmt) code)

/-- The value of tile entry (r, n) that the conversion takes; `old` is the code stored at its place where a window blends. For an
MX-scaled destination without a record, a compensated or INT32 entry is classified by the FP32 value that R56 forms of it, where
R75 names the sum or the INT32 value. DESIGN CHOICE, log entry 31. -/
def Drain.value (d : Drain) (r n : Nat) (old : Nat) : Run Mark := do
  let (e, mark) ← d.entry r n
  if d.record = none && d.clip = none && !(fwMx d.l.fmtOut) then return entryValue d.l.isInt d.g.comp e mark
  let v ← withFlags (entryLane d.l.isInt d.g.comp (d.record.isSome || fwMx d.l.fmtOut) e mark)
  let v ← match d.record with
    | none => pure v
    | some q => do
      let sc ← d.x.scaleOf q n
      let rs ← d.residual q r n
      withFlags (q.apply d.tables sc rs v)
  let v ← match d.clip with
    | none => pure v
    | some f => withFlags (do
        let o ← readFp32 (fwCode d.l.fmtOut) old
        blend o f d.g.origin.g v)
  return (fp32 v.1, v.2)

/-- Producer coordinates of tile entry (r, n) (R202). -/
def Drain.coord (d : Drain) (r n : Nat) : Origin :=
  if d.l.conv then
    { n := d.b.o.n + n, oy := (d.b.oy + (r / d.l.tox : Nat)).toNat, ox := (d.b.ox + (r % d.l.tox : Nat)).toNat, g := d.g.origin.g }
  else { m := d.b.o.m + r, n := d.b.o.n + n, g := d.g.origin.g }

/-! ## Slots -/

/-- What a readout adds: values that the histogram classifies, and a segment's elements and scales. -/
structure Yield where
  values : List Mark := []
  elems  : List SegElem := []
  scales : List (Nat × Nat × Byte) := []

def Yield.plus (a b : Yield) : Yield :=
  { values := a.values ++ b.values, elems := a.elems ++ b.elems, scales := a.scales ++ b.scales }

/-- Write a run where the layer's output goes. -/
def Drain.write (d : Drain) (x : RowRun) : Run Unit :=
  if d.l.outDest = 2 then memRun d.x.p d.c.f (bitsOfFmt d.l.fmtOut) x
  else if d.l.outDest = 0 then d.x.binRun (bitsOfFmt d.l.fmtOut) x
  else pure ()

/-- Codes stored where a blended run goes; none read where nothing blends. -/
def Drain.olds (d : Drain) (row j n : Nat) : Run (List Nat) := do
  if d.clip = none then return []
  let bits := bitsOfFmt d.l.fmtOut
  let g := groupSpan bits j n
  let bs ← stoneRead d.x.p d.c.f (row + g.1) g.2
  return runCodes bits j n bs

/-- Read out a run of tile entries that lie in one packed row. -/
def Drain.run (d : Drain) (entries : List (Nat × Nat)) : Run Yield := do
  match entries with
  | [] => return {}
  | (r, n) :: _ =>
    let (row, j, len) := d.place r n
    let olds ← d.olds row j entries.length
    let vs ← ((List.range entries.length).zip entries).mapM (fun e => d.value e.2.1 e.2.2 (olds.getD e.1 0))
    if fwMx d.l.fmtOut then
      let q ← withFlags (mxQuantise (fwCode d.l.fmtOut) (vs.map (·.1)))
      d.write { row := row, j := j, len := len, codes := q.2 ++ List.replicate (32 - q.2.length) 0 }
      if d.l.outDest = 2 then stoneWrite d.x.p d.c.f (d.scalePlace r n) [q.1]
      else if d.l.outDest = 0 then binWrite d.x.p d.x.i d.x.half (d.scalePlace r n) [q.1]
      let elems := (entries.zip q.2).map (fun e => { at_ := d.coord e.1.1 e.1.2, bits := BitVec.ofNat 32 e.2 : SegElem })
      return { values := vs, elems := elems, scales := [((d.coord r n).m, (d.coord r n).n / 32, q.1)] }
    else
      let codes ← vs.mapM (fun v => withFlags (encodeElem d.l.fmtOut v.1))
      d.write { row := row, j := j, len := len, codes := codes }
      let elems := (entries.zip codes).map (fun e => { at_ := d.coord e.1.1 e.1.2, bits := BitVec.ofNat 32 e.2 : SegElem })
      return { values := vs, elems := elems }

/-- The runs of slot (ms, ns) that are converted and written together: rows of a matrix product, pixel rows of each plane of a
convolution. -/
def Drain.runs (d : Drain) (ms ns : Nat) : List (List (Nat × Nat)) :=
  let rows := subRowsValid d.l d.b ms
  let cols := subColsValid d.l d.b ns
  if d.l.conv then
    cols.flatMap (fun n => ((rows.map (· / d.l.tox)).dedup).map (fun y => (rows.filter (fun r => r / d.l.tox == y)).map (fun r => (r, n))))
  else rows.map (fun r => cols.map (fun n => (r, n)))

/-- Slots of a group with a valid entry, in ascending slot order (R93). -/
def Drain.slots (d : Drain) : List (Nat × Nat) :=
  (List.range (ceilDiv (validRows d.l d.b) 32)).flatMap (fun ms =>
    (List.range (ceilDiv (validCols d.l d.b) 32)).map (fun ns => (ms, ns)))

/-- Elements of one slot in readout order: columns 0 to 7 of every row, then 8 to 15, 16 to 23 and 24 to 31 (R95). -/
def Drain.inOrder (d : Drain) (es : List SegElem) : List SegElem :=
  (List.range 4).flatMap (fun q => es.filter (fun e => (e.at_.n - d.b.o.n) % 32 / 8 == q))

/-- Read out one slot. -/
def Drain.slotOut (d : Drain) (x : Nat × Nat) : Run Yield := do
  let ys ← (d.runs x.1 x.2).mapM d.run
  let y := ys.foldl Yield.plus {}
  return { y with elems := d.inOrder y.elems }

/-- Read out a whole group. -/
def Drain.all (d : Drain) : Run Yield := do
  let ys ← d.slots.mapM d.slotOut
  return ys.foldl Yield.plus {}

/-- Bytes of the segment that a group forms. -/
def Drain.bytes (d : Drain) : Nat :=
  let bits := bitsOfFmt d.l.fmtOut
  let vn := validCols d.l d.b
  if d.l.conv then
    let vm := ((List.range d.l.tm).filter (rowValid d.l d.b))
    vn * (((vm.map (· / d.l.tox)).dedup).map (fun y => rowBytes bits (vm.filter (fun r => r / d.l.tox == y)).length)).sum
  else validRows d.l d.b * (rowBytes bits vn + (if fwMx d.l.fmtOut then ceilDiv vn 32 else 0))

/-! ## The end of a phase (R196, R207) -/

/-- A phase whose walk has ended and whose groups are all CLOSED ends: the set goes to the next phase or round. -/
def SetCtx.endPhase (c : SetCtx) : SetCtx :=
  if !c.started || c.working || c.groups.any (fun g => g.state != .closed) then c
  else if c.phase + 1 < c.phaseCount then { c with phase := c.phase + 1, started := false }
  else { c with phase := 0, started := false, round := c.round + 1, roundsDone := c.roundsDone + 1,
                finished := c.round + 1 == c.rounds }

def State.settlePhase (s : State) (p i : Nat) : State := s.modCtx p i SetCtx.endPhase

/-! ## Spout rings (R204) -/

/-- Bytes in a spout ring, and whether a segment of `n` bytes has room in its 256 KiB (R204). -/
def ringUsed (l : List Segment) : Nat := (l.map (·.bytes)).sum
def ringRoom (l : List Segment) (n : Nat) : Bool := ringUsed l + n ≤ 262144

/-- Add a segment to a spout ring. -/
def SetCtx.pushSegment (c : SetCtx) (n : Nat) (x : Segment) : SetCtx := c.setSpoutRing n (c.spoutRing n ++ [x])

/-- Values join the histogram of the tensor of a layer. -/
def SetCtx.count (c : SetCtx) (layer : Nat) (fmt : BitVec 8) (vs : List Mark) (fl : Flags) : SetCtx :=
  let h := vs.foldl (fun h v => h.add v.1 v.2 (fwCode fmt)) (c.hist layer)
  c.setHist layer { h with flags := h.flags.or fl }

/-! ## VANE_READOUT (R95, R131) -/

/-- DRAINING groups of a stone, the one that closed first before the others: set and group number. -/
def Stone.draining (x : Stone) : List (Nat × Nat) :=
  let all := x.sets.flatMap (fun k => ((List.range k.2.groups.length).zip k.2.groups).filterMap (fun (g : Nat × Group) =>
    if g.2.state = .draining then some (k.1, g.1, g.2.closed) else none))
  (sortBy (fun a b => a.2.2 < b.2.2) all).map (fun y => (y.1, y.2.1))

/-- Can a group be read out now: room in its ring, and memory that answers its reads? -/
def State.canDrain (s : State) (p i n : Nat) : Bool :=
  match (s.setCtx p i).table with
  | none => false
  | some t =>
    let d := s.drain p i n t
    (d.l.outDest != 1 || ringRoom (d.c.spoutRing d.l.spout) d.bytes) && (d.clip.isNone || s.speaks p)

/-- Read out the group that closed first, among those that can be. -/
def State.readout (s : State) (p : Nat) : State :=
  match (s.stone p).draining.find? (fun y => s.canDrain p y.1 y.2) with
  | none => s
  | some (i, n) =>
    match (s.setCtx p i).table with
    | none => s
    | some t =>
      let d := s.drain p i n t
      s.work p i (do meetTable p d.c d.record; d.all) (fun y fl s =>
        let s := s.modCtx p i (fun c =>
          let c := c.count d.g.layer d.l.fmtOut y.values fl
          let c := if d.l.outDest = 1 then
              c.pushSegment d.l.spout { elems := y.elems, scales := y.scales, bytes := d.bytes, conv := d.l.conv } else c
          c.setGroup n {})
        (s.settlePhase p i).walkOn p)

/-- VANE_READOUT (R95). -/
def execVaneReadout (p : StoneP) (s : State) : Out := .next (s.readout p).settle

end Sys2Proof.Machine
end

