-- ==== Sys2Proof/Machine/VaneOps.lean ====
section
/-! DEFINITION. Vane operations: DWCONV, CROP_RESIZE, SOFTMAX, STATS, NORM_APPLY, one unit at a time (R143 to R154). -/
namespace Sys2Proof.Machine

/-- A set at work on a vane operation. -/
structure VaneJob where
  x      : Site
  c      : SetCtx
  b      : VaneBlock
  stone  : Nat
  record : Option ReadoutRec
  tables : List GovTable

/-! ## Elements (R130) -/

/-- Bytes of a vane source element. -/
def elemBytes (w : BitVec 8) : Nat := bitsOfFmt w / 8

/-- A source element of the bin window as FP32. -/
def VaneJob.binWord (v : VaneJob) (fmt : BitVec 8) (off : Nat) : Run Word32 := do
  let bs ← binRead v.x.p v.x.i v.x.half off (elemBytes fmt)
  withFlags (readFp32 (fwCode fmt) (leNat bs))

/-- Bytes of the source at an offset from its base (R143, R207). -/
def VaneJob.src (v : VaneJob) (off n : Nat) : Run (List Byte) :=
  if v.b.inMem then readV (chuteAcc v.c.f v.stone) (v.b.inBase + v.c.roundAdd + off) n
  else binRead v.x.p v.x.i v.x.half (v.b.inBase % 2 ^ 22 + off) n

/-- A source element at an offset from the source's base, as FP32. -/
def VaneJob.elem (v : VaneJob) (off : Nat) : Run Word32 := do
  let bs ← v.src off (elemBytes v.b.fmtIn)
  withFlags (readFp32 (fwCode v.b.fmtIn) (leNat bs))

/-- `n` contiguous source elements. -/
def VaneJob.elems (v : VaneJob) (off n : Nat) : Run (List Word32) := do
  let w := elemBytes v.b.fmtIn
  let bs ← v.src off (w * n)
  (List.range n).mapM (fun i => withFlags (readFp32 (fwCode v.b.fmtIn) (leNat ((bs.drop (w * i)).take w))))

/-! ## Results -/

/-- Place of an output byte (R143, R207). -/
def VaneJob.outAt (v : VaneJob) (off : Nat) : Nat :=
  if v.b.outDest = 2 then v.b.outBase + v.c.roundAdd + off else v.b.outBase % 2 ^ 22 + off

/-- The readout record applied to a lane of column `col` (R133, R154). -/
def VaneJob.finish (v : VaneJob) (col : Nat) (y : Lane) : Run Lane := do
  match v.record with
  | none => return y
  | some q =>
    let sc ← v.x.scaleOf q col
    withFlags (q.apply v.tables sc 0 y)

/-- Write lanes that lie in one packed row, from element `j` of a row of `len`, with their coordinates. -/
def VaneJob.put (v : VaneJob) (row j len : Nat) (at_ : Nat → Origin) (ys : List Lane) : Run Yield := do
  let codes ← ys.mapM (fun y => withFlags (encodeElem v.b.fmtOut (fp32 y.1)))
  let bits := bitsOfFmt v.b.fmtOut
  let r : RowRun := { row := v.outAt row, j := j, len := len, codes := codes }
  if v.b.outDest = 2 then memRun v.x.p v.c.f bits r
  else if v.b.outDest = 0 then v.x.binRun bits r
  return { values := ys.map (fun y => (fp32 y.1, y.2))
           elems := ((List.range codes.length).zip codes).map (fun e => { at_ := at_ (j + e.1), bits := BitVec.ofNat 32 e.2 : SegElem }) }

/-! ## DWCONV (R145) -/

/-- One output pixel. -/
def VaneJob.pixel (v : VaneJob) (g n oy ox : Nat) : Run Lane := do
  let b := v.b
  let k := b.conv
  let cg := b.cIn / b.groups
  let first := n / (b.cOut / b.groups) * cg
  let init ← if b.biasEn then (do
      let w ← v.x.word (b.aux2Base + 4 * n)
      let y ← withFlags (readFp32 1 w.toNat)
      pure y) else pure (0 : Word32)
  (List.range (cg * k.kh * k.kw)).foldlM (fun (y : Lane) i => do
    let ch := i / (k.kh * k.kw)
    let ky := i / k.kw % k.kh
    let kx := i % k.kw
    let iy : Int := (oy * k.sy + ky * k.dy : Nat) - (k.padT : Int)
    let ix : Int := (ox * k.sx + kx * k.dx : Nat) - (k.padL : Int)
    let e ← if iy < 0 || iy ≥ b.ih || ix < 0 || ix ≥ b.iw then pure (readConst b.const)
      else v.elem (g * b.imgPitch + (first + ch) * k.aPlane + iy.toNat * b.inPitch + ix.toNat * elemBytes b.fmtIn)
    let w ← v.binWord b.fmtAux (b.auxBase + (n * cg * k.kh * k.kw + i) * elemBytes b.fmtAux)
    withFlags (laneFma e w y.1)) (init, false)

/-- Rows of a run of pixels, OX fastest: output row, first column, columns. -/
def pixelRows (ow first n : Nat) : List (Nat × Nat × Nat) :=
  if ow = 0 || n = 0 then []
  else (upFrom (first / ow) ((first + n - 1) / ow + 1 - first / ow)).map (fun y =>
    let lo := max first (y * ow)
    let hi := min (first + n) ((y + 1) * ow)
    (y, lo - y * ow, hi - lo))

/-- Instance, channel and pixels of unit `u`. -/
def VaneBlock.convUnit (b : VaneBlock) (u : Nat) : Nat × Nat × List (Nat × Nat × Nat) :=
  let nb := ceilDiv (b.oh * b.ow) 256
  (u / (b.cOut * nb), u / nb % b.cOut, pixelRows b.ow (u % nb * 256) (min 256 (b.oh * b.ow - u % nb * 256)))

def VaneJob.dwconv (v : VaneJob) (u : Nat) : Run Yield := do
  let b := v.b
  let (g, n, rows) := b.convUnit u
  let ys ← rows.mapM (fun r => do
    let ls ← (upFrom r.2.1 r.2.2).mapM (fun ox => do
      let y ← v.pixel g n r.1 ox
      v.finish n y)
    v.put (g * b.w48lo + n * b.w48hi + r.1 * b.outPitch) r.2.1 b.ow (fun ox => { n := n, oy := r.1, ox := ox, g := g }) ls)
  return ys.foldl Yield.plus {}

/-! ## CROP_RESIZE (R146, R147) -/

/-- Sample position `o` of `n` between two ends. -/
def samplePos (a b : Num) (o n : Nat) : FM Num := do
  let exact := if 1 < n then a.add (((b.sub a).mul (numOfInt o)).div (numOfInt (n - 1 : Nat))) else (a.add b).mul half
  let w ← toFp32 exact
  return fp32 w

/-- A corner: CONST outside the image. -/
def VaneJob.corner (v : VaneJob) (base : Nat) (y x : Int) : Run Num := do
  let b := v.b
  if y < 0 || y ≥ b.ih || x < 0 || x ≥ b.iw then return fp32 (readConst b.const)
  let w ← v.elem (base + y.toNat * b.inPitch + x.toNat * elemBytes b.fmtIn)
  return fp32 w

/-- One output sample from its position. -/
def VaneJob.sample (v : VaneJob) (base : Nat) (sy sx : Num) : Run Lane := do
  let one := numOfInt 1
  let y0 := sy.floor
  let x0 := sx.floor
  let fy := sy.sub (numOfInt y0)
  let fx := sx.sub (numOfInt x0)
  let corners : List (Int × Int × Num) :=
    [(0, 0, (one.sub fy).mul (one.sub fx)), (0, 1, (one.sub fy).mul fx), (1, 0, fy.mul (one.sub fx)), (1, 1, fy.mul fx)]
  let terms ← (corners.filter (fun c => !c.2.2.isZero)).mapM (fun c => do
    let e ← v.corner base (y0 + c.1) (x0 + c.2.1)
    pure (e, c.2.2.mul e))
  let sum := (terms.map (·.2)).foldl Num.add (.fin false 0 1 0)
  let w ← withFlags (fpRound (terms.map (·.1)) sum)
  return (w, sum.isOrdinary && (fp32 w).isZero)

def VaneJob.crop (v : VaneJob) (u : Nat) : Run Yield := do
  let b := v.b
  let raw ← binRead v.x.p v.x.i v.x.half (b.auxBase + 32 * u) 32
  let box := (List.range 4).map (fun i => word32At raw (4 * i))
  let image := (word32At raw 0x10).toNat * b.imgPitch
  if b.cIn ≠ 0 && b.ih ≠ 0 && b.iw ≠ 0 &&
     b.inBase % 2 ^ 22 + image + (b.cIn - 1) * b.conv.aPlane + (b.ih - 1) * b.inPitch + b.iw * elemBytes b.fmtIn > v.c.plan.bin then
    halt .access
  let wild := box.any (fun w => (fp32 w).isNan || (fp32 w).isInf)
  if wild then withFlags setInv
  let ends ← box.mapM (fun w => withFlags (ofFp32 w))
  let at_ (i : Nat) : Num := ends.getD i numZero
  let ys ← (List.range b.cIn).mapM (fun ch => do
    let rows ← (List.range b.oh).mapM (fun oy => do
      let ls ← (List.range b.ow).mapM (fun ox => do
        let y ← if wild then pure ((wNaN, false) : Lane) else do
          let sy ← withFlags (samplePos (at_ 0) (at_ 2) oy b.oh)
          let sx ← withFlags (samplePos (at_ 1) (at_ 3) ox b.ow)
          v.sample (image + ch * b.conv.aPlane) sy sx
        v.finish ch y)
      v.put (u * b.w48lo + ch * b.w48hi + oy * b.outPitch) 0 b.ow (fun ox => { n := ch, oy := oy, ox := ox, g := u }) ls)
    pure (rows.foldl Yield.plus {}))
  return ys.foldl Yield.plus {}

/-! ## SOFTMAX (R149, R150) -/

/-- One row, and its events. -/
def VaneJob.soft (v : VaneJob) (u : Nat) : Run (Yield × Nat × Bool) := do
  let b := v.b
  if b.rowLen = 0 then return ({}, 0, false)
  let row ← v.elems (u * b.inPitch) b.rowLen
  let r ← withFlags (softMaxRow row)
  let y ← v.put (u * b.outPitch) 0 b.rowLen (fun j => { m := u, n := j }) r.1
  return (y, r.2.1, r.2.2)

/-! ## STATS (R152, R153) -/

/-- Count, mean and sum of squares of a part of a domain. -/
structure Moments where
  n  : Nat := 0
  m  : Word32 := 0
  m2 : Word32 := 0
  deriving DecidableEq, Repr

/-- One element (welford of R152). -/
def Moments.add (a : Moments) (x : Word32) : FM Moments := do
  let n := a.n + 1
  let d ← fpSub x a.m
  let m ← fpRound [fp32 a.m, fp32 d] ((fp32 a.m).add ((fp32 d).div (numOfInt n)))
  let m2 ← fpRound [fp32 a.m2, fp32 d, fp32 x, fp32 m] ((fp32 a.m2).add ((fp32 d).mul ((fp32 x).sub (fp32 m))))
  return { n := n, m := m, m2 := m2 }

/-- Two parts, left and right (combine of R152). The rule does not say how many roundings m and m2 take: each assignment is exact
inside and rounded once. DESIGN CHOICE, log entry 31. -/
def Moments.merge (a b : Moments) : FM Moments := do
  if b.n = 0 then return a
  if a.n = 0 then return b
  let n := a.n + b.n
  let d ← fpSub b.m a.m
  let m ← fpRound [fp32 a.m, fp32 d] ((fp32 a.m).add (((fp32 d).mul (numOfInt b.n)).div (numOfInt n)))
  let sq := ((((fp32 d).mul (fp32 d)).mul (numOfInt a.n)).mul (numOfInt b.n)).div (numOfInt n)
  let m2 ← fpRound [fp32 a.m2, fp32 b.m2, fp32 d] (((fp32 a.m2).add (fp32 b.m2)).add sq)
  return { n := n, m := m, m2 := m2 }

/-- Neighbours of a level of the tree. -/
def mergePairs : List Moments → FM (List Moments)
  | a :: b :: l => do
    let c ← a.merge b
    let cs ← mergePairs l
    return c :: cs
  | l => pure l

/-- The tree over 2^k lanes. -/
def mergeTree : Nat → List Moments → FM Moments
  | 0, l => pure (l.headD {})
  | k + 1, l => do
    let l ← mergePairs l
    mergeTree k l

/-- Moments of a domain: over 256 lanes in ROW mode, in one lane in COLUMN mode. -/
def momentsOf (column : Bool) (xs : List Word32) : FM Moments := do
  if column then xs.foldlM Moments.add {}
  else
    let lanes ← (List.range 256).mapM (fun i =>
      (((List.range xs.length).zip xs).filterMap (fun y => if y.1 % 256 = i then some y.2 else none)).foldlM Moments.add {})
    mergeTree 8 lanes

/-- Mean, variance and RSTD of a domain. The Newton step is exact inside and rounded once, which the rule leaves open. DESIGN CHOICE,
log entry 31. -/
def statsOf (tables : List GovTable) (eps : Word32) (a : Moments) : FM (Word32 × Word32 × Word32) := do
  let var ← if a.n = 0 then pure 0 else fpRound [fp32 a.m2] ((fp32 a.m2).div (numOfInt a.n))
  let ve ← fpAdd var eps
  let r0 ← governor tables 0x07 ve
  let x := fp32 ve
  let r := fp32 r0.1
  let newton := (numOfInt 3).mul half |>.sub ((((half.mul x).mul r)).mul r)
  let rstd ← fpRound [x, r] (r.mul newton)
  return (a.m, var, rstd)

/-- Source elements of domain `r`. -/
def VaneJob.domain (v : VaneJob) (r : Nat) : Run (List Word32) :=
  if v.b.column then (List.range v.b.rowLen).mapM (fun p => v.elem (r * elemBytes v.b.fmtIn + p * v.b.inPitch))
  else v.elems (r * v.b.inPitch) v.b.rowLen

def VaneJob.stats (v : VaneJob) (u : Nat) : Run Yield := do
  let b := v.b
  let xs ← v.domain u
  let a ← withFlags (momentsOf b.column xs)
  let (mean, var, rstd) ← withFlags (statsOf v.tables (readConst b.const) a)
  let words := [mean, var, rstd, BitVec.ofNat 32 b.rowLen]
  let bs := words.flatMap (fun w => natLe 4 w.toNat)
  if b.outDest = 2 then stoneWrite v.x.p v.c.f (v.outAt (u * b.outPitch)) bs
  else if b.outDest = 0 then binWrite v.x.p v.x.i v.x.half (v.outAt (u * b.outPitch)) bs
  return { elems := ((List.range 4).zip words).map (fun w => { at_ := { m := u, n := w.1 }, bits := w.2 : SegElem }) }

/-! ## NORM_APPLY (R154) -/

/-- γ and β of element `j` or plane `p` of a domain; a divisor 0 leaves the pair open, and it is then a function of the block, domain
and element (R11). -/
def VaneJob.gammaBeta (v : VaneJob) (r j : Nat) : Run (Word32 × Word32) := do
  let b := v.b
  if b.fmtAux = 0 then return (0x3F80_0000, 0)
  if !b.column && b.w48lo = 0 then
    let k := [b.aux2Base, b.gbShare, b.w48hi, b.fmtAux.toNat]
    return (Config.openGamma k r j false, Config.openGamma k r j true)
  let i := if b.column then j else j / b.w48lo
  let w := elemBytes b.fmtAux
  let base := b.aux2Base + (if b.gbShare = 0 then 0 else r / b.gbShare) * b.w48hi + 2 * i * w
  let g ← v.binWord b.fmtAux base
  let h ← v.binWord b.fmtAux (base + w)
  return (g, h)

/-- One output: element `j` of domain `r`, in COLUMN mode plane `j`. -/
def VaneJob.norm1 (v : VaneJob) (r j : Nat) (x : Word32) : Run Lane := do
  let mean ← v.x.word (v.b.auxBase + 16 * r)
  let rstd ← v.x.word (v.b.auxBase + 16 * r + 8)
  let (g, h) ← v.gammaBeta r j
  let y ← withFlags (do
    let d ← fpSub x mean
    let z ← fpMul d rstd
    laneFma z g h)
  v.finish j y

/-- Row of the source layout, first element and elements of unit `u`. A unit of 256 outputs ends at the end of its row or plane row,
which R144 does not say. DESIGN CHOICE, log entry 31. -/
def VaneBlock.normUnit (b : VaneBlock) (u : Nat) : Nat × Nat × Nat :=
  let len := if b.column then b.rows else b.rowLen
  let nb := ceilDiv len 256
  (u / nb, u % nb * 256, min 256 (len - u % nb * 256))

def VaneJob.norm (v : VaneJob) (u : Nat) : Run Yield := do
  let b := v.b
  let (row, first, n) := b.normUnit u
  let xs ← v.elems (row * b.inPitch + first * elemBytes b.fmtIn) n
  let ys ← ((upFrom first n).zip xs).mapM (fun e => if b.column then v.norm1 e.1 row e.2 else v.norm1 row e.1 e.2)
  v.put (row * b.outPitch) first (if b.column then b.rows else b.rowLen) (fun j => { m := row, n := j }) ys

/-! ## VANE_OP_UNIT (R144) -/

/-- Bytes of the segment that unit `u` forms. -/
def VaneBlock.unitBytes (b : VaneBlock) (u : Nat) : Nat :=
  let bits := bitsOfFmt b.fmtOut
  match b.vop with
  | 1 => ((b.convUnit u).2.2.map (fun r => rowBytes bits r.2.2)).sum
  | 2 => b.cIn * b.oh * rowBytes bits b.ow
  | 3 => rowBytes bits b.rowLen
  | 4 => 16
  | _ => rowBytes bits (b.normUnit u).2.2

/-- Does a vane operation yield planes? -/
def VaneBlock.planar (b : VaneBlock) : Bool := b.isConv || b.isCrop

/-- Run unit `u`: what it yields, and the row events of SOFTMAX. -/
def VaneJob.unit (v : VaneJob) (u : Nat) : Run (Yield × Nat × Bool) :=
  match v.b.vop with
  | 3 => v.soft u
  | 1 => do return (← v.dwconv u, 0, false)
  | 2 => do return (← v.crop u, 0, false)
  | 4 => do return (← v.stats u, 0, false)
  | _ => do return (← v.norm u, 0, false)

/-- Row events of one row (R150). -/
def RowEvents.note (x : RowEvents) (row sat : Nat) (empty : Bool) : RowEvents :=
  { emptyRows := if empty then sat32 x.emptyRows 1 else x.emptyRows
    satInputs := sat32 x.satInputs sat
    firstEmpty := if empty && x.firstEmpty == 0xFFFF_FFFF then BitVec.ofNat 32 row else x.firstEmpty }

/-- The vane operation that the RUNNING set of a stone can go on with: no switch is due at the boundary where it stands (R97). -/
def State.vaneJob (s : State) (p : Nat) : Option (Nat × VaneJob) :=
  let x := s.stone p
  match x.loaded with
  | none => none
  | some i =>
    let c := x.set i
    match c.phaseRec.body with
    | .loop _ => none
    | .vane b =>
      if c.state = .running && !x.switching && c.tileReady && !(x.atBoundary && s.leaves p c) && (!b.inMem || s.speaks p) &&
         (b.outDest != 1 || ringRoom (c.spoutRing b.spout) (b.unitBytes c.unit)) then
        some (i, { x := { p := p, i := i, half := c.half }, c := c, b := b, stone := s.stoneUnit p
                   record := c.plan.record b.readout, tables := x.tablesOf c })
      else none

/-- What a set has after a unit of its vane operation. -/
def SetCtx.afterUnit (c : SetCtx) (b : VaneBlock) (y : Yield × Nat × Bool) (fl : Flags) : SetCtx :=
  let c := if b.isStats then c else c.count 0 b.fmtOut y.1.values fl
  let c := if b.isSoft then
      { c with rowEvents := Table.put {} c.rowEvents c.phase ((Table.get {} c.rowEvents c.phase).note c.unit y.2.1 y.2.2) } else c
  let c := if b.outDest = 1 then
      c.pushSegment b.spout { elems := y.1.elems, bytes := b.unitBytes c.unit, conv := b.planar } else c
  { c with unit := c.unit + 1 }

/-- One unit of the vane operation of the RUNNING set; its end is a tile boundary (R97). -/
def State.vaneUnit (s : State) (p : Nat) : State :=
  match s.vaneJob p with
  | none => s
  | some (i, v) =>
    let begin_ (c : SetCtx) : SetCtx :=
      if c.unit = 0 then c.phasePorts.foldl (fun d x => d.setPort x.1 { d.port x.1 with begun := (d.port x.1).begun + 1 }) c else c
    let s := s.modCtx p i begin_
    s.work p i (do meetTable p v.c v.record; v.unit v.c.unit) (fun y fl s =>
      ((s.modCtx p i (fun c => c.afterUnit v.b y fl)).modStone p (fun x => { x with atBoundary := true })).settlePhase p i)

/-- VANE_OP_UNIT (R144). -/
def execVaneOpUnit (p : StoneP) (s : State) : Out := .next ((s.vaneUnit p).stopRunner p).settle

end Sys2Proof.Machine
end

