-- ==== Sys2Proof/Machine/Stages.lean ====
section
/-! DEFINITION. Stage pipelines: chute fills, phase starts, segments, inlets, stage pawls, ends of stages and plans (R196 to R209,
R215). -/
namespace Sys2Proof.Machine

/-! ## Chute fills (R197 to R199) -/

/-- May a TRANSPOSE read its source here (R199): Pond scratchpad, or HBM through the Pond cache? -/
def transposable : Phys × Bool → Bool
  | (.dev pa, noCache) =>
    (match regionOf pa with
     | some (.pond, _, _) => true
     | some (.hbm, _, _) => !noCache
     | _ => false)
  | _ => false

/-- Read a row of a fill or inlet. -/
def chuteRead (a : Acc) (transposed : Bool) (va n : Nat) : Run (List Byte) := do
  let parts ← (pieces va n).mapM (fun x => do
    if transposed then
      let t ← translate a false x.1
      if !transposable t then halt .access
    readPiece a x)
  return parts.flatten

/-- The rows that a matrix delivers: itself, or its transpose in elements of `e` bytes (R197). -/
def deliver (transposed : Bool) (e : Nat) (rowBytes : Nat) (rows : List (List Byte)) : List (List Byte) :=
  if transposed then (List.range (rowBytes / e)).map (fun c => rows.flatMap (fun r => (r.drop (c * e)).take e)) else rows

/-- One fill record into a half of a set's window. -/
def FillRec.fetch (x : FillRec) (a : Acc) (p i : Nat) (half : Bool) : Run Unit := do
  let rows ← (List.range x.rows).mapM (fun r => chuteRead a x.transpose (x.src + r * x.srcPitch) x.rowBytes)
  let out := deliver x.transpose x.esize x.rowBytes rows
  ((List.range out.length).zip out).forM (fun y => binWrite p i half (x.dst + y.1 * x.dstPitch) y.2)

/-- The phase that the chute fills next: the present one until it starts, then its successor (R198). -/
def SetCtx.fillPhase (c : SetCtx) : Nat :=
  if !c.started then c.phase else if c.phase + 1 < c.phaseCount then c.phase + 1 else 0

/-- Is a set's fill the first in the order of its chute (R198)? -/
def Stone.fillsFirst (x : Stone) (c : SetCtx) : Bool :=
  c.fillDue != 0 && x.sets.all (fun k => k.2.fillDue == 0 || c.fillDue ≤ k.2.fillDue)

/-- The fill that is due ends: the inactive half holds the phase's data. -/
def State.chuteFill (s : State) (p i : Nat) : State :=
  let c := s.setCtx p i
  if s.speaks p && (s.stone p).fillsFirst c then
    s.work p i ((c.plan.phase c.fillPhase).fills.forM (fun x => x.fetch (chuteAcc c.f (s.stoneUnit p)) p i (!c.half)))
      (fun _ _ s => s.modCtx p i (fun c => { c with filled := true, fillDue := 0 }))
  else s

/-- CHUTE_FILL_DONE (R198). -/
def execChuteFillDone (p : StoneP) (i : SetIx) (s : State) : Out := .next (s.chuteFill p i).settle

/-! ## Phase starts (R115, R196, R198) -/

/-- Tensors that a phase writes through a conversion (R74): one for each layer, none for STATS. -/
def PhaseBody.tensors : PhaseBody → Nat
  | .loop t => t.layers.length
  | .vane b => if b.isStats then 0 else 1

/-- Formats of a phase's tensors, and the stage that their records name (R77, R107). -/
def PhaseBody.formats : PhaseBody → List (BitVec 8)
  | .loop t => t.layers.map (·.fmtOut)
  | .vane b => if b.isStats then [] else [b.fmtOut]
def PhaseBody.stageName (b : PhaseBody) (n : Nat) : BitVec 16 :=
  match b with | .loop t => t.stage | .vane _ => BitVec.ofNat 16 n

/-- The histogram records of the present phase are open. -/
def SetCtx.openHists (c : SetCtx) : SetCtx :=
  let b := c.phaseRec.body
  let first := ((c.plan.phases.take c.phase).map (fun q => q.body.tensors)).sum
  ((List.range b.formats.length).zip b.formats).foldl (fun c x =>
    if c.hist x.1 = {} then c.setHist x.1 { tensor := first + x.1, format := x.2, stage := b.stageName c.stage } else c) c

/-- May the present phase of a set start? -/
def SetCtx.canStart (c : SetCtx) : Bool :=
  (c.state == .waiting || c.state == .ready || c.state == .running) && !c.started && !c.finished && c.pawl != .queued &&
  (c.filled || (c.phaseCount == 1 && 0 < c.round))

/-- The phase starts: halves are exchanged (R196), the walk is at its start, later runs flip their buffers (R115). -/
def SetCtx.start (c : SetCtx) : SetCtx :=
  let c := { c with
    half := if c.phaseCount ≠ 1 || c.round = 0 then !c.half else c.half
    started := true, filled := false, unit := 0
    pos := { ringAt := (match c.phaseRec.body with | .loop t => List.replicate t.layers.length 0 | .vane _ => []) }
    flips := c.flips.map (fun (k : Nat × Flip) => if k.1 / 64 = c.phase then (k.1, { k.2 with force := true }) else k) }
  c.openHists

/-- Is there a phase after the present one? -/
def SetCtx.hasNext (c : SetCtx) : Bool := c.phase + 1 < c.phaseCount || c.round + 1 < c.rounds

/-- Start a phase; the fill of the next one is due. -/
def State.phaseStart (s : State) (p i : Nat) : State :=
  let c := s.setCtx p i
  if !c.canStart then s
  else
    let s := s.putCtx p i c.start
    let s := if c.phaseCount ≠ 1 && c.hasNext then
        let o := s.nextOrder p
        o.2.modCtx p i (fun c => { c with fillDue := o.1 })
      else s
    (s.settlePhase p i).walkOn p

/-- PHASE_START (R196). -/
def execPhaseStart (p : StoneP) (i : SetIx) (s : State) : Out := .next (s.phaseStart p i).settle

/-! ## Where streamed data land (R202, R205) -/

/-- The fill in progress of a port: its round, half, buffer, layer, and the body that reads it first. -/
structure Landing where
  half  : Bool
  buf   : Nat
  l     : Layer
  b     : Body
  op    : Nat
  body  : PhaseBody
  record : ReadoutRec

/-- The landing of the fill in progress of port `n`. -/
def SetCtx.landing (c : SetCtx) (n : Nat) (pt : PortRec) : Landing :=
  let k := (c.port n).fills
  let per := c.plan.portFills pt
  let body := (c.plan.phase pt.phase).body
  let half := c.halfOf (k / per) pt.phase
  let buf := k % c.portBuffers pt
  match body with
  | .vane _ => { half := half, buf := 0, l := {}, b := { o := {}, oy := 0, ox := 0 }, op := pt.operand, body := body, record := {} }
  | .loop t =>
    let layer := c.portLayer t pt.operand
    let l := t.layer layer
    { half := half, buf := buf, l := l, b := t.body layer (t.fillCounts l pt.operand (k % per)), op := pt.operand, body := body
      record := (c.plan.resLayer t).elim {} (fun x => x.2.2) }

/-- A place relative to a fill: none below its start or beyond its end. -/
def within (x o : Int) (n : Nat) : Option Nat := if o ≤ x && x < o + n then some (x - o).toNat else none

/-- Where a matrix element at consumer row and K position lands. -/
def matLand (fmt : BitVec 8) (buf : Buf) (n rows tk : Nat) (r k : Option Nat) : Option Elem :=
  match r, k with
  | some r, some k => some (matElem fmt buf n rows tk r k)
  | _, _ => none

/-- Where a producer's element lands in a loop table's operand (R202); none outside the fill. -/
def Landing.loopElem (x : Landing) (e : Origin) : Option Elem :=
  let l := x.l
  let o := x.b.o
  if e.g ≠ o.g then none
  else match x.op with
    | 1 =>
      if l.conv then
        let kk := l.kh * l.kw
        match within e.n (o.k / kk : Nat) (l.tk / kk), within e.oy (x.b.oy * l.sy - l.padT) l.ihT,
              within e.ox (x.b.ox * l.sx - l.padL) l.iwT with
        | some c, some y, some z => some (elemOf (l.a.at_ x.buf + c * l.aPlane + y * l.a.pitch) (bitsOfFmt l.fmtA) z)
        | _, _, _ => none
      else matLand l.fmtA l.a x.buf l.tm l.tk (within e.m o.m l.tm) (within e.n o.k l.tk)
    | 2 => matLand l.fmtB l.b x.buf l.tn l.tk (within e.m o.n l.tn) (within e.n o.k l.tk)
    | 3 =>
      match (if l.biasFull then within e.m o.m l.tm else within e.m 0 1), within e.n o.n l.tn with
      | some m, some n => some (biasElem l x.buf m n)
      | _, _ => none
    | _ =>
      let bits := bitsOfFmt x.record.resFmt
      if l.conv then
        match within e.n o.n l.tn, within e.oy x.b.oy l.toy, within e.ox x.b.ox l.tox with
        | some n, some y, some z => some (elemOf (x.record.resBase + n * x.record.resPlane + y * x.record.resRow) bits z)
        | _, _, _ => none
      else
        match within e.m o.m l.tm, within e.n o.n l.tn with
        | some m, some n => some (elemOf (x.record.resBase + m * x.record.resRow) bits n)
        | _, _ => none

/-- Where a producer's element lands in the source of a vane operation (R202): DWCONV has ROWS instances and CROP_RESIZE the images
that its window holds; the other operations have one. -/
def VaneBlock.srcElem (b : VaneBlock) (e : Origin) : Option Elem :=
  let base := b.inBase % 2 ^ 22
  let bits := bitsOfFmt b.fmtIn
  if b.planar then
    if e.n < b.cIn && e.oy < b.ih && e.ox < b.iw && (b.isCrop || e.g < b.rows) then
      some (elemOf (base + e.g * b.imgPitch + e.n * b.conv.aPlane + e.oy * b.inPitch) bits e.ox) else none
  else
    let n := if b.column then (b.rowLen, b.rows) else (b.rows, b.rowLen)
    if e.m < n.1 && e.n < n.2 && e.g = 0 then some (elemOf (base + e.m * b.inPitch) bits e.n) else none

def Landing.elem (x : Landing) (e : Origin) : Option Elem :=
  match x.body with | .loop _ => x.loopElem e | .vane b => b.srcElem e

/-- Land a segment in a consumer's window; an element outside the fill stops the consumer (R202). Only the valid entries of the
segment are written (R201): padding of a partial block (R31) or packed group (R33) is left as the window has it. DESIGN CHOICE, log
entry 31. -/
def Landing.land (x : Landing) (p i : Nat) (seg : Segment) : Run Unit := do
  seg.elems.forM (fun e =>
    match x.elem e.at_ with
    | some k => binPutElem p i x.half k e.bits.toNat
    | none => halt .access)
  seg.scales.forM (fun y =>
    match x.elem { m := y.1, n := y.2.1 * 32, g := x.b.o.g } with
    | some k => (match k.scale with | some o => binWrite p i x.half o [y.2.2] | none => pure ())
    | none => halt .access)

/-- Place of row ρ of an inlet's fill (R205). -/
def Landing.row (x : Landing) (n : Nat) : Nat :=
  let l := x.l
  match x.body with
  | .vane b =>
    let base := b.inBase % 2 ^ 22
    if b.planar then base + n / b.ih * b.conv.aPlane + n % b.ih * b.inPitch else base + n * b.inPitch
  | .loop _ =>
    match x.op with
    | 1 => l.a.at_ x.buf + (if l.conv then n / l.ihT * l.aPlane + n % l.ihT * l.a.pitch else n * l.a.pitch)
    | 2 => l.b.at_ x.buf + n * l.b.pitch
    | 3 => l.bias.at_ x.buf + (if l.biasFull then n * l.bias.pitch else 0)
    | _ => x.record.resBase + (if l.conv then n / l.toy * x.record.resPlane + n % l.toy * x.record.resRow else n * x.record.resRow)

/-- A segment has landed in a port (R201). -/
def SetCtx.landed (c : SetCtx) (n : Nat) : SetCtx :=
  let x := c.port n
  let pt := c.plan.ports.getD n {}
  c.setPort n (if x.landed + 1 = pt.segs then { x with landed := 0, fills := x.fills + 1 } else { x with landed := x.landed + 1 })

/-- May a set take streamed data in a port? Its windows are zeroed, and the buffer is free (R204). -/
def SetCtx.takes (c : SetCtx) (n : Nat) : Bool :=
  c.state != .empty && c.state != .binding && c.mayLand n (c.plan.ports.getD n {})

/-! ## SPOUT_SEGMENT_MOVE (R204) -/

/-- The plan that a set works for. -/
def State.planOf (s : State) (c : SetCtx) : Option PlanRun :=
  match s.running c.f c.r with
  | some k => if k.seq = c.seq then (match k.wait with | .plan x => some x | _ => none) else none
  | none => none

/-- The set that runs a stage of a plan now. -/
def PlanRun.at_ (x : PlanRun) (stage : Nat) : Option StageRef :=
  if x.finished.contains stage then none else x.stages[stage]?

/-- The oldest segment of a spout moves to its consumer; the fabric drops a fenced stone's segment (R401). -/
def State.moveSegment (s : State) (p i n : Nat) : State :=
  let c := s.setCtx p i
  match c.spoutRing n with
  | [] => s
  | seg :: rest =>
    let drop (s : State) : State := s.modCtx p i (fun c => c.setSpoutRing n rest)
    if !s.speaks p then (drop s).staleWrite p
    else
      let t := c.plan.targets.getD n {}
      match (s.planOf c).bind (fun x => x.at_ t.stage) with
      | none => s
      | some ref =>
        let d := s.setCtx ref.stone ref.set
        if d.takes t.port then
          let x := d.landing t.port (d.plan.ports.getD t.port {})
          (drop s).work ref.stone ref.set (do meetSegment (p / 25) seg; x.land ref.stone ref.set seg) (fun _ _ s =>
            (s.modCtx ref.stone ref.set (fun c => c.landed t.port)).walkOn ref.stone)
        else s

/-- SPOUT_SEGMENT_MOVE (R204). -/
def execSpoutSegmentMove (p : StoneP) (i : SetIx) (spout : Fin 4) (s : State) : Out := .next (s.moveSegment p i spout).settle

/-! ## INLET_READ (R205, R206) -/

/-- Round and segment within the round that a port awaits. -/
def SetCtx.awaits (c : SetCtx) (n : Nat) : Nat × Nat :=
  let pt := c.plan.ports.getD n {}
  let x := c.port n
  let per := pt.segs * c.plan.portFills pt
  let total := x.fills * pt.segs + x.landed
  (total / per, total % per)

/-- Has a stage of a plan completed round `t`? -/
def State.roundOver (s : State) (x : PlanRun) (stage t : Nat) : Bool :=
  match x.at_ stage with
  | none => x.finished.contains stage
  | some ref => t < (s.setCtx ref.stone ref.set).roundsDone

/-- May an inlet read its next segment (R206)? -/
def State.inletReady (s : State) (c : SetCtx) (q : Inlet) : Bool :=
  let t := (c.awaits q.port).1
  (s.planOf c).isSome && t < c.rounds && c.takes q.port &&
  (!q.feedback || t < q.lag || ((s.planOf c).elim false (fun x => s.roundOver x q.waitStage (t - q.lag))))

/-- Read one segment of an inlet into the fill in progress. -/
def Inlet.fetch (q : Inlet) (c : SetCtx) (a : Acc) (p i : Nat) : Run Unit := do
  let (t, j) := c.awaits q.port
  let x := c.landing q.port (c.plan.ports.getD q.port {})
  let base := q.src + (if q.roundWrap = 0 then t else t % q.roundWrap) * q.roundPitch + j * q.segPitch
  let rows ← (List.range q.rows).mapM (fun r => chuteRead a q.transpose (base + r * q.srcPitch) q.rowBytes)
  let out := deliver q.transpose q.esize q.rowBytes rows
  let first := (c.port q.port).landed * q.rows
  ((List.range out.length).zip out).forM (fun y => binWrite p i x.half (x.row (first + y.1)) y.2)

/-- One segment of an inlet is read. -/
def State.inletRead (s : State) (p i n : Nat) : State :=
  let c := s.setCtx p i
  match c.plan.inlets[n]? with
  | none => s
  | some q =>
    if s.speaks p && s.inletReady c q then
      s.work p i (q.fetch c (chuteAcc c.f (s.stoneUnit p)) p i) (fun _ _ s => (s.modCtx p i (fun c => c.landed q.port)).walkOn p)
    else s

/-- INLET_READ (R206). -/
def execInletRead (p : StoneP) (i : SetIx) (inlet : Fin 4) (s : State) : Out := .next (s.inletRead p i inlet).settle

/-! ## STAGE_PAWL_GIVE (R215) -/

/-- A stage whose last round is over gives its pawl; the fabric drops what a fenced stone sends (R401). -/
def State.givePawl (s : State) (p i : Nat) : State :=
  let c := s.setCtx p i
  if c.finished && c.pawl == .held && !s.speaks p then (s.modCtx p i (fun c => { c with pawl := .given })).staleWrite p
  else if c.finished && c.pawl == .held then (s.modCtx p i (fun c => { c with pawl := .given })).passPawl c.plan.pawl false else s

/-- STAGE_PAWL_GIVE (R215). -/
def execStagePawlGive (p : StoneP) (i : SetIx) (s : State) : Out := .next (s.givePawl p i).settle

/-! ## SET_COMPLETE (R96, R209) -/

/-- Histogram records of a stage, by phase and tensor, each SOFTMAX with its row events (R74, R150). -/
def SetCtx.records (c : SetCtx) : List (Hist × Option RowEvents) :=
  ((List.range c.plan.phases.length).zip c.plan.phases).flatMap (fun q =>
    (List.range q.2.body.formats.length).map (fun n =>
      (Table.get {} c.hists (q.1 * 8 + n),
       match q.2.body with | .vane b => if b.isSoft then some (Table.get {} c.rowEvents q.1) else none | .loop _ => none)))

/-- Has a set nothing left to do? -/
def SetCtx.over (c : SetCtx) : Bool :=
  c.finished && (List.range 4).all (fun n => c.spoutRing n == []) && (c.pawl == .none || c.pawl == .given)

/-- A set whose stage is over returns to EMPTY; its flags and records are kept with its command. One that stops for a SNAPSHOT is
saved. -/
def State.setOver (s : State) (p i : Nat) : State :=
  let c := s.setCtx p i
  if c.over && c.state != .stopping && s.ownsSet p i then
    (s.modRunning c.f c.r (fun k => match k.wait with
      | .plan x => { k with wait := .plan { x with flags := x.flags.or c.flags, finished := x.finished ++ [c.stage],
                                                   hists := x.hists ++ c.records } }
      | _ => k)).setStone p ((s.stone p).empty i)
  else s

/-- SET_COMPLETE (R96). -/
def execSetComplete (p : StoneP) (i : SetIx) (s : State) : Out := .next (s.setOver p i).settle

/-! ## PLAN_COMPLETE (R209) -/

/-- The 16 bytes of a row-event record (R150). -/
def RowEvents.bytes (x : RowEvents) : List Byte :=
  natLe 4 x.emptyRows.toNat ++ natLe 4 x.satInputs.toNat ++ natLe 4 x.firstEmpty.toNat ++ natLe 4 0

/-- Side records of a plan, ascending by STAGE, then TENSOR; a row-event record follows its histogram record. -/
def planRecords (hs : List (Hist × Option RowEvents)) : List (Nat × List Byte) :=
  let key (h : Hist) : Nat := h.stage.toNat * 65536 + h.tensor
  (sortBy (fun a b => key a.1 < key b.1) hs).flatMap (fun x =>
    (0x01, x.1.bytes) :: (match x.2 with | some e => [(0x02, e.bytes)] | none => []))

/-- Status of a plan that ran to its end (R73, R215). -/
def planStatus (broken : Bool) (fl : Flags) : Status := if broken then .broken else fl.status

/-- A plan whose stages are all over completes. -/
def State.planOver (s : State) (f r : Nat) : State :=
  match s.running f r with
  | none => s
  | some c =>
    match c.wait with
    | .plan x =>
      if x.finished.length = x.stages.length then
        (s.addFlags f r x.flags).finishWith f r (planStatus x.broken (c.flags.or x.flags)) (BitVec.ofNat 32 x.rounds)
          (planRecords x.hists)
      else s
    | _ => s

/-- PLAN_COMPLETE (R209). -/
def execPlanComplete (f : FnId) (r : RingIx) (s : State) : Out := .next (s.planOver f r).settle

end Sys2Proof.Machine
end

