-- ==== Sys2Proof/Machine/Damsel.lean ====
section
/-! DEFINITION. Philox4×32-10, Damsel streams and draws, Bolter sampling (12_damsel_and_bolter.md). -/
namespace Sys2Proof.Machine

/-! ## The generator (R318) -/

/-- One round of Philox4×32 on counter words, under a round key. PRESUMED: the multipliers are the published ones. -/
def philoxRound (k0 k1 : Word32) (c : Word32 × Word32 × Word32 × Word32) : Word32 × Word32 × Word32 × Word32 :=
  let p0 := 0xD251_1F53 * c.1.toNat
  let p1 := 0xCD9E_8D57 * c.2.2.1.toNat
  let hi (p : Nat) : Word32 := BitVec.ofNat 32 (p / 2 ^ 32)
  (hi p1 ^^^ c.2.1 ^^^ k0, BitVec.ofNat 32 p1, hi p0 ^^^ c.2.2.2 ^^^ k1, BitVec.ofNat 32 p0)

/-- Rounds under the key schedule. PRESUMED: the increments are the published ones. -/
def philoxRounds : Nat → Word32 → Word32 → Word32 × Word32 × Word32 × Word32 → Word32 × Word32 × Word32 × Word32
  | 0, _, _, c => c
  | n + 1, k0, k1, c => philoxRounds n (k0 + 0x9E37_79B9) (k1 + 0xBB67_AE85) (philoxRound k0 k1 c)

/-- The words w[0] to w[3] of a call. -/
def philox (key : Word64) (counter : BitVec 128) : List Word32 :=
  let w (i : Nat) : Word32 := counter.extractLsb' (32 * i) 32
  let c := philoxRounds 10 (key.setWidth 32) (key.extractLsb' 32 32) (w 0, w 1, w 2, w 3)
  [c.1, c.2.1, c.2.2.1, c.2.2.2]

/-- The counter of words c0 to c3. -/
def counterOf (c0 c1 c2 c3 : Nat) : BitVec 128 := BitVec.ofNat 128 (c0 + 2 ^ 32 * c1 + 2 ^ 64 * c2 + 2 ^ 96 * c3)

/-! ## The inverse normal (R327) -/

/-- The largest multiple of 2^−w below 8 whose Φ − 1/2 does not pass `t`, bit by bit. -/
def phiSearch (w t : Nat) : Nat → Nat → Nat
  | 0, x => x
  | i + 1, x => let y := x + 2 ^ i; phiSearch w t i (if phiFix w y (2 ^ w) ≤ t then y else x)

/-- −Φ^−1 at n ÷ d, in units of 2^−w. -/
def invNormFix (w n d : Nat) : Nat := phiSearch w ((d - 2 * n) * 2 ^ w / (2 * d)) (w + 3) 0

/-- A node of the inverse normal; at 1/2 it is 0. -/
def nodeInvNorm (n d : Nat) : Num := if 2 * n = d then numZero else nodeOf (fun w => invNormFix w n d)

/-- inv_normal at k × 2^−24, k odd: interpolated in the smaller tail, rounded once, negated below a half. -/
def invNormal (k : Nat) : FM Num := do
  let r ← toFp32 (interp nodeInvNorm (min k (2 ^ 24 - k)) (-24))
  return if k < 2 ^ 23 then (fp32 r).negate else fp32 r

/-! ## Sets of one unit (R322) -/

/-- The stone for a draw, or why it is refused (R8, R398, R90). -/
def State.drawStone (s : State) (f l : Nat) : Except Status Nat :=
  if !s.owns (s.partOf f) (l / 24) then .error .access
  else match s.physOf l with
    | none => .error .state
    | some p => match (s.stone p).place {} none with | none => .error .capacity | some _ => .ok p

/-- Does a stream record lie in a writable TYPE 0 page (R320)? Destroyed data on the way stop the engine. -/
def streamPage (a : Acc) (va : Nat) : Run Bool :=
  tryCatch (do let _ ← translate a true va; return true) (fun e => if e.status = .access then return false else throw e)

/-- A stream record as it is read at binding (R323); none where it lies elsewhere. -/
def readStream (a : Acc) (va : Nat) : Run (Option (List Byte)) := do
  if !(← streamPage a va) then return none
  let bs ← readSV a va 32
  return some bs

/-- A set context with the Damsel state of a stream record (R92, R322). -/
def damselCtx (bs : List Byte) : SetCtx := { counter := BitVec.ofNat 128 (leNat (bs.take 16)), key := word64At bs 0x10 }

/-- The words of call `j`. -/
def SetCtx.call (c : SetCtx) (j : Nat) : List Word32 := philox c.key (c.counter + BitVec.ofNat 128 j)

/-- The counter, advanced by `n` calls, goes back to its record when the command completes. -/
def State.dueCounter (s : State) (f r va : Nat) (c : SetCtx) (n : Nat) : State :=
  s.modRunning f r (fun k => { k with counter := some (BitVec.ofNat 48 va, c.counter + BitVec.ofNat 128 n) })

/-! ## DAMSEL_SEED (R321) -/

/-- The effect of a DAMSEL_SEED: the record is written; no stone works on it. -/
def State.damselSeed (s : State) (f r : Nat) (c : Running) : State :=
  let d := c.desc
  let va := d.addr 0x10
  let record := natLe 8 0 ++ natLe 4 (d.field 0x20 31 0) ++ natLe 4 (d.op0 31 0) ++ natLe 8 (d.field 0x18 63 0) ++ natLe 8 0
  let a := s.unnamedAcc f
  let s := s.tick.tick
  let x := (do
    if !(← streamPage a va) then return false
    writeV a va record
    return true : Run Bool).exec s
  match x.1 with
  | .error e => x.2.s.failRead f r e
  | .ok false => x.2.s.fail f r .access
  | .ok true => x.2.s.finish f r .ok 0

/-- DAMSEL_SEED (R321). -/
def execDamselSeed (f : FnId) (r : RingIx) (s : State) : Out := .next (s.runCmd f r .damselSeed (s.damselSeed f r)).settle

/-! ## DAMSEL_DRAW (R324 to R328) -/

/-- What a draw makes of its random words. -/
structure DrawSpec where
  kind   : Nat
  fmt    : BitVec 8
  count  : Nat
  scale  : Word32
  offset : Word32
  thr    : Nat
  deriving DecidableEq, Repr

/-- The draw that a descriptor gives; constants are read under R482. -/
def Desc.draw (d : Desc) : DrawSpec :=
  { kind := d.op0 24 23, fmt := BitVec.ofNat 8 (d.op0 7 0), count := d.field 0x38 34 0
    scale := readConst (BitVec.ofNat 32 (d.field 0x20 63 32)), offset := readConst (BitVec.ofNat 32 (d.field 0x20 31 0))
    thr := d.field 0x10 63 48 }

/-- R324. -/
def DrawSpec.ok (x : DrawSpec) : Bool :=
  let c := fwCode x.fmt
  !(fwMx x.fmt) && isFinite32 x.scale && isFinite32 x.offset &&
  (if x.kind = 2 then c == 1 || c == 3 || c == 4 || c == 0xA || c == 0xB else x.kind < 2 && (c == 1 || (3 ≤ c && c ≤ 6)))

/-- Is a constant of the descriptor subnormal? -/
def Desc.drawSmall (d : Desc) : Bool :=
  d.op0 24 23 != 2 && (isSubnormal (BitVec.ofNat 32 (d.field 0x20 63 32)) || isSubnormal (BitVec.ofNat 32 (d.field 0x20 31 0)))

/-- u × SCALE + OFFSET, rounded once. -/
def DrawSpec.place (x : DrawSpec) (u : Num) : FM Lane := do
  let exact := (u.mul (fp32 x.scale)).add (fp32 x.offset)
  let r ← fpRound [u, fp32 x.scale, fp32 x.offset] exact
  return (r, exact.isOrdinary && (fp32 r).isZero)

/-- The value of element `e` (R325, R326). -/
def DrawSpec.value (x : DrawSpec) (c : SetCtx) (e : Nat) : FM Lane :=
  if x.kind = 2 then
    let w := ((c.call (e / 8)).getD (e % 8 / 2) 0).toNat
    let h := if e % 2 = 0 then w % 65536 else w / 65536
    pure (if h < x.thr then 0x3F80_0000 else 0, false)
  else do
    let w := ((c.call (e / 4)).getD (e % 4) 0).toNat
    let u ← if x.kind = 0 then pure (.fin false (w / 2 ^ 8) 1 (-24)) else invNormal (w / 2 ^ 9 * 2 + 1)
    x.place u

/-- Elements of a run: codes and marks. -/
def DrawSpec.unit (x : DrawSpec) (c : SetCtx) (first n : Nat) : FM (List (Nat × Mark)) :=
  (upFrom first n).mapM (fun e => do
    let y ← x.value c e
    let v := fp32 y.1
    let k ← encodeElem x.fmt v
    return (k, v, y.2))

/-- Draw one tensor in units of 256 elements; its histogram record. -/
def DrawSpec.tensor (x : DrawSpec) (a : Acc) (c : SetCtx) (base n : Nat) : Run Hist :=
  let bits := bitsOfFmt x.fmt
  (List.range (ceilDiv x.count 256)).foldlM (fun (h : Hist) u => do
    let y := pureFlags (x.unit c (256 * u) (min 256 (x.count - 256 * u)))
    modify (fun e => { e with flags := e.flags.or y.2 })
    writeV a (base + packedOff bits (256 * u)) (packRow bits (y.1.map (·.1)))
    let h := y.1.foldl (fun h k => h.add k.2.1 k.2.2 (fwCode x.fmt)) h
    return { h with flags := h.flags.or y.2 }) { tensor := n, format := x.fmt }

/-- Calls that a tensor takes (R325). -/
def DrawSpec.calls (x : DrawSpec) : Nat := ceilDiv x.count (if x.kind = 2 then 8 else 4)

/-- Tensors one after another, until one stops: those drawn whole, and the stop. -/
def drawAll : List (Run Hist) → List Hist → Run (List Hist × Option Stop)
  | [], hs => pure (hs, none)
  | m :: ms, hs => do
    let x ← tryCatch (do return (some (← m), none)) (fun e => return (none, some e))
    match x with
    | (some h, _) => drawAll ms (hs ++ [h])
    | (none, e) => return (hs, e)

/-- A tensor for each record of a work list (R328): the record's SEED, and counter words (j, 0, STEP, DOMAIN). -/
def DrawSpec.list (x : DrawSpec) (a : Acc) (d : Desc) (records : List (List Byte)) : List (Run Hist) :=
  let chosen := records.filter (fun b => d.op0 21 21 == 0 || bitAt (word64At b 0) 5)
  ((List.range chosen.length).zip chosen).map (fun y =>
    let w := word64At y.2 0
    let c : SetCtx := { key := word64At y.2 8, counter := counterOf 0 0 (fld w 39 24) (d.field 0x30 63 32) }
    x.tensor a c (d.addr 0x10 + fld w 51 40 * d.addr 0x18) y.1)

/-- Draw tensors and end the command: one histogram record per tensor (R383), RESULT the tensors drawn (R387). -/
def State.drawOver (s : State) (f r : Nat) (small : Bool) (ms : List (Run Hist)) : State :=
  let x := (drawAll ms []).exec s { ufl := small }
  let t := x.2.s.addFlags f r x.2.flags
  match x.1 with
  | .error e => t.stopped f r (e.met x.2)
  | .ok (hs, some e) => t.stopped f r (e.met x.2) [] (some (BitVec.ofNat 32 hs.length))
  | .ok (hs, none) =>
    let st := x.2.status
    t.finishWith f r st (BitVec.ofNat 32 hs.length) (if st.noHist then [] else hs.map (fun h => (0x01, h.bytes)))

/-- The effect of a DAMSEL_DRAW. -/
def State.damselDraw (s : State) (f r : Nat) (c : Running) : State :=
  let d := c.desc
  let a := stoneAcc f (d.op0 31 25)
  let x := d.draw
  let list := d.op0 22 22 == 1
  let y := (if list then pure (some []) else readStream a (d.addr 0x28)).exec s
  match y.1 with
  | .error e => y.2.s.failRead f r e
  | .ok none => y.2.s.fail f r .access
  | .ok (some record) =>
    let s := y.2.s
    match s.drawStone f (d.op0 31 25) with
    | .error st => s.fail f r st
    | .ok _ =>
      if !x.ok then s.fail f r .malformed
      else if list then
        let z := (readSV a (d.addr 0x28) (64 * d.op0 20 12)).exec s
        match z.1 with
        | .error e => z.2.s.failRead f r e
        | .ok bs =>
          let recs := (List.range (d.op0 20 12)).map (fun i => (bs.drop (64 * i)).take 64)
          z.2.s.drawOver f r d.drawSmall (x.list a d recs)
      else
        let ctx := damselCtx record
        (s.drawOver f r d.drawSmall [x.tensor a ctx (d.addr 0x10) 0]).dueCounter f r (d.addr 0x28) ctx x.calls

/-- DAMSEL_DRAW (R325). -/
def execDamselDraw (f : FnId) (r : RingIx) (s : State) : Out := .next (s.runCmd f r .damselDraw (s.damselDraw f r)).settle

/-! ## BOLTER_SAMPLE (R329, R330) -/

/-- log2 e in FP32. -/
def log2e32 : Word32 := 0x3FB8_AA3B

/-- TEMP and TOP_P as read (R482). -/
def Desc.temp (d : Desc) : Word32 := readConst (BitVec.ofNat 32 (d.field 0x28 63 32))
def Desc.topP (d : Desc) : Word32 := readConst (BitVec.ofNat 32 (d.field 0x28 31 0))

/-- R329. -/
def bolterOk (d : Desc) : Bool :=
  let v := d.field 0x30 18 0
  let fmt : BitVec 8 := BitVec.ofNat 8 (d.op0 24 17)
  let t := fp32 d.temp
  let p := fp32 d.topP
  1 ≤ v && v ≤ 262144 && isFinite32 d.temp && (t.isZero || !t.neg?) &&
  isFinite32 d.topP && Num.lt numZero p && Num.le p (numOfInt 1) &&
  (fwCode fmt == 1 || fwCode fmt == 3 || fwCode fmt == 4) && !(fwMx fmt)

/-- Indices in the order of descending values, ties to the lower index. -/
def descending (z : List Word32) : List (Nat × Word32) :=
  sortBy (fun a b => Num.cmp (fp32 a.2) (fp32 b.2) == 1) ((List.range z.length).zip z)

/-- Running sums of the terms of candidates. -/
def bolterSums (zmax : Word32) : List (Nat × Word32) → Word32 → FM (List Word32)
  | [], _ => pure []
  | c :: cs, s => do
    let d ← if Num.cmp (fp32 c.2) (fp32 zmax) = 0 then pure 0 else fpSub c.2 zmax
    let y ← fpMul d log2e32
    let t ← governor [] 0x05 y
    let s ← fpAdd s t.1
    let rest ← bolterSums zmax cs s
    return s :: rest

/-- The token of a row whose logits are `x`, under the random word `w`; none for an empty row. -/
def bolterToken (d : Desc) (x : List Word32) (w : Word32) : FM (Option Nat) := do
  let greedy := (fp32 d.temp).isZero
  let z ← if greedy then pure x else x.mapM (fun v => fpDiv v d.temp)
  let order := descending z
  match order with
  | [] => return none
  | top :: _ =>
    let t := fp32 top.2
    if t.isInf && t.neg? then return none
    if greedy then return some top.1
    let k := d.op0 10 0
    let cand := if k = 0 then order else order.take k
    let sums ← bolterSums top.2 cand 0
    let cut ← fpMul d.topP (sums.getLastD 0)
    let m := (sums.findIdx? (fun v => Num.le (fp32 cut) (fp32 v))).getD (sums.length - 1)
    let u : Num := .fin false (w.toNat / 2 ^ 8) 1 (-24)
    let last := fp32 (sums.getD m 0)
    let target ← fpRound [u, last] (u.mul last)
    let j := ((sums.take (m + 1)).findIdx? (fun v => Num.lt (fp32 target) (fp32 v))).getD m
    return some (cand.getD j (0, 0)).1

/-- The Bolter report while it is built (R330). -/
structure BolterReport where
  empty : Word32 := 0
  nans  : Word32 := 0
  first : Word32 := 0xFFFF_FFFF
  deriving DecidableEq, Repr

def BolterReport.bytes (x : BolterReport) : List Byte :=
  natLe 4 x.empty.toNat ++ natLe 4 x.nans.toNat ++ natLe 4 x.first.toNat ++ natLe 4 0

/-- A logit as FP32: NaN counts as −Inf and sets INV. -/
def bolterLogit (fmt : BitVec 8) (code : Nat) : FM (Word32 × Bool) := do
  let w ← readFp32 (fwCode fmt) code
  if (fp32 w).isNan then
    setInv
    return (wInf true, true)
  return (w, false)

/-- Sample row `n` and write its token. -/
def bolterRow (a : Acc) (d : Desc) (c : SetCtx) (n : Nat) (x : BolterReport) : Run BolterReport := do
  let fmt : BitVec 8 := BitVec.ofNat 8 (d.op0 24 17)
  let w := elemBytes fmt
  let v := d.field 0x30 18 0
  let bs ← readV a (d.addr 0x10 + n * d.addr 0x18) (w * v)
  let ls ← (List.range v).mapM (fun i => withFlags (bolterLogit fmt (leNat ((bs.drop (w * i)).take w))))
  let tok ← withFlags (bolterToken d (ls.map (·.1)) ((c.call n).headD 0))
  writeV a (d.addr 0x20 + 4 * n) (natLe 4 (tok.getD 0xFFFF_FFFF))
  return { empty := if tok.isNone then sat32 x.empty 1 else x.empty
           nans := sat32 x.nans (ls.filter (·.2)).length
           first := if tok.isNone && x.first == 0xFFFF_FFFF then BitVec.ofNat 32 n else x.first }

/-- Rows one after another, until one stops: the report so far, and the stop. -/
def bolterRows (a : Acc) (d : Desc) (c : SetCtx) : List Nat → BolterReport → Run (BolterReport × Option Stop)
  | [], rep => pure (rep, none)
  | n :: ns, rep => do
    let x ← tryCatch (do return (← bolterRow a d c n rep, none)) (fun e => return (rep, some e))
    match x with
    | (rep, none) => bolterRows a d c ns rep
    | (rep, some e) => return (rep, some e)

/-- The effect of a BOLTER_SAMPLE: the report is written however the rows end (R330, R387). -/
def State.bolterSample (s : State) (f r : Nat) (c : Running) : State :=
  let d := c.desc
  let a := stoneAcc f (d.op0 31 25)
  let y := (readStream a (d.addr 0x38)).exec s
  match y.1 with
  | .error e => y.2.s.failRead f r e
  | .ok none => y.2.s.fail f r .access
  | .ok (some record) =>
    let s := y.2.s
    match s.drawStone f (d.op0 31 25) with
    | .error st => s.fail f r st
    | .ok _ =>
      if !bolterOk d then s.fail f r .malformed
      else
        let ctx := damselCtx record
        let rows := d.field 0x30 63 32
        let x := (bolterRows a d ctx (List.range rows) {}).exec s { ufl := isSubnormal (BitVec.ofNat 32 (d.field 0x28 63 32)) }
        let t := x.2.s.addFlags f r x.2.flags
        match x.1 with
        | .error e => t.stopped f r (e.met x.2)
        | .ok (rep, some e) => t.stopped f r (e.met x.2) [(0x06, rep.bytes)] (some rep.empty)
        | .ok (rep, none) =>
          let t := t.finishWith f r x.2.status rep.empty [(0x06, rep.bytes)]
          if rows = 0 then t else t.dueCounter f r (d.addr 0x38) ctx rows

/-- BOLTER_SAMPLE (R330). -/
def execBolterSample (f : FnId) (r : RingIx) (s : State) : Out := .next (s.runCmd f r .bolterSample (s.bolterSample f r)).settle

end Sys2Proof.Machine
end

