-- ==== Sys2Proof/Machine/Grist.lean ====
section
/-! DEFINITION. The Grist unit: joins, leaves and steps (R263 to R271). -/
namespace Sys2Proof.Machine

/-! ## Joining and leaving (R267, R268) -/

/-- The lowest FREE entry of a partition. -/
def State.lowestFree (s : State) (p : Nat) : Option Nat :=
  (upFrom (s.gristCarve p).1 (s.gristCarve p).2).find? (fun e => (s.entry e).state == .free)

/-- Entries of a function that are not FREE. -/
def State.heldBy (s : State) (f : Nat) : List (Nat × GristEntry) :=
  (s.entriesOf (s.partOf f)).filter (fun e => e.2.owner.toNat == f)

/-- The effect of a GRIST_JOIN (R267). -/
def State.gristJoin (s : State) (f r : Nat) (c : Running) : State :=
  let d := c.desc
  let p := s.partOf f
  if d.op0 31 31 = 1 ∧ !(s.bind f).overOk then s.fail f r .access
  else if d.op0 15 0 = 0 then s.fail f r .malformed
  else
    match s.lowestFree p with
    | none => s.fail f r .capacity
    | some e =>
      if (s.part p).latentSlots = 0 ∨ (s.heldBy f).length ≥ (s.bind f).gristMax.toNat then s.fail f r .capacity
      else
        let x : GristEntry :=
          { state := .queued, total := BitVec.ofNat 16 (d.op0 15 0), overshot := d.op0 31 31 == 1, seed := wordAt d 2,
            owner := BitVec.ofNat 8 f, cond0 := BitVec.ofNat 48 (d.addr 0x18), cond1 := BitVec.ofNat 48 (d.addr 0x20),
            user := wordAt d 5, joinSeq := (s.part p).joinSeq }
        let s := s.setEntry e x
        let s := (s.setPart p { s.part p with joinSeq := (s.part p).joinSeq + 1 }).evalWeir (.gristTable (houseIx p))
        s.finish f r .ok (BitVec.ofNat 32 e)

/-- GRIST_JOIN (R267). -/
def execGristJoin (f : FnId) (r : RingIx) (s : State) : Out := .next (s.runCmd f r .gristJoin (s.gristJoin f r))

/-- The effect of a GRIST_LEAVE (R268). -/
def State.gristLeave (s : State) (f r : Nat) (c : Running) : State :=
  let e := c.desc.op0 11 0
  let p := s.partOf f
  let x := s.entry e
  if !inCarve (s.gristCarve p) e || (x.state != .free && x.owner.toNat != f) then s.fail f r .access
  else
    match x.state with
    | .free => s.fail f r .state
    | .leaving => s.fail f r .state
    | .queued => (s.freeEntry p e).finish f r .ok 0
    | .admitted => (s.setEntry e { x with state := .leaving }).finish f r .ok 0

/-- GRIST_LEAVE (R268). -/
def execGristLeave (f : FnId) (r : RingIx) (s : State) : Out := .next (s.runCmd f r .gristLeave (s.gristLeave f r))

/-! ## The step (R269) -/

/-- The listed steps were run: every listed entry that is still ADMITTED advances. -/
def State.advanceListed (s : State) (l : List Nat) : State :=
  l.foldl (fun s e => if (s.entry e).state = .admitted then s.setEntry e { s.entry e with step := (s.entry e).step + 1 } else s) s

/-- Leaves of a function commit, ascending entry. -/
def State.commitLeaves (s : State) (f p : Nat) : State :=
  (s.heldBy f).foldl (fun s e =>
    if e.2.state = .leaving ∨ (e.2.state = .admitted ∧ e.2.step = e.2.total) then s.freeEntry p e.1 else s) s

/-- Age of a join, an unsigned difference modulo 2^32. -/
def State.joinAge (s : State) (p : Nat) (e : GristEntry) : Nat := ((s.part p).joinSeq - e.joinSeq).toNat

/-- Queued entries of a partition, oldest join first. -/
def State.queuedOf (s : State) (p : Nat) : List (Nat × GristEntry) :=
  sortBy (fun a b => s.joinAge p a.2 > s.joinAge p b.2) ((s.entriesOf p).filter (fun e => e.2.state == .queued))

/-- Joins are admitted while a slot is free, each to the lowest free slot. -/
def State.admitJoins (s : State) (p : Nat) (serial : Word32) : State :=
  (s.queuedOf p).foldl (fun s e =>
    let held := s.slotsHeld p
    match (List.range (s.part p).latentSlots.toNat).find? (fun n => !held.contains n) with
    | none => s
    | some n =>
      (s.setEntry e.1 { s.entry e.1 with slot := BitVec.ofNat 12 n, state := .admitted, listed := serial - 1, first := true }).evalWeir
        (.latentPool (houseIx p))) s

/-- The work list of a function: Overshot first, then the oldest listing, then the oldest join. -/
def State.workList (s : State) (f p n : Nat) (serial : Word32) : List (Nat × GristEntry) :=
  let before (a b : Nat × GristEntry) : Bool :=
    if a.2.overshot != b.2.overshot then a.2.overshot
    else
      let x := (serial - a.2.listed).toNat
      let y := (serial - b.2.listed).toNat
      if x ≠ y then x > y else s.joinAge p a.2 > s.joinAge p b.2
  (sortBy before ((s.heldBy f).filter (fun e => e.2.state == .admitted))).take n

/-- Write the records of a list one by one; answers how many were written. -/
def writeRecords (a : Acc) (va : Nat) : List (Nat × GristEntry) → Run Unit
  | [] => pure ()
  | e :: es => do
    writeV a va (e.2.bytes e.1)
    writeRecords a (va + 64) es

/-- How many records of a list can be written before the first fault. -/
def State.writable (s : State) (a : Acc) (va : Nat) (l : List (Nat × GristEntry)) : Nat :=
  ((List.range l.length).takeWhile (fun i =>
    match ((writeRecords a (va + 64 * i) [(l.getD i (0, {}))]).exec s).1 with | .ok _ => true | .error _ => false)).length

/-- The effect of a GRIST_STEP (R269). -/
def State.gristStep (s : State) (f r : Nat) (c : Running) : State :=
  let d := c.desc
  let p := s.partOf f
  let serial := (s.part p).serial + 1
  let s := s.setPart p { s.part p with serial := serial }
  let s := if d.op0 31 31 = 1 then s.advanceListed (Table.get [] (s.part p).prevList f) else s
  let s := s.commitLeaves f p
  let s := s.admitJoins p serial
  let lst := (s.workList f p (d.op0 8 0) serial).map (fun e =>
    (e.1, { e.2 with listed := serial, last := e.2.step.toNat + 1 == e.2.total.toNat }))
  let a := s.unnamedAcc f
  let s := s.tick.tick
  let n := s.writable a (d.addr 0x10) lst
  let x := (writeRecords a (d.addr 0x10) lst).exec s
  let s := (lst.take n).foldl (fun s e => s.setEntry e.1 { e.2 with first := false }) x.2.s
  let s := s.setPart p { s.part p with prevList := Table.put [] (s.part p).prevList f ((lst.take n).map (·.1)) }
  match x.1 with
  | .ok _ => s.finish f r .ok (BitVec.ofNat 32 n)
  | .error e => s.finishWith f r e.status (BitVec.ofNat 32 n) [] e.report

/-- GRIST_STEP (R269). -/
def execGristStep (f : FnId) (r : RingIx) (s : State) : Out := .next (s.runCmd f r .gristStep (s.gristStep f r)).settle

end Sys2Proof.Machine
end

