-- ==== Sys2Proof/Machine/Race.lean ====
section
/-! DEFINITION. Race: streams, reference buffers, decoded and encoded pictures (R292 to R317, R381). What the standards that R293 names
compute and what the encoder decides (R315) are constants of Config without a body; which pictures they may read and write, with which
references, substitutes, quantisers and vectors, is here. -/
namespace Sys2Proof.Machine

/-! ## Specifications (R294, R297) -/

/-- A sample picture inside R294. -/
def pictureSizeOk (codec w h : Nat) : Bool :=
  if codec = 3 then 1 ≤ w && w ≤ 16384 && 1 ≤ h && h ≤ 16384 else 16 ≤ w && w ≤ 8192 && 16 ≤ h && h ≤ 4352

/-- Do a picture's headers lie in the decode column of R293? PRESUMED: the numbers by which the standards name their profiles and level
6.2. -/
def inSubset (codec : Nat) (fr : Config.Frame) : Bool :=
  !fr.outside &&
  (if codec = 1 then fr.profile == 0 && (fr.depth == 8 || fr.depth == 10) && (fr.chroma == 0 || fr.chroma == 3)
   else if codec = 2 then (fr.profile == 1 || fr.profile == 2) && (fr.depth == 8 || (fr.depth == 10 && fr.profile == 2)) &&
     fr.chroma == 0 && fr.level ≤ 186
   else fr.profile == 0 && fr.depth == 8 && fr.chroma ≤ 3)

/-- Width and height of chroma planes: 0 4:2:0, 1 4:2:2, else 4:4:4 (R300). -/
def chromaW (chroma w : Nat) : Nat := if chroma ≤ 1 then ceilDiv w 2 else w
def chromaH (chroma h : Nat) : Nat := if chroma = 0 then ceilDiv h 2 else h

/-- Largest quantiser index of a codec (R311). -/
def qMax (codec : Nat) : Nat := if codec = 1 then 255 else if codec = 2 then 51 else 99

/-- The specification in 64 bytes; none if a reserved bit is set. -/
def raceSpecOf (bs : List Byte) : Option RaceSpec :=
  let w (i : Nat) : Word64 := word64At bs (8 * i)
  if fld (w 0) 38 0 ≠ 0 || fld (w 4) 15 0 ≠ 0 || w 6 ≠ 0 || w 7 ≠ 0 then none
  else some
    { image := bs, fmt := BitVec.ofNat 8 (fld (w 0) 63 56), codec := fld (w 0) 55 54, encode := bitAt (w 0) 53
      chroma := fld (w 0) 52 51, tenBit := bitAt (w 0) 50, inRgb := bitAt (w 0) 49, matrix := fld (w 0) 48 47
      fullRange := bitAt (w 0) 46, refBufs := fld (w 0) 45 41, meRefs := fld (w 0) 40 39, width := fld (w 1) 63 48
      height := fld (w 1) 47 32, maxW := fld (w 1) 31 16, maxH := fld (w 1) 15 0, yPitch := fld (w 2) 63 32
      cPitch := fld (w 2) 31 0, p1 := fld (w 3) 63 32, p2 := fld (w 3) 31 0, quality := fld (w 4) 63 56
      qStep := fld (w 4) 55 48, gopLen := fld (w 4) 47 32, capWindow := fld (w 4) 31 16, capBits := fld (w 5) 63 0 }

/-- R297 for an encode stream, with the claim of R305. -/
def RaceSpec.encodeOk (x : RaceSpec) : Bool :=
  let jpeg := x.codec == 3
  1 ≤ x.matrix && pictureSizeOk x.codec x.width x.height && x.chroma ≤ 2 &&
  (x.chroma == 2 || x.width % 2 == 0) && (x.chroma != 0 || x.height % 2 == 0) && (jpeg || x.chroma == 0) &&
  (!jpeg || (!x.tenBit && x.matrix == 1 && x.fullRange)) && x.quality ≤ qMax x.codec &&
  (x.capBits == 0 || (1 ≤ x.qStep && 1 ≤ x.capWindow)) &&
  (if jpeg then x.meRefs == 0 else (x.meRefs == 1 || x.meRefs == 2) && x.meRefs + 1 ≤ x.refBufs) &&
  elemBytes x.fmt * x.width ≤ x.yPitch && (x.inRgb || elemBytes x.fmt * chromaW x.chroma x.width ≤ x.cPitch)

/-- R297 for a decode stream; the chroma rows that every subsampling of R293 with chroma planes has at least. -/
def RaceSpec.decodeOk (x : RaceSpec) : Bool :=
  x.meRefs == 0 && pictureSizeOk x.codec x.maxW x.maxH && elemBytes x.fmt * x.maxW ≤ x.yPitch &&
  elemBytes x.fmt * ceilDiv x.maxW 2 ≤ x.cPitch

/-- R297. -/
def RaceSpec.ok (x : RaceSpec) : Bool :=
  let c := fwCode x.fmt
  x.codec != 0 && fmtOk .other false x.fmt && !(fwMx x.fmt) && (c == 1 || c == 3 || c == 4 || c == 0xB || c == 0xE) &&
  x.refBufs ≤ 17 && (if x.encode then x.encodeOk else x.decodeOk)

/-! ## Claims (R173, R304, R305, R314) -/

/-- Bytes that a picture needs in a buffer. -/
def bufferNeed (w h : Nat) : Nat := ceilDiv (13 * w * h) 4

/-- Bytes of a reference buffer of a house. -/
def State.bufferBytes (s : State) (h : Nat) : Nat := (s.house h).bufMibOn.toNat * mib

/-- Buffers of a house's pool that streams have claimed. -/
def State.claimed (s : State) (h : Nat) : Nat :=
  ((List.range 64).map (fun i => if (s.rac h i).opened then (s.rac h i).bufs.length else 0)).sum

/-- Free 64 KiB units of a house's media carve-out. -/
def State.mediaFree (s : State) (h : Nat) : Nat := (s.house h).mediaOn.toNat * 192 - (s.house h).mediaUsed

/-- Claim 64 KiB units of the media carve-out. -/
def State.claimMedia (s : State) (h n : Nat) : State :=
  if n = 0 then s
  else (s.setHouse h { s.house h with mediaUsed := (s.house h).mediaUsed + n }).evalWeir (.media (houseIx h))

/-- Do the claims of a stream fit: its buffers (R305), its motion-search windows (R314)? -/
def State.raceFits (s : State) (h : Nat) (x : RaceSpec) : Bool :=
  (x.refBufs == 0 ||
    (x.refBufs ≤ 32 - s.claimed h - (s.house h).hopperBufs && s.bufferBytes h != 0 &&
      (!x.encode || bufferNeed x.width x.height ≤ s.bufferBytes h))) &&
  72 * x.meRefs ≤ s.mediaFree h

/-- Open a stream (R296): its context at its start, its claims held. -/
def State.openRace (s : State) (h i f : Nat) (x : RaceSpec) : State :=
  (s.setRac h i { opened := true, owner := some f, spec := x, bufs := List.replicate x.refBufs {}, claim := 72 * x.meRefs }).claimMedia
    h (72 * x.meRefs)

/-! ## References (R306, R307) -/

/-- The signed difference of two order values: AV1 counts in the bits of OrderHint. -/
def orderDiff (codec bits : Nat) (a b : Int) : Int := if codec = 1 then signed bits (toTwos bits (a - b)) else a - b

/-- Buffers with their indices. -/
def numbered {α : Type} (xs : List α) : List (Nat × α) := (List.range xs.length).zip xs

/-- The first entry that no other is before. -/
def firstBy {α : Type} (lt : α → α → Bool) : List α → Option α
  | [] => none
  | x :: xs => match firstBy lt xs with | none => some x | some y => if lt y x then some y else some x

/-- The buffer that holds a reference. -/
def holderOf (codec : Nat) (bufs : List RefBuf) (ref : Int) : Option RefBuf :=
  bufs.find? (fun b => b.marked && (if codec = 1 then b.slots.toNat.testBit ref.toNat else b.order == ref))

/-- The substitute for a missing reference of a picture (R307): the nearest marked buffer, then the smaller order value, then
the lower index; none is mid-grey. -/
def substitute (codec bits : Nat) (bufs : List RefBuf) (order : Int) : Option RefBuf :=
  let dist (b : RefBuf) : Nat := (orderDiff codec bits b.order order).natAbs
  firstBy (fun a b => dist a < dist b || (dist a == dist b && decide (a.order < b.order)))
    (bufs.filter (·.marked))

/-- The buffer for a new picture: an unmarked one, or the marked one with the oldest order value (R306). -/
def takeBuffer (codec : Nat) (fr : Config.Frame) (bufs : List RefBuf) : Option (Nat × Bool) :=
  match (numbered bufs).find? (fun b => !b.2.marked) with
  | some b => some (b.1, false)
  | none => (firstBy (fun a b => orderDiff codec fr.hintBits a.2.order fr.order < orderDiff codec fr.hintBits b.2.order fr.order)
      (numbered bufs)).map (fun b => (b.1, true))

/-- A decoded coded unit: what it did to the stream. -/
structure Decoding where
  bufs    : List RefBuf
  pics    : List RacePicture := []
  missing : Nat := 0
  evicted : Nat := 0
  deriving DecidableEq, Repr

/-- The picture that a buffer holds, by unit and place. -/
def RefBuf.place (b : RefBuf) : Nat × Nat := (b.unit, b.frame)

/-- The references of a picture among some buffers: each with whether it is missing, a substitute in its place (R307). -/
def refsOf (codec : Nat) (fr : Config.Frame) (bufs : List RefBuf) : List (Option (Nat × Nat) × Bool) :=
  fr.refs.map (fun ref => match holderOf codec bufs ref with
    | some b => (some b.place, false)
    | none => ((substitute codec fr.hintBits bufs fr.order).map RefBuf.place, true))

/-- A picture that an AV1 unit shows again: nothing is decoded; a key picture fills the slots that refresh_frame_flags names again. -/
def Decoding.again (d : Decoding) (codec : Nat) (fr : Config.Frame) : Decoding :=
  let refs := refsOf codec fr d.bufs
  let at_ := (refs.head?.bind (·.1))
  let bufs := if fr.refresh = 0 then d.bufs else d.bufs.map (fun b =>
    let slots := if some b.place = at_ then b.slots ||| fr.refresh else b.slots &&& ~~~fr.refresh
    { b with slots := slots, marked := b.marked && slots != 0 })
  { d with bufs := bufs, pics := d.pics ++ [{ depth := fr.depth, refs := refs.map (·.1), again := true }]
           missing := d.missing + (refs.filter (·.2)).length }

/-- One picture of unit `n`: HEVC unmarks what its reference picture set drops; a buffer is taken; its references are found or
replaced; it is marked as the standard directs, a JPEG picture never (R306). -/
def Decoding.frame (d : Decoding) (codec n : Nat) (fr : Config.Frame) : Decoding :=
  if fr.again then d.again codec fr
  else
    let kept := if codec = 2 then d.bufs.map (fun b => { b with marked := b.marked && fr.keep.contains b.order }) else d.bufs
    let took := takeBuffer codec fr kept
    let free := match took with
      | some (i, true) => kept.modify i (fun b => { b with marked := false, slots := 0 })
      | _ => kept
    let refs := refsOf codec fr free
    let me : RefBuf := { marked := codec == 2 || (codec == 1 && fr.refresh != 0), order := fr.order, slots := fr.refresh, unit := n
                         frame := d.pics.length }
    let bufs := if codec = 1 then free.map (fun b =>
        let left := b.slots &&& ~~~fr.refresh
        { b with slots := left, marked := b.marked && left != 0 }) else free
    { bufs := match took with | some (i, _) => bufs.set i me | none => bufs
      pics := d.pics ++ [{ depth := fr.depth, refs := refs.map (·.1)
                           conceal := (substitute codec fr.hintBits free fr.order).map RefBuf.place }]
      missing := d.missing + (refs.filter (·.2)).length
      evicted := d.evicted + (match took with | some (_, true) => 1 | _ => 0) }

/-! ## Reconstructed pictures (R304, R307, R308) -/

/-- A reconstructed picture: a sample by plane, row and column, and the motion data that later pictures take from it. -/
structure Picture where
  sample : Nat → Nat → Nat → Nat
  motion : List Nat := []

/-- The mid-grey picture of R307: no motion. -/
def midGrey (depth : Nat) : Picture := { sample := fun _ _ _ => 2 ^ (depth - 1) }

/-- Picture `n` of the newest of some units: what the standard reconstructs; a concealed sample is the co-located one of the substitute.
`at_` gives the picture of a place. -/
def RacePicture.picture (p : RacePicture) (codec : Nat) (units : List (List Byte)) (n : Nat) (at_ : Option (Nat × Nat) → Picture) :
    Picture :=
  let refs := p.refs.map at_
  if p.again then refs.headD (midGrey p.depth)
  else
    { sample := fun plane y x =>
        if Config.concealed codec units n plane y x then (at_ p.conceal).sample plane y x
        else Config.decodedSample codec units n (refs.map (fun r => (r.sample, r.motion))) plane y x % 2 ^ p.depth
      motion := Config.motionData codec units n (refs.map (·.motion)) }

/-- The picture of a place: among `now` where unit `n` holds it, else among those of the units before, newest first. -/
def pictureAt (n depth : Nat) (now : List Picture) (old : List (List Picture)) : Option (Nat × Nat) → Picture
  | none => midGrey depth
  | some (u, k) => ((if u = n then now else old.getD (n - 1 - u) [])[k]?).getD (midGrey depth)

/-- The pictures of some units, newest first. -/
def picturesOf (codec : Nat) : List RaceUnit → List (List Picture)
  | [] => []
  | u :: us =>
    let old := picturesOf codec us
    (numbered u.pics).foldl (fun now p => now ++
      [p.2.picture codec (u.bytes :: us.map (·.bytes)) p.1 (pictureAt us.length p.2.depth now old)]) [] :: old

/-- A unit of a stream, decoded. -/
structure UnitResult where
  unit    : Config.CodedUnit
  /-- No picture error (R308). -/
  ok      : Bool
  stream  : RaceStream
  missing : Nat := 0
  evicted : Nat := 0
  errors  : Nat := 0

/-- The bytes of the stream's units, newest first. -/
def RaceStream.units (x : RaceStream) : List (List Byte) := x.history.map (·.bytes)

/-- Decode the unit at the start of some bytes; `fits` says whether a picture's size may be decoded (R308). -/
def RaceStream.decode (x : RaceStream) (bs : List Byte) (fits : Nat → Nat → Bool) : UnitResult :=
  let codec := x.spec.codec
  let u := Config.codec.read codec x.units bs
  if !u.sound || u.frames = [] || u.frames.any (fun fr => !inSubset codec fr || !pictureSizeOk codec fr.width fr.height ||
      !fits fr.width fr.height) then
    { unit := u, ok := false, stream := x }
  else
    let d := u.frames.foldl (fun (d : Decoding) fr => d.frame codec x.history.length fr) { bufs := x.bufs }
    let y := { x with bufs := d.bufs, history := { bytes := bs.take u.bytes, pics := d.pics } :: x.history }
    { unit := u, ok := true, stream := y, missing := d.missing, evicted := d.evicted
      errors := ((List.range u.frames.length).map (fun n => Config.badUnits codec y.units n)).sum }

/-- The picture that a unit shows, or its last, with its place. -/
def UnitResult.picture (x : UnitResult) : Option (Nat × Config.Frame) :=
  match (numbered x.unit.frames).find? (fun y => y.2.shown) with
  | some y => some y
  | none => (numbered x.unit.frames).getLast?

/-- A sample of a picture as it is written: with its film grain (R293). -/
def UnitResult.sample (x : UnitResult) (n : Nat) (fr : Config.Frame) (plane y z : Nat) : Nat :=
  let codec := x.stream.spec.codec
  let v := ((((picturesOf codec x.stream.history).headD [])[n]?).getD (midGrey fr.depth)).sample plane y z
  if fr.grain then Config.filmGrain codec x.stream.units n plane y z v % 2 ^ fr.depth else v

/-! ## Written pictures (R300, R301) -/

/-- A sample of `n` bits widened to UN16 (R41). -/
def widen (n v : Nat) : Nat := v * 2 ^ (16 - n) + (if n = 8 then v else v / 2 ^ (2 * n - 16))

/-- The value that a sample is converted from. -/
def sampleValue (fmt : BitVec 8) (n v : Nat) : Num :=
  if fwCode fmt = 0xB then (if n = 8 then .fin false v 1 0 else .fin false (v * 255) 1023 0) else .fin false (widen n v) 65535 0

/-- Planes of a decoded picture: rows, columns, base and pitch, by the coded subsampling (R300). -/
def RaceSpec.planes (x : RaceSpec) (chroma w h pic : Nat) (rgb : Bool) : List (Nat × Nat × Nat × Nat) :=
  if chroma = 3 then [(h, w, pic, x.yPitch)]
  else
    let (ch, cw, cp) := if rgb then (h, w, x.yPitch) else (chromaH chroma h, chromaW chroma w, x.cPitch)
    [(h, w, pic, x.yPitch), (ch, cw, pic + x.p1, cp), (ch, cw, pic + x.p2, cp)]

/-- Write a decoded picture; its histogram record (R301). -/
def UnitResult.write (x : UnitResult) (a : Acc) (n : Nat) (fr : Config.Frame) (pic : Nat) : Run Hist :=
  let fmt := x.stream.spec.fmt
  (numbered (x.stream.spec.planes fr.chroma fr.width fr.height pic false)).foldlM (fun (h : Hist) pl =>
    (List.range pl.2.1).foldlM (fun (h : Hist) y => do
      let vs := (List.range pl.2.2.1).map (fun z => sampleValue fmt fr.depth (x.sample n fr pl.1 y z))
      let r := pureFlags (vs.mapM (fun v => encodeElem fmt v))
      modify (fun e => { e with flags := e.flags.or r.2 })
      writeV a (pl.2.2.2.1 + y * pl.2.2.2.2) (r.1.flatMap (fun c => natLe (elemBytes fmt) c))
      let h := vs.foldl (fun h v => h.add v false (fwCode fmt)) h
      return { h with flags := h.flags.or r.2 }) h) { format := fmt }

/-! ## Reports (R309) -/

/-- A Race report. -/
structure RaceReport where
  windowBits : Nat := 0
  missing    : Nat := 0
  qUsed      : Nat := 0
  attempts   : Nat := 0
  capMiss    : Bool := false
  written    : Bool := false
  shown      : Bool := false
  key        : Bool := false
  full       : Bool := false
  matrix     : Nat := 0
  depth      : Nat := 8
  errors     : Nat := 0
  bytes      : Nat := 0
  width      : Nat := 0
  height     : Nat := 0
  serial     : Nat := 0
  order      : Int := 0
  deriving DecidableEq, Repr

/-- The 32 bytes of a report. -/
def RaceReport.body (x : RaceReport) : List Byte :=
  natLe 4 (toTwos 32 x.order) ++ natLe 4 x.serial ++ natLe 2 x.height ++ natLe 2 x.width ++ natLe 4 x.bytes ++
  natLe 4 x.errors ++
  natLe 4 (x.depth % 16 * 4 + x.matrix * 2 ^ 6 + b2n x.full * 2 ^ 8 + b2n x.key * 2 ^ 9 + b2n x.shown * 2 ^ 10 +
    b2n x.written * 2 ^ 11 + b2n x.capMiss * 2 ^ 12 + x.attempts * 2 ^ 13 + x.qUsed * 2 ^ 16 + min 255 x.missing * 2 ^ 24) ++
  natLe 8 x.windowBits

/-! ## Streams (R296, R298) -/

/-- House and stream of a Race command. -/
def Desc.raceHouse (d : Desc) : Nat := d.op0 9 8
def Desc.raceStream (d : Desc) : Nat := d.op0 5 0
def Desc.startBit (d : Desc) : Bool := d.op0 31 31 == 1
def Desc.closeBit (d : Desc) : Bool := d.op0 30 30 == 1

/-- The checks of R296 in their order, and the opening of the stream. `encode`: the opcode's direction. -/
def State.enterRace (s : State) (f : Nat) (d : Desc) (encode : Bool) : Except Stop State × State :=
  let h := d.raceHouse
  let i := d.raceStream
  let x := s.rac h i
  let no (st : Status) (s : State) : Except Stop State × State := (.error { status := st }, s)
  if !s.owns (s.partOf f) h || (x.opened && x.owner != some f) then no .access s
  else if x.opened == d.startBit then no .state s
  else if !d.startBit then (if x.spec.encode != encode then no .state s else (.ok s, s))
  else
    let y := (readSV (raceAcc f h) (d.addr 0x10) 64).exec s
    match y.1 with
    | .error e => (.error e, y.2.s)
    | .ok bs =>
      let t := y.2.s
      if bitAt (word64At bs 0) 53 != encode then no .state t
      else
        match raceSpecOf bs with
        | none => no .malformed t
        | some spec =>
          if !spec.ok then no .malformed t
          else if !t.raceFits h spec then no .capacity t
          else (.ok (t.openRace h i f spec), t)

/-- A command of a stream after its checks: the stream closes after its picture if CLOSE = 1 (R296). -/
def State.raceCmd (s : State) (f r : Nat) (c : Running) (encode : Bool) (k : State → State) : State :=
  let d := c.desc
  let x := s.enterRace f d encode
  match x.1 with
  | .error e => if e.report.isSome || e.status = .deviceError then x.2.failRead f r e else x.2.fail f r e.status
  | .ok s => let t := k s; if d.closeBit then t.closeRace d.raceHouse d.raceStream else t

/-- End a Race command: its flags, its report, then the histogram record if one is due. -/
def State.raceOver (s : State) (f r : Nat) (st : Status) (fl : Flags) (rep : RaceReport) (hist : Option Hist)
    (fault : Option FaultRec) : State :=
  (s.addFlags f r fl).finishWith f r st (BitVec.ofNat 32 rep.bytes)
    ((0x05, rep.body) :: (match hist with | some h => if st.noHist then [] else [(0x01, h.bytes)] | none => [])) fault

/-- A Race command whose engine stopped: its report stands before the fault record (R309). -/
def State.raceStop (s : State) (f r : Nat) (rep : RaceReport) (e : Stop) (y : Eng) : State :=
  s.raceOver f r e.status y.flags rep none e.report

/-- Race works through the buffers of its house, and those of the media carve-out (R388, R392). -/
def raceBufs (h : Nat) : Run Unit := do
  meetBuf 2 h
  meetBuf 4 h

/-! ## RACE_DECODE (R308) -/

/-- Counters after a decoded unit (R309). -/
def RaceStream.count (x : RaceStream) (u : UnitResult) : RaceStream :=
  { x with cPictures := sat32 x.cPictures 1, cMissing := sat32 x.cMissing u.missing, cEvict := sat32 x.cEvict u.evicted
           cErrUnits := sat32 x.cErrUnits u.errors }

/-- May a picture be decoded into the buffers of a stream (R308)? -/
def State.decodable (s : State) (h : Nat) (x : RaceStream) (w y : Nat) : Bool :=
  w ≤ x.spec.maxW && y ≤ x.spec.maxH && (x.spec.refBufs == 0 || bufferNeed w y ≤ s.bufferBytes h)

/-- The report of a decoded unit; ORDER of a JPEG picture is 0 (R309). -/
def UnitResult.report (u : UnitResult) (serial : Nat) : RaceReport :=
  let rep : RaceReport := { bytes := u.unit.bytes, serial := serial, missing := u.missing, errors := u.errors }
  match u.picture with
  | none => rep
  | some (_, fr) => { rep with shown := fr.shown, key := fr.key, full := fr.full, matrix := fr.matrix.toNat, depth := fr.depth
                               width := fr.width, height := fr.height, order := if u.stream.spec.codec = 3 then 0 else fr.order }

/-- Decode one coded unit. -/
def State.raceDecode (s : State) (f r : Nat) (c : Running) : State :=
  s.raceCmd f r c false (fun s =>
    let d := c.desc
    let h := d.raceHouse
    let i := d.raceStream
    let a := raceAcc f h
    let y := (do raceBufs h; readV a (d.addr 0x20) (d.field 0x28 31 0) : Run (List Byte)).exec s
    match y.1 with
    | .error e => y.2.s.raceStop f r { serial := (s.rac h i).serial } (e.met y.2) y.2
    | .ok bs =>
      let s := y.2.s
      let x := s.rac h i
      let u := x.decode bs (s.decodable h x)
      let next (v : RaceStream) : RaceStream := { v with serial := x.serial + 1 }
      let rep := u.report x.serial
      if !u.ok then
        (s.setRac h i (next x)).raceOver f r (worse (if y.2.device then .deviceError else .ok) .dataError) {} rep none none
      else
        let s := s.setRac h i (next (u.stream.count u))
        let base := worse (if u.errors ≠ 0 then .dataError else if u.missing ≠ 0 then .refMissing else .ok)
          (if y.2.device then .deviceError else .ok)
        match u.picture with
        | none => s.raceOver f r base {} rep none none
        | some (n, fr) =>
          if !fr.shown then s.raceOver f r base {} rep none none
          else
            let z := (u.write a n fr (d.addr 0x18)).exec s
            match z.1 with
            | .error e => z.2.s.raceOver f r (worse (e.met z.2).status base) z.2.flags rep none e.report
            | .ok hist =>
              z.2.s.raceOver f r (worse z.2.status base) z.2.flags { rep with written := true } (some hist) none)

/-- RACE_DECODE (R308). -/
def execRaceDecode (f : FnId) (r : RingIx) (s : State) : Out := .next (s.runCmd f r .raceDecode (s.raceDecode f r)).settle

/-! ## Source samples (R302) -/

/-- Clamp an exact value to [0, 1]: SAT on a clamp; a NaN is 0 with INV. -/
def clampUnit (v : Num) : FM Num := do
  if v.isNan then do setInv; return numZero
  if v.neg? && !v.isZero then do setSat; return numZero
  if Num.cmp v (numOfInt 1) = 1 then do setSat; return numOfInt 1
  return v

/-- Nearest integer of a value that is not negative. -/
def rneNat : Num → Nat
  | .fin _ n d e => (toUnits n d e 0).1
  | _ => 0

/-- The value of a stored source element; a subnormal FP32 or BF16 code is read as zero and sets UFL (R19, R43). -/
def sourceValue (fmt : BitVec 8) (code : Nat) : FM Num := decodeElem (fwCode fmt) code

/-- A source element as a sample of `n` bits. -/
def sourceSample (fmt : BitVec 8) (n code : Nat) : FM Nat := do
  if fwCode fmt = 0xB then return (if n = 8 then code else code * 4 + code / 64)
  if fwCode fmt = 0xE then return (rneDiv (code * (2 ^ n - 1)) 65535).1
  let x ← clampUnit (← sourceValue fmt code)
  return rneNat (x.mul (numOfInt (2 ^ n - 1 : Nat)))

/-- An exact value rounded once to FP32, without a flag (R310). -/
def round32 (v : Num) : Num := fp32 ((toFp32 v).run {}).1

/-- A decimal constant in FP32. -/
def decimal32 (n d : Nat) : Num := round32 (.fin false n d 0)

/-- kr and kb of a matrix. -/
def lumaCoef (matrix : Nat) : Num × Num :=
  if matrix = 1 then (decimal32 299 1000, decimal32 114 1000)
  else if matrix = 2 then (decimal32 2126 10000, decimal32 722 10000)
  else (decimal32 2627 10000, decimal32 593 10000)

/-- An element of an R, G or B plane as x in [0, 1]. -/
def rgbValue (fmt : BitVec 8) (code : Nat) : FM Num := do
  if fwCode fmt = 0xB then return round32 (.fin false code 255 0)
  if fwCode fmt = 0xE then return round32 (.fin false code 65535 0)
  clampUnit (← sourceValue fmt code)

/-- Luma and both colour differences of a pixel (R302). -/
def rgbSample (matrix : Nat) (r g b : Num) : Num × Num × Num :=
  let (kr, kb) := lumaCoef matrix
  let kg := round32 (((numOfInt 1).sub kr).sub kb)
  let two := numOfInt 2
  let y := round32 (((kr.mul r).add (kg.mul g)).add (kb.mul b))
  (y, round32 ((b.sub y).div (two.sub (two.mul kb))), round32 ((r.sub y).div (two.sub (two.mul kr))))

/-- The mean of co-sited values, rounded once. -/
def coSited (vs : List Num) : Num := round32 ((vs.foldl Num.add numZero).div (numOfInt vs.length))

/-- Nearest even integer, clamped to n bits; SAT on a clamp. -/
def clampSample (n : Nat) (v : Num) : FM Nat := do
  if v.neg? && rneNat v ≠ 0 then do setSat; return 0
  if rneNat v > 2 ^ n - 1 then do setSat; return 2 ^ n - 1
  return if v.neg? then 0 else rneNat v

/-- A luma value, and a colour difference, as samples (R302). -/
def lumaSample (full : Bool) (n : Nat) (y : Num) : FM Nat :=
  clampSample n (if full then y.mul (numOfInt (2 ^ n - 1 : Nat))
    else ((y.mul (numOfInt 219)).add (numOfInt 16)).mul (numOfInt (2 ^ (n - 8) : Nat)))
def chromaSample (full : Bool) (n : Nat) (c : Num) : FM Nat :=
  clampSample n (if full then (c.mul (numOfInt (2 ^ n - 1 : Nat))).add (numOfInt (2 ^ (n - 1) : Nat))
    else ((c.mul (numOfInt 224)).add (numOfInt 128)).mul (numOfInt (2 ^ (n - 8) : Nat)))

/-- A plane of codes as memory holds it. -/
def readPlane (a : Acc) (fmt : BitVec 8) (pl : Nat × Nat × Nat × Nat) : Run (List (List Nat)) :=
  (List.range pl.1).mapM (fun y => do
    let bs ← readV a (pl.2.2.1 + y * pl.2.2.2) (elemBytes fmt * pl.2.1)
    return (List.range pl.2.1).map (fun z => leNat ((bs.drop (elemBytes fmt * z)).take (elemBytes fmt))))

/-- An entry of a table of rows. -/
def cellAt {α : Type} (o : α) (rows : List (List α)) (y z : Nat) : α := (rows.getD y []).getD z o

/-- Samples of an RGB source: its luma plane and both subsampled chroma planes. -/
def rgbPicture (x : RaceSpec) (n : Nat) (planes : List (List (List Nat))) : FM (List (List (List Nat))) := do
  let px ← (List.range x.height).mapM (fun y => (List.range x.width).mapM (fun z => do
    let v (k : Nat) : FM Num := rgbValue x.fmt (cellAt 0 (planes.getD k []) y z)
    let r ← v 0
    let g ← v 1
    let b ← v 2
    return rgbSample x.matrix r g b))
  let luma ← px.mapM (fun row => row.mapM (fun p => lumaSample x.fullRange n p.1))
  let sy := if x.chroma = 0 then 2 else 1
  let sx := if x.chroma ≤ 1 then 2 else 1
  let sub (pick : Num × Num × Num → Num) : FM (List (List Nat)) :=
    (List.range (chromaH x.chroma x.height)).mapM (fun y => (List.range (chromaW x.chroma x.width)).mapM (fun z =>
      let sites := (upFrom (y * sy) (min sy (x.height - y * sy))).flatMap (fun i =>
        (upFrom (z * sx) (min sx (x.width - z * sx))).map (fun j => pick (cellAt (numZero, numZero, numZero) px i j)))
      chromaSample x.fullRange n (coSited sites)))
  let cb ← sub (·.2.1)
  let cr ← sub (·.2.2)
  return [luma, cb, cr]

/-- Read the samples of a source picture (R300, R302). -/
def RaceSpec.source (x : RaceSpec) (a : Acc) (pic : Nat) : Run (List (List (List Nat))) := do
  let n := if x.tenBit then 10 else 8
  let planes ← (x.planes x.chroma x.width x.height pic x.inRgb).mapM (readPlane a x.fmt)
  if x.inRgb then withFlags (rgbPicture x n planes)
  else withFlags (planes.mapM (fun pl => pl.mapM (fun row => row.mapM (fun code => sourceSample x.fmt n code))))

/-! ## RACE_ENCODE (R311, R312) -/

/-- The quantisers to try, in order. -/
def RaceSpec.quantisers (x : RaceSpec) : List Nat :=
  ((List.range 4).map (fun a => min (qMax x.codec) (x.quality + a * x.qStep)) ++ [qMax x.codec]).eraseDups

/-- Bits that the window leaves for a picture (R311). -/
def RaceStream.budget (x : RaceStream) : Int := (x.spec.capBits : Int) - ((x.bits.take (x.spec.capWindow - 1)).sum : Nat)

/-- The attempts at a picture: the unit, its quantiser, the attempts made, and whether the budget was missed. -/
def attempts (code : Nat → List Byte) (cap : Bool) (budget : Int) : List Nat → Nat → List Byte × Nat × Nat × Bool
  | [], n => ([], 0, n, true)
  | [q], n => let out := code q; (out, q, n + 1, cap && decide (budget < 8 * out.length))
  | q :: qs, n =>
    let out := code q
    if !cap || decide ((8 * out.length : Int) ≤ budget) then (out, q, n + 1, false) else attempts code cap budget qs (n + 1)

/-- The marks of an encode stream after a written picture: the most recent pictures stay marked (R306). -/
def RaceStream.keepRecent (x : RaceStream) (n : Nat) (order : Int) : List RefBuf :=
  match (numbered x.bufs).find? (fun b => !b.2.marked) with
  | none => x.bufs
  | some (i, _) => (x.bufs.set i { marked := x.spec.meRefs != 0, order := order, unit := n }).map
      (fun b => { b with marked := b.marked && n < b.unit + x.spec.meRefs })

/-- Is the coming picture a key picture (R295)? -/
def RaceStream.keyNext (x : RaceStream) : Bool :=
  x.spec.codec != 3 && (x.serial == 0 || (x.spec.gopLen != 0 && x.serial % x.spec.gopLen == 0))

/-! ## Quantisation tables (R311) -/

/-- The example quantisation tables of T.81 Annex K, row by row: luma, then chroma. PRESUMED: as that standard prints them. -/
def annexK : List (List Nat) :=
  [[16, 11, 10, 16, 24, 40, 51, 61, 12, 12, 14, 19, 26, 58, 60, 55, 14, 13, 16, 24, 40, 57, 69, 56, 14, 17, 22, 29, 51, 87, 80, 62,
    18, 22, 37, 56, 68, 109, 103, 77, 24, 35, 55, 64, 81, 104, 113, 92, 49, 64, 78, 87, 103, 121, 120, 101, 72, 92, 95, 98, 112, 100,
    103, 99],
   [17, 18, 24, 47] ++ List.replicate 4 99 ++ [18, 21, 26, 66] ++ List.replicate 4 99 ++ [24, 26, 56] ++ List.replicate 5 99 ++
   [47, 66] ++ List.replicate 38 99]

/-- A quantiser entry of index `i` from an example entry `b`. -/
def scaledEntry (i b : Nat) : Nat :=
  let q := 100 - i
  let s := if q < 50 then 5000 / q else 200 - 2 * q
  max 1 (min 255 ((b * s + 50) / 100))

/-! ## Motion search (R313) -/

/-- A luma sample of a picture, the nearest inside it for a place outside. PRESUMED: the edge extension of both codecs. -/
def edgeSample (w h : Nat) (p : Picture) (y x : Int) : Nat :=
  p.sample 0 (min (max y 0) ((h : Int) - 1)).toNat (min (max x 0) ((w : Int) - 1)).toNat

/-- The window of a reference round block (by_, bx): 320 rows from 128 above, 576 columns from 256 to the left; 0 outside it. -/
def searchWindow (w h : Nat) (p : Picture) (by_ bx : Nat) (y x : Int) : Nat :=
  if -128 ≤ y ∧ y < 192 ∧ -256 ≤ x ∧ x < 320 then edgeSample w h p (64 * by_ + y) (64 * bx + x) else 0

/-- A vector in quarter samples, rows first, held to ±128 rows and ±256 columns. -/
def inWindow (v : Int × Int) : Int × Int := (min 512 (max (-512) v.1), min 1024 (max (-1024) v.2))

/-- The references that the coming picture of an encode stream searches: the pictures that stay marked, newest first. -/
def RaceStream.searched (x : RaceStream) : List RefBuf :=
  if x.keyNext || x.spec.codec = 3 then [] else sortBy (fun a b => decide (a.unit > b.unit)) (x.bufs.filter (·.marked))

/-- The vectors of a picture: for each 64 × 64 block, row by row, for each reference. -/
def RaceStream.vectors (x : RaceStream) (rev : BitVec 16) (luma : List (List Nat)) (q : Nat) : List (List (Int × Int)) :=
  let sp := x.spec
  let pics := picturesOf sp.codec x.history
  (List.range (ceilDiv sp.height 64)).flatMap (fun by_ => (List.range (ceilDiv sp.width 64)).flatMap (fun bx =>
    x.searched.map (fun b =>
      let ref := pictureAt x.history.length (if sp.tenBit then 10 else 8) [] pics (some b.place)
      (Config.chosenVectors rev sp.image q (fun y z => cellAt 0 luma (64 * by_ + y) (64 * bx + z))
        (searchWindow sp.width sp.height ref by_ bx)).map inWindow)))

/-! ## What the tailrace writes (R295) -/

/-- AV1 tile columns: the largest power of two that is at most 8 and at most the superblock columns in fours. -/
def tileColumns (w : Nat) : Nat :=
  let n := ceilDiv w 256
  if 8 ≤ n then 8 else if 4 ≤ n then 4 else if 2 ≤ n then 2 else 1

/-- The coming picture of an encode stream at a quantiser index: its headers and structure. -/
def RaceStream.coding (x : RaceStream) (rev : BitVec 16) (q : Nat) : Config.Coding :=
  let sp := x.spec
  let jpeg := sp.codec == 3
  let open_ := Config.encodedFrame rev sp.image x.units
  let key := x.keyNext
  { codec := sp.codec, quantiser := q, tables := if jpeg then annexK.map (·.map (scaledEntry q)) else [], block := if jpeg then 8 else 64
    tileColumns := if sp.codec = 1 then tileColumns sp.width else 1, wavefront := sp.codec == 2, deblocking := !jpeg
    cdef := sp.codec == 1, sao := sp.codec == 2, headers := x.serial == 0 || key
    restart := if jpeg then ceilDiv sp.width (if sp.chroma ≤ 1 then 16 else 8) else 0, colour := sp.matrix
    frame := { open_ with
      width := sp.width, height := sp.height, depth := if sp.tenBit then 10 else 8, chroma := sp.chroma, outside := false
      profile := if sp.codec = 2 then (if sp.tenBit then 2 else 1) else 0, level := min 186 open_.level
      matrix := BitVec.ofNat 2 sp.matrix, full := sp.fullRange, key := key, shown := true, again := false, grain := false
      order := if jpeg then 0 else open_.order
      refs := if x.searched = [] then [] else if sp.codec = 2 then x.searched.map (·.order) else open_.refs } }

/-- The coded unit of a picture at a quantiser index: it depends on the specification, the pictures given to the stream since START and
the encoder's revision alone (R315). -/
def RaceStream.code (x : RaceStream) (rev : BitVec 16) (planes : List (List (List Nat))) (pic : List Byte) (q : Nat) : List Byte :=
  Config.codec.write (x.coding rev q) (x.vectors rev (planes.headD []) q)
    (Config.choices rev x.spec.image (x.history.map (·.source)) pic q) x.units

/-- Encode one picture. -/
def State.raceEncode (s : State) (f r : Nat) (c : Running) : State :=
  s.raceCmd f r c true (fun s =>
    let d := c.desc
    let h := d.raceHouse
    let i := d.raceStream
    let a := raceAcc f h
    let x := s.rac h i
    let y := (do raceBufs h; x.spec.source a (d.addr 0x18) : Run (List (List (List Nat)))).exec s
    match y.1 with
    | .error e => y.2.s.raceStop f r { serial := x.serial } (e.met y.2) y.2
    | .ok planes =>
      let s := y.2.s
      let pic := planes.flatMap (fun pl => pl.flatMap (fun row => row.flatMap (fun v => natLe 2 v)))
      let rev := Config.encRev s.fw.version
      let cap := x.spec.capBits ≠ 0
      let (out, q, n, miss) := attempts (x.code rev planes pic) cap x.budget x.spec.quantisers 0
      let order := (x.coding rev q).frame.order
      let rep : RaceReport :=
        { attempts := n, key := x.keyNext, full := x.spec.fullRange, matrix := x.spec.matrix
          depth := if x.spec.tenBit then 10 else 8, width := x.spec.width, height := x.spec.height, serial := x.serial, order := order }
      let len := d.field 0x28 31 0
      if len < out.length then
        let fr := s.freeBytes len
        let z := (writeV a (d.addr 0x20) fr.1).exec fr.2
        let fw := z.2.s.freeWord
        let rep := { rep with windowBits := (x.bits.take x.spec.capWindow).sum, bytes := fw.1.toNat
                              qUsed := (Config.freeByte fw.2.freeCount).toNat }
        match z.1 with
        | .error e => fw.2.tick.raceOver f r (worse (e.met z.2).status (worse y.2.status .range)) y.2.flags rep none e.report
        | .ok _ => fw.2.tick.raceOver f r (worse y.2.status .range) y.2.flags rep none none
      else
        let z := (writePieces a out (pieces (d.addr 0x20) out.length) 0).exec s
        match z.1 with
        | .error e => z.2.s.raceStop f r { rep with qUsed := q } e y.2
        | .ok (n, some e) =>
          z.2.s.raceOver f r (worse (e.met z.2).status y.2.status) y.2.flags { rep with bytes := n, qUsed := q } none e.report
        | .ok (_, none) =>
          let bits := 8 * out.length :: x.bits
          let next : RaceStream :=
            { x with serial := x.serial + 1, bits := bits
                     history := { bytes := out, source := pic
                                  pics := [{ depth := if x.spec.tenBit then 10 else 8, refs := x.searched.map (fun b => some b.place) }] }
                       :: x.history
                     bufs := x.keepRecent x.history.length order
                     cPictures := sat32 x.cPictures 1, cCapMiss := if miss then sat32 x.cCapMiss 1 else x.cCapMiss }
          let rep := { rep with windowBits := (bits.take x.spec.capWindow).sum, qUsed := q, capMiss := miss, written := true
                                bytes := out.length }
          (z.2.s.setRac h i next).raceOver f r y.2.status y.2.flags rep none none)

/-- RACE_ENCODE (R311). -/
def execRaceEncode (f : FnId) (r : RingIx) (s : State) : Out := .next (s.runCmd f r .raceEncode (s.raceEncode f r)).settle

end Sys2Proof.Machine
end

