-- ==== Sys2Proof/Machine/Hopper.lean ====
section
/-! DEFINITION. The Hopper: ingest streams, shards, sample order, samples, batches (R272 to R291, R316, R381). -/
namespace Sys2Proof.Machine

/-! ## Ingest specifications (R273) -/

/-- The 256-byte specification; none if a reserved bit is set. -/
def ingestOf (bs : List Byte) : Option Ingest :=
  let w (i : Nat) : Word64 := word64At bs (8 * i)
  let c (o : Nat) : Word32 := readConst (word32At bs o)
  if fld (w 0) 63 40 ≠ 0 || fld (w 0) 23 20 ≠ 0 || fld (w 0) 7 0 ≠ 0 || fld (w 2) 63 48 ≠ 0 || fld (w 3) 42 41 ≠ 0 ||
     fld (w 4) 23 0 ≠ 0 || fld (w 8) 39 32 ≠ 0 || fld (w 13) 27 16 ≠ 0 || fld (w 14) 63 48 ≠ 0 || fld (w 15) 31 0 ≠ 0 ||
     [16, 17, 18, 19].any (fun i => fld (w i) 63 48 != 0) || (bs.drop 0xA8).any (· != 0) then none
  else some
    { fmtImg := BitVec.ofNat 8 (fld (w 0) 39 32), fmtCond := BitVec.ofNat 8 (fld (w 0) 31 24), matrix := fld (w 0) 19 18
      range := fld (w 0) 17 16, colour := fld (w 0) 15 14, shuffle := bitAt (w 0) 13, autoEpoch := bitAt (w 0) 12
      truncate := bitAt (w 0) 11, random := bitAt (w 0) 10, bos := bitAt (w 0) 9, eos := bitAt (w 0) 8, seed := w 1
      shardList := fld (w 2) 47 0, n := fld (w 3) 40 0, shards := fld (w 3) 63 43, startPos := fld (w 4) 63 24
      deadline := fld (w 5) 15 0, batch := fld (w 5) 31 16, startEpoch := BitVec.ofNat 32 (fld (w 5) 63 32)
      oh := fld (w 6) 63 48, ow := fld (w 6) 47 32, ch := fld (w 6) 31 16, cw := fld (w 6) 15 0, minH := fld (w 7) 63 48
      minW := fld (w 7) 47 32, maxH := fld (w 7) 31 16, maxW := fld (w 7) 15 0, stageUnits := fld (w 8) 15 0
      flipP := fld (w 8) 31 16, frameStride := fld (w 8) 47 40, frames := fld (w 8) 63 48
      mean := [c 0x48, c 0x4C, c 0x50], scale := [c 0x54, c 0x58, c 0x5C]
      captionMax := fld (w 12) 15 0, unkId := fld (w 12) 33 16, padId := fld (w 12) 51 34, t := fld (w 12) 63 52
      replaceMax := fld (w 13) 15 0, eosId := fld (w 13) 45 28, bosId := fld (w 13) 63 46, dict := fld (w 14) 47 0
      condElems := fld (w 15) 63 32, outImg := fld (w 16) 47 0, outTok := fld (w 17) 47 0, outCond := fld (w 18) 47 0
      outMeta := fld (w 19) 47 0, batchWrap := fld (w 20) 15 0, batchPitch := fld (w 20) 63 16 }

/-- Is a normalisation constant subnormal (R482)? -/
def ingestSmall (bs : List Byte) : Bool := (List.range 6).any (fun i => isSubnormal (word32At bs (0x48 + 4 * i)))

/-- Channels of the image tensor (R282). -/
def Ingest.chans (x : Ingest) : Nat := if x.colour = 2 then 1 else 3

/-- Frames that a sample gives. -/
def Ingest.pictures (x : Ingest) : Nat := if x.frames = 0 then 1 else x.frames

/-- Bytes of one slot in the image, token, conditioning and record regions (R282). -/
def Ingest.slotBytes (x : Ingest) : List Nat :=
  [x.pictures * x.chans * x.oh * x.ow * elemBytes x.fmtImg, x.t * 4, x.condElems * elemBytes x.fmtCond, 16]

/-- R273. -/
def Ingest.ok (x : Ingest) : Bool :=
  let ci := fwCode x.fmtImg
  let cc := fwCode x.fmtCond
  [x.shardList, x.dict, x.outImg, x.outTok, x.outCond, x.outMeta].all (fun b => aligned b 64) &&
  fmtOk .dest false x.fmtImg && !(fwMx x.fmtImg) && [1, 3, 4, 5, 6, 0xA, 0xB, 0xE].contains ci &&
  fmtOk .dest false x.fmtCond && !(fwMx x.fmtCond) && [8, 16, 32].contains (storageBits cc) && cc != 0xF &&
  1 ≤ x.batch && x.batch ≤ 4096 && 1 ≤ x.oh && 1 ≤ x.ow && x.ch ≤ x.minH && x.cw ≤ x.minW && x.minH ≤ x.maxH &&
  x.minW ≤ x.maxW && 32 ≤ x.stageUnits && 1 ≤ x.n && x.n ≤ 2 ^ 40 && x.startPos < x.n && 1 ≤ x.shards && x.shards ≤ 2 ^ 20 &&
  x.range != 3 && x.colour != 3 && (x.frames == 0 || 1 ≤ x.frameStride) &&
  x.slotBytes.all (fun n => n * x.batch ≤ x.batchPitch)

/-! ## Shard lists and dictionaries at START (R276, R277, R280) -/

/-- A shard list entry: base and FIRST; none if a reserved bit is set. -/
def shardEntryOf (bs : List Byte) : Option (Nat × Nat) :=
  if fld (word64At bs 0) 63 48 ≠ 0 || fld (word64At bs 8) 63 40 ≠ 0 then none
  else some (fld (word64At bs 0) 47 0, fld (word64At bs 8) 39 0)

/-- R276, R277 on the entries from number `i`: FIRST after the entry before. -/
def checkShards (a : Acc) (x : Ingest) : Nat → Nat → Option Nat → Run Bool
  | 0, _, prev => return (match prev with | some p => p < x.n | none => false)
  | k + 1, i, prev => do
    let bs ← readSV a (x.shardList + 16 * i) 16
    match shardEntryOf bs with
    | none => return false
    | some (_, first) =>
      if (match prev with | none => first == 0 | some p => p < first) then checkShards a x k (i + 1) (some first)
      else return false

/-- A dictionary entry: token, length, address of its string. -/
def dictEntry (a : Acc) (dict i : Nat) : Run (Nat × Nat × Nat) := do
  let w := word64At (← readSV a (dict + 16 + 8 * i) 8) 0
  return (fld w 63 46, fld w 45 40 + 1, dict + fld w 39 0)

/-- Entries of the dictionary; none where its header breaks R280. -/
def dictCount (a : Acc) (dict : Nat) : Run (Option Nat) := do
  let bs ← readSV a dict 16
  let n := fld (word64At bs 0) 18 0
  return if fld (word64At bs 0) 63 19 ≠ 0 || word64At bs 8 ≠ 0 || n = 0 || n > 262144 then none else some n

/-- Unsigned byte order of strings. -/
def bytesBefore : List Byte → List Byte → Bool
  | [], [] => false
  | [], _ :: _ => true
  | _ :: _, [] => false
  | x :: xs, y :: ys => if x.toNat < y.toNat then true else if x = y then bytesBefore xs ys else false

/-- Do the strings of the entries from number `i` lie in the pool, from offset `pool` on, and ascend, no string twice (R280)? -/
def checkDict (a : Acc) (dict pool : Nat) : Nat → Nat → Option (List Byte) → Run Bool
  | 0, _, _ => return true
  | k + 1, i, prev => do
    let e ← dictEntry a dict i
    if e.2.2 < dict + pool then return false
    let bs ← readSV a e.2.2 e.2.1
    if (match prev with | none => true | some p => bytesBefore p bs) then checkDict a dict pool k (i + 1) (some bs) else return false

/-- The checks of the shard list and of the dictionary (R277). -/
def checkIngest (a : Acc) (x : Ingest) : Run Bool := do
  let shards ← checkShards a x x.shards 0 none
  if !shards then return false
  match ← dictCount a x.dict with
  | none => return false
  | some n => checkDict a x.dict (16 + 8 * n) n 0 none

/-! ## Sample order (R281) -/

/-- Rounds `k` onwards of the Feistel network on halves of `h` bits. -/
def feistelRounds (seed : Word64) (e h : Nat) : Nat → Nat → Nat → Nat → Nat × Nat
  | 0, _, l, r => (l, r)
  | m + 1, k, l, r =>
    let w := ((philox seed (counterOf r k e 0)).headD 0).toNat
    feistelRounds seed e h m (k + 1) r (l ^^^ (w % 2 ^ h))

def feistel (seed : Word64) (e h x : Nat) : Nat :=
  let y := feistelRounds seed e h 8 0 (x / 2 ^ h) (x % 2 ^ h)
  y.1 * 2 ^ h + y.2

/-- Cycle walking: on until the value lies below `n`. -/
def cycleWalk (seed : Word64) (e h n : Nat) : Nat → Nat → Nat
  | 0, x => x
  | k + 1, x => if x < n then x else cycleWalk seed e h n k (feistel seed e h x)

/-- π(i) of an epoch. -/
def Ingest.order (x : Ingest) (e : Word32) (i : Nat) : Nat :=
  if !x.shuffle then i
  else
    let h := max 1 ((ceilLog2 x.n + 1) / 2)
    cycleWalk x.seed e.toNat h x.n (2 ^ (2 * h)) (feistel x.seed e.toNat h i)

/-- The random words of the sample of record `g`. -/
def Ingest.words (x : Ingest) (e : Word32) (g : Nat) : List Nat :=
  (philox x.seed (counterOf (g % 2 ^ 32) (g / 2 ^ 32) e.toNat 1)).map BitVec.toNat

/-- ⌊w × n ÷ 2^32⌋. -/
def scaledDraw (w n : Nat) : Nat := w * n / 2 ^ 32

/-! ## Records (R276, R278, R279) -/

/-- Why a position is skipped (R286). -/
inductive Skip where | index | bounds | crc | decode | deadline
  deriving DecidableEq, Repr

/-- A record or the reason for which it cannot be had. -/
abbrev Built := ExceptT Skip Run

def skipFor {α : Type} (c : Skip) : Built α := throw c
def keepIf (ok : Bool) (c : Skip) : Built Unit := if ok then pure () else skipFor c

/-- The entry of the shard list whose FIRST is the largest that does not exceed `g`, between entries `lo` and `hi`. -/
def findShard (a : Acc) (x : Ingest) (g : Nat) : Nat → Nat → Nat → Run (Option (Nat × Nat))
  | 0, lo, _ => do
    let bs ← readSV a (x.shardList + 16 * lo) 16
    return shardEntryOf bs
  | k + 1, lo, hi => do
    if hi ≤ lo + 1 then findShard a x g 0 lo hi
    else
      let mid := (lo + hi) / 2
      let bs ← readSV a (x.shardList + 16 * mid) 16
      if fld (word64At bs 8) 39 0 ≤ g then findShard a x g k mid hi else findShard a x g k lo mid

/-- One section of a record. -/
structure Sect where
  kind    : Nat
  coding  : Nat
  count   : Nat
  payload : List Byte
  deriving DecidableEq, Repr

/-- Is a section header free of reserved bits, with COUNT and CODING 0 where its kind has none (R279)? -/
def sectOk (h : List Byte) : Bool :=
  let a := word64At h 0
  let b := word64At h 8
  let kind := fld a 63 56
  fld a 47 32 == 0 && fld b 63 32 == 0 && (kind == 2 || kind == 4 || fld b 31 0 == 0) && (kind != 3 || fld a 55 48 == 0)

/-- The sections of a record's body; none where one breaks off or has a reserved bit. -/
def sectsOf : Nat → List Byte → Option (List Sect)
  | 0, _ => some []
  | n + 1, bs =>
    let len := fld (word64At bs 0) 31 0
    if bs.length < 16 || !sectOk bs || bs.length < 16 + len then none
    else do
      let rest ← sectsOf n (bs.drop (16 + ceilDiv len 16 * 16))
      return { kind := fld (word64At bs 0) 63 56, coding := fld (word64At bs 0) 55 48, count := fld (word64At bs 8) 31 0
               payload := (bs.drop 16).take len } :: rest

/-- A record as read. -/
structure Rec where
  g     : Nat
  key   : Word64
  sects : List Sect
  crcOk : Bool
  deriving DecidableEq, Repr

/-- The first section of a kind. -/
def Rec.sect (x : Rec) (kind : Nat) : Option Sect := x.sects.find? (fun s => s.kind == kind)

/-- Read the record at position `i` of an epoch; INDEX and the first of the BOUNDS causes (R286). -/
def readRecord (a : Acc) (x : Ingest) (e : Word32) (i : Nat) : Built Rec := do
  let g := x.order e i
  let some (base, first) ← (findShard a x g 21 0 x.shards : Run _) | skipFor .bounds
  let h ← (readV a base 64 : Run _)
  let records := (word64At h 8).toNat
  keepIf (word32At h 0 == 0x4853_5253 && fld (word64At h 0) 47 32 == 1 && word32At h 0x3C == crc32c (h.take 0x3C)) .index
  keepIf (g - first < records) .index
  let en ← (readV a (base + (word64At h 0x10).toNat + 16 * (g - first)) 16 : Run _)
  keepIf (word32At en 0xC == crc32c (en.take 0xC)) .index
  let off := fld (word64At en 0) 47 0
  let len := (word32At en 8).toNat
  keepIf (off + len ≤ (word64At h 0x18).toNat) .index
  keepIf (len ≤ x.stageUnits * 32768) .bounds
  keepIf (fld (word64At h 0) 63 48 == 0 && ((h.drop 0x20).take 28).all (· == 0) && fld (word64At en 0) 63 48 == 0) .bounds
  keepIf (20 ≤ len) .bounds
  let bs ← (readV a (base + off) len : Run _)
  let b := word64At bs 8
  keepIf (fld b 63 48 == 0 && fld b 31 0 == 0 && 1 ≤ fld b 47 32 && fld b 47 32 ≤ 16) .bounds
  match sectsOf (fld b 47 32) ((bs.take (len - 4)).drop 16) with
  | none => skipFor .bounds
  | some ss => return { g := g, key := word64At bs 0, sects := ss, crcOk := word32At bs (len - 4) == crc32c (bs.take (len - 4)) }

/-! ## Captions (R284) -/

/-- Bytes of a character by its lead byte. PRESUMED: the lead bytes of UTF-8. -/
def utf8Len (b : Byte) : Nat :=
  let n := b.toNat
  if n < 0xC2 then 1 else if n < 0xE0 then 2 else if n < 0xF0 then 3 else if n < 0xF5 then 4 else 1

/-- The longest dictionary string at the start of a text: token and length. -/
def longest (dict : List (Nat × List Byte)) (text : List Byte) : Option (Nat × Nat) :=
  dict.foldl (fun (best : Option (Nat × Nat)) d =>
    if d.2.isPrefixOf text && (match best with | some b => b.2 < d.2.length | none => true) then some (d.1, d.2.length) else best) none

/-- Tokens of a text; `fuel` bounds the characters. -/
def tokensOf (dict : List (Nat × List Byte)) (unk : Nat) : Nat → List Byte → List Nat
  | 0, _ => []
  | _ + 1, [] => []
  | k + 1, c :: text =>
    match longest dict (c :: text) with
    | some (t, n) => t :: tokensOf dict unk k ((c :: text).drop n)
    | none => unk :: tokensOf dict unk k ((c :: text).drop (utf8Len c))

/-- Tokens of a caption before padding, and whether it was truncated; none out of bounds. -/
def Ingest.tokenise (x : Ingest) (dict : List (Nat × List Byte)) (text : List Byte) : Option (List Nat × Bool) :=
  let out := (if x.bos then [x.bosId] else []) ++ tokensOf dict x.unkId text.length text
  let room := x.t - b2n x.eos
  let cut := room < out.length
  if cut && !x.truncate then none else some (out.take room ++ (if x.eos then [x.eosId] else []), cut)

/-- The dictionary as it stands. -/
def readDict (a : Acc) (dict : Nat) : Run (List (Nat × List Byte)) := do
  let n := (← dictCount a dict).getD 0
  (List.range n).mapM (fun i => do
    let e ← dictEntry a dict i
    let bs ← readSV a e.2.2 e.2.1
    return (e.1, bs))

/-! ## Pictures (R283, R285) -/

/-- Units that a payload holds, decoded one after another from the start, until `want` pictures are shown. Newest first: the
unit, and the picture it shows. -/
def decodeUnits (fits : Nat → Nat → Bool) : Nat → RaceStream → List Byte → Nat → List UnitResult
  | 0, _, _, _ => []
  | fuel + 1, x, bs, want =>
    if want = 0 || bs = [] then []
    else
      let u := x.decode bs fits
      if !u.ok || u.unit.bytes = 0 then [u]
      else u :: decodeUnits fits fuel u.stream (bs.drop u.unit.bytes) (want - (if u.unit.frames.any (·.shown) then 1 else 0))

/-- Pictures that units show, in decoding order. -/
def shownOf (us : List UnitResult) : List (UnitResult × Nat × Config.Frame) :=
  us.filterMap (fun u => match u.picture with | some (n, fr) => if fr.shown then some (u, n, fr) else none | none => none)

/-- What a sample's picture comes from: the units decoded, and the pictures wanted, by their place among those shown. -/
structure Source where
  units : List UnitResult
  want  : List Nat

/-- The pictures of a source; none where one is not shown. -/
def Source.pictures (x : Source) : Option (List (UnitResult × Nat × Config.Frame)) :=
  x.want.mapM (fun k => (shownOf x.units)[k]?)

/-- The picture section of a sample: a JPEG picture, or a video of which the frames of R283 are wanted. -/
def Ingest.source (x : Ingest) (fits : Nat → Nat → Bool) (words : List Nat) (s : Sect) : Source :=
  if x.frames = 0 then
    { units := decodeUnits fits 1 { spec := { codec := 3 } } s.payload 1, want := [0] }
  else
    let span := (x.frames - 1) * x.frameStride
    let f0 := if x.random then scaledDraw (words.getD 3 0) (s.count - span) else 0
    { units := decodeUnits fits s.payload.length { spec := { codec := s.coding }, bufs := List.replicate 9 {} } s.payload (f0 + span + 1)
      want := (List.range x.frames).map (fun q => f0 + q * x.frameStride) }

/-- Coefficients a_R, g_B, g_R, a_B of a matrix. -/
def colourCoefs (matrix : Nat) : Num × Num × Num × Num :=
  let c (neg : Bool) (n : Nat) : Num := round32 (.fin neg n 1000000 0)
  if matrix = 1 then (c false 1402000, c true 344136, c true 714136, c false 1772000)
  else if matrix = 3 then (c false 1474600, c true 164553, c true 571353, c false 1881400)
  else (c false 1574800, c true 187324, c true 468124, c false 1855600)

/-- An exact quotient rounded once. -/
def quotient32 (v : Num) : FM Num := do
  let w ← toFp32 v
  return fp32 w

/-- a × b + c on FP32 values, rounded once. -/
def fma32 (a b c : Num) : FM Num := do
  let w ← fpRound [a, b, c] ((a.mul b).add c)
  return fp32 w

/-- Clamp to [0, 1], with no flag. -/
def unitClamp (v : Num) : Num := if v.neg? then numZero else if Num.cmp v (numOfInt 1) = 1 then numOfInt 1 else v

/-- The channel values of one pixel from its samples of `n` bits (R285 step 2). -/
def Ingest.colours (x : Ingest) (matrix : Nat) (full : Bool) (n y cb cr : Nat) : FM (List Num) := do
  if x.colour = 0 then [y, cb, cr].mapM (fun v => quotient32 (.fin false (widen n v) 65535 0))
  else
    let luma (v : Nat) : FM Num := quotient32 ((numOfInt ((v : Int) - (if full then 0 else 16 * 2 ^ (n - 8)))).div
      (numOfInt (if full then 2 ^ n - 1 else 219 * 2 ^ (n - 8) : Nat)))
    let diff (v : Nat) : FM Num := quotient32 ((numOfInt ((v : Int) - (2 ^ (n - 1) : Nat))).div
      (numOfInt (if full then 2 ^ n - 1 else 224 * 2 ^ (n - 8) : Nat)))
    let p ← luma y
    if x.colour = 2 then return [unitClamp p]
    let (aR, gB, gR, aB) := colourCoefs matrix
    let u ← diff cb
    let v ← diff cr
    let r ← fma32 aR v p
    let b ← fma32 aB u p
    let g0 ← fma32 gB u p
    let g ← fma32 gR v g0
    return [r, g, b].map unitClamp

/-- A decoded picture, with the matrix and range that apply to it. -/
structure Shot where
  u      : UnitResult
  place  : Nat
  fr     : Config.Frame
  matrix : Nat
  full   : Bool

/-- Matrix and range of a picture (R285): as signalled, or as the specification says. -/
def Ingest.shot (x : Ingest) (p : UnitResult × Nat × Config.Frame) : Shot :=
  let jpeg := p.1.stream.spec.codec == 3
  let signalled := if jpeg then 1 else if p.2.2.matrix.toNat = 0 then 2 else p.2.2.matrix.toNat
  { u := p.1, place := p.2.1, fr := p.2.2, matrix := if x.matrix = 0 then signalled else x.matrix
    full := if x.range = 0 then jpeg || p.2.2.full else x.range == 2 }

/-- The channel values of pixel (y, z): each chroma sample covers its luma samples. -/
def Ingest.pixel (x : Ingest) (k : Shot) (y z : Nat) : FM (List Num) :=
  let c := k.fr.chroma
  let cy := if c = 0 then y / 2 else y
  let cz := if c ≤ 1 then z / 2 else z
  x.colours k.matrix k.full k.fr.depth (k.u.sample k.place k.fr 0 y z) (k.u.sample k.place k.fr 1 cy cz)
    (k.u.sample k.place k.fr 2 cy cz)

/-- The box of a sample: rows, columns, origin (R285 step 3). -/
def Ingest.box (x : Ingest) (words : List Nat) (ih iw : Nat) : Nat × Nat × Nat × Nat :=
  if x.ch = 0 || x.cw = 0 then (ih, iw, 0, 0)
  else if x.random then
    (x.ch, x.cw, scaledDraw (words.getD 0 0) (ih - x.ch + 1), scaledDraw (words.getD 1 0) (iw - x.cw + 1))
  else (x.ch, x.cw, (ih - x.ch) / 2, (iw - x.cw) / 2)

/-- One output element of channel `c`: the resampled value of a column (R285 steps 4 and 5). -/
def Ingest.element (x : Ingest) (k : Shot) (box : Nat × Nat × Nat × Nat) (c oy ox : Nat) : FM Lane := do
  let one := numOfInt 1
  let sy ← samplePos (numOfInt box.2.2.1) (numOfInt (box.2.2.1 + box.1 - 1 : Nat)) oy x.oh
  let sx ← samplePos (numOfInt box.2.2.2) (numOfInt (box.2.2.2 + box.2.1 - 1 : Nat)) ox x.ow
  let fy := sy.sub (numOfInt sy.floor)
  let fx := sx.sub (numOfInt sx.floor)
  let corners : List (Nat × Nat × Num) :=
    [(0, 0, (one.sub fy).mul (one.sub fx)), (0, 1, (one.sub fy).mul fx), (1, 0, fy.mul (one.sub fx)), (1, 1, fy.mul fx)]
  let terms ← (corners.filter (fun w => !w.2.2.isZero)).mapM (fun w => do
    let vs ← x.pixel k (sy.floor.toNat + w.1) (sx.floor.toNat + w.2.1)
    let e := vs.getD c numZero
    return (e, w.2.2.mul e))
  let v ← fpRound (terms.map (·.1)) ((terms.map (·.2)).foldl Num.add numZero)
  let d ← laneSub v (x.mean.getD c 0)
  laneMul d.1 (x.scale.getD c 0)

/-- Is the picture of a sample flipped? -/
def Ingest.flipped (x : Ingest) (words : List Nat) : Bool := x.random && words.getD 2 0 % 65536 < x.flipP

/-- Codes of the elements of a picture, channel by channel, row by row, and its histogram (R285). -/
def Ingest.picture (x : Ingest) (k : Shot) (box : Nat × Nat × Nat × Nat) (flip : Bool) (h : Hist) : FM (List Nat × Hist) :=
  (List.range x.chans).foldlM (fun (acc : List Nat × Hist) c =>
    (List.range x.oh).foldlM (fun (acc : List Nat × Hist) oy =>
      (List.range x.ow).foldlM (fun (acc : List Nat × Hist) ox => do
        let y ← x.element k box c oy (if flip then x.ow - 1 - ox else ox)
        let v := fp32 y.1
        let b ← encodeElem x.fmtImg v
        return (acc.1 ++ [b], acc.2.add v y.2 (fwCode x.fmtImg))) acc) acc) ([], h)

/-! ## Building a sample (R286) -/

/-- A sample whose bounds and check have been tested. -/
structure Sample where
  rec_   : Rec
  words  : List Nat
  source : Source
  tokens : List Nat
  trunc  : Bool
  cond   : List Nat
  coding : BitVec 8

/-- May Race decode a picture for the Hopper: a video picture must fit a buffer (R308, R316)? -/
def State.hopperFits (s : State) (h : Nat) (x : Ingest) (w y : Nat) : Bool := x.frames == 0 || bufferNeed w y ≤ s.bufferBytes h

/-- Element codes of a packed row. -/
def rowCodes (bits n : Nat) (bs : List Byte) : List Nat := (List.range n).map (fun j => rowElem (fun i => bs.getD i 0) bits j)

/-- The BOUNDS causes of the picture section (R286). -/
def Ingest.pictureOk (x : Ingest) (words : List Nat) (src : Source) : Bool :=
  (src.pictures.getD []).all (fun p =>
    let fr := p.2.2
    let box := x.box words ((src.pictures.getD []).head?.elim 0 (fun q => q.2.2.height))
      ((src.pictures.getD []).head?.elim 0 (fun q => q.2.2.width))
    x.minH ≤ fr.height && fr.height ≤ x.maxH && x.minW ≤ fr.width && fr.width ≤ x.maxW &&
    box.2.2.1 + box.1 ≤ fr.height && box.2.2.2 + box.2.1 ≤ fr.width)

/-- Read a record and test it: INDEX, BOUNDS, CRC, and for what needs no reference buffer, DECODE, in the order of R286. -/
def buildSample (a : Acc) (x : Ingest) (fits : Nat → Nat → Bool) (e : Word32) (i : Nat) : Built Sample := do
  let r ← readRecord a x e i
  let words := x.words e r.g
  let some pic := r.sect (if x.frames = 0 then 1 else 2) | skipFor .bounds
  keepIf (x.frames == 0 || (x.frames - 1) * x.frameStride + 1 ≤ pic.count) .bounds
  let src := x.source fits words pic
  keepIf (x.pictureOk words src) .bounds
  let (tokens, trunc) ← (do
    if x.t = 0 then return ([], false)
    let some text := r.sect 3 | skipFor .bounds
    keepIf (text.payload.length ≤ x.captionMax) .bounds
    let dict ← (readDict a x.dict : Run _)
    match x.tokenise dict text.payload with
    | some y => return y
    | none => skipFor .bounds : Built (List Nat × Bool))
  let (cond, coding) ← (do
    if x.condElems = 0 then return ([], 0)
    let some t := r.sect 4 | skipFor .bounds
    let fmt : BitVec 8 := BitVec.ofNat 8 t.coding
    keepIf (t.count == x.condElems && fmtOk .other false fmt && convertible fmt x.fmtCond &&
      rowBytes (storageBits (fwCode fmt)) t.count ≤ t.payload.length) .bounds
    return (rowCodes (storageBits (fwCode fmt)) t.count t.payload, fmt) : Built (List Nat × BitVec 8))
  keepIf r.crcOk .crc
  keepIf ((if x.frames = 0 then pic.coding == 1 else pic.coding == 1 || pic.coding == 2) &&
    src.pictures.isSome && src.units.all (fun u => u.ok && u.errors == 0 && u.missing == 0)) .decode
  return { rec_ := r, words := words, source := src, tokens := tokens, trunc := trunc, cond := cond, coding := coding }

/-! ## Writing a slot (R282, R288) -/

/-- Base of slot `k` of region `n` in batch `j`. -/
def Ingest.slotAt (x : Ingest) (j n k : Nat) : Nat :=
  [x.outImg, x.outTok, x.outCond, x.outMeta].getD n 0 + (if x.batchWrap = 0 then j else j % x.batchWrap) * x.batchPitch +
    k * x.slotBytes.getD n 0

/-- Codes as bytes of a format. -/
def codeBytes (fmt : BitVec 8) (codes : List Nat) : List Byte := codes.flatMap (fun c => natLe (elemBytes fmt) c)

/-- Write a slot's four parts. -/
def Ingest.writeSlot (x : Ingest) (a : Acc) (j k : Nat) (img cond : List Nat) (tokens : List Nat) (record : List Byte) : Run Unit := do
  writeV a (x.slotAt j 0 k) (codeBytes x.fmtImg img)
  writeV a (x.slotAt j 1 k) ((tokens ++ List.replicate (x.t - tokens.length) x.padId).flatMap (natLe 4))
  writeV a (x.slotAt j 2 k) (codeBytes x.fmtCond cond)
  writeV a (x.slotAt j 3 k) record

/-- Convert the conditioning elements (R285). -/
def Ingest.condition (x : Ingest) (coding : BitVec 8) (codes : List Nat) (h : Hist) : FM (List Nat × Hist) :=
  codes.foldlM (fun (acc : List Nat × Hist) c => do
    let y ← convertCode coding x.fmtCond c acc.2
    return (acc.1 ++ [y.1], y.2)) ([], h)

/-- Write a sample into slot `j.slot` of batch `serial`. -/
def Ingest.deliver (x : Ingest) (a : Acc) (serial : Nat) (j : HopperJob) (m : Sample) : Run HopperJob := do
  let shots := (m.source.pictures.getD []).map x.shot
  let box := match shots.head? with | some k => x.box m.words k.fr.height k.fr.width | none => (0, 0, 0, 0)
  let flip := x.flipped m.words
  let img := pureFlags (shots.foldlM (fun (acc : List Nat × Hist) k => do
    let y ← x.picture k box flip acc.2
    return (acc.1 ++ y.1, y.2)) ([], j.imgHist))
  let cond := pureFlags (x.condition m.coding m.cond j.condHist)
  let record := natLe 8 (1 + b2n m.trunc * 4 + b2n flip * 8 + min 255 j.skips * 16 + m.tokens.length * 2 ^ 12 + m.rec_.g * 2 ^ 24) ++
    natLe 8 m.rec_.key.toNat
  x.writeSlot a serial j.slot img.1.1 cond.1.1 m.tokens record
  return { j with slot := j.slot + 1, skips := 0, pos := j.pos + 1, phase := .idle, truncated := j.truncated + b2n m.trunc
                  imgHist := { img.1.2 with flags := img.1.2.flags.or img.2 }
                  condHist := { cond.1.2 with flags := cond.1.2.flags.or cond.2 }
                  flags := (j.flags.or img.2).or cond.2 }

/-- Write an invalid slot (R288). -/
def Ingest.blank (x : Ingest) (a : Acc) (serial k : Nat) : Run Unit :=
  x.writeSlot a serial k (List.replicate (x.pictures * x.chans * x.oh * x.ow) 0) (List.replicate x.condElems 0) [] (List.replicate 16 0)

/-! ## The batch (R287 to R290) -/

/-- REPLACE_MAX: 0 means 65,535. -/
def Ingest.replaceLimit (x : Ingest) : Nat := if x.replaceMax = 0 then 65535 else x.replaceMax

/-- A position is skipped for a cause; the stream counts it too. -/
def HopperJob.skip (j : HopperJob) (c : Skip) : HopperJob :=
  let j := { j with skips := j.skips + 1, total := j.total + 1, pos := j.pos + 1, phase := .idle }
  match c with
  | .index => { j with index := j.index + 1 }
  | .bounds => { j with bounds := j.bounds + 1 }
  | .crc => { j with crc := j.crc + 1 }
  | .decode => { j with decode := j.decode + 1 }
  | .deadline => { j with deadline := j.deadline + 1 }

def HopperStream.skip (x : HopperStream) (c : Skip) : HopperStream :=
  match c with
  | .index => { x with cIndex := sat32 x.cIndex 1 }
  | .bounds => { x with cBounds := sat32 x.cBounds 1 }
  | .crc => { x with cCrc := sat32 x.cCrc 1 }
  | .decode => { x with cDecode := sat32 x.cDecode 1 }
  | .deadline => { x with cDeadline := sat32 x.cDeadline 1 }

/-- The 32 bytes of a batch report. -/
def HopperJob.report (j : HopperJob) (serial : Word32) (endEpoch : Word32) (endPos : Nat) (epochEnd : Bool) : List Byte :=
  natLe 8 (endPos * 2 ^ 23) ++ natLe 4 serial.toNat ++ natLe 4 endEpoch.toNat ++ natLe 2 j.bounds ++ natLe 2 j.decode ++
  natLe 2 j.crc ++ natLe 2 j.slot ++ natLe 2 (b2n epochEnd) ++ natLe 2 j.truncated ++ natLe 2 j.index ++ natLe 2 j.deadline

/-- The side records of a batch: its report, then a histogram record of each tensor (R290). -/
def HopperJob.records (j : HopperJob) (st : Status) (report : List Byte) : List (Nat × List Byte) :=
  (0x04, report) :: (if st.noHist then [] else [(0x01, j.imgHist.bytes), (0x01, j.condHist.bytes)])

/-- A batch that an engine's stop ends: its records so far stand before the fault record, the cursor stays where it was, the stream
closes if it is to (R272). -/
def State.batchStop (s : State) (f r : Nat) (j : HopperJob) (e : Stop) : State :=
  let st := s.hop j.house j.stream
  let e := if j.device then { e with status := worse e.status .deviceError } else e
  let s := (s.addFlags f r j.flags).freeVideo j
  let s := if j.close then s.closeHopper j.house j.stream else s
  s.stopped f r e (j.records e.status (j.report st.serial st.epoch st.pos false)) (some st.serial)

/-- The Hopper works through the buffers of its house, and those of the media carve-out (R388, R392). -/
def hopperBufs (h : Nat) : Run Unit := do
  meetBuf 1 h
  meetBuf 4 h

/-- The batch is over: its unfilled slots are invalid, the cursor moves, the stream closes if it is to, the command completes. -/
def State.batchOver (s : State) (f r : Nat) (j : HopperJob) : State :=
  let st := s.hop j.house j.stream
  let x := st.spec
  let a := hopperAcc f j.house
  let y := ((upFrom j.slot (x.batch - j.slot)).forM (fun k => x.blank a st.serial.toNat k)).exec s
  let s := y.2.s
  let ended := x.n ≤ j.pos
  let next := if ended && x.autoEpoch then (j.epoch + 1, 0) else (j.epoch, j.pos)
  match y.1 with
  | .error e => s.batchStop f r j (e.met y.2)
  | .ok _ =>
    let s := s.addFlags f r j.flags
    let status := worse (worse (if j.device || y.2.device then .deviceError else .ok) (if x.replaceLimit ≤ j.total then .dataError else .ok))
      (worse (if 0 < j.total then .replaced else .ok)
        (match s.running f r with | some c => c.flags.status | none => .ok))
    let s := s.setHop j.house j.stream { st with epoch := next.1, pos := next.2, serial := st.serial + 1 }
    let s := if j.close then s.closeHopper j.house j.stream else s
    s.finishWith f r status st.serial (j.records status (j.report st.serial next.1 next.2 ended))

/-- The job of a batch, with what a step left of it. -/
def State.putJob (s : State) (f r : Nat) (j : HopperJob) : State := s.modRunning f r (fun c => { c with wait := .hopper j })

/-- Reference buffers of a house that no stream has claimed, and those of them that no video sample holds (R316). -/
def State.unclaimed (s : State) (h : Nat) : Nat := 32 - s.claimed h
def State.freeVideoBufs (s : State) (h : Nat) : Nat := s.unclaimed h - (s.house h).hopperBufs

/-- A video sample takes its reference buffers and starts decoding. -/
def State.takeVideo (s : State) (f r : Nat) (j : HopperJob) : State :=
  (s.setHouse j.house { s.house j.house with hopperBufs := (s.house j.house).hopperBufs + 9 }).putJob f r { j with phase := .decoding }

/-- A position is skipped; buffers it held are free. -/
def State.skipSample (s : State) (f r : Nat) (j : HopperJob) (c : Skip) : State × HopperJob :=
  let s := s.freeVideo j
  let k := j.skip c
  ((s.setHop j.house j.stream ((s.hop j.house j.stream).skip c)).putJob f r k, k)

/-- Positions one after another until the batch is over, a deadline's clock starts, or a video sample waits or decodes. -/
def State.batchRun (f r : Nat) : Nat → State → HopperJob → State
  | 0, s, _ => s
  | fuel + 1, s, j =>
    let st := s.hop j.house j.stream
    let x := st.spec
    if x.batch ≤ j.slot || x.n ≤ j.pos || x.replaceLimit ≤ j.total then s.batchOver f r j
    else if x.deadline ≠ 0 && j.phase = .idle then s.putJob f r { j with phase := .issued }
    else
      let a := hopperAcc f j.house
      let y := (do hopperBufs j.house; (buildSample a x (s.hopperFits j.house x) j.epoch j.pos).run : Run (Except Skip Sample)).exec s
      let s := y.2.s
      let j := { j with device := j.device || y.2.device }
      match y.1 with
      | .error e => s.batchStop f r j e
      | .ok (.error c) => let z := s.skipSample f r j c; State.batchRun f r fuel z.1 z.2
      | .ok (.ok m) =>
        if x.frames ≠ 0 && j.phase ≠ .decoding then
          if s.unclaimed j.house < 9 then let z := s.skipSample f r j .decode; State.batchRun f r fuel z.1 z.2
          else if s.freeVideoBufs j.house < 9 then s.putJob f r { j with phase := .waiting }
          else s.takeVideo f r j
        else
          let s := s.freeVideo j
          let z := (x.deliver a st.serial.toNat j m).exec s
          match z.1 with
          | .error e => z.2.s.batchStop f r { j with phase := .idle } (e.met z.2)
          | .ok k =>
            let s := if m.trunc then z.2.s.setHop j.house j.stream
                { z.2.s.hop j.house j.stream with cTrunc := sat32 (z.2.s.hop j.house j.stream).cTrunc 1 } else z.2.s
            State.batchRun f r fuel (s.putJob f r k) k

/-- Positions that a batch can consume: its slots and its skips. -/
def batchFuel : Nat := 4096 + 65535 + 1

/-! ## HOPPER_BATCH (R272, R275, R289) -/

/-- House and stream of a batch. -/
def Desc.hopHouse (d : Desc) : Nat := d.op0 5 4
def Desc.hopStream (d : Desc) : Nat := d.op0 3 0

/-- Does another command run a batch of a stream (R275)? -/
def State.hopperBusy (s : State) (h i : Nat) : Bool :=
  s.fns.any (fun fn => (List.range 16).any (fun r => match s.running fn.1 r with
    | some c => (match c.wait with | .hopper j => j.house == h && j.stream == i | _ => false)
    | none => false))

/-- The checks of R272 and the opening of a stream; flags of its constants. -/
def State.enterHopper (s : State) (f : Nat) (d : Desc) : Except Stop (State × Flags) × State :=
  let h := d.hopHouse
  let i := d.hopStream
  let x := s.hop h i
  let no (st : Status) (s : State) : Except Stop (State × Flags) × State := (.error { status := st }, s)
  if !s.owns (s.partOf f) h || (x.opened && x.owner != some f) then no .access s
  else if x.opened == d.startBit then no .state s
  else if !d.startBit then (.ok (s, {}), s)
  else
    let a := hopperAcc f h
    let y := (do
      let bs ← readSV a (d.addr 0x10) 256
      match ingestOf bs with
      | none => halt .malformed
      | some x =>
        if !x.ok then halt .malformed
        let good ← checkIngest a x
        if !good then halt .malformed
        return (x, ingestSmall bs) : Run (Ingest × Bool)).exec s
    match y.1 with
    | .error e => (.error e, y.2.s)
    | .ok (spec, small) =>
      let t := y.2.s
      if t.mediaFree h < spec.stageUnits then no .capacity t
      else
        (.ok ((t.setHop h i { line := (t.hop h i).line, opened := true, owner := some f, spec := spec, epoch := spec.startEpoch, pos := spec.startPos
                              claim := spec.stageUnits }).claimMedia h spec.stageUnits, { ufl := small }), t)

/-- The job of a batch at its start. -/
def HopperStream.job (x : HopperStream) (h i : Nat) (close : Bool) (fl : Flags) : HopperJob :=
  { house := h, stream := i, close := close, epoch := x.epoch, pos := x.pos, flags := fl
    imgHist := { format := x.spec.fmtImg }, condHist := { tensor := 1, format := x.spec.fmtCond } }

/-- The batches of a stream's owner that wait for it and still run nothing else, in arrival order (R275). -/
def State.hopLine (s : State) (h i : Nat) : List (Nat × Nat × Word32) :=
  let x := s.hop h i
  x.line.filter (fun k => x.owner == some k.1 && (match s.running k.1 k.2.1 with
    | some c => c.seq == k.2.2 && c.wait == .none && c.done.isNone
    | none => false))

/-- Must a batch wait: while its stream runs one, or others arrived before it (R275)? -/
def State.batchWaits (s : State) (f r : Nat) (c : Running) (h i : Nat) : Bool :=
  (s.hop h i).owner == some f && (s.hopperBusy h i || (s.hopLine h i).head?.any (fun k => k != (f, r, c.seq)))

/-- A batch after its checks: what it does first is `k`, on the job of its start. -/
def State.hopperCmd (s : State) (f r : Nat) (c : Running) (k : State → HopperJob → State) : State :=
  let d := c.desc
  let h := d.hopHouse
  let i := d.hopStream
  let me := (f, r, c.seq)
  let line := s.hopLine h i
  if s.batchWaits f r c h i then s.setHop h i { s.hop h i with line := if line.contains me then line else line ++ [me] }
  else
    let s := s.setHop h i { s.hop h i with line := line.filter (· != me) }
    let x := s.enterHopper f d
    match x.1 with
    | .error e => if e.report.isSome || e.status = .deviceError then x.2.failRead f r e else x.2.fail f r e.status
    | .ok (s, fl) =>
      let st := s.hop h i
      if st.spec.n ≤ st.pos then
        if d.closeBit then (s.closeHopper h i).finish f r .ok st.serial else s.fail f r .state
      else
        let j := st.job h i d.closeBit fl
        k (s.putJob f r j) j

/-- A batch starts. -/
def State.hopperStart (s : State) (f r : Nat) (c : Running) : State := s.hopperCmd f r c (State.batchRun f r batchFuel)

/-- The batch that a ring runs. -/
def State.jobOf (s : State) (f r : Nat) : Option HopperJob :=
  match s.running f r with
  | some c => (match c.wait with | .hopper j => some j | _ => none)
  | none => none

/-- HOPPER_BATCH (R272): a batch starts, or goes on after a pause of its sample. -/
def execHopperBatch (f : FnId) (r : RingIx) (s : State) : Out :=
  .next (match s.jobOf f r with
    | some j => State.batchRun f r batchFuel s j
    | none => s.runCmd f r .hopperBatch (s.hopperStart f r)).settle

/-! ## Deadlines and waits (R287, R316) -/

/-- A sample is incomplete when its deadline passes. -/
def State.sampleLate (s : State) (f r : Nat) : State :=
  match s.jobOf f r with
  | none => s
  | some j =>
    if (s.hop j.house j.stream).spec.deadline = 0 || j.phase = .idle then s
    else let z := s.skipSample f r j .deadline; State.batchRun f r batchFuel z.1 z.2

/-- SAMPLE_DEADLINE (R287). -/
def execSampleDeadline (f : FnId) (r : RingIx) (s : State) : Out := .next (s.sampleLate f r).settle

/-- A waiting video sample takes 9 buffers, if so many are free. -/
def State.sampleTakes (s : State) (f r : Nat) : State :=
  match s.jobOf f r with
  | none => s
  | some j => if j.phase = .waiting && 9 ≤ s.freeVideoBufs j.house then s.takeVideo f r j else s

/-- SAMPLE_BUFFERS_TAKEN (R316). -/
def execSampleBuffersTaken (f : FnId) (r : RingIx) (s : State) : Out := .next (s.sampleTakes f r).settle

/-! ## Host reads that time out (R337) -/

/-- The engine of a running command that reads host memory at an address, by the command (R354): a SIGNAL that adds and a WAIT read
their word, COPY and FILL their shape record, a COPY its source, Hopper and Race what they work on. -/
def State.hostReader (s : State) (f r : Nat) (c : Running) (va : Nat) : Option Acc :=
  let d := c.desc
  let word := va / 8 == d.addr 0x10 / 8
  let shape := d.shape ≤ va && va < d.shape + 80
  let data (h : Nat) : Acc := { f := f, engine := 2, unit := h, host := true, remote := true }
  match opcodeOf d.opcode, c.wait with
  | some .signal, .none => if d.op0 0 0 = 1 && word then some (ringAcc f r) else none
  | some .wait, .none => if word then some (ringAcc f r) else none
  | some .wait, .word _ => if word then some (ringAcc f r) else none
  | some .fill, .none => if shape then some (ringAcc f r) else none
  | some .copy, .none =>
    if d.ringEn then none else if shape then some (ringAcc f r) else some (data (s.copyHome f d.dst18 (some d.src10)))
  | some .copy, .staging h _ => some (data h)
  | some .hopperBatch, .none => some (hopperAcc f d.hopHouse)
  | some .hopperBatch, .hopper j => some (hopperAcc f j.house)
  | some .raceDecode, .none => some (raceAcc f d.raceHouse)
  | some .raceEncode, .none => some (raceAcc f d.raceHouse)
  | _, _ => none

/-- A running command ends at its host read: as the first read of a command that has not begun, after its checks. -/
def State.readEnds (s : State) (f r : Nat) (c : Running) (e : Stop) : State :=
  let rep (s : State) : RaceReport := { serial := (s.rac c.desc.raceHouse c.desc.raceStream).serial }
  match c.wait with
  | .hopper j => s.batchStop f r j e
  | .word last => s.stopped f r e [] (some (last.setWidth 32))
  | .none =>
    match opcodeOf c.desc.opcode with
    | some .hopperBatch => s.hopperCmd f r c (fun s j => s.batchStop f r j e)
    | some .raceDecode => s.raceCmd f r c false (fun s => s.raceStop f r (rep s) e { s := s })
    | some .raceEncode => s.raceCmd f r c true (fun s => s.raceStop f r (rep s) e { s := s })
    | _ => s.stopped f r e
  | _ => s.stopped f r e

/-- A read of host memory for the running command of a ring has timed out: the command completes with DATA_ERROR and a fault record. An
address that its function's tables lead elsewhere, or that the command does not read, is read for no one. -/
def State.readTimedOut (s : State) (f r : Nat) (va : BitVec 48) : State :=
  match s.running f r with
  | none => s
  | some c =>
    match if c.done.isSome then none else s.hostReader f r c va.toNat with
    | none => s
    | some a =>
      match s.leads a false va.toNat with
      | some (.host _) => (s.setAer f aerTimeout).readEnds f r c { status := .dataError, report := some (a.fault 6 va.toNat) }
      | _ => s

/-- COMPLETION_TIMEOUT (R337). -/
def execCompletionTimeout (f : FnId) (r : RingIx) (address : BitVec 48) (s : State) : Out :=
  .next (s.readTimedOut f r address).settle

end Sys2Proof.Machine
end

