-- ==== Sys2Proof/Machine/RingPages.lean ====
section
/-! DEFINITION. Function page sets: ring control pages, doorbells, MSI-X tables (R335, R339 to R358). -/
namespace Sys2Proof.Machine

/-- A write to the ring control page of a function is rejected (R340, R341). -/
def State.rejectRing (s : State) (f : Nat) : State := s.setFn f { s.fn f with wrej := true }

/-! ## Submission rings (R340 to R343, R348, R349) -/

/-- SQ_BASE (R340). -/
def State.writeSqBase (s : State) (f r : Nat) (v : Word64) : State :=
  let q := s.sq f r
  if q.state ≠ .disabled then s.rejectRing f else s.setSq f r { q with base := BitVec.ofNat 36 (fld v 47 12) }

/-- A ring begins to stop: with nothing running it is DISABLED at once (R343). -/
def State.stopRing (s : State) (f r : Nat) : State :=
  let q := s.sq f r
  s.setSq f r { q with enable := false, state := if q.running.isNone then .disabled else .stopping }

/-- SQ_CFG as a word (R341). -/
def SubRing.cfg (q : SubRing) : Nat :=
  q.cq.toNat + q.log2.toNat * 2 ^ 16 + b2n q.overshot * 2 ^ 29 + b2n q.haltOnErr * 2 ^ 30 + b2n q.enable * 2 ^ 31

/-- SQ_CFG written while the ring is DISABLED (R341, R343). -/
def State.writeSqCfgOff (s : State) (f r v : Nat) : State :=
  let q := s.sq f r
  let q := { q with haltOnErr := v.testBit 30, overshot := v.testBit 29, log2 := BitVec.ofNat 5 (bitsOf v 20 16),
                    cq := BitVec.ofNat 4 (bitsOf v 3 0) }
  if v.testBit 31 then
    if q.log2.toNat < 4 || q.log2.toNat > 15 || !(s.cq f q.cq.toNat).enable || !s.tenant f then s.rejectRing f
    else
      (s.setSq f r { q with enable := true, state := .running, head := 0, tail := 0, seqNext := 0 }).evalWeir
        (.sq (fnId f) (ringIx r))
  else s.setSq f r q

/-- SQ_CFG written while the ring is not DISABLED: only ENABLE and HALT_ON_ERROR change (R341, R343). -/
def State.writeSqCfgOn (s : State) (f r v : Nat) : State :=
  let q := s.sq f r
  let other := v.testBit 29 != q.overshot || bitsOf v 20 16 != q.log2.toNat || bitsOf v 3 0 != q.cq.toNat ||
    (q.state == .stopping && v.testBit 31)
  let s := s.setSq f r { q with haltOnErr := v.testBit 30 }
  let s := if other then s.rejectRing f else s
  if q.state ≠ .stopping && !v.testBit 31 then s.stopRing f r else s

/-- SQ_CFG (R341). -/
def State.writeSqCfg (s : State) (f r v : Nat) : State :=
  if (s.sq f r).state = .disabled then s.writeSqCfgOff f r v else s.writeSqCfgOn f r v

/-- ABORT (R349). -/
def State.abortRing (s : State) (f r : Nat) : State :=
  match (s.sq f r).state with
  | .running => (s.stopRing f r).endCommand f r .aborted
  | .halted => (s.stopRing f r).endCommand f r .aborted
  | _ => s

/-- RESUME (R348). -/
def State.resumeRing (s : State) (f r : Nat) : State :=
  let q := s.sq f r
  if q.state = .halted then s.setSq f r { q with state := .running } else s.rejectRing f

/-- SQ_CTRL: ABORT wins over RESUME (R349). -/
def State.writeSqCtrl (s : State) (f r v : Nat) : State :=
  if v.testBit 0 then s.abortRing f r else if v.testBit 1 then s.resumeRing f r else s

/-! ## Completion rings (R340, R351) -/

/-- CQ_BASE (R340). -/
def State.writeCqBase (s : State) (f c : Nat) (v : Word64) : State :=
  let q := s.cq f c
  if q.state ≠ .disabled then s.rejectRing f else s.setCq f c { q with base := BitVec.ofNat 36 (fld v 47 12) }

/-- Does an enabled submission ring name the completion ring? -/
def State.cqNamed (s : State) (f c : Nat) : Bool :=
  (List.range 16).any (fun r => (s.sq f r).enable && (s.sq f r).cq.toNat == c)

/-- CQ_CFG (R351). A VF that is no tenant enables no ring (R333). A FAULTED ring may be cleared though halted submission rings name
it, as its recovery asks (R353). -/
def State.writeCqCfg (s : State) (f c : Nat) (v : Word64) : State :=
  let q := s.cq f c
  let q' := { q with timer := BitVec.ofNat 10 (fld v 41 32), countTh := BitVec.ofNat 8 (fld v 15 8),
                     vector := BitVec.ofNat 4 (fld v 3 0) }
  if q.state = .disabled then
    let q' := { q' with log2 := BitVec.ofNat 5 (fld v 20 16) }
    if bitAt v 31 && !s.tenant f then s.rejectRing f
    else if bitAt v 31 then
      (s.setCq f c { q' with enable := true, state := .running, head := 0, tail := 0, mod := .armed }).evalWeir
        (.cq (fnId f) (ringIx c))
    else s.setCq f c q'
  else if bitAt v 31 then s.setCq f c q'
  else if q.state = .running ∧ s.cqNamed f c then s.rejectRing f
  else s.setCq f c { q' with enable := false, state := .disabled }

/-! ## Doorbells (R346) -/

/-- SQ_TAIL. -/
def State.ringTail (s : State) (f r : Nat) (v : BitVec 16) : State :=
  let q := s.sq f r
  if q.state = .disabled then s
  else if (v - q.head).toNat ≤ q.entries then (s.setSq f r { q with tail := v }).evalWeir (.sq (fnId f) (ringIx r))
  else (s.setSq f r { q with dbErr := true }).notice f .doorbell

/-- CQ_HEAD, with REARM (R346, R356). -/
def State.ringHead (s : State) (f c : Nat) (v : BitVec 16) (rearm : Bool) : State :=
  let q := s.cq f c
  if q.state = .disabled then s
  else if (v - q.head).toNat ≤ q.used then
    let q := { q with head := v }
    let m := if rearm then q.onRearm else (q, false)
    let s := (s.setCq f c m.1).evalWeir (.cq (fnId f) (ringIx c))
    if m.2 then s.message f q.vector.toNat else s
  else (s.setCq f c { q with dbErr := true }).notice f .doorbell

/-- A 32-bit write to a doorbell; any other size is ignored. -/
def State.writeDoorbell (s : State) (f off v : Nat) : State :=
  let d := off / 0x100
  if off % 0x100 = 0 then s.ringTail f d (BitVec.ofNat 16 v)
  else if off % 0x100 = 8 then s.ringHead f d (BitVec.ofNat 16 v) (v.testBit 16)
  else s

/-! ## Weir registers (R189, R190) -/

/-- WEIR_LEVEL: a write that leaves LOW above HIGH is ignored. -/
def State.writeWeirLevel (s : State) (id : WeirId) (v : Nat) : State :=
  let hi := bitsOf v 31 16
  let lo := bitsOf v 15 0
  if lo > hi then s
  else (s.setWeir id { s.weir id with high := BitVec.ofNat 16 hi, low := BitVec.ofNat 16 lo }).evalWeir id

/-- WEIR_STAT: CROSSED clears, NOTIFY and FALLING are set, CCLR clears COUNT; a change of FALLING is a step. -/
def State.writeWeirStat (s : State) (id : WeirId) (v : Nat) : State :=
  let w := s.weir id
  let w' := { w with crossed := w.crossed && !v.testBit 30, notify := v.testBit 29, falling := v.testBit 28,
                     count := if v.testBit 27 then 0 else w.count }
  let s := s.setWeir id w'
  if w'.falling != w.falling then s.evalWeir id else s

/-! ## MSI-X (R355) -/

/-- An unmasked vector whose pending bit is set sends its message. -/
def State.flushVector (s : State) (f v : Nat) : State :=
  let x := s.fn f
  if x.pending.toNat.testBit v && x.msixEn && !x.fnMask && !(s.vec f v).masked && !x.d3hot && !x.resetting then
    let s := s.setFn f { x with pending := x.pending &&& ~~~((1 : BitVec 17) <<< v) }
    { s with msgs := { f := f, v := v, addr := (s.vec f v).addr, data := (s.vec f v).data } :: s.msgs }
  else s

/-- Every vector. -/
def State.flushVectors (s : State) (f : Nat) : State := (List.range 17).foldl (fun s v => s.flushVector f v) s

/-- One 32-bit word of the MSI-X table. -/
def State.writeMsixWord (s : State) (f off v : Nat) : State :=
  let n := off / 16
  if n ≥ 17 then s
  else
    let x := s.vec f n
    let y : Vector32 := match off % 16 / 4 with
      | 0 => { x with addr := BitVec.ofNat 64 (x.addr.toNat / 2 ^ 32 * 2 ^ 32 + v % 2 ^ 32) }
      | 1 => { x with addr := BitVec.ofNat 64 (x.addr.toNat % 2 ^ 32 + v % 2 ^ 32 * 2 ^ 32) }
      | 2 => { x with data := BitVec.ofNat 32 v }
      | _ => { x with masked := v.testBit 0 }
    (s.setFn f { s.fn f with msix := Table.put {} (s.fn f).msix n y }).flushVector f n

/-- MSI-X Message Control: MSI-X Enable is bit 15, Function Mask bit 14. -/
def State.writeMsixControl (s : State) (f v : Nat) : State :=
  (s.setFn f { s.fn f with msixEn := v.testBit 15, fnMask := v.testBit 14 }).flushVectors f

/-! ## Device Control and AER (R332), as PCIe lays them out -/

/-- Device Control: Max Payload Size in [7:5], up to 512 bytes, Max Read Request Size in [14:12]; codes beyond R332 are not taken. -/
def State.writeDeviceControl (s : State) (f v : Nat) : State :=
  let x := s.fn f
  let p := bitsOf v 7 5
  let r := bitsOf v 14 12
  s.setFn f { x with maxPayload := if p ≤ 2 then BitVec.ofNat 3 p else x.maxPayload,
                     maxRead := if r ≤ 5 then BitVec.ofNat 3 r else x.maxRead }

/-- AER Uncorrectable Error Status: writing 1 clears. -/
def State.writeAer (s : State) (f v : Nat) : State :=
  s.setFn f { s.fn f with aer := (s.fn f).aer &&& ~~~(BitVec.ofNat 32 v) }

/-! ## The page set (R335) -/

/-- NOTICE bits of a word. -/
def noticesOf (v : Nat) : Notices :=
  { weir := v.testBit 0, sqHalt := v.testBit 1, doorbell := v.testBit 2, cqFault := v.testBit 3, partition := v.testBit 4,
    link := v.testBit 5, fault := v.testBit 6 }

/-- The causes of `a` that `b` does not clear. -/
def Notices.without (a b : Notices) : Notices :=
  { weir := a.weir && !b.weir, sqHalt := a.sqHalt && !b.sqHalt, doorbell := a.doorbell && !b.doorbell,
    cqFault := a.cqFault && !b.cqFault, partition := a.partition && !b.partition, link := a.link && !b.link,
    fault := a.fault && !b.fault }

/-- A write to the ring control page of function `f`: offset in the page, width in bits (R339). -/
def State.writeRingPage (s : State) (f off width : Nat) (v : Word64) : State :=
  let n := v.toNat
  if off < 0x200 then
    let r := off / 0x20
    match off % 0x20 with
    | 0x00 => if width = 64 then s.writeSqBase f r v else s
    | 0x08 => if width = 32 then s.writeSqCfg f r (n % 2 ^ 32) else s
    | 0x10 => if width = 64 ∧ bitAt v 29 then s.setSq f r { s.sq f r with dbErr := false } else s
    | 0x18 => if width = 64 then s.writeSqCtrl f r n else s
    | _ => s
  else if off < 0x400 then
    let c := (off - 0x200) / 0x20
    match off % 0x20 with
    | 0x00 => if width = 64 then s.writeCqBase f c v else s
    | 0x08 => if width = 64 then s.writeCqCfg f c v else s
    | 0x10 => if width = 64 ∧ bitAt v 16 then s.setCq f c { s.cq f c with dbErr := false } else s
    | _ => s
  else if off = 0x400 then if width = 32 ∧ n.testBit 0 then s.setFn f { s.fn f with wrej := false } else s
  else if off = 0x408 then
    if width = 32 then s.setFn f { s.fn f with cause := (s.fn f).cause.without (noticesOf n) } else s
  else if off = 0x410 then if width = 32 then s.setFn f { s.fn f with causeEn := noticesOf n } else s
  else if off = 0x418 then
    if width = 64 ∧ f = 0 then s.setFn 0 { s.fn 0 with memwin := BitVec.ofNat 12 (fld v 43 32) } else s
  else if 0x800 ≤ off ∧ off < 0x900 then
    let id := WeirId.sq (fnId f) (ringIx ((off - 0x800) / 0x10))
    if width ≠ 32 then s else if off % 0x10 = 0 then s.writeWeirLevel id n else if off % 0x10 = 4 then s.writeWeirStat id n else s
  else if 0x900 ≤ off ∧ off < 0xA00 then
    let id := WeirId.cq (fnId f) (ringIx ((off - 0x900) / 0x10))
    if width ≠ 32 then s else if off % 0x10 = 0 then s.writeWeirLevel id n else if off % 0x10 = 4 then s.writeWeirStat id n else s
  else s

/-- A write to the page set of function `f` (R335). Writes reach it only once configuration is ready (R446) and not during
its reset. -/
def State.writePage (s : State) (f off width : Nat) (v : Word64) : State :=
  if !s.cfgReady || (s.fn f).resetting then s
  else if off < 0x1000 then if width = 32 then s.writeDoorbell f off (v.toNat % 2 ^ 32) else s
  else if off < 0x2000 then s.writeRingPage f (off - 0x1000) width v
  else if 0x3000 ≤ off ∧ off < 0x3110 then
    if width = 32 ∧ off % 4 = 0 then s.writeMsixWord f (off - 0x3000) (v.toNat % 2 ^ 32)
    else if width = 64 ∧ off % 8 = 0 then
      (s.writeMsixWord f (off - 0x3000) (v.toNat % 2 ^ 32)).writeMsixWord f (off - 0x3000 + 4) (v.toNat / 2 ^ 32)
    else s
  else s

/-- A register offset of a ring: control page, ring `r`, register at `k`. -/
def sqReg (r k : Nat) : Nat := 0x1000 + 0x20 * r + k
def cqReg (c k : Nat) : Nat := 0x1200 + 0x20 * c + k

/-! ## Rows -/

/-- SQ_ENABLE (R341): a write of SQ_CFG. -/
def execSqEnable (f : FnId) (r : RingIx) (value : Word32) (s : State) : Out :=
  .next (s.writePage f (sqReg r 8) 32 (value.setWidth 64)).settle

/-- SQ_DISABLE (R343): a write of SQ_CFG. -/
def execSqDisable (f : FnId) (r : RingIx) (value : Word32) (s : State) : Out :=
  .next (s.writePage f (sqReg r 8) 32 (value.setWidth 64)).settle

/-- SQ_RESUME (R348): a write of RESUME to SQ_CTRL. -/
def execSqResume (f : FnId) (r : RingIx) (s : State) : Out := .next (s.writePage f (sqReg r 0x18) 64 2)

/-- SQ_ABORT (R349): a write of ABORT to SQ_CTRL, with RESUME or without. -/
def execSqAbort (f : FnId) (r : RingIx) (resume : Bool) (s : State) : Out :=
  .next (s.writePage f (sqReg r 0x18) 64 (if resume then 3 else 1)).settle

/-- CQ_ENABLE (R351): a write of CQ_CFG. -/
def execCqEnable (f : FnId) (c : RingIx) (value : Word64) (s : State) : Out := .next (s.writePage f (cqReg c 8) 64 value)

/-- CQ_DISABLE (R351): a write of CQ_CFG. -/
def execCqDisable (f : FnId) (c : RingIx) (value : Word64) (s : State) : Out := .next (s.writePage f (cqReg c 8) 64 value)

/-- DOORBELL_SQ_TAIL (R346). -/
def execDoorbellSqTail (f : FnId) (d : RingIx) (value : Word32) (s : State) : Out :=
  .next (s.writePage f (0x100 * d) 32 (value.setWidth 64))

/-- DOORBELL_CQ_HEAD (R346): REARM is 0. -/
def execDoorbellCqHead (f : FnId) (d : RingIx) (value : BitVec 16) (s : State) : Out :=
  .next (s.writePage f (0x100 * d + 8) 32 (value.setWidth 64))

/-- CQ_REARM (R356): CQ_HEAD with REARM = 1. -/
def execCqRearm (f : FnId) (d : RingIx) (value : BitVec 16) (s : State) : Out :=
  .next (s.writePage f (0x100 * d + 8) 32 (value.setWidth 64 ||| 0x1_0000))

/-- MSIX_UNMASK (R355): the mask bit of a vector is cleared. -/
def execMsixUnmask (f : FnId) (vector : Fin 17) (s : State) : Out :=
  .next (s.writePage f (0x3000 + 16 * vector + 12) 32 0)

end Sys2Proof.Machine
end

