-- ==== Sys2Proof/Machine/Setup.lean ====
section
/-! DEFINITION. Setup registers of PF0: writes, rejections, partitions, operator actions (R248 to R251, R403, R430,
R458 to R474). -/
namespace Sys2Proof.Machine

/-- A setup write is rejected: WREJ, and the offset of the first one (R460). -/
def State.reject (s : State) (off : Nat) : State :=
  if s.wrej then s else { s with wrej := true, rejOffset := BitVec.ofNat 20 off }

/-- Is every partition UNASSIGNED? -/
def State.allUnassigned (s : State) : Bool := (List.range 4).all (fun p => (s.part p).state == .unassigned)

/-! ## Module and identity -/

/-- SHAPE by its code (R464). -/
def shapeOf : Nat → Option Shape
  | 0 => some .whole | 1 => some .halves | 2 => some .quarters | _ => none

/-- MODULE_CFG (R464). -/
def State.writeModuleCfg (s : State) (off v : Nat) : State :=
  match shapeOf (bitsOf v 31 30) with
  | none => s.reject off
  | some sh =>
    let id := bitsOf v 9 0
    let chSh := decide (sh ≠ s.shape)
    let chId := id != s.moduleId.toNat
    if id = 1023 || (s.locked && (chSh || chId)) || (chSh && !s.allUnassigned) || ((chSh || chId) && s.linkUp) then s.reject off
    else { s with shape := sh, moduleId := BitVec.ofNat 10 id,
                  leat := if sh = .whole then s.leat else { s.leat with ports := [], out := [] } }

/-- LEAT_CTRL (R465). -/
def State.writeLeatCtrl (s : State) (off v : Nat) : State :=
  let root := v.testBit 31
  let delay := bitsOf v 14 0
  let ch := root != s.turnRoot || delay != s.tsyncDelay.toNat
  if delay > 24575 || (ch && (s.locked || s.linkUp)) then s.reject off
  else { s with turnRoot := root, tsyncDelay := BitVec.ofNat 15 delay }

/-- SETUP_LOCK (R461); the TAP then follows R427. -/
def State.writeLock (s : State) (v : Nat) : State :=
  if !v.testBit 0 then s
  else
    let barred := s.tap.instr == .sample || s.tap.instr == .extest
    { s with locked := true, tap := if barred then { s.tap with instr := .bypass } else s.tap }

/-- SETUP_STATUS (R460). -/
def State.writeSetupStatus (s : State) (v : Nat) : State := if v.testBit 31 then { s with wrej := false } else s

/-- COMBINE_TIMEOUT (R466); `expired` names the waiting tags whose time since the last addition, or
the broken ones whose time since the last arrival, exceeds the new value. -/
def State.writeCombineTimeout (s : State) (off v : Nat) (expired : List (Nat × Nat)) : State :=
  if v = 0 then s.reject off
  else expired.foldl (fun s x => if (s.tag x.1 x.2).broken then s.setTag x.1 x.2 {} else s.breakTag x.1 x.2 .timeout none)
    { s with combineUs := BitVec.ofNat 32 v }

/-- POWER (R438). -/
def State.writePower (s : State) (off : Nat) (v : Word64) : State :=
  let lim := fld v 23 16
  let cap := fld v 15 0
  if lim < 40 || lim > 85 || cap < 500 || cap > 3800 then s.reject off
  else { s with pwr := { s.pwr with iLimit := BitVec.ofNat 8 lim, capW := BitVec.ofNat 16 cap } }

/-! ## Faults and stones -/

/-- FAULT_CFG (R467, R393): a lower threshold declares at once every unit whose count reaches it. -/
def State.writeFaultCfg (s : State) (off v : Nat) : State :=
  let w := bitsOf v 13 8
  let th := bitsOf v 7 0
  if w < 20 || w > 40 then s.reject off
  else
    let s := { s with faultWin := BitVec.ofNat 6 w, faultTh := BitVec.ofNat 8 th }
    if th = 0 then s
    else s.units.foldl (fun s c =>
      if !c.2.lasting && c.2.window.toNat ≥ th then s.declare (c.1 / 1024) (c.1 % 1024) else s) s

/-- End of an operator action: RESULT, RESULT_STONE and a record of kind OPERATOR (R403, R468). -/
def State.endAction (s : State) (p : Nat) (result : BitVec 2) : State :=
  let s := { s with stBusy := s.stBusy &&& ~~~((1 : BitVec 4) <<< (p / 25)), stResult := result, stResStone := BitVec.ofNat 7 p }
  s.keep.log { kind := kindOperator, cls := 0, unit := BitVec.ofNat 16 p, count := ((s.unit 0 p).window).setWidth 32,
               epoch := match (s.stone p).logical with | some l => s.epoch l | none => 0,
               detail := natLe 1 result.toNat }

/-- Operator RETIRE of a stone (R403). -/
def State.operatorRetire (s : State) (p : Nat) : State :=
  let s := if (s.stone p).state = .active then s.retireStone p else s.setStone p (freshStone .retired none 0)
  s.endAction p 3

/-- STONE_CMD (R468). -/
def State.writeStoneCmd (s : State) (off v : Nat) : State :=
  let n := bitsOf v 6 0
  let act := bitsOf v 31 30
  if n > 99 || act = 3 then s.reject off
  else if act = 0 then { s with stStone := BitVec.ofNat 7 n }
  else
    let st := (s.stone n).state
    let ok := if act = 1 then st == .retired || st == .suspect || st == .quarantined
              else st == .active || st == .spare || st == .restorable
    if !ok || s.stBusy.toNat.testBit (n / 25) then s.reject off
    else
      let s := { s with stStone := BitVec.ofNat 7 n }
      if act = 1 then
        ({ s with stBusy := s.stBusy ||| (1 <<< (n / 25)) }.setStone n (freshStone .testing none 0)).keep
      else s.operatorRetire n

/-- A self-test ends (R403). -/
def State.testDone (s : State) (p : Nat) (passed : Bool) : State :=
  if (s.stone p).state ≠ .testing then s
  else if passed then
    let st := if (s.stoneIn (p / 25) .spare).isSome then StoneState.restorable else .spare
    ((s.setUnit 0 p {}).setStone p
      { freshStone st none 0 with reserve := (s.part (partOfHouse s.shape (p / 25))).reserve }).endAction p 1
  else (s.setStone p (freshStone .retired none 0)).endAction p 2

/-! ## Firmware (R457) -/

/-- FW_SRC. -/
def State.writeFwSrc (s : State) (v : Word64) : State := { s with fw := { s.fw with src := BitVec.ofNat 32 (fld v 43 12) } }

/-- FW_CTRL: a write of 1 to PROGRAM starts the sequence, and is rejected while one runs. -/
def State.writeFwCtrl (s : State) (off : Nat) (v : Word64) : State :=
  if !bitAt v 63 then s
  else if s.fw.program then s.reject off
  else { s with fw := { s.fw with program := true, state := .checking, cause := 0 } }

/-! ## GPIO (R429, R430) -/

/-- Does the module pulse GPIO0 low at its turn boundaries: the root, with TSYNC_FB (R431)? -/
def State.pulsesFallback (s : State) : Bool := (s.pin 0).tsync && s.turnRoot && s.leat.pulse.isSome

/-- Is the pin pulled low by the module (R428, R431, R432), or by the boundary register in EXTEST (R427)? -/
def State.pinPulled (s : State) (g : Nat) : Bool :=
  let x := s.pin g
  if s.tap.instr = .extest then !s.tap.preload.toNat.testBit (2 + g)
  else (x.genOut && x.outLow) || (x.debug && x.pulse) || (g == 0 && s.pulsesFallback && Config.inPulse s.freeCount)

/-- The carrier gives a level to a pin. -/
def State.shownLevel (s : State) (g : Nat) (high : Bool) : State := s.setPin g { s.pin g with extern := high }

/-- LEVEL: open-drain, so low when the module or the carrier pulls it low (R429). -/
def State.pinLevel (s : State) (g : Nat) : Bool := (s.pin g).extern && !s.pinPulled g

/-- GPIO_ASSIGN[g]. -/
def State.writeGpio (s : State) (off g v : Nat) : State :=
  let x := s.pin g
  let new := [v.testBit 3, v.testBit 2, v.testBit 1, v.testBit 0]
  let old := [x.debug, x.tsync, x.genOut, x.genIn]
  let several := (new.filter id).length > 1
  let sets := (new.zip old).map (fun y => y.1 && !y.2)
  let other := (List.range 4).any (fun i => sets.getD i false &&
    (List.range 4).any (fun j => j != i && old.getD j false))
  let offered := !(new.getD 1 false && g != 0) && !(new.getD 0 false && 1 < g)
  let debugTaken := sets.getD 0 false && (List.range 4).any (fun k => k != g && (s.pin k).debug)
  if (s.locked && new != old) || several || other || !offered || debugTaken then s.reject off
  else s.setPin g { x with outLow := v.testBit 8, debug := v.testBit 3, tsync := v.testBit 2, genOut := v.testBit 1,
                           genIn := v.testBit 0, pulse := x.pulse && v.testBit 3 }

/-! ## Partitions -/

/-- Does a run of device memory lie wholly in the HBM or stacked tier of partition `p`, in one range? -/
def State.dramRun (s : State) (p a n : Nat) : Bool :=
  n = 0 || (s.inDram p a && s.inDram p (a + n - 1) &&
    (match regionOf a, regionOf (a + n - 1) with | some x, some y => x.1 == y.1 | _, _ => false))

/-- Does the Race pool of a house lie in the HBM of partition `p` (R473)? -/
def State.racePoolIn (s : State) (p h : Nat) : Bool :=
  let x := s.house h
  let b := x.poolBase.toNat * 2 ^ 21
  x.bufMib = 0 || (s.dramRun p b (32 * x.bufMib.toNat * mib) && decide (b < 0x0090_0000_0000))

/-- May a COMMIT of a partition proceed (R265, R445, R473)? -/
def State.commitOk (s : State) (p : Nat) : Bool :=
  let x := s.part p
  let hs := housesOf s.shape p
  s.dramRun p (x.poolBase.toNat * 65536) (x.latentSlots.toNat * (65536 * 2 ^ x.slotSize.toNat)) &&
  hs.all (fun h => s.racePoolIn p h) &&
  hs.all (fun h => !s.tierFail.toNat.testBit h && (upFrom (3 * h) 3).all (fun k => !s.hbmFail.toNat.testBit k))

/-- VACANT logical stones of a house are filled, lowest first: from the SPARE, then from RESTORABLE stones; then a house
without a SPARE takes one (R403). -/
def State.fillHouse (s : State) (h : Nat) : State :=
  let s := (upFrom (h * 24) 24).foldl (fun s l =>
    if (s.physOf l).isSome then s
    else match (s.stoneIn h .spare).or (s.stoneIn h .restorable) with
      | some p => let s := s.bumpEpoch l; s.setStone p ((s.stone p).takeId l (s.epoch l))
      | none => s) s
  if (s.stoneIn h .spare).isSome then s
  else match s.stoneIn h .restorable with
    | some p => s.setStone p { s.stone p with state := .spare }
    | none => s

/-- Rows that can still be repaired for a DRAM unit: of an HBM pseudo-channel what its stack has left, of a stacked-tier channel its
own 32 (R394). -/
def State.repairsLeft (s : State) (cls i : Nat) : Nat :=
  if cls = 1 then
    Config.hbmRepairs (i / 64) - ((s.repairs.filter (fun c => c.1 / 1024 == 1 && c.1 % 1024 / 64 == i / 64)).map (·.2)).sum
  else 32 - Table.get 0 s.repairs (cls * 1024 + i)

/-- Repair of a lasting DRAM unit: every row that had an event since the declaration, as far as the repairs go; LASTING clears when
all are repaired (R394). -/
def State.repairUnit (s : State) (cls i : Nat) : State :=
  let u := s.unit cls i
  let n := min u.rows.length (s.repairsLeft cls i)
  let k := cls * 1024 + i
  ({ s with repairs := Table.put 0 s.repairs k (Table.get 0 s.repairs k + n) }).setUnit cls i
    { u with rows := u.rows.drop n, lasting := decide (n < u.rows.length) }

/-- Repair of the lasting units of a house at a COMMIT: HBM and stacked-tier units; a lasting Pond step that lies in the cache is
withdrawn (R394, R472). -/
def State.repairHouse (s : State) (h : Nat) : State :=
  let lasting := s.units.filter (fun c => c.2.lasting)
  let s := lasting.foldl (fun s c =>
    let cls := c.1 / 1024
    let i := c.1 % 1024
    if (cls = 1 ∧ i / 192 = h) ∨ (cls = 2 ∧ i / 128 = h) then s.repairUnit cls i else s) s
  lasting.foldl (fun s c =>
    let i := c.1 % 1024
    let x := s.house h
    let step := i % 16
    if c.1 / 1024 = 3 ∧ i / 16 = h ∧ x.scratchOn.toNat ≤ step ∧ step < 16 - x.mediaOn.toNat then
      s.setHouse h { x with cacheOff := x.cacheOff ||| (1 <<< step) }
    else s) s

/-- The bindings with the roots of the functions bound to partition `p` no longer valid (R470). -/
def dropRoots (p : Nat) (l : Table Binding) : Table Binding :=
  let clear (b : Binding) : Binding := if b.part.toNat = p then { b with rootValid := false } else b
  let fresh : Binding := {}
  (l.map (fun c => (c.1, clear c.2))).filter (fun c => c.2 != fresh)

/-- COMMIT of a partition (R248, R403, R470, R471): its houses' settings take effect, its stone map is filled, its functions'
roots are no longer valid, and it enters ZEROING. -/
def State.commit (s : State) (p : Nat) : State :=
  let hs := housesOf s.shape p
  let s := hs.foldl (fun s h =>
    let x := s.house h
    s.setHouse h { x with mediaOn := x.media, scratchOn := x.scratch, bufMibOn := x.bufMib, poolBaseOn := x.poolBase }) s
  let s := hs.foldl (fun s h => (s.fillHouse h).repairHouse h) s
  let s := { s with binds := dropRoots p s.binds }
  (s.setPart p { s.part p with state := .zeroing, memReady := false }).keep

/-- Functions bound to a partition (R248). -/
def State.boundTo (s : State) (p : Nat) : List Nat := (s.binds.filter (fun c => c.2.valid && c.2.part.toNat == p)).map (·.1)

/-- VERSION of the image at FW_SRC, as its header holds it (R455). -/
def State.imageVersion (s : State) : Nat := leNat (s.mem.readN (s.fw.src.toNat * 4096 + 4) 2)

/-- RELEASE of a partition: every function of it is killed (R252, R361); a firmware source in it is released (R457). -/
def State.release (s : State) (p : Nat) : State :=
  let s := s.setPart p { s.part p with state := .releasing, memReady := false }
  let s := if s.fw.program && s.inDram p (s.fw.src.toNat * 4096) then
      { s with fw := { s.fw with program := false, state := .failed, cause := 4 } }.logFirmware 4 s.imageVersion
    else s
  (s.boundTo p).foldl (fun s f => (s.setBind f { s.bind f with kill := true }).resetFunction f true) s

/-- PART_CTRL[p] (R248). -/
def State.writePartCtrl (s : State) (off p v : Nat) : State :=
  let c := v.testBit 31
  let r := v.testBit 30
  let reserve := bitsOf v 20 14
  let quantum := bitsOf v 13 0
  let x := s.part p
  if (c && r) || (c && x.state != .unassigned) || (c && p ≥ partCount s.shape) || (r && x.state != .active) ||
     reserve > 64 || quantum = 0 || (c && !s.commitOk p) then s.reject off
  else
    let s := s.setPart p { x with reserve := BitVec.ofNat 7 reserve, quantum := BitVec.ofNat 14 quantum }
    if c then s.commit p else if r then s.release p else s

/-- PART_CARVE[p] (R469). -/
def State.writePartCarve (s : State) (off p v : Nat) : State :=
  let pc := bitsOf v 26 16
  let gc := bitsOf v 12 0
  let x := s.part p
  let ch := pc != x.pawlCount.toNat || gc != x.gristCount.toNat
  let sum (g : Partition → Nat) : Nat := ((List.range 4).filter (· ≠ p)).foldl (fun n q => n + g (s.part q)) 0
  if (s.locked && ch) || sum (fun q => q.pawlCount.toNat) + pc > 1024 || sum (fun q => q.gristCount.toNat) + gc > 4096 ||
     !(upFrom p (4 - p)).all (fun q => (s.part q).state == .unassigned) then s.reject off
  else (s.setPart p { x with pawlCount := BitVec.ofNat 11 pc, gristCount := BitVec.ofNat 13 gc }).evalWeir
    (.gristTable (houseIx p))

/-- PART_POOL[p] (R265). -/
def State.writePartPool (s : State) (off p : Nat) (v : Word64) : State :=
  if (s.part p).state ≠ .unassigned || fld v 47 44 > 12 then s.reject off
  else
    let s := s.setPart p { s.part p with latentSlots := BitVec.ofNat 12 (fld v 59 48), slotSize := BitVec.ofNat 4 (fld v 47 44),
                                         poolBase := BitVec.ofNat 28 (fld v 43 16) }
    s.evalWeir (.latentPool (houseIx p))

/-- FUNC_BIND[f] (R250). -/
def State.writeBind (s : State) (off f v : Nat) : State :=
  let x := s.bind f
  let y : Binding := { x with valid := if f = 0 then x.valid else v.testBit 31, overOk := v.testBit 30,
                              part := if f = 0 then x.part else BitVec.ofNat 2 (bitsOf v 29 28),
                              gristMax := BitVec.ofNat 12 (bitsOf v 23 12) }
  let free := (s.part x.part.toNat).state == .unassigned && (s.part y.part.toNat).state == .unassigned
  if y ≠ x ∧ !free then s.reject off
  else
    let s := s.setBind f y
    if v.testBit 0 && !x.kill then (s.setBind f { y with kill := true }).resetFunction f true else s

/-- MMU_ROOT[f] (R470). -/
def State.writeRoot (s : State) (off f : Nat) (v : Word64) : State :=
  let x := s.bind f
  let root := fld v 43 12
  let p := x.part.toNat
  if bitAt v 0 && (!x.valid || (s.part p).state != .active || !s.inDram p (root * 4096) || s.inRacePool (root * 4096)) then s.reject off
  else s.setBind f { x with root := BitVec.ofNat 32 root, rootValid := bitAt v 0 }

/-! ## Houses -/

/-- POND_SPLIT[h] (R472). -/
def State.writePondSplit (s : State) (off h v : Nat) : State :=
  let m := bitsOf v 12 8
  let c := bitsOf v 4 0
  let x := s.house h
  if (s.locked && (m != x.media.toNat || c != x.scratch.toNat)) || m > 16 || c > 16 || m + c > 16 then s.reject off
  else s.setHouse h { x with media := BitVec.ofNat 5 m, scratch := BitVec.ofNat 5 c }

/-- RACE_POOL[h] (R473). -/
def State.writeRacePool (s : State) (off h : Nat) (v : Word64) : State :=
  let n := fld v 63 56
  let b := fld v 43 21
  let x := s.house h
  let range := if s.shape = .halves then 288 * gib else 144 * gib
  let first := b * 2 ^ 21
  let last := first + 32 * n * mib - 1
  if (s.locked && (n != x.bufMib.toNat || b != x.poolBase.toNat)) ||
     (n != 0 && (last ≥ 0x0090_0000_0000 || first / range != last / range)) then s.reject off
  else s.setHouse h { x with bufMib := BitVec.ofNat 8 n, poolBase := BitVec.ofNat 23 b }

/-! ## The fault-log window (R474) -/

/-- LOG_SELECT. -/
def State.writeLogSelect (s : State) (v : Word64) : State :=
  { s with logSel := v, logReady := false, logBusy := true, logValid := false, logCopy := none }

/-! ## The register map (R462) -/

/-- A setup register. -/
inductive Reg where
  | ident0 | ident1 | setupLock | setupStatus | moduleCfg | leatCtrl | moduleStatus | combineTimeout | power | faultCfg
  | stoneCmd | fwSrc | fwCtrl | gpio (g : Nat) | partCtrl (p : Nat) | partCarve (p : Nat) | partPool (p : Nat)
  | weirLevel (id : WeirId) | weirStat (id : WeirId) | pondSplit (h : Nat) | racePool (h : Nat) | funcBind (f : Nat)
  | mmuRoot (f : Nat) | logSelect | logEnd | logStatus
  deriving DecidableEq, Repr

/-- The register at an offset, with its width in bits (R462). -/
def regAt (off : Nat) : Option (Reg × Nat) :=
  match off with
  | 0x10000 => some (.ident0, 64) | 0x10008 => some (.ident1, 64) | 0x10010 => some (.setupLock, 32)
  | 0x10018 => some (.setupStatus, 32) | 0x10020 => some (.moduleCfg, 32) | 0x10024 => some (.leatCtrl, 32)
  | 0x10028 => some (.moduleStatus, 32) | 0x1002C => some (.combineTimeout, 32) | 0x10030 => some (.power, 64)
  | 0x10038 => some (.faultCfg, 32) | 0x1003C => some (.stoneCmd, 32) | 0x10040 => some (.fwSrc, 64)
  | 0x10048 => some (.fwCtrl, 64) | 0x10050 => some (.gpio 0, 32) | 0x10054 => some (.gpio 1, 32)
  | 0x10058 => some (.gpio 2, 32) | 0x1005C => some (.gpio 3, 32)
  | 0x18000 => some (.logSelect, 64) | 0x18008 => some (.logEnd, 64) | 0x18010 => some (.logStatus, 32)
  | _ =>
    if 0x10100 ≤ off ∧ off < 0x10200 then
      let p := (off - 0x10100) / 0x40
      match off % 0x40 with
      | 0x00 => some (.partCtrl p, 32) | 0x04 => some (.partCarve p, 32) | 0x08 => some (.partPool p, 64)
      | 0x10 => some (.weirLevel (.latentPool (houseIx p)), 32) | 0x14 => some (.weirStat (.latentPool (houseIx p)), 32)
      | 0x18 => some (.weirLevel (.gristTable (houseIx p)), 32) | 0x1C => some (.weirStat (.gristTable (houseIx p)), 32)
      | _ => none
    else if 0x10200 ≤ off ∧ off < 0x10300 then
      let h := houseIx ((off - 0x10200) / 0x40)
      match off % 0x40 with
      | 0x00 => some (.pondSplit h, 32) | 0x08 => some (.racePool h, 64)
      | 0x10 => some (.weirLevel (.pondCache h), 32) | 0x14 => some (.weirStat (.pondCache h), 32)
      | 0x18 => some (.weirLevel (.media h), 32) | 0x1C => some (.weirStat (.media h), 32)
      | 0x20 => some (.weirLevel (.combineSlots h), 32) | 0x24 => some (.weirStat (.combineSlots h), 32)
      | 0x28 => some (.weirLevel (.copyStaging h), 32) | 0x2C => some (.weirStat (.copyStaging h), 32)
      | _ => none
    else if 0x11000 ≤ off ∧ off < 0x11400 ∧ off % 4 = 0 then some (.funcBind ((off - 0x11000) / 4), 32)
    else if 0x12000 ≤ off ∧ off < 0x12800 ∧ off % 8 = 0 then some (.mmuRoot ((off - 0x12000) / 8), 64)
    else none

/-- An accepted-width write to a setup register. -/
def State.writeReg (s : State) (off : Nat) (v : Word64) (expired : List (Nat × Nat)) : Reg → State
  | .ident0 => s | .ident1 => s | .moduleStatus => s | .logEnd => s | .logStatus => s
  | .setupLock => s.writeLock v.toNat
  | .setupStatus => s.writeSetupStatus v.toNat
  | .moduleCfg => s.writeModuleCfg off v.toNat
  | .leatCtrl => s.writeLeatCtrl off v.toNat
  | .combineTimeout => s.writeCombineTimeout off v.toNat expired
  | .power => s.writePower off v
  | .faultCfg => s.writeFaultCfg off v.toNat
  | .stoneCmd => s.writeStoneCmd off v.toNat
  | .fwSrc => s.writeFwSrc v
  | .fwCtrl => s.writeFwCtrl off v
  | .gpio g => s.writeGpio off g v.toNat
  | .partCtrl p => s.writePartCtrl off p v.toNat
  | .partCarve p => s.writePartCarve off p v.toNat
  | .partPool p => s.writePartPool off p v
  | .weirLevel id => s.writeWeirLevel id v.toNat
  | .weirStat id => s.writeWeirStat id v.toNat
  | .pondSplit h => s.writePondSplit off h v.toNat
  | .racePool h => s.writeRacePool off h v
  | .funcBind f => s.writeBind off f v.toNat
  | .mmuRoot f => s.writeRoot off f v
  | .logSelect => s.writeLogSelect v

/-- A host write to a setup register at BAR0 offset `off`, `width` bits (R458, R459): unlisted offsets are ignored, a
listed register of another width rejects. The value has the register's width. Writes arrive once configuration is ready
(R446). -/
def State.writeSetup (s : State) (off width : Nat) (v : Word64) (expired : List (Nat × Nat) := []) : State :=
  if !s.cfgReady then s
  else
    match regAt off with
    | none => s
    | some (r, w) => if width = w then s.writeReg off ((v.setWidth w).setWidth 64) expired r else s.reject off

/-- A host write to BAR0 of a function (R334): the page set, or PF0's setup registers. -/
def State.writeBar0 (s : State) (f off width : Nat) (v : Word64) : State :=
  if off < 0x10000 then s.writePage f off width v else if f = 0 then s.writeSetup off width v else s

/-- Offset of a mark's WEIR_LEVEL: its page-set offset for a ring, its BAR0 offset for a mark of the PF (R339, R462). -/
def weirOffset : WeirId → Nat
  | .sq _ r => 0x1800 + 0x10 * r
  | .cq _ c => 0x1900 + 0x10 * c
  | .latentPool p => 0x10110 + 0x40 * p
  | .gristTable p => 0x10118 + 0x40 * p
  | .pondCache h => 0x10210 + 0x40 * h
  | .media h => 0x10218 + 0x40 * h
  | .combineSlots h => 0x10220 + 0x40 * h
  | .copyStaging h => 0x10228 + 0x40 * h

/-! ## Rows -/

/-- WEIR_LEVEL_WRITE (R189). -/
def execWeirLevelWrite (w : WeirId) (value : Word32) (s : State) : Out :=
  .next (s.writeBar0 (weirOwner w) (weirOffset w) 32 (value.setWidth 64))

/-- WEIR_FALLING_WRITE (R190): a write of WEIR_STAT. -/
def execWeirFallingWrite (w : WeirId) (value : Word32) (s : State) : Out :=
  .next (s.writeBar0 (weirOwner w) (weirOffset w + 4) 32 (value.setWidth 64))

/-- WEIR_CROSSED_CLEAR (R189): a write of WEIR_STAT. -/
def execWeirCrossedClear (w : WeirId) (value : Word32) (s : State) : Out :=
  .next (s.writeBar0 (weirOwner w) (weirOffset w + 4) 32 (value.setWidth 64))

/-- WEIR_COUNT_CLEAR (R189): a write of WEIR_STAT. -/
def execWeirCountClear (w : WeirId) (value : Word32) (s : State) : Out :=
  .next (s.writeBar0 (weirOwner w) (weirOffset w + 4) 32 (value.setWidth 64))

/-- SETUP_LOCK_WRITE (R461). -/
def execSetupLockWrite (value : Word32) (s : State) : Out := .next (s.writeSetup 0x10010 32 (value.setWidth 64))

/-- PARTITION_COMMIT (R248): a write of PART_CTRL. -/
def execPartitionCommit (p : PartId) (value : Word32) (s : State) : Out :=
  .next (s.writeSetup (0x10100 + 0x40 * p) 32 (value.setWidth 64)).settle

/-- PARTITION_RELEASE (R252): a write of PART_CTRL. -/
def execPartitionRelease (p : PartId) (value : Word32) (s : State) : Out :=
  .next (s.writeSetup (0x10100 + 0x40 * p) 32 (value.setWidth 64)).settle

/-- TENANT_KILL (R252): a write of FUNC_BIND. -/
def execTenantKill (f : FnId) (value : Word32) (s : State) : Out :=
  .next (s.writeSetup (0x11000 + 4 * f) 32 (value.setWidth 64)).settle

/-- STONE_TEST (R403): a write of STONE_CMD with ACTION 1. -/
def execStoneTest (p : StoneP) (s : State) : Out :=
  .next (s.writeSetup 0x1003C 32 (BitVec.ofNat 64 (2 ^ 30 + p))).settle

/-- STONE_RETIRE (R403): a write of STONE_CMD with ACTION 2. -/
def execStoneRetire (p : StoneP) (s : State) : Out :=
  .next (s.writeSetup 0x1003C 32 (BitVec.ofNat 64 (2 ^ 31 + p))).settle

/-- STONE_TEST_DONE (R403). -/
def execStoneTestDone (p : StoneP) (passed : Bool) (s : State) : Out := .next (s.testDone p passed).settle

/-- FW_PROGRAM (R457): a write of FW_CTRL. -/
def execFwProgram (value : Word64) (s : State) : Out := .next (s.writeSetup 0x10048 64 value)

/-- GPIO_ASSIGN_WRITE (R430). -/
def execGpioAssignWrite (pin : Fin 4) (value : Word32) (level : Bool) (s : State) : Out :=
  .next ((s.shownLevel pin level).writeSetup (0x10050 + 4 * pin) 32 (value.setWidth 64))

/-- COMBINE_TIMEOUT_WRITE (R466). -/
def execCombineTimeoutWrite (value : Word32) (expired : List (PartId × BitVec 16)) (s : State) : Out :=
  .next (s.writeSetup 0x1002C 32 (value.setWidth 64) (expired.map (fun x => (x.1.val, x.2.toNat)))).settle

/-- FAULT_THRESHOLD_WRITE (R393): a write of FAULT_CFG. -/
def execFaultThresholdWrite (value : Word32) (s : State) : Out :=
  .next (s.writeSetup 0x10038 32 (value.setWidth 64)).settle

/-- LOG_SELECT_WRITE (R474). -/
def execLogSelectWrite (value : Word64) (s : State) : Out := .next (s.writeSetup 0x18000 64 value)

/-- REGISTER_WRITE (R458, R339, R355): any host write to a register of a function. -/
def execRegisterWrite (f : FnId) (space : RegSpace) (offset : BitVec 20) (width : Nat) (value : Word64) (s : State) : Out :=
  match space with
  | .bar0 => .next (s.writeBar0 f offset.toNat width value).settle
  | .msixControl => if s.cfgReady && !(s.fn f).resetting then .next (s.writeMsixControl f value.toNat) else .next s
  | .deviceControl => if s.cfgReady && !(s.fn f).resetting then .next (s.writeDeviceControl f value.toNat) else .next s
  | .aerStatus => if s.cfgReady && !(s.fn f).resetting then .next (s.writeAer f value.toNat) else .next s

/-! ## Partition events (R247, R249) -/

/-- Zero every byte and code word of a partition's houses (R249); nothing of them stays in a Pond cache. -/
def State.zeroMemory (s : State) (p : Nat) : State :=
  let mine (pa : Nat) : Bool := match regionOf pa with | some (_, h, _) => s.owns p h | none => false
  { s with mem := Table.drop s.mem mine, dirty := s.dirty.filter (fun l => !mine (l * 256)),
           ecc := Table.drop s.ecc (fun k => match eccSpan k with
             | some (g, _) => mine g
             | none => s.owns p ((k - bufKey) / 65536 / 8)) }

/-- A mark as zeroing leaves it: CROSSED and COUNT clear (R249). -/
def Weir.cleared (w : Weir) : Weir := { w with crossed := false, count := 0 }

/-- What zeroing does to a house: claims, slots and staging are void, its marks clear (R249). -/
def State.zeroHouse (s : State) (h : Nat) : State :=
  let x := s.house h
  let s := s.setHouse h { x with mediaUsed := 0, slotsUsed := 0, slotsOver := 0, staged := 0, hopperBufs := 0,
                                 pondWeir := x.pondWeir.cleared, mediaWeir := x.mediaWeir.cleared,
                                 slotWeir := x.slotWeir.cleared, stageWeir := x.stageWeir.cleared }
  let s := { s with hopper := Table.drop s.hopper (fun k => k / 16 == h), race := Table.drop s.race (fun k => k / 64 == h) }
  let s := (upFrom (h * 25) 25).foldl (fun s q =>
    if (s.stone q).state = .active then
      s.setStone q { s.stone q with bin := [], acc := [], flushed := [], ecc := [], sets := [], tables := [], loaded := none,
                                    switching := false, atBoundary := true, expired := false }
    else s) s
  [WeirId.pondCache (houseIx h), .media (houseIx h), .combineSlots (houseIx h), .copyStaging (houseIx h)].foldl
    (fun s id => s.evalWeir id) s

/-- Zeroing of a partition ends: it is ACTIVE, MEM_READY is set and PF0 is told (R249). It starts when training has ended
(R445). -/
def State.zeroingDone (s : State) (p : Nat) : State :=
  if (s.part p).state ≠ .zeroing || !s.trained then s
  else
    let s := s.zeroMemory p
    let s := (housesOf s.shape p).foldl (fun s h => s.zeroHouse h) s
    let carve := s.gristCarve p
    let pawls := s.pawlCarve p
    let s := { s with grist := Table.drop s.grist (inCarve carve), pawls := Table.drop s.pawls (inCarve pawls),
                      tags := Table.drop s.tags (fun k => k / 65536 == p) }
    let x := s.part p
    let s := s.setPart p { x with state := .active, memReady := true, prevList := [], poolWeir := x.poolWeir.cleared,
                                  gristWeir := x.gristWeir.cleared }
    let s := (s.evalWeir (.latentPool (houseIx p))).evalWeir (.gristTable (houseIx p))
    s.notice 0 .partition

/-- ZEROING_DONE (R249). -/
def execZeroingDone (p : PartId) (s : State) : Out := .next (s.zeroingDone p)

/-- RELEASE_DONE (R247): every engine of the partition is idle. -/
def execReleaseDone (p : PartId) (s : State) : Out :=
  .next (if (s.part p).state = .releasing then s.setPart p { s.part p with state := .unassigned } else s)

end Sys2Proof.Machine
end

