-- ==== Sys2Proof/Machine/Management.lean ====
section
/-! DEFINITION. The fault log in flash, the Miller's scans and windows, the PF memory window, SMBus, console and TAP
(15_faults.md, 16_module_pins.md, R336, R474). -/
namespace Sys2Proof.Machine

/-! ## Records in flash (R406, R407) -/

/-- Highest valid SEQ, 0 when the log is empty (R424, R474). -/
def State.logEnd (s : State) : Word64 := match s.flash.log with | [] => 0 | x :: _ => x.seq

/-- A record reaches flash: it takes the next SEQ; at most 4,095 records stay valid (R406, R407). -/
def State.flashRecord (s : State) (r : LogRec) : State :=
  { s with flash := { s.flash with log := ({ r with seq := s.logEnd + 1 } :: s.flash.log).take 4095 } }

/-- Pins held by DEBUG_TRIG begin or extend their pulse (R432). -/
def State.debugPulse (s : State) : State :=
  (List.range 2).foldl (fun s g => if (s.pin g).debug then s.setPin g { s.pin g with pulse := true } else s) s

/-- What follows when a record has reached flash: the FAULT notice (R408), ALERT# and LOG_NEW (R425), a trigger pulse
(R432). -/
def State.recordReached (s : State) : State :=
  (({ s with alert := true, logNew := true }).debugPulse).notice 0 .fault

/-- The record being programmed reaches flash; the next one starts and carries the number dropped since (R409). -/
def State.logProgrammed (s : State) : State :=
  match s.logQueue with
  | [] => s
  | x :: rest =>
    let s := s.flashRecord x
    let s := match rest with
      | [] => { s with logQueue := [] }
      | y :: ys => { s with logQueue := { y with lost := y.lost + s.logLost } :: ys, logLost := 0 }
    s.recordReached

/-- Is the Miller running? -/
def State.millerUp (s : State) : Bool := s.power == .start || s.power == .run

/-- LOG_RECORD_PROGRAMMED (R409). -/
def execLogRecordProgrammed (s : State) : Out := .next (if s.millerUp then s.logProgrammed else s)

/-- The valid record with a SEQ. -/
def State.record (s : State) (seq : Word64) : Option LogRec := s.flash.log.find? (fun x => x.seq == seq)

/-- The copy for the fault-log window ends (R474). -/
def State.logCopied (s : State) : State :=
  if !s.logBusy then s
  else { s with logReady := true, logBusy := false, logValid := (s.record s.logSel).isSome, logCopy := s.record s.logSel }

/-- LOG_COPY_DONE (R474). -/
def execLogCopyDone (s : State) : Out := .next s.logCopied

/-- The 4,096 bytes of a record (R407). -/
def LogRec.bytes (r : LogRec) : List Byte :=
  let head := natLe 8 r.seq.toNat ++ natLe 8 r.time.toNat ++ natLe 8 r.turn.toNat ++ natLe 8 0 ++
    natLe 2 r.unit.toNat ++ natLe 1 r.cls.toNat ++ natLe 1 r.kind.toNat ++ natLe 4 r.boot.toNat ++
    natLe 8 r.address.toNat ++ natLe 4 r.count.toNat ++ natLe 4 r.epoch.toNat ++ natLe 4 r.lost.toNat ++ natLe 4 0
  let detail := r.detail.take 4024
  let body := head ++ detail ++ natLe (4032 - 8 - detail.length) 0 ++ natLe 4 0
  body ++ natLe 4 (crc32c body).toNat

/-! ## Scans and windows -/

/-- The Miller scans every stone: a SUSPECT stone that has been heard from becomes QUARANTINED (R402). -/
def State.scan (s : State) : State :=
  (List.range 100).foldl (fun s p =>
    let x := s.stone p
    if x.state = .suspect ∧ (x.heard ∨ (s.unit 0 p).stale ≠ 0) then
      ((s.setStone p (freshStone .quarantined none 0)).keep).log
        { kind := kindQuarantined, cls := 0, unit := BitVec.ofNat 16 p, count := ((s.unit 0 p).window).setWidth 32 }
    else s) s

/-- MILLER_SCAN (R402). -/
def execMillerScan (s : State) : Out := .next (if s.millerUp then s.scan else s)

/-- A window of counting ends: every WINDOW_EVENTS returns to 0, a new FAULT_WINDOW takes effect (R392, R393). -/
def State.windowEnds (s : State) : State :=
  let clear (u : UnitCount) : UnitCount := { u with window := 0, logged := 0 }
  let fresh : UnitCount := {}
  { s with units := (s.units.map (fun c => (c.1, clear c.2))).filter (fun c => c.2 != fresh), faultWinOn := s.faultWin }

/-- FAULT_WINDOW_BOUNDARY (R392). -/
def execFaultWindowBoundary (s : State) : Out := .next s.windowEnds

/-- STONE_DEAD_DECLARED (R400): a stone that is ACTIVE, SPARE or RESTORABLE has been silent for 2^24 stone clocks, which run only in
RUN (R437). -/
def execStoneDeadDeclared (p : StoneP) (s : State) : Out :=
  .next (if s.power ≠ .run then s
    else match (s.stone p).state with
    | .active => s.declareDead p
    | .spare => s.declareDead p
    | .restorable => s.declareDead p
    | _ => s)

/-- HEARTBEAT (R102, R402): a SUSPECT stone has been heard from; of any other stone it only keeps the watchdog quiet. -/
def execHeartbeat (p : StoneP) (s : State) : Out :=
  .next (if (s.stone p).state = .suspect then s.setStone p { s.stone p with heard := true } else s)

/-- CHECKER_ROTATE (R83): the next selection of 4,096 stone clocks. -/
def execCheckerRotate (p : StoneP) (s : State) : Out :=
  .next (if s.clocked p then s.setStone p { s.stone p with checkK := (s.stone p).checkK + 1 } else s)

/-- Logical row and column that a stone's checkers recompute (R83). -/
def Stone.checked (x : Stone) : Nat × Nat := (x.checkK % 32, (x.checkK + 16 + x.checkK / 32) % 32)

/-! ## The PF memory window (R336) -/

/-- Is a device address reached by the window: mapped, in an ACTIVE partition? -/
def State.windowReaches (s : State) (pa : Nat) : Bool :=
  match regionOf pa with
  | some (_, h, _) => s.mapped pa && (s.part (partOfHouse s.shape h)).state == .active
  | none => false

/-- Device address of a window offset. -/
def State.windowAddr (s : State) (x : Nat) : Nat := (s.fn 0).memwin.toNat * 2 ^ 32 + x

/-- Pieces of a run of device bytes that lie in one 4 KiB block. -/
def blocks (pa n : Nat) : List (Nat × Nat × Nat) :=
  if n = 0 then [] else
    let first := pa / 4096
    (List.range ((pa + n - 1) / 4096 + 1 - first)).map (fun i =>
      let lo := max pa ((first + i) * 4096)
      let hi := min (pa + n) ((first + i + 1) * 4096)
      (lo, lo - pa, hi - lo))

/-- A host read through the window: data, and whether the completion carries the poisoned bit (R390). -/
def State.windowRead (s : State) (x n : Nat) : State :=
  let r := (blocks (s.windowAddr x) n).foldl (fun (acc : List Byte × Bool × State) b =>
    if acc.2.2.windowReaches b.1 then
      let d := acc.2.2.devRead {} b.1 b.2.2
      (acc.1 ++ d.1, acc.2.1 || d.2.1, d.2.2)
    else (acc.1 ++ natLe b.2.2 0, acc.2.1, acc.2.2)) ([], false, s)
  { r.2.2 with winOut := r.1, winPoison := r.2.1 }

/-- A host write through the window. -/
def State.windowWrite (s : State) (x : Nat) (data : List Byte) : State :=
  (blocks (s.windowAddr x) data.length).foldl (fun s b =>
    if s.windowReaches b.1 then s.devStore false b.1 ((data.drop b.2.1).take b.2.2) else s) s

/-- MEMWIN_READ (R336). -/
def execMemwinRead (offset : BitVec 32) (len : Nat) (s : State) : Out :=
  .next (if s.cfgReady && !(s.fn 0).resetting then (s.windowRead offset.toNat len).settle else s)

/-- MEMWIN_WRITE (R336). -/
def execMemwinWrite (offset : BitVec 32) (data : List Byte) (s : State) : Out :=
  .next (if s.cfgReady && !(s.fn 0).resetting then s.windowWrite offset.toNat data else s).settle

/-! ## SMBus (R424, R425) -/

/-- A slot is valid (R456). -/
def FwSlot.valid (x : FwSlot) : Bool := x.checksOk && x.keyOk

/-- Does the ROM wait in STANDBY because no image is valid (R448)? -/
def State.romOnly (s : State) : Bool :=
  s.power == .standby && s.resetIn && !s.tripped && !s.flash.slotA.valid && !s.flash.slotB.valid

/-- The identity record with FUNCTION and PARTITION 0 (R424). -/
def State.moduleIdentity (s : State) : List Byte :=
  natLe 8 Config.serial.toNat ++ natLe 2 s.fw.version.toNat ++ natLe 2 Config.silicon.toNat ++
  natLe 2 (Config.encRev s.fw.version).toNat ++ natLe 2 0 ++
  natLe 8 (s.moduleId.toNat + (match s.shape with | .whole => 0 | .halves => 1 | .quarters => 2) * 2 ^ 16) ++ natLe 8 0

/-- Level driven on PWRGOOD and ALERT# (R422, R427). -/
def State.pwrgood (s : State) : Bool := if s.tap.instr = .extest then s.tap.preload.toNat.testBit 0 else s.pllLocked
def State.alertLow (s : State) : Bool := if s.tap.instr = .extest then !s.tap.preload.toNat.testBit 1 else s.alert

/-- The health record (R424). -/
def State.health (s : State) : List Byte :=
  natLe 2 s.pwr.volts.toNat ++ natLe 2 s.pwr.amps.toNat ++ natLe 2 s.pwr.tj.toNat ++ natLe 2 s.pwr.watts.toNat ++
  natLe 8 (b2n s.tripped + 2 * b2n s.logNew + 4 * b2n s.pwrgood + 8 * b2n (s.leat.state == .halt))

/-- The Miller's 7-bit address (R424). -/
def State.smbAddr (s : State) : Nat := 0x58 + s.straps.toNat

/-- One byte of a PEC: eight shifts of the polynomial x^8 + x^2 + x + 1. PRESUMED: SMBus's. -/
def pecByte (crc b : Byte) : Byte :=
  (List.range 8).foldl (fun (c : Byte) _ => if c.toNat.testBit 7 then (c <<< 1) ^^^ 0x07 else c <<< 1) (crc ^^^ b)

/-- What a Block Read of command `code` puts on the bus after its length: the block, and its PEC where the host clocks it; the PEC covers
address, command, address again, length and block. -/
def State.blockRead (s : State) (code : Byte) (pec : Bool) (block : List Byte) : State :=
  let at_ := s.smbAddr * 2
  let bus := [BitVec.ofNat 8 at_, code, BitVec.ofNat 8 (at_ + 1), BitVec.ofNat 8 block.length] ++ block
  { s with smbOut := block ++ if pec then [bus.foldl pecByte 0] else [] }

/-- SMB_IDENTITY (R424). -/
def execSmbIdentity (pec : Bool) (s : State) : Out :=
  .next (if s.millerUp || s.romOnly then s.blockRead 0x01 pec s.moduleIdentity else s)

/-- SMB_HEALTH (R424). -/
def execSmbHealth (pec : Bool) (s : State) : Out := .next (if s.millerUp then s.blockRead 0x02 pec s.health else s)

/-- SMB_LOG_END (R424). -/
def execSmbLogEnd (pec : Bool) (s : State) : Out := .next (if s.millerUp then s.blockRead 0x10 pec (natLe 8 s.logEnd.toNat) else s)

/-- SMB_LOG_SELECT (R424): a write whose PEC is wrong is ignored. -/
def execSmbLogSelect (seq : Word64) (pecOk : Bool) (s : State) : Out :=
  .next (if s.millerUp && pecOk then { s with smbSeq := seq, smbCursor := 0 } else s)

/-- SMB_LOG_READ (R424). -/
def execSmbLogRead (pec : Bool) (s : State) : Out :=
  .next (if !s.millerUp then s
    else if s.smbCursor > 4095 then s.blockRead 0x12 pec []
    else match s.record s.smbSeq with
      | none => s.blockRead 0x12 pec []
      | some r => { s.blockRead 0x12 pec ((r.bytes.drop s.smbCursor).take 128) with smbCursor := s.smbCursor + 128 })

/-- SMB_ALERT_RESPONSE (R425): the Miller that holds ALERT# low and has the lowest address returns it, releases ALERT# and starts LOG_NEW
again; a cause that arrives after its address pulls ALERT# low again. One that loses returns nothing and keeps ALERT# low. -/
def execSmbAlertResponse (won causeAfter : Bool) (s : State) : Out :=
  .next (if !s.millerUp || !s.alert then s
    else if !won then { s with smbOut := [] }
    else { s with smbOut := [BitVec.ofNat 8 (s.smbAddr * 2)], alert := causeAfter, logNew := causeAfter && s.logNew })

/-! ## The console (R426) -/

/-- ASCII of a hexadecimal digit. -/
def hexDigit (n : Nat) : Byte := BitVec.ofNat 8 (if n < 10 then 48 + n else 55 + n)

/-- Bytes in hexadecimal, ascending address, two digits each. -/
def hexOf (bs : List Byte) : List Byte := bs.flatMap (fun b => [hexDigit (b.toNat / 16), hexDigit (b.toNat % 16)])

/-- CR and LF. -/
def crlf : List Byte := [13, 10]

/-- A number in decimal, at most `fuel` digits. -/
def decimal : Nat → Nat → List Byte
  | 0, _ => []
  | fuel + 1, n => if n < 10 then [BitVec.ofNat 8 (48 + n)] else decimal fuel (n / 10) ++ [BitVec.ofNat 8 (48 + n % 10)]

/-- `n` lines of 64 bytes each. -/
def hexLines (bs : List Byte) : Nat → List Byte
  | 0 => []
  | n + 1 => hexOf (bs.take 64) ++ crlf ++ hexLines (bs.drop 64) n

/-- ASCII letters of a console word. -/
def asciiOf (w : List Char) : List Byte := w.map (fun c => BitVec.ofNat 8 c.toNat)

/-- The number of a line "LOG n" in decimal. -/
def logNumber (line : List Byte) : Option Nat :=
  let digits := line.drop 4
  if line.take 4 == asciiOf ['L', 'O', 'G', ' '] && digits != [] && digits.all (fun b => decide (48 ≤ b.toNat ∧ b.toNat ≤ 57)) then
    some (digits.foldl (fun n b => 10 * n + (b.toNat - 48)) 0)
  else none

/-- What the console returns for ID, HEALTH, LOGEND, and LOG n. -/
def State.consoleId (s : State) : List Byte := hexOf s.moduleIdentity ++ crlf
def State.consoleHealth (s : State) : List Byte := hexOf s.health ++ crlf
def State.consoleEnd (s : State) : List Byte := decimal 20 s.logEnd.toNat ++ crlf
def State.consoleLog (s : State) (n : Nat) : List Byte :=
  match s.flash.log.find? (fun x => x.seq.toNat == n) with
  | none => asciiOf ['N', 'O', 'N', 'E'] ++ crlf
  | some r => hexLines r.bytes 64 ++ asciiOf ['O', 'K'] ++ crlf

/-- What the console returns for a line: ERR for one that is no command. -/
def State.console (s : State) (line : List Byte) : List Byte :=
  if line = asciiOf ['I', 'D'] then s.consoleId
  else if line = asciiOf ['H', 'E', 'A', 'L', 'T', 'H'] then s.consoleHealth
  else if line = asciiOf ['L', 'O', 'G', 'E', 'N', 'D'] then s.consoleEnd
  else match logNumber line with
    | some n => s.consoleLog n
    | none => asciiOf ['E', 'R', 'R'] ++ crlf

/-- UART_ID. -/
def execUartId (s : State) : Out := .next (if s.millerUp then { s with uartOut := s.consoleId } else s)

/-- UART_HEALTH. -/
def execUartHealth (s : State) : Out := .next (if s.millerUp then { s with uartOut := s.consoleHealth } else s)

/-- UART_LOGEND. -/
def execUartLogend (s : State) : Out := .next (if s.millerUp then { s with uartOut := s.consoleEnd } else s)

/-- UART_LOG: a line "LOG n", or any other line (R426). -/
def execUartLog (line : List Byte) (s : State) : Out := .next (if s.millerUp then { s with uartOut := s.console line } else s)

/-! ## The TAP (R427) -/

/-- IDCODE: 0xV524_0A5F with V the low four bits of the silicon revision. -/
def idcodeWord : Word32 := BitVec.ofNat 32 (Config.silicon.toNat % 16 * 2 ^ 28 + 0x5240A5F)

/-- Does the TAP run: powered, RESET_IN# high? -/
def State.tapUp (s : State) : Bool := s.resetIn && s.millerUp

/-- TAP_RESET: Test-Logic-Reset selects IDCODE, as IEEE 1149.1 gives. -/
def execTapReset (s : State) : Out := .next { s with tap := { s.tap with instr := .idcode } }

/-- The bypass register captures 0. -/
def State.tapBypass (s : State) : State := { s with tap := { s.tap with instr := .bypass, out := 0 } }

/-- BYPASS. -/
def execBypass (s : State) : Out := .next (if s.tapUp then s.tapBypass else s)

/-- IDCODE. -/
def execIdcode (s : State) : Out :=
  .next (if s.tapUp then { s with tap := { s.tap with instr := .idcode, out := idcodeWord } } else s)

/-- The boundary register as it captures the 3.3 V pins of row B: PERST#, RESET_IN#, UART_RX, GPIO0 to GPIO3, PWRGOOD, ALERT#,
THERMTRIP#, UART_TX, SMB_CLK, SMB_DAT, SMB_ADDR1 and SMB_ADDR0; a pin that the module pulls low reads low. Where each cell lies is free
(R427). -/
def State.capture (s : State) (p : PinLevels) : Word32 :=
  let drives (k : Nat) : Bool := s.tap.instr == .extest && !s.tap.preload.toNat.testBit k
  let gpio := ((List.range 4).map (fun g => b2n (p.gpio.toNat.testBit g && !s.pinPulled g) * 2 ^ g)).sum
  Config.boundary (BitVec.ofNat 32 (b2n p.perst + 2 * b2n p.resetIn + 4 * b2n p.uartRx + 8 * gpio + 128 * b2n s.pwrgood +
    256 * b2n (!s.alertLow) + 512 * b2n (!s.tripped) + 2 ^ 10 * b2n (p.uartTx && !drives 6) + 2 ^ 11 * b2n (p.smbClk && !drives 7) +
    2 ^ 12 * b2n (p.smbDat && !drives 8) + 2 ^ 13 * p.smbAddr.toNat))

/-- The levels that the carrier gives to the GPIO pins. -/
def State.shownPins (s : State) (p : PinLevels) : State :=
  (List.range 4).foldl (fun s g => s.shownLevel g (p.gpio.toNat.testBit g)) s

/-- SAMPLE_PRELOAD: decoded as BYPASS after SETUP_LOCK. -/
def execSamplePreload (pins : PinLevels) (preload : BitVec 9) (s : State) : Out :=
  let s := s.shownPins pins
  .next (if !s.tapUp then s else if s.locked then s.tapBypass
    else { s with tap := { instr := .sample, out := s.capture pins, preload := preload } })

/-- EXTEST: decoded as BYPASS after SETUP_LOCK; otherwise the pins are captured and the preloaded values drive them. -/
def execExtest (pins : PinLevels) (s : State) : Out :=
  let s := s.shownPins pins
  .next (if !s.tapUp then s else if s.locked then s.tapBypass
    else { s with tap := { s.tap with instr := .extest, out := s.capture pins } })

/-- DEBUG_TRIG_PULSE_END (R432). -/
def execDebugTrigPulseEnd (pin : Fin 2) (s : State) : Out :=
  .next (if (s.pin pin).pulse then s.setPin pin { s.pin pin with pulse := false } else s)

end Sys2Proof.Machine
end

