-- ==== Sys2Proof/Machine/LinkSchedule.lean ====
section
/-! DEFINITION. LINK_SCHEDULE: the schedule image, SYNC and the halt flag (R216, R226 to R228, R386). -/
namespace Sys2Proof.Machine

/-! ## The image (R226, R227) -/

/-- The access of the link engine to a schedule image. -/
def linkAcc (f : Nat) : Acc := { f := f, engine := 6 }

/-- The 16-bit word `i` of a byte image. -/
def half16 (bs : List Byte) (i : Nat) : Nat := leNat ((bs.drop (2 * i)).take 2)

/-- A schedule image and its tables as they lie in memory: header words, slot map, route, ring and credit tables. -/
structure SchedImage where
  header  : List Word64
  slotMap : List Byte
  routes  : List Byte
  rings   : List Byte
  credits : List Byte
  deriving DecidableEq, Repr

/-- PERIOD and RINGS of a header. -/
def schedPeriod (h : List Word64) : Nat := fld (wordAt h 2) 12 0
def schedRings (h : List Word64) : Nat := fld (wordAt h 2) 46 40

/-- Is the header well-formed by itself: reserved bits zero, PERIOD and RINGS in range, PORT_MASK the VALID PEER entries,
ROOT_MODULE below 1,023 (R226, R228)? -/
def headerOk (h : List Word64) : Bool :=
  let w (i : Nat) := wordAt h i
  let peer (p : Nat) : Nat := (w (8 + p / 4)).toNat / 2 ^ (16 * (p % 4)) % 65536
  fld (w 2) 47 47 == 0 && fld (w 2) 39 26 == 0 && fld (w 2) 15 13 == 0 && fld (w 3) 63 12 == 0 &&
  [4, 5, 6, 7].all (fun i => fld (w i) 63 48 == 0) && [11, 12, 13, 14, 15].all (fun i => w i == 0) &&
  (List.range 12).all (fun p => bitsOf (peer p) 14 10 == 0 && (fld (w 3) 11 0).testBit p == (peer p).testBit 15) &&
  1 ≤ schedPeriod h && schedPeriod h ≤ 4096 && schedRings h ≤ 64 && fld (w 2) 25 16 < 1023

/-- The member list of ring `r`; none where the table breaks R228. -/
def ringOf (bs : List Byte) (r : Nat) : Option (List Nat) :=
  let b := (bs.drop (2048 * r)).take 2048
  let n := half16 b 0
  let ids := (List.range n).map (fun i => half16 b (1 + i))
  if 1 ≤ n ∧ n ≤ 1023 ∧ ids.all (· < 1023) ∧ ids.Nodup ∧ (upFrom (n + 1) (1023 - n)).all (fun i => half16 b i == 0)
  then some ids else none

/-- Are the tables well-formed (R227, R228)? -/
def SchedImage.tablesOk (x : SchedImage) : Bool :=
  let mask := fld (wordAt x.header 3) 11 0
  (List.range (schedPeriod x.header * 12)).all (fun row =>
    let b := (x.slotMap.drop (row * 80)).take 80
    (List.range 80).all (fun i =>
      let v := (b.getD i 0).toNat
      if i = 0 ∨ 76 ≤ i then v == 0 else bitsOf v 6 4 == 0 && (!v.testBit 7 || mask.testBit (row % 12)))) &&
  (List.range 1023).all (fun d =>
    let v := half16 x.routes d
    bitsOf v 14 12 == 0 && bitsOf v 7 4 == 0 && (!v.testBit 15 || mask.testBit (bitsOf v 11 8))) &&
  (List.range (schedRings x.header)).all (fun r => (ringOf x.rings r).isSome) &&
  (List.range 12).all (fun p => ((List.range 16).map (fun c => half16 x.credits (16 * p + c))).sum ≤ 4096)

/-- Read an image and every table it points to. The tables are read only where the header is well-formed. -/
def readImage (f va : Nat) : Run SchedImage := do
  let a := linkAcc f
  let h ← readWords a va 16
  if !headerOk h then return { header := h, slotMap := [], routes := [], rings := [], credits := [] }
  let at_ (i : Nat) : Nat := fld (wordAt h i) 47 0
  let m ← readSV a (at_ 4) (schedPeriod h * 960)
  let t ← readSV a (at_ 5) 2046
  let r ← readSV a (at_ 6) (schedRings h * 2048)
  let c ← readSV a (at_ 7) 384
  return { header := h, slotMap := m, routes := t, rings := r, credits := c }

/-- The schedule of a well-formed image. -/
def SchedImage.schedule (x : SchedImage) : Schedule :=
  let w (i : Nat) := wordAt x.header i
  { tag := w 0, startTurn := w 1, startDelay := fld (w 2) 63 48, root := fld (w 2) 25 16, period := fld (w 2) 12 0,
    mask := BitVec.ofNat 12 (fld (w 3) 11 0),
    peers := (List.range 12).map (fun p => (w (8 + p / 4)).toNat / 2 ^ (16 * (p % 4)) % 1024),
    slotMap := x.slotMap,
    routes := (List.range 1023).map (fun d =>
      let v := half16 x.routes d
      if v.testBit 15 then some (bitsOf v 11 8, bitsOf v 3 0) else none),
    rings := (List.range (schedRings x.header)).map (fun r => (ringOf x.rings r).getD []),
    credits := (List.range 192).map (half16 x.credits) }

/-- Does TURN_ROOT agree with ROOT_MODULE (R228)? -/
def State.rootAgrees (s : State) (h : List Word64) : Bool := s.turnRoot == (fld (wordAt h 2) 25 16 == s.moduleId.toNat)

/-! ## LINK_SCHEDULE (R228) -/

/-- The module enters SYNC: the ports of PORT_MASK turn on and train. -/
def State.enterSync (s : State) (r : Nat) (x : Schedule) : State :=
  { s with leat :=
    { state := .sync, sched := x, turn := s.leat.turn, glitches := s.leat.glitches, cmdRing := some r,
      ports := (List.range 12).filterMap (fun p => if x.mask.toNat.testBit p then some (p, { on := true }) else none) } }

/-- The effect of a LINK_SCHEDULE with HALT = 0. -/
def State.linkSchedule (s : State) (f r : Nat) (c : Running) : State :=
  if f ≠ 0 then s.fail f r .access
  else
    let x := (readImage f (c.desc.addr 0x10)).exec s
    let s := x.2.s
    match x.1 with
    | .error e => s.failRead f r e
    | .ok im =>
      if !headerOk im.header || !im.tablesOk || !s.rootAgrees im.header then s.fail f r .malformed
      else if s.shape ≠ .whole ∨ s.linkUp then s.fail f r .state
      else (s.enterSync r im.schedule).setRunning f r (some { c with wait := .link })

/-- LINK_SCHEDULE (R228). -/
def execLinkSchedule (f : FnId) (r : RingIx) (s : State) : Out :=
  .next (s.runCmd f r .linkSchedule (fun c => if c.desc.op0 0 0 = 0 then s.linkSchedule f r c else s)).settle

/-- The effect of a LINK_SCHEDULE with HALT = 1 (R386). -/
def State.linkHaltCmd (s : State) (f r : Nat) (c : Running) : State :=
  if f ≠ 0 then s.fail f r .access
  else if !s.linkUp then s.fail f r .state
  else (s.linkFail 0 reasonLocal).setRunning f r (some { c with wait := .linkHalt })

/-- LINK_SCHEDULE_HALT (R386). -/
def execLinkScheduleHalt (f : FnId) (r : RingIx) (s : State) : Out :=
  .next (s.runCmd f r .linkSchedule (fun c => if c.desc.op0 0 0 = 1 then s.linkHaltCmd f r c else s))

/-- No start pulse has arrived within 2^22 turns: the command completes with TIMEOUT and the ports are held off again. -/
def State.syncExpiry (s : State) : State :=
  if s.leat.state ≠ .sync || s.leat.syncTurns < 2 ^ 22 || s.leat.startNext || s.leat.loaded then s
  else
    match s.leat.cmdRing with
    | some r => s.leatOff.finish 0 r .timeout (s.leat.turn.setWidth 32)
    | none => s.leatOff

/-- LINK_SCHEDULE_TIMEOUT (R228). -/
def execLinkScheduleTimeout (s : State) : Out := .next s.syncExpiry

/-! ## Ports (R217, R225, R240) -/

/-- A port has trained with its far end; a latency above 1,000 ns fails its training. -/
def State.portTrained (s : State) (p ns : Nat) : State :=
  let x := s.port p
  if s.leat.state = .sync ∧ x.on ∧ !x.trained then
    if ns > 1000 then s.linkFail p reasonLos else s.setPort p { x with trained := true, latency := ns }
  else s

/-- PORT_TRAINED (R225). -/
def execPortTrained (port : PortIx) (latencyNs : Nat) (s : State) : Out := .next (s.portTrained port latencyNs)

/-- A trained port has lost signal or lock. -/
def State.los (s : State) (p : Nat) : State := if (s.port p).trained then s.linkFail p reasonLos else s

/-- LOS (R240). -/
def execLos (port : PortIx) (s : State) : Out := .next (s.los port)

/-- Flits that a channel may send now (R230). -/
def Chan.room (x : Chan) : Nat := (x.credit - x.sent).toNat

/-- A channel that holds bytes without credit for a slot has waited 2^20 turns. -/
def State.stall (s : State) (p c : Nat) : State :=
  let x := (s.port p).chan c
  if s.leat.state = .run ∧ x.tx ≠ [] ∧ x.room < 8 ∧ 2 ^ 20 ≤ x.starved then s.linkFail p reasonStall else s

/-- STALL (R240). -/
def execStall (port : PortIx) (chan : Fin 16) (s : State) : Out := .next (s.stall port chan)

/-! ## Turn pulses (R221, R222, R431) -/

/-- A pulse by its width: true is a start pulse; none is a glitch. -/
def pulseIn (ns : Nat) : Option Bool :=
  if 4 ≤ ns ∧ ns ≤ 16 then some false else if 24 ≤ ns ∧ ns ≤ 48 then some true else none
def pulseFb (ns : Nat) : Option Bool :=
  if 50 ≤ ns ∧ ns ≤ 200 then some false else if 300 ≤ ns ∧ ns ≤ 600 then some true else none

/-- A member takes a pulse (R222, R225): within ±20 ns of the boundary it expects, the first one after SYNC whatever its timing.
A start pulse in SYNC marks the boundary at which START_TURN is loaded. -/
def State.takePulse (s : State) (kind : Option Bool) (ps : Int) : State :=
  let l := s.leat
  if s.turnRoot then s
  else
    match kind with
    | none => { s with leat := { l with glitches := l.glitches + 1 } }
    | some start =>
      if l.state == .idle || (l.synced && ps.natAbs > 20000) then s
      else { s with leat := { l with edge := true, synced := true, missed := 0,
                                     startNext := l.startNext || (start && l.state == .sync) } }

/-- TSYNC_IN has shown an edge in this turn (R222). -/
def State.showEdge (s : State) : State := { s with leat := { s.leat with shown := true } }

/-- TSYNC_PULSE_IN (R221). -/
def execTsyncPulseIn (widthNs : Nat) (offsetPs : Int) (s : State) : Out :=
  .next (s.showEdge.takePulse (pulseIn widthNs) offsetPs)

/-- TSYNC_FB_PULSE (R431): GPIO0 in its fallback role serves while TSYNC_IN shows no edge. -/
def execTsyncFbPulse (widthNs : Nat) (offsetPs : Int) (s : State) : Out :=
  .next (if (s.pin 0).tsync && !s.leat.shown then s.takePulse (pulseFb widthNs) offsetPs else s)

/-- TSYNC_LOST (R222): 128 turns without an accepted edge. -/
def execTsyncLost (s : State) : Out :=
  .next (if !s.turnRoot && s.leat.synced && 128 ≤ s.leat.missed then s.linkFail 0 reasonTsync else s)

end Sys2Proof.Machine
end

