-- ==== Sys2Proof/Machine/Power.lean ====
section
/-! DEFINITION. Power capping, resets, start-up, power failure, firmware images, function resets of the port
(17_power_clocks_startup.md, R359, R360, R413). -/
namespace Sys2Proof.Machine

/-! ## Capping (R438, R439) -/

/-- One period of the power controller: mean input power in W, peak input current in mA, input voltage in mV, hottest junction in m°C; and
whether SKIP has by now stayed at 48 over a limit for a further second. -/
def State.capPeriod (s : State) (w ma mv : Nat) (t : Int) (floorSecond : Bool) : State :=
  let p := s.pwr
  let p := { p with watts := BitVec.ofNat 16 w, amps := BitVec.ofNat 16 (ma / 10), volts := BitVec.ofNat 16 (mv / 10)
                    tj := BitVec.ofNat 16 (toTwos 16 (t * 8 / 1000)) }
  let skip := p.skip.toNat
  let lim := p.iLimit.toNat
  let cap := p.capW.toNat
  if ma > lim * 1000 then
    let n := min 48 (skip + 8)
    atLimit s (if n > skip then { p with skip := BitVec.ofNat 6 n, current := true, powerLim := false, thermal := false } else p) floorSecond
  else if w > cap ∨ t ≥ 105000 then
    let n := min 48 (skip + 1)
    let q := { p with skip := BitVec.ofNat 6 n, current := false, powerLim := decide (w > cap), thermal := decide (t ≥ 105000) }
    atLimit s (if n > skip then q else p) floorSecond
  else if 100 * w < 97 * cap ∧ ma * 100 < 97 * lim * 1000 ∧ t < 100000 ∧ skip > 0 then
    { s with pwr := { p with skip := BitVec.ofNat 6 (skip - 1), floor := false } }
  else { s with pwr := p }
where
  /-- A limit is exceeded: at SKIP 48 for a second, FLOOR is set and a record CAP_FLOOR written. -/
  atLimit (s : State) (p : Power) (second : Bool) : State :=
    if second && p.skip == 48 then ({ s with pwr := { p with floor := true } }).logPower 0x04 0 else { s with pwr := p }

/-- CAP_PERIOD (R439). -/
def execCapPeriod (powerW currentMa voltageMv : Nat) (tempMilliC : Int) (floorSecond : Bool) (s : State) : Out :=
  .next (if s.power = .run then s.capPeriod powerW currentMa voltageMv tempMilliC floorSecond else s)

/-! ## Module reset (R440 to R442) -/

/-- What a module reset keeps: the standby domain, flash, device memory contents (undefined and unreachable until the next
COMMIT zeroes them), what lies outside the module, and the model's own bookkeeping. -/
def State.moduleReset (s : State) (ps : PowerState) : State :=
  let pins := s.gpio.filter (fun c => c.2.extern)
  { State.reset with
    pending := s.pending, freeCount := s.freeCount, power := ps, input := s.input, resetIn := s.resetIn, perst := s.perst,
    straps := s.straps, tripped := s.tripped, gpio := pins.map (fun c => (c.1, ({ extern := true } : Gpio))),
    flash := s.flash, hostMem := s.hostMem, hostResp := s.hostResp, msgs := s.msgs, hostReqs := s.hostReqs, ends := s.ends
    mem := s.mem, ecc := s.ecc, repairs := s.repairs, smbOut := s.smbOut, uartOut := s.uartOut, winOut := s.winOut,
    winPoison := s.winPoison }

/-- The slot that is not running. -/
def Flash.other (x : Flash) (runningB : Bool) : FwSlot := if runningB then x.slotA else x.slotB
def Flash.running (x : Flash) (runningB : Bool) : FwSlot := if runningB then x.slotB else x.slotA
def Flash.setSlot (x : Flash) (b : Bool) (v : FwSlot) : Flash := if b then { x with slotB := v } else { x with slotA := v }

/-- The larger generation of the two slots plus one (R457); an erased slot has none. -/
def Flash.nextGeneration (x : Flash) : Word32 :=
  let g (y : FwSlot) : Nat := if y.checksOk then y.generation.toNat else 0
  BitVec.ofNat 32 (max (g x.slotA) (g x.slotB) + 1)

/-- What an interrupted programming leaves in the slot not running, by the phase it had reached, which the manual leaves to
chance: unchanged, neither valid nor erased, or finished and valid (R452, R457). -/
def State.cutProgramming (s : State) : State :=
  if !s.fw.program then s
  else
    let k := (Config.freeByte s.freeCount).toNat % 3
    let s := s.tick
    let torn : FwSlot := { erased := false }
    let whole : FwSlot := { erased := false, checksOk := true, keyOk := true, version := BitVec.ofNat 16 s.imageVersion,
                            generation := s.flash.nextGeneration }
    if k = 0 then s
    else { s with flash := s.flash.setSlot (!s.fw.runningB) (if k = 1 then torn else whole) }

/-- RESET_IN_ASSERT (R440): RESET_IN# goes low. -/
def execResetInAssert (s : State) : Out :=
  let ps : PowerState := if s.power = .off then .off else .standby
  .next (if s.resetIn then ({ s.cutProgramming with resetIn := false }).moduleReset ps else s)

/-- The module resets itself as if RESET_IN# were held low for 1 ms (R441); start-up follows. -/
def State.selfReset (s : State) : State := (s.cutProgramming).moduleReset .standby

/-- MILLER_WATCHDOG (R440). -/
def execMillerWatchdog (s : State) : Out := .next (if s.millerUp then s.selfReset else s)

/-- A record that reaches flash at once, with TIME, TURN and BOOT, and the records dropped since the previous one (R409). -/
def State.flashNow (s : State) (kind : BitVec 8) (event value : Nat) : State :=
  let x := s.now
  let lost := s.logLost + (s.logQueue.headD {}).lost
  let turn := if s.leat.state = .run then s.leat.turn else 0
  ({ x.2 with logLost := 0 }).flashRecord
    { kind := kind, time := x.1, lost := lost, turn := turn, boot := s.flash.boots, detail := eventDetail event value 0 }

/-- PLL_UNLOCK (R435): a POWER record PLL_UNLOCK, then a module reset. -/
def execPllUnlock (s : State) : Out :=
  .next (if s.power = .run then (s.flashNow kindPower 0x05 0).selfReset else s)

/-- THERMAL_TRIP (R413): the regulators are off, THERMTRIP# is held low, a POWER record THERMTRIP is written. -/
def execThermalTrip (s : State) : Out :=
  .next (if s.millerUp then { (s.flashNow kindPower 0x02 0).selfReset with tripped := true } else s)

/-! ## Power failure (R449 to R454) -/

/-- Power-fail: the marker with the number of waiting records is programmed, and every volatile state is lost. -/
def State.powerLost (s : State) : State :=
  let x := s.now
  let m : Marker := { time := x.1, discarded := BitVec.ofNat 16 (s.logQueue.length - 1) }
  let s := x.2.cutProgramming
  { ({ s with flash := { s.flash with marker := some m } }).moduleReset .off with holdup := true, clockNs := 0 }

/-- POWER_FAIL (R449). -/
def execPowerFail (s : State) : Out := .next (if s.millerUp then s.powerLost else s)

/-- HOLDUP_EXPIRY (R449): the stored charge is spent; the input must meet the turn-on condition afresh (R451). -/
def execHoldupExpiry (s : State) : Out := .next (if s.holdup then { s with holdup := false, input := false, tripped := false } else s)

/-- INPUT_REMOVED (R433, R440): from START or RUN it is met as a power-fail first; the standby domain loses its state. -/
def execInputRemoved (s : State) : Out :=
  .next (if s.millerUp then { s.powerLost with input := false, tripped := false, alert := false }
    else { s.moduleReset .off with input := false, tripped := false })

/-! ## Start-up (R446, R453, R455, R456) -/

/-- choose_image of R456: the slot to boot (true is B) and whether it rolls back; none when no slot is valid. -/
def Flash.choose (x : Flash) : Option (Bool × Bool) :=
  let a := x.slotA
  let b := x.slotB
  if !a.valid && !b.valid then none
  else
    let bestB := if a.valid && b.valid then decide (b.generation > a.generation) else b.valid
    let best := if bestB then b else a
    let other := if bestB then a else b
    if best.attempt = 0 ∧ best.confirmed = 0xFF ∧ other.valid then some (!bestB, true) else some (bestB, false)

/-- Stones, epochs and LASTING bits as flash kept them; SUSPECT and TESTING come back QUARANTINED (R404). -/
def State.restoreKept (s : State) : State :=
  let k := s.flash.kept
  let stones := k.stones.foldl (fun (t : Table Stone) c =>
    let st := if c.2.state = .suspect ∨ c.2.state = .testing then StoneState.quarantined else c.2.state
    let l := c.2.logical
    let ep : Word32 := match l with | some l => Table.get 0 k.epochs l | none => 0
    Table.put (stoneShipped c.1) t c.1 (freshStone st l ep)) []
  let stones := (List.range 100).foldl (fun (t : Table Stone) p =>
    let x := Table.get (stoneShipped p) t p
    match x.logical with
    | some l => Table.put (stoneShipped p) t p { x with epoch := Table.get 0 k.epochs l }
    | none => t) stones
  { s with stones := stones, epochs := k.epochs, units := k.lasting.map (fun c => (c.1, ({ lasting := true } : UnitCount))) }

/-- The start-up records: UNCLEAN_LOSS of a marker, INCOMPLETE for a torn slot, ROLLED_BACK (R450, R453, R456, R457). -/
def State.startRecords (s : State) (rolled : Bool) : State :=
  let s := match s.flash.marker with
    | none => s
    | some m =>
      let s := { s with lostPower := true, flash := { s.flash with marker := none } }
      s.log { kind := kindPower, lost := m.discarded.setWidth 32, detail := eventDetail 0x01 0 m.time.toNat }
  let torn := [s.flash.slotA, s.flash.slotB].filter (fun x => !x.valid && !x.erased)
  let s := torn.foldl (fun s x => s.logFirmware 0x05 x.version.toNat) s
  let s := if torn ≠ [] then { s with fw := { s.fw with state := .failed, cause := 6 } } else s
  if rolled then s.logFirmware 0x03 s.fw.version.toNat else s

/-- The module starts up: input above turn-on and RESET_IN# high (R437, R446). The straps are sampled as 48 V is applied (R424). -/
def State.startUp (s : State) (straps : BitVec 2) : State :=
  let s := { s with input := true, resetIn := true, straps := if s.input then s.straps else straps }
  match s.flash.choose with
  | none => { s with power := .standby }
  | some (b, rolled) =>
    let slot := s.flash.running b
    let slot := if !rolled ∧ slot.attempt = 0xFF then { slot with attempt := 0 } else slot
    let fl := { s.flash.setSlot b slot with boots := s.flash.boots + 1 }
    let s := { s with power := .start, flash := fl,
                      fw := { runningB := b, rolledBack := rolled, version := slot.version } }
    (s.restoreKept).startRecords rolled

/-- START_UP (R446). -/
def execStartUp (straps : BitVec 2) (s : State) : Out :=
  .next (if (s.power = .off ∨ s.power = .standby) ∧ !s.tripped ∧ !s.holdup then s.startUp straps else s)

/-- PLL_LOCK (R434, R446): PWRGOOD goes high and the module is in RUN. -/
def execPllLock (s : State) : Out := .next (if s.power = .start then { s with pllLocked := true, power := .run } else s)

/-- Training ends (R444, R447, R456): failures are reported and logged; the running image is confirmed, and its first
confirmation logged. -/
def State.trainingEnd (s : State) (hbm : BitVec 12) (tier : BitVec 4) : State :=
  let s := { s with hbmFail := hbm, tierFail := tier, trained := true }
  let s := (List.range 12).foldl (fun s k => if hbm.toNat.testBit k then s.logPower 0x03 k else s) s
  let s := (List.range 4).foldl (fun s h => if tier.toNat.testBit h then s.logPower 0x03 h else s) s
  let slot := s.flash.running s.fw.runningB
  if slot.confirmed == 0xFF then
    ({ s with flash := s.flash.setSlot s.fw.runningB { slot with confirmed := 0 } }).logFirmware 0x02 slot.version.toNat
  else s

/-- TRAINING_END (R444). -/
def execTrainingEnd (hbmFail : BitVec 12) (tierFail : BitVec 4) (s : State) : Out :=
  .next (if s.power = .run ∧ !s.trained then s.trainingEnd hbmFail tierFail else s)

/-- CONFIGURATION_READY (R446): the PCIe link has trained, at a rate and width of R332. -/
def execConfigurationReady (rate : Fin 3) (x16 : Bool) (s : State) : Out :=
  .next (if s.power = .run ∧ s.perst then { s with cfgReady := true, pcieRate := BitVec.ofNat 2 rate, pcieX16 := x16 } else s)

/-! ## Resets of the port and of functions (R359, R360, R440) -/

/-- Every VF that holds anything is reset. -/
def State.resetVfs (s : State) (keep : Bool) : State :=
  let ids := ((s.fns.map (·.1)) ++ (s.binds.map (·.1))).dedup
  (ids.filter (fun f => f != 0)).foldl (fun s f => s.resetFunction f keep) s

/-- A function-level reset of PF0 that the host starts (R360): the LOCAL failure finds the leat as it stood. -/
def State.resetPf (s : State) : State :=
  let s := (s.linkFail 0 reasonLocal).resetFunction 0 false
  ({ s with vfEnable := false }).resetVfs false

/-- The PCIe port and configuration space reset (R440): every register of it that State holds, those that outlast a function-level reset
among them. -/
def State.portReset (s : State) : State :=
  let s := s.resetPf
  { s with cfgReady := false, numVfs := 0, pcieRate := 0, pcieX16 := false
           fns := s.fns.map (fun c => (c.1, { c.2 with maxPayload := ({} : Func).maxPayload, aer := 0 })) }

/-- PERST_ASSERT (R440, R441): ignored while RESET_IN# is low. -/
def execPerstAssert (s : State) : Out :=
  .next (if s.resetIn then (if s.perst then { s.portReset with perst := false } else s).settle else { s with perst := false })

/-- PERST_RELEASE (R443). -/
def execPerstRelease (s : State) : Out := .next { s with perst := true }

/-- PCIE_LINK_DOWN (R440). -/
def execPcieLinkDown (s : State) : Out := .next (if s.cfgReady then s.portReset.settle else s)

/-- FUNCTION_LEVEL_RESET (R359); of PF0 it is the host's (R360). -/
def execFunctionLevelReset (f : FnId) (s : State) : Out :=
  .next (if !s.cfgReady then s else if f = 0 then s.resetPf.settle else (s.resetFunction f false).settle)

/-- PF0_FUNCTION_LEVEL_RESET (R360). -/
def execPf0FunctionLevelReset (s : State) : Out := .next (if s.cfgReady then s.resetPf.settle else s)

/-- FLR_END (R359). -/
def execFlrEnd (f : FnId) (s : State) : Out := .next (if (s.fn f).resetting then s.endReset f else s)

/-- D3HOT_ENTRY (R437). -/
def execD3hotEntry (f : FnId) (s : State) : Out := .next (if s.cfgReady then s.setFn f { s.fn f with d3hot := true } else s)

/-- D0_RETURN (R437): the return resets the function under R359. -/
def execD0Return (f : FnId) (s : State) : Out :=
  .next (if (s.fn f).d3hot then (s.resetFunction f false).settle else s)

/-- VF_ENABLE_WRITE (R333): NumVFs is taken only while VF Enable is 0, as PCIe gives; clearing VF Enable resets every VF. -/
def execVfEnableWrite (enable : Bool) (numVfs : Nat) (s : State) : Out :=
  .next (if !s.cfgReady then s
    else if s.vfEnable then (if enable then s else (({ s with vfEnable := false }).resetVfs false).settle)
    else { s with vfEnable := enable, numVfs := BitVec.ofNat 8 (min numVfs 255) })

/-! ## Firmware programming (R457) -/

/-- Bytes of the image at FW_SRC. -/
def State.imageBytes (s : State) (o n : Nat) : List Byte := s.mem.readN (s.fw.src.toNat * 4096 + o) n

/-- CAUSE of the first failing check of step 1, 0 when the image would be valid. -/
def State.imageCause (s : State) (keyOk : Bool) : BitVec 4 :=
  let a := s.fw.src.toNat * 4096
  let h := s.imageBytes 0 0x40
  let len := (word32At h 8).toNat
  let reach := match regionOf a with
    | some (x, hs, _) => x != .pond && (s.part (partOfHouse s.shape hs)).state == .active &&
        s.dramRun (partOfHouse s.shape hs) a (0x1000 + len)
    | none => false
  if !reach then 4
  else if word32At h 0 ≠ 0x574D5253 ∨ word32At h 0x3C ≠ crc32c (h.take 0x3C) ∨ len = 0 ∨ len > 16773120 ∨
    (h.drop 0x10).take 0x2C ≠ natLe 0x2C 0 then 1
  else if word32At h 0xC ≠ crc32c (s.imageBytes 0x1000 len) then 2
  else if !keyOk then 3
  else 0

/-- The programming sequence ends (R457). -/
def State.fwDone (s : State) (keyOk flashOk : Bool) : State :=
  if !s.fw.program then s
  else
    let cause := s.imageCause keyOk
    let v := s.imageVersion
    if cause ≠ 0 then
      ({ s with fw := { s.fw with program := false, state := .failed, cause := cause } }).logFirmware 0x04 v
    else if !flashOk then
      ({ s with fw := { s.fw with program := false, state := .failed, cause := 5 },
                flash := s.flash.setSlot (!s.fw.runningB) { erased := false } }).logFirmware 0x04 v
    else
      let slot : FwSlot := { erased := false, checksOk := true, keyOk := true, version := BitVec.ofNat 16 v,
                             generation := s.flash.nextGeneration }
      ({ s with fw := { s.fw with program := false, state := .done, cause := 0 },
                flash := s.flash.setSlot (!s.fw.runningB) slot }).logFirmware 0x01 v

/-- FW_PROGRAM_DONE (R457): whether the key hash and the signature verify, and whether flash took the image. -/
def execFwProgramDone (keyOk flashOk : Bool) (s : State) : Out := .next (s.fwDone keyOk flashOk)

end Sys2Proof.Machine
end

