-- ==== Sys2Proof/Machine/Snapshot.lean ====
section
/-! DEFINITION. SNAPSHOT and RESTORE (R100, R257 to R262, R370). -/
namespace Sys2Proof.Machine

/-! ## SNAPSHOT (R259, R260) -/

/-- Does a buffer lie in TYPE 0 pages that the function may write? -/
def onDevice (a : Acc) (va n : Nat) : Run Bool := do
  let xs ← (pieces va n).mapM (fun x => do
    let t ← translate a true x.1
    return match t.1 with | .dev _ => true | _ => false)
  return xs.all (fun b => b)

/-- Has every stage of a plan run its last round? Then its completion is decided (R209). -/
def State.decided (s : State) (x : PlanRun) : Bool :=
  ((List.range x.stages.length).zip x.stages).all (fun y => x.finished.contains y.1 || (s.setCtx y.2.stone y.2.set).finished)

/-- The plan instance that a SNAPSHOT names, if it still runs and no earlier SNAPSHOT stops it (R260). -/
def State.instanceOf (s : State) (f r : Nat) (seq : Word32) : Option PlanRun :=
  match s.running f r with
  | some c =>
    if c.seq = seq && !(s.snapOn { f := f, r := r, seq := seq }) then
      (match c.wait with | .plan x => if s.decided x then none else some x | _ => none)
    else none
  | none => none

/-- The effect of a SNAPSHOT: VALID is 0 from now on, every set of the instance stops, and the image is written once they have
(R100, R259, R260). -/
def State.snapshot (s : State) (f r : Nat) (c : Running) : State :=
  let sq := c.desc.op0 3 0
  let seq : Word32 := BitVec.ofNat 32 (c.desc.field 0x10 31 0)
  let len := c.desc.field 0x20 63 0
  let base := c.desc.addr 0x18
  let size := s.imageSize f sq seq
  let y := (onDevice (stoneAcc f 0) base (min len (2 ^ 48))).exec s
  let s := y.2.s
  match y.1 with
  | .ok true =>
    (match s.instanceOf f sq seq with
     | none => s.fail f r .state
     | some run =>
       if len < size then s.fail f r .capacity
       else
         let xs := s.sectionsOf f sq seq
         let z := (writeV (stoneAcc f 0) base (natLe 8 (xs.length * 2 ^ 48 + run.plan.toNat))).exec s
         match z.1 with
         | .error e => z.2.s.stopped f r e
         | .ok _ =>
           let s := z.2.s.setRunning f r (some { c with wait := .snapshot sq seq })
           let s := xs.foldl (fun s x => (s.stopIdle x.2.1 x.2.2).stopDue x.2.1) s
           s.imageDue f r)
  | _ => s.fail f r .access

/-- SNAPSHOT (R259). -/
def execSnapshot (f : FnId) (r : RingIx) (s : State) : Out := .next (s.runCmd f r .snapshot (s.snapshot f r)).settle

/-! ## RESTORE (R262) -/

/-- One section of an image. -/
structure SetImage where
  logical : Nat
  index   : Nat
  kept    : SavedSet
  bins    : List Byte
  accs    : List Byte
  deriving DecidableEq, Repr

/-- What a section's context stands for: what this module saved under its bytes, else what another module did (log entry 24). -/
def keptOf (saved : List SavedSet) (l i : Nat) (code : List Byte) : SavedSet :=
  (saved.find? (fun k => k.logical == l && k.index == i && k.code == code)).getD (Config.foreignSet l i code)

/-- The sections of an image's body, by the sizes in their headers; none where the body does not hold them whole. -/
def sectionsIn (saved : List SavedSet) : Nat → List Byte → Option (List SetImage)
  | 0, bs => if bs = [] then some [] else none
  | n + 1, bs => do
    let w := wordsOf bs 8
    let num (k : Nat) : Nat := (wordAt w k).toNat
    let sp : StagePlan := { binUnits := num 2, accSlots := num 3, tables := num 4, spouts := num 6 }
    let size := sp.sectionBytes + 16 * num 5
    if num 7 ≠ 0 || bs.length < size then none
    let rest ← sectionsIn saved n (bs.drop size)
    return { logical := num 0, index := num 1, kept := keptOf saved (num 0) (num 1) ((bs.drop 64).take 1024)
             bins := (bs.drop 1088).take (2 * sp.bin), accs := (bs.drop (1088 + 2 * sp.bin)).take (sp.accSlots * 4096) } :: rest

/-- Does a section have the sizes that its set is bound with? -/
def SetImage.sized (x : SetImage) (c : SetCtx) : Bool :=
  x.bins.length == 2 * c.plan.bin && x.accs.length == c.plan.accSlots * 4096

/-- Are the loop counters of a saved set below their COUNTs? -/
def SetCtx.countersOk (c : SetCtx) : Bool :=
  match c.phaseRec.body with
  | .vane b => c.unit ≤ b.units
  | .loop t => c.pos.layer < t.layers.length && (c.pos.counts.zip t.levels).all (fun x => x.1 < x.2.count)

/-- The set that the image names for a stage; a stage without a section is over. -/
def wantOf (xs : List SetImage) (stage : Nat) : Want :=
  match xs.find? (fun x => x.kept.ctx.stage == stage) with
  | some x => .named x.index
  | none => .over

/-- A bound set takes up its saved context, windows and tables; orders count on from `base`. -/
def Stone.load (y : Stone) (base i : Nat) (x : SetImage) : Stone :=
  let now := y.set i
  let k := x.kept.ctx
  let up (n : Nat) : Nat := if n = 0 then 0 else base + n
  let c := { k with
    state := .waiting, f := now.f, r := now.r, seq := now.seq, overshot := now.overshot, plan := now.plan
    binOff := now.binOff, accBase := now.accBase, areas := now.areas, tables := now.tables, fillDue := up k.fillDue
    groups := k.groups.map (fun g => { g with closed := up g.closed })
    rings := k.rings.map (fun z => (z.1, z.2.map (fun g => { g with ecc := none })))
    pawl := if k.pawl = .given then .given else .none }
  let n := now.plan.bin
  let bin := (y.bin.write now.binOff (x.bins.take n)).write (halfBytes + now.binOff) (x.bins.drop n)
  let acc := ((List.range now.accRuns.length).zip now.accRuns).foldl
    (fun (m : Memory) (z : Nat × Nat) => m.write z.2 ((x.accs.drop (z.1 * 128)).take 128)) y.acc
  let marks := x.kept.flushed.foldl (fun m z => Table.put false m (z.1 + now.accBase * 128) z.2) y.flushed
  let tabs := (now.tables.zip x.kept.tables).foldl (fun m z => Table.put {} m z.1 z.2) y.tables
  let top := (k.fillDue :: k.readyAt :: k.groups.map (·.closed)).foldl max 0
  { y.setSet i c with bin := bin, acc := acc, flushed := marks, tables := tabs, order := max y.order (base + top) }

/-- Every section is loaded, and each stage takes its pawl again unless it has given it (R215). -/
def State.loadSets (s : State) (old : State) (xs : List SetImage) : State :=
  xs.foldl (fun s x =>
    match s.physOf x.logical with
    | none => s
    | some p =>
      let s := s.modStone p (fun y => (y.zeroWindows (y.set x.index)).load (old.stone p).order x.index x)
      if (s.setCtx p x.index).pawl = .given then s else s.takeStagePawl p x.index) s

/-- Read an image: its header, and its body if VALID is 1 and BYTES counts whole sections. -/
def readSnapshot (a : Acc) (va : Nat) : Run (List Byte × List Byte) := do
  let head ← readSV a va 64
  let n := (word64At head 8).toNat
  if !bitAt (word64At head 0) 63 || n < 64 then halt .malformed
  let body ← readSV a (va + 64) (n - 64)
  return (head, body)

/-- The sets of an image are bound and loaded, and the RESTORE runs as its RUN_PLAN did. -/
def State.restoreSets (s : State) (f r : Nat) (c : Running) (plan : Nat) (xs : List SetImage) : State :=
  let b := s.binder f r c
  if xs.any (fun x => match s.physOf x.logical with
      | none => true
      | some p => (s.setCtx p x.index).state != .empty) then s.fail f r .state
  else
    let y := s.tryBind (bindPlan b plan (wantOf xs))
    match y.1, xs with
    | .error e, _ => y.2.failRead f r e
    | .ok _, [] => s.fail f r .malformed
    | .ok run, x :: _ =>
      let sized (z : SetImage) : Bool := (s.physOf z.logical).any (fun p => z.sized (y.2.setCtx p z.index))
      if !xs.all (fun z => z.kept.ctx.countersOk && sized z) then s.fail f r .malformed
      else
        let k := x.kept.plan
        let run := { run with finished := k.finished, flags := k.flags, hists := k.hists, broken := k.broken }
        (y.2.setRunning f r (some { c with wait := .plan run })).loadSets s xs

/-- The effect of a RESTORE. -/
def State.restore (s : State) (f r : Nat) (c : Running) : State :=
  let x := (readSnapshot (stoneAcc f 0) (c.desc.addr 0x10)).exec s
  let s := x.2.s
  match x.1 with
  | .error e => if e.report = none && e.status = .malformed then s.fail f r .malformed else s.failRead f r e
  | .ok (head, body) =>
    let h := word64At head 0
    let plan := fld h 47 0
    let check := word64At head 0x10
    if fld check 31 0 ≠ (crc32c body).toNat then s.fail f r .malformed
    else
      let b := { s.binder f r c with survey := true }
      let y := s.tryBind (bindPlan b plan (fun _ => .over))
      match y.1 with
      | .error e => if e.report ≠ none || e.status = .deviceError then y.2.failRead f r e else y.2.fail f r .malformed
      | .ok run =>
        let s := y.2
        if run.check.toNat ≠ fld check 63 32 then s.fail f r .malformed
        else
          match sectionsIn s.saved (fld h 56 48) body with
          | none => s.fail f r .malformed
          | some xs =>
            if fld (word64At head 0x18) 7 0 ≠ f || xs.any (fun x => !s.owns (s.partOf f) (x.logical / 24)) then s.fail f r .access
            else s.restoreSets f r c plan xs

/-- RESTORE (R262). -/
def execRestore (f : FnId) (r : RingIx) (s : State) : Out := .next (s.runCmd f r .restore (s.restore f r)).settle

end Sys2Proof.Machine
end

