-- ==== Sys2Proof/Machine/Turns.lean ====
section
/-! DEFINITION. Turn boundaries, markers, flits and packets of the links (R218 to R225, R229 to R234, R241 to R244). -/
namespace Sys2Proof.Machine

/-! ## Sending (R218 to R220, R230) -/

/-- STATE of a marker. -/
def LState.marker : LState → Nat
  | .run => 1 | .halt => 2 | _ => 0

/-- REQ bytes of a lane: the slots to be replayed, at most four (R231). -/
def reqBytes (req : List (Nat × Nat)) (lane : Nat) : List Byte :=
  let l := (req.filter (fun x => x.1 == lane)).map (·.2)
  (List.range 4).map (fun i => BitVec.ofNat 8 (l.getD i 0))

/-- The 640 bytes of the marker that port `p` sends (R220). -/
def State.markerBytes (s : State) (p : Nat) : List Byte :=
  let l := s.leat
  let x := s.port p
  let h := if l.state = .halt then l.halt.getD {} else {}
  natLe 8 (if l.state = .sync then 0 else l.turn.toNat) ++ natLe 8 l.sched.tag.toNat ++
  natLe 8 (s.moduleId.toNat + p * 2 ^ 10 + l.state.marker * 2 ^ 14 + l.sched.root * 2 ^ 16) ++
  natLe 8 h.turn.toNat ++ natLe 8 (h.reason.toNat + h.port * 2 ^ 18 + h.origin * 2 ^ 22) ++ natLe 24 0 ++
  (List.range 16).flatMap (fun c => natLe 4 (l.sched.credits.getD (16 * p + c) 0 + (x.chan c).passed / 640)) ++
  (List.range 8).flatMap (reqBytes x.asked) ++ natLe 480 0

/-- TURN_LO of the flits of this turn. -/
def State.turnLo (s : State) : Nat := if s.leat.state = .sync then 0 else s.leat.turn.toNat % 64

/-- The marker flits of a port, alike on all 8 lanes. -/
def State.markers (s : State) (p : Nat) : List TxFlit :=
  (List.range 8).map (fun l => { port := p, type := 2, slot := 0, lane := l, turnLo := s.turnLo, payload := s.markerBytes p })

/-- The flits of a slot of a port that carries nothing (R219). -/
def State.idleSlot (s : State) (p i : Nat) : List TxFlit :=
  (List.range 8).map (fun l => { port := p, type := 0, sentIn := i, slot := i, lane := l, turnLo := s.turnLo })

/-- Channel that the slot map gives slot `i` of port `p` in a turn (R227). -/
def Schedule.slotChan (x : Schedule) (turn : Word64) (p i : Nat) : Option Nat :=
  let u := (turn - x.startTurn).toNat % x.period
  let b := (x.slotMap.getD ((u * 12 + p) * 80 + i) 0).toNat
  if b.testBit 7 then some (b % 16) else none

/-- The 5,120 bytes of a channel's next slot: what the channel holds, and after its last byte bytes that the manual leaves open. -/
def slotPayload (free : Nat) (tx : List Byte) : List Byte :=
  let now := tx.take 5120
  now ++ (upFrom free (5120 - now.length)).map Config.slotFill

/-- Fill one data slot of a port: the next 5,120 bytes of its channel, if it holds bytes and credit for 8 flits; else IDLE (R230). -/
def State.sendSlot (s : State) (p i : Nat) : State × List TxFlit :=
  match s.leat.sched.slotChan s.leat.turn p i with
  | none => (s, s.idleSlot p i)
  | some c =>
    let x := s.port p
    let k := x.chan c
    if k.tx = [] ∨ k.room < 8 then (s, s.idleSlot p i)
    else
      let bs := slotPayload s.freeCount k.tx
      ({ s.setPort p (x.setChan c { k with tx := k.tx.drop 5120, sent := k.sent + 8 }) with
           freeCount := s.freeCount + (5120 - k.tx.length) },
       (List.range 8).map (fun l =>
         { port := p, type := 1, sentIn := i, slot := i, lane := l, turnLo := s.turnLo,
           payload := (bs.drop (640 * l)).take 640 }))

/-- Fill the 75 data slots of a port. -/
def State.sendSlots (s : State) (p : Nat) : State × List TxFlit :=
  (upFrom 1 75).foldl (fun x i => let y := x.1.sendSlot p i; (y.1, x.2 ++ y.2)) (s, [])

/-- Trained ports. -/
def State.livePorts (s : State) : List Nat := (s.leat.ports.filter (fun c => c.2.trained)).map (·.1)

/-- Everything sent in the turn that begins, 80 codewords on every lane (R218, R219): markers, data while in RUN, and IDLE, which a
replay displaces in slots 76 to 79. -/
def State.sendTurn (s : State) : State :=
  let x := s.livePorts.foldl (fun x p =>
    let y := if x.1.leat.state = .run then x.1.sendSlots p else (x.1, (upFrom 1 75).flatMap (s.idleSlot p))
    (y.1, x.2 ++ s.markers p ++ y.2 ++ (upFrom 76 4).flatMap (s.idleSlot p))) (s, [])
  { x.1 with leat := { x.1.leat with out := x.2 } }

/-! ## Delivery (R232, R233) -/

/-- The 5,120 bytes of a slot, when all of its 8 lanes came. -/
def slotBytes (fl : List RxFlit) (i : Nat) : Option (List Byte) :=
  let l := (List.range 8).filterMap (fun n => (fl.find? (fun x => x.slot == i && x.lane == n)).bind (·.payload))
  if l.length = 8 then some l.flatten else none

/-- Split the bytes of a channel into packets: those for this module wait for their step, the others are forwarded; a header
that breaks R233 is a failure. `n` bounds how many. -/
def State.parseChan (s : State) (p c : Nat) : Nat → State
  | 0 => s
  | n + 1 =>
    let x := s.port p
    let k := x.chan c
    if k.rx.length < 32 then s
    else
      match parseHeader (k.rx.take 32) with
      | none => s.linkFail p reasonProtocol
      | some (h, len) =>
        let z := 32 + padded32 len
        if k.rx.length < z then s
        else
          let pk := { h with payload := (k.rx.drop 32).take len }
          if pk.dst = s.moduleId.toNat then
            (s.setPort p (x.setChan c { k with rx := k.rx.drop z, packets := k.packets ++ [pk] })).parseChan p c n
          else
            let s := s.setPort p (x.setChan c { k with rx := k.rx.drop z, passed := k.passed + z })
            (s.pushPacket pk).parseChan p c n

/-- Pass the bytes of one slot received three turns ago to its channel. The receiver takes the channel of a slot from its own
slot map of the port. -/
def State.deliverSlot (s : State) (turn : Word64) (p i : Nat) (fl : List RxFlit) : State :=
  match s.leat.sched.slotChan turn p i, slotBytes fl i with
  | some c, some bs =>
    let x := s.port p
    let k := x.chan c
    let s := s.setPort p (x.setChan c { k with rx := k.rx ++ bs })
    s.parseChan p c ((k.rx.length + 5120) / 32)
  | _, _ => s

/-- A channel that holds bytes and has no credit for a slot has waited one turn more (R240). -/
def Chan.wait (k : Chan) : Chan := { k with starved := if k.tx != [] && k.room < 8 then k.starved + 1 else 0 }

/-- Deliver what a port received three turns before the turn that begins, its replays with it, and move the others on; a replay that
has not come by then is missing (R231, R232). -/
def State.deliverPort (s : State) (p : Nat) : State :=
  let x := s.port p
  let s := s.setPort p { x with rx0 := [], rx1 := x.rx0, rx2 := x.rx1, asked := x.req, asked1 := x.asked, req := [], bad := [],
                                chans := x.chans.map (fun c => (c.1, c.2.wait)),
                                lastTx := (s.leat.out.filter (fun t => t.port == p && t.type == 1)) }
  let s := (upFrom 1 75).foldl (fun s i => s.deliverSlot (s.leat.turn - 3) p i x.rx2) s
  if x.rx2.any (fun f => f.payload.isNone) then s.linkFail p reasonFec else s

/-! ## Halting (R241, R243, R244) -/

/-- Does the running command of a ring have link work that has not ended (R243): a ring collective, LINK_SCHEDULE, or a TYPE 1 access
that it has made or will make? -/
def State.linkWork (s : State) (f r : Nat) (c : Running) : Bool :=
  match c.wait with
  | .collective _ => true
  | .acks _ _ => true
  | .tag => c.desc.ringEn || (s.combineLeaves f c.desc).1
  | .combine _ => (s.combineLeaves f c.desc).1
  | .staging _ ws => (s.copyJob f r c (copyShapeOf ws)).reachesLink s
  | .link => true
  | _ => false

/-- The rings whose running command has link work, by function and ring. -/
def State.linkWorkers (s : State) : List (Nat × Nat) :=
  s.fns.flatMap (fun x => ((List.range 16).filter (fun r =>
    match s.running x.1 r with | some c => s.linkWork x.1 r c | none => false)).map (fun r => (x.1, r)))

/-- Commands with link work complete with ABORTED; a LINK_SCHEDULE with HALT set completes with OK; tags that packets contribute to
break (R243, R386). -/
def State.abortLinkWork (s : State) : State :=
  let s := s.linkWorkers.foldl (fun s x => s.endCommand x.1 x.2 .aborted) s
  let s := s.fns.foldl (fun s x => (List.range 16).foldl (fun s r =>
    match s.running x.1 r with
    | some c => if c.wait = .linkHalt then s.finish x.1 r .ok (s.leat.turn.setWidth 32) else s
    | none => s) s) s
  s.tags.foldl (fun s c => if c.2.parts.any (fun k => k.remote.isSome) then
    s.breakTag (c.1 / 65536) (c.1 % 65536) .broken none else s) s

/-- The halt boundary: everything in the channels is discarded; the record goes to the fault log, and PF0 has a notice
(R243, R244). After a failure before RUN the ports are held off (R228). -/
def State.haltNow (s : State) : State :=
  let was := s.leat.state
  let s := { s with leat := { s.leat with state := .halt, haltNext := false, startNext := false, haltAt := s.leat.turn,
                                          cmdRing := none } }
  let s := s.abortLinkWork
  let ports := if was = .sync then [] else s.leat.ports.map (fun c =>
    (c.1, { c.2 with chans := [], rx0 := [], rx1 := [], rx2 := [], lastTx := [], req := [], asked := [], asked1 := [], bad := [] }))
  let s := { s with leat := { s.leat with ports := ports, awaited := [], queued := [], out := [] } }
  let s := s.log { kind := kindLinkHalt, detail := s.linkRecord }
  ((({ s with alert := true }).debugPulse).notice 0 .link).sendTurn

/-! ## The boundary (R221, R224, R225, R241) -/

/-- The boundary at which a start pulse loads START_TURN: the module enters RUN, unless a port of PORT_MASK has not trained. -/
def State.startTurn (s : State) : State :=
  let s := { s with leat := { s.leat with turn := s.leat.sched.startTurn, startNext := false, loaded := true, pulse := some true } }
  match (s.leat.ports.filter (fun c => c.2.on && !c.2.trained)).head? with
  | some c => (s.linkFail c.1 reasonLos).sendTurn
  | none =>
    let s := match s.leat.cmdRing with
      | some r => s.finish 0 r .ok (s.leat.turn.setWidth 32)
      | none => s
    ({ s with leat := { s.leat with state := .run, cmdRing := none } }).sendTurn

/-- A turn boundary in SYNC. -/
def State.syncTurn (s : State) : State :=
  let n := s.leat.syncTurns + 1
  let s := { s with leat := { s.leat with syncTurns := n, pulse := some false } }
  if s.leat.startNext || (s.turnRoot && n ≥ s.leat.sched.startDelay) then s.startTurn else s.sendTurn

/-- A turn boundary in RUN. -/
def State.runTurn (s : State) : State :=
  let s := { s with leat := { s.leat with turn := s.leat.turn + 1, pulse := some false } }
  ((s.leat.ports.map (·.1)).foldl (fun s p => s.deliverPort p) s).sendTurn

/-- Count a turn without an accepted edge (R222). -/
def State.countEdge (s : State) : State :=
  let l := s.leat
  let missed := if !s.turnRoot && l.synced && !l.edge then l.missed + 1 else l.missed
  { s with leat := { l with missed := missed, edge := false, shown := false } }

/-- A turn boundary is reached. -/
def State.turnBoundary (s : State) : State :=
  let edge := s.leat.edge
  let t := s.countEdge
  match s.leat.state with
  | .idle => s
  | .sync =>
    if s.leat.haltNext then
      ({ t with leat := { t.leat with turn := if t.leat.loaded then t.leat.turn + 1 else t.leat.turn, pulse := some false } }).haltNow
    else t.syncTurn
  | .run =>
    if s.leat.haltNext then
      ({ t with leat := { t.leat with turn := t.leat.turn + 1, pulse := some false } }).haltNow
    else t.runTurn
  | .halt =>
    let on := s.turnRoot || edge
    ({ t with leat := { t.leat with turn := if on then t.leat.turn + 1 else t.leat.turn, pulse := some false } }).sendTurn

/-- TURN_BOUNDARY (R221). -/
def execTurnBoundary (s : State) : Out := .next s.turnBoundary.settle

/-! ## Receiving (R219, R220, R223, R229 to R231) -/

/-- Fail on a condition. -/
def State.failIf (s : State) (b : Bool) (p : Nat) (reason : BitVec 8) : State := if b then s.linkFail p reason else s

/-- Credits of a marker (R230). -/
def State.takeCredits (s : State) (p : Nat) (bs : List Byte) : State :=
  (List.range 16).foldl (fun s c =>
    let x := s.port p
    s.setPort p (x.setChan c { x.chan c with credit := word32At bs (0x40 + 4 * c) })) s

/-- Resend the codewords that a marker asks for, in slots 76 to 79 in place of IDLE (R231). -/
def State.replay (s : State) (p : Nat) (bs : List Byte) : State :=
  let x := s.port p
  let lo := (s.leat.turn.toNat + 63) % 64
  let fl := (List.range 8).flatMap (fun l => (List.range 4).filterMap (fun i =>
    let n := (bs.getD (0x80 + 4 * l + i) 0).toNat
    if n = 0 then none
    else
      let old := x.lastTx.find? (fun t => t.slot == n && t.lane == l)
      some ({ port := p, type := 3, slot := n, lane := l, turnLo := lo,
              payload := match old with | some t => t.payload | none => [], sentIn := 76 + i } : TxFlit)))
  { s with leat := { s.leat with out := s.leat.out.map (fun t =>
      (fl.find? (fun u => u.port == t.port && u.lane == t.lane && u.sentIn == t.sentIn)).getD t) } }

/-- Keep the halt record of a peer and halt at the next boundary (R241, R242). -/
def State.peerHalt (s : State) (bs : List Byte) : State :=
  let w := word64At bs 0x20
  let h : Halt := { turn := word64At bs 0x18, origin := fld w 31 22, port := fld w 21 18, reason := BitVec.ofNat 8 (fld w 7 0) }
  { s with leat := { s.leat with halt := keepHalt s.leat.halt h, haltNext := s.linkUp } }

/-- A marker that a port has decoded; several failures are detected in the order of their codes. The skew is the arrival less the
port's latency (R223): 12 units of 83.3 ps are 1 ns. -/
def State.marker (s : State) (p : Nat) (bs : List Byte) (arrival : Int) : State :=
  let w := word64At bs 0x10
  let st := fld w 15 14
  let run := s.leat.state == .run
  let skew : Int := arrival - 12 * (s.port p).latency
  let s := s.setPort p { s.port p with skew := BitVec.ofInt 32 skew }
  let s := s.failIf (run && (st == 0 || word64At bs 0 != s.leat.turn)) p reasonCount
  let s := s.failIf (word64At bs 8 != s.leat.sched.tag) p reasonTag
  let s := s.failIf (fld w 9 0 != s.leat.sched.peers.getD p 0) p reasonPeer
  let s := s.failIf (run && skew.natAbs > 480) p reasonSkew
  let s := s.failIf (fld w 25 16 != s.leat.sched.root) p reasonRoot
  let s := if st = 2 then s.peerHalt bs else s
  let s := if s.linkUp then s.takeCredits p bs else s
  if run then s.replay p bs else s

/-- Does the header of a slot-0 flit show another SLOT, LANE or, outside SYNC, another TURN_LO than the receiver's own (R219,
R225)? -/
def State.misaligned (s : State) (lane : Nat) (h : BitVec 20) : Bool :=
  bitsOf h.toNat 16 10 != 0 || bitsOf h.toNat 9 7 != lane ||
  (s.leat.state != .sync && bitsOf h.toNat 6 1 != s.leat.turn.toNat % 64)

/-- An uncorrectable codeword on a lane; the fifth of a lane in one turn is a failure (R231). -/
def State.countBad (s : State) (p lane : Nat) : State :=
  let x := s.port p
  (s.setPort p { x with bad := x.bad ++ [lane] }).failIf (4 ≤ (x.bad.filter (fun l => l == lane)).length) p reasonFec

/-- A marker slot of a port: every lane that decodes is checked for alignment, the lowest one that carries a marker is used, and a
slot without one is a failure (R219, R220). -/
def State.markerSlot (s : State) (p : Nat) (lanes : List (Option (BitVec 20 × List Byte))) (arrival : Int) : State :=
  if s.leat.state = .idle ∨ !(s.port p).trained then s
  else
    let l := (List.range 8).map (fun i => (i, lanes.getD i none))
    let s := (l.filter (fun x => x.2.isNone)).foldl (fun s x => s.countBad p x.1) s
    let s := s.failIf (l.any (fun x => match x.2 with | some y => s.misaligned x.1 y.1 | none => false)) p reasonAlign
    match l.findSome? (fun x => x.2.bind (fun y => if bitsOf y.1.toNat 19 17 = 2 then some y.2 else none)) with
    | none => s.linkFail p reasonMark
    | some bs => s.marker p bs arrival

/-- MARKER_RECEIVE (R220). -/
def execMarkerReceive (port : PortIx) (lanes : List (Option (BitVec 20 × List Byte))) (arrival : Int) (s : State) : Out :=
  .next (s.markerSlot port lanes arrival)

/-- An uncorrectable codeword of slots 1 to 79: a data slot is listed for replay, at most four on a lane in a turn; a slot that a
replay of this turn or of the one before it was to fill is a failure (R231, R232). -/
def State.uncorrectable (s : State) (p lane slot : Nat) : State :=
  let s := s.countBad p lane
  let x := s.port p
  if 76 ≤ slot then
    s.failIf (slot - 76 < (x.asked.filter (fun q => q.1 == lane)).length) p reasonFec
  else if (x.req.filter (fun q => q.1 == lane)).length ≥ 4 then s.linkFail p reasonFec
  else s.setPort p { x with req := x.req ++ [(lane, slot)], rx0 := x.rx0 ++ [{ slot := slot, lane := lane }] }

/-- A replayed codeword fills the place of the one that was uncorrectable, one turn before or, where the receiver decodes it in the
next turn, two turns before (R232). -/
def State.takeReplay (s : State) (p lane slot orig : Nat) (late : Bool) (bs : List Byte) : State :=
  let x := s.port p
  let l := ((if late then x.asked1 else x.asked).filter (fun q => q.1 == lane)).map (·.2)
  let fill (rx : List RxFlit) : List RxFlit :=
    rx.map (fun f => if f.slot = orig ∧ f.lane = lane then { f with payload := some bs } else f)
  if l.getD (slot - 76) 0 ≠ orig ∨ orig = 0 then s.linkFail p reasonAlign
  else s.setPort p (if late then { x with rx2 := fill x.rx2 } else { x with rx1 := fill x.rx1 })

/-- A decoded flit of a data or replay slot: SLOT, LANE and TURN_LO are checked (R219). -/
def State.flit (s : State) (p lane slot : Nat) (h : BitVec 20) (bs : List Byte) : State :=
  let ty := bitsOf h.toNat 19 17
  let hs := bitsOf h.toNat 16 10
  let lo := bitsOf h.toNat 6 1
  let turn := s.leat.turn.toNat
  if bitsOf h.toNat 9 7 ≠ lane then s.linkFail p reasonAlign
  else if ty = 3 then
    let late := decide (lo = (turn + 62) % 64)
    if slot < 76 ∨ (lo ≠ (turn + 63) % 64 ∧ !late) then s.linkFail p reasonAlign else s.takeReplay p lane slot hs late bs
  else if hs ≠ slot ∨ lo ≠ turn % 64 then s.linkFail p reasonAlign
  else if ty = 0 then s
  else if ty = 1 ∧ slot ≤ 75 then
    let x := s.port p
    s.setPort p { x with rx0 := x.rx0 ++ [{ slot := slot, lane := lane, payload := some bs }] }
  else s.linkFail p reasonAlign

/-- A codeword of slots 1 to 79 in RUN. -/
def State.codeword (s : State) (p lane slot : Nat) (h : BitVec 20) (payload : Option (List Byte)) : State :=
  if s.leat.state ≠ .run ∨ !(s.port p).trained ∨ slot = 0 then s
  else
    match payload with
    | none => s.uncorrectable p lane slot
    | some bs => s.flit p lane slot h bs

/-- FLIT_RECEIVE (R219). -/
def execFlitReceive (port : PortIx) (lane : Fin 8) (slot : Fin 80) (header : BitVec 20) (payload : Option (List Byte))
    (s : State) : Out := .next (s.codeword port lane slot header payload)

/-! ## Packets for this module (R234, R236) -/

/-- The packet at the head of a channel, when it is of a kind and the leat runs. -/
def State.headPacket (s : State) (p c kind : Nat) : Option Packet :=
  match ((s.port p).chan c).packets with
  | [] => none
  | k :: _ => if k.kind = kind ∧ s.leat.state = .run then some k else none

/-- The packet at the head of a channel has been passed on: its flits are free (R230). -/
def State.passPacket (s : State) (p c : Nat) : State :=
  let x := s.port p
  let k := x.chan c
  match k.packets with
  | [] => s
  | h :: rest => s.setPort p (x.setChan c { k with packets := rest, passed := k.passed + 32 + padded32 h.payload.length })

/-- Run the effect of the packet at the head of a channel; it stays there while the effect has to wait. -/
def State.runPacket (s : State) (p c kind : Nat) (k : Packet → Option State) : State :=
  match s.headPacket p c kind with
  | none => s
  | some h => match k h with | some t => t.passPacket p c | none => s

/-- May packets reach device memory: the leat's one partition, of Whole, ACTIVE, and the address mapped (R247, R252)? -/
def State.packetReaches (s : State) (pa : Nat) : Bool := (s.part 0).state == .active && s.mapped pa

/-- A WRITE packet: the bytes are written to device memory, and an ACK returns. Bytes for an address that no packet may reach are
dropped. -/
def State.writePacket (s : State) (p : Packet) : State :=
  (if s.packetReaches p.addr then s.devStore false p.addr p.payload else s).ack p

/-- WRITE_PACKET (R234). -/
def execWritePacket (port : PortIx) (chan : Fin 16) (s : State) : Out :=
  .next (s.runPacket port chan 1 (fun p => some (s.writePacket p))).settle

/-- The chunks of a COMBINE packet: device address and bytes. -/
def Packet.chunks (p : Packet) : List (Nat × List Byte) :=
  (List.range (ceilDiv p.payload.length 1024)).map (fun i => (p.addr + i * 1024, (p.payload.drop (i * 1024)).take 1024))

/-- Number of the chunk of a tag that lies at a device address. -/
def State.chunkAt (s : State) (x : CombineTag) (pa : Nat) : Option Nat :=
  if x.byPlace then some 0
  else (List.range (chunksOf x.len)).find? (fun q => s.tagPlace x q == some pa)

/-- Does a COMBINE packet agree with the tag it reaches (R183, R234)? -/
def CombineTag.takes (x : CombineTag) (p : Packet) : Bool :=
  !x.broken && x.fmt == p.fmt && x.count == p.countM1 + 1 && x.arrival == (p.op == 1) && x.init == p.init &&
  p.index < x.count &&
  (match x.by_ p.index with | none => true | some k => (k.remote.map (·.1)) == some p.src)

/-- Chunks of a packet reach their home units one by one; none if one must wait for a slot. Answers whether a chunk was
held. -/
def State.arriveAll (s : State) (t i : Nat) (id : Nat × Word32) : List (Nat × List Byte) → Option (Bool × State)
  | [] => some (false, s)
  | (pa, bs) :: rest =>
    let x := s.tag 0 t
    match s.chunkAt x pa with
    | none => s.arriveAll t i id rest
    | some q =>
      if x.broken || (!x.arrival && i < Table.get 0 x.expected (x.key q pa)) then s.arriveAll t i id rest
      else
        match s.arrive 0 t q (some pa) i false (some id) bs with
        | none => none
        | some s' =>
          match s'.arriveAll t i id rest with
          | none => none
          | some (held, s'') => some (held || (s'.tag 0 t).held.any (fun h => h.packet == some id), s'')

/-- A COMBINE packet at its home units. One that no tag can take has no effect; either way an ACK returns. -/
def State.combinePacket (s : State) (p : Packet) : Option State :=
  let t := p.tag.toNat
  let x := s.tag 0 t
  let hs := (p.chunks.map (fun c => s.chunkHome 0 0 (some c.1))).dedup
  let opens := x.count == 0
  if (opens || x.byPlace) && hs.any (fun h => !x.houses.contains h && s.openTags h ≥ 256) then none
  else
    let x := if opens then { fmt := p.fmt, count := p.countM1 + 1, arrival := p.op == 1, init := p.init, byPlace := true } else x
    if (p.fmt ≠ 1 ∧ p.fmt ≠ 3) || !x.takes p || p.chunks.any (fun c => !s.packetReaches c.1) then some (s.ack p)
    else
      let x := if (x.by_ p.index).isSome then x
               else { x with parts := x.parts ++ [{ index := p.index, remote := some (p.src, p.seq) }] }
      let x := if x.byPlace then { x with houses := (x.houses ++ hs).dedup } else x
      match (s.setTag 0 t x).arriveAll t p.index (p.src, p.seq) p.chunks with
      | none => none
      | some (held, s') => some (if held then s' else s'.ack p)

/-- COMBINE_PACKET (R234). -/
def execCombinePacket (port : PortIx) (chan : Fin 16) (s : State) : Out :=
  .next (s.runPacket port chan 2 (fun p => s.combinePacket p)).settle

/-- RING_PACKET (R236). -/
def execRingPacket (port : PortIx) (chan : Fin 16) (s : State) : Out :=
  .next (s.runPacket port chan 3 (fun p => s.ringPacket p)).settle

/-- An ACK: the packet it names no longer waits; the command that sent it ends with its last one, and packets that waited
go. -/
def State.ackPacket (s : State) (p : Packet) : State :=
  match s.leat.awaited.find? (fun a => a.dst == p.src && a.seq == p.seq) with
  | none => s
  | some a =>
    let s := ({ s with leat := { s.leat with awaited := s.leat.awaited.filter (fun b => b != a) } }).sendAll
    match s.running a.f a.r with
    | some c =>
      match c.wait with
      | .acks st recs =>
        if c.seq = a.cmd ∧ s.owedAcks a.f a.r a.cmd = 0 then
          s.finishWith a.f a.r st (if opcodeOf c.desc.opcode = some .combine then BitVec.ofNat 32 (chunksOf c.desc.len) else 0) recs
        else s
      | _ => s
    | none => s

/-- ACK_PACKET (R234). -/
def execAckPacket (port : PortIx) (chan : Fin 16) (s : State) : Out :=
  .next (s.runPacket port chan 4 (fun p => some (s.ackPacket p))).settle

end Sys2Proof.Machine
end

