-- ==== Sys2Proof/Machine/Dispatch.lean ====
section
/-! DEFINITION. One arm per command: the direct call of its meaning. -/
namespace Sys2Proof.Machine

/-- The effect of a command on everything but the queue. -/
def exec (i : Instr) (s : State) : Host.Outcome State Fault Refusal :=
  match i with
  | .nop f r => Sys2Proof.Machine.execNop f r s
  | .runPlan f r => Sys2Proof.Machine.execRunPlan f r s
  | .copy f r => Sys2Proof.Machine.execCopy f r s
  | .allGather f r => Sys2Proof.Machine.execAllGather f r s
  | .fill f r => Sys2Proof.Machine.execFill f r s
  | .combine f r => Sys2Proof.Machine.execCombine f r s
  | .allReduce f r => Sys2Proof.Machine.execAllReduce f r s
  | .reduceScatter f r => Sys2Proof.Machine.execReduceScatter f r s
  | .signal f r => Sys2Proof.Machine.execSignal f r s
  | .wait f r => Sys2Proof.Machine.execWait f r s
  | .fence f r => Sys2Proof.Machine.execFence f r s
  | .pawlTake f r => Sys2Proof.Machine.execPawlTake f r s
  | .pawlGive f r => Sys2Proof.Machine.execPawlGive f r s
  | .gristJoin f r => Sys2Proof.Machine.execGristJoin f r s
  | .gristLeave f r => Sys2Proof.Machine.execGristLeave f r s
  | .gristStep f r => Sys2Proof.Machine.execGristStep f r s
  | .hopperBatch f r => Sys2Proof.Machine.execHopperBatch f r s
  | .raceDecode f r => Sys2Proof.Machine.execRaceDecode f r s
  | .raceEncode f r => Sys2Proof.Machine.execRaceEncode f r s
  | .damselSeed f r => Sys2Proof.Machine.execDamselSeed f r s
  | .damselDraw f r => Sys2Proof.Machine.execDamselDraw f r s
  | .bolterSample f r => Sys2Proof.Machine.execBolterSample f r s
  | .snapshot f r => Sys2Proof.Machine.execSnapshot f r s
  | .restore f r => Sys2Proof.Machine.execRestore f r s
  | .timestamp f r => Sys2Proof.Machine.execTimestamp f r s
  | .query f r => Sys2Proof.Machine.execQuery f r s
  | .linkSchedule f r => Sys2Proof.Machine.execLinkSchedule f r s
  | .linkScheduleHalt f r => Sys2Proof.Machine.execLinkScheduleHalt f r s
  | .descriptorFetch f r => Sys2Proof.Machine.execDescriptorFetch f r s
  | .completionEntryWrite f r => Sys2Proof.Machine.execCompletionEntryWrite f r s
  | .passIssue p mismatch => Sys2Proof.Machine.execPassIssue p mismatch s
  | .dummyPass p mismatch => Sys2Proof.Machine.execDummyPass p mismatch s
  | .vaneReadout p => Sys2Proof.Machine.execVaneReadout p s
  | .vaneOpUnit p => Sys2Proof.Machine.execVaneOpUnit p s
  | .bindingDone p ix => Sys2Proof.Machine.execBindingDone p ix s
  | .tileReady p ix => Sys2Proof.Machine.execTileReady p ix s
  | .setSwitch p => Sys2Proof.Machine.execSetSwitch p s
  | .switchInDone p => Sys2Proof.Machine.execSwitchInDone p s
  | .setComplete p ix => Sys2Proof.Machine.execSetComplete p ix s
  | .heartbeat p => Sys2Proof.Machine.execHeartbeat p s
  | .checkerRotate p => Sys2Proof.Machine.execCheckerRotate p s
  | .schedWindow p => Sys2Proof.Machine.execSchedWindow p s
  | .allotmentExpiry p => Sys2Proof.Machine.execAllotmentExpiry p s
  | .chuteFillDone p ix => Sys2Proof.Machine.execChuteFillDone p ix s
  | .phaseStart p ix => Sys2Proof.Machine.execPhaseStart p ix s
  | .spoutSegmentMove p ix spout => Sys2Proof.Machine.execSpoutSegmentMove p ix spout s
  | .inletRead p ix inlet => Sys2Proof.Machine.execInletRead p ix inlet s
  | .stagePawlGive p ix => Sys2Proof.Machine.execStagePawlGive p ix s
  | .planComplete f r => Sys2Proof.Machine.execPlanComplete f r s
  | .stagedCopyStart f r => Sys2Proof.Machine.execStagedCopyStart f r s
  | .chunkArrive f r => Sys2Proof.Machine.execChunkArrive f r s
  | .combineTagGranted f r => Sys2Proof.Machine.execCombineTagGranted f r s
  | .combineTimeoutExpiry p tag => Sys2Proof.Machine.execCombineTimeoutExpiry p tag s
  | .tagFreeTimeout p tag => Sys2Proof.Machine.execTagFreeTimeout p tag s
  | .ringTimeout f r => Sys2Proof.Machine.execRingTimeout f r s
  | .turnBoundary => Sys2Proof.Machine.execTurnBoundary s
  | .tsyncPulseIn widthNs offsetPs => Sys2Proof.Machine.execTsyncPulseIn widthNs offsetPs s
  | .tsyncFbPulse widthNs offsetPs => Sys2Proof.Machine.execTsyncFbPulse widthNs offsetPs s
  | .tsyncLost => Sys2Proof.Machine.execTsyncLost s
  | .markerReceive port lanes arrival => Sys2Proof.Machine.execMarkerReceive port lanes arrival s
  | .flitReceive port lane slot header payload => Sys2Proof.Machine.execFlitReceive port lane slot header payload s
  | .writePacket port chan => Sys2Proof.Machine.execWritePacket port chan s
  | .combinePacket port chan => Sys2Proof.Machine.execCombinePacket port chan s
  | .ringPacket port chan => Sys2Proof.Machine.execRingPacket port chan s
  | .ackPacket port chan => Sys2Proof.Machine.execAckPacket port chan s
  | .portTrained port latencyNs => Sys2Proof.Machine.execPortTrained port latencyNs s
  | .los port => Sys2Proof.Machine.execLos port s
  | .stall port chan => Sys2Proof.Machine.execStall port chan s
  | .linkScheduleTimeout => Sys2Proof.Machine.execLinkScheduleTimeout s
  | .pawlTakeTimeout f r => Sys2Proof.Machine.execPawlTakeTimeout f r s
  | .waitPoll f r => Sys2Proof.Machine.execWaitPoll f r s
  | .waitTimeout f r => Sys2Proof.Machine.execWaitTimeout f r s
  | .fenceTimeout f r => Sys2Proof.Machine.execFenceTimeout f r s
  | .zeroingDone p => Sys2Proof.Machine.execZeroingDone p s
  | .releaseDone p => Sys2Proof.Machine.execReleaseDone p s
  | .sampleDeadline f r => Sys2Proof.Machine.execSampleDeadline f r s
  | .sampleBuffersTaken f r => Sys2Proof.Machine.execSampleBuffersTaken f r s
  | .stoneDeadDeclared p => Sys2Proof.Machine.execStoneDeadDeclared p s
  | .millerScan => Sys2Proof.Machine.execMillerScan s
  | .faultWindowBoundary => Sys2Proof.Machine.execFaultWindowBoundary s
  | .logRecordProgrammed => Sys2Proof.Machine.execLogRecordProgrammed s
  | .logCopyDone => Sys2Proof.Machine.execLogCopyDone s
  | .stoneTestDone p passed => Sys2Proof.Machine.execStoneTestDone p passed s
  | .fwProgramDone keyOk flashOk => Sys2Proof.Machine.execFwProgramDone keyOk flashOk s
  | .moderationTimer f c => Sys2Proof.Machine.execModerationTimer f c s
  | .capPeriod w ma mv t fs => Sys2Proof.Machine.execCapPeriod w ma mv t fs s
  | .thermalTrip => Sys2Proof.Machine.execThermalTrip s
  | .pllUnlock => Sys2Proof.Machine.execPllUnlock s
  | .millerWatchdog => Sys2Proof.Machine.execMillerWatchdog s
  | .powerFail => Sys2Proof.Machine.execPowerFail s
  | .holdupExpiry => Sys2Proof.Machine.execHoldupExpiry s
  | .startUp straps => Sys2Proof.Machine.execStartUp straps s
  | .pllLock => Sys2Proof.Machine.execPllLock s
  | .trainingEnd hbmFail tierFail => Sys2Proof.Machine.execTrainingEnd hbmFail tierFail s
  | .resetInAssert => Sys2Proof.Machine.execResetInAssert s
  | .perstAssert => Sys2Proof.Machine.execPerstAssert s
  | .perstRelease => Sys2Proof.Machine.execPerstRelease s
  | .pcieLinkDown => Sys2Proof.Machine.execPcieLinkDown s
  | .functionLevelReset f => Sys2Proof.Machine.execFunctionLevelReset f s
  | .pf0FunctionLevelReset => Sys2Proof.Machine.execPf0FunctionLevelReset s
  | .flrEnd f => Sys2Proof.Machine.execFlrEnd f s
  | .d3hotEntry f => Sys2Proof.Machine.execD3hotEntry f s
  | .d0Return f => Sys2Proof.Machine.execD0Return f s
  | .msixUnmask f vector => Sys2Proof.Machine.execMsixUnmask f vector s
  | .memwinRead offset len => Sys2Proof.Machine.execMemwinRead offset len s
  | .memwinWrite offset data => Sys2Proof.Machine.execMemwinWrite offset data s
  | .tapReset => Sys2Proof.Machine.execTapReset s
  | .bypass => Sys2Proof.Machine.execBypass s
  | .idcode => Sys2Proof.Machine.execIdcode s
  | .samplePreload pins preload => Sys2Proof.Machine.execSamplePreload pins preload s
  | .extest pins => Sys2Proof.Machine.execExtest pins s
  | .smbIdentity pec => Sys2Proof.Machine.execSmbIdentity pec s
  | .smbHealth pec => Sys2Proof.Machine.execSmbHealth pec s
  | .smbLogEnd pec => Sys2Proof.Machine.execSmbLogEnd pec s
  | .smbLogSelect seq pecOk => Sys2Proof.Machine.execSmbLogSelect seq pecOk s
  | .smbLogRead pec => Sys2Proof.Machine.execSmbLogRead pec s
  | .smbAlertResponse won causeAfter => Sys2Proof.Machine.execSmbAlertResponse won causeAfter s
  | .uartId => Sys2Proof.Machine.execUartId s
  | .uartHealth => Sys2Proof.Machine.execUartHealth s
  | .uartLogend => Sys2Proof.Machine.execUartLogend s
  | .uartLog line => Sys2Proof.Machine.execUartLog line s
  | .sqEnable f r value => Sys2Proof.Machine.execSqEnable f r value s
  | .sqDisable f r value => Sys2Proof.Machine.execSqDisable f r value s
  | .sqResume f r => Sys2Proof.Machine.execSqResume f r s
  | .sqAbort f r resume => Sys2Proof.Machine.execSqAbort f r resume s
  | .cqEnable f c value => Sys2Proof.Machine.execCqEnable f c value s
  | .cqDisable f c value => Sys2Proof.Machine.execCqDisable f c value s
  | .doorbellSqTail f d value => Sys2Proof.Machine.execDoorbellSqTail f d value s
  | .doorbellCqHead f d value => Sys2Proof.Machine.execDoorbellCqHead f d value s
  | .cqRearm f d value => Sys2Proof.Machine.execCqRearm f d value s
  | .weirLevelWrite w value => Sys2Proof.Machine.execWeirLevelWrite w value s
  | .weirFallingWrite w value => Sys2Proof.Machine.execWeirFallingWrite w value s
  | .weirCrossedClear w value => Sys2Proof.Machine.execWeirCrossedClear w value s
  | .weirCountClear w value => Sys2Proof.Machine.execWeirCountClear w value s
  | .setupLockWrite value => Sys2Proof.Machine.execSetupLockWrite value s
  | .partitionCommit p value => Sys2Proof.Machine.execPartitionCommit p value s
  | .partitionRelease p value => Sys2Proof.Machine.execPartitionRelease p value s
  | .tenantKill f value => Sys2Proof.Machine.execTenantKill f value s
  | .stoneTest p => Sys2Proof.Machine.execStoneTest p s
  | .stoneRetire p => Sys2Proof.Machine.execStoneRetire p s
  | .fwProgram value => Sys2Proof.Machine.execFwProgram value s
  | .gpioAssignWrite pin value level => Sys2Proof.Machine.execGpioAssignWrite pin value level s
  | .combineTimeoutWrite value expired => Sys2Proof.Machine.execCombineTimeoutWrite value expired s
  | .faultThresholdWrite value => Sys2Proof.Machine.execFaultThresholdWrite value s
  | .logSelectWrite value => Sys2Proof.Machine.execLogSelectWrite value s
  | .registerWrite f space offset width value => Sys2Proof.Machine.execRegisterWrite f space offset width value s
  | .inputRemoved => Sys2Proof.Machine.execInputRemoved s
  | .configurationReady rate x16 => Sys2Proof.Machine.execConfigurationReady rate x16 s
  | .vfEnableWrite enable numVfs => Sys2Proof.Machine.execVfEnableWrite enable numVfs s
  | .completionTimeout f r address => Sys2Proof.Machine.execCompletionTimeout f r address s
  | .debugTrigPulseEnd pin => Sys2Proof.Machine.execDebugTrigPulseEnd pin s

end Sys2Proof.Machine
end

