-- ==== Sys2Proof/Safety.lean ====
section
/-! DEFINITION. What counts as a safe run, and the words that the statements use: the canonical form of the memories, legal
settings, the steady part of the state, ends of commands, what a module reset leaves. -/
namespace Sys2Proof.Machine

/-! ## Invariants -/

/-- Both memories are in their canonical form: equal memories are equal lists. -/
def State.MemoriesCanonical (s : State) : Prop := s.mem.wf = true ∧ s.hostMem.wf = true

/-- Every setting that a setup register holds lies in the range its rule gives: POWER (R438), SKIP (R439), FAULT_CFG (R467),
LEAT_CTRL (R465), MODULE_CFG (R464), COMBINE_TIMEOUT (R466). -/
structure State.SettingsLegal (s : State) : Prop where
  cap     : 500 ≤ s.pwr.capW.toNat ∧ s.pwr.capW.toNat ≤ 3800
  current : 40 ≤ s.pwr.iLimit.toNat ∧ s.pwr.iLimit.toNat ≤ 85
  skip    : s.pwr.skip.toNat ≤ 48
  window  : 20 ≤ s.faultWin.toNat ∧ s.faultWin.toNat ≤ 40
  inForce : 20 ≤ s.faultWinOn.toNat ∧ s.faultWinOn.toNat ≤ 40
  delay   : s.tsyncDelay.toNat ≤ 24575
  id      : s.moduleId ≠ 1023
  timeout : s.combineUs ≠ 0

/-! ## The steady part -/

/-- The part of the state that no ring command, engine or link event changes. -/
structure Steady where
  power      : PowerState
  holdup     : Bool
  input      : Bool
  resetIn    : Bool
  perst      : Bool
  cfgReady   : Bool
  pllLocked  : Bool
  tripped    : Bool
  straps     : BitVec 2
  pwr        : Power
  gpio       : Table Gpio
  tap        : Tap
  smbOut     : List Byte
  smbSeq     : Word64
  smbCursor  : Nat
  uartOut    : List Byte
  locked     : Bool
  wrej       : Bool
  rejOffset  : BitVec 20
  shape      : Shape
  moduleId   : BitVec 10
  turnRoot   : Bool
  tsyncDelay : BitVec 15
  hbmFail    : BitVec 12
  tierFail   : BitVec 4
  lostPower  : Bool
  trained    : Bool
  combineUs  : Word32
  faultWin   : BitVec 6
  faultWinOn : BitVec 6
  faultTh    : BitVec 8
  fw         : FwCtrl
  logSel     : Word64
  logReady   : Bool
  logBusy    : Bool
  logValid   : Bool
  logCopy    : Option LogRec
  vfEnable   : Bool
  numVfs     : BitVec 8
  pcieRate   : BitVec 2
  pcieX16    : Bool
  binds      : Table Binding

/-- The steady part of a state. -/
def State.steady (s : State) : Steady :=
  { power := s.power, holdup := s.holdup, input := s.input, resetIn := s.resetIn, perst := s.perst, cfgReady := s.cfgReady,
    pllLocked := s.pllLocked, tripped := s.tripped, straps := s.straps, pwr := s.pwr, gpio := s.gpio, tap := s.tap,
    smbOut := s.smbOut, smbSeq := s.smbSeq, smbCursor := s.smbCursor, uartOut := s.uartOut, locked := s.locked,
    wrej := s.wrej, rejOffset := s.rejOffset, shape := s.shape, moduleId := s.moduleId, turnRoot := s.turnRoot,
    tsyncDelay := s.tsyncDelay, hbmFail := s.hbmFail, tierFail := s.tierFail, lostPower := s.lostPower,
    trained := s.trained, combineUs := s.combineUs, faultWin := s.faultWin, faultWinOn := s.faultWinOn,
    faultTh := s.faultTh, fw := s.fw, logSel := s.logSel, logReady := s.logReady, logBusy := s.logBusy,
    logValid := s.logValid, logCopy := s.logCopy, vfEnable := s.vfEnable, numVfs := s.numVfs,
    pcieRate := s.pcieRate, pcieX16 := s.pcieX16, binds := s.binds }

/-! ## Ends of commands -/

/-- The state in which the running command `c` of a ring has ended with a status and a RESULT, after whatever end it had (R366) and a
fault of its side buffer (R354), and has its place in the order of completion (R353); nothing else has changed. -/
def State.endedWith (s : State) (f r : Nat) (c : Running) (st : Status) (res : Word32) : State :=
  s.ended.setRunning f r (some { c with done := mergeEnd c.done (c.statusOf st) res, wait := .none, doneAt := s.ends })

/-- The state in which a check has turned the command `c` away: flag byte 0, nothing else changed but the order of completion
(R353, R364). -/
def State.turnedAway (s : State) (f r : Nat) (c : Running) (st : Status) (res : Word32) : State :=
  s.ended.setRunning f r (some { c with done := some (st, res), flags := {}, wait := .none, doneAt := s.ends })

/-! ## Operands in memory -/

/-- The `n` bytes from virtual address `va` that an access reads, or writes, are the bytes of device memory from `pa` on: each of them
translates without a fault (R158 to R163). -/
def State.Reaches (s : State) (a : Acc) (write : Bool) (va n pa : Nat) : Prop :=
  ∀ i < n, ∃ (nc : Bool) (e : Eng), (translate a write ((va + i) % 2 ^ 48)).exec s = (.ok (.dev (pa + i), nc), e)

/-- The same whatever the device bytes of some runs hold: no page table that the translation reads lies in them. -/
def State.ReachesApart (s : State) (runs : List (Nat × Nat)) (a : Acc) (write : Bool) (va n pa : Nat) : Prop :=
  ∀ mem : Memory, (∀ b, (∀ x ∈ runs, b < x.1 ∨ x.1 + x.2 ≤ b) → mem.read b = s.mem.read b) →
    { s with mem := mem }.Reaches a write va n pa

/-! ## Module resets -/

/-- Everything that a module reset puts back stands as after reset (R440): setup registers, partitions, functions, rings, stones,
engines, links, counters and the queue of the fault log. -/
structure State.JustReset (t : State) : Prop where
  locked   : t.locked = false
  rejects  : t.wrej = State.reset.wrej ∧ t.rejOffset = State.reset.rejOffset
  identity : t.shape = State.reset.shape ∧ t.moduleId = State.reset.moduleId ∧ t.turnRoot = State.reset.turnRoot ∧
    t.tsyncDelay = State.reset.tsyncDelay
  settings : t.combineUs = State.reset.combineUs ∧ t.faultWin = State.reset.faultWin ∧ t.faultWinOn = State.reset.faultWinOn ∧
    t.faultTh = State.reset.faultTh ∧ t.pwr = State.reset.pwr
  tenants  : t.parts = State.reset.parts ∧ t.binds = State.reset.binds ∧ t.houses = [] ∧ t.fns = [] ∧ t.vfEnable = false ∧
    t.numVfs = 0
  engines  : t.grist = [] ∧ t.pawls = [] ∧ t.tags = [] ∧ t.stones = [] ∧ t.epochs = [] ∧ t.units = [] ∧ t.hopper = [] ∧
    t.race = [] ∧ t.leat = {}
  running  : t.trained = false ∧ t.cfgReady = false ∧ t.pllLocked = false ∧ t.alert = false ∧ t.logQueue = [] ∧ t.logLost = 0 ∧
    t.dirty = []

end Sys2Proof.Machine
end

