-- ==== Sys2Proof/WellFormed.lean ====
section
/-! DEFINITION. Well-formed commands: the operands say what the row's name says, and lie in the sizes that the manual gives. -/
namespace Sys2Proof

/-- Is the command well-formed? A register write that a row names by its effect has the bit of that effect; a codeword that
decodes has 640 bytes, and a marker slot brings eight lanes (R218, R220); a console line holds no line end (R426); a host access
lies in the 4 GiB window (R336) and a register write is 32 or 64 bits wide on its own size (R458); NumVFs is a 16-bit field (R333). -/
def Instr.wf : Instr → Bool
  | .sqEnable _ _ v => v.toNat.testBit 31
  | .sqDisable _ _ v => !v.toNat.testBit 31
  | .cqEnable _ _ v => v.toNat.testBit 31
  | .cqDisable _ _ v => !v.toNat.testBit 31
  | .partitionCommit _ v => v.toNat.testBit 31 && !v.toNat.testBit 30
  | .partitionRelease _ v => v.toNat.testBit 30 && !v.toNat.testBit 31
  | .tenantKill _ v => v.toNat.testBit 0
  | .setupLockWrite v => v.toNat.testBit 0
  | .fwProgram v => v.toNat.testBit 63
  | .weirCrossedClear _ v => v.toNat.testBit 30
  | .weirCountClear _ v => v.toNat.testBit 27
  | .markerReceive _ lanes _ => lanes.length == 8 && lanes.all fun l => l.all fun (_, bs) => bs.length == 640
  | .flitReceive _ _ _ _ (some bs) => bs.length == 640
  | .memwinRead offset len => offset.toNat + len ≤ 2 ^ 32
  | .memwinWrite offset data => offset.toNat + data.length ≤ 2 ^ 32
  | .registerWrite _ .bar0 offset width _ => (width == 32 || width == 64) && offset.toNat % (width / 8) == 0
  | .registerWrite _ .msixControl _ width _ => width == 16 || width == 32
  | .registerWrite _ .deviceControl _ width _ => width == 16 || width == 32
  | .registerWrite _ .aerStatus _ width _ => width == 32
  | .uartLog line => line.all fun b => b != 0x0D && b != 0x0A
  | .vfEnableWrite _ n => n < 65536
  | _ => true

end Sys2Proof
end

