-- ==== Sys2Proof/Certificates/Slice0/Obligations.lean ====
section
/-! DEFINITION. The statements for the provers, each a `def Obligations.<Name> : Prop`. -/
section
open Sys2Proof Sys2Proof.Machine

/-- A step runs the command at the front of the queue on the state with the queue's rest; with no command waiting the block idles. The
queue, and that time passes only in commands, are the model's own: DESIGN CHOICE of log entry 1. -/
def Obligations.StepTakesTheFrontCommand : Prop :=
  (∀ (c : Instr) (q : List Instr) (s : State), step { s with pending := c :: q } = exec c { s with pending := q }) ∧
  ∀ s : State, s.pending = [] → step s = .next s

/-- No command stops the module: an error is a completion status, a register, a notice or a log record (R366, R354, R357,
R407). No command touches the queue. -/
def Obligations.EveryCommandAnswersNext : Prop :=
  ∀ (c : Instr) (s : State), ∃ t, exec c s = .next t ∧ t.pending = s.pending

/-- Every step keeps device memory and host memory in canonical form, so that equal memories stay equal data. -/
def Obligations.StepKeepsMemoriesCanonical : Prop :=
  ∀ s t : State, s.MemoriesCanonical → step s = .next t → t.MemoriesCanonical

/-- Every step keeps the values of the setup registers in the ranges of R438, R439, R464 to R467: no write, reset or period of the
power controller leaves them. -/
def Obligations.StepKeepsSettingsLegal : Prop :=
  ∀ s t : State, s.SettingsLegal → step s = .next t → t.SettingsLegal

/-- The state after reset meets the invariants of `StepKeepsMemoriesCanonical` and `StepKeepsSettingsLegal`, and holds what the
register tables of R189, R248, R250, R251, R341, R351, R438, R461, R464 to R467 and R472 give for reset. -/
def Obligations.ResetStateHoldsItsValues : Prop :=
  let z := State.reset
  z.MemoriesCanonical ∧ z.SettingsLegal ∧ z.locked = false ∧ z.wrej = false ∧ z.shape = .whole ∧ z.moduleId = 0 ∧
  z.turnRoot = false ∧ z.tsyncDelay = 0 ∧
  z.combineUs = 100000 ∧ z.pwr.iLimit = 85 ∧ z.pwr.capW = 3800 ∧ z.pwr.skip = 0 ∧ z.faultWin = 32 ∧ z.faultTh = 8 ∧
  (z.part 0).pawlCount = 1024 ∧ (z.part 0).gristCount = 4096 ∧
  (∀ p, (z.part p).state = .unassigned ∧ (z.part p).reserve = 48 ∧ (z.part p).quantum = 128) ∧
  (∀ p, p ≠ 0 → (z.part p).pawlCount = 0 ∧ (z.part p).gristCount = 0) ∧
  (z.bind 0).valid = true ∧ (∀ f, f ≠ 0 → (z.bind f).valid = false) ∧
  (∀ h, (z.house h).media = 2 ∧ (z.house h).scratch = 0 ∧ (z.house h).bufMib = 0) ∧
  (∀ f r, (z.sq f r).state = .disabled ∧ (z.sq f r).weir.high = 0xFFFF ∧ (z.sq f r).weir.low = 0xFFFE) ∧
  (∀ f c, (z.cq f c).state = .disabled ∧ (z.cq f c).countTh = 1)

/-- The lock holds until a module reset (R461, R440): every other command leaves LOCK set, function-level resets of PF0 among
them. -/
def Obligations.LockHoldsUntilModuleReset : Prop :=
  ∀ (c : Instr) (s t : State), s.locked = true → exec c s = .next t →
    c ∉ [Instr.resetInAssert, .millerWatchdog, .pllUnlock, .thermalTrip, .powerFail, .inputRemoved] → t.locked = true

/-- While LOCK is set, nothing short of a module reset changes the RWL fields of MODULE_CFG and LEAT_CTRL (R461, R464, R465). -/
def Obligations.LockedIdentityIsFixed : Prop :=
  ∀ (c : Instr) (s t : State), s.locked = true → exec c s = .next t →
    c ∉ [Instr.resetInAssert, .millerWatchdog, .pllUnlock, .thermalTrip, .powerFail, .inputRemoved] →
    t.shape = s.shape ∧ t.moduleId = s.moduleId ∧ t.turnRoot = s.turnRoot ∧ t.tsyncDelay = s.tsyncDelay

/-- A VF has no setup registers (R334, R458): a write to its BAR0 changes nothing of the steady part. -/
def Obligations.VfWritesLeaveSetup : Prop :=
  ∀ (f : FnId) (o : BitVec 20) (w : Nat) (v : Word64) (s t : State), f ≠ 0 →
    exec (.registerWrite f .bar0 o w v) s = .next t → t.steady = s.steady

/-- Frame of the ring commands and of their engines: none of them changes a setup register, a pin, a management port, the power
state, the firmware state, VF Enable or a binding. -/
def Obligations.RingCommandsKeepSteady : Prop :=
  ∀ (f : FnId) (r : RingIx) (p : PartId) (tag : BitVec 16) (va : BitVec 48) (s t : State) (c : Instr),
    c ∈ [Instr.nop f r, .runPlan f r, .copy f r, .allGather f r, .fill f r, .combine f r, .allReduce f r, .reduceScatter f r,
         .signal f r, .wait f r, .fence f r, .pawlTake f r, .pawlGive f r, .gristJoin f r, .gristLeave f r, .gristStep f r,
         .hopperBatch f r, .raceDecode f r, .raceEncode f r, .damselSeed f r, .damselDraw f r, .bolterSample f r,
         .snapshot f r, .restore f r, .timestamp f r, .query f r, .linkSchedule f r, .linkScheduleHalt f r,
         .descriptorFetch f r, .completionEntryWrite f r, .moderationTimer f r, .planComplete f r, .stagedCopyStart f r,
         .chunkArrive f r, .combineTagGranted f r, .ringTimeout f r, .combineTimeoutExpiry p tag, .tagFreeTimeout p tag,
         .pawlTakeTimeout f r, .waitPoll f r, .waitTimeout f r, .fenceTimeout f r, .sampleDeadline f r,
         .sampleBuffersTaken f r, .completionTimeout f r va, .zeroingDone p, .releaseDone p] →
    exec c s = .next t → t.steady = s.steady

/-- Frame of the stones, of the stage pipelines and of the links: none of their events changes the steady part. -/
def Obligations.StoneAndLinkEventsKeepSteady : Prop :=
  ∀ (p : StoneP) (i : SetIx) (n : Fin 4) (b : Bool) (port : PortIx) (k : Fin 16) (lane : Fin 8) (slot : Fin 80) (h : BitVec 20)
    (bs : Option (List Byte)) (ln : List (Option (BitVec 20 × List Byte))) (x : Int) (w : Nat) (s t : State) (c : Instr),
    c ∈ [Instr.passIssue p b, .dummyPass p b, .vaneReadout p, .vaneOpUnit p, .bindingDone p i, .tileReady p i, .setSwitch p,
         .switchInDone p, .setComplete p i, .heartbeat p, .checkerRotate p, .schedWindow p, .allotmentExpiry p,
         .chuteFillDone p i, .phaseStart p i, .spoutSegmentMove p i n, .inletRead p i n, .stagePawlGive p i,
         .stoneDeadDeclared p, .millerScan, .stoneTestDone p b, .tsyncPulseIn w x, .tsyncFbPulse w x, .tsyncLost,
         .markerReceive port ln x, .flitReceive port lane slot h bs, .writePacket port k, .combinePacket port k,
         .ringPacket port k, .ackPacket port k, .portTrained port w, .los port, .stall port k, .linkScheduleTimeout] →
    exec c s = .next t → t.steady = s.steady

/-- The TAP (R427): TAP_RESET, BYPASS, IDCODE, SAMPLE_PRELOAD and EXTEST, the last two decoded as BYPASS once the setup is locked; the
levels that the carrier gives to the GPIO pins stay. That Test-Logic-Reset selects IDCODE is IEEE 1149.1's (log entry 8), where the cells
of the boundary register lie is free (log entry 9). -/
def Obligations.TapInstructionsComplete : Prop :=
  ∀ (s : State) (pins : PinLevels) (preload : BitVec 9),
    let t := s.shownPins pins
    t = { s with gpio := t.gpio } ∧ (∀ g < 4, t.pin g = { s.pin g with extern := pins.gpio.toNat.testBit g }) ∧
    exec .tapReset s = .next { s with tap := { s.tap with instr := .idcode } } ∧
    (s.tapUp = false → exec .bypass s = .next s ∧ exec .idcode s = .next s ∧ exec (.samplePreload pins preload) s = .next t ∧
      exec (.extest pins) s = .next t) ∧
    (s.tapUp = true →
      exec .bypass s = .next { s with tap := { s.tap with instr := .bypass, out := 0 } } ∧
      exec .idcode s = .next { s with tap := { s.tap with
        instr := .idcode, out := BitVec.ofNat 32 (Config.silicon.toNat % 16 * 2 ^ 28 + 0x5240A5F) } } ∧
      (s.locked = false →
        exec (.samplePreload pins preload) s =
          .next { t with tap := { instr := .sample, out := t.capture pins, preload := preload } } ∧
        exec (.extest pins) s = .next { t with tap := { t.tap with instr := .extest, out := t.capture pins } }) ∧
      (s.locked = true →
        exec (.samplePreload pins preload) s = exec .bypass t ∧ exec (.extest pins) s = exec .bypass t))

/-- The SMBus commands of R424 and R425. Every other field of the state is unchanged. The polynomial and the coverage of a PEC are
SMBus's (log entry 38). -/
def Obligations.SmbusCommandsComplete : Prop :=
  ∀ (s : State) (seq : Word64) (pec cause : Bool),
    let a := 2 * (0x58 + s.straps.toNat)
    let read (code : Byte) (block : List Byte) : List Byte := block ++ if pec = true
      then [([BitVec.ofNat 8 a, code, BitVec.ofNat 8 (a + 1), BitVec.ofNat 8 block.length] ++ block).foldl pecByte 0] else []
    (s.millerUp = true ∨ s.romOnly = true → exec (.smbIdentity pec) s = .next { s with smbOut := read 0x01 s.moduleIdentity }) ∧
    (s.millerUp = true →
      exec (.smbHealth pec) s = .next { s with smbOut := read 0x02 s.health } ∧
      exec (.smbLogEnd pec) s = .next { s with smbOut := read 0x10 (natLe 8 s.logEnd.toNat) } ∧
      exec (.smbLogSelect seq true) s = .next { s with smbSeq := seq, smbCursor := 0 } ∧
      exec (.smbLogSelect seq false) s = .next s ∧
      (∀ x, s.record s.smbSeq = some x → s.smbCursor < 4096 → exec (.smbLogRead pec) s =
        .next { s with smbOut := read 0x12 ((x.bytes.drop s.smbCursor).take 128), smbCursor := s.smbCursor + 128 }) ∧
      (s.record s.smbSeq = none ∨ 4096 ≤ s.smbCursor → exec (.smbLogRead pec) s = .next { s with smbOut := read 0x12 [] }) ∧
      (s.alert = true →
        exec (.smbAlertResponse true cause) s =
          .next { s with smbOut := [BitVec.ofNat 8 a], alert := cause, logNew := cause && s.logNew } ∧
        exec (.smbAlertResponse false cause) s = .next { s with smbOut := [] }) ∧
      (s.alert = false → ∀ won, exec (.smbAlertResponse won cause) s = .next s))

/-- The console commands of R426, a line "LOG n" and a line that is no command among them. Every other field of the state is
unchanged. -/
def Obligations.ConsoleCommandsComplete : Prop :=
  ∀ (s : State) (line : List Byte), s.millerUp = true →
    let words : List (List Byte) := [[73, 68], [72, 69, 65, 76, 84, 72], [76, 79, 71, 69, 78, 68]]
    exec .uartId s = .next { s with uartOut := hexOf s.moduleIdentity ++ [13, 10] } ∧
    exec .uartHealth s = .next { s with uartOut := hexOf s.health ++ [13, 10] } ∧
    exec .uartLogend s = .next { s with uartOut := decimal 20 s.logEnd.toNat ++ [13, 10] } ∧
    words.map (fun w => exec (.uartLog w) s) = [exec .uartId s, exec .uartHealth s, exec .uartLogend s] ∧
    (∀ n, logNumber line = some n →
      (∀ x, s.flash.log.find? (fun y => y.seq.toNat == n) = some x →
        exec (.uartLog line) s = .next { s with uartOut := hexLines x.bytes 64 ++ [79, 75, 13, 10] }) ∧
      ((∀ y ∈ s.flash.log, y.seq.toNat ≠ n) → exec (.uartLog line) s = .next { s with uartOut := [78, 79, 78, 69, 13, 10] })) ∧
    (logNumber line = none → line ∉ words → exec (.uartLog line) s = .next { s with uartOut := [69, 82, 82, 13, 10] }) ∧
    (∀ n < 10 ^ 20, logNumber ([76, 79, 71, 32] ++ decimal 20 n) = some n)

/-- GPIO_ASSIGN (R428 to R430) and the end of a DEBUG_TRIG pulse (R432). Claimant bits 3 to 0: DEBUG_TRIG, TSYNC_FB, GENERAL_OUT,
GENERAL_IN. The level that the carrier gives to the pin is the command's operand. -/
def Obligations.GpioClaimsFollowTheirRules : Prop :=
  ∀ (s : State) (pin : Fin 4) (v : Word32) (level : Bool),
    let x := s.pin pin
    let t := s.setPin pin { x with extern := level }
    let claims := [v.toNat.testBit 3, v.toNat.testBit 2, v.toNat.testBit 1, v.toNat.testBit 0]
    let held := [x.debug, x.tsync, x.genOut, x.genIn]
    let several := 1 < (claims.filter id).length
    let other := ∃ i j, i < 4 ∧ j < 4 ∧ i ≠ j ∧ claims.getD i false = true ∧ held.getD i false = false ∧ held.getD j false = true
    let notOffered := (v.toNat.testBit 2 = true ∧ pin ≠ 0) ∨ (v.toNat.testBit 3 = true ∧ 1 < pin.val)
    let taken := v.toNat.testBit 3 = true ∧ x.debug = false ∧ ∃ k < 4, k ≠ pin.val ∧ (s.pin k).debug = true
    (s.cfgReady = false → exec (.gpioAssignWrite pin v level) s = .next t) ∧
    (s.cfgReady = true →
      (¬several → ¬other → ¬notOffered → ¬taken → (s.locked = true → claims = held) →
        exec (.gpioAssignWrite pin v level) s = .next (t.setPin pin
          { extern := level, outLow := v.toNat.testBit 8, debug := v.toNat.testBit 3, tsync := v.toNat.testBit 2,
            genOut := v.toNat.testBit 1, genIn := v.toNat.testBit 0, pulse := x.pulse && v.toNat.testBit 3 })) ∧
      (several ∨ other ∨ notOffered ∨ taken ∨ (s.locked = true ∧ claims ≠ held) →
        exec (.gpioAssignWrite pin v level) s = .next (t.reject (0x10050 + 4 * pin.val)))) ∧
    (∀ g : Fin 2, (s.pin g).pulse = true →
      exec (.debugTrigPulseEnd g) s = .next (s.setPin g { s.pin g with pulse := false }))

/-- One period of the power controller (R439): SKIP, the limits, and what the period leaves. Power in W, current in mA, voltage in
mV, junction in thousandths of a degree. -/
def Obligations.PowerControllerPeriod : Prop :=
  ∀ (s : State) (w ma mv : Nat) (t : Int) (second : Bool), s.power = .run → s.pwr.skip.toNat ≤ 48 →
    ∃ u, exec (.capPeriod w ma mv t second) s = .next u ∧
      u.pwr.skip.toNat =
        (if ma > s.pwr.iLimit.toNat * 1000 then min 48 (s.pwr.skip.toNat + 8)
         else if w > s.pwr.capW.toNat ∨ t ≥ 105000 then min 48 (s.pwr.skip.toNat + 1)
         else if 100 * w < 97 * s.pwr.capW.toNat ∧ 100 * ma < 97 * (s.pwr.iLimit.toNat * 1000) ∧ t < 100000
           then s.pwr.skip.toNat - 1
         else s.pwr.skip.toNat) ∧
      u.pwr.watts = BitVec.ofNat 16 w ∧ u.pwr.amps = BitVec.ofNat 16 (ma / 10) ∧ u.pwr.volts = BitVec.ofNat 16 (mv / 10) ∧
      u.pwr.iLimit = s.pwr.iLimit ∧ u.pwr.capW = s.pwr.capW ∧
      (u.pwr.skip.toNat < s.pwr.skip.toNat → u.pwr.floor = false) ∧
      u.mem = s.mem ∧ u.hostMem = s.hostMem ∧ u.fns = s.fns ∧ u.stones = s.stones ∧ u.parts = s.parts ∧ u.leat = s.leat

/-- The sources of a module reset (R413, R435, R440, R449, R451, R453): what stands at reset values, the power state, what flash
gains. -/
def Obligations.ModuleResetsReturnToReset : Prop :=
  ∀ s : State,
    (s.resetIn = true → ∃ t, exec .resetInAssert s = .next t ∧ t.JustReset ∧ t.resetIn = false ∧
      t.power = (if s.power = .off then .off else .standby) ∧ t.perst = s.perst ∧ t.tripped = s.tripped ∧
      t.flash.log = s.flash.log ∧ t.hostMem = s.hostMem) ∧
    (s.millerUp = true →
      (∃ t, exec .millerWatchdog s = .next t ∧ t.JustReset ∧ t.power = .standby ∧ t.flash.log = s.flash.log ∧
        t.tripped = s.tripped) ∧
      (∃ t x, exec .thermalTrip s = .next t ∧ t.JustReset ∧ t.tripped = true ∧
        t.flash.log = (x :: s.flash.log).take 4095 ∧ x.kind = kindPower ∧ x.seq = s.logEnd + 1 ∧ x.detail.take 2 = [2, 0]) ∧
      (∃ t m, exec .powerFail s = .next t ∧ t.JustReset ∧ t.power = .off ∧ t.holdup = true ∧ t.flash.marker = some m ∧
        m.discarded = BitVec.ofNat 16 (s.logQueue.length - 1) ∧ t.flash.log = s.flash.log) ∧
      (∃ t m, exec .inputRemoved s = .next t ∧ t.JustReset ∧ t.power = .off ∧ t.input = false ∧ t.tripped = false ∧
        t.flash.marker = some m ∧ t.flash.log = s.flash.log)) ∧
    (s.millerUp = false → ∃ t, exec .inputRemoved s = .next t ∧ t.JustReset ∧ t.power = .off ∧ t.input = false ∧
      t.tripped = false ∧ t.flash = s.flash) ∧
    (s.power = .run → ∃ t x, exec .pllUnlock s = .next t ∧ t.JustReset ∧ t.power = .standby ∧
      t.flash.log = (x :: s.flash.log).take 4095 ∧ x.kind = kindPower ∧ x.seq = s.logEnd + 1 ∧ x.detail.take 2 = [5, 0]) ∧
    (s.holdup = true → exec .holdupExpiry s = .next { s with holdup := false, input := false, tripped := false })

/-- Start-up (R434, R437, R443, R444, R446, R456). -/
def Obligations.StartUpReachesConfigurationReady : Prop :=
  ∀ (s : State) (hbm : BitVec 12) (tier : BitVec 4) (straps : BitVec 2) (rate : Fin 3) (x16 : Bool),
    (∀ b rolled, (s.power = .off ∨ s.power = .standby) → s.tripped = false → s.holdup = false →
      s.flash.choose = some (b, rolled) →
      ∃ t, exec (.startUp straps) s = .next t ∧ t.power = .start ∧ t.input = true ∧ t.resetIn = true ∧
        t.straps = (if s.input = true then s.straps else straps) ∧ t.fw.runningB = b ∧
        t.fw.rolledBack = rolled ∧ t.fw.version = (s.flash.running b).version ∧ t.flash.boots = s.flash.boots + 1 ∧
        t.flash.marker = none ∧ (t.lostPower = true ↔ s.lostPower = true ∨ s.flash.marker.isSome = true)) ∧
    (s.power = .start → exec .pllLock s = .next { s with pllLocked := true, power := .run }) ∧
    (s.power = .run → s.trained = false → ∃ t, exec (.trainingEnd hbm tier) s = .next t ∧ t.trained = true ∧
      t.hbmFail = hbm ∧ t.tierFail = tier ∧ (t.flash.running s.fw.runningB).confirmed ≠ 0xFF ∧ t.power = .run ∧
      t.parts = s.parts ∧ t.mem = s.mem) ∧
    exec .perstRelease s = .next { s with perst := true } ∧
    (s.power = .run → s.perst = true → exec (.configurationReady rate x16) s =
      .next { s with cfgReady := true, pcieRate := BitVec.ofNat 2 rate, pcieX16 := x16 })

/-- Resets of the port and of functions (R333, R359, R360, R437, R440), up to the declarations that the end of the step carries
out. What PCIe keeps through a function-level reset stays (log entry 35). That NumVFs is taken only while VF
Enable is 0, and at most 255, is PCIe's (log entry 7). -/
def Obligations.PortAndFunctionResets : Prop :=
  ∀ (s : State) (f : FnId) (n : Nat),
    let fresh : Func := { resetting := true, maxPayload := (s.fn f).maxPayload, aer := (s.fn f).aer }
    (s.resetIn = true → s.perst = true → ∃ u : State, exec .perstAssert s = .next u.settle ∧ u.perst = false ∧
      u.cfgReady = false ∧ u.vfEnable = false ∧ u.numVfs = 0 ∧ (u.fn 0) = { resetting := true } ∧ u.locked = s.locked) ∧
    (s.resetIn = false → exec .perstAssert s = .next { s with perst := false }) ∧
    (s.cfgReady = true →
      (∃ u : State, exec .pcieLinkDown s = .next u.settle ∧ u.cfgReady = false ∧ u.vfEnable = false ∧ u.numVfs = 0 ∧
        u.locked = s.locked) ∧
      (f ≠ 0 → ∃ u : State, exec (.functionLevelReset f) s = .next u.settle ∧ u.fn f = fresh ∧
        u.vfEnable = s.vfEnable ∧ u.bind f = { s.bind f with kill := true } ∧ ∀ g, g ≠ f.val → u.bind g = s.bind g) ∧
      (∃ u : State, exec .pf0FunctionLevelReset s = .next u.settle ∧ u.vfEnable = false ∧ u.cfgReady = true ∧
        (u.fn 0).memwin = 0 ∧ (u.fn 0).resetting = true ∧ (u.bind 0).kill = true ∧
        ∀ g, { u.bind g with kill := (s.bind g).kill } = s.bind g) ∧
      exec (.functionLevelReset 0) s = exec .pf0FunctionLevelReset s ∧
      exec (.d3hotEntry f) s = .next (s.setFn f { s.fn f with d3hot := true }) ∧
      (s.vfEnable = false →
        exec (.vfEnableWrite true n) s = .next { s with vfEnable := true, numVfs := BitVec.ofNat 8 (min n 255) }) ∧
      (s.vfEnable = true → ∃ u : State, exec (.vfEnableWrite false n) s = .next u.settle ∧ u.vfEnable = false ∧
        u.numVfs = s.numVfs)) ∧
    ((s.fn f).resetting = true → exec (.flrEnd f) s =
      .next ((s.setFn f { s.fn f with resetting := false }).setBind f { s.bind f with kill := false })) ∧
    ((s.fn f).d3hot = true → ∃ u : State, exec (.d0Return f) s = .next u.settle ∧ u.fn f = fresh ∧
      u.bind f = { s.bind f with kill := true } ∧ ∀ g, g ≠ f.val → u.bind g = s.bind g)

/-- SQ_CFG and SQ_CTRL (R341, R343, R348, R349): SQ_ENABLE, SQ_DISABLE, SQ_RESUME, SQ_ABORT. A command that has met destroyed data ends
with DEVICE_ERROR in place of ABORTED (R366). -/
def Obligations.SubmissionRingControl : Prop :=
  ∀ (s : State) (f : FnId) (r : RingIx) (v : Word32) (resume : Bool),
    let q := s.sq f r
    let size := v.toNat / 65536 % 32
    let c := v.toNat % 16
    s.cfgReady = true → (s.fn f).resetting = false →
    (q.state = .disabled → v.toNat.testBit 31 = true →
      (4 ≤ size → size ≤ 15 → (s.cq f c).enable = true → s.tenant f = true →
        ∃ u : State, exec (.sqEnable f r v) s = .next u.settle ∧ (u.sq f r).state = .running ∧ (u.sq f r).enable = true ∧
          (u.sq f r).head = 0 ∧ (u.sq f r).tail = 0 ∧ (u.sq f r).seqNext = 0 ∧ (u.sq f r).log2.toNat = size ∧
          (u.sq f r).cq.toNat = c ∧ (u.sq f r).base = q.base ∧ (u.sq f r).running = q.running ∧
          (u.sq f r).haltOnErr = v.toNat.testBit 30 ∧ (u.sq f r).overshot = v.toNat.testBit 29 ∧
          (∀ f' r', (f' ≠ f.val ∨ r' ≠ r.val) → u.sq f' r' = s.sq f' r') ∧ u.mem = s.mem ∧ u.hostMem = s.hostMem) ∧
      (size < 4 ∨ 15 < size ∨ (s.cq f c).enable = false ∨ s.tenant f = false →
        exec (.sqEnable f r v) s = .next (s.rejectRing f).settle)) ∧
    (q.state = .running ∨ q.state = .halted → v.toNat.testBit 31 = false →
      ∃ u : State, exec (.sqDisable f r v) s = .next u.settle ∧
        u.sq f r = { q with enable := false, haltOnErr := v.toNat.testBit 30,
                            state := if q.running = none then .disabled else .stopping } ∧
        ((u.fn f).wrej = true ↔ (s.fn f).wrej = true ∨ v.toNat.testBit 29 ≠ q.overshot ∨ size ≠ q.log2.toNat ∨ c ≠ q.cq.toNat)) ∧
    (q.state = .halted → exec (.sqResume f r) s = .next (s.setSq f r { q with state := .running })) ∧
    (q.state ≠ .halted → exec (.sqResume f r) s = .next (s.rejectRing f)) ∧
    (q.state = .running ∨ q.state = .halted →
      (q.running = none → ∃ u : State, exec (.sqAbort f r resume) s = .next u.settle ∧
        u.sq f r = { q with enable := false, state := .disabled }) ∧
      (∀ k, q.running = some k → k.done = none → k.sideEnd = none →
        (∀ st0 recs, k.wait = .acks st0 recs → 2 ≤ st0.prec ∧ recs = []) → (∀ j, k.wait = .hopper j → j.device = false) →
        ∃ (u : State) (k' : Running) (res : Word32),
        exec (.sqAbort f r resume) s = .next u.settle ∧ (u.sq f r).state = .stopping ∧ (u.sq f r).enable = false ∧
        (u.sq f r).running = some k' ∧ k'.done = some (.aborted, res) ∧ k'.seq = k.seq))

/-- CQ_CFG (R351, R333), the moderation timer and REARM (R356). That a FAULTED ring may be cleared though halted rings name it is the
model's reading of R353 (log entry 36). -/
def Obligations.CompletionRingControl : Prop :=
  ∀ (s : State) (f : FnId) (c : RingIx) (v : Word64) (h : BitVec 16),
    let q := s.cq f c
    (s.cfgReady = true → (s.fn f).resetting = false →
      (q.state = .disabled → v.toNat.testBit 31 = true → s.tenant f = false → exec (.cqEnable f c v) s = .next (s.rejectRing f)) ∧
      (q.state = .disabled → v.toNat.testBit 31 = true → s.tenant f = true → ∃ u : State, exec (.cqEnable f c v) s = .next u ∧
        (u.cq f c).state = .running ∧ (u.cq f c).enable = true ∧ (u.cq f c).head = 0 ∧ (u.cq f c).tail = 0 ∧
        (u.cq f c).mod = .armed ∧ (u.cq f c).log2.toNat = v.toNat / 2 ^ 16 % 32 ∧ (u.cq f c).countTh.toNat = v.toNat / 2 ^ 8 % 256 ∧
        (u.cq f c).timer.toNat = v.toNat / 2 ^ 32 % 1024 ∧ (u.cq f c).vector.toNat = v.toNat % 16 ∧ (u.cq f c).base = q.base) ∧
      (q.state ≠ .disabled → v.toNat.testBit 31 = false →
        (q.state = .faulted ∨ (∀ r < 16, (s.sq f r).enable = true → (s.sq f r).cq.toNat ≠ c.val) →
          ∃ u : State, exec (.cqDisable f c v) s = .next u ∧ (u.cq f c).state = .disabled ∧ (u.cq f c).enable = false ∧
            (u.cq f c).head = q.head ∧ (u.cq f c).tail = q.tail ∧ u.msgs = s.msgs) ∧
        (q.state = .running → (∃ r < 16, (s.sq f r).enable = true ∧ (s.sq f r).cq.toNat = c.val) →
          exec (.cqDisable f c v) s = .next (s.rejectRing f))) ∧
      (q.state ≠ .disabled → (h - q.head).toNat ≤ q.used → ∃ u : State, exec (.cqRearm f c h) s = .next u ∧
        (u.cq f c).head = h ∧ (u.cq f c).tail = q.tail ∧ (u.cq f c).state = q.state ∧
        (let left := (q.tail - h).toNat
         (u.cq f c).mod = (if q.mod ≠ .fired then q.mod else if left = 0 then .armed
           else if q.threshold ≤ left then .fired else .pending) ∧
         (q.mod = .fired → 0 < left → (u.cq f c).count = left) ∧
         (q.mod = .fired → 0 < left → q.threshold ≤ left → (s.fn f).msixEn = true → (s.fn f).d3hot = false →
           (s.fn f).fnMask = false → (s.vec f q.vector.toNat).masked = false → u.msgs.head? =
             some { f := f, v := q.vector.toNat, addr := (s.vec f q.vector.toNat).addr, data := (s.vec f q.vector.toNat).data })))) ∧
    (q.mod = .pending → exec (.moderationTimer f c) s =
      .next ((s.setCq f c { q with mod := .fired }).message f q.vector.toNat)) ∧
    (q.mod ≠ .pending → exec (.moderationTimer f c) s = .next s)

/-- Doorbells (R346): DOORBELL_SQ_TAIL and DOORBELL_CQ_HEAD. -/
def Obligations.DoorbellsMoveTailAndHead : Prop :=
  ∀ (s : State) (f : FnId) (d : RingIx) (v : Word32) (h : BitVec 16), s.cfgReady = true → (s.fn f).resetting = false →
    (let q := s.sq f d
     let t : BitVec 16 := v.setWidth 16
     (q.state = .disabled → exec (.doorbellSqTail f d v) s = .next s) ∧
     (q.state ≠ .disabled → (t - q.head).toNat ≤ 2 ^ q.log2.toNat → ∃ u : State, exec (.doorbellSqTail f d v) s = .next u ∧
       { u.sq f d with weir := q.weir } = { q with tail := t } ∧ u.mem = s.mem ∧ u.hostMem = s.hostMem ∧
       ∀ f' r', (f' ≠ f.val ∨ r' ≠ d.val) → u.sq f' r' = s.sq f' r') ∧
     (q.state ≠ .disabled → 2 ^ q.log2.toNat < (t - q.head).toNat → ∃ u : State, exec (.doorbellSqTail f d v) s = .next u ∧
       u.sq f d = { q with dbErr := true } ∧ (u.fn f).cause.doorbell = true ∧ u.mem = s.mem ∧ u.hostMem = s.hostMem)) ∧
    (let q := s.cq f d
     (q.state = .disabled → exec (.doorbellCqHead f d h) s = .next s) ∧
     (q.state ≠ .disabled → (h - q.head).toNat ≤ (q.tail - q.head).toNat → ∃ u : State,
       exec (.doorbellCqHead f d h) s = .next u ∧ { u.cq f d with weir := q.weir } = { q with head := h } ∧
       u.mem = s.mem ∧ u.hostMem = s.hostMem) ∧
     (q.state ≠ .disabled → (q.tail - q.head).toNat < (h - q.head).toNat → ∃ u : State,
       exec (.doorbellCqHead f d h) s = .next u ∧ u.cq f d = { q with dbErr := true } ∧ (u.fn f).cause.doorbell = true ∧
       u.mem = s.mem ∧ u.hostMem = s.hostMem))

/-- WEIR_LEVEL and WEIR_STAT (R189), the step of a mark (R190). -/
def Obligations.WeirMarksFollowTheirRules : Prop :=
  (∀ (s : State) (w : WeirId) (v : Word32), s.cfgReady = true → (s.fn (weirOwner w)).resetting = false →
    (v.toNat % 65536 ≤ v.toNat / 65536 → exec (.weirLevelWrite w v) s = .next ((s.setWeir w { s.weir w with
      high := BitVec.ofNat 16 (v.toNat / 65536), low := BitVec.ofNat 16 (v.toNat % 65536) }).evalWeir w)) ∧
    (v.toNat / 65536 < v.toNat % 65536 → exec (.weirLevelWrite w v) s = .next s) ∧
    (let x := s.weir w
     let y : Weir := { x with crossed := x.crossed && !v.toNat.testBit 30, notify := v.toNat.testBit 29,
                              falling := v.toNat.testBit 28, count := if v.toNat.testBit 27 then 0 else x.count }
     let t := if v.toNat.testBit 28 = x.falling then s.setWeir w y else (s.setWeir w y).evalWeir w
     exec (.weirFallingWrite w v) s = .next t ∧ exec (.weirCrossedClear w v) s = .next t ∧
     exec (.weirCountClear w v) s = .next t)) ∧
  (∀ (s : State) (w : WeirId) (l : Nat), s.level w = some l →
    let x := s.weir w
    let live := if x.falling then (if l ≤ x.low.toNat then true else if x.high.toNat < l then false else x.live)
      else (if x.high.toNat ≤ l then true else if l < x.low.toNat then false else x.live)
    (s.evalWeir w).weir w = (if live = true ∧ x.live = false
      then { x with live := true, crossed := true, count := if x.count = 0xFFFF then x.count else x.count + 1 }
      else { x with live := live }) ∧
    (live = true → x.live = false → x.crossed = false → x.notify = true → (s.fn (weirOwner w)).resetting = false →
      ((s.evalWeir w).fn (weirOwner w)).cause.weir = true))

/-- MSIX_UNMASK (R355). -/
def Obligations.UnmaskSendsPendingMessage : Prop :=
  ∀ (s : State) (f : FnId) (v : Fin 17), s.cfgReady = true → (s.fn f).resetting = false →
    ∃ u : State, exec (.msixUnmask f v) s = .next u ∧ u.vec f v = { s.vec f v with masked := false } ∧
      (∀ k, k ≠ v.val → u.vec f k = s.vec f k) ∧ u.mem = s.mem ∧ u.hostMem = s.hostMem ∧
      (let sends := (s.fn f).pending.getLsbD v = true ∧ (s.fn f).msixEn = true ∧ (s.fn f).fnMask = false ∧ (s.fn f).d3hot = false
       (sends → u.msgs = { f := f, v := v, addr := (s.vec f v).addr, data := (s.vec f v).data } :: s.msgs ∧
         ∀ k, (u.fn f).pending.getLsbD k = ((s.fn f).pending.getLsbD k && decide (k ≠ v.val))) ∧
       (¬sends → u.msgs = s.msgs ∧ (u.fn f).pending = (s.fn f).pending))

/-- The PF memory window (R336). The general access is the sequence of its 4 KiB pieces. -/
def Obligations.MemoryWindowReadsAndWrites : Prop :=
  ∀ (s : State) (o : BitVec 32) (n : Nat) (data : List Byte), s.cfgReady = true → (s.fn 0).resetting = false → 0 < n →
    o.toNat % 4096 + n ≤ 4096 → data.length = n →
    let a := (s.fn 0).memwin.toNat * 2 ^ 32 + o.toNat
    (s.windowReaches a = true →
      (∃ u : State, exec (.memwinWrite o data) s = .next u.settle ∧ (∀ i < n, u.mem.read (a + i) = data.getD i 0) ∧
        (∀ b, b < a ∨ a + n ≤ b → u.mem.read b = s.mem.read b) ∧ u.hostMem = s.hostMem ∧ ∀ f r, u.sq f r = s.sq f r) ∧
      ((∀ g ∈ granules a n ++ lineGranules s.shape a n, ∀ e, (g, e) ∉ s.ecc) → ∃ u : State, exec (.memwinRead o n) s = .next u.settle ∧
        u.winOut = (List.range n).map (fun i => s.mem.read (a + i)) ∧ u.winPoison = false ∧ u.mem = s.mem ∧
        u.hostMem = s.hostMem)) ∧
    (s.windowReaches a = false →
      exec (.memwinWrite o data) s = .next s.settle ∧
      ∃ u : State, exec (.memwinRead o n) s = .next u.settle ∧ u.winOut = List.replicate n 0 ∧ u.winPoison = false ∧ u.mem = s.mem)

/-- SETUP_LOCK (R461), LOG_SELECT (R474), FAULT_CFG (R467, R393), COMBINE_TIMEOUT (R466); which tags a shorter time-out finds
expired is the operand's. -/
def Obligations.SetupRegisterRows : Prop :=
  ∀ (s : State) (v : Word32) (x : Word64) (ts : List (PartId × BitVec 16)), s.cfgReady = true →
    (v.toNat.testBit 0 = false → exec (.setupLockWrite v) s = .next s) ∧
    (v.toNat.testBit 0 = true → exec (.setupLockWrite v) s = .next { s with
      locked := true, tap := if s.tap.instr = .sample ∨ s.tap.instr = .extest then { s.tap with instr := .bypass } else s.tap }) ∧
    exec (.logSelectWrite x) s =
      .next { s with logSel := x, logReady := false, logBusy := true, logValid := false, logCopy := none } ∧
    (s.logBusy = true → exec .logCopyDone s = .next { s with
      logReady := true, logBusy := false,
      logValid := (s.flash.log.find? (fun y => y.seq == s.logSel)).isSome,
      logCopy := s.flash.log.find? (fun y => y.seq == s.logSel) }) ∧
    (let w := v.toNat / 256 % 64
     let th := v.toNat % 256
     (w < 20 ∨ 40 < w → exec (.faultThresholdWrite v) s = .next (s.reject 0x10038).settle) ∧
     (20 ≤ w → w ≤ 40 → ∃ u : State, exec (.faultThresholdWrite v) s = .next u.settle ∧ u.faultWin.toNat = w ∧
       u.faultTh.toNat = th ∧ u.faultWinOn = s.faultWinOn ∧ u.mem = s.mem ∧ u.stones = s.stones ∧
       (0 < th → ∀ c i, th ≤ (s.unit c i).window.toNat → (u.unit c i).lasting = true))) ∧
    (v ≠ 0 → ∃ u : State, exec (.combineTimeoutWrite v ts) s = .next u.settle ∧ u.combineUs = v ∧ u.mem = s.mem ∧
      u.hostMem = s.hostMem) ∧
    exec (.combineTimeoutWrite 0 ts) s = .next (s.reject 0x1002C).settle

/-- Firmware programming (R455, R457): FW_PROGRAM and FW_PROGRAM_DONE. -/
def Obligations.FirmwareProgramming : Prop :=
  ∀ (s : State) (v : Word64) (keyOk flashOk : Bool),
    (s.cfgReady = true →
      (v.toNat.testBit 63 = false → exec (.fwProgram v) s = .next s) ∧
      (v.toNat.testBit 63 = true → s.fw.program = true → exec (.fwProgram v) s = .next (s.reject 0x10048)) ∧
      (v.toNat.testBit 63 = true → s.fw.program = false → exec (.fwProgram v) s =
        .next { s with fw := { s.fw with program := true, state := .checking, cause := 0 } })) ∧
    (s.fw.program = false → exec (.fwProgramDone keyOk flashOk) s = .next s) ∧
    (s.fw.program = true → ∃ u, exec (.fwProgramDone keyOk flashOk) s = .next u ∧ u.fw.program = false ∧
      u.flash.running s.fw.runningB = s.flash.running s.fw.runningB ∧ u.fw.runningB = s.fw.runningB ∧
      u.mem = s.mem ∧ u.flash.log = s.flash.log ∧
      (s.imageCause keyOk ≠ 0 → u.fw.state = .failed ∧ u.fw.cause = s.imageCause keyOk ∧ u.flash = s.flash) ∧
      (s.imageCause keyOk = 0 → flashOk = false → u.fw.state = .failed ∧ u.fw.cause = 5 ∧
        (u.flash.other s.fw.runningB).erased = false ∧ (u.flash.other s.fw.runningB).checksOk = false) ∧
      (s.imageCause keyOk = 0 → flashOk = true → u.fw.state = .done ∧ u.fw.cause = 0 ∧
        (u.flash.other s.fw.runningB).checksOk = true ∧ (u.flash.other s.fw.runningB).keyOk = true ∧
        (u.flash.other s.fw.runningB).version.toNat = (s.mem.read (s.fw.src.toNat * 4096 + 4)).toNat +
          256 * (s.mem.read (s.fw.src.toNat * 4096 + 5)).toNat ∧
        ((u.flash.other s.fw.runningB).generation.toNat = (max s.flash.slotA.generation.toNat s.flash.slotB.generation.toNat + 1) % 2 ^ 32 ∨
          s.flash.slotA.checksOk = false ∨ s.flash.slotB.checksOk = false) ∧
        (u.flash.other s.fw.runningB).attempt = 0xFF ∧ (u.flash.other s.fw.runningB).confirmed = 0xFF))

/-- The setup register map through REGISTER_WRITE (R355, R438, R458 to R461, R464, R465, R472). A rejection sets WREJ and keeps the
first offset (R460). That Enable and Function Mask are bits 15 and 14, and that a 1
clears a bit of AER Uncorrectable Error Status, is PCIe's (log entries 7 and 35). -/
def Obligations.LockedAndIllegalWritesAreRejected : Prop :=
  ∀ (s : State) (v : Word64) (f : FnId), s.cfgReady = true →
    let n := v.toNat
    (∀ sh, shapeOf (n / 2 ^ 30 % 4) = some sh → n % 1024 ≠ 1023 → s.locked = false → s.linkUp = false →
      (∀ p < 4, (s.part p).state = .unassigned) → exec (.registerWrite 0 .bar0 0x10020 32 v) s =
        .next ({ s with shape := sh, moduleId := BitVec.ofNat 10 (n % 1024),
                        leat := if sh = .whole then s.leat else { s.leat with ports := [], out := [] } } : State).settle) ∧
    (s.locked = true → n / 2 ^ 30 % 4 ≤ 2 → n % 1024 ≠ s.moduleId.toNat →
      exec (.registerWrite 0 .bar0 0x10020 32 v) s = .next (s.reject 0x10020).settle) ∧
    (s.locked = true → n % 2 ^ 15 ≠ s.tsyncDelay.toNat →
      exec (.registerWrite 0 .bar0 0x10024 32 v) s = .next (s.reject 0x10024).settle) ∧
    (s.locked = true → n / 256 % 32 ≠ (s.house 0).media.toNat →
      exec (.registerWrite 0 .bar0 0x10200 32 v) s = .next (s.reject 0x10200).settle) ∧
    (let lim := n / 2 ^ 16 % 256
     let cap := n % 65536
     (40 ≤ lim → lim ≤ 85 → 500 ≤ cap → cap ≤ 3800 → exec (.registerWrite 0 .bar0 0x10030 64 v) s =
       .next ({ s with pwr := { s.pwr with iLimit := BitVec.ofNat 8 lim, capW := BitVec.ofNat 16 cap } } : State).settle) ∧
     (lim < 40 ∨ 85 < lim ∨ cap < 500 ∨ 3800 < cap → exec (.registerWrite 0 .bar0 0x10030 64 v) s =
       .next (s.reject 0x10030).settle)) ∧
    (∀ (o : BitVec 20) (w w' : Nat) (reg : Reg), 0x10000 ≤ o.toNat → regAt o.toNat = some (reg, w) → w' ≠ w →
      exec (.registerWrite 0 .bar0 o w' v) s = .next (s.reject o.toNat).settle) ∧
    (∀ (o : BitVec 20) (w : Nat), 0x10000 ≤ o.toNat → regAt o.toNat = none → exec (.registerWrite 0 .bar0 o w v) s = .next s.settle) ∧
    (s.reject 0x10020).wrej = true ∧
    ((s.fn f).resetting = false → (s.fn f).pending = 0 → exec (.registerWrite f .msixControl 0 16 v) s =
      .next (s.setFn f { s.fn f with msixEn := n.testBit 15, fnMask := n.testBit 14 })) ∧
    ((s.fn f).resetting = false → exec (.registerWrite f .aerStatus 0 32 v) s =
      .next (s.setFn f { s.fn f with aer := (s.fn f).aer &&& ~~~(v.setWidth 32) }))

/-- The life of a partition (R247 to R249, R252): PARTITION_COMMIT, ZEROING_DONE, PARTITION_RELEASE, RELEASE_DONE. -/
def Obligations.PartitionLifeCycle : Prop :=
  ∀ (s : State) (p : PartId) (v : Word32),
    (s.cfgReady = true → v.toNat / 2 ^ 14 % 128 ≤ 64 → v.toNat % 2 ^ 14 ≠ 0 →
      (v.toNat.testBit 31 = true → v.toNat.testBit 30 = false → (s.part p).state = .unassigned → p.val < partCount s.shape →
        s.commitOk p = true → ∃ u : State, exec (.partitionCommit p v) s = .next u.settle ∧ (u.part p).state = .zeroing ∧
          (u.part p).memReady = false ∧ (u.part p).reserve.toNat = v.toNat / 2 ^ 14 % 128 ∧
          (u.part p).quantum.toNat = v.toNat % 2 ^ 14 ∧ (∀ f, (u.bind f).part.toNat = p.val → (u.bind f).rootValid = false) ∧
          (∀ q, q ≠ p.val → u.part q = s.part q) ∧ u.mem = s.mem) ∧
      (v.toNat.testBit 31 = true → (s.part p).state ≠ .unassigned →
        exec (.partitionCommit p v) s = .next (s.reject (0x10100 + 64 * p.val)).settle) ∧
      (v.toNat.testBit 31 = false → v.toNat.testBit 30 = true → (s.part p).state = .active →
        ∃ u : State, exec (.partitionRelease p v) s = .next u.settle ∧ (u.part p).state = .releasing ∧
          (u.part p).memReady = false ∧ (∀ q, q ≠ p.val → (u.part q).state = (s.part q).state) ∧
          ∀ f ∈ s.boundTo p, (u.bind f).kill = true ∧ (u.fn f).resetting = true) ∧
      (v.toNat.testBit 30 = true → (s.part p).state ≠ .active →
        exec (.partitionRelease p v) s = .next (s.reject (0x10100 + 64 * p.val)).settle)) ∧
    ((s.part p).state = .zeroing → s.trained = true → ∃ u, exec (.zeroingDone p) s = .next u ∧ (u.part p).state = .active ∧
      (u.part p).memReady = true ∧
      (∀ a x h o, regionOf a = some (x, h, o) → u.mem.read a = if s.owns p h then 0 else s.mem.read a) ∧
      u.hostMem = s.hostMem ∧ u.binds = s.binds ∧ ((s.fn 0).resetting = false → (u.fn 0).cause.partition = true)) ∧
    ((s.part p).state ≠ .zeroing ∨ s.trained = false → exec (.zeroingDone p) s = .next s) ∧
    ((s.part p).state = .releasing → exec (.releaseDone p) s =
      .next (s.setPart p { s.part p with state := .unassigned })) ∧
    ((s.part p).state ≠ .releasing → exec (.releaseDone p) s = .next s)

/-- TENANT_KILL (R250, R252): a write of FUNC_BIND with KILL, everything else as it stands. That Max Payload Size and AER
outlast the reset is PCIe's (log entry 35). -/
def Obligations.TenantKillResetsTheFunction : Prop :=
  ∀ (s : State) (f : FnId) (v : Word32), s.cfgReady = true → f ≠ 0 → v.toNat.testBit 0 = true →
    v.toNat.testBit 31 = (s.bind f).valid → v.toNat.testBit 30 = (s.bind f).overOk →
    v.toNat / 2 ^ 28 % 4 = (s.bind f).part.toNat → v.toNat / 2 ^ 12 % 4096 = (s.bind f).gristMax.toNat →
    ((s.bind f).kill = false → ∃ u : State, exec (.tenantKill f v) s = .next u.settle ∧ 
      u.fn f = { resetting := true, memwin := (s.fn f).memwin, maxPayload := (s.fn f).maxPayload, aer := (s.fn f).aer } ∧
      u.bind f = { s.bind f with kill := true } ∧ (∀ g, g ≠ f.val → u.bind g = s.bind g) ∧
      (∀ p, (u.part p).state = (s.part p).state) ∧ u.locked = s.locked ∧ u.shape = s.shape ∧ u.wrej = s.wrej) ∧
    ((s.bind f).kill = true → ∃ u : State, exec (.tenantKill f v) s = .next u.settle ∧ u.fns = s.fns ∧
      u.bind f = s.bind f ∧ u.mem = s.mem)

/-- Operator actions on stones (R403, R468). -/
def Obligations.StoneOperatorActions : Prop :=
  ∀ (s : State) (p : StoneP) (passed : Bool),
    let st := (s.stone p).state
    (s.cfgReady = true → s.stBusy.toNat.testBit (p.val / 25) = false →
      (st = .retired ∨ st = .suspect ∨ st = .quarantined → ∃ u : State, exec (.stoneTest p) s = .next u.settle ∧
        u.stone p = { state := .testing } ∧ u.stBusy.toNat.testBit (p.val / 25) = true ∧ u.stStone.toNat = p.val ∧
        ∀ q, q ≠ p.val → u.stone q = s.stone q) ∧
      (st = .active ∨ st = .spare ∨ st = .restorable ∨ st = .testing →
        exec (.stoneTest p) s = .next (s.reject 0x1003C).settle) ∧
      (st = .spare ∨ st = .restorable → ∃ u : State, exec (.stoneRetire p) s = .next u.settle ∧
        u.stone p = { state := .retired } ∧ u.stResult = 3 ∧ u.stResStone.toNat = p.val ∧
        ∀ q, q ≠ p.val → u.stone q = s.stone q) ∧
      (st = .active → ∃ u : State, exec (.stoneRetire p) s = .next u.settle ∧ (u.stone p).state = .retired ∧
        (u.stone p).logical = none ∧ u.stResult = 3 ∧ u.stResStone.toNat = p.val) ∧
      (st = .retired ∨ st = .suspect ∨ st = .quarantined ∨ st = .testing →
        exec (.stoneRetire p) s = .next (s.reject 0x1003C).settle)) ∧
    (s.cfgReady = true → s.stBusy.toNat.testBit (p.val / 25) = true →
      exec (.stoneTest p) s = .next (s.reject 0x1003C).settle ∧ exec (.stoneRetire p) s = .next (s.reject 0x1003C).settle) ∧
    (st = .testing → ∃ u : State, exec (.stoneTestDone p passed) s = .next u.settle ∧
      (u.stone p).state = (if passed then (if (s.stoneIn (p.val / 25) .spare).isSome then .restorable else .spare) else .retired) ∧
      (u.stone p).logical = none ∧ u.stResult = (if passed then 1 else 2) ∧ u.stResStone.toNat = p.val ∧
      u.stBusy.toNat.testBit (p.val / 25) = false ∧ ∀ q, q ≠ p.val → u.stone q = s.stone q) ∧
    (st ≠ .testing → exec (.stoneTestDone p passed) s = .next s.settle)

/-- Health of stones and the fault log (R83, R392, R397, R400, R402, R406, R408, R425): HEARTBEAT, CHECKER_ROTATE,
STONE_DEAD_DECLARED, MILLER_SCAN, FAULT_WINDOW_BOUNDARY, LOG_RECORD_PROGRAMMED. -/
def Obligations.HealthEventsFollowTheStoneMap : Prop :=
  ∀ (s : State) (p : StoneP),
    let st := (s.stone p).state
    exec (.heartbeat p) s = .next (if st = .suspect then s.setStone p { s.stone p with heard := true } else s) ∧
    (s.power = .run → st ≠ .retired → st ≠ .quarantined →
      exec (.checkerRotate p) s = .next (s.setStone p { s.stone p with checkK := (s.stone p).checkK + 1 })) ∧
    (s.power ≠ .run ∨ st = .retired ∨ st = .quarantined → exec (.checkerRotate p) s = .next s) ∧
    (s.power = .run → st = .active ∨ st = .spare ∨ st = .restorable → ∃ u, exec (.stoneDeadDeclared p) s = .next u ∧
      (u.stone p).state = .suspect ∧ (u.stone p).logical = none ∧ (u.stone p).heard = false ∧
      (∀ l, (s.stone p).logical = some l → u.epoch l = s.epoch l + 1 ∧
        (∀ q, l < 96 → st = .active → s.stoneIn (l / 24) .spare = some q → q ≠ p.val →
          (u.stone q).state = .active ∧ (u.stone q).logical = some l ∧ (u.stone q).epoch = s.epoch l + 1)) ∧
      ((∀ x ∈ s.ownersOn p, ∃ c q, s.running x.1 x.2 = some c ∧ c.wait = .plan q) → u.mem = s.mem ∧ u.hostMem = s.hostMem)) ∧
    (s.power ≠ .run ∨ (st ≠ .active ∧ st ≠ .spare ∧ st ≠ .restorable) → exec (.stoneDeadDeclared p) s = .next s) ∧
    (s.millerUp = true → ∃ u, exec .millerScan s = .next u ∧ ∀ q < 100, u.stone q =
      if (s.stone q).state = .suspect ∧ ((s.stone q).heard = true ∨ (s.unit 0 q).stale ≠ 0) then { state := .quarantined }
      else s.stone q) ∧
    (∃ u, exec .faultWindowBoundary s = .next u ∧ u.faultWinOn = s.faultWin ∧
      (∀ c i, (u.unit c i).window = 0) ∧
      (∀ k y, (k, y) ∈ u.units → ∃ x, (k, x) ∈ s.units ∧ y = { x with window := 0, logged := 0 }) ∧
      (∀ k x, (k, x) ∈ s.units → (k, { x with window := 0, logged := 0 }) ∈ u.units ∨
        ({ x with window := 0, logged := 0 } : UnitCount) = {}) ∧
      u.mem = s.mem ∧ u.stones = s.stones) ∧
    (∀ x xs, s.millerUp = true → s.logQueue = x :: xs → ∃ u, exec .logRecordProgrammed s = .next u ∧
      u.flash.log = ({ x with seq := s.logEnd + 1 } :: s.flash.log).take 4095 ∧ u.logQueue.length = xs.length ∧
      u.alert = true ∧ u.logNew = true ∧ ((s.fn 0).resetting = false → (u.fn 0).cause.fault = true))

/-- DESCRIPTOR_FETCH (R254, R344, R347, R350, R363). -/
def Obligations.FetchTakesTheDescriptorAtHead : Prop :=
  ∀ (s : State) (f : FnId) (r : RingIx),
    let q := s.sq f r
    let x := (readWords (ringAcc f r) (q.base.toNat * 4096 + q.head.toNat % 2 ^ q.log2.toNat * 64) 8).exec s
    (s.canFetch f r = false → exec (.descriptorFetch f r) s = .next s.settle) ∧
    (∀ d e, s.canFetch f r = true → x = (.ok d, e) → ∃ (u : State) (k : Running),
      exec (.descriptorFetch f r) s = .next u.settle ∧ (u.sq f r).running = some k ∧ (u.sq f r).head = q.head + 1 ∧
      (u.sq f r).seqNext = q.seqNext + 1 ∧ (u.sq f r).tail = q.tail ∧ (u.sq f r).state = .running ∧
      k.seq = q.seqNext ∧ k.desc = d ∧ k.wait = .none ∧ k.forceHalt = false ∧
      (k.done.map (·.1) = (if checkDesc d = none then some .malformed
        else if q.overshot = true ∧ (s.bind f).overOk = false then some .access else none)) ∧
      u.mem = s.mem ∧ u.hostMem = s.hostMem) ∧
    (∀ st e, s.canFetch f r = true → x = (.error st, e) → ∃ (u : State) (k : Running),
      exec (.descriptorFetch f r) s = .next u.settle ∧ (u.sq f r).running = some k ∧ (u.sq f r).head = q.head + 1 ∧
      k.seq = q.seqNext ∧ k.done.map (·.1) = some st.status ∧ (k.forceHalt = true ↔ st.status ≠ .deviceError) ∧
      k.sideUsed = 0) ∧
    (∀ a, s.canFetch f r = true → s.ecc = [] →
      s.Reaches (ringAcc f r) false (q.base.toNat * 4096 + q.head.toNat % 2 ^ q.log2.toNat * 64) 64 a →
      let d := wordsOf (s.mem.readN a 64) 8
      checkDesc d ≠ none → q.overshot = false ∨ (s.bind f).overOk = true → ∃ u : State,
        exec (.descriptorFetch f r) s = .next u.settle ∧ (u.sq f r).running = some { seq := q.seqNext, desc := d } ∧
        (u.sq f r).head = q.head + 1 ∧ (u.sq f r).seqNext = q.seqNext + 1 ∧ u.mem = s.mem ∧ u.hostMem = s.hostMem)

/-- COMPLETION_ENTRY_WRITE (R322, R343, R348, R350, R352, R353): `s1` is the state in which the advanced counter of a stream stands in its
record. That a DISABLED completion ring discards the entry is the model's choice (log entry 16). -/
def Obligations.CompletionEntryIsWritten : Prop :=
  (∀ (s s1 : State) (f : FnId) (r : RingIx) (c : Running) (st : Status) (res : Word32),
    let q := s.sq f r
    let n := q.cq.toNat
    let k := s.cq f n
    let halts := (c.forceHalt || (q.haltOnErr && !st.mild)) && q.state != .stopping
    let bytes := entryBytes k r c st res halts
    let va := k.base.toNat * 4096 + k.tail.toNat % 2 ^ k.log2.toNat * 16
    let x := (writeV { ringAcc f r with strict := true } va bytes).exec s1
    let room : Prop := (k.tail - k.head).toNat < 2 ^ k.log2.toNat
    let after (u : State) (h : Bool) : Prop := (u.sq f r).running = none ∧ (u.sq f r).head = q.head ∧ (u.sq f r).tail = q.tail ∧
      (u.sq f r).state = (if q.state = .stopping then .disabled else if h then .halted else q.state)
    s.running f r = some c → c.done = some (st, res) → (s.fn f).resetting = false →
    (k.state = .running → ¬room ∨ s.entryAhead f r c = true → exec (.completionEntryWrite f r) s = .next s.settle) ∧
    (k.state = .running → room → s.entryAhead f r c = false →
      (if c.counter.isSome = true ∧ st.advances = true
        then ∃ v e, c.counter = some v ∧ s1 = e.s ∧
          (writeV (stoneAcc f (c.desc.op0 31 25)) v.1.toNat (natLe 16 v.2.toNat)).exec s = (.ok (), e)
        else s1 = s) →
      (∀ e, x = (.ok (), e) → ∃ u : State, exec (.completionEntryWrite f r) s = .next u.settle ∧ after u halts ∧
        (u.cq f n).tail = k.tail + 1 ∧ (u.cq f n).head = k.head ∧ (u.cq f n).state = .running ∧ u.mem = e.s.mem ∧
        u.hostMem = e.s.hostMem) ∧
      (∀ a, s1.ecc = [] → s1.Reaches { ringAcc f r with strict := true } true va 16 a →
        ∃ u : State, exec (.completionEntryWrite f r) s = .next u.settle ∧ after u halts ∧ (u.cq f n).tail = k.tail + 1 ∧
          u.mem.readN a 16 = bytes ∧ (∀ b, b < a ∨ a + 16 ≤ b → u.mem.read b = s1.mem.read b) ∧ u.hostMem = s1.hostMem) ∧
      (∀ y e, x = (.error y, e) → q.state ≠ .stopping → ∃ u : State, exec (.completionEntryWrite f r) s = .next u.settle ∧
        (u.sq f r).running = none ∧ (u.sq f r).state = .halted ∧ (u.cq f n).state = .faulted ∧ (u.cq f n).lost = true ∧
        (k.lost = false → (u.cq f n).lostSeq = c.seq) ∧ (u.cq f n).tail = k.tail ∧ (u.fn f).cause.cqFault = true)) ∧
    (k.state = .faulted → c.counter = none → ∃ u : State, exec (.completionEntryWrite f r) s = .next u.settle ∧ after u true ∧
      u.mem = s.mem ∧ u.hostMem = s.hostMem) ∧
    (k.state = .disabled → c.counter = none → ∃ u : State, exec (.completionEntryWrite f r) s = .next u.settle ∧ after u false ∧
      u.mem = s.mem ∧ u.hostMem = s.hostMem)) ∧
  (∀ (k : CompRing) (r : RingIx) (c : Running) (st : Status) (res : Word32) (h : Bool), c.sideUsed < 65536 →
    let b := entryBytes k r c st res h
    b.length = 16 ∧ leNat (b.take 4) = c.seq.toNat ∧ leNat ((b.drop 4).take 2) = 0 ∧ leNat ((b.drop 6).take 1) = 16 * r.val ∧
    leNat ((b.drop 7).take 1) = st.code ∧ leNat ((b.drop 8).take 1) = c.flags.byte ∧
    leNat ((b.drop 9).take 1) = (k.tail.toNat / 2 ^ k.log2.toNat % 2 + 1) % 2 + 2 * h.toNat + 4 * c.sideOvf.toNat ∧
    leNat ((b.drop 10).take 2) = c.sideUsed ∧ leNat ((b.drop 12).take 4) = res.toNat)

/-- COMPLETION_TIMEOUT (R337, R354) of a command that reads host memory there; of a batch and of a Race command in `HopperBatchesRunAndEnd`
and `RaceCommandsComplete`. Which addresses a command reads is `State.hostReader` (log entry 37), RESULT is what the model gives a failing
command (log entry 12), the bit of AER is PCIe's (log entry 35). -/
def Obligations.HostReadTimeoutEndsTheCommand : Prop :=
  ∀ (s : State) (f : FnId) (r : RingIx) (va : BitVec 48),
    (∀ c a ha, s.running f r = some c → c.done = none → s.hostReader f r c va.toNat = some a →
      s.leads a false va.toNat = some (.host ha) → c.desc.sideLen = 0 → c.sideEnd = none →
      opcodeOf c.desc.opcode ∉ [some .hopperBatch, some .raceDecode, some .raceEncode] →
      ∃ (u : State) (res : Word32), exec (.completionTimeout f r va) s = .next u.settle ∧
        (u.sq f r).running = some { c with done := some (.dataError, res), sideOvf := true, wait := .none, doneAt := s.ends } ∧
        (∀ w, c.wait = .word w → res = w.setWidth 32) ∧ (u.fn f).aer.getLsbD 14 = true ∧ u.mem = s.mem ∧
        u.hostMem = s.hostMem ∧ ∀ f' r', (f' ≠ f.val ∨ r' ≠ r.val) → u.sq f' r' = s.sq f' r') ∧
    (s.running f r = none → exec (.completionTimeout f r va) s = .next s.settle) ∧
    (∀ c, s.running f r = some c → c.done.isSome = true ∨ s.hostReader f r c va.toNat = none ∨
        (∃ a, s.hostReader f r c va.toNat = some a ∧ ∀ ha, s.leads a false va.toNat ≠ some (.host ha)) →
      exec (.completionTimeout f r va) s = .next s.settle)

/-- NOP (R369), FENCE and its time-out (R378). That INVAL finds no cached translation is the model's choice (log entry 14). -/
def Obligations.NopAndFenceComplete : Prop :=
  ∀ (s : State) (f : FnId) (r : RingIx) (c : Running),
    (s.fresh f r .nop = some c → exec (.nop f r) s = .next (s.endedWith f r c .ok 0)) ∧
    (s.fresh f r .fence = some c →
      let on := (List.range 16).filterMap (fun q => if q ≠ r.val ∧ (c.desc.op0 31 16).testBit q = true
        then (s.running f q).map (fun k => (q, k.seq)) else none)
      (on = [] → exec (.fence f r) s = .next (s.endedWith f r c .ok 0)) ∧
      (on ≠ [] → exec (.fence f r) s = .next (s.setRunning f r (some { c with wait := .fence on })))) ∧
    (∀ on, s.running f r = some c → c.wait = .fence on → c.done = none →
      (c.desc.timeout10 ≠ 0xFFFF_FFFF → exec (.fenceTimeout f r) s = .next (s.endedWith f r c .timeout 0)) ∧
      (c.desc.timeout10 = 0xFFFF_FFFF → exec (.fenceTimeout f r) s = .next s))

/-- WAIT (R377): WAIT, WAIT_POLL, WAIT_TIMEOUT. -/
def Obligations.WaitEndsOnceItsConditionHolds : Prop :=
  ∀ (s : State) (f : FnId) (r : RingIx) (c : Running),
    let v := wordAt c.desc 3
    let met (w : Word64) : Prop :=
      if c.desc.op0 1 0 = 0 then (w.toNat + 2 ^ 64 - v.toNat) % 2 ^ 64 < 2 ^ 63 else if c.desc.op0 1 0 = 1 then w = v else w ≠ v
    (∀ i bs e, (i = Instr.wait f r ∧ s.fresh f r .wait = some c) ∨
        (i = Instr.waitPoll f r ∧ s.running f r = some c ∧ c.done = none ∧ ∃ w, c.wait = .word w) →
      (readSV (ringAcc f r) (c.desc.addr 0x10) 8).exec s = (.ok bs, e) →
      let w := BitVec.ofNat 64 (leNat (bs.take 8))
      e.s.mem = s.mem ∧ e.s.hostMem = s.hostMem ∧
      (met w → exec i s = .next (e.s.endedWith f r c .ok (w.setWidth 32)).settle) ∧
      (¬met w → exec i s = .next (e.s.setRunning f r (some { c with wait := .word w })).settle)) ∧
    (∀ i a, (i = Instr.wait f r ∧ s.fresh f r .wait = some c) ∨
        (i = Instr.waitPoll f r ∧ s.running f r = some c ∧ c.done = none ∧ ∃ w, c.wait = .word w) →
      s.ecc = [] → s.Reaches (ringAcc f r) false (c.desc.addr 0x10) 8 a → c.desc.addr 0x10 % 8 = 0 →
      let w := BitVec.ofNat 64 (leNat (s.mem.readN a 8))
      (met w → exec i s = .next (s.endedWith f r c .ok (w.setWidth 32)).settle) ∧
      (¬met w → exec i s = .next (s.setRunning f r (some { c with wait := .word w })).settle)) ∧
    (∀ w, s.running f r = some c → c.wait = .word w → c.done = none →
      (c.desc.timeout20 ≠ 0xFFFF_FFFF → exec (.waitTimeout f r) s = .next (s.endedWith f r c .timeout (w.setWidth 32))) ∧
      (c.desc.timeout20 = 0xFFFF_FFFF → exec (.waitTimeout f r) s = .next s))

/-- SIGNAL (R376): the word it stores, where it stores it (`wordAtPhys`, as its meaning uses it), and its frame. -/
def Obligations.SignalStoresItsWordAndNothingElse : Prop :=
  ∀ (s : State) (f : FnId) (r : RingIx) (c : Running) (a : Nat) (e : Eng), s.fresh f r .signal = some c →
    c.desc.addr 0x10 % 8 = 0 → (∀ f' r', s.waiting f' r' = none) → s.ecc = [] →
    (wordAtPhys f r (c.desc.addr 0x10) true).exec s = (.ok (.dev a), e) →
    ((c.desc.op0 0 0 ≠ 0) → ∃ e', (wordAtPhys f r (c.desc.addr 0x10) false).exec s = (.ok (.dev a), e')) →
    let w : Word64 := if c.desc.op0 0 0 = 0 then wordAt c.desc 3
      else BitVec.ofNat 64 (leNat ((List.range 8).map (fun i => s.mem.read (a + i)))) + wordAt c.desc 3
    ∃ u : State, exec (.signal f r) s = .next u.settle ∧
      (u.sq f r).running = some { c with done := some (c.statusOf .ok, w.setWidth 32), doneAt := s.ends } ∧
      (∀ i < 8, u.mem.read (a + i) = BitVec.ofNat 8 (w.toNat / 256 ^ i)) ∧
      (∀ b, b < a ∨ a + 8 ≤ b → u.mem.read b = s.mem.read b) ∧ u.hostMem = s.hostMem ∧ u.pawls = s.pawls ∧
      u.stones = s.stones

/-- Pawl commands (R212): PAWL_TAKE, PAWL_GIVE, PAWL_TAKE_TIMEOUT. The checks of the carve and of TIMEOUT 0 are R379's. -/
def Obligations.PawlsFollowTheirRules : Prop :=
  ∀ (s : State) (f : FnId) (r : RingIx) (c : Running),
    let n := c.desc.op0 9 0
    let x := s.pawl n
    let me := Taker.ring f r
    let mine : Prop := inCarve (s.pawlCarve (s.partOf f)) n = true
    (s.fresh f r .pawlTake = some c →
      (¬mine → exec (.pawlTake f r) s = .next (s.turnedAway f r c .access 0)) ∧
      (mine → x.holder = some me → exec (.pawlTake f r) s = .next (s.turnedAway f r c .state 0)) ∧
      (mine → x.holder = none → exec (.pawlTake f r) s =
        .next ((s.setPawl n { x with holder := some me, broken := false }).endedWith f r c (if x.broken then .broken else .ok) 0)) ∧
      (∀ h, mine → x.holder = some h → h ≠ me →
        (c.desc.timeout10 = 0 → exec (.pawlTake f r) s = .next (s.endedWith f r c .timeout 0)) ∧
        (c.desc.timeout10 ≠ 0 → exec (.pawlTake f r) s =
          .next ((s.setPawl n { x with queue := x.queue ++ [me] }).setRunning f r (some { c with wait := .pawl n }))))) ∧
    (s.fresh f r .pawlGive = some c →
      (¬mine → exec (.pawlGive f r) s = .next (s.turnedAway f r c .access 0)) ∧
      (mine → x.holder ≠ some me → exec (.pawlGive f r) s = .next (s.turnedAway f r c .state 0)) ∧
      (mine → x.holder = some me → x.queue = [] → exec (.pawlGive f r) s =
        .next ((s.setPawl n { x with holder := none, broken := false }).endedWith f r c .ok 0)) ∧
      (∀ t ts, mine → x.holder = some me → x.queue = t :: ts → t ≠ me → ∃ u, exec (.pawlGive f r) s = .next u ∧
        u.pawl n = { holder := some t, broken := false, queue := ts } ∧
        (∃ n, (u.sq f r).running = some { c with done := some (c.statusOf .ok, 0), doneAt := n }) ∧ u.mem = s.mem ∧ u.hostMem = s.hostMem ∧
        (∀ m, m ≠ n → u.pawl m = s.pawl m) ∧
        (∀ f' r' k, t = .ring f' r' → s.running f' r' = some k → k.done = none →
          (u.sq f' r').running = some { k with done := some (k.statusOf .ok, 0), wait := .none, doneAt := s.ends }) ∧
        (∀ p i, t = .set p i → (u.setCtx p i).pawl = .held))) ∧
    (∀ m, s.running f r = some c → c.wait = .pawl m → c.done = none →
      (c.desc.timeout10 ≠ 0xFFFF_FFFF → exec (.pawlTakeTimeout f r) s = .next ((s.setPawl m
        { s.pawl m with queue := (s.pawl m).queue.filter (fun t => t ≠ me) }).endedWith f r c .timeout 0)) ∧
      (c.desc.timeout10 = 0xFFFF_FFFF → exec (.pawlTakeTimeout f r) s = .next s))

/-- TIMESTAMP (R384) and QUERY (R385), with the side record of R354. By how much the clock has advanced, and RESULT of a QUERY that is
turned away, are free values (log entries 11 and 12). -/
def Obligations.TimestampAndQueryReport : Prop :=
  ∀ (s : State) (f : FnId) (r : RingIx) (c : Running),
    (s.fresh f r .timestamp = some c →
      let t := s.clockNs + Config.elapsedNs s.freeCount
      let up := s.leat.state = .run
      let s' : State := { s with clockNs := t, freeCount := s.freeCount + 1 }
      let body := natLe 8 (t % 2 ^ 64) ++ natLe 8 (if up then s.leat.turn.toNat else 0)
      (c.desc.sideLen = 0 → exec (.timestamp f r) s = .next ((s'.setRunning f r (some { c with sideOvf := true })).endedWith f r
        { c with sideOvf := true } .ok (if up then 1 else 0)).settle) ∧
      (∀ e, c.sideUsed = 0 → c.sideOvf = false → c.sideEnd = none → 2 ≤ c.desc.sideLen →
        (writeV (sideAcc f r) c.desc.sideBase (sideBytes 0x10 body)).exec s' = (.ok (), e) →
        ∃ u : State, exec (.timestamp f r) s = .next u.settle ∧ u.mem = e.s.mem ∧ u.hostMem = e.s.hostMem ∧
          (u.sq f r).running = some { c with sideUsed := 2, done := some (.ok, if up then 1 else 0), doneAt := s.ends })) ∧
    (s.fresh f r .query = some c →
      let item := c.desc.op0 31 24
      let arg := c.desc.op0 23 0
      (∀ st, s.queryBody f item arg = .error st → ∃ (u : State) (res : Word32), exec (.query f r) s = .next u.settle ∧
        u = { s with freeCount := s.freeCount + 1 }.turnedAway f r c st res) ∧
      (∀ body, s.queryBody f item arg = .ok body → c.desc.sideLen = 0 → exec (.query f r) s =
        .next ((s.setRunning f r (some { c with sideOvf := true })).endedWith f r { c with sideOvf := true } .ok
          (BitVec.ofNat 32 body.length)).settle) ∧
      (∀ body e, s.queryBody f item arg = .ok body → c.sideUsed = 0 → c.sideOvf = false → c.sideEnd = none →
        1 + ceilDiv body.length 16 ≤ c.desc.sideLen →
        (writeV (sideAcc f r) c.desc.sideBase (sideBytes (0x10 + item) body)).exec s = (.ok (), e) →
        ∃ u : State, exec (.query f r) s = .next u.settle ∧ u.mem = e.s.mem ∧ u.hostMem = e.s.hostMem ∧
          (u.sq f r).running = some { c with
            sideUsed := 1 + ceilDiv body.length 16, done := some (.ok, BitVec.ofNat 32 body.length), doneAt := s.ends }) ∧
      (item = 0 ∨ 7 < item → s.queryBody f item arg = .error .malformed) ∧
      (item = 1 → arg ≠ 0 → s.queryBody f item arg = .error .malformed) ∧
      (item = 6 → arg = 0 → f ≠ 0 → s.queryBody f item arg = .error .access) ∧
      (item = 7 → arg % 2 ^ 20 < unitsIn (arg / 2 ^ 20) → f ≠ 0 → s.queryBody f item arg = .error .access))

/-- COPY (R174 to R178), FILL (R179), the staging queue (R177). The element walks are `CopyJob.direct`, `CopyJob.staged` and `CopyJob.fill`,
as the meanings use them; for rows of whole bytes in device memory the statement says what memory then holds. -/
def Obligations.CopyAndFillMoveTheirElements : Prop :=
  ∀ (s : State) (f : FnId) (r : RingIx) (c : Running),
    let owesNothing (t : State) : Prop := t.leat.queued = [] ∧ ∀ a ∈ t.leat.awaited, ¬(a.f = f.val ∧ a.r = r.val ∧ a.cmd = c.seq)
    let row (n z : Nat) (src : Int) (ws : List Word64) : Prop := 0 < n ∧ 0 < z ∧
      copyShapeOf ws = { ext := [n, 1, 1, 1], src := [src, 0, 0, 0], dst := [(z : Int), 0, 0, 0] }
    (∀ (ws : List Word64) (e : Eng), (readWords (ringAcc f r) c.desc.shape 10).exec s = (.ok ws, e) →
      (s.fresh f r .copy = some c → c.desc.ringEn = false →
        let j := e.s.copyJob f r c (copyShapeOf ws)
        (j.malformed = true → exec (.copy f r) s = .next (e.s.turnedAway f r c .malformed 0).settle) ∧
        (j.malformed = false → j.shape.count = 0 → exec (.copy f r) s = .next (e.s.endedWith f r c .ok 0).settle) ∧
        (j.malformed = false → j.shape.count ≠ 0 → j.reachesLink e.s = true → e.s.leat.state ≠ .run →
          exec (.copy f r) s = .next (e.s.turnedAway f r c .state 0).settle) ∧
        (j.malformed = false → j.shape.count ≠ 0 → e.s.leat.state = .run ∨ j.reachesLink e.s = false →
          (∀ h e', (j.overlaps && !j.monotone) = false →
            j.reachesLink e.s = false ∨ e.s.remoteRead j.a j.sources = none →
            (do meetBuf 0 j.a.unit; j.direct j.units { format := j.fd } : Run (Hist × Option Stop)).exec e.s = (.ok (h, none), e') →
            j.fs = j.fd ∨ c.desc.sideLen = 0 → e'.device = false → owesNothing e'.s →
            ∃ u : State, exec (.copy f r) s = .next u.settle ∧ u.mem = e'.s.mem ∧ u.hostMem = e'.s.hostMem ∧
              (u.sq f r).running = some { c with
                flags := c.flags.or e'.flags, done := some (c.statusOf e'.flags.status, 0), doneAt := e'.s.ends
                sideOvf := c.sideOvf || j.fs != j.fd }) ∧
          ((j.overlaps && !j.monotone) = true →
            (e.s.stageLimit j.a.unit < j.sourceBytes → exec (.copy f r) s = .next (e.s.endedWith f r c .range 0).settle) ∧
            (j.sourceBytes ≤ e.s.stageLimit j.a.unit → (e.s.house j.a.unit).staged ≠ 0 → exec (.copy f r) s =
              .next (e.s.setRunning f r (some { c with wait := .staging j.a.unit ws })).settle)))) ∧
      (s.fresh f r .fill = some c →
        let j := e.s.fillJob f c.desc (copyShapeOf ws)
        (j.fillMalformed = true → exec (.fill f r) s = .next (e.s.turnedAway f r c .malformed 0).settle) ∧
        (j.fillMalformed = false → j.shape.count = 0 → exec (.fill f r) s = .next (e.s.endedWith f r c .ok 0).settle) ∧
        (∀ e', j.fillMalformed = false → j.shape.count ≠ 0 →
          (do meetBuf 0 j.a.unit; j.fill (c.desc.op0 31 0) : Run Unit).exec e.s = (.ok (), e') →
          exec (.fill f r) s = .next (e'.s.endedWith f r c (if e'.device = true then .deviceError else .ok) 0).settle))) ∧
    (∀ at_ n z pa pb : Nat, s.ecc = [] → owesNothing s → s.Reaches (ringAcc f r) false c.desc.shape 80 at_ →
      let ws := wordsOf (s.mem.readN at_ 80) 10
      (s.fresh f r .copy = some c → c.desc.ringEn = false → c.desc.fmtSrc = c.desc.fmtDst →
        storageBits (fwCode c.desc.fmtDst) = 8 * z → row n z z ws →
        c.desc.src10 + n * z ≤ c.desc.dst18 ∨ c.desc.dst18 + n * z ≤ c.desc.src10 → pa + n * z ≤ pb ∨ pb + n * z ≤ pa →
        let a := (s.copyJob f r c (copyShapeOf ws)).a
        s.ReachesApart [(pb, n * z)] a false c.desc.src10 (n * z) pa → s.ReachesApart [(pb, n * z)] a true c.desc.dst18 (n * z) pb →
        ∃ u : State, exec (.copy f r) s = .next u.settle ∧ u.mem.readN pb (n * z) = s.mem.readN pa (n * z) ∧
          (∀ b, b < pb ∨ pb + n * z ≤ b → u.mem.read b = s.mem.read b) ∧ u.hostMem = s.hostMem ∧
          (u.sq f r).running = some { c with done := some (c.statusOf .ok, 0), doneAt := s.ends }) ∧
      (s.fresh f r .fill = some c → storageBits (fwCode c.desc.fmtDst) = 8 * z → row n z 0 ws →
        s.ReachesApart [(pb, n * z)] (s.fillJob f c.desc (copyShapeOf ws)).a true c.desc.dst18 (n * z) pb →
        ∃ u : State, exec (.fill f r) s = .next u.settle ∧
          u.mem.readN pb (n * z) = (List.replicate n (natLe z (c.desc.op0 31 0))).flatten ∧
          (∀ b, b < pb ∨ pb + n * z ≤ b → u.mem.read b = s.mem.read b) ∧ u.hostMem = s.hostMem ∧
          (u.sq f r).running = some { c with done := some (c.statusOf .ok, 0), doneAt := s.ends })) ∧
    (∀ h ws, s.running f r = some c → c.wait = .staging h ws →
      ((s.house h).staged ≠ 0 ∨ (s.overshotWaits h = true ∧ (s.sq f r).overshot = false) →
        exec (.stagedCopyStart f r) s = .next s.settle) ∧
      ((s.house h).staged = 0 → (s.sq f r).overshot = true ∨ s.overshotWaits h = false →
        let j := s.copyJob f r c (copyShapeOf ws)
        (∃ (u : State) (k : Running), exec (.stagedCopyStart f r) s = .next u.settle ∧ (u.sq f r).running = some k ∧
          k.staged = some (h, ceilDiv j.sourceBytes 65536) ∧ (u.house h).staged = ceilDiv j.sourceBytes 65536) ∧
        (∀ n z pa pb : Nat, s.ecc = [] → owesNothing s → c.done = none → c.desc.fmtSrc = c.desc.fmtDst →
          storageBits (fwCode c.desc.fmtDst) = 8 * z → row n z z ws →
          s.Reaches { j.a with unit := h } false c.desc.src10 (n * z) pa →
          s.ReachesApart [(pb, n * z)] { j.a with unit := h } true c.desc.dst18 (n * z) pb →
          ∃ (u : State) (k : Running), exec (.stagedCopyStart f r) s = .next u.settle ∧
            u.mem.readN pb (n * z) = s.mem.readN pa (n * z) ∧ (∀ b, b < pb ∨ pb + n * z ≤ b → u.mem.read b = s.mem.read b) ∧
            u.hostMem = s.hostMem ∧ (u.sq f r).running = some k ∧ k.done = some (c.statusOf .ok, 0))))

/-- Combine tags (R181 to R187). RESULT counts the chunks of the partial (R387). -/
def Obligations.CombineTagsFollowTheirRules : Prop :=
  (∀ (s : State) (f : FnId) (r : RingIx) (c : Running) (i : Instr),
    (i = .combine f r ∧ s.fresh f r .combine = some c ∧ (s.combineLeaves f c.desc).1 = false) ∨
      (i = .combineTagGranted f r ∧ s.running f r = some c ∧ c.wait = .tag ∧ c.done = none ∧
        opcodeOf c.desc.opcode = some .combine) → c.desc.ringEn = false →
    let d := c.desc
    let p := s.partOf f
    let x := s.tag p d.tag
    let n : Word32 := BitVec.ofNat 32 (ceilDiv d.len 1024)
    let hs := (s.tagHouses f d.dst10 d.len).filter (fun h => !x.houses.contains h)
    let room : Prop := ∀ h ∈ hs, s.openTags h < 256
    let me : Contributor := { f := f, r := r, seq := c.seq, index := d.index }
    (x.count = 0 → room → ∃ u : State,
      exec i s = .next u.settle ∧ (u.sq f r).running = some { c with wait := .combine 0 } ∧ u.mem = s.mem ∧
      let y := u.tag p d.tag
      y.parts = [me] ∧ y.count = d.count ∧ y.len = d.len ∧ y.arrival = d.arrival ∧ y.init = d.init ∧ y.fn = f.val ∧
      y.held = [] ∧ y.expected = [] ∧ y.finished = [] ∧ y.broken = false ∧ y.byPlace = false ∧
      y.places = s.fixPlaces f d.dst10 d.len ∧ y.houses = hs ∧
      y.pa = s.combineBase f d.dst10) ∧
    (x.count = 0 ∨ (x.broken = false ∧ x.agrees d (s.combineBase f d.dst10) = true ∧ x.len = 0) → ¬room →
      exec i s = .next (s.setRunning f r (some { c with wait := .tag })).settle) ∧
    (x.count ≠ 0 → x.broken = true → exec i s = .next (s.endedWith f r c .broken n).settle) ∧
    (x.count ≠ 0 → x.broken = false → x.agrees d (s.combineBase f d.dst10) = false →
      exec i s = .next (s.turnedAway f r c .state n).settle) ∧
    (x.count ≠ 0 → x.broken = false → x.agrees d (s.combineBase f d.dst10) = true → x.len ≠ 0 → exec i s =
      .next ((s.setTag p d.tag { x with parts := x.parts ++ [me] }).setRunning f r (some { c with wait := .combine 0 })).settle)) ∧
  (∀ (s : State) (f : FnId) (r : RingIx) (c : Running) (q : Nat) (bs : List Byte) (e : Eng),
    s.running f r = some c → c.wait = .combine q → q < ceilDiv c.desc.len 1024 →
    let d := c.desc
    let p := s.partOf f
    let x := s.tag p d.tag
    let place := s.tagPlace x q
    let home := s.chunkHome p q place
    x.byPlace = false → x.count ≠ 0 → x.arrival = false → (∀ m pa, x.places.getD q none ≠ some (.away m pa)) →
    (readSV (combineAcc f home) ((d.src18 + q * 1024) % 2 ^ 48) (min 1024 (d.len - q * 1024))).exec s = (.ok bs, e) →
    (Table.get 0 x.expected q ≠ d.index →
      (e.s.slotFree home (s.sq f r).overshot = true → ∃ u : State,
        exec (.chunkArrive f r) s = .next u.settle ∧ (u.sq f r).running = some { c with wait := .combine (q + 1) } ∧
        (u.tag p d.tag).held = x.held ++ [{ chunk := q, index := d.index, house := home, overshot := (s.sq f r).overshot,
                                            data := bs }] ∧
        (u.house home).slotsUsed = (s.house home).slotsUsed + 1 ∧ u.mem = s.mem) ∧
      (e.s.slotFree home (s.sq f r).overshot = false → ∃ u : State, exec (.chunkArrive f r) s = .next u.settle ∧
        (u.sq f r).running = some c ∧ u.tags = s.tags ∧ u.mem = s.mem)) ∧
    (∀ k e', Table.get 0 x.expected q = d.index → x.held = [] → x.by_ d.index = some k → k.remote = none →
      k.added + 1 < ceilDiv x.len 1024 → x.finished.length < x.count →
      (addChunk x q d.index home (place.getD 0) (x.uncached q) (x.path q) bs).exec
        (e.s.setRunning f r (some { c with wait := .combine (q + 1) })) = (.ok (), e') →
      ∃ u : State, exec (.chunkArrive f r) s = .next u.settle ∧ Table.get 0 (u.tag p d.tag).expected q = d.index + 1 ∧
        u.mem = e'.s.mem ∧ u.hostMem = e'.s.hostMem)) ∧
  (∀ (s : State) (f : FnId) (r : RingIx) (c : Running) (x : CombineTag) (pa pb : Nat) (nc : Bool),
    let d := c.desc
    let p := s.partOf f
    let me : Contributor := { f := f, r := r, seq := c.seq, index := 0 }
    s.running f r = some c → c.wait = .combine 0 → c.done = none → s.ecc = [] → s.leat.queued = [] →
    (∀ a ∈ s.leat.awaited, ¬(a.f = f.val ∧ a.r = r.val ∧ a.cmd = c.seq)) →
    s.tag p d.tag = x → x.count = 1 → x.parts = [me] → d.index = 0 → x.finished = [] → x.held = [] → x.expected = [] →
    x.arrival = false → x.byPlace = false → x.broken = false → x.len = d.len → x.places = [some (.here pa nc)] →
    0 < d.len → d.len ≤ 1024 → d.len % combineSize x.fmt = 0 →
    s.Reaches (combineAcc f (s.chunkHome p 0 (some pa))) false d.src18 d.len pb →
    let new := s.mem.readN pb d.len
    let out := if x.init = true then (new, ({} : Flags)) else (combineBytes x.fmt (s.mem.readN pa d.len) new).run {}
    ∃ u : State, exec (.chunkArrive f r) s = .next u.settle ∧ u.mem.readN pa d.len = out.1 ∧
      (∀ b, b < pa ∨ pa + d.len ≤ b → u.mem.read b = s.mem.read b) ∧ u.hostMem = s.hostMem ∧ u.tag p d.tag = {} ∧
      (u.sq f r).running = some { c with
        wait := .none, flags := c.flags.or out.2, done := some (c.statusOf (c.flags.or out.2).status, 1), doneAt := s.ends }) ∧
  (∀ (s : State) (p : PartId) (t : BitVec 16),
    let x := s.tag p t.toNat
    (x.count ≠ 0 → x.broken = false → ∃ u, exec (.combineTimeoutExpiry p t) s = .next u ∧ (u.tag p t.toNat).broken = true ∧
      (u.tag p t.toNat).held = [] ∧ u.mem = s.mem ∧ u.hostMem = s.hostMem ∧
      ∀ k ∈ x.parts, k.remote = none → k.index ∉ x.finished → ∀ c, s.running k.f k.r = some c → c.done = none → c.sideEnd = none →
        ∃ c', (u.sq k.f k.r).running = some c' ∧ c'.done = some (.timeout, BitVec.ofNat 32 (ceilDiv x.len 1024))) ∧
    (x.count = 0 ∨ x.broken = true → exec (.combineTimeoutExpiry p t) s = .next s) ∧
    exec (.tagFreeTimeout p t) s = .next (if x.broken = true then s.setTag p t.toNat {} else s))

/-- Ring collectives (R187, R235 to R238): what a member does as it starts, by `Collective.begin_` as the meaning uses it; in a ring of
one member, and a chunk of one packet in a ring of more, what memory and the links then hold; the time-out. That a ring which the
schedule does not give this module is turned away with STATE is the model's reading (log entry 19). -/
def Obligations.RingCollectivesStartAndEnd : Prop :=
  (∀ (s : State) (f : FnId) (r : RingIx) (c : Running) (i : Instr),
    (i = .allGather f r ∧ s.fresh f r .copy = some c) ∨ (i = .allReduce f r ∧ s.fresh f r .combine = some c ∧ c.desc.scatter = false) ∨
      (i = .reduceScatter f r ∧ s.fresh f r .combine = some c ∧ c.desc.scatter = true) ∨
      (i = .combineTagGranted f r ∧ s.running f r = some c ∧ c.wait = .tag ∧ c.done = none ∧ c.desc.ringEn = true ∧
        (opcodeOf c.desc.opcode = some .copy ∨ opcodeOf c.desc.opcode = some .combine)) →
    (c.desc.ringEn = false → exec i s = .next s.settle) ∧
    (c.desc.ringEn = true →
      let k := s.collectiveOf f c.desc
      let members := s.leat.sched.rings.getD k.ring []
      let member := s.moduleId.toNat ∈ members
      let res : Word32 := if k.kind = 2 then 0 else BitVec.ofNat 32 (ceilDiv k.len 1024)
      (s.leat.state ≠ .run ∨ ¬member → exec i s = .next (s.turnedAway f r c .state res).settle) ∧
      (s.leat.state = .run → member → 256 ≤ s.openTags k.house →
        exec i s = .next (s.setRunning f r (some { c with wait := .tag })).settle) ∧
      (s.leat.state = .run → member → s.openTags k.house < 256 →
        (∀ k' e, (k.begin_ f (k.chunkPieces k.first)).exec ({ s with leat := { s.leat with
            dead := s.leat.dead.filter (fun t => t != k.tag) } }.setRunning f r (some { c with wait := .collective k })) = (.ok k', e) →
          ∃ u : State, exec i s = .next u.settle ∧ u.mem = e.s.mem ∧ u.hostMem = e.s.hostMem ∧
            (u.sq f r).running = some (if k'.ended = true
              then { c with
                wait := .none, flags := c.flags.or e.flags, done := some (c.statusOf (c.flags.or e.flags).status, res), doneAt := e.s.ends }
              else { c with flags := c.flags.or e.flags, wait := .collective k' })) ∧
        (∀ pa pb, s.ecc = [] → members = [s.moduleId.toNat] → s.Reaches (k.acc f) false k.src.toNat k.len pa →
          s.ReachesApart [(pb, k.len)] (k.acc f) true k.dst.toNat k.len pb →
          ∃ u : State, exec i s = .next u.settle ∧ u.mem.readN pb k.len = s.mem.readN pa k.len ∧
            (∀ b, b < pb ∨ pb + k.len ≤ b → u.mem.read b = s.mem.read b) ∧ u.hostMem = s.hostMem ∧
            (u.sq f r).running = some { c with wait := .none, done := some (c.statusOf c.flags.status, res), doneAt := s.ends }) ∧
        (let next := members.getD ((k.pos + 1) % k.n) 0
         let packet (op o : Nat) (bs : List Byte) : Packet :=
           { kind := 3, dst := next, src := s.moduleId.toNat, tag := k.tag, addr := o, index := k.pos, countM1 := k.n - 1, fmt := k.fmt,
             op := op, ring := k.ring, seq := Table.get 0 s.leat.seqs next, payload := bs }
         let sent (u : State) (p : Packet) : Prop := ∀ port ch, s.route next = some (port, ch) →
           ((u.port port).chan ch).tx = ((s.port port).chan ch).tx ++ p.bytes
         (∀ pa pb, k.kind = 2 → s.ecc = [] → 1 < k.n → 0 < k.chunkLen k.pos → k.chunkLen k.pos ≤ 4096 → k.chunkLen k.pos < k.len →
           let n := k.chunkLen k.pos
           s.Reaches (k.acc f) false k.src.toNat n pa →
           s.ReachesApart [(pb, n)] (k.acc f) true ((k.dst.toNat + k.pos * k.size) % 2 ^ 48) n pb →
           ∃ u : State, exec i s = .next u.settle ∧ u.mem.readN pb n = s.mem.readN pa n ∧
             (∀ b, b < pb ∨ pb + n ≤ b → u.mem.read b = s.mem.read b) ∧ u.hostMem = s.hostMem ∧
             sent u (packet 1 (k.pos * k.size) (s.mem.readN pa n)) ∧
             (u.sq f r).running = some { c with wait := .collective { k with written := n } }) ∧
         (∀ pa, k.kind ≠ 2 → s.ecc = [] → 1 < k.n → 0 < k.chunkLen k.first → k.chunkLen k.first ≤ 4096 →
           let n := k.chunkLen k.first
           ({ k with summed := n } : Collective).ended = false →
           s.Reaches (k.acc f) false ((k.src.toNat + k.first * k.size) % 2 ^ 48) n pa →
           ∃ u : State, exec i s = .next u.settle ∧ u.mem = s.mem ∧ u.hostMem = s.hostMem ∧
             sent u (packet 0 (k.first * k.size) (s.mem.readN pa n)) ∧
             (u.sq f r).running = some { c with wait := .collective { k with summed := n } }))))) ∧
  (∀ (s : State) (f : FnId) (r : RingIx) (c : Running) (k : Collective), s.running f r = some c → c.wait = .collective k →
    c.done = none → ∃ u, exec (.ringTimeout f r) s = .next u ∧
      (u.sq f r).running = some { c with wait := .none, done := some (c.statusOf .timeout, k.result), doneAt := s.ends } ∧
      k.tag ∈ u.leat.dead ∧ u.mem = s.mem ∧ u.hostMem = s.hostMem)

/-- LINK_SCHEDULE (R226 to R228), its halt form (R386), the time-out of SYNC. RESULT of a command turned away is a
free value (log entry 12). -/
def Obligations.LinkScheduleCommandsFollowTheirChecks : Prop :=
  ∀ (s : State) (f : FnId) (r : RingIx) (c : Running),
    (s.fresh f r .linkSchedule = some c → c.desc.op0 0 0 = 0 →
      (f ≠ 0 → ∃ res, exec (.linkSchedule f r) s =
        .next ({ s with freeCount := s.freeCount + 1 }.turnedAway f r c .access res).settle) ∧
      (∀ im e, f = 0 → (readImage f (c.desc.addr 0x10)).exec s = (.ok im, e) →
        let good : Prop := headerOk im.header = true ∧ im.tablesOk = true ∧
          (s.turnRoot = true ↔ (wordAt im.header 2).toNat / 2 ^ 16 % 1024 = s.moduleId.toNat)
        (¬good → ∃ res, exec (.linkSchedule f r) s =
          .next ({ e.s with freeCount := e.s.freeCount + 1 }.turnedAway f r c .malformed res).settle) ∧
        (good → s.shape ≠ .whole ∨ s.linkUp = true → ∃ res, exec (.linkSchedule f r) s =
          .next ({ e.s with freeCount := e.s.freeCount + 1 }.turnedAway f r c .state res).settle) ∧
        (good → s.shape = .whole → s.linkUp = false → ∃ u : State, exec (.linkSchedule f r) s = .next u.settle ∧
          u.leat.state = .sync ∧ u.leat.sched = im.schedule ∧ u.leat.cmdRing = some r.val ∧
          (∀ p < 12, (u.port p).on = im.schedule.mask.getLsbD p ∧ (u.port p).trained = false) ∧
          (u.sq f r).running = some { c with wait := .link } ∧ u.mem = s.mem ∧ u.hostMem = s.hostMem)) ∧
      (∀ ph pm pt pr pc, f = 0 → s.ecc = [] → s.shape = .whole → s.linkUp = false →
        s.Reaches (linkAcc f) false (c.desc.addr 0x10) 128 ph →
        let h := wordsOf (s.mem.readN ph 128) 16
        let table (i n pa : Nat) : Prop := s.Reaches (linkAcc f) false ((wordAt h i).toNat % 2 ^ 48) n pa
        let im : SchedImage :=
          { header := h, slotMap := s.mem.readN pm (schedPeriod h * 960), routes := s.mem.readN pt 2046,
            rings := s.mem.readN pr (schedRings h * 2048), credits := s.mem.readN pc 384 }
        table 4 (schedPeriod h * 960) pm → table 5 2046 pt → table 6 (schedRings h * 2048) pr → table 7 384 pc →
        headerOk h = true → im.tablesOk = true → (s.turnRoot = true ↔ (wordAt h 2).toNat / 2 ^ 16 % 1024 = s.moduleId.toNat) →
        ∃ u : State, exec (.linkSchedule f r) s = .next u.settle ∧ u.leat.state = .sync ∧ u.leat.sched = im.schedule ∧
          u.leat.cmdRing = some r.val ∧ (∀ p < 12, (u.port p).on = im.schedule.mask.getLsbD p ∧ (u.port p).trained = false) ∧
          (u.sq f r).running = some { c with wait := .link } ∧ u.mem = s.mem ∧ u.hostMem = s.hostMem)) ∧
    (s.fresh f r .linkSchedule = some c → c.desc.op0 0 0 = 1 →
      (f ≠ 0 → ∃ res, exec (.linkScheduleHalt f r) s =
        .next ({ s with freeCount := s.freeCount + 1 }.turnedAway f r c .access res)) ∧
      (f = 0 → s.linkUp = false → ∃ res, exec (.linkScheduleHalt f r) s =
        .next ({ s with freeCount := s.freeCount + 1 }.turnedAway f r c .state res)) ∧
      (f = 0 → s.linkUp = true → ∃ u, exec (.linkScheduleHalt f r) s = .next u ∧ u.leat.haltNext = true ∧
        u.leat.halt.isSome = true ∧ u.leat.own.isSome = true ∧ (u.sq f r).running = some { c with wait := .linkHalt } ∧
        u.mem = s.mem ∧ u.hostMem = s.hostMem)) ∧
    (let due : Prop := s.leat.state = .sync ∧ 2 ^ 22 ≤ s.leat.syncTurns ∧ s.leat.startNext = false ∧ s.leat.loaded = false
     (¬due → exec .linkScheduleTimeout s = .next s) ∧
     (∀ k, due → s.leat.cmdRing = some r.val → s.running 0 r = some k → k.done = none →
      ∃ u, exec .linkScheduleTimeout s = .next u ∧ u.leat.state = .idle ∧ u.leat.ports = [] ∧ u.mem = s.mem ∧
        u.hostMem = s.hostMem ∧ (u.sq 0 r).running = some { k with
          done := some (k.statusOf .timeout, s.leat.turn.setWidth 32), wait := .none, doneAt := s.ends }))

/-- Ports and pulses (R221, R222, R225, R230, R240, R241, R431). That a pulse of a width between the classes counts as a glitch is the
model's reading (log entry 19). -/
def Obligations.PortAndPulseEvents : Prop :=
  ∀ (s : State) (p : PortIx) (ch : Fin 16) (ns : Nat) (ps : Int),
    let x := s.port p
    let l := s.leat
    (l.state = .sync → x.on = true → x.trained = false →
      (ns ≤ 1000 → exec (.portTrained p ns) s = .next (s.setPort p { x with trained := true, latency := ns })) ∧
      (1000 < ns → exec (.portTrained p ns) s = .next (s.linkFail p 0x01))) ∧
    exec (.los p) s = .next (if x.trained = true then s.linkFail p 0x01 else s) ∧
    exec (.stall p ch) s = .next (if l.state = .run ∧ (x.chan ch).tx ≠ [] ∧ ((x.chan ch).credit - (x.chan ch).sent).toNat < 8 ∧
      2 ^ 20 ≤ (x.chan ch).starved then s.linkFail p 0x0A else s) ∧
    exec .tsyncLost s = .next (if s.turnRoot = false ∧ l.synced = true ∧ 128 ≤ l.missed then s.linkFail 0 0x09 else s) ∧
    (∀ reason : BitVec 8, s.linkUp = true → (s.linkFail p reason).leat.haltNext = true ∧
      (s.linkFail p reason).leat.own = some (l.own.getD { turn := l.turn, origin := s.moduleId.toNat, port := p, reason := reason })) ∧
    (let seen : State := { s with leat := { l with shown := true } }
     let glitch (t : State) : State := { t with leat := { t.leat with glitches := l.glitches + 1 } }
     let accept (t : State) (start : Bool) : State :=
       if l.state = .idle ∨ (l.synced = true ∧ 20000 < ps.natAbs) then t
       else { t with leat := { t.leat with
                edge := true, synced := true, missed := 0, startNext := l.startNext || (start && l.state == .sync) } }
     (s.turnRoot = true → exec (.tsyncPulseIn ns ps) s = .next seen) ∧
     (s.turnRoot = false →
       exec (.tsyncPulseIn ns ps) s = .next (if 4 ≤ ns ∧ ns ≤ 16 then accept seen false
         else if 24 ≤ ns ∧ ns ≤ 48 then accept seen true else glitch seen) ∧
       ((s.pin 0).tsync = true → l.shown = false →
         exec (.tsyncFbPulse ns ps) s = .next (if 50 ≤ ns ∧ ns ≤ 200 then accept s false
           else if 300 ≤ ns ∧ ns ≤ 600 then accept s true else glitch s))) ∧
     (s.turnRoot = true ∨ (s.pin 0).tsync = false ∨ l.shown = true → exec (.tsyncFbPulse ns ps) s = .next s))

/-- TURN_BOUNDARY (R218, R219, R221, R224, R225, R228, R241, R243, R244): the turn count, the pulse, the 80 codewords of every lane of a
trained port, how RUN begins, the halt boundary. -/
def Obligations.TurnBoundaryAdvancesTheLinks : Prop :=
  ∀ s : State,
    let l := s.leat
    let starts := l.startNext = true ∨ (s.turnRoot = true ∧ l.sched.startDelay ≤ l.syncTurns + 1)
    let halted : State := { s.countEdge with leat := { s.countEdge.leat with
      turn := l.turn + 1, pulse := some false, state := .halt, haltNext := false, startNext := false, haltAt := l.turn + 1,
      cmdRing := none } }
    let sends (u : State) : Prop := ∀ p ∈ u.livePorts, ∀ i < 80, ∀ n < 8, ∃ t ∈ u.leat.out, t.port = p ∧ t.slot = i ∧ t.lane = n ∧
      t.turnLo = u.turnLo ∧ (i = 0 → t.type = 2 ∧ t.payload = u.markerBytes p) ∧ (0 < i → t.type = 0 ∨ (t.type = 1 ∧ i < 76))
    (l.state = .idle → exec .turnBoundary s = .next s.settle) ∧
    (l.state = .sync → l.haltNext = false → ¬starts → ∃ u : State, exec .turnBoundary s = .next u.settle ∧
      u.leat.state = .sync ∧ u.leat.turn = l.turn ∧ u.leat.syncTurns = l.syncTurns + 1 ∧ u.leat.pulse = some false ∧ sends u ∧
      u.mem = s.mem) ∧
    (∀ r c, l.state = .sync → l.haltNext = false → starts → (∀ q ∈ l.ports, q.2.on = true → q.2.trained = true) →
      l.cmdRing = some r → s.running 0 r = some c → c.done = none → ∃ u : State, exec .turnBoundary s = .next u.settle ∧
      u.leat.state = .run ∧ u.leat.turn = l.sched.startTurn ∧ u.leat.cmdRing = none ∧ u.leat.pulse = some true ∧ sends u ∧
      u.mem = s.mem ∧ (u.sq 0 r).running = some { c with
        done := some (c.statusOf .ok, l.sched.startTurn.setWidth 32), wait := .none, doneAt := s.ends }) ∧
    (l.state = .sync → l.haltNext = false → starts → (∃ q ∈ l.ports, q.2.on = true ∧ q.2.trained = false) →
      ∃ u : State, exec .turnBoundary s = .next u.settle ∧ u.leat.state = .sync ∧ u.leat.haltNext = true ∧
        u.leat.turn = l.sched.startTurn ∧ u.leat.loaded = true) ∧
    (l.state = .sync → l.haltNext = true → ∃ u : State, exec .turnBoundary s = .next u.settle ∧ u.leat.state = .halt ∧
      u.leat.turn = (if l.loaded = true then l.turn + 1 else l.turn) ∧ u.leat.haltAt = u.leat.turn ∧ u.leat.ports = [] ∧
      u.leat.pulse = some false ∧ u.alert = true) ∧
    (l.state = .run → l.haltNext = false → ∃ u : State, exec .turnBoundary s = .next u.settle ∧ u.leat.state = .run ∧
      u.leat.turn = l.turn + 1 ∧ u.leat.pulse = some false ∧ sends u ∧ u.mem = s.mem ∧ u.hostMem = s.hostMem ∧ u.fns = s.fns ∧
      u.stones = s.stones) ∧
    (l.state = .run → l.haltNext = true → ∃ u : State, exec .turnBoundary s = .next u.settle ∧ u.leat.state = .halt ∧
      u.leat.turn = l.turn + 1 ∧ u.leat.haltAt = l.turn + 1 ∧ u.leat.awaited = [] ∧ u.leat.queued = [] ∧ u.alert = true ∧
      u.leat.pulse = some false ∧ sends u ∧
      (∀ p, (u.port p).chans = []) ∧ ((s.fn 0).resetting = false → (u.fn 0).cause.link = true) ∧
      ∀ f r c, r < 16 → s.running f r = some c → c.done = none →
        ((∀ st recs, c.wait = .acks st recs → st = .ok ∨ st = .okFlags) →
          halted.linkWork f r c = true →
          ∃ c' res, (u.sq f r).running = some c' ∧ c'.done = some (c.statusOf .aborted, res)) ∧
        (c.wait = .linkHalt → ∃ c', (u.sq f r).running = some c' ∧
          c'.done = some (c.statusOf .ok, (l.turn + 1).setWidth 32))) ∧
    (l.state = .halt → ∃ u : State, exec .turnBoundary s = .next u.settle ∧ u.leat.state = .halt ∧
      u.leat.turn = (if s.turnRoot = true ∨ l.edge = true then l.turn + 1 else l.turn) ∧ u.leat.pulse = some false ∧ sends u ∧
      u.mem = s.mem)

/-- Markers (R219, R220, R223, R225, R229, R230, R231) and flits (R218, R219, R231, R232). -/
def Obligations.MarkersAndFlitsAreChecked : Prop :=
  ∀ (s : State) (p : PortIx),
    let x := s.port p
    let l := s.leat
    (l.state = .idle ∨ x.trained = false → ∀ lanes arrival, exec (.markerReceive p lanes arrival) s = .next s) ∧
    (l.state ≠ .run ∨ x.trained = false → ∀ lane slot h bs, exec (.flitReceive p lane slot h bs) s = .next s) ∧
    (∀ lanes arrival, l.state ≠ .idle → x.trained = true →
      (∀ i < 8, ∀ h bs, lanes.getD i none = some (h, bs) → h.toNat / 2 ^ 17 % 8 ≠ 2) →
      ∃ u, exec (.markerReceive p lanes arrival) s = .next u ∧ u.leat.haltNext = (l.haltNext || s.linkUp)) ∧
    (∀ lanes arrival i h bs, l.state ≠ .idle → x.trained = true → i < 8 → lanes.getD i none = some (h, bs) →
      h.toNat / 2 ^ 10 % 128 ≠ 0 ∨ h.toNat / 2 ^ 7 % 8 ≠ i ∨ (l.state ≠ .sync ∧ h.toNat / 2 % 64 ≠ l.turn.toNat % 64) →
      ∃ u, exec (.markerReceive p lanes arrival) s = .next u ∧ (s.linkUp = true → u.leat.haltNext = true)) ∧
    (∀ lanes arrival i h bs, l.state ≠ .idle → x.trained = true → i < 8 → lanes.getD i none = some (h, bs) →
      h.toNat / 2 ^ 17 % 8 = 2 →
      (∀ j < i, ∀ h' bs', lanes.getD j none = some (h', bs') → h'.toNat / 2 ^ 17 % 8 ≠ 2) →
      let w := word64At bs 0x10
      let skew : Int := arrival - 12 * x.latency
      let run : Prop := l.state = .run
      let aligned : Prop := ∀ j < 8, ∀ h' bs', lanes.getD j none = some (h', bs') →
        h'.toNat / 2 ^ 10 % 128 = 0 ∧ h'.toNat / 2 ^ 7 % 8 = j ∧ (l.state = .sync ∨ h'.toNat / 2 % 64 = l.turn.toNat % 64)
      let sound : Prop := aligned ∧ (∀ j < 8, lanes.getD j none = none → x.bad.countP (· == j) < 4) ∧
        (run → w.toNat / 2 ^ 14 % 4 ≠ 0 ∧ word64At bs 0 = l.turn) ∧ word64At bs 8 = l.sched.tag ∧
        w.toNat % 1024 = l.sched.peers.getD p 0 ∧ (run → skew.natAbs ≤ 480) ∧ w.toNat / 2 ^ 16 % 1024 = l.sched.root
      ∃ u, exec (.markerReceive p lanes arrival) s = .next u ∧ (u.port p).skew = BitVec.ofInt 32 skew ∧
        u.mem = s.mem ∧ u.hostMem = s.hostMem ∧ u.fns = s.fns ∧ u.leat.state = l.state ∧ u.leat.turn = l.turn ∧
        (s.linkUp = true → ∀ c < 16, ((u.port p).chan c).credit = word32At bs (0x40 + 4 * c) ∧
          ((u.port p).chan c).tx = (x.chan c).tx) ∧
        (sound → w.toNat / 2 ^ 14 % 4 ≠ 2 → u.leat.haltNext = l.haltNext ∧ u.leat.halt = l.halt) ∧
        (s.linkUp = true → ¬sound → u.leat.haltNext = true)) ∧
    (∀ lane slot h, l.state = .run → x.trained = true → slot.val ≠ 0 →
      let ty := h.toNat / 2 ^ 17 % 8
      let lo := h.toNat / 2 % 64
      let mine : Prop := h.toNat / 2 ^ 7 % 8 = lane.val
      let here : Prop := h.toNat / 2 ^ 10 % 128 = slot.val ∧ mine ∧ lo = l.turn.toNat % 64
      (∀ bs, slot.val < 76 → ty = 1 → here → exec (.flitReceive p lane slot h (some bs)) s =
        .next (s.setPort p { x with rx0 := x.rx0 ++ [{ slot := slot, lane := lane, payload := some bs }] })) ∧
      (∀ bs, ty = 0 → here → exec (.flitReceive p lane slot h (some bs)) s = .next s) ∧
      (∀ bs, ty ≠ 3 → ¬here → exec (.flitReceive p lane slot h (some bs)) s = .next (s.linkFail p 0x04)) ∧
      (∀ bs, ty = 3 → slot.val < 76 ∨ ¬mine ∨ (lo ≠ (l.turn.toNat + 63) % 64 ∧ lo ≠ (l.turn.toNat + 62) % 64) →
        exec (.flitReceive p lane slot h (some bs)) s = .next (s.linkFail p 0x04)) ∧
      (∀ bs late, ty = 3 → 76 ≤ slot.val → mine → lo = (l.turn.toNat + (if late = true then 62 else 63)) % 64 →
        let orig := h.toNat / 2 ^ 10 % 128
        let asked := ((if late = true then x.asked1 else x.asked).filter (fun q => q.1 == lane.val)).map (·.2)
        let fill (rx : List RxFlit) : List RxFlit :=
          rx.map (fun t => if t.slot = orig ∧ t.lane = lane.val then { t with payload := some bs } else t)
        (orig ≠ 0 → asked[slot.val - 76]? = some orig → exec (.flitReceive p lane slot h (some bs)) s =
          .next (s.setPort p (if late = true then { x with rx2 := fill x.rx2 } else { x with rx1 := fill x.rx1 }))) ∧
        (asked[slot.val - 76]? ≠ some orig → exec (.flitReceive p lane slot h (some bs)) s = .next (s.linkFail p 0x04))) ∧
      (let t := s.setPort p { x with bad := x.bad ++ [lane.val] }
       let y := { x with bad := x.bad ++ [lane.val] }
       let n := x.req.countP (fun q => q.1 == lane.val)
       let fifth : Prop := 4 ≤ x.bad.countP (· == lane.val)
       (fifth → ∃ u, exec (.flitReceive p lane slot h none) s = .next u ∧ u.leat.haltNext = true) ∧
       (¬fifth → slot.val < 76 → n < 4 → exec (.flitReceive p lane slot h none) s = .next (t.setPort p { y with
         req := x.req ++ [(lane.val, slot.val)], rx0 := x.rx0 ++ [{ slot := slot, lane := lane }] })) ∧
       (slot.val < 76 → 4 ≤ n → ∃ u, exec (.flitReceive p lane slot h none) s = .next u ∧ u.leat.haltNext = true) ∧
       (¬fifth → 76 ≤ slot.val → exec (.flitReceive p lane slot h none) s =
         .next (if slot.val - 76 < x.asked.countP (fun q => q.1 == lane.val) then t.linkFail p 0x02 else t))))

/-- Packets at their module (R183, R186, R230, R234, R236, R238, R252): a WRITE, a COMBINE that opens its tag, what a member of a ring does
by `Collective.take`, as the meaning uses it, and for a chunk of one packet what memory and the links then hold, an ACK. -/
def Obligations.PacketsHaveTheirEffectAndAnAck : Prop :=
  ∀ (s : State) (p : PortIx) (c : Fin 16) (k : Packet) (rest : List Packet), s.leat.state = .run →
    ((s.port p).chan c).packets = k :: rest →
    let ack : Packet := { kind := 4, dst := k.src, src := s.moduleId.toNat, seq := k.seq }
    let acked (u : State) : Prop := ((u.port p).chan c).packets = rest ∧
      ∀ port' c', s.route k.src = some (port', c') → ((u.port port').chan c').tx = ((s.port port').chan c').tx ++ ack.bytes
    let stored (u : State) : Prop := (∀ i < k.payload.length, u.mem.read (k.addr + i) = k.payload.getD i 0) ∧
      ∀ b, b < k.addr ∨ k.addr + k.payload.length ≤ b → u.mem.read b = s.mem.read b
    let size := k.payload.length
    let reached : Prop := (s.part 0).state = .active ∧ s.mapped k.addr = true
    (k.kind = 1 →
      (reached → ∃ u : State, exec (.writePacket p c) s = .next u.settle ∧ stored u ∧ acked u ∧ u.hostMem = s.hostMem) ∧
      (¬reached → ∃ u : State, exec (.writePacket p c) s = .next u.settle ∧ u.mem = s.mem ∧ acked u)) ∧
    (k.kind = 2 → (s.tag 0 k.tag.toNat).count = 0 → k.fmt = 1 ∨ k.fmt = 3 → k.op = 1 → k.index < k.countM1 + 1 →
      0 < size → size ≤ 1024 → reached → (∀ h, s.openTags h < 256) →
      (k.init = true → ∃ u : State, exec (.combinePacket p c) s = .next u.settle ∧ stored u ∧ acked u ∧ u.hostMem = s.hostMem) ∧
      (k.init = false → s.ecc = [] → size % combineSize k.fmt = 0 → ∃ u : State, exec (.combinePacket p c) s = .next u.settle ∧
        u.mem.readN k.addr size = ((combineBytes k.fmt (s.mem.readN k.addr size) k.payload).run {}).1 ∧
        (∀ b, b < k.addr ∨ k.addr + size ≤ b → u.mem.read b = s.mem.read b) ∧ acked u ∧ u.hostMem = s.hostMem)) ∧
    (k.kind = 3 →
      (s.memberOf k.tag = none → k.tag ∈ s.leat.dead → ∃ u : State, exec (.ringPacket p c) s = .next u.settle ∧
        ((u.port p).chan c).packets = rest ∧ u.mem = s.mem ∧ u.fns = s.fns) ∧
      (s.memberOf k.tag = none → k.tag ∉ s.leat.dead → exec (.ringPacket p c) s = .next s.settle) ∧
      (∀ f r m n, s.memberOf k.tag = some (f, r, m) → m.agrees k = false → s.running f r = some n → n.done = none →
        ∃ u : State, exec (.ringPacket p c) s = .next u.settle ∧ m.tag ∈ u.leat.dead ∧ u.mem = s.mem ∧
          (u.sq f r).running = some { n with done := some (n.statusOf .broken, m.result), wait := .none, doneAt := s.ends }) ∧
      (∀ f r m n m' e, s.memberOf k.tag = some (f, r, m) → m.agrees k = true → s.running f r = some n → n.done = none →
        (m.take f k).exec s = (.ok m', e) → ∃ u : State, exec (.ringPacket p c) s = .next u.settle ∧ u.mem = e.s.mem ∧
          u.hostMem = e.s.hostMem ∧ (u.sq f r).running = some (if m'.ended = true
            then { n with
              flags := n.flags.or e.flags, done := some (n.statusOf (n.flags.or e.flags).status, m.result), wait := .none
              doneAt := e.s.ends }
            else { n with flags := n.flags.or e.flags, wait := .collective m' })) ∧
      (∀ f r m n pb, s.memberOf k.tag = some (f, r, m) → m.agrees k = true → s.running f r = some n → n.done = none → s.ecc = [] →
        k.op = 1 → (m.pos + 1) % m.n = k.addr / m.size → m.parts = [] → size = m.chunkLen (k.addr / m.size) →
        s.ReachesApart [(pb, size)] (m.acc f) true ((m.dst.toNat + k.addr) % 2 ^ 48) size pb →
        let m' := { m with written := m.written + size }
        ∃ u : State, exec (.ringPacket p c) s = .next u.settle ∧ ((u.port p).chan c).packets = rest ∧
          u.mem.readN pb size = k.payload ∧ (∀ b, b < pb ∨ pb + size ≤ b → u.mem.read b = s.mem.read b) ∧ u.hostMem = s.hostMem ∧
          (u.sq f r).running = some (if m'.ended = true
            then { n with done := some (n.statusOf n.flags.status, m.result), wait := .none, doneAt := s.ends }
            else { n with wait := .collective m' })) ∧
      (∀ f r m n pa, s.memberOf k.tag = some (f, r, m) → m.agrees k = true → s.running f r = some n → n.done = none → s.ecc = [] →
        k.op = 0 → m.pos ≠ k.addr / m.size → s.Reaches (m.acc f) false ((m.src.toNat + k.addr) % 2 ^ 48) size pa →
        let m' := { m with summed := m.summed + size }
        let sum := (combineBytes m.fmt k.payload (s.mem.readN pa size)).run {}
        let next := (s.leat.sched.rings.getD m.ring []).getD ((m.pos + 1) % m.n) 0
        m'.ended = false → ∃ u : State, exec (.ringPacket p c) s = .next u.settle ∧ ((u.port p).chan c).packets = rest ∧
          (∀ port ch, s.route next = some (port, ch) → ((u.port port).chan ch).tx = ((s.port port).chan ch).tx ++
            ({ kind := 3, dst := next, src := s.moduleId.toNat, tag := m.tag, addr := k.addr, index := m.pos, countM1 := m.n - 1,
               fmt := m.fmt, op := 0, ring := m.ring, seq := Table.get 0 s.leat.seqs next, payload := sum.1 } : Packet).bytes) ∧
          u.mem = s.mem ∧ u.hostMem = s.hostMem ∧
          (u.sq f r).running = some { n with flags := n.flags.or sum.2, wait := .collective m' })) ∧
    (∀ a n st, k.kind = 4 → s.leat.awaited = [a] → s.leat.queued = [] → a.dst = k.src → a.seq = k.seq →
      s.running a.f a.r = some n → n.wait = .acks st [] → n.seq = a.cmd → n.done = none →
      ∃ u : State, exec (.ackPacket p c) s = .next u.settle ∧ u.leat.awaited = [] ∧ u.mem = s.mem ∧
        (u.sq a.f a.r).running = some { n with
          done := some (n.statusOf st, if opcodeOf n.desc.opcode = some .combine then BitVec.ofNat 32 (ceilDiv n.desc.len 1024) else 0)
          wait := .none, doneAt := s.ends })

/-- The halt record (R242): what is kept, that it is relayed, and that the order of news does not matter (records that agree in turn,
origin and reason being one failure). -/
def Obligations.EarliestHaltRecordIsKept : Prop :=
  (∀ o n : Halt,
    let less : Prop := n.turn.toNat < o.turn.toNat ∨ (n.turn = o.turn ∧ (n.origin < o.origin ∨
      (n.origin = o.origin ∧ n.reason.toNat < o.reason.toNat)))
    keepHalt none n = some n ∧ (less → keepHalt (some o) n = some n) ∧ (¬less → keepHalt (some o) n = some o)) ∧
  (∀ (s : State) (p : PortIx) (lanes : List (Option (BitVec 20 × List Byte))) (arrival : Int) (i : Nat) (hd : BitVec 20)
      (bs : List Byte),
    let w := word64At bs 0x10
    let v := word64At bs 0x20
    let n : Halt := { turn := word64At bs 0x18, origin := v.toNat / 2 ^ 22 % 1024, port := v.toNat / 2 ^ 18 % 16,
                      reason := BitVec.ofNat 8 (v.toNat % 256) }
    i < 8 → lanes.getD i none = some (hd, bs) → hd.toNat / 2 ^ 17 % 8 = 2 →
    (∀ j < i, ∀ h' bs', lanes.getD j none = some (h', bs') → h'.toNat / 2 ^ 17 % 8 ≠ 2) →
    (∀ j < 8, lanes.getD j none = none → (s.port p).bad.countP (· == j) < 4) →
    (∀ j < 8, ∀ h' bs', lanes.getD j none = some (h', bs') → h'.toNat / 2 ^ 10 % 128 = 0 ∧ h'.toNat / 2 ^ 7 % 8 = j ∧
      (s.leat.state = .sync ∨ h'.toNat / 2 % 64 = s.leat.turn.toNat % 64)) →
    s.leat.state ≠ .idle → (s.port p).trained = true → w.toNat / 2 ^ 14 % 4 = 2 → word64At bs 8 = s.leat.sched.tag →
    w.toNat % 1024 = s.leat.sched.peers.getD p 0 → w.toNat / 2 ^ 16 % 1024 = s.leat.sched.root →
    (s.leat.state = .run → word64At bs 0 = s.leat.turn ∧ (arrival - 12 * ((s.port p).latency : Int)).natAbs ≤ 480) →
    ∃ u, exec (.markerReceive p lanes arrival) s = .next u ∧ u.leat.halt = keepHalt s.leat.halt n ∧
      u.leat.haltNext = s.linkUp) ∧
  (∀ (s : State) (p : PortIx) (reason : BitVec 8), s.linkUp = true → (s.linkFail p reason).leat.halt =
    keepHalt s.leat.halt { turn := s.leat.turn, origin := s.moduleId.toNat, port := p, reason := reason }) ∧
  (∀ (s : State) (p : PortIx) (h : Halt), s.leat.state = .halt → s.leat.halt = some h → h.origin < 1024 → h.port < 16 →
    let w := word64At (s.markerBytes p) 0x20
    word64At (s.markerBytes p) 0x18 = h.turn ∧ w.toNat % 256 = h.reason.toNat ∧ w.toNat / 2 ^ 18 % 16 = h.port ∧
    w.toNat / 2 ^ 22 % 1024 = h.origin) ∧
  (∀ l l' : List Halt, l.Perm l' →
    (∀ a ∈ l, ∀ b ∈ l, a.turn = b.turn → a.origin = b.origin → a.reason = b.reason → a = b) →
    l.foldl keepHalt none = l'.foldl keepHalt none)

/-- The Grist unit (R263 to R269). RESULT of a command turned away is a free value (log entry 12), ENGINE and UNIT of the step's accesses
are (log entry 13). -/
def Obligations.GristCommandsFollowTheirRules : Prop :=
  ∀ (s : State) (f : FnId) (r : RingIx) (c : Running),
    let d := c.desc
    let p := s.partOf f
    let away (st : Status) (i : Instr) : Prop := ∃ res, exec i s =
      .next ({ s with freeCount := s.freeCount + 1 }.turnedAway f r c st res)
    (s.fresh f r .gristJoin = some c →
      let high := d.op0 31 31 = 1
      (high → (s.bind f).overOk = false → away .access (.gristJoin f r)) ∧
      ((high → (s.bind f).overOk = true) →
        (d.op0 15 0 = 0 → away .malformed (.gristJoin f r)) ∧
        (d.op0 15 0 ≠ 0 → s.lowestFree p = none → away .capacity (.gristJoin f r)) ∧
        (∀ e, d.op0 15 0 ≠ 0 → s.lowestFree p = some e →
          ((s.part p).latentSlots = 0 ∨ (s.bind f).gristMax.toNat ≤ (s.heldBy f).length → away .capacity (.gristJoin f r)) ∧
          ((s.part p).latentSlots ≠ 0 → (s.heldBy f).length < (s.bind f).gristMax.toNat →
            ∃ u, exec (.gristJoin f r) s = .next u ∧ u.entry e = {
                state := .queued, total := BitVec.ofNat 16 (d.op0 15 0), overshot := d.op0 31 31 == 1, seed := wordAt d 2,
                owner := BitVec.ofNat 8 f, cond0 := BitVec.ofNat 48 (d.addr 0x18), cond1 := BitVec.ofNat 48 (d.addr 0x20),
                user := wordAt d 5, joinSeq := (s.part p).joinSeq } ∧
              (∀ k, k ≠ e → u.entry k = s.entry k) ∧ (u.part p).joinSeq = (s.part p).joinSeq + 1 ∧
              (u.sq f r).running = some { c with done := some (c.statusOf .ok, BitVec.ofNat 32 e), doneAt := s.ends } ∧
              u.mem = s.mem ∧ u.hostMem = s.hostMem)))) ∧
    (s.fresh f r .gristLeave = some c →
      let e := d.op0 11 0
      let x := s.entry e
      let mine : Prop := inCarve (s.gristCarve p) e = true ∧ (x.state = .free ∨ x.owner.toNat = f.val)
      (¬mine → exec (.gristLeave f r) s = .next (s.turnedAway f r c .access 0)) ∧
      (mine → x.state = .free ∨ x.state = .leaving → exec (.gristLeave f r) s = .next (s.turnedAway f r c .state 0)) ∧
      (mine → x.state = .queued → ∃ u, exec (.gristLeave f r) s = .next u ∧ u.entry e = {} ∧
        (∀ k, k ≠ e → u.entry k = s.entry k) ∧ u.mem = s.mem ∧
        (u.sq f r).running = some { c with done := some (c.statusOf .ok, 0), doneAt := s.ends }) ∧
      (mine → x.state = .admitted → exec (.gristLeave f r) s =
        .next ((s.setEntry e { x with state := .leaving }).endedWith f r c .ok 0))) ∧
    (s.fresh f r .gristStep = some c →
      let serial := (s.part p).serial + 1
      let s1 := s.setPart p { s.part p with serial := serial }
      let s2 := if d.op0 31 31 = 1 then s1.advanceListed (Table.get [] (s1.part p).prevList f) else s1
      let s3 := (s2.commitLeaves f p).admitJoins p serial
      let lst := (s3.workList f p (d.op0 8 0) serial).map (fun e =>
        (e.1, { e.2 with listed := serial, last := e.2.step.toNat + 1 == e.2.total.toNat }))
      let a := s3.unnamedAcc f
      let s4 : State := { s3 with freeCount := s3.freeCount + 2 }
      lst.length ≤ d.op0 8 0 ∧
      (∀ e, s4.writable a (d.addr 0x10) lst = lst.length → (writeRecords a (d.addr 0x10) lst).exec s4 = (.ok (), e) →
        ∃ (u : State) (k : Running), exec (.gristStep f r) s = .next u.settle ∧ (u.sq f r).running = some k ∧
          k.done = some (c.statusOf .ok, BitVec.ofNat 32 lst.length) ∧ (u.part p).serial = serial ∧
          (∀ x ∈ lst, (u.entry x.1).listed = serial ∧ (u.entry x.1).first = false) ∧ u.mem = e.s.mem ∧ u.hostMem = e.s.hostMem) ∧
      (∀ pb, s.ecc = [] → s4.ReachesApart [(pb, 64 * lst.length)] a true (d.addr 0x10) (64 * lst.length) pb →
        ∃ u : State, exec (.gristStep f r) s = .next u.settle ∧ (u.part p).serial = serial ∧
          (∀ x ∈ lst, (u.entry x.1).listed = serial ∧ (u.entry x.1).first = false) ∧
          u.mem.readN pb (64 * lst.length) = (lst.map (fun x => x.2.bytes x.1)).flatten ∧
          (∀ b, b < pb ∨ pb + 64 * lst.length ≤ b → u.mem.read b = s4.mem.read b) ∧ u.hostMem = s.hostMem ∧
          (u.sq f r).running = some { c with done := some (c.statusOf .ok, BitVec.ofNat 32 lst.length), doneAt := s.ends }))

/-- DAMSEL_SEED (R321), with its frame; the record's layout is R320's. -/
def Obligations.DamselSeedWritesItsStreamRecord : Prop :=
  (∀ (s : State) (f : FnId) (r : RingIx) (c : Running) (a : Nat), s.fresh f r .damselSeed = some c →
    c.desc.addr 0x10 % 32 = 0 → s.ecc = [] →
    ({ s with freeCount := s.freeCount + 2 } : State).Reaches (s.unnamedAcc f) true (c.desc.addr 0x10) 32 a →
    let seed := wordAt c.desc 3
    let substream := (wordAt c.desc 4).toNat % 2 ^ 32
    let domain := (wordAt c.desc 0).toNat / 2 ^ 32
    ∃ u : State, exec (.damselSeed f r) s = .next u.settle ∧
      u.mem.readN a 32 = natLe 4 0 ++ natLe 4 0 ++ natLe 4 substream ++ natLe 4 domain ++ natLe 8 seed.toNat ++ natLe 8 0 ∧
      (∀ b, b < a ∨ a + 32 ≤ b → u.mem.read b = s.mem.read b) ∧ u.hostMem = s.hostMem ∧
      (u.sq f r).running = some { c with done := some (c.statusOf .ok, 0), doneAt := s.ends }) ∧
  (∀ (substream domain : Word32) (n : Nat), n < 2 ^ 64 →
    let start := counterOf 0 0 substream.toNat domain.toNat
    (start + BitVec.ofNat 128 n).extractLsb' 64 32 = substream ∧ (start + BitVec.ofNat 128 n).extractLsb' 96 32 = domain ∧
    (start + BitVec.ofNat 128 (2 ^ 64)).extractLsb' 64 32 = substream + 1)

/-- DAMSEL_DRAW (R322 to R328) and BOLTER_SAMPLE (R329, R330, R383, R387): the checks; the draw of tensors by `drawAll` and of rows by
`bolterRows`, as the meanings use them; on records, logits and destinations in device memory what memory then holds. RESULT of a command
turned away is a free value (log entry 12). -/
def Obligations.DrawsAndSamplesComplete : Prop :=
  ∀ (s : State) (f : FnId) (r : RingIx) (c : Running) (record : List Byte) (e : Eng),
    let d := c.desc
    let a := stoneAcc f (d.op0 31 25)
    let ctx := damselCtx record
    let stone : Except Status Nat := e.s.drawStone f (d.op0 31 25)
    let away (st : Status) (i : Instr) : Prop := ∃ res, exec i s =
      .next ({ e.s with freeCount := e.s.freeCount + 1 }.turnedAway f r c st res).settle
    (s.fresh f r .damselDraw = some c → d.op0 22 22 = 0 →
      ((readStream a (d.addr 0x28)).exec s = (.ok none, e) → away .access (.damselDraw f r)) ∧
      ((readStream a (d.addr 0x28)).exec s = (.ok (some record), e) →
        (∀ st, stone = .error st → away st (.damselDraw f r)) ∧
        (∀ p, stone = .ok p → d.draw.ok = false → away .malformed (.damselDraw f r)) ∧
        (∀ p h e', stone = .ok p → d.draw.ok = true → d.sideLen = 0 →
          (drawAll [d.draw.tensor a ctx (d.addr 0x10) 0] []).exec e.s { ufl := d.drawSmall } = (.ok ([h], none), e') →
          ∃ u : State, exec (.damselDraw f r) s = .next u.settle ∧ u.mem = e'.s.mem ∧ u.hostMem = e'.s.hostMem ∧
            (u.sq f r).running = some { c with
              flags := c.flags.or e'.flags, done := some (c.statusOf e'.status, 1), doneAt := e'.s.ends
              sideOvf := c.sideOvf || !e'.status.noHist
              counter := some (BitVec.ofNat 48 (d.addr 0x28), ctx.counter + BitVec.ofNat 128 d.draw.calls) }) ∧
        (∀ p x e', stone = .ok p → d.draw.ok = true → d.sideLen = 0 →
          (drawAll [d.draw.tensor a ctx (d.addr 0x10) 0] []).exec e.s { ufl := d.drawSmall } = (.ok ([], some x), e') →
          ∃ (u : State) (k : Running), exec (.damselDraw f r) s = .next u.settle ∧ (u.sq f r).running = some k ∧
            k.done = some (c.statusOf (x.met e').status, 0)))) ∧
    (∀ p bs e1 hs e', s.fresh f r .damselDraw = some c → d.op0 22 22 = 1 → s.drawStone f (d.op0 31 25) = .ok p →
      d.draw.ok = true → d.sideLen = 0 → (readSV a (d.addr 0x28) (64 * d.op0 20 12)).exec s = (.ok bs, e1) →
      (drawAll (d.draw.list a d ((List.range (d.op0 20 12)).map (fun i => (bs.drop (64 * i)).take 64))) []).exec e1.s
        { ufl := d.drawSmall } = (.ok (hs, none), e') →
      ∃ (u : State) (k : Running), exec (.damselDraw f r) s = .next u.settle ∧ u.mem = e'.s.mem ∧ u.hostMem = e'.s.hostMem ∧
        (u.sq f r).running = some k ∧ k.done = some (c.statusOf e'.status, BitVec.ofNat 32 hs.length)) ∧
    (∀ p pr pb, s.fresh f r .damselDraw = some c → d.op0 22 22 = 0 → s.ecc = [] → s.drawStone f (d.op0 31 25) = .ok p →
      d.draw.ok = true → d.sideLen = 0 → s.Reaches a true (d.addr 0x28) 32 pr → s.Reaches a false (d.addr 0x28) 32 pr →
      let x := damselCtx (s.mem.readN pr 32)
      let code (n : Nat) : Nat := (pureFlags (do let y ← d.draw.value x n; encodeElem d.draw.fmt (fp32 y.1))).1
      let row := packRow (bitsOfFmt d.draw.fmt) ((List.range d.draw.count).map code)
      s.ReachesApart [(pb, row.length)] a true (d.addr 0x10) row.length pb →
      ∃ (u : State) (k : Running) (fl : Flags), exec (.damselDraw f r) s = .next u.settle ∧ u.mem.readN pb row.length = row ∧
        (∀ b, b < pb ∨ pb + row.length ≤ b → u.mem.read b = s.mem.read b) ∧ u.hostMem = s.hostMem ∧
        (u.sq f r).running = some k ∧ k.flags = c.flags.or fl ∧ k.done = some (c.statusOf fl.status, 1) ∧
        k.counter = some (BitVec.ofNat 48 (d.addr 0x28), x.counter + BitVec.ofNat 128 d.draw.calls)) ∧
    (s.fresh f r .bolterSample = some c →
      let rows := d.field 0x30 63 32
      let small : Flags := { ufl := isSubnormal (BitVec.ofNat 32 (d.field 0x28 63 32)) }
      ((readStream a (d.addr 0x38)).exec s = (.ok none, e) → away .access (.bolterSample f r)) ∧
      ((readStream a (d.addr 0x38)).exec s = (.ok (some record), e) →
        (∀ st, stone = .error st → away st (.bolterSample f r)) ∧
        (∀ p, stone = .ok p → bolterOk d = false → away .malformed (.bolterSample f r)) ∧
        (∀ p rep e', stone = .ok p → bolterOk d = true → d.sideLen = 0 →
          (bolterRows a d ctx (List.range rows) {}).exec e.s small = (.ok (rep, none), e') →
          ∃ u : State, exec (.bolterSample f r) s = .next u.settle ∧ u.mem = e'.s.mem ∧ u.hostMem = e'.s.hostMem ∧
            (u.sq f r).running = some { c with
              flags := c.flags.or e'.flags, done := some (c.statusOf e'.status, rep.empty), doneAt := e'.s.ends, sideOvf := true
              counter := if rows = 0 then c.counter
                else some (BitVec.ofNat 48 (d.addr 0x38), ctx.counter + BitVec.ofNat 128 rows) }) ∧
        (∀ p rep x e', stone = .ok p → bolterOk d = true → d.sideLen = 0 →
          (bolterRows a d ctx (List.range rows) {}).exec e.s small = (.ok (rep, some x), e') →
          ∃ (u : State) (k : Running), exec (.bolterSample f r) s = .next u.settle ∧ (u.sq f r).running = some k ∧
            k.done = some (c.statusOf (x.met e').status, rep.empty) ∧ k.counter = c.counter)) ∧
      (∀ (p pr pb : Nat) (pl : Nat → Nat), s.ecc = [] → s.drawStone f (d.op0 31 25) = .ok p → bolterOk d = true → d.sideLen = 0 →
        s.Reaches a true (d.addr 0x38) 32 pr → s.Reaches a false (d.addr 0x38) 32 pr →
        let x := damselCtx (s.mem.readN pr 32)
        let fmt : BitVec 8 := BitVec.ofNat 8 (d.op0 24 17)
        let w := elemBytes fmt
        let v := d.field 0x30 18 0
        (∀ i < rows, s.ReachesApart [(pb, 4 * rows)] a false (d.addr 0x10 + i * d.addr 0x18) (w * v) (pl i) ∧
          (pl i + w * v ≤ pb ∨ pb + 4 * rows ≤ pl i)) →
        s.ReachesApart [(pb, 4 * rows)] a true (d.addr 0x20) (4 * rows) pb →
        let token (i : Nat) : Option Nat := (pureFlags (do
          let ls ← (List.range v).mapM (fun j => bolterLogit fmt (leNat (s.mem.readN (pl i + w * j) w)))
          bolterToken d (ls.map (·.1)) ((x.call i).headD 0))).1
        ∃ (u : State) (k : Running) (fl : Flags), exec (.bolterSample f r) s = .next u.settle ∧
          u.mem.readN pb (4 * rows) = (List.range rows).flatMap (fun i => natLe 4 ((token i).getD 0xFFFF_FFFF)) ∧
          (∀ b, b < pb ∨ pb + 4 * rows ≤ b → u.mem.read b = s.mem.read b) ∧ u.hostMem = s.hostMem ∧
          (u.sq f r).running = some k ∧ k.flags = c.flags.or fl ∧
          k.done = some (c.statusOf fl.status, BitVec.ofNat 32 ((List.range rows).countP (fun i => (token i).isNone))) ∧
          (rows ≠ 0 → k.counter = some (BitVec.ofNat 48 (d.addr 0x38), x.counter + BitVec.ofNat 128 rows))))

/-- RACE_DECODE (R296, R300, R301, R308, R309) and RACE_ENCODE (R296, R300, R302, R311, R312): `t` is the state after the checks and the
opening; the picture is written by `UnitResult.write` and read by `RaceSpec.source`, as the meanings use them; for operands in device
memory the statement says what memory then holds; a host read that times out (R337; that it is the command's first is log entry 37).
How the standards read and what an encoder chooses are Config's (log entry 21). -/
def Obligations.RaceCommandsComplete : Prop :=
  ∀ (s : State) (f : FnId) (r : RingIx) (c : Running),
    let d := c.desc
    let h := d.raceHouse
    let i := d.raceStream
    let a := raceAcc f h
    let away (t : State) (st : Status) (j : Instr) : Prop := ∃ res, exec j s =
      .next ({ t with freeCount := t.freeCount + 1 }.turnedAway f r c st res).settle
    let opened (x : RaceStream) : Prop := s.owns (s.partOf f) h = true ∧ x.opened = true ∧ x.owner = some f.val ∧ d.startBit = false ∧
      d.closeBit = false ∧ d.sideLen = 0 ∧ s.ecc = []
    let stream (u : State) (p : RaceStream → Prop) : Prop :=
      if d.closeBit = true then (u.rac h i).opened = false else p (u.rac h i)
    (∀ j enc, (j = .raceDecode f r ∧ enc = false ∧ s.fresh f r .raceDecode = some c) ∨
        (j = .raceEncode f r ∧ enc = true ∧ s.fresh f r .raceEncode = some c) →
      let x := s.rac h i
      let mine : Prop := s.owns (s.partOf f) h = true ∧ (x.opened = true → x.owner = some f.val)
      (¬mine → away s .access j) ∧
      (mine → x.opened = d.startBit → away s .state j) ∧
      (mine → x.opened = true → d.startBit = false → x.spec.encode ≠ enc → away s .state j) ∧
      (∀ e t, s.enterRace f d enc = (.error e, t) → e.report = none → e.status ≠ .deviceError → away t e.status j) ∧
      (∀ (va : BitVec 48) (ha : Nat), opened x → x.spec.encode = enc → s.leads a false va.toNat = some (.host ha) →
        ∃ u : State, exec (.completionTimeout f r va) s = .next u.settle ∧ u.rac h i = x ∧ (u.fn f).aer.getLsbD 14 = true ∧
          u.mem = s.mem ∧ u.hostMem = s.hostMem ∧ (u.sq f r).running = some { c with
            done := some (c.statusOf .dataError, 0), sideOvf := true, doneAt := s.ends })) ∧
    (s.fresh f r .raceDecode = some c →
      let len := d.field 0x28 31 0
      (∀ t t' bs e, s.enterRace f d false = (.ok t, t') → d.sideLen = 0 →
        (do raceBufs h; readV a (d.addr 0x20) len : Run (List Byte)).exec t = (.ok bs, e) →
        let x := e.s.rac h i
        let v := x.decode bs (e.s.decodable h x)
        let lost : Status := if e.device then .deviceError else .ok
        let base := worse (if v.errors ≠ 0 then .dataError else if v.missing ≠ 0 then .refMissing else .ok) lost
        let next : RaceStream := { v.stream.count v with serial := x.serial + 1 }
        (v.ok = false → ∃ u : State, exec (.raceDecode f r) s = .next u.settle ∧
          stream u (fun y => y = { x with serial := x.serial + 1 }) ∧ u.mem = e.s.mem ∧ (u.sq f r).running = some { c with
            done := some (c.statusOf (worse lost .dataError), BitVec.ofNat 32 v.unit.bytes), sideOvf := true, doneAt := e.s.ends }) ∧
        (v.ok = true → (∀ n fr, v.picture = some (n, fr) → fr.shown = false) → ∃ u : State, exec (.raceDecode f r) s = .next u.settle ∧
          stream u (· = next) ∧ u.mem = e.s.mem ∧ (u.sq f r).running = some { c with
            done := some (c.statusOf base, BitVec.ofNat 32 v.unit.bytes), sideOvf := true, doneAt := e.s.ends }) ∧
        (∀ n fr hist e', v.ok = true → v.picture = some (n, fr) → fr.shown = true →
          (v.write a n fr (d.addr 0x18)).exec (e.s.setRac h i next) = (.ok hist, e') →
          ∃ u : State, exec (.raceDecode f r) s = .next u.settle ∧ u.mem = e'.s.mem ∧ u.hostMem = e'.s.hostMem ∧
            (u.sq f r).running = some { c with
              flags := c.flags.or e'.flags, done := some (c.statusOf (worse e'.status base), BitVec.ofNat 32 v.unit.bytes)
              sideOvf := true, doneAt := e'.s.ends })) ∧
      (∀ pl, opened (s.rac h i) → (s.rac h i).spec.encode = false → s.Reaches a false (d.addr 0x20) len pl →
        let x := s.rac h i
        let v := x.decode (s.mem.readN pl len) (s.decodable h x)
        let base : Status := if v.errors ≠ 0 then .dataError else if v.missing ≠ 0 then .refMissing else .ok
        let ends (u : State) (fl : Flags) (st : Status) : Prop := (u.sq f r).running = some { c with
          flags := c.flags.or fl, done := some (c.statusOf st, BitVec.ofNat 32 v.unit.bytes), sideOvf := true, doneAt := s.ends }
        (v.ok = false → ∃ u : State, exec (.raceDecode f r) s = .next u.settle ∧
          u.rac h i = { x with serial := x.serial + 1 } ∧ u.mem = s.mem ∧ u.hostMem = s.hostMem ∧ ends u {} .dataError) ∧
        (v.ok = true → (∀ n fr, v.picture = some (n, fr) → fr.shown = false) → ∃ u : State, exec (.raceDecode f r) s = .next u.settle ∧
          u.rac h i = { v.stream.count v with serial := x.serial + 1 } ∧ u.mem = s.mem ∧ u.hostMem = s.hostMem ∧ ends u {} base) ∧
        (∀ (n : Nat) (fr : Config.Frame) (pd : Nat → Nat → Nat), v.ok = true → v.picture = some (n, fr) → fr.shown = true →
          let w := elemBytes x.spec.fmt
          let planes := numbered (x.spec.planes fr.chroma fr.width fr.height (d.addr 0x18) false)
          let runs := planes.flatMap (fun p => (List.range p.2.1).map (fun y => (pd p.1 y, w * p.2.2.1)))
          (∀ p ∈ planes, ∀ y < p.2.1, s.ReachesApart runs a true (p.2.2.2.1 + y * p.2.2.2.2) (w * p.2.2.1) (pd p.1 y)) →
          runs.Pairwise (fun j k => j.1 + j.2 ≤ k.1 ∨ k.1 + k.2 ≤ j.1) →
          ∃ (u : State) (fl : Flags), exec (.raceDecode f r) s = .next u.settle ∧
            u.rac h i = { v.stream.count v with serial := x.serial + 1 } ∧
            (∀ p ∈ planes, ∀ y < p.2.1, u.mem.readN (pd p.1 y) (w * p.2.2.1) = (List.range p.2.2.1).flatMap (fun z => natLe w
              (pureFlags (encodeElem x.spec.fmt (sampleValue x.spec.fmt fr.depth (v.sample n fr p.1 y z)))).1)) ∧
            (∀ b, (∀ k ∈ runs, b < k.1 ∨ k.1 + k.2 ≤ b) → u.mem.read b = s.mem.read b) ∧ u.hostMem = s.hostMem ∧
            ends u fl (worse fl.status base)))) ∧
    (s.fresh f r .raceEncode = some c →
      let len := d.field 0x28 31 0
      let outOf (t : State) (x : RaceStream) (planes : List (List (List Nat))) : List Byte × Nat × Nat × Bool :=
        let pic := planes.flatMap (fun pl => pl.flatMap (fun row => row.flatMap (fun v => natLe 2 v)))
        attempts (x.code (Config.encRev t.fw.version) planes pic) (decide (x.spec.capBits ≠ 0)) x.budget x.spec.quantisers 0
      (∀ t t' planes e, s.enterRace f d true = (.ok t, t') → d.sideLen = 0 →
        (do raceBufs h; (t.rac h i).spec.source a (d.addr 0x18) : Run (List (List (List Nat)))).exec t = (.ok planes, e) →
        let x := t.rac h i
        let out := (outOf e.s x planes).1
        (∀ m e', out.length ≤ len → (writePieces a out (pieces (d.addr 0x20) out.length) 0).exec e.s = (.ok (m, none), e') →
          ∃ u : State, exec (.raceEncode f r) s = .next u.settle ∧
            stream u (fun y => y.serial = x.serial + 1 ∧ y.cPictures = sat32 x.cPictures 1) ∧
            u.mem = e'.s.mem ∧ u.hostMem = e'.s.hostMem ∧ (u.sq f r).running = some { c with
              flags := c.flags.or e.flags, done := some (c.statusOf e.status, BitVec.ofNat 32 out.length), sideOvf := true
              doneAt := e'.s.ends }) ∧
        (∀ e', len < out.length → (writeV a (d.addr 0x20) (e.s.freeBytes len).1).exec (e.s.freeBytes len).2 = (.ok (), e') →
          ∃ (u : State) (k : Running), exec (.raceEncode f r) s = .next u.settle ∧ stream u (fun y => y = e'.s.rac h i) ∧
            u.mem = e'.s.mem ∧ (u.sq f r).running = some k ∧ k.done.map (·.1) = some (c.statusOf (worse e.status .range)))) ∧
      (∀ (ps : Nat → Nat → Nat) (pb : Nat), opened (s.rac h i) → (s.rac h i).spec.encode = true →
        let x := s.rac h i
        let w := elemBytes x.spec.fmt
        let depth := if x.spec.tenBit then 10 else 8
        let rows := numbered (x.spec.planes x.spec.chroma x.spec.width x.spec.height (d.addr 0x18) x.spec.inRgb)
        (∀ p ∈ rows, ∀ y < p.2.1, s.Reaches a false (p.2.2.2.1 + y * p.2.2.2.2) (w * p.2.2.1) (ps p.1 y)) →
        let codes : List (List (List Nat)) := rows.map (fun p => (List.range p.2.1).map (fun y => (List.range p.2.2.1).map (fun z =>
          leNat (s.mem.readN (ps p.1 y + w * z) w))))
        let planes := pureFlags (if x.spec.inRgb = true then rgbPicture x.spec depth codes
          else codes.mapM (fun pl => pl.mapM (fun row => row.mapM (sourceSample x.spec.fmt depth))))
        let out := (outOf s x planes.1).1
        out.length ≤ len → s.ReachesApart [(pb, out.length)] a true (d.addr 0x20) out.length pb →
        ∃ u : State, exec (.raceEncode f r) s = .next u.settle ∧ u.mem.readN pb out.length = out ∧
          (∀ b, b < pb ∨ pb + out.length ≤ b → u.mem.read b = s.mem.read b) ∧ u.hostMem = s.hostMem ∧
          (u.rac h i).serial = x.serial + 1 ∧ (u.rac h i).cPictures = sat32 x.cPictures 1 ∧ (u.sq f r).running = some { c with
            flags := c.flags.or planes.2, done := some (c.statusOf planes.2.status, BitVec.ofNat 32 out.length), sideOvf := true
            doneAt := s.ends }))

/-- Hopper batches (R272, R275, R282, R287 to R290, R316): the order in which batches of a stream start, the checks, a job's steps, its
end, a host read that times out (R337). RESULT of a command turned away is a free value (log entry 12). -/
def Obligations.HopperBatchesRunAndEnd : Prop :=
  (∀ (s : State) (f : FnId) (r : RingIx) (c : Running), s.fresh f r .hopperBatch = some c →
    let d := c.desc
    let h := d.hopHouse
    let i := d.hopStream
    let x := s.hop h i
    let me : Nat × Nat × Word32 := (f.val, r.val, c.seq)
    let line := s.hopLine h i
    let first : Prop := (s.hopperBusy h i = false ∧ (line = [] ∨ line.head? = some me)) ∨ x.owner ≠ some f.val
    let t := s.setHop h i { x with line := line.filter (· != me) }
    let away (t : State) (st : Status) : Prop := ∃ res, exec (.hopperBatch f r) s =
      .next ({ t with freeCount := t.freeCount + 1 }.turnedAway f r c st res).settle
    (¬first → exec (.hopperBatch f r) s =
      .next (s.setHop h i { x with line := if me ∈ line then line else line ++ [me] }).settle) ∧
    (first → s.owns (s.partOf f) h = false ∨ (x.opened = true ∧ x.owner ≠ some f.val) → away t .access) ∧
    (first → s.owns (s.partOf f) h = true → (x.opened = true → x.owner = some f.val) → x.opened = d.startBit → away t .state) ∧
    (∀ e t', first → t.enterHopper f d = (.error e, t') → e.report = none → e.status ≠ .deviceError → away t' e.status) ∧
    (∀ y fl t', first → t.enterHopper f d = (.ok (y, fl), t') →
      let z := y.hop h i
      (z.spec.n ≤ z.pos → d.closeBit = false → away y .state) ∧
      (z.spec.n ≤ z.pos → d.closeBit = true → exec (.hopperBatch f r) s =
        .next ((y.closeHopper h i).endedWith f r c .ok z.serial).settle) ∧
      (z.pos < z.spec.n → 0 < z.spec.batch → z.spec.deadline ≠ 0 → exec (.hopperBatch f r) s = .next (y.setRunning f r (some
        { c with wait := .hopper { z.job h i d.closeBit fl with phase := .issued } })).settle)) ∧
    (first → s.owns (s.partOf f) h = true → x.opened = true → x.owner = some f.val → d.startBit = false →
      (x.spec.n ≤ x.pos → d.closeBit = true → exec (.hopperBatch f r) s =
        .next ((t.closeHopper h i).endedWith f r c .ok x.serial).settle) ∧
      (x.pos < x.spec.n → 0 < x.spec.batch → x.spec.deadline ≠ 0 → exec (.hopperBatch f r) s = .next (t.setRunning f r (some
        { c with wait := .hopper { x.job h i d.closeBit {} with phase := .issued } })).settle) ∧
      (∀ (va : BitVec 48) (ha : Nat), x.pos < x.spec.n → d.sideLen = 0 → s.leads (hopperAcc f h) false va.toNat = some (.host ha) →
        ∃ u : State, exec (.completionTimeout f r va) s = .next u.settle ∧ u.mem = s.mem ∧
          (u.hop h i).serial = x.serial ∧ (u.hop h i).pos = x.pos ∧ (u.hop h i).opened = !d.closeBit ∧
          (u.sq f r).running = some { c with
            done := some (c.statusOf .dataError, x.serial), sideOvf := true, doneAt := s.ends }))) ∧
  (∀ (s : State) (f : FnId) (r : RingIx) (c : Running) (j : HopperJob), s.running f r = some c → c.wait = .hopper j → c.done = none →
    let x := s.hop j.house j.stream
    let ended := decide (x.spec.n ≤ j.pos)
    (x.spec.batch ≤ j.slot → c.desc.sideLen = 0 →
      ∃ (u : State) (k : Running), exec (.hopperBatch f r) s = .next u.settle ∧
        (u.hop j.house j.stream).serial = x.serial + 1 ∧ (u.hop j.house j.stream).opened = (x.opened && !j.close) ∧
        (u.hop j.house j.stream).epoch = (if (ended && x.spec.autoEpoch) = true then j.epoch + 1 else j.epoch) ∧
        (u.hop j.house j.stream).pos = (if (ended && x.spec.autoEpoch) = true then 0 else j.pos) ∧ (u.sq f r).running = some k ∧
        k.flags = c.flags.or j.flags ∧ k.done = some (c.statusOf (worse
          (worse (if j.device = true then .deviceError else .ok) (if x.spec.replaceLimit ≤ j.total then .dataError else .ok))
          (worse (if 0 < j.total then .replaced else .ok) k.flags.status)), x.serial) ∧ u.mem = s.mem ∧ u.hostMem = s.hostMem) ∧
    (x.spec.deadline = 0 ∨ j.phase = .idle → exec (.sampleDeadline f r) s = .next s.settle) ∧
    (x.spec.deadline ≠ 0 → j.phase ≠ .idle → j.slot < x.spec.batch → j.pos + 1 < x.spec.n → j.total + 1 < x.spec.replaceLimit →
      ∃ u : State, exec (.sampleDeadline f r) s = .next u.settle ∧
        (u.hop j.house j.stream).cDeadline = sat32 x.cDeadline 1 ∧ (u.sq f r).running = some { c with wait := .hopper { j with
          skips := j.skips + 1, total := j.total + 1, pos := j.pos + 1, deadline := j.deadline + 1, phase := .issued } } ∧
        (u.house j.house).hopperBufs = (s.house j.house).hopperBufs - (if j.phase = .decoding then 9 else 0) ∧ u.mem = s.mem) ∧
    (j.phase = .waiting → 9 ≤ s.freeVideoBufs j.house → ∃ u : State, exec (.sampleBuffersTaken f r) s = .next u.settle ∧
      (u.house j.house).hopperBufs = (s.house j.house).hopperBufs + 9 ∧
      (u.sq f r).running = some { c with wait := .hopper { j with phase := .decoding } } ∧ u.mem = s.mem) ∧
    (j.phase ≠ .waiting ∨ s.freeVideoBufs j.house < 9 → exec (.sampleBuffersTaken f r) s = .next s.settle) ∧
    (∀ (va : BitVec 48) (ha : Nat), opcodeOf c.desc.opcode = some .hopperBatch → c.desc.sideLen = 0 →
      s.leads (hopperAcc f j.house) false va.toNat = some (.host ha) →
      ∃ u : State, exec (.completionTimeout f r va) s = .next u.settle ∧ u.mem = s.mem ∧
        (u.hop j.house j.stream).serial = x.serial ∧ (u.hop j.house j.stream).pos = x.pos ∧
        (u.hop j.house j.stream).opened = (x.opened && !j.close) ∧ (u.sq f r).running = some { c with
          wait := .none, flags := c.flags.or j.flags, sideOvf := true, doneAt := s.ends
          done := some (c.statusOf (if j.device = true then .deviceError else .dataError), x.serial) }))

/-- SNAPSHOT (R100, R259 to R261, R370) and RESTORE (R261, R262). RESULT of a command turned away is a free value (log entry 12); what a
section holds beyond its windows is the model's own (log entry 24), as is the order in which sets stop and the image is written (log
entry 15). -/
def Obligations.SnapshotAndRestoreComplete : Prop :=
  (∀ (s : State) (f : FnId) (r : RingIx) (c : Running), s.fresh f r .snapshot = some c →
    let q := c.desc.op0 3 0
    let seq : Word32 := BitVec.ofNat 32 (c.desc.field 0x10 31 0)
    let base := c.desc.addr 0x18
    let len := c.desc.field 0x20 63 0
    let a := stoneAcc f 0
    let size := s.imageSize f q seq
    let xs := s.sectionsOf f q seq
    let waits : Running := { c with wait := .snapshot q seq }
    (∀ b e, (onDevice a base (min len (2 ^ 48))).exec s = (b, e) →
      let away (st : Status) : Prop := ∃ res, exec (.snapshot f r) s =
        .next ({ e.s with freeCount := e.s.freeCount + 1 }.turnedAway f r c st res).settle
      (b ≠ .ok true → away .access) ∧
      (b = .ok true → e.s.instanceOf f q seq = none → away .state) ∧
      (b = .ok true → (e.s.instanceOf f q seq).isSome = true → len < size → away .capacity) ∧
      (∀ run e', b = .ok true → e.s.instanceOf f q seq = some run → size ≤ len →
        let ys := e.s.sectionsOf f q seq
        (writeV a base (natLe 8 (ys.length * 2 ^ 48 + run.plan.toNat))).exec e.s = (.ok (), e') →
        let t := ys.foldl (fun s x => (s.stopIdle x.2.1 x.2.2).stopDue x.2.1) (e'.s.setRunning f r (some waits))
        (∃ x ∈ t.sectionsOf f q seq, (t.setCtx x.2.1 x.2.2).state ≠ .stopping) → exec (.snapshot f r) s = .next t.settle)) ∧
    (∀ run k pb, s.ecc = [] → (∀ p, (s.stone p).ecc = []) → s.instanceOf f q seq = some run → s.running f q = some k → k.done = none →
      size ≤ len → len ≤ 2 ^ 48 → s.ReachesApart [(pb, size)] a true base len pb →
      (∀ x ∈ xs, let y := s.setCtx x.2.1 x.2.2
        (y.state = .waiting ∨ y.state = .ready ∨ y.state = .stopping) ∧ y.f = f.val ∧ y.r = q ∧ y.seq = seq ∧ (s.unit 0 x.2.1).due = false ∧
        y.tables.length = y.plan.tables ∧ (∀ t ∈ y.tables, (Table.get {} (s.stone x.2.1).tables t).bytes.length = 2112) ∧
        (∀ g ∈ y.rings, ∀ m ∈ g.2, m.ecc = none)) →
      (∀ n t, t ∈ (s.pawl n).queue → ∃ p i, t = .set p i) →
      ∃ (u : State) (k' own : Running) (parts : List (List Byte)), exec (.snapshot f r) s = .next u.settle ∧
        (u.sq f q).running = some k' ∧ k'.done.map (·.1) = some (k.statusOf .aborted) ∧
        (u.sq f r).running = some own ∧ own.done = some (c.statusOf .ok, BitVec.ofNat 32 size) ∧ own.wait = .none ∧
        (∀ x ∈ xs, (u.setCtx x.2.1 x.2.2).state = .empty) ∧
        u.mem.readN pb size = imageHead true xs.length f run size (crc32c parts.flatten) ++ parts.flatten ∧
        (∀ b, b < pb ∨ pb + size ≤ b → u.mem.read b = s.mem.read b) ∧ u.hostMem = s.hostMem ∧ parts.length = xs.length ∧
        ∀ n (hn : n < xs.length), let x := xs[n]
          let y := s.setCtx x.2.1 x.2.2
          let part := parts.getD n []
          let bin := (s.stone x.2.1).bin
          part.length = y.plan.sectionBytes ∧ part.take 64 = sectionHead x.1 x.2.2 y.plan ∧
          (part.drop 1088).take (2 * y.plan.bin) = bin.readN y.binOff y.plan.bin ++ bin.readN (halfBytes + y.binOff) y.plan.bin ∧
          (part.drop (1088 + 2 * y.plan.bin)).take (y.plan.accSlots * 4096) =
            y.accRuns.flatMap (fun j => (s.stone x.2.1).acc.readN j 128))) ∧
  (∀ (s t : State) (f : FnId) (r : RingIx) (c : Running) (head body : List Byte), s.fresh f r .restore = some c →
    let a := stoneAcc f 0
    let va := c.desc.addr 0x10
    let image : Prop := (∃ e, (readSnapshot a va).exec s = (.ok (head, body), e) ∧ t = e.s) ∨
      (∃ ph pb, s.ecc = [] ∧ t = s ∧ s.Reaches a false va 64 ph ∧ s.Reaches a false (va + 64) body.length pb ∧
        head = s.mem.readN ph 64 ∧ body = s.mem.readN pb body.length ∧ (word64At head 0).getLsbD 63 = true ∧
        (word64At head 8).toNat = 64 + body.length)
    let check := (word64At head 0x10).toNat
    let plan := (word64At head 0).toNat % 2 ^ 48
    let survey := t.tryBind (bindPlan { t.binder f r c with survey := true } plan (fun _ => .over))
    let away (t : State) (st : Status) : Prop := ∃ res, exec (.restore f r) s =
      .next ({ t with freeCount := t.freeCount + 1 }.turnedAway f r c st res).settle
    (∀ ph, s.ecc = [] → s.Reaches a false va 64 ph →
      (word64At (s.mem.readN ph 64) 0).getLsbD 63 = false ∨ (word64At (s.mem.readN ph 64) 8).toNat < 64 → away s .malformed) ∧
    (image →
    (check % 2 ^ 32 ≠ (crc32c body).toNat → away t .malformed) ∧
    (check % 2 ^ 32 = (crc32c body).toNat →
      (∀ e t1, survey = (.error e, t1) → e.report = none → e.status ≠ .deviceError → away t1 .malformed) ∧
      (∀ run t1, survey = (.ok run, t1) →
        let sections := sectionsIn t1.saved ((word64At head 0).toNat / 2 ^ 48 % 512) body
        (run.check.toNat ≠ check / 2 ^ 32 ∨ sections = none → away t1 .malformed) ∧
        (∀ xs, run.check.toNat = check / 2 ^ 32 → sections = some xs →
          let mine : Prop := (word64At head 0x18).toNat % 256 = f.val ∧ ∀ y ∈ xs, t1.owns (t1.partOf f) (y.logical / 24) = true
          let free : Prop := ∀ y ∈ xs, ∃ p, t1.physOf y.logical = some p ∧ (t1.setCtx p y.index).state = .empty
          (¬mine → away t1 .access) ∧
          (mine → ¬free → away t1 .state) ∧
          (∀ x ys run' t2, mine → free → xs = x :: ys → t1.tryBind (bindPlan (t1.binder f r c) plan (wantOf xs)) = (.ok run', t2) →
            (∀ y ∈ xs, y.kept.ctx.countersOk = true ∧ ∀ p, t1.physOf y.logical = some p → y.sized (t2.setCtx p y.index) = true) →
            ∃ (u : State) (k : Running) (p : PlanRun), exec (.restore f r) s = .next u.settle ∧ (u.sq f r).running = some k ∧
              k.wait = .plan p ∧ k.done = none ∧ p.stages = run'.stages ∧ p.rounds = run'.rounds ∧
              p.finished = x.kept.plan.finished ∧ p.flags = x.kept.plan.flags ∧ u.mem = t2.mem ∧ u.hostMem = t2.hostMem))))))

/-- Integer pass sums (R52) and INT32 entries (R55), over every sequence of passes. -/
def Obligations.IntegerPassesSumAndClamp : Prop :=
  (∀ l : List (Int × Int), intPassSum (l.map (fun x => (numOfInt x.1, numOfInt x.2))) = (l.map (fun x => x.1 * x.2)).sum) ∧
  (∀ (ts : List Int) (a : Word32) (fl : Flags),
    let clamp (x : Int) : Int := max (-2 ^ 31) (min (2 ^ 31 - 1) x)
    let out := (ts.foldlM accEnterInt a).run fl
    out.1.toInt = ts.foldl (fun x t => clamp (x + t)) a.toInt ∧
    out.2 = { fl with sat := fl.sat || (List.range ts.length).any (fun n =>
      let x := (ts.take n).foldl (fun x t => clamp (x + t)) a.toInt + ts.getD n 0
      decide (clamp x ≠ x)) })

/-- Formats (R15 to R21, R35 to R41), special products (R50), FP32 entries (R54, R62), counts of the histogram (R74 to R77). -/
def Obligations.FloatNumbersFollowTheirRules : Prop :=
  (∀ code bits : Nat, 1 ≤ code → code ≤ 0xE → bits < 2 ^ storageBits code → (code = 2 → bits < 2 ^ 32 ∧ bits % 2 ^ 13 = 0) →
    let v := ((decodeElem code bits).run {}).1
    v.isNan = false → ((decodeElem code bits).run {}).2 = {} →
    (encodeElem (BitVec.ofNat 8 code) v).run {} = (bits, {})) ∧
  (∀ (a b : Machine.Num) (fl : Flags), a.isNan = true ∨ b.isNan = true ∨
      (a.isInf = true ∧ b.isZero = true) ∨ (a.isZero = true ∧ b.isInf = true) →
    (product a b).run fl = (.nan, { fl with inv := true })) ∧
  (∀ (a : Word32) (t : Machine.Num) (fl : Flags),
    ((fp32 a).isNan = true ∨ t.isNan = true → (accEnter a t).run fl = ((0x7FC0_0000, false), fl)) ∧
    ((fp32 a).isInf = true → t.isNan = false → (t.isInf = true → t.neg? = (fp32 a).neg?) → (accEnter a t).run fl = ((a, false), fl)) ∧
    ((fp32 a).isInf = true → t.isInf = true → t.neg? ≠ (fp32 a).neg? →
      (accEnter a t).run fl = ((0x7FC0_0000, false), { fl with inv := true })) ∧
    (let w := ((accEnter a t).run fl).1.1.toNat
     w / 2 ^ 23 % 256 = 0 → w % 2 ^ 23 = 0)) ∧
  (∀ (h : Hist) (v : Machine.Num) (was : Bool) (code : Nat),
    let g := h.add v was code
    let changed := [decide (g.zero ≠ h.zero), decide (g.flushed ≠ h.flushed), decide (g.infs ≠ h.infs), decide (g.nans ≠ h.nans),
      decide (g.bins ≠ h.bins)]
    g.elements = h.elements + 1 ∧ (changed.filter id).length ≤ 1 ∧ g.tensor = h.tensor ∧ g.format = h.format ∧ g.flags = h.flags)

/-- The life of a plan (R88, R91, R96, R192, R195, R209, R215). RESULT of a RUN_PLAN that is turned away is a free value (log entry 12). -/
def Obligations.PlansBindAndEnd : Prop :=
  (∀ (s : State) (f : FnId) (r : RingIx) (c : Running), s.fresh f r .runPlan = some c →
    let x := s.tryBind (bindPlan (s.binder f r c) (c.desc.addr 0x10) (fun _ => .lowest))
    (∀ run t, x = (.ok run, t) → exec (.runPlan f r) s = .next (t.setRunning f r (some { c with wait := .plan run })).settle) ∧
    (∀ e t, x = (.error e, t) → c.desc.sideLen = 0 → ∃ (u : State) (res : Word32), exec (.runPlan f r) s = .next u.settle ∧
      u.stones = s.stones ∧ (u.sq f r).running = some { c with
        done := some (c.statusOf e.status, res), flags := {}, sideOvf := c.sideOvf || e.report.isSome, doneAt := t.ends })) ∧
  (∀ (s : State) (p : StoneP) (i : SetIx),
    let c := s.setCtx p i
    let y := s.pawl c.plan.pawl
    (c.state ≠ .binding → exec (.bindingDone p i) s = .next s.settle) ∧
    (c.state = .binding → (∀ r k sq seq, s.running c.f r = some k → k.wait ≠ .snapshot sq seq) →
      ∃ u : State, exec (.bindingDone p i) s = .next u.settle ∧ (u.setCtx p i).state = .waiting ∧
      (u.setCtx p i).fillDue = (s.stone p).order + 1 ∧
      (∀ k < c.plan.bin, (u.stone p).bin.read (c.binOff + k) = 0 ∧ (u.stone p).bin.read (halfBytes + c.binOff + k) = 0) ∧
      (∀ a, (∀ k < c.plan.bin, a ≠ c.binOff + k ∧ a ≠ halfBytes + c.binOff + k) → (u.stone p).bin.read a = (s.stone p).bin.read a) ∧
      u.mem = s.mem ∧ u.hostMem = s.hostMem ∧
      (c.plan.pawlEn = false → u.pawls = s.pawls ∧ u.fns = s.fns) ∧
      (c.plan.pawlEn = true → s.speaks p = false → u.pawls = s.pawls ∧ u.fns = s.fns ∧
        (u.unit 0 p).stale = sat32 (s.unit 0 p).stale 1) ∧
      (c.plan.pawlEn = true → s.speaks p = true → y.holder = none → (u.pawl c.plan.pawl).holder = some (.set p i) ∧
        (u.setCtx p i).pawl = .held) ∧
      (c.plan.pawlEn = true → s.speaks p = true → y.holder.isSome = true → u.pawl c.plan.pawl = { y with queue := y.queue ++ [.set p i] } ∧
        (u.setCtx p i).pawl = .queued)) ∧
    (c.over = true → c.state ≠ .stopping → s.ownsSet p i = true → ∃ u : State,
      exec (.setComplete p i) s = .next u.settle ∧ u.setCtx p i = {} ∧
      u.mem = s.mem ∧ u.hostMem = s.hostMem ∧ (∀ q, q ≠ p.val → u.stone q = s.stone q) ∧
      ∀ k x, s.running c.f c.r = some k → k.wait = .plan x → (u.sq c.f c.r).running = some { k with wait := .plan { x with
        flags := x.flags.or c.flags, finished := x.finished ++ [c.stage], hists := x.hists ++ c.records } }) ∧
    (c.over = false ∨ c.state = .stopping ∨ s.ownsSet p i = false → exec (.setComplete p i) s = .next s.settle) ∧
    (c.finished = true → c.pawl = .held → s.speaks p = false → ∃ u : State, exec (.stagePawlGive p i) s = .next u.settle ∧
      (u.setCtx p i).pawl = .given ∧ u.pawls = s.pawls ∧ u.fns = s.fns ∧ u.mem = s.mem ∧
      (u.unit 0 p).stale = sat32 (s.unit 0 p).stale 1) ∧
    (c.finished = true → c.pawl = .held → s.speaks p = true →
      (y.queue = [] → ∃ u : State, exec (.stagePawlGive p i) s = .next u.settle ∧ (u.setCtx p i).pawl = .given ∧
        u.pawl c.plan.pawl = { y with holder := none, broken := false } ∧ u.fns = s.fns ∧ u.mem = s.mem) ∧
      (∀ t ts, y.queue = t :: ts → t ≠ .set p i → ∃ u : State, exec (.stagePawlGive p i) s = .next u.settle ∧
        (u.setCtx p i).pawl = .given ∧ u.pawl c.plan.pawl = { y with holder := some t, broken := false, queue := ts } ∧
        u.mem = s.mem)) ∧
    (c.finished = false ∨ c.pawl ≠ .held → exec (.stagePawlGive p i) s = .next s.settle)) ∧
  (∀ (s : State) (f : FnId) (r : RingIx) (c : Running) (x : PlanRun), s.running f r = some c → c.wait = .plan x →
    (x.finished.length ≠ x.stages.length → exec (.planComplete f r) s = .next s.settle) ∧
    (x.finished.length = x.stages.length → x.hists = [] → c.done = none → ∃ u : State,
      exec (.planComplete f r) s = .next u.settle ∧ u.mem = s.mem ∧ u.hostMem = s.hostMem ∧ u.stones = s.stones ∧
      (u.sq f r).running = some { c with
        wait := .none, flags := c.flags.or x.flags, doneAt := s.ends
        done := some (c.statusOf (if x.broken then .broken else (c.flags.or x.flags).status), BitVec.ofNat 32 x.rounds) }))

/-- The order of sets on a runner (R96 to R99, R255, R256). -/
def Obligations.RunnerSwitchesSets : Prop :=
  ∀ (s : State) (p : StoneP) (i : SetIx),
    let x := s.stone p
    let c := x.set i
    (c.state = .waiting → c.tileReady = true → ∃ u : State, exec (.tileReady p i) s = .next u.settle ∧
      u.setCtx p i = { c with state := .ready, readyAt := x.order + 1 } ∧ (u.stone p).order = x.order + 1 ∧
      (∀ j, j ≠ i.val → u.setCtx p j = x.set j) ∧ u.mem = s.mem ∧ u.fns = s.fns) ∧
    (c.state ≠ .waiting ∨ c.tileReady = false → c.state ≠ .running → exec (.tileReady p i) s = .next s.settle) ∧
    ((∀ f r k sq seq, s.running f r = some k → k.wait ≠ .snapshot sq seq) →
     let gives : Prop := ∀ k, x.loaded = some k → (x.set k).state = .running →
       x.atBoundary = true ∧ x.switching = false ∧ x.mustSwitch (x.set k) = true
     (x.readySets = [] ∨ ¬gives → exec (.setSwitch p) s = .next s.settle) ∧
     (∀ j d rest, x.readySets = (j, d) :: rest → gives → ∃ u : State, exec (.setSwitch p) s = .next u.settle ∧
       (u.stone p).loaded = some j ∧ (u.setCtx p j).state = .running ∧ (u.stone p).atBoundary = false ∧
       (u.stone p).expired = false ∧ ((u.stone p).switching = true ↔ x.loaded ≠ some j) ∧ (u.stone p).bin = x.bin ∧
       (u.stone p).acc = x.acc ∧ u.mem = s.mem ∧ u.fns = s.fns ∧
       (∀ k, k ≠ j → x.loaded ≠ some k → u.setCtx p k = x.set k) ∧
       ∀ k, x.loaded = some k → k ≠ j → (x.set k).state = .running →
         (u.setCtx p k).state = (if (x.set k).tileReady = true then .ready else .waiting))) ∧
    (x.switching = false → exec (.switchInDone p) s = .next s.settle) ∧
    (x.switching = true → x.ecc = [] → ∃ u : State, exec (.switchInDone p) s = .next (u.walkOn p).settle ∧
      (u.stone p).switching = false ∧ (∀ j, u.setCtx p j = x.set j) ∧ u.mem = s.mem ∧
      (u.stone p).overCount = x.overCount + (match x.loaded with
        | some k => if (x.set k).state = .running ∧ (x.set k).overshot = true then 64 else 0
        | none => 0)) ∧
    (∀ k e, x.switching = true → x.loaded = some k →
      (meetCtx p k).exec (s.setStone p ({ x with switching := false }.spend 64)) = (.ok (), e) → e.device = true →
      ∃ u : State, exec (.switchInDone p) s = .next (u.stopSet p k { status := .deviceError }).settle) ∧
    (s.clocked p = false → exec (.schedWindow p) s = .next s) ∧
    (s.clocked p = true → ∃ u, exec (.schedWindow p) s = .next u ∧ (u.stone p).overCount = 0 ∧
      (u.stone p).reserve = (s.part (partOfHouse s.shape (p.val / 25))).reserve ∧ (u.stone p).sets = x.sets ∧
      (∀ q, q ≠ p.val → u.stone q = s.stone q) ∧ u.mem = s.mem ∧ u.parts = s.parts) ∧
    (let idle : Prop := ∀ k, x.loaded = some k → (x.set k).state ≠ .running
     (idle → exec (.allotmentExpiry p) s = .next s) ∧
     (∀ k, x.loaded = some k → (x.set k).state = .running →
       let d := x.set k
       let peer : Prop := ∃ y ∈ x.readySets, x.high y.2 = true ∨ x.high d = false
       (peer → exec (.allotmentExpiry p) s = .next (s.setStone p { x with expired := true })) ∧
       (¬peer → x.high d = true → x.reserve.toNat < 64 → ∃ u, exec (.allotmentExpiry p) s = .next u ∧
         (u.stone p).high d = false ∧ (u.stone p).expired = true ∧ (u.stone p).sets = x.sets ∧ u.mem = s.mem) ∧
       (¬peer → x.high d = false ∨ 64 ≤ x.reserve.toNat → exec (.allotmentExpiry p) s = .next s)))

/-- Passes (R80, R93, R113), freewheeling (R103, R104), readout (R95, R131), vane operations (R144). The work of a pass, of a readout and
of a unit is `Site.pass`, `Drain.all` and `VaneJob.unit`, as the meanings use them; it completes where the stone holds no stored error
and every element it touches lies in the windows of its set. -/
def Obligations.PassesAndReadouts : Prop :=
  ∀ (s : State) (p : StoneP),
    let s1 := s.walkOn p
    let s2 := s1.beginNext p
    let inBin (c : SetCtx) (e : Elem) : Prop := e.off + groupBytes e.bits ≤ c.plan.bin ∧ ∀ o, e.scale = some o → o + 1 ≤ c.plan.bin
    (∀ m, s2.passReady p = none → exec (.passIssue p m) s = .next (s1.stopRunner p).settle) ∧
    (∀ i t, s2.passReady p = some (i, t) →
      let c := s2.setCtx p i
      let l := t.layer c.pos.layer
      let b := t.body c.pos.layer c.pos.counts
      let rows := subRowsValid l b c.pos.ms
      let cols := subColsValid l b c.pos.ns
      let ks := upFrom (passSpan l b c.pos.j).1 (passSpan l b c.pos.j).2
      let en := c.ringEntry t c.pos.layer
      let g := c.group en.group
      let slot := g.base + (c.pos.ms * l.subCols + c.pos.ns) * en.w
      let s3 := (s2.modStone p (fun x =>
        let y := rampUp 4000 (gapClocks (Config.gapsBefore s1.freeCount) x); y.1.spend y.2)).tick
      let moved (u : State) : Prop := ∀ pos, c.pos.nextPass (bodyShape t l b) = some pos → (u.setCtx p i).pos = pos ∧
        (en.group < c.groups.length → slot ∉ ((u.setCtx p i).group en.group).initial)
      rows ≠ [] → cols ≠ [] → (passSpan l b c.pos.j).2 ≠ 0 →
      (∀ e, (Site.pass { p := p, i := i, half := c.half } c l b g rows cols).exec s3 = (.ok (), e) → e.device = false →
        ∃ u : State, exec (.passIssue p false) s = .next (u.stopRunner p).settle ∧ (u.stone p).acc = (e.s.stone p).acc ∧
          u.mem = e.s.mem ∧ u.hostMem = e.s.hostMem ∧ moved u) ∧
      ((s.stone p).ecc = [] →
        g.base + (c.pos.ms * l.subCols + c.pos.ns) * (if g.comp then 2 else 1) + (if g.comp then 2 else 1) ≤ c.plan.accSlots →
        (∀ r ∈ rows, ∀ k ∈ ks, ∀ e, (if l.conv then convElem l b (c.flip c.pos.layer 1).buf r k
          else some (matElem l.fmtA l.a (c.flip c.pos.layer 1).buf l.tm l.tk r k)) = some e → inBin c e) →
        (∀ n ∈ cols, ∀ k ∈ ks, inBin c (matElem l.fmtB l.b (c.flip c.pos.layer 2).buf l.tn l.tk n k)) →
        l.fmtBias = 0 ∨ (∀ r ∈ rows, ∀ n ∈ cols, inBin c (biasElem l g.biasBuf r n)) →
        ∃ u : State, exec (.passIssue p false) s = .next (u.stopRunner p).settle ∧ u.mem = s.mem ∧ u.hostMem = s.hostMem ∧ moved u)) ∧
    ((s2.passReady p).isSome = true ∨ s1.clocked p = false → ∀ m, exec (.dummyPass p m) s = .next s1.settle) ∧
    (s2.passReady p = none → s1.clocked p = true → ∃ u : State, exec (.dummyPass p false) s = .next u.settle ∧
      (u.stone p).acc = (s1.stone p).acc ∧ (u.stone p).bin = (s1.stone p).bin ∧ (u.stone p).sets = (s1.stone p).sets ∧
      (u.stone p).level ≤ (s1.stone p).level ∧ u.mem = s.mem ∧ u.fns = s.fns) ∧
    (let pick := (s.stone p).draining.find? (fun y => s.canDrain p y.1 y.2)
     (pick = none → exec (.vaneReadout p) s = .next s.settle) ∧
     (∀ i n t, pick = some (i, n) → (s.setCtx p i).table = some t →
       let d := s.drain p i n t
       (∀ y e, (do meetTable p d.c d.record; d.all : Run Yield).exec s = (.ok y, e) → e.device = false →
         ∃ u : State, exec (.vaneReadout p) s = .next ((u.settlePhase p i).walkOn p).settle ∧ (u.setCtx p i).group n = {} ∧
           (∀ m, m ≠ n → (u.setCtx p i).group m = (e.s.setCtx p i).group m) ∧ u.mem = e.s.mem ∧ u.hostMem = e.s.hostMem ∧
           (u.stone p).bin = (e.s.stone p).bin) ∧
       ((s.stone p).ecc = [] → d.record = none → d.clip = none → fwMx d.l.fmtOut = false → d.l.outDest ≠ 2 →
         (∀ x ∈ d.slots, ∀ l ∈ d.runs x.1 x.2,
           (∀ e ∈ l, d.slot e.1 e.2 + (if d.g.comp then 2 else 1) ≤ d.c.plan.accSlots ∧
             (d.l.fmtBias = 0 ∨ inBin d.c (biasElem d.l d.g.biasBuf e.1 e.2))) ∧
           (∀ e, d.l.outDest = 0 → l.head? = some e →
             let z := d.place e.1 e.2
             let w := groupSpan (bitsOfFmt d.l.fmtOut) z.2.1 l.length
             z.1 + w.1 + w.2 ≤ d.c.plan.bin)) →
         ∃ u : State, exec (.vaneReadout p) s = .next ((u.settlePhase p i).walkOn p).settle ∧ (u.setCtx p i).group n = {} ∧
           u.mem = s.mem ∧ u.hostMem = s.hostMem))) ∧
    (s.vaneJob p = none → exec (.vaneOpUnit p) s = .next (s.stopRunner p).settle) ∧
    (∀ i v, s.vaneJob p = some (i, v) →
      (∀ y e, (do meetTable p v.c v.record; v.unit v.c.unit : Run (Yield × Nat × Bool)).exec
          (s.modCtx p i (fun c => if c.unit = 0 then c.phasePorts.foldl (fun d x => d.setPort x.1
            { d.port x.1 with begun := (d.port x.1).begun + 1 }) c else c)) = (.ok y, e) → e.device = false →
        ∃ u : State, exec (.vaneOpUnit p) s = .next ((u.settlePhase p i).stopRunner p).settle ∧
          (u.setCtx p i).unit = (e.s.setCtx p i).unit + 1 ∧ (u.stone p).atBoundary = true ∧ u.mem = e.s.mem ∧
          u.hostMem = e.s.hostMem ∧ (u.stone p).bin = (e.s.stone p).bin) ∧
      ((s.stone p).ecc = [] → v.b.vop = 3 → v.b.inMem = false → v.b.outDest ≠ 2 →
        v.b.inBase % 2 ^ 22 + v.c.unit * v.b.inPitch + elemBytes v.b.fmtIn * v.b.rowLen ≤ v.c.plan.bin →
        v.b.outBase % 2 ^ 22 + v.c.unit * v.b.outPitch + rowBytes (bitsOfFmt v.b.fmtOut) v.b.rowLen ≤ v.c.plan.bin ∨ v.b.outDest ≠ 0 →
        ∃ u : State, exec (.vaneOpUnit p) s = .next ((u.settlePhase p i).stopRunner p).settle ∧
          (u.setCtx p i).unit = v.c.unit + 1 ∧ (u.stone p).atBoundary = true ∧ u.mem = s.mem ∧ u.hostMem = s.hostMem))

/-- Stage pipelines (R196 to R198, R201 to R206, R401). The work of a fill, of a landing and of an inlet is `FillRec.fetch`,
`Landing.land` and `Inlet.fetch`, as the meanings use them. -/
def Obligations.StreamsAndFills : Prop :=
  ∀ (s : State) (p : StoneP) (i : SetIx),
    let c := s.setCtx p i
    let a := chuteAcc c.f (s.stoneUnit p)
    (s.speaks p = false ∨ (s.stone p).fillsFirst c = false → exec (.chuteFillDone p i) s = .next s.settle) ∧
    (∀ e, s.speaks p = true → (s.stone p).fillsFirst c = true →
      (((c.plan.phase c.fillPhase).fills.forM (fun x => x.fetch a p i (!c.half)) : Run Unit).exec s = (.ok (), e)) →
      e.device = false → ∃ u : State, exec (.chuteFillDone p i) s = .next u.settle ∧ (u.setCtx p i).filled = true ∧
        (u.setCtx p i).fillDue = 0 ∧ (u.stone p).bin = (e.s.stone p).bin ∧ u.mem = e.s.mem ∧ u.hostMem = e.s.hostMem) ∧
    (∀ (x : FillRec) (pa : Nat → Nat), s.speaks p = true → (s.stone p).fillsFirst c = true → s.ecc = [] →
      (c.plan.phase c.fillPhase).fills = [x] → x.transpose = false → x.rowBytes ≤ x.dstPitch →
      (∀ n < x.rows, s.Reaches a false (x.src + n * x.srcPitch) x.rowBytes (pa n) ∧
        x.dst + n * x.dstPitch + x.rowBytes ≤ c.plan.bin) →
      ∃ u : State, exec (.chuteFillDone p i) s = .next u.settle ∧ (u.setCtx p i).filled = true ∧ (u.setCtx p i).fillDue = 0 ∧
        u.mem = s.mem ∧ u.hostMem = s.hostMem ∧
        ∀ n < x.rows, (u.stone p).bin.readN ((if c.half then 0 else halfBytes) + c.binOff + (x.dst + n * x.dstPitch)) x.rowBytes =
          s.mem.readN (pa n) x.rowBytes) ∧
    (c.canStart = false → exec (.phaseStart p i) s = .next s.settle) ∧
    (c.canStart = true → ∃ u : State, exec (.phaseStart p i) s = .next ((u.settlePhase p i).walkOn p).settle ∧
      (let d := u.setCtx p i
       d.started = true ∧ d.filled = false ∧ d.unit = 0 ∧ d.phase = c.phase ∧ d.round = c.round ∧ d.plan = c.plan ∧
       d.half = (if c.phaseCount = 1 ∧ c.round ≠ 0 then c.half else !c.half) ∧
       d.pos.counts = ({} : LoopPos).counts ∧ d.pos.layer = 0 ∧ d.pos.ended = false ∧
       d.fillDue = (if c.phaseCount ≠ 1 ∧ c.hasNext = true then (s.stone p).order + 1 else c.fillDue)) ∧
      (u.stone p).bin = (s.stone p).bin ∧ (u.stone p).acc = (s.stone p).acc ∧ u.mem = s.mem ∧ u.fns = s.fns) ∧
    (∀ n : Fin 4, (c.spoutRing n = [] → exec (.spoutSegmentMove p i n) s = .next s.settle) ∧
      (∀ seg rest, c.spoutRing n = seg :: rest →
        (s.speaks p = false → ∃ u : State, exec (.spoutSegmentMove p i n) s = .next u.settle ∧ (u.setCtx p i).spoutRing n = rest ∧
          (u.unit 0 p).stale = sat32 (s.unit 0 p).stale 1 ∧ u.mem = s.mem ∧ u.fns = s.fns) ∧
        (let t := c.plan.targets.getD n {}
         (∀ ref e, s.speaks p = true → (s.planOf c).bind (fun x => x.at_ t.stage) = some ref →
           let d := s.setCtx ref.stone ref.set
           let s1 := s.modCtx p i (fun c => c.setSpoutRing n rest)
           (d.takes t.port = false → exec (.spoutSegmentMove p i n) s = .next s.settle) ∧
           (d.takes t.port = true →
             (do meetSegment (p.val / 25) seg; (d.landing t.port (d.plan.ports.getD t.port {})).land ref.stone ref.set seg
               : Run Unit).exec s1 = (.ok (), e) → e.device = false →
             ∃ u : State, exec (.spoutSegmentMove p i n) s = .next (u.walkOn ref.stone).settle ∧
               (u.stone ref.stone).bin = (e.s.stone ref.stone).bin ∧ (u.setCtx p i).spoutRing n = rest ∧
               ((u.setCtx ref.stone ref.set).port t.port).landed = (if (d.port t.port).landed + 1 = (d.plan.ports.getD t.port {}).segs
                 then 0 else (d.port t.port).landed + 1) ∧ u.mem = s.mem ∧ u.hostMem = s.hostMem)) ∧
         (∀ ref, s.speaks p = true → (s.planOf c).bind (fun x => x.at_ t.stage) = some ref →
           let d := s.setCtx ref.stone ref.set
           let x := d.landing t.port (d.plan.ports.getD t.port {})
           d.takes t.port = true → seg.ecc = none → (s.stone ref.stone).ecc = [] →
           (∀ e ∈ seg.elems, ∃ k, x.elem e.at_ = some k ∧ k.off + groupBytes k.bits ≤ d.plan.bin) →
           (∀ y ∈ seg.scales, ∃ k, x.elem { m := y.1, n := y.2.1 * 32, g := x.b.o.g } = some k ∧
             ∀ o, k.scale = some o → o + 1 ≤ d.plan.bin) →
           ∃ u : State, exec (.spoutSegmentMove p i n) s = .next (u.walkOn ref.stone).settle ∧ (u.setCtx p i).spoutRing n = rest ∧
             u.mem = s.mem ∧ u.hostMem = s.hostMem)))) ∧
    (∀ n : Fin 4, (c.plan.inlets[n.val]? = none → exec (.inletRead p i n) s = .next s.settle) ∧
      (∀ q, c.plan.inlets[n.val]? = some q →
        (s.speaks p = false ∨ s.inletReady c q = false → exec (.inletRead p i n) s = .next s.settle) ∧
        (∀ e, s.speaks p = true → s.inletReady c q = true → (q.fetch c a p i).exec s = (.ok (), e) → e.device = false →
          ∃ u : State, exec (.inletRead p i n) s = .next (u.walkOn p).settle ∧ (u.stone p).bin = (e.s.stone p).bin ∧
            ((u.setCtx p i).port q.port).landed = (if (c.port q.port).landed + 1 = (c.plan.ports.getD q.port {}).segs
              then 0 else (c.port q.port).landed + 1) ∧ u.mem = e.s.mem ∧ u.hostMem = e.s.hostMem) ∧
        (∀ pa : Nat → Nat, s.speaks p = true → s.inletReady c q = true → s.ecc = [] → q.transpose = false →
          (∀ n < q.rows,
            let t := (c.awaits q.port).1
            s.Reaches a false (q.src + (if q.roundWrap = 0 then t else t % q.roundWrap) * q.roundPitch +
              (c.awaits q.port).2 * q.segPitch + n * q.srcPitch) q.rowBytes (pa n) ∧
            (c.landing q.port (c.plan.ports.getD q.port {})).row ((c.port q.port).landed * q.rows + n) + q.rowBytes ≤ c.plan.bin) →
          ∃ u : State, exec (.inletRead p i n) s = .next (u.walkOn p).settle ∧
            ((u.setCtx p i).port q.port).landed = (if (c.port q.port).landed + 1 = (c.plan.ports.getD q.port {}).segs
              then 0 else (c.port q.port).landed + 1) ∧ u.mem = s.mem ∧ u.hostMem = s.hostMem)))

end
end

