-- ==== Sys2Proof/Laws/Memory.lean ====
section
/-! SUPPORT. Memories: the canonical form is kept by every operation, and reads after writes. -/
namespace Sys2Proof.Machine

theorem Memory.rising_iff (m : Memory) : Memory.rising m = true ↔ m.Pairwise (fun a b => a.1 < b.1) := by
  induction m with
  | nil => simp [Memory.rising]
  | cons a l ih =>
    cases l with
    | nil => simp [Memory.rising]
    | cons b l =>
      simp only [Memory.rising, Bool.and_eq_true, decide_eq_true_eq, ih, List.pairwise_cons]
      constructor
      · rintro ⟨h, h2, h3⟩
        refine ⟨?_, h2, h3⟩
        intro c hc
        rcases List.mem_cons.1 hc with rfl | hc
        · exact h
        · exact lt_trans h (h2 c hc)
      · rintro ⟨h1, h2, h3⟩
        exact ⟨h1 b (by simp), h2, h3⟩

theorem Memory.wf_iff (m : Memory) :
    m.wf = true ↔ m.Pairwise (fun a b => a.1 < b.1) ∧ ∀ c ∈ m, c.2 ≠ 0 := by
  simp [Memory.wf, Memory.rising_iff, List.all_eq_true]

theorem Memory.wf_nil : Memory.wf [] = true := by decide

theorem Memory.wf_filter {m : Memory} (h : m.wf = true) (p : Host.Cell → Bool) : Memory.wf (m.filter p) = true := by
  rw [Memory.wf_iff] at *
  exact ⟨h.1.filter _, fun c hc => h.2 c (List.mem_filter.1 hc).1⟩

theorem Memory.mem_cells {a : Nat} {bs : List Byte} {c : Host.Cell} (h : c ∈ Memory.cells a bs) :
    a ≤ c.1 ∧ c.1 < a + bs.length ∧ c.2 ≠ 0 := by
  induction bs generalizing a with
  | nil => simp [Memory.cells] at h
  | cons b bs ih =>
    simp only [Memory.cells] at h
    split at h
    · have := ih h; simp only [List.length_cons]; refine ⟨by omega, by omega, this.2.2⟩
    · rename_i hb
      rcases List.mem_cons.1 h with rfl | h
      · exact ⟨le_refl _, by simp, hb⟩
      · have := ih h; simp only [List.length_cons]; refine ⟨by omega, by omega, this.2.2⟩

theorem Memory.cells_pairwise (a : Nat) (bs : List Byte) :
    (Memory.cells a bs).Pairwise (fun x y => x.1 < y.1) := by
  induction bs generalizing a with
  | nil => simp [Memory.cells]
  | cons b bs ih =>
    simp only [Memory.cells]
    split
    · exact ih _
    · refine List.pairwise_cons.2 ⟨fun c hc => ?_, ih _⟩
      have := Memory.mem_cells hc
      simp only; omega

/-- A write keeps the canonical form. -/
theorem Memory.wf_write {m : Memory} (h : m.wf = true) (a : Nat) (bs : List Byte) : (m.write a bs).wf = true := by
  rw [Memory.wf_iff] at *
  obtain ⟨hp, hn⟩ := h
  refine ⟨?_, ?_⟩
  · simp only [Memory.write, List.append_assoc]
    refine List.pairwise_append.2 ⟨hp.filter _, List.pairwise_append.2 ⟨Memory.cells_pairwise _ _, hp.filter _, ?_⟩, ?_⟩
    · intro x hx y hy
      have := Memory.mem_cells hx
      simp only [List.mem_filter, decide_eq_true_eq] at hy
      omega
    · intro x hx y hy
      simp only [List.mem_filter, decide_eq_true_eq] at hx
      rcases List.mem_append.1 hy with hy | hy
      · have := Memory.mem_cells hy; omega
      · simp only [List.mem_filter, decide_eq_true_eq] at hy; omega
  · intro c hc
    simp only [Memory.write, List.mem_append, List.mem_filter] at hc
    rcases hc with (hc | hc) | hc
    · exact hn c hc.1
    · exact (Memory.mem_cells hc).2.2
    · exact hn c hc.1

/-- Clearing a run keeps the canonical form. -/
theorem Memory.wf_clear {m : Memory} (h : m.wf = true) (a n : Nat) : (m.clear a n).wf = true := by
  rw [Memory.wf_iff] at *
  obtain ⟨hp, hn⟩ := h
  refine ⟨?_, ?_⟩
  · refine List.pairwise_append.2 ⟨hp.filter _, hp.filter _, ?_⟩
    intro x hx y hy
    simp only [List.mem_filter, decide_eq_true_eq] at hx hy
    omega
  · intro c hc
    simp only [Memory.clear, List.mem_append, List.mem_filter] at hc
    rcases hc with hc | hc <;> exact hn c hc.1

/-- Dropping addresses keeps the canonical form. -/
theorem Memory.wf_drop {m : Memory} (h : m.wf = true) (p : Nat → Bool) : Memory.wf (Table.drop m p) = true :=
  Memory.wf_filter h _

/-! ## Reads after writes -/

theorem Memory.read_append_of_lt (m n : Memory) (a k : Nat) (h : ∀ c ∈ n, k ≤ c.1) (ha : a < k) :
    Memory.read (m ++ n) a = Memory.read m a := by
  have hn : n.find? (fun c => c.1 == a) = none := by
    rw [List.find?_eq_none]
    intro c hc
    have := h c hc
    simp; omega
  simp [Memory.read, Table.get, List.find?_append, hn]

theorem Memory.read_append_of_ge (m n : Memory) (a k : Nat) (h : ∀ c ∈ m, c.1 < k) (ha : k ≤ a) :
    Memory.read (m ++ n) a = Memory.read n a := by
  have hn : m.find? (fun c => c.1 == a) = none := by
    rw [List.find?_eq_none]
    intro c hc
    have := h c hc
    simp; omega
  simp [Memory.read, Table.get, List.find?_append, hn]

theorem Memory.read_filter (m : Memory) (p : Host.Cell → Bool) (a : Nat) (h : ∀ b, p (a, b) = true) :
    Memory.read (m.filter p) a = Memory.read m a := by
  have e : (m.filter p).find? (fun c => c.1 == a) = m.find? (fun c => c.1 == a) := by
    induction m with
    | nil => rfl
    | cons c m ih =>
      obtain ⟨k, v⟩ := c
      by_cases hk : k = a
      · subst hk; simp [h]
      · have hk' : (k == a) = false := by simpa using hk
        by_cases hp : p (k, v) = true <;> simp [hp, hk', ih]
  simp [Memory.read, Table.get, e]

theorem Memory.read_cells (a : Nat) (bs : List Byte) (i : Nat) (h : i < bs.length) :
    Memory.read (Memory.cells a bs) (a + i) = bs.getD i 0 := by
  induction bs generalizing a i with
  | nil => simp at h
  | cons b bs ih =>
    have low (k : Nat) : Memory.read (Memory.cells (k + 1) bs) k = 0 := by
      have : (Memory.cells (k + 1) bs).find? (fun c => c.1 == k) = none := by
        rw [List.find?_eq_none]; intro c hc
        have := Memory.mem_cells hc
        simp; omega
      simp [Memory.read, Table.get, this]
    cases i with
    | zero =>
      simp only [Memory.cells, Nat.add_zero]
      split
      · rename_i hb; simp [low, hb]
      · simp [Memory.read, Table.get]
    | succ i =>
      have h2 := ih (a + 1) i (by simpa using h)
      have e : a + (i + 1) = a + 1 + i := by omega
      rw [e]
      simp only [Memory.cells]
      split
      · simpa using h2
      · rw [show (a, b) :: Memory.cells (a + 1) bs = [(a, b)] ++ Memory.cells (a + 1) bs from rfl,
          Memory.read_append_of_ge _ _ _ (a + 1) (by simp) (by omega)]
        simpa using h2

theorem Memory.read_write_in (m : Memory) (a : Nat) (bs : List Byte) (i : Nat) (h : i < bs.length) :
    (m.write a bs).read (a + i) = bs.getD i 0 := by
  unfold Memory.write
  rw [Memory.read_append_of_lt _ _ _ (a + bs.length) (by intro c hc; simp at hc; omega) (by omega),
    Memory.read_append_of_ge _ _ _ a (by intro c hc; simp at hc; omega) (by omega)]
  exact Memory.read_cells a bs i h

theorem Memory.read_write_out (m : Memory) (a : Nat) (bs : List Byte) (b : Nat) (h : b < a ∨ a + bs.length ≤ b) :
    (m.write a bs).read b = m.read b := by
  unfold Memory.write
  rcases h with h | h
  · rw [Memory.read_append_of_lt _ _ _ (a + bs.length) (by intro c hc; simp at hc; omega) (by omega),
      Memory.read_append_of_lt _ _ _ a (by intro c hc; have := Memory.mem_cells hc; omega) h,
      Memory.read_filter _ _ _ (by intro; simpa using h)]
  · rw [Memory.read_append_of_ge _ _ _ (a + bs.length)
        (by intro c hc; simp only [List.mem_append, List.mem_filter, decide_eq_true_eq] at hc
            rcases hc with hc | hc
            · omega
            · have := Memory.mem_cells hc; omega) h,
      Memory.read_filter _ _ _ (by intro; simpa using h)]

/-- Several bytes are read byte by byte. -/
theorem Memory.readN_eq (m : Memory) (a n : Nat) : m.readN a n = (List.range n).map (fun i => m.read (a + i)) := by
  unfold Memory.readN
  refine List.map_congr_left fun i hi => ?_
  have hi := List.mem_range.1 hi
  exact Memory.read_filter _ _ _ (by simp; omega)

end Sys2Proof.Machine
end

