-- ==== Sys2Proof/Laws/Keeps.lean ====
section
/-! SUPPORT. What every operation keeps: the queue, the canonical form of both memories, and, with `b = true`, everything
that only setup writes, management ports, pins, power and firmware change. -/
namespace Sys2Proof.Machine

/-- `t` comes from `s` without a change of the queue, of the canonical form of a memory, or (where `b`) of the steady part. -/
structure Keeps (b : Bool) (s t : State) : Prop where
  pending : t.pending = s.pending
  mem     : s.mem.wf = true → t.mem.wf = true
  host    : s.hostMem.wf = true → t.hostMem.wf = true
  steady  : b = true → t.steady = s.steady

@[simp] theorem Keeps.refl (b : Bool) (s : State) : Keeps b s s := ⟨rfl, id, id, fun _ => rfl⟩

theorem Keeps.trans {b : Bool} {s t u : State} (h : Keeps b s t) (k : Keeps b t u) : Keeps b s u :=
  ⟨k.pending.trans h.pending, fun x => k.mem (h.mem x), fun x => k.host (h.host x),
   fun x => (k.steady x).trans (h.steady x)⟩

theorem Keeps.weaken {b : Bool} {s t : State} (h : Keeps true s t) : Keeps b s t :=
  ⟨h.pending, h.mem, h.host, fun _ => h.steady rfl⟩

/-- A state that differs only in fields that `Keeps` does not look at. -/
theorem Keeps.upd {b : Bool} {s t u : State} (h : Keeps b s t) (hp : u.pending = t.pending) (hm : u.mem = t.mem)
    (hh : u.hostMem = t.hostMem) (hs : u.steady = t.steady) : Keeps b s u :=
  ⟨hp.trans h.pending, fun x => hm ▸ h.mem x, fun x => hh ▸ h.host x, fun x => hs.trans (h.steady x)⟩

@[simp] theorem keeps_ite {b : Bool} {s x y : State} {c : Prop} [Decidable c] :
    Keeps b s (if c then x else y) ↔ (c → Keeps b s x) ∧ (¬c → Keeps b s y) := by
  by_cases h : c <;> simp [h]

/-! ## Record updates -/

variable {b : Bool} {s t : State}

/-- An update of fields that `Keeps` does not look at. -/
@[simp] theorem keeps_mk (h : Keeps b s t)
    (v_freeCount : Nat) (v_clockNs : Nat) (v_alert : Bool) (v_logNew : Bool) (v_winOut : List Byte)
    (v_winPoison : Bool) (v_msgs : List Message) (v_hostReqs : List HostReq) (v_ends : Nat) (v_stBusy :
    BitVec 4) (v_stResult : BitVec 2) (v_stResStone : BitVec 7) (v_stStone : BitVec 7) (v_parts : Table
    Partition) (v_houses : Table HouseRegs) (v_fns : Table Func) (v_ecc : Table EccState) (v_dirty : List
    Nat) (v_hostResp : Table HostResp) (v_grist : Table GristEntry) (v_pawls : Table Pawl) (v_tags : Table
    CombineTag) (v_stones : Table Stone) (v_epochs : Table Word32) (v_units : Table UnitCount) (v_repairs :
    Table Nat) (v_logQueue : List LogRec) (v_logLost : Word32) (v_flash : Flash) (v_leat : Leat) (v_hopper :
    Table HopperStream) (v_race : Table RaceStream) (v_saved : List SavedSet) :
    Keeps b s { t with freeCount := v_freeCount, clockNs := v_clockNs, alert := v_alert, logNew := v_logNew,
                       winOut := v_winOut, winPoison := v_winPoison, msgs := v_msgs, hostReqs := v_hostReqs,
                       ends := v_ends, stBusy := v_stBusy, stResult := v_stResult, stResStone :=
                       v_stResStone, stStone := v_stStone, parts := v_parts, houses := v_houses, fns :=
                       v_fns, ecc := v_ecc, dirty := v_dirty, hostResp := v_hostResp, grist := v_grist,
                       pawls := v_pawls, tags := v_tags, stones := v_stones, epochs := v_epochs, units :=
                       v_units, repairs := v_repairs, logQueue := v_logQueue, logLost := v_logLost, flash :=
                       v_flash, leat := v_leat, hopper := v_hopper, race := v_race, saved := v_saved } :=
  h.upd rfl rfl rfl rfl

/-- An update of any field but the queue and the memories, where the steady part need not stay. -/
@[simp] theorem keeps_mk_false (h : Keeps false s t)
    (v_freeCount : Nat) (v_clockNs : Nat) (v_power : PowerState) (v_holdup : Bool) (v_input : Bool)
    (v_resetIn : Bool) (v_perst : Bool) (v_cfgReady : Bool) (v_pllLocked : Bool) (v_tripped : Bool) (v_alert
    : Bool) (v_logNew : Bool) (v_straps : BitVec 2) (v_pwr : Power) (v_gpio : Table Gpio) (v_tap : Tap)
    (v_smbOut : List Byte) (v_smbSeq : Word64) (v_smbCursor : Nat) (v_uartOut : List Byte) (v_winOut : List
    Byte) (v_winPoison : Bool) (v_msgs : List Message) (v_hostReqs : List HostReq) (v_ends : Nat)
    (v_pcieRate : BitVec 2) (v_pcieX16 : Bool) (v_locked : Bool) (v_wrej : Bool) (v_rejOffset : BitVec 20)
    (v_shape : Shape) (v_moduleId : BitVec 10) (v_turnRoot : Bool) (v_tsyncDelay : BitVec 15) (v_hbmFail :
    BitVec 12) (v_tierFail : BitVec 4) (v_lostPower : Bool) (v_trained : Bool) (v_combineUs : Word32)
    (v_faultWin : BitVec 6) (v_faultWinOn : BitVec 6) (v_faultTh : BitVec 8) (v_stBusy : BitVec 4)
    (v_stResult : BitVec 2) (v_stResStone : BitVec 7) (v_stStone : BitVec 7) (v_fw : FwCtrl) (v_logSel :
    Word64) (v_logReady : Bool) (v_logBusy : Bool) (v_logValid : Bool) (v_logCopy : Option LogRec)
    (v_vfEnable : Bool) (v_numVfs : BitVec 8) (v_parts : Table Partition) (v_binds : Table Binding)
    (v_houses : Table HouseRegs) (v_fns : Table Func) (v_ecc : Table EccState) (v_dirty : List Nat)
    (v_hostResp : Table HostResp) (v_grist : Table GristEntry) (v_pawls : Table Pawl) (v_tags : Table
    CombineTag) (v_stones : Table Stone) (v_epochs : Table Word32) (v_units : Table UnitCount) (v_repairs :
    Table Nat) (v_logQueue : List LogRec) (v_logLost : Word32) (v_flash : Flash) (v_leat : Leat) (v_hopper :
    Table HopperStream) (v_race : Table RaceStream) (v_saved : List SavedSet) :
    Keeps false s { t with freeCount := v_freeCount, clockNs := v_clockNs, power := v_power, holdup :=
                           v_holdup, input := v_input, resetIn := v_resetIn, perst := v_perst, cfgReady :=
                           v_cfgReady, pllLocked := v_pllLocked, tripped := v_tripped, alert := v_alert,
                           logNew := v_logNew, straps := v_straps, pwr := v_pwr, gpio := v_gpio, tap :=
                           v_tap, smbOut := v_smbOut, smbSeq := v_smbSeq, smbCursor := v_smbCursor, uartOut
                           := v_uartOut, winOut := v_winOut, winPoison := v_winPoison, msgs := v_msgs,
                           hostReqs := v_hostReqs, ends := v_ends, pcieRate := v_pcieRate, pcieX16 :=
                           v_pcieX16, locked := v_locked, wrej := v_wrej, rejOffset := v_rejOffset, shape :=
                           v_shape, moduleId := v_moduleId, turnRoot := v_turnRoot, tsyncDelay :=
                           v_tsyncDelay, hbmFail := v_hbmFail, tierFail := v_tierFail, lostPower :=
                           v_lostPower, trained := v_trained, combineUs := v_combineUs, faultWin :=
                           v_faultWin, faultWinOn := v_faultWinOn, faultTh := v_faultTh, stBusy := v_stBusy,
                           stResult := v_stResult, stResStone := v_stResStone, stStone := v_stStone, fw :=
                           v_fw, logSel := v_logSel, logReady := v_logReady, logBusy := v_logBusy, logValid
                           := v_logValid, logCopy := v_logCopy, vfEnable := v_vfEnable, numVfs := v_numVfs,
                           parts := v_parts, binds := v_binds, houses := v_houses, fns := v_fns, ecc :=
                           v_ecc, dirty := v_dirty, hostResp := v_hostResp, grist := v_grist, pawls :=
                           v_pawls, tags := v_tags, stones := v_stones, epochs := v_epochs, units :=
                           v_units, repairs := v_repairs, logQueue := v_logQueue, logLost := v_logLost,
                           flash := v_flash, leat := v_leat, hopper := v_hopper, race := v_race, saved :=
                           v_saved } :=
  ⟨h.pending, h.mem, h.host, by simp⟩

theorem keeps_mem (h : Keeps b s t) {m : Memory} (hm : t.mem.wf = true → m.wf = true) : Keeps b s { t with mem := m } :=
  ⟨h.pending, fun x => hm (h.mem x), h.host, h.steady⟩
theorem keeps_hostMem (h : Keeps b s t) {m : Memory} (hm : t.hostMem.wf = true → m.wf = true) :
    Keeps b s { t with hostMem := m } :=
  ⟨h.pending, h.mem, fun x => hm (h.host x), h.steady⟩

@[simp] theorem keeps_foldl {α : Type} {g : State → α → State} (hg : ∀ u a, Keeps b u (g u a)) (h : Keeps b s t)
    (l : List α) : Keeps b s (l.foldl g t) := by
  induction l generalizing t with
  | nil => exact h
  | cons a l ih => exact ih (h.trans (hg t a))

/-! ## Engine work -/

/-- An engine's work keeps what `Keeps` says, wherever it stops. -/
def RunKeeps {α : Type} (b : Bool) (m : Run α) : Prop := ∀ e : Eng, Keeps b e.s ((m.run).run e).2.s

variable {α β : Type}

@[simp] theorem runKeeps_pure (a : α) : RunKeeps b (pure a : Run α) := fun e => Keeps.refl b e.s

@[simp] theorem runKeeps_bind {m : Run α} {k : α → Run β} (hm : RunKeeps b m) (hk : ∀ a, RunKeeps b (k a)) :
    RunKeeps b (m >>= k) := by
  intro e
  have h1 := hm e
  change Keeps b e.s ((ExceptT.bindCont k ((m.run).run e).1 : StateM Eng _).run ((m.run).run e).2).2.s
  generalize (m.run).run e = x at h1 ⊢
  obtain ⟨r, e'⟩ := x
  cases r with
  | ok a => exact Keeps.trans h1 (hk a e')
  | error er => exact h1

@[simp] theorem runKeeps_map {m : Run α} {g : α → β} (hm : RunKeeps b m) : RunKeeps b (g <$> m) := by
  rw [map_eq_pure_bind]; exact runKeeps_bind hm (fun a => runKeeps_pure _)

@[simp] theorem runKeeps_throw (x : Stop) : RunKeeps b (throw x : Run α) := fun e => Keeps.refl b e.s
@[simp] theorem runKeeps_halt (x : Status) : RunKeeps b (halt x : Run α) := fun e => Keeps.refl b e.s
@[simp] theorem runKeeps_getS : RunKeeps b getS := fun e => Keeps.refl b e.s
@[simp] theorem runKeeps_get : RunKeeps b (get : Run Eng) := fun e => Keeps.refl b e.s

@[simp] theorem runKeeps_modS {g : State → State} (hg : ∀ u, Keeps b u (g u)) : RunKeeps b (modS g) := fun e => hg e.s

@[simp] theorem runKeeps_modify {g : Eng → Eng} (hg : ∀ e, Keeps b e.s (g e).s) : RunKeeps b (modify g : Run Unit) :=
  fun e => hg e

@[simp] theorem runKeeps_withFlags (m : FM α) : RunKeeps b (withFlags m) := fun e => Keeps.refl b e.s

@[simp] theorem runKeeps_ite {c : Prop} [Decidable c] {x y : Run α} :
    RunKeeps b (if c then x else y) ↔ (c → RunKeeps b x) ∧ (¬c → RunKeeps b y) := by
  by_cases h : c <;> simp [h]

@[simp] theorem runKeeps_mapM {f : α → Run β} (hf : ∀ a, RunKeeps b (f a)) (l : List α) : RunKeeps b (l.mapM f) := by
  induction l with
  | nil => simp
  | cons a l ih => simp [List.mapM_cons, hf, ih]

@[simp] theorem runKeeps_forM {f : α → Run PUnit} (hf : ∀ a, RunKeeps b (f a)) (l : List α) : RunKeeps b (l.forM f) := by
  induction l with
  | nil => exact runKeeps_pure _
  | cons a l ih => exact runKeeps_bind (hf a) (fun _ => ih)

@[simp] theorem runKeeps_forM' {f : α → Run PUnit} (hf : ∀ a, RunKeeps b (f a)) (l : List α) : RunKeeps b (forM l f) :=
  runKeeps_forM hf l

@[simp] theorem runKeeps_foldlM {f : β → α → Run β} (hf : ∀ x a, RunKeeps b (f x a)) (x : β) (l : List α) :
    RunKeeps b (l.foldlM f x) := by
  induction l generalizing x with
  | nil => simp
  | cons a l ih => simp [List.foldlM_cons, hf, ih]

@[simp] theorem keeps_exec {m : Run α} (hm : RunKeeps b m) (h : Keeps b s t) (fl : Flags) :
    Keeps b s (m.exec t fl).2.s :=
  (h.trans (hm { s := t, flags := fl })).upd rfl rfl rfl rfl

@[simp] theorem runKeeps_tryCatch {m : Run α} {k : Stop → Run α} (hm : RunKeeps b m) (hk : ∀ x, RunKeeps b (k x)) :
    RunKeeps b (tryCatch m k) := by
  intro e
  have h1 := hm e
  have hx : ((tryCatch m k).run).run e = (match (m.run).run e with
      | (.ok a, e') => (.ok a, e')
      | (.error x, e') => ((k x).run).run e') := by
    simp only [tryCatch, tryCatchThe, MonadExceptOf.tryCatch, ExceptT.tryCatch, ExceptT.run_mk]
    rw [StateT.run_bind]
    generalize hq : (m.run).run e = q
    have hq' : StateT.run m e = q := hq
    rw [hq']
    rcases q with ⟨_ | _, _⟩ <;> rfl
  rw [hx]
  generalize (m.run).run e = x at h1 ⊢
  obtain ⟨_ | _, e'⟩ := x
  · exact h1.trans (hk _ e')
  · exact h1

/-- Work that reads the state and then puts a later state in its place. -/
theorem runKeeps_getS_bind {k : State → Run α} (h : ∀ e : Eng, Keeps b e.s (((k e.s).run).run e).2.s) :
    RunKeeps b (getS >>= k) := h

/-! ## Work with bytes gathered, and work that may skip a sample -/

/-- Work that gathers bytes as it reads them keeps what `Keeps` says. -/
def BindKeeps (b : Bool) (m : StateT (List Byte) Run α) : Prop := ∀ l, RunKeeps b (m.run l)

theorem runKeeps_of_bindKeeps {m : StateT (List Byte) Run α} (hm : BindKeeps b m) (l : List Byte) : RunKeeps b (m l) := hm l

@[simp] theorem bindKeeps_pure (a : α) : BindKeeps b (pure a : StateT (List Byte) Run α) := fun _ => runKeeps_pure _
@[simp] theorem bindKeeps_bind {m : StateT (List Byte) Run α} {k : α → StateT (List Byte) Run β} (hm : BindKeeps b m)
    (hk : ∀ a, BindKeeps b (k a)) : BindKeeps b (m >>= k) := fun l => by
  rw [StateT.run_bind]
  exact runKeeps_bind (hm l) (fun x => hk x.1 x.2)
@[simp] theorem bindKeeps_lift {m : Run α} (hm : RunKeeps b m) : BindKeeps b (liftM m : StateT (List Byte) Run α) := fun l =>
  runKeeps_bind hm (fun _ => runKeeps_pure _)
@[simp] theorem bindKeeps_modify (g : List Byte → List Byte) : BindKeeps b (modify g : StateT (List Byte) Run PUnit) :=
  fun _ => runKeeps_pure _
@[simp] theorem bindKeeps_map {g : α → β} {m : StateT (List Byte) Run α} (hm : BindKeeps b m) : BindKeeps b (g <$> m) := by
  rw [map_eq_pure_bind]; exact bindKeeps_bind hm (fun a => bindKeeps_pure _)
@[simp] theorem bindKeeps_ite {c : Prop} [Decidable c] {x y : StateT (List Byte) Run α} :
    BindKeeps b (if c then x else y) ↔ (c → BindKeeps b x) ∧ (¬c → BindKeeps b y) := by
  by_cases h : c <;> simp [h]
@[simp] theorem bindKeeps_mapM {f : α → StateT (List Byte) Run β} (hf : ∀ a, BindKeeps b (f a)) (l : List α) :
    BindKeeps b (l.mapM f) := by
  induction l with
  | nil => simp
  | cons a l ih => simp [List.mapM_cons, hf, ih]

/-- Work that may turn a sample away keeps what `Keeps` says. -/
def BuiltKeeps {ε : Type} (b : Bool) (m : ExceptT ε Run α) : Prop := RunKeeps b m.run

variable {ε : Type}

@[simp] theorem runKeeps_of_builtKeeps {m : ExceptT ε Run α} (hm : BuiltKeeps b m) : RunKeeps b m.run := hm

@[simp] theorem builtKeeps_pure (a : α) : BuiltKeeps b (pure a : ExceptT ε Run α) := runKeeps_pure _
@[simp] theorem builtKeeps_throw (x : ε) : BuiltKeeps b (throw x : ExceptT ε Run α) := runKeeps_pure _
@[simp] theorem builtKeeps_bind {m : ExceptT ε Run α} {k : α → ExceptT ε Run β} (hm : BuiltKeeps b m)
    (hk : ∀ a, BuiltKeeps b (k a)) : BuiltKeeps b (m >>= k) := by
  refine runKeeps_bind hm (fun x => ?_)
  cases x with
  | ok a => exact hk a
  | error e => exact runKeeps_pure _
@[simp] theorem builtKeeps_lift {m : Run α} (hm : RunKeeps b m) : BuiltKeeps b (liftM m : ExceptT ε Run α) :=
  runKeeps_map hm
@[simp] theorem builtKeeps_map {g : α → β} {m : ExceptT ε Run α} (hm : BuiltKeeps b m) : BuiltKeeps b (g <$> m) := by
  rw [map_eq_pure_bind]; exact builtKeeps_bind hm (fun a => builtKeeps_pure _)
@[simp] theorem builtKeeps_ite {c : Prop} [Decidable c] {x y : ExceptT ε Run α} :
    BuiltKeeps b (if c then x else y) ↔ (c → BuiltKeeps b x) ∧ (¬c → BuiltKeeps b y) := by
  by_cases h : c <;> simp [h]

/-- The outcome of a command is a next state that keeps what `Keeps` says. -/
def OutKeeps (b : Bool) (s : State) : Host.Outcome State Fault Refusal → Prop
  | .next t => Keeps b s t
  | .fault _ => False
  | .refused _ => False

@[simp] theorem outKeeps_next : OutKeeps b s (.next t) ↔ Keeps b s t := Iff.rfl

@[simp] theorem outKeeps_ite {c : Prop} [Decidable c] {x y : Host.Outcome State Fault Refusal} :
    OutKeeps b s (if c then x else y) ↔ (c → OutKeeps b s x) ∧ (¬c → OutKeeps b s y) := by
  by_cases h : c <;> simp [h]

theorem outKeeps_of_next (h : Keeps b s t) : OutKeeps b s (.next t) := h

/-- An optional state. -/
def OptKeeps (b : Bool) (s : State) : Option State → Prop
  | some t => Keeps b s t
  | none => True

@[simp] theorem optKeeps_some : OptKeeps b s (some t) ↔ Keeps b s t := Iff.rfl
@[simp] theorem optKeeps_none : OptKeeps b s none := trivial

end Sys2Proof.Machine
end

