-- ==== Sys2Proof/Laws/KeepsOps.lean ====
section
/-! SUPPORT. What the operations of Machine/Ops.lean keep (Laws/Keeps.lean): the queue, both memories' canonical form and,
for every `kb`, the part of the state that ring commands, engines and links never change. -/
namespace Sys2Proof.Machine

@[simp] theorem State.setPart_keeps {kb : Bool} {k0 s : State} (kh : Keeps kb k0 s) (p : Nat) (v : Partition) :
    Keeps kb k0 (State.setPart s p v) := by
  unfold State.setPart; simp [kh]

@[simp] theorem State.setBind_keeps {k0 s : State} (kh : Keeps false k0 s) (f : Nat) (v : Binding) :
    Keeps false k0 (State.setBind s f v) := by
  unfold State.setBind; simp [kh]

@[simp] theorem State.setHouse_keeps {kb : Bool} {k0 s : State} (kh : Keeps kb k0 s) (h : Nat) (v : HouseRegs) :
    Keeps kb k0 (State.setHouse s h v) := by
  unfold State.setHouse; simp [kh]

@[simp] theorem State.setFn_keeps {kb : Bool} {k0 s : State} (kh : Keeps kb k0 s) (f : Nat) (v : Func) :
    Keeps kb k0 (State.setFn s f v) := by
  unfold State.setFn; simp [kh]

@[simp] theorem State.setSq_keeps {kb : Bool} {k0 s : State} (kh : Keeps kb k0 s) (f : Nat) (r : Nat) (v : SubRing) :
    Keeps kb k0 (State.setSq s f r v) := by
  unfold State.setSq; simp [kh]

@[simp] theorem State.setCq_keeps {kb : Bool} {k0 s : State} (kh : Keeps kb k0 s) (f : Nat) (c : Nat) (v : CompRing) :
    Keeps kb k0 (State.setCq s f c v) := by
  unfold State.setCq; simp [kh]

@[simp] theorem State.setStone_keeps {kb : Bool} {k0 s : State} (kh : Keeps kb k0 s) (p : Nat) (v : Stone) :
    Keeps kb k0 (State.setStone s p v) := by
  unfold State.setStone; simp [kh]

@[simp] theorem State.putCtx_keeps {kb : Bool} {k0 s : State} (kh : Keeps kb k0 s) (p : Nat) (i : Nat) (v : SetCtx) :
    Keeps kb k0 (State.putCtx s p i v) := by
  unfold State.putCtx; simp [kh]

@[simp] theorem State.setEntry_keeps {kb : Bool} {k0 s : State} (kh : Keeps kb k0 s) (e : Nat) (v : GristEntry) :
    Keeps kb k0 (State.setEntry s e v) := by
  unfold State.setEntry; simp [kh]

@[simp] theorem State.setPawl_keeps {kb : Bool} {k0 s : State} (kh : Keeps kb k0 s) (n : Nat) (v : Pawl) :
    Keeps kb k0 (State.setPawl s n v) := by
  unfold State.setPawl; simp [kh]

@[simp] theorem State.setTag_keeps {kb : Bool} {k0 s : State} (kh : Keeps kb k0 s) (p : Nat) (t : Nat) (v : CombineTag) :
    Keeps kb k0 (State.setTag s p t v) := by
  unfold State.setTag; simp [kh]

@[simp] theorem State.setUnit_keeps {kb : Bool} {k0 s : State} (kh : Keeps kb k0 s) (cls : Nat) (i : Nat) (v : UnitCount) :
    Keeps kb k0 (State.setUnit s cls i v) := by
  unfold State.setUnit; simp [kh]

@[simp] theorem State.setHop_keeps {kb : Bool} {k0 s : State} (kh : Keeps kb k0 s) (h : Nat) (i : Nat) (v : HopperStream) :
    Keeps kb k0 (State.setHop s h i v) := by
  unfold State.setHop; simp [kh]

@[simp] theorem State.setRac_keeps {kb : Bool} {k0 s : State} (kh : Keeps kb k0 s) (h : Nat) (i : Nat) (v : RaceStream) :
    Keeps kb k0 (State.setRac s h i v) := by
  unfold State.setRac; simp [kh]

@[simp] theorem State.setPort_keeps {kb : Bool} {k0 s : State} (kh : Keeps kb k0 s) (p : Nat) (v : Port) :
    Keeps kb k0 (State.setPort s p v) := by
  unfold State.setPort; simp [kh]

@[simp] theorem State.setPin_keeps {k0 s : State} (kh : Keeps false k0 s) (g : Nat) (v : Gpio) :
    Keeps false k0 (State.setPin s g v) := by
  unfold State.setPin; simp [kh]

@[simp] theorem State.tick_keeps {kb : Bool} {k0 s : State} (kh : Keeps kb k0 s)  :
    Keeps kb k0 (State.tick s) := by
  unfold State.tick; simp [kh]

@[simp] theorem State.now_keeps {kb : Bool} {k0 s : State} (kh : Keeps kb k0 s)  :
    Keeps kb k0 (State.now s).2 := by
  unfold State.now; simp [kh]

@[simp] theorem State.freeWord_keeps {kb : Bool} {k0 s : State} (kh : Keeps kb k0 s)  :
    Keeps kb k0 (State.freeWord s).2 := by
  unfold State.freeWord; simp [kh]

@[simp] theorem State.message_keeps {kb : Bool} {k0 s : State} (kh : Keeps kb k0 s) (f : Nat) (v : Nat) :
    Keeps kb k0 (State.message s f v) := by
  unfold State.message; simp [kh]

@[simp] theorem State.notice_keeps {kb : Bool} {k0 s : State} (kh : Keeps kb k0 s) (f : Nat) (c : Cause) :
    Keeps kb k0 (State.notice s f c) := by
  unfold State.notice; simp [kh]

@[simp] theorem State.setWeir_keeps {kb : Bool} {k0 s : State} (kh : Keeps kb k0 s) (id : WeirId) (w : Weir) :
    Keeps kb k0 (State.setWeir s id w) := by
  unfold State.setWeir
  try simp (maxDischargeDepth := 60) [kh]
  repeat' (with_reducible first | assumption | intro _ | apply And.intro | apply State.setPart_keeps | apply State.setHouse_keeps | apply State.setSq_keeps | apply State.setCq_keeps | apply Keeps.refl | split)
  all_goals simp (maxDischargeDepth := 60) [kh]

@[simp] theorem State.evalWeir_keeps {kb : Bool} {k0 s : State} (kh : Keeps kb k0 s) (id : WeirId) :
    Keeps kb k0 (State.evalWeir s id) := by
  unfold State.evalWeir
  try simp (maxDischargeDepth := 60) [kh]
  repeat' (with_reducible first | assumption | intro _ | apply And.intro | apply State.notice_keeps | apply State.setWeir_keeps | apply Keeps.refl | split)
  all_goals simp (maxDischargeDepth := 60) [kh]

@[simp] theorem State.log_keeps {kb : Bool} {k0 s : State} (kh : Keeps kb k0 s) (r : LogRec) :
    Keeps kb k0 (State.log s r) := by
  unfold State.log; simp [kh]

@[simp] theorem State.logPower_keeps {kb : Bool} {k0 s : State} (kh : Keeps kb k0 s) (event : Nat) (value : Nat) :
    Keeps kb k0 (State.logPower s event value) := by
  unfold State.logPower; simp [kh]

@[simp] theorem State.logFirmware_keeps {kb : Bool} {k0 s : State} (kh : Keeps kb k0 s) (event : Nat) (value : Nat) :
    Keeps kb k0 (State.logFirmware s event value) := by
  unfold State.logFirmware; simp [kh]

@[simp] theorem State.keep_keeps {kb : Bool} {k0 s : State} (kh : Keeps kb k0 s)  :
    Keeps kb k0 (State.keep s) := by
  unfold State.keep; simp [kh]

@[simp] theorem State.declare_keeps {kb : Bool} {k0 s : State} (kh : Keeps kb k0 s) (cls : Nat) (i : Nat) :
    Keeps kb k0 (State.declare s cls i) := by
  unfold State.declare; simp (maxDischargeDepth := 60) [kh]

@[simp] theorem State.event_keeps {kb : Bool} {k0 s : State} (kh : Keeps kb k0 s) (cls : Nat) (i : Nat) (k : Event)
    (addr : Nat) (rec : FaultRec) : Keeps kb k0 (State.event s cls i k addr rec) := by
  unfold State.event
  have hn : Keeps kb k0 s.now.2 := State.now_keeps kh
  generalize s.now = x at hn
  obtain ⟨t, s⟩ := x
  dsimp only at hn ⊢
  simp (maxDischargeDepth := 60) [hn]


end Sys2Proof.Machine
end

