-- ==== Sys2Proof/Laws/KeepsMmu.lean ====
section
/-! SUPPORT. What the operations of Machine/Mmu.lean keep (Laws/Keeps.lean): the queue, both memories' canonical form and,
for every `kb`, the part of the state that ring commands, engines and links never change. -/
namespace Sys2Proof.Machine

@[simp] theorem meetEcc_keeps {kb : Bool} {k0 s : State} (kh : Keeps kb k0 s) (rec : FaultRec) (l : List Nat) :
    Keeps kb k0 (meetEcc rec l s).2 := by
  induction l generalizing s with
  | nil => exact kh
  | cons g gs ih =>
    unfold meetEcc
    refine ih ?_
    split <;> simp (maxDischargeDepth := 60) [kh]


@[simp] theorem State.freeBytes_keeps {kb : Bool} {k0 s : State} (kh : Keeps kb k0 s) (n : Nat) :
    Keeps kb k0 (State.freeBytes s n).2 := by
  unfold State.freeBytes; simp [kh]

@[simp] theorem State.devRead_keeps {kb : Bool} {k0 s : State} (kh : Keeps kb k0 s) (rec : FaultRec) (pa n : Nat) :
    Keeps kb k0 (State.devRead s rec pa n).2.2 := by
  unfold State.devRead; dsimp only; split <;> simp (maxDischargeDepth := 60) [kh]


@[simp] theorem State.devWrite_keeps {kb : Bool} {k0 s : State} (kh : Keeps kb k0 s) (pa : Nat) (bs : List Byte) :
    Keeps kb k0 (State.devWrite s pa bs) :=
  ⟨kh.pending, fun x => Memory.wf_write (kh.mem x) _ _, kh.host, kh.steady⟩


@[simp] theorem State.devZero_keeps {kb : Bool} {k0 s : State} (kh : Keeps kb k0 s) (pa n : Nat) :
    Keeps kb k0 (State.devZero s pa n) :=
  ⟨kh.pending, fun x => Memory.wf_clear (kh.mem x) _ _, kh.host, kh.steady⟩


@[simp] theorem State.writeBack_keeps {kb : Bool} {k0 s : State} (kh : Keeps kb k0 s) (ls : List Nat) :
    Keeps kb k0 (State.writeBack s ls) := by
  unfold State.writeBack
  exact Keeps.upd (meetEcc_keeps kh {} _) rfl rfl rfl rfl

@[simp] theorem State.dirtyLine_keeps {kb : Bool} {k0 s : State} (kh : Keeps kb k0 s) (h l : Nat) :
    Keeps kb k0 (State.dirtyLine s h l) := by
  unfold State.dirtyLine
  simp (maxDischargeDepth := 60) [kh]

@[simp] theorem State.pondWrite_keeps {kb : Bool} {k0 s : State} (kh : Keeps kb k0 s) (noCache : Bool) (pa n : Nat) :
    Keeps kb k0 (State.pondWrite s noCache pa n) := by
  unfold State.pondWrite
  split
  · exact kh
  · refine keeps_foldl (fun u l => ?_) kh _
    split
    · split <;> simp
    · simp

@[simp] theorem State.devStore_keeps {kb : Bool} {k0 s : State} (kh : Keeps kb k0 s) (noCache : Bool) (pa : Nat) (bs : List Byte) :
    Keeps kb k0 (State.devStore s noCache pa bs) :=
  State.pondWrite_keeps (State.devWrite_keeps kh pa bs) noCache pa bs.length

@[simp] theorem meetBuf_keeps {kb : Bool} (kind h : Nat) : RunKeeps kb (meetBuf kind h) :=
  runKeeps_getS_bind (fun e => meetEcc_keeps (Keeps.refl kb e.s) {} _)

@[simp] theorem mmuBuf_keeps {kb : Bool} (a : Acc) : RunKeeps kb (mmuBuf a) := by
  unfold mmuBuf
  simp (maxDischargeDepth := 60)

@[simp] theorem State.hostIssue_keeps {kb : Bool} {k0 s : State} (kh : Keeps kb k0 s) (q : HostReq) :
    Keeps kb k0 (State.hostIssue s q) := by
  unfold State.hostIssue; simp [kh]

@[simp] theorem State.setAer_keeps {kb : Bool} {k0 s : State} (kh : Keeps kb k0 s) (f bit : Nat) :
    Keeps kb k0 (State.setAer s f bit) := by
  unfold State.setAer; simp [kh]

@[simp] theorem readStruct_keeps {kb : Bool} (a : Acc) (va pa n : Nat) : RunKeeps kb (readStruct a va pa n) := by
  intro e
  have hk : ∀ (r : List Byte × Bool × State), Keeps kb e.s r.2.2 →
      Keeps kb e.s ((modS (fun _ => r.2.2) >>= fun _ =>
        if r.2.1 = true then (halt .deviceError : Run PUnit) >>= fun _ => pure r.1 else (pure r.1 : Run (List Byte))).run.run e).2.s := by
    intro r hr
    refine Keeps.trans hr ?_
    have : RunKeeps kb (if r.2.1 = true then (halt .deviceError : Run PUnit) >>= fun _ => pure r.1 else (pure r.1 : Run (List Byte))) := by
      split <;> simp
    exact this { e with s := r.2.2 }
  exact hk _ (State.devRead_keeps (Keeps.refl kb e.s) (a.fault 0 va) pa n)


theorem walk_leaf_keeps {kb : Bool} (e : Word64) (bits : Nat) (bad : Run (Word64 × Nat)) (h : RunKeeps kb bad) :
    RunKeeps kb (walk.leaf e bits bad) := by
  unfold walk.leaf; simp [h]

@[simp] theorem walk_keeps {kb : Bool} (a : Acc) (va level table : Nat) : RunKeeps kb (walk a va level table) := by
  induction level generalizing table with
  | zero =>
    unfold walk
    simp (maxDischargeDepth := 60) [walk_leaf_keeps]
  | succ l ih =>
    unfold walk
    simp (maxDischargeDepth := 60) [walk_leaf_keeps, ih]


@[simp] theorem translate_keeps {kb : Bool} (a : Acc) (write : Bool) (va : Nat) :
    RunKeeps kb (translate a write va) := by
  unfold translate
  try simp (maxDischargeDepth := 60)
  repeat' (with_reducible first | assumption | intro _ | apply And.intro | exact runKeeps_getS | apply walk_keeps | apply runKeeps_bind | split)
  all_goals simp (maxDischargeDepth := 60)

@[simp] theorem hostRead_keeps {kb : Bool} (a : Acc) (va : Nat) (ha : Nat) (n : Nat) :
    RunKeeps kb (hostRead a va ha n) := by
  unfold hostRead
  try simp (maxDischargeDepth := 60)
  repeat' (with_reducible first | assumption | intro _ | apply And.intro | exact runKeeps_getS | apply runKeeps_bind | split)
  all_goals simp (maxDischargeDepth := 60)

theorem readPiece_dev_keeps {kb : Bool} (a : Acc) (va pa n : Nat) :
    RunKeeps kb (do
      let r := (← getS).devRead (a.fault 0 va) pa n
      modify (fun e => { e with s := r.2.2, device := e.device || r.2.1 })
      return r.1 : Run (List Byte)) := by
  intro e
  exact State.devRead_keeps (Keeps.refl kb e.s) (a.fault 0 va) pa n

@[simp] theorem readPiece_keeps {kb : Bool} (a : Acc) (x : Nat × Nat × Nat) : RunKeeps kb (readPiece a x) := by
  unfold readPiece
  refine runKeeps_bind (translate_keeps a false x.1) (fun t => ?_)
  split
  · exact readPiece_dev_keeps a x.1 _ x.2.2
  · exact hostRead_keeps a _ _ _
  · exact runKeeps_throw _


@[simp] theorem readV_keeps {kb : Bool} (a : Acc) (va : Nat) (n : Nat) :
    RunKeeps kb (readV a va n) := by
  unfold readV; simp

@[simp] theorem readSV_keeps {kb : Bool} (a : Acc) (va : Nat) (n : Nat) :
    RunKeeps kb (readSV a va n) := by
  unfold readSV; simp (maxDischargeDepth := 60)

@[simp] theorem readWords_keeps {kb : Bool} (a : Acc) (va : Nat) (n : Nat) :
    RunKeeps kb (readWords a va n) := by
  unfold readWords; simp

/-- A write keeps what `Keeps` says, where the writes to remote pages do. -/
theorem writeV_remote_keeps {kb : Bool} (a : Acc) (va : Nat) (bs : List Byte) (remote : Nat → Nat → List Byte → State → State)
    (hr : ∀ m pa d u, Keeps kb u (remote m pa d u)) : RunKeeps kb (writeV a va bs remote) := by
  unfold writeV
  apply runKeeps_forM
  intro x
  apply runKeeps_bind
  · exact translate_keeps a true x.1
  intro t
  dsimp only
  split
  · exact runKeeps_modify (fun e => State.devStore_keeps (Keeps.refl kb e.s) _ _ _)
  · exact runKeeps_modS (fun u => State.hostIssue_keeps (keeps_hostMem (Keeps.refl kb u) (fun x => Memory.wf_write x _ _)) _)
  · exact runKeeps_modS (fun u => hr _ _ _ u)

@[simp] theorem writeV_keeps {kb : Bool} (a : Acc) (va : Nat) (bs : List Byte) : RunKeeps kb (writeV a va bs) :=
  writeV_remote_keeps a va bs _ (fun _ _ _ u => Keeps.refl kb u)

@[simp] theorem writePieces_keeps {kb : Bool} (a : Acc) (bs : List Byte) (l : List (Nat × Nat × Nat)) (n : Nat) :
    RunKeeps kb (writePieces a bs l n) := by
  induction l generalizing n with
  | nil => exact runKeeps_pure _
  | cons x xs ih =>
    unfold writePieces
    refine runKeeps_bind (runKeeps_tryCatch (by simp) (by simp)) (fun r => ?_)
    split
    · exact ih _
    · exact runKeeps_pure _

end Sys2Proof.Machine
end

