-- ==== Sys2Proof/Laws/KeepsRings.lean ====
section
/-! SUPPORT. What the operations of Machine/Rings.lean keep (Laws/Keeps.lean): the queue, both memories' canonical form and,
for every `kb`, the part of the state that ring commands, engines and links never change. -/
namespace Sys2Proof.Machine

@[simp] theorem State.setRunning_keeps {kb : Bool} {k0 s : State} (kh : Keeps kb k0 s) (f : Nat) (r : Nat) (c : Option
    Running) :
    Keeps kb k0 (State.setRunning s f r c) := by
  unfold State.setRunning; simp (maxDischargeDepth := 60) [kh]

@[simp] theorem State.modRunning_keeps {kb : Bool} {k0 s : State} (kh : Keeps kb k0 s) (f : Nat) (r : Nat) (g :
    Running → Running) :
    Keeps kb k0 (State.modRunning s f r g) := by
  unfold State.modRunning
  try simp (maxDischargeDepth := 60) [kh]
  repeat' (with_reducible first | assumption | intro _ | apply And.intro | apply State.setRunning_keeps | apply Keeps.refl | split)
  all_goals simp (maxDischargeDepth := 60) [kh]

@[simp] theorem State.ended_keeps {kb : Bool} {k0 s : State} (kh : Keeps kb k0 s) :
    Keeps kb k0 (State.ended s) := by
  unfold State.ended; simp (maxDischargeDepth := 60) [kh]

@[simp] theorem State.finish_keeps {kb : Bool} {k0 s : State} (kh : Keeps kb k0 s) (f : Nat) (r : Nat) (st : Status)
    (res : Word32) :
    Keeps kb k0 (State.finish s f r st res) := by
  unfold State.finish; simp (maxDischargeDepth := 60) [kh]

@[simp] theorem State.addFlags_keeps {kb : Bool} {k0 s : State} (kh : Keeps kb k0 s) (f : Nat) (r : Nat) (fl : Flags)
    :
    Keeps kb k0 (State.addFlags s f r fl) := by
  unfold State.addFlags; simp (maxDischargeDepth := 60) [kh]

@[simp] theorem State.side_keeps {kb : Bool} {k0 s : State} (kh : Keeps kb k0 s) (f : Nat) (r : Nat) (kind : Nat)
    (body : List Byte) :
    Keeps kb k0 (State.side s f r kind body) := by
  unfold State.side
  try simp (maxDischargeDepth := 60) [kh]
  repeat' (with_reducible first | assumption | intro _ | apply And.intro | apply State.modRunning_keeps | apply State.setRunning_keeps | apply writeV_keeps | apply keeps_exec | apply Keeps.refl | split)
  all_goals simp (maxDischargeDepth := 60) [kh]

@[simp] theorem State.sides_keeps {kb : Bool} {k0 s : State} (kh : Keeps kb k0 s) (f : Nat) (r : Nat) (recs : List
    (Nat × List Byte)) (fault : Option FaultRec) :
    Keeps kb k0 (State.sides s f r recs fault) := by
  unfold State.sides
  try simp (maxDischargeDepth := 60) [kh]
  repeat' (with_reducible first | assumption | intro _ | apply And.intro | apply State.side_keeps | apply keeps_foldl | apply Keeps.refl | split)
  all_goals simp (maxDischargeDepth := 60) [kh]

@[simp] theorem State.finishWith_keeps {kb : Bool} {k0 s : State} (kh : Keeps kb k0 s) (f : Nat) (r : Nat) (st :
    Status) (res : Word32) (recs : List (Nat × List Byte)) (fault : Option FaultRec) :
    Keeps kb k0 (State.finishWith s f r st res recs fault) := by
  unfold State.finishWith; simp (maxDischargeDepth := 60) [kh]

@[simp] theorem State.failResult_keeps {kb : Bool} {k0 s : State} (kh : Keeps kb k0 s) (d : Desc) :
    Keeps kb k0 (State.failResult s d).2 := by
  unfold State.failResult
  try simp (maxDischargeDepth := 60) [kh]
  repeat' (with_reducible first | assumption | intro _ | apply And.intro | apply CopyJob.fill_keeps | apply State.combine_keeps | apply State.copy_keeps | apply State.damselSeed_keeps | apply State.fence_keeps | apply State.fill_keeps | apply State.freeWord_keeps | apply State.gristLeave_keeps | apply State.pawlGive_keeps | apply State.pawlTake_keeps | apply Keeps.refl | split)
  all_goals simp (maxDischargeDepth := 60) [kh]

@[simp] theorem State.fail_keeps {kb : Bool} {k0 s : State} (kh : Keeps kb k0 s) (f : Nat) (r : Nat) (st : Status) :
    Keeps kb k0 (State.fail s f r st) := by
  unfold State.fail
  try simp (maxDischargeDepth := 60) [kh]
  repeat' (with_reducible first | assumption | intro _ | apply And.intro | apply State.failResult_keeps | apply State.setRunning_keeps | apply Keeps.refl | split)
  all_goals simp (maxDischargeDepth := 60) [kh]

@[simp] theorem State.failRead_keeps {kb : Bool} {k0 s : State} (kh : Keeps kb k0 s) (f : Nat) (r : Nat) (e : Stop) :
    Keeps kb k0 (State.failRead s f r e) := by
  unfold State.failRead
  try simp (maxDischargeDepth := 60) [kh]
  repeat' (with_reducible first | assumption | intro _ | apply And.intro | apply State.failResult_keeps | apply State.modRunning_keeps | apply State.sides_keeps | apply Keeps.refl | split)
  all_goals simp (maxDischargeDepth := 60) [kh]

@[simp] theorem State.stopped_keeps {kb : Bool} {k0 s : State} (kh : Keeps kb k0 s) (f : Nat) (r : Nat) (e : Stop)
    (recs : List (Nat × List Byte)) (res : Option Word32) :
    Keeps kb k0 (State.stopped s f r e recs res) := by
  unfold State.stopped
  try simp (maxDischargeDepth := 60) [kh]
  repeat' (with_reducible first | assumption | intro _ | apply And.intro | apply State.failResult_keeps | apply State.finishWith_keeps | apply Keeps.refl | split)
  all_goals simp (maxDischargeDepth := 60) [kh]

@[simp] theorem State.tellFences_keeps {kb : Bool} {k0 s : State} (kh : Keeps kb k0 s) (f : Nat) (r : Nat) (seq :
    Word32) :
    Keeps kb k0 (State.tellFences s f r seq) := by
  unfold State.tellFences
  try simp (maxDischargeDepth := 60) [kh]
  repeat' (with_reducible first | assumption | intro _ | apply And.intro | apply State.fence_keeps | apply State.finish_keeps | apply State.setRunning_keeps | apply VaneJob.finish_keeps | apply keeps_foldl | apply Keeps.refl | split)
  all_goals simp (maxDischargeDepth := 60) [kh]

@[simp] theorem State.unstage_keeps {kb : Bool} {k0 s : State} (kh : Keeps kb k0 s) (c : Running) :
    Keeps kb k0 (State.unstage s c) := by
  unfold State.unstage
  try simp (maxDischargeDepth := 60) [kh]
  repeat' (with_reducible first | assumption | intro _ | apply And.intro | apply CopyJob.staged_keeps | apply State.evalWeir_keeps | apply State.setHouse_keeps | apply Keeps.refl | split)
  all_goals simp (maxDischargeDepth := 60) [kh]

@[simp] theorem State.retire_keeps {kb : Bool} {k0 s : State} (kh : Keeps kb k0 s) (f : Nat) (r : Nat) (c : Running)
    (halts : Bool) (st : Status) (notify : Bool) :
    Keeps kb k0 (State.retire s f r c halts st notify) := by
  unfold State.retire; simp (maxDischargeDepth := 60) [kh]

@[simp] theorem State.faultCq_keeps {kb : Bool} {k0 s : State} (kh : Keeps kb k0 s) (f : Nat) (cqi : Nat) (r : Nat)
    (seq : Word32) :
    Keeps kb k0 (State.faultCq s f cqi r seq) := by
  unfold State.faultCq; simp (maxDischargeDepth := 60) [kh]

@[simp] theorem State.writeCounter_keeps {kb : Bool} {k0 s : State} (kh : Keeps kb k0 s) (f : Nat) (r : Nat) :
    Keeps kb k0 (State.writeCounter s f r) := by
  unfold State.writeCounter
  try simp (maxDischargeDepth := 60) [kh]
  repeat' (with_reducible first | assumption | intro _ | apply And.intro | apply State.stopped_keeps | apply writeV_keeps | apply keeps_exec | apply Keeps.refl | split)
  all_goals simp (maxDischargeDepth := 60) [kh]

@[simp] theorem State.completeNow_keeps {kb : Bool} {k0 s : State} (kh : Keeps kb k0 s) (f : Nat) (r : Nat) (c :
    Running) (st : Status) (res : Word32) :
    Keeps kb k0 (State.completeNow s f r c st res) := by
  unfold State.completeNow
  try simp (maxDischargeDepth := 60) [kh]
  repeat' (with_reducible first | assumption | intro _ | apply And.intro | apply State.evalWeir_keeps | apply State.faultCq_keeps | apply State.message_keeps | apply State.retire_keeps | apply State.setCq_keeps | apply writeV_keeps | apply keeps_exec | apply Keeps.refl | split)
  all_goals simp (maxDischargeDepth := 60) [kh]

@[simp] theorem State.complete_keeps {kb : Bool} {k0 s : State} (kh : Keeps kb k0 s) (f : Nat) (r : Nat) :
    Keeps kb k0 (State.complete s f r) := by
  unfold State.complete
  try simp (maxDischargeDepth := 60) [kh]
  repeat' (with_reducible first | assumption | intro _ | apply And.intro | apply writeCounter_keeps | apply Keeps.refl | split)
  all_goals simp (maxDischargeDepth := 60) [kh]

@[simp] theorem State.fetch_keeps {kb : Bool} {k0 s : State} (kh : Keeps kb k0 s) (f : Nat) (r : Nat) :
    Keeps kb k0 (State.fetch s f r) := by
  unfold State.fetch
  try simp (maxDischargeDepth := 60) [kh]
  repeat' (with_reducible first | assumption | intro _ | apply And.intro | apply State.evalWeir_keeps | apply State.fail_keeps | apply State.freeWord_keeps | apply State.setSq_keeps | apply readWords_keeps | apply keeps_exec | apply Keeps.refl | split)
  all_goals simp (maxDischargeDepth := 60) [kh]

end Sys2Proof.Machine
end

