-- ==== Sys2Proof/Laws/KeepsLinks.lean ====
section
/-! SUPPORT. What the operations of Machine/Links.lean keep (Laws/Keeps.lean): the queue, both memories' canonical form and,
for every `kb`, the part of the state that ring commands, engines and links never change. -/
namespace Sys2Proof.Machine

@[simp] theorem State.linkFail_keeps {kb : Bool} {k0 s : State} (kh : Keeps kb k0 s) (port : Nat) (reason : BitVec 8)
    :
    Keeps kb k0 (State.linkFail s port reason) := by
  unfold State.linkFail; simp (maxDischargeDepth := 60) [kh]

@[simp] theorem State.pushPacket_keeps {kb : Bool} {k0 s : State} (kh : Keeps kb k0 s) (p : Packet) :
    Keeps kb k0 (State.pushPacket s p) := by
  unfold State.pushPacket
  try simp (maxDischargeDepth := 60) [kh]
  repeat' (with_reducible first | assumption | intro _ | apply And.intro | apply State.linkFail_keeps | apply State.setPort_keeps | apply Keeps.refl | split)
  all_goals simp (maxDischargeDepth := 60) [kh]

@[simp] theorem State.emit_keeps {kb : Bool} {k0 s : State} (kh : Keeps kb k0 s) (p : Packet) :
    Keeps kb k0 (State.emit s p).1 := by
  unfold State.emit; simp (maxDischargeDepth := 60) [kh]

@[simp] theorem State.sendQueued_keeps {kb : Bool} {k0 s : State} (kh : Keeps kb k0 s) (n : Nat) :
    Keeps kb k0 (State.sendQueued s n) := by
  induction n generalizing s with
  | zero => exact kh
  | succ n ih =>
    unfold State.sendQueued
    split
    · exact kh
    · split
      · exact kh
      · apply ih
        simp (maxDischargeDepth := 60) [kh]


@[simp] theorem State.sendAll_keeps {kb : Bool} {k0 s : State} (kh : Keeps kb k0 s) :
    Keeps kb k0 (State.sendAll s) := by
  unfold State.sendAll; simp (maxDischargeDepth := 60) [kh]

@[simp] theorem State.queueBytes_keeps {kb : Bool} {k0 s : State} (kh : Keeps kb k0 s) (like : Packet) (f : Nat) (r :
    Nat) (cmd : Word32) (m : Nat) (pa : Nat) (bs : List Byte) :
    Keeps kb k0 (State.queueBytes s like f r cmd m pa bs) := by
  unfold State.queueBytes; simp (maxDischargeDepth := 60) [kh]

@[simp] theorem State.ack_keeps {kb : Bool} {k0 s : State} (kh : Keeps kb k0 s) (p : Packet) :
    Keeps kb k0 (State.ack s p) := by
  unfold State.ack; simp (maxDischargeDepth := 60) [kh]

end Sys2Proof.Machine
end

