-- ==== Sys2Proof/Laws/KeepsEndings.lean ====
section
/-! SUPPORT. What the operations of Machine/Endings.lean keep (Laws/Keeps.lean): the queue, both memories' canonical form and,
for every `kb`, the part of the state that ring commands, engines and links never change. -/
namespace Sys2Proof.Machine

@[simp] theorem State.markPlanBroken_keeps {kb : Bool} {k0 s : State} (kh : Keeps kb k0 s) (f : Nat) (r : Nat) :
    Keeps kb k0 (State.markPlanBroken s f r) := by
  unfold State.markPlanBroken; simp (maxDischargeDepth := 60) [kh]

@[simp] theorem State.grantPawl_keeps {kb : Bool} {k0 s : State} (kh : Keeps kb k0 s) (t : Taker) (broken : Bool) :
    Keeps kb k0 (State.grantPawl s t broken) := by
  unfold State.grantPawl
  try simp (maxDischargeDepth := 60) [kh]
  repeat' (with_reducible first | assumption | intro _ | apply And.intro | apply State.finish_keeps | apply State.markPlanBroken_keeps | apply State.putCtx_keeps | apply Keeps.refl | split)
  all_goals simp (maxDischargeDepth := 60) [kh]

@[simp] theorem State.passPawl_keeps {kb : Bool} {k0 s : State} (kh : Keeps kb k0 s) (n : Nat) (broken : Bool) :
    Keeps kb k0 (State.passPawl s n broken) := by
  unfold State.passPawl
  try simp (maxDischargeDepth := 60) [kh]
  repeat' (with_reducible first | assumption | intro _ | apply And.intro | apply State.grantPawl_keeps | apply State.setPawl_keeps | apply Keeps.refl | split)
  all_goals simp (maxDischargeDepth := 60) [kh]

@[simp] theorem State.dropTaker_keeps {kb : Bool} {k0 s : State} (kh : Keeps kb k0 s) (t : Taker) :
    Keeps kb k0 (State.dropTaker s t) := by
  unfold State.dropTaker; simp (maxDischargeDepth := 60) [kh]

@[simp] theorem State.freeSlotsOf_keeps {kb : Bool} {k0 s : State} (kh : Keeps kb k0 s) (held : List HeldChunk) :
    Keeps kb k0 (State.freeSlotsOf s held) := by
  unfold State.freeSlotsOf; simp (maxDischargeDepth := 60) [kh]

@[simp] theorem State.breakTag_keeps {kb : Bool} {k0 s : State} (kh : Keeps kb k0 s) (p : Nat) (t : Nat) (st : Status)
    (skip : Option (Nat × Nat)) :
    Keeps kb k0 (State.breakTag s p t st skip) := by
  unfold State.breakTag; simp (maxDischargeDepth := 60) [kh]

@[simp] theorem State.discardSet_keeps {kb : Bool} {k0 s : State} (kh : Keeps kb k0 s) (p : Nat) (i : Nat) :
    Keeps kb k0 (State.discardSet s p i) := by
  unfold State.discardSet; simp (maxDischargeDepth := 60) [kh]

@[simp] theorem State.endSnapshots_keeps {kb : Bool} {k0 s : State} (kh : Keeps kb k0 s) (f : Nat) (r : Nat) (seq :
    Word32) (st : Status) :
    Keeps kb k0 (State.endSnapshots s f r seq st) := by
  unfold State.endSnapshots
  try simp (maxDischargeDepth := 60) [kh]
  repeat' (with_reducible first | assumption | intro _ | apply And.intro | apply State.failResult_keeps | apply State.finish_keeps | apply keeps_foldl | apply Keeps.refl | split)
  all_goals simp (maxDischargeDepth := 60) [kh]

@[simp] theorem State.resumeSets_keeps {kb : Bool} {k0 s : State} (kh : Keeps kb k0 s) (f : Nat) (r : Nat) (seq :
    Word32) :
    Keeps kb k0 (State.resumeSets s f r seq) := by
  unfold State.resumeSets; simp (maxDischargeDepth := 60) [kh]

@[simp] theorem State.stopPlan_keeps {kb : Bool} {k0 s : State} (kh : Keeps kb k0 s) (f : Nat) (r : Nat) (st : Status)
    (report : Option FaultRec) :
    Keeps kb k0 (State.stopPlan s f r st report) := by
  unfold State.stopPlan
  try simp (maxDischargeDepth := 60) [kh]
  repeat' (with_reducible first | assumption | intro _ | apply And.intro | apply State.addFlags_keeps | apply State.discardSet_keeps | apply State.endSnapshots_keeps | apply State.finishWith_keeps | apply keeps_foldl | apply Keeps.refl | split)
  all_goals simp (maxDischargeDepth := 60) [kh]

@[simp] theorem State.releaseMedia_keeps {kb : Bool} {k0 s : State} (kh : Keeps kb k0 s) (h : Nat) (n : Nat) :
    Keeps kb k0 (State.releaseMedia s h n) := by
  unfold State.releaseMedia; simp (maxDischargeDepth := 60) [kh]

@[simp] theorem State.closeHopper_keeps {kb : Bool} {k0 s : State} (kh : Keeps kb k0 s) (h : Nat) (i : Nat) :
    Keeps kb k0 (State.closeHopper s h i) := by
  unfold State.closeHopper; simp (maxDischargeDepth := 60) [kh]

@[simp] theorem State.closeRace_keeps {kb : Bool} {k0 s : State} (kh : Keeps kb k0 s) (h : Nat) (i : Nat) :
    Keeps kb k0 (State.closeRace s h i) := by
  unfold State.closeRace; simp (maxDischargeDepth := 60) [kh]

@[simp] theorem State.leatOff_keeps {kb : Bool} {k0 s : State} (kh : Keeps kb k0 s) :
    Keeps kb k0 (State.leatOff s) := by
  unfold State.leatOff; simp (maxDischargeDepth := 60) [kh]

@[simp] theorem State.dropAcks_keeps {kb : Bool} {k0 s : State} (kh : Keeps kb k0 s) (f : Nat) (r : Nat) (cmd :
    Word32) :
    Keeps kb k0 (State.dropAcks s f r cmd) := by
  unfold State.dropAcks; simp (maxDischargeDepth := 60) [kh]

@[simp] theorem State.freeVideo_keeps {kb : Bool} {k0 s : State} (kh : Keeps kb k0 s) (j : HopperJob) :
    Keeps kb k0 (State.freeVideo s j) := by
  unfold State.freeVideo; simp (maxDischargeDepth := 60) [kh]

@[simp] theorem State.endCommand_keeps {kb : Bool} {k0 s : State} (kh : Keeps kb k0 s) (f : Nat) (r : Nat) (st :
    Status) :
    Keeps kb k0 (State.endCommand s f r st) := by
  unfold State.endCommand
  try simp (maxDischargeDepth := 60) [kh]
  repeat' (with_reducible first | assumption | intro _ | apply And.intro | apply State.addFlags_keeps | apply State.breakTag_keeps | apply State.closeHopper_keeps | apply State.dropAcks_keeps | apply State.failResult_keeps | apply State.finish_keeps | apply State.freeVideo_keeps | apply State.leatOff_keeps | apply State.resumeSets_keeps | apply State.setPawl_keeps | apply State.sides_keeps | apply State.stopPlan_keeps | apply keeps_foldl | apply Keeps.refl | split)
  all_goals simp (maxDischargeDepth := 60) [kh]

@[simp] theorem State.bumpEpoch_keeps {kb : Bool} {k0 s : State} (kh : Keeps kb k0 s) (l : Nat) :
    Keeps kb k0 (State.bumpEpoch s l) := by
  unfold State.bumpEpoch; simp (maxDischargeDepth := 60) [kh]

@[simp] theorem State.rebind_keeps {kb : Bool} {k0 s : State} (kh : Keeps kb k0 s) (l : Nat) :
    Keeps kb k0 (State.rebind s l) := by
  unfold State.rebind
  try simp (maxDischargeDepth := 60) [kh]
  repeat' (with_reducible first | assumption | intro _ | apply And.intro | apply State.bumpEpoch_keeps | apply State.setStone_keeps | apply Keeps.refl | split)
  all_goals simp (maxDischargeDepth := 60) [kh]

@[simp] theorem State.abortImages_keeps {kb : Bool} {k0 s : State} (kh : Keeps kb k0 s) (p : Nat) :
    Keeps kb k0 (State.abortImages s p) := by
  unfold State.abortImages
  try simp (maxDischargeDepth := 60) [kh]
  repeat' (with_reducible first | assumption | intro _ | apply And.intro | apply State.endSnapshots_keeps | apply keeps_foldl | apply Keeps.refl | split)
  all_goals simp (maxDischargeDepth := 60) [kh]

@[simp] theorem State.retireStone_keeps {kb : Bool} {k0 s : State} (kh : Keeps kb k0 s) (p : Nat) :
    Keeps kb k0 (State.retireStone s p) := by
  unfold State.retireStone
  try simp (maxDischargeDepth := 60) [kh]
  repeat' (with_reducible first | assumption | intro _ | apply And.intro | apply State.abortImages_keeps | apply State.endCommand_keeps | apply State.keep_keeps | apply State.log_keeps | apply State.rebind_keeps | apply State.setStone_keeps | apply keeps_foldl | apply Keeps.refl | split)
  all_goals simp (maxDischargeDepth := 60) [kh]

@[simp] theorem State.declareDead_keeps {kb : Bool} {k0 s : State} (kh : Keeps kb k0 s) (p : Nat) :
    Keeps kb k0 (State.declareDead s p) := by
  unfold State.declareDead
  try simp (maxDischargeDepth := 60) [kh]
  repeat' (with_reducible first | assumption | intro _ | apply And.intro | apply State.abortImages_keeps | apply State.dropTaker_keeps | apply State.endCommand_keeps | apply State.keep_keeps | apply State.log_keeps | apply State.rebind_keeps | apply State.setStone_keeps | apply keeps_foldl | apply Keeps.refl | split)
  all_goals simp (maxDischargeDepth := 60) [kh]

@[simp] theorem State.settle_keeps {kb : Bool} {k0 s : State} (kh : Keeps kb k0 s) :
    Keeps kb k0 (State.settle s) := by
  unfold State.settle; simp (maxDischargeDepth := 60) [kh]

@[simp] theorem State.freeEntry_keeps {kb : Bool} {k0 s : State} (kh : Keeps kb k0 s) (p : Nat) (e : Nat) :
    Keeps kb k0 (State.freeEntry s p e) := by
  unfold State.freeEntry; simp (maxDischargeDepth := 60) [kh]

@[simp] theorem State.resetFunction_keeps {k0 s : State} (kh : Keeps false k0 s) (f : Nat) (keepMemwin : Bool) :
    Keeps false k0 (State.resetFunction s f keepMemwin) := by
  unfold State.resetFunction
  try simp (maxDischargeDepth := 60) [kh]
  repeat' (with_reducible first | assumption | intro _ | apply And.intro | apply State.breakTag_keeps | apply State.closeHopper_keeps | apply State.closeRace_keeps | apply State.dropTaker_keeps | apply State.endCommand_keeps | apply State.freeEntry_keeps | apply State.setBind_keeps | apply State.setFn_keeps | apply State.setPart_keeps | apply State.unstage_keeps | apply keeps_foldl | apply Keeps.refl | split)
  all_goals simp (maxDischargeDepth := 60) [kh]

@[simp] theorem State.endReset_keeps {k0 s : State} (kh : Keeps false k0 s) (f : Nat) :
    Keeps false k0 (State.endReset s f) := by
  unfold State.endReset; simp (maxDischargeDepth := 60) [kh]

end Sys2Proof.Machine
end

