-- ==== Sys2Proof/Laws/KeepsCommands.lean ====
section
/-! SUPPORT. What the operations of Machine/Commands.lean keep (Laws/Keeps.lean): the queue, both memories' canonical form and,
for every `kb`, the part of the state that ring commands, engines and links never change. -/
namespace Sys2Proof.Machine

@[simp] theorem State.runCmd_keeps {kb : Bool} {k0 s : State} (kh : Keeps kb k0 s) (f r : Nat) (o : Opcode)
    (k : Running → State) (hk : ∀ c, Keeps kb k0 (k c)) : Keeps kb k0 (State.runCmd s f r o k) := by
  unfold State.runCmd
  split
  · exact kh
  · exact hk _


@[simp] theorem execDescriptorFetch_keeps {kb : Bool} {k0 s : State} (kh : Keeps kb k0 s) (f : FnId) (r : RingIx) :
    OutKeeps kb k0 (execDescriptorFetch f r s) := by
  unfold execDescriptorFetch; simp (maxDischargeDepth := 60) [kh]

@[simp] theorem execCompletionEntryWrite_keeps {kb : Bool} {k0 s : State} (kh : Keeps kb k0 s) (f : FnId) (r : RingIx)
    :
    OutKeeps kb k0 (execCompletionEntryWrite f r s) := by
  unfold execCompletionEntryWrite; simp (maxDischargeDepth := 60) [kh]

@[simp] theorem State.moderationExpiry_keeps {kb : Bool} {k0 s : State} (kh : Keeps kb k0 s) (f : Nat) (c : Nat) :
    Keeps kb k0 (State.moderationExpiry s f c) := by
  unfold State.moderationExpiry; simp (maxDischargeDepth := 60) [kh]

@[simp] theorem execModerationTimer_keeps {kb : Bool} {k0 s : State} (kh : Keeps kb k0 s) (f : FnId) (c : RingIx) :
    OutKeeps kb k0 (execModerationTimer f c s) := by
  unfold execModerationTimer; simp (maxDischargeDepth := 60) [kh]

@[simp] theorem execNop_keeps {kb : Bool} {k0 s : State} (kh : Keeps kb k0 s) (f : FnId) (r : RingIx) :
    OutKeeps kb k0 (execNop f r s) := by
  unfold execNop; simp (maxDischargeDepth := 60) [kh]

@[simp] theorem wordAtPhys_keeps {kb : Bool} (f : Nat) (r : Nat) (va : Nat) (write : Bool) :
    RunKeeps kb (wordAtPhys f r va write) := by
  unfold wordAtPhys; simp (maxDischargeDepth := 60)

@[simp] theorem State.pollWait_keeps {kb : Bool} {k0 s : State} (kh : Keeps kb k0 s) (f : Nat) (r : Nat) :
    Keeps kb k0 (State.pollWait s f r) := by
  unfold State.pollWait
  try simp (maxDischargeDepth := 60) [kh]
  repeat' (with_reducible first | assumption | intro _ | apply And.intro | apply State.finish_keeps | apply State.setRunning_keeps | apply State.stopped_keeps | apply readSV_keeps | apply keeps_exec | apply Keeps.refl | split)
  all_goals simp (maxDischargeDepth := 60) [kh]

@[simp] theorem State.wakeWaits_keeps {kb : Bool} {k0 s : State} (kh : Keeps kb k0 s) (at_ : Phys) :
    Keeps kb k0 (State.wakeWaits s at_) := by
  unfold State.wakeWaits; simp (maxDischargeDepth := 60) [kh]

@[simp] theorem signalWord_keeps {kb : Bool} (f : Nat) (r : Nat) (d : Desc) :
    RunKeeps kb (signalWord f r d) := by
  unfold signalWord; simp (maxDischargeDepth := 60)

@[simp] theorem State.signal_keeps {kb : Bool} {k0 s : State} (kh : Keeps kb k0 s) (f : Nat) (r : Nat) (c : Running) :
    Keeps kb k0 (State.signal s f r c) := by
  unfold State.signal
  try simp (maxDischargeDepth := 60) [kh]
  repeat' (with_reducible first | assumption | intro _ | apply And.intro | apply State.finish_keeps | apply State.stopped_keeps | apply State.wakeWaits_keeps | apply signalWord_keeps | apply keeps_exec | apply Keeps.refl | split)
  all_goals simp (maxDischargeDepth := 60) [kh]

@[simp] theorem execSignal_keeps {kb : Bool} {k0 s : State} (kh : Keeps kb k0 s) (f : FnId) (r : RingIx) :
    OutKeeps kb k0 (execSignal f r s) := by
  unfold execSignal; simp (maxDischargeDepth := 60) [kh]

@[simp] theorem execWait_keeps {kb : Bool} {k0 s : State} (kh : Keeps kb k0 s) (f : FnId) (r : RingIx) :
    OutKeeps kb k0 (execWait f r s) := by
  unfold execWait; simp (maxDischargeDepth := 60) [kh]

@[simp] theorem execWaitPoll_keeps {kb : Bool} {k0 s : State} (kh : Keeps kb k0 s) (f : FnId) (r : RingIx) :
    OutKeeps kb k0 (execWaitPoll f r s) := by
  unfold execWaitPoll
  try simp (maxDischargeDepth := 60) [kh]
  repeat' (with_reducible first | assumption | intro _ | apply And.intro | apply State.pollWait_keeps | apply State.settle_keeps | apply Keeps.refl | split)
  all_goals simp (maxDischargeDepth := 60) [kh]

@[simp] theorem State.waitTimeout_keeps {kb : Bool} {k0 s : State} (kh : Keeps kb k0 s) (f : Nat) (r : Nat) :
    Keeps kb k0 (State.waitTimeout s f r) := by
  unfold State.waitTimeout
  try simp (maxDischargeDepth := 60) [kh]
  repeat' (with_reducible first | assumption | intro _ | apply And.intro | apply State.finish_keeps | apply Keeps.refl | split)
  all_goals simp (maxDischargeDepth := 60) [kh]

@[simp] theorem execWaitTimeout_keeps {kb : Bool} {k0 s : State} (kh : Keeps kb k0 s) (f : FnId) (r : RingIx) :
    OutKeeps kb k0 (execWaitTimeout f r s) := by
  unfold execWaitTimeout; simp (maxDischargeDepth := 60) [kh]

@[simp] theorem State.fence_keeps {kb : Bool} {k0 s : State} (kh : Keeps kb k0 s) (f : Nat) (r : Nat) (c : Running) :
    Keeps kb k0 (State.fence s f r c) := by
  unfold State.fence; simp (maxDischargeDepth := 60) [kh]

@[simp] theorem execFence_keeps {kb : Bool} {k0 s : State} (kh : Keeps kb k0 s) (f : FnId) (r : RingIx) :
    OutKeeps kb k0 (execFence f r s) := by
  unfold execFence; simp (maxDischargeDepth := 60) [kh]

@[simp] theorem State.fenceTimeout_keeps {kb : Bool} {k0 s : State} (kh : Keeps kb k0 s) (f : Nat) (r : Nat) :
    Keeps kb k0 (State.fenceTimeout s f r) := by
  unfold State.fenceTimeout
  try simp (maxDischargeDepth := 60) [kh]
  repeat' (with_reducible first | assumption | intro _ | apply And.intro | apply State.fence_keeps | apply State.finish_keeps | apply Keeps.refl | split)
  all_goals simp (maxDischargeDepth := 60) [kh]

@[simp] theorem execFenceTimeout_keeps {kb : Bool} {k0 s : State} (kh : Keeps kb k0 s) (f : FnId) (r : RingIx) :
    OutKeeps kb k0 (execFenceTimeout f r s) := by
  unfold execFenceTimeout; simp (maxDischargeDepth := 60) [kh]

@[simp] theorem State.pawlTake_keeps {kb : Bool} {k0 s : State} (kh : Keeps kb k0 s) (f : Nat) (r : Nat) (c : Running)
    :
    Keeps kb k0 (State.pawlTake s f r c) := by
  unfold State.pawlTake
  try simp (maxDischargeDepth := 60) [kh]
  repeat' (with_reducible first | assumption | intro _ | apply And.intro | apply State.fail_keeps | apply State.finish_keeps | apply State.setPawl_keeps | apply State.setRunning_keeps | apply Keeps.refl | split)
  all_goals simp (maxDischargeDepth := 60) [kh]

@[simp] theorem execPawlTake_keeps {kb : Bool} {k0 s : State} (kh : Keeps kb k0 s) (f : FnId) (r : RingIx) :
    OutKeeps kb k0 (execPawlTake f r s) := by
  unfold execPawlTake; simp (maxDischargeDepth := 60) [kh]

@[simp] theorem State.pawlGive_keeps {kb : Bool} {k0 s : State} (kh : Keeps kb k0 s) (f : Nat) (r : Nat) (c : Running)
    :
    Keeps kb k0 (State.pawlGive s f r c) := by
  unfold State.pawlGive; simp (maxDischargeDepth := 60) [kh]

@[simp] theorem execPawlGive_keeps {kb : Bool} {k0 s : State} (kh : Keeps kb k0 s) (f : FnId) (r : RingIx) :
    OutKeeps kb k0 (execPawlGive f r s) := by
  unfold execPawlGive; simp (maxDischargeDepth := 60) [kh]

@[simp] theorem State.pawlTimeout_keeps {kb : Bool} {k0 s : State} (kh : Keeps kb k0 s) (f : Nat) (r : Nat) :
    Keeps kb k0 (State.pawlTimeout s f r) := by
  unfold State.pawlTimeout
  try simp (maxDischargeDepth := 60) [kh]
  repeat' (with_reducible first | assumption | intro _ | apply And.intro | apply State.finish_keeps | apply State.setPawl_keeps | apply Keeps.refl | split)
  all_goals simp (maxDischargeDepth := 60) [kh]

@[simp] theorem execPawlTakeTimeout_keeps {kb : Bool} {k0 s : State} (kh : Keeps kb k0 s) (f : FnId) (r : RingIx) :
    OutKeeps kb k0 (execPawlTakeTimeout f r s) := by
  unfold execPawlTakeTimeout; simp (maxDischargeDepth := 60) [kh]

@[simp] theorem State.timestamp_keeps {kb : Bool} {k0 s : State} (kh : Keeps kb k0 s) (f : Nat) (r : Nat) :
    Keeps kb k0 (State.timestamp s f r) := by
  unfold State.timestamp; simp (maxDischargeDepth := 60) [kh]

@[simp] theorem execTimestamp_keeps {kb : Bool} {k0 s : State} (kh : Keeps kb k0 s) (f : FnId) (r : RingIx) :
    OutKeeps kb k0 (execTimestamp f r s) := by
  unfold execTimestamp; simp (maxDischargeDepth := 60) [kh]

@[simp] theorem State.query_keeps {kb : Bool} {k0 s : State} (kh : Keeps kb k0 s) (f : Nat) (r : Nat) (c : Running) :
    Keeps kb k0 (State.query s f r c) := by
  unfold State.query
  try simp (maxDischargeDepth := 60) [kh]
  repeat' (with_reducible first | assumption | intro _ | apply And.intro | apply State.fail_keeps | apply State.finishWith_keeps | apply Keeps.refl | split)
  all_goals simp (maxDischargeDepth := 60) [kh]

@[simp] theorem execQuery_keeps {kb : Bool} {k0 s : State} (kh : Keeps kb k0 s) (f : FnId) (r : RingIx) :
    OutKeeps kb k0 (execQuery f r s) := by
  unfold execQuery; simp (maxDischargeDepth := 60) [kh]

end Sys2Proof.Machine
end

