-- ==== Sys2Proof/Laws/KeepsPlans.lean ====
section
/-! SUPPORT. What the operations of Machine/Plans.lean keep (Laws/Keeps.lean): the queue, both memories' canonical form and,
for every `kb`, the part of the state that ring commands, engines and links never change. -/
namespace Sys2Proof.Machine

@[simp] theorem fetchBytes_keeps {kb : Bool} (a : Acc) (va : Nat) (n : Nat) :
    BindKeeps kb (fetchBytes a va n) := by
  unfold fetchBytes; simp

@[simp] theorem need_keeps {kb : Bool} (ok : Bool) (st : Status) :
    BindKeeps kb (need ok st) := by
  unfold need; simp

@[simp] theorem must_keeps {kb : Bool} {α : Type} (o : Option α) :
    BindKeeps kb (must o) := by
  unfold must
  try simp (maxDischargeDepth := 60)
  repeat' (with_reducible first | assumption | intro _ | apply And.intro | apply runKeeps_pure | apply bindKeeps_bind | apply bindKeeps_lift | split)
  all_goals simp (maxDischargeDepth := 60)

@[simp] theorem fetchBody_keeps {kb : Bool} (a : Acc) (vane : Bool) (va : Nat) :
    BindKeeps kb (fetchBody a vane va) := by
  unfold fetchBody; simp (maxDischargeDepth := 60)

@[simp] theorem fetchPhase_keeps {kb : Bool} (a : Acc) (bin : Nat) (bs : List Byte) :
    BindKeeps kb (fetchPhase a bin bs) := by
  unfold fetchPhase; simp (maxDischargeDepth := 60)

@[simp] theorem checkRecord_keeps {kb : Bool} (f : Nat) (survey : Bool) (stages : Nat) (ws : List Word64) :
    BindKeeps kb (checkRecord f survey stages ws) := by
  unfold checkRecord; simp (maxDischargeDepth := 60)

@[simp] theorem fetchReadouts_keeps {kb : Bool} (a : Acc) (ws : List Word64) :
    BindKeeps kb (fetchReadouts a ws) := by
  unfold fetchReadouts; simp

@[simp] theorem checkBodies_keeps {kb : Bool} (a : Acc) (ws : List Word64) (x : StagePlan) (sh : Shape) (l : List Phase)
    (recs : Option (List ReadoutRec)) : BindKeeps kb (checkBodies a ws x sh l recs) := by
  induction l generalizing recs with
  | nil => simp [checkBodies]
  | cons q qs ih =>
    unfold checkBodies
    split <;> simp (maxDischargeDepth := 60) [ih]


@[simp] theorem checkLists_keeps {kb : Bool} (f : Nat) (ws : List Word64) (x : StagePlan) :
    BindKeeps kb (checkLists f ws x) := by
  unfold checkLists
  try simp (maxDischargeDepth := 60)
  repeat' (with_reducible first | assumption | intro _ | apply And.intro | apply fetchBytes_keeps | apply need_keeps | apply must_keeps | apply fetchReadouts_keeps | apply checkBodies_keeps | apply bindKeeps_mapM | apply runKeeps_pure | apply bindKeeps_bind | apply bindKeeps_lift | split)
  all_goals simp (maxDischargeDepth := 60)

end Sys2Proof.Machine
end

