-- ==== Sys2Proof/Laws/KeepsSets.lean ====
section
/-! SUPPORT. What the operations of Machine/Sets.lean keep (Laws/Keeps.lean): the queue, both memories' canonical form and,
for every `kb`, the part of the state that ring commands, engines and links never change. -/
namespace Sys2Proof.Machine

@[simp] theorem State.modCtx_keeps {kb : Bool} {k0 s : State} (kh : Keeps kb k0 s) (p : Nat) (i : Nat) (g : SetCtx →
    SetCtx) :
    Keeps kb k0 (State.modCtx s p i g) := by
  unfold State.modCtx; simp (maxDischargeDepth := 60) [kh]

@[simp] theorem State.modStone_keeps {kb : Bool} {k0 s : State} (kh : Keeps kb k0 s) (p : Nat) (g : Stone → Stone) :
    Keeps kb k0 (State.modStone s p g) := by
  unfold State.modStone; simp (maxDischargeDepth := 60) [kh]

@[simp] theorem State.nextOrder_keeps {kb : Bool} {k0 s : State} (kh : Keeps kb k0 s) (p : Nat) :
    Keeps kb k0 (State.nextOrder s p).2 := by
  unfold State.nextOrder; simp (maxDischargeDepth := 60) [kh]

@[simp] theorem State.staleWrite_keeps {kb : Bool} {k0 s : State} (kh : Keeps kb k0 s) (p : Nat) :
    Keeps kb k0 (State.staleWrite s p) := by
  unfold State.staleWrite; simp (maxDischargeDepth := 60) [kh]

@[simp] theorem State.stopSet_keeps {kb : Bool} {k0 s : State} (kh : Keeps kb k0 s) (p : Nat) (i : Nat) (e : Stop) :
    Keeps kb k0 (State.stopSet s p i e) := by
  unfold State.stopSet; simp (maxDischargeDepth := 60) [kh]

@[simp] theorem State.work_keeps {kb : Bool} {k0 s : State} (kh : Keeps kb k0 s) {α : Type} (p i : Nat) (m : Run α)
    (hm : RunKeeps kb m) (k : α → Flags → State → State) (hk : ∀ v fl u, Keeps kb u (k v fl u)) :
    Keeps kb k0 (State.work s p i m k) := by
  unfold State.work
  have h1 : Keeps kb k0 ((m.exec s).2.s.modCtx p i (fun c => { c with flags := c.flags.or (m.exec s).2.flags })) := by
    simp (maxDischargeDepth := 60) [kh, hm]
  dsimp only
  split
  · simp [h1]
  · split
    · simp [h1]
    · exact h1.trans (hk _ _ _)


@[simp] theorem meetStone_keeps {kb : Bool} {k0 s : State} (kh : Keeps kb k0 s) (p : Nat) (l : List Nat) :
    Keeps kb k0 (meetStone p l s).2 := by
  induction l generalizing s with
  | nil => exact kh
  | cons g gs ih =>
    unfold meetStone
    refine ih ?_
    split <;> simp (maxDischargeDepth := 60) [kh]


@[simp] theorem meetRead_keeps {kb : Bool} (p base a n : Nat) : RunKeeps kb (meetRead p base a n) :=
  fun e => meetStone_keeps (Keeps.refl kb e.s) p _


@[simp] theorem meetCtx_keeps {kb : Bool} (p : Nat) (i : Nat) :
    RunKeeps kb (meetCtx p i) := by
  unfold meetCtx; simp (maxDischargeDepth := 60)

@[simp] theorem meetTable_keeps {kb : Bool} (p : Nat) (c : SetCtx) (r : Option ReadoutRec) :
    RunKeeps kb (meetTable p c r) := by
  unfold meetTable
  try simp (maxDischargeDepth := 60)
  repeat' (with_reducible first | assumption | intro _ | apply And.intro | exact runKeeps_getS | exact runKeeps_get | apply runKeeps_withFlags | apply runKeeps_pure | apply runKeeps_halt | apply runKeeps_throw | apply meetRead_keeps | apply runKeeps_bind | split)
  all_goals simp (maxDischargeDepth := 60)

@[simp] theorem meetSegment_keeps {kb : Bool} (h : Nat) (seg : Segment) :
    RunKeeps kb (meetSegment h seg) := by
  unfold meetSegment; simp (maxDischargeDepth := 60)

@[simp] theorem binPlace_keeps {kb : Bool} (p : Nat) (i : Nat) (half : Bool) (off : Nat) (n : Nat) :
    RunKeeps kb (binPlace p i half off n) := by
  unfold binPlace; simp (maxDischargeDepth := 60)

@[simp] theorem binRead_keeps {kb : Bool} (p : Nat) (i : Nat) (half : Bool) (off : Nat) (n : Nat) :
    RunKeeps kb (binRead p i half off n) := by
  unfold binRead; simp (maxDischargeDepth := 60)

@[simp] theorem binWrite_keeps {kb : Bool} (p : Nat) (i : Nat) (half : Bool) (off : Nat) (bs : List Byte) :
    RunKeeps kb (binWrite p i half off bs) := by
  unfold binWrite; simp (maxDischargeDepth := 60)

@[simp] theorem accRead_keeps {kb : Bool} (p : Nat) (a : Nat) :
    RunKeeps kb (accRead p a) := by
  unfold accRead; simp (maxDischargeDepth := 60)

@[simp] theorem accForward_keeps {kb : Bool} (p : Nat) (a : Nat) :
    RunKeeps kb (accForward p a) := by
  unfold accForward; simp (maxDischargeDepth := 60)

@[simp] theorem accWrite_keeps {kb : Bool} (p : Nat) (a : Nat) (w : Word32) (flushed : Bool) :
    RunKeeps kb (accWrite p a w flushed) := by
  unfold accWrite; simp (maxDischargeDepth := 60)

@[simp] theorem accSlot_keeps {kb : Bool} (p : Nat) (i : Nat) (slot : Nat) (w : Nat) :
    RunKeeps kb (accSlot p i slot w) := by
  unfold accSlot; simp (maxDischargeDepth := 60)

@[simp] theorem binElem_keeps {kb : Bool} (p : Nat) (i : Nat) (half : Bool) (e : Elem) :
    RunKeeps kb (binElem p i half e) := by
  unfold binElem; simp (maxDischargeDepth := 60)

@[simp] theorem binPutElem_keeps {kb : Bool} (p : Nat) (i : Nat) (half : Bool) (e : Elem) (code : Nat) :
    RunKeeps kb (binPutElem p i half e code) := by
  unfold binPutElem; simp (maxDischargeDepth := 60)

@[simp] theorem State.advance_keeps {kb : Bool} {k0 s : State} (kh : Keeps kb k0 s) (p n : Nat) :
    Keeps kb k0 (State.advance s p n) := by
  induction n generalizing s with
  | zero => exact kh
  | succ n ih =>
    unfold State.advance
    split
    · exact kh
    · dsimp only
      split
      · exact kh
      · apply ih
        simp (maxDischargeDepth := 60) [kh]


@[simp] theorem State.beginNext_keeps {kb : Bool} {k0 s : State} (kh : Keeps kb k0 s) (p : Nat) :
    Keeps kb k0 (State.beginNext s p) := by
  unfold State.beginNext
  try simp (maxDischargeDepth := 60) [kh]
  repeat' (with_reducible first | assumption | intro _ | apply And.intro | apply State.modStone_keeps | apply State.putCtx_keeps | apply Keeps.refl | split)
  all_goals simp (maxDischargeDepth := 60) [kh]

@[simp] theorem State.walkOn_keeps {kb : Bool} {k0 s : State} (kh : Keeps kb k0 s) (p : Nat) :
    Keeps kb k0 (State.walkOn s p) := State.advance_keeps kh p 64


end Sys2Proof.Machine
end

