-- ==== Sys2Proof/Laws/KeepsImage.lean ====
section
/-! SUPPORT. What the operations of Machine/Image.lean keep (Laws/Keeps.lean): the queue, both memories' canonical form and,
for every `kb`, the part of the state that ring commands, engines and links never change. -/
namespace Sys2Proof.Machine

@[simp] theorem readBins_keeps {kb : Bool} (p : Nat) (c : SetCtx) :
    RunKeeps kb (readBins p c) := by
  unfold readBins; simp (maxDischargeDepth := 60)

@[simp] theorem readAccs_keeps {kb : Bool} (p : Nat) (c : SetCtx) :
    RunKeeps kb (readAccs p c) := by
  unfold readAccs; simp (maxDischargeDepth := 60)

@[simp] theorem opaqueBytes_keeps {kb : Bool} (n : Nat) : RunKeeps kb (opaqueBytes n) :=
  fun e => State.freeBytes_keeps (Keeps.refl kb e.s) n

@[simp] theorem saveSet_keeps {kb : Bool} (run : PlanRun) (x : Nat × Nat × Nat) :
    RunKeeps kb (saveSet run x) := by
  unfold saveSet; simp (maxDischargeDepth := 60)

@[simp] theorem State.stopDue_keeps {kb : Bool} {k0 s : State} (kh : Keeps kb k0 s) (p : Nat) :
    Keeps kb k0 (State.stopDue s p) := by
  unfold State.stopDue
  try simp (maxDischargeDepth := 60) [kh]
  repeat' (with_reducible first | assumption | intro _ | apply And.intro | apply State.putCtx_keeps | apply Keeps.refl | split)
  all_goals simp (maxDischargeDepth := 60) [kh]

@[simp] theorem State.stopIdle_keeps {kb : Bool} {k0 s : State} (kh : Keeps kb k0 s) (p : Nat) (i : Nat) :
    Keeps kb k0 (State.stopIdle s p i) := by
  unfold State.stopIdle; simp (maxDischargeDepth := 60) [kh]

@[simp] theorem imageWork_keeps {kb : Bool} (a : Acc) (base : Nat) (f : Nat) (size : Nat) (run : PlanRun) (xs : List
    (Nat × Nat × Nat)) :
    RunKeeps kb (imageWork a base f size run xs) := by
  unfold imageWork; simp (maxDischargeDepth := 60)

@[simp] theorem State.writeImage_keeps {kb : Bool} {k0 s : State} (kh : Keeps kb k0 s) (f : Nat) (r : Nat) (c :
    Running) (sq : Nat) (seq : Word32) (run : PlanRun) :
    Keeps kb k0 (State.writeImage s f r c sq seq run) := by
  unfold State.writeImage
  try simp (maxDischargeDepth := 60) [kh]
  repeat' (with_reducible first | assumption | intro _ | apply And.intro | apply State.finish_keeps | apply State.setRunning_keeps | apply State.stopPlan_keeps | apply State.stopped_keeps | apply imageWork_keeps | apply keeps_exec | apply Keeps.refl | split)
  all_goals simp (maxDischargeDepth := 60) [kh]

@[simp] theorem State.imageDue_keeps {kb : Bool} {k0 s : State} (kh : Keeps kb k0 s) (f : Nat) (r : Nat) :
    Keeps kb k0 (State.imageDue s f r) := by
  unfold State.imageDue
  try simp (maxDischargeDepth := 60) [kh]
  repeat' (with_reducible first | assumption | intro _ | apply And.intro | apply Keeps.refl | split)
  all_goals simp (maxDischargeDepth := 60) [kh]

@[simp] theorem State.imagesOf_keeps {kb : Bool} {k0 s : State} (kh : Keeps kb k0 s) (f : Nat) :
    Keeps kb k0 (State.imagesOf s f) := by
  unfold State.imagesOf; simp (maxDischargeDepth := 60) [kh]

@[simp] theorem State.stopRunner_keeps {kb : Bool} {k0 s : State} (kh : Keeps kb k0 s) (p : Nat) :
    Keeps kb k0 (State.stopRunner s p) := by
  unfold State.stopRunner
  try simp (maxDischargeDepth := 60) [kh]
  repeat' (with_reducible first | assumption | intro _ | apply And.intro | apply State.imagesOf_keeps | apply State.stopDue_keeps | apply Keeps.refl | split)
  all_goals simp (maxDischargeDepth := 60) [kh]

end Sys2Proof.Machine
end

