-- ==== Sys2Proof/Laws/KeepsBinding.lean ====
section
/-! SUPPORT. What the operations of Machine/Binding.lean keep (Laws/Keeps.lean): the queue, both memories' canonical form and,
for every `kb`, the part of the state that ring commands, engines and links never change. -/
namespace Sys2Proof.Machine

@[simp] theorem bindStage_keeps {kb : Bool} (b : Binder) (stage : Nat) (rounds : Nat) (sp : StagePlan) (tabs : List GovTable) (small : Bool) (want : Want) :
    BindKeeps kb (bindStage b stage rounds sp tabs small want) := by
  unfold bindStage
  try simp (maxDischargeDepth := 60)
  repeat' (with_reducible first | assumption | intro _ | apply And.intro | apply State.modStone_keeps | apply bindKeeps_bind | apply bindKeeps_lift | split)
  all_goals simp (maxDischargeDepth := 60)

@[simp] theorem bindStages_keeps {kb : Bool} (b : Binder) (rounds stages : Nat) (want : Nat → Want) (n : Nat)
    (l : List (List Word64)) : BindKeeps kb (bindStages b rounds stages want n l) := by
  induction l generalizing n with
  | nil => simp [bindStages]
  | cons ws rest ih =>
    unfold bindStages
    simp (maxDischargeDepth := 60) [ih]


@[simp] theorem bindPlan_keeps {kb : Bool} (b : Binder) (va : Nat) (want : Nat → Want) :
    BindKeeps kb (bindPlan b va want) := by
  unfold bindPlan; simp (maxDischargeDepth := 60)

@[simp] theorem State.tryBind_keeps {kb : Bool} {k0 s : State} (kh : Keeps kb k0 s) (m : Bind PlanRun) (hm : BindKeeps kb m) :
    Keeps kb k0 (State.tryBind s m).2 := by
  unfold State.tryBind
  have h1 : Keeps kb k0 ((m.run []).exec s).2.s := keeps_exec (hm []) kh _
  dsimp only
  split <;> simp [h1]


@[simp] theorem State.runPlan_keeps {kb : Bool} {k0 s : State} (kh : Keeps kb k0 s) (f : Nat) (r : Nat) (c : Running)
    :
    Keeps kb k0 (State.runPlan s f r c) := by
  unfold State.runPlan
  try simp (maxDischargeDepth := 60) [kh]
  repeat' (with_reducible first | assumption | intro _ | apply And.intro | apply State.failRead_keeps | apply State.setRunning_keeps | apply State.tryBind_keeps | apply bindPlan_keeps | apply Keeps.refl | split)
  all_goals simp (maxDischargeDepth := 60) [kh]

@[simp] theorem execRunPlan_keeps {kb : Bool} {k0 s : State} (kh : Keeps kb k0 s) (f : FnId) (r : RingIx) :
    OutKeeps kb k0 (execRunPlan f r s) := by
  unfold execRunPlan; simp (maxDischargeDepth := 60) [kh]

@[simp] theorem State.takeStagePawl_keeps {kb : Bool} {k0 s : State} (kh : Keeps kb k0 s) (p : Nat) (i : Nat) :
    Keeps kb k0 (State.takeStagePawl s p i) := by
  unfold State.takeStagePawl
  try simp (maxDischargeDepth := 60) [kh]
  repeat' (with_reducible first | assumption | intro _ | apply And.intro | apply State.grantPawl_keeps | apply State.modCtx_keeps | apply State.setPawl_keeps | apply Keeps.refl | split)
  all_goals simp (maxDischargeDepth := 60) [kh]

@[simp] theorem State.bindingDone_keeps {kb : Bool} {k0 s : State} (kh : Keeps kb k0 s) (p : Nat) (i : Nat) :
    Keeps kb k0 (State.bindingDone s p i) := by
  unfold State.bindingDone; simp (maxDischargeDepth := 60) [kh]

@[simp] theorem execBindingDone_keeps {kb : Bool} {k0 s : State} (kh : Keeps kb k0 s) (p : StoneP) (i : SetIx) :
    OutKeeps kb k0 (execBindingDone p i s) := by
  unfold execBindingDone; simp (maxDischargeDepth := 60) [kh]

end Sys2Proof.Machine
end

