-- ==== Sys2Proof/Laws/KeepsCopy.lean ====
section
/-! SUPPORT. What the operations of Machine/Copy.lean keep (Laws/Keeps.lean): the queue, both memories' canonical form and,
for every `kb`, the part of the state that ring commands, engines and links never change. -/
namespace Sys2Proof.Machine

@[simp] theorem readElemV_keeps {kb : Bool} (a : Acc) (base : Nat) (st : List Int) (bits : Nat) (ix : List Nat) :
    RunKeeps kb (readElemV a base st bits ix) := by
  unfold readElemV; simp (maxDischargeDepth := 60)

@[simp] theorem CopyJob.read_keeps {kb : Bool} (j : CopyJob) (ix : List Nat) :
    RunKeeps kb (CopyJob.read j ix) := by
  unfold CopyJob.read; simp (maxDischargeDepth := 60)

@[simp] theorem CopyJob.convert_keeps {kb : Bool} (j : CopyJob) (l : List Nat) (h : Hist) : RunKeeps kb (j.convert l h) := by
  induction l generalizing h with
  | nil => simp [CopyJob.convert]
  | cons c cs ih => unfold CopyJob.convert; simp (maxDischargeDepth := 60) [ih]


theorem CopyJob.write_keeps {kb : Bool} (j : CopyJob) (hr : ∀ m pa d u, Keeps kb u (j.remote m pa d u)) (ix : List Nat)
    (codes : List Nat) : RunKeeps kb (j.write ix codes) := by
  unfold CopyJob.write
  dsimp only
  split
  · exact writeV_remote_keeps _ _ _ _ hr
  · exact writeV_remote_keeps _ _ _ _ hr


theorem CopyJob.direct_keeps {kb : Bool} (j : CopyJob) (hr : ∀ m pa d u, Keeps kb u (j.remote m pa d u))
    (l : List (List Nat)) (h : Hist) : RunKeeps kb (j.direct l h) := by
  induction l generalizing h with
  | nil => simp [CopyJob.direct]
  | cons ix rest ih =>
    unfold CopyJob.direct
    simp (maxDischargeDepth := 60) [ih, CopyJob.write_keeps j hr]


theorem CopyJob.unload_keeps {kb : Bool} (j : CopyJob) (hr : ∀ m pa d u, Keeps kb u (j.remote m pa d u))
    (l : List (List Nat × List Nat)) (h : Hist) : RunKeeps kb (j.unload l h) := by
  induction l generalizing h with
  | nil => simp [CopyJob.unload]
  | cons x rest ih =>
    obtain ⟨ix, codes⟩ := x
    unfold CopyJob.unload
    simp (maxDischargeDepth := 60) [ih, CopyJob.write_keeps j hr]


theorem CopyJob.staged_keeps {kb : Bool} (j : CopyJob) (hr : ∀ m pa d u, Keeps kb u (j.remote m pa d u))
    (l : List (List Nat)) (h : Hist) : RunKeeps kb (j.staged l h) := by
  unfold CopyJob.staged
  apply runKeeps_bind
  · simp (maxDischargeDepth := 60)
  · intro x
    split
    · simp
    · exact CopyJob.unload_keeps j hr _ _


@[simp] theorem State.finishAcked_keeps {kb : Bool} {k0 s : State} (kh : Keeps kb k0 s) (f : Nat) (r : Nat) (st :
    Status) (res : Word32) (recs : List (Nat × List Byte)) :
    Keeps kb k0 (State.finishAcked s f r st res recs) := by
  unfold State.finishAcked
  try simp (maxDischargeDepth := 60) [kh]
  repeat' (with_reducible first | assumption | intro _ | apply And.intro | apply State.finishWith_keeps | apply State.sendAll_keeps | apply State.setRunning_keeps | apply Keeps.refl | split)
  all_goals simp (maxDischargeDepth := 60) [kh]

theorem State.runCopy_keeps {kb : Bool} {k0 s : State} (kh : Keeps kb k0 s) (f r : Nat) (j : CopyJob) (staged : Bool)
    (hr : ∀ m pa d u, Keeps kb u (j.remote m pa d u)) : Keeps kb k0 (State.runCopy s f r j staged) := by
  unfold State.runCopy
  dsimp only
  split
  · simp [kh]
  · have hm (h : Hist) : RunKeeps kb (do meetBuf 0 j.a.unit; if staged then j.staged j.units h else j.direct j.units h) := by
      refine runKeeps_bind (meetBuf_keeps _ _) (fun _ => ?_)
      split
      · exact CopyJob.staged_keeps j hr _ _
      · exact CopyJob.direct_keeps j hr _ _
    have hx := keeps_exec (hm { format := j.fd }) kh {}
    generalize Run.exec _ s = x at hx ⊢
    split <;> simp [hx]

theorem State.stageCopy_keeps {kb : Bool} {k0 s : State} (kh : Keeps kb k0 s) (f r : Nat) (j : CopyJob)
    (hr : ∀ m pa d u, Keeps kb u (j.remote m pa d u)) : Keeps kb k0 (State.stageCopy s f r j) := by
  unfold State.stageCopy
  apply State.runCopy_keeps _ _ _ _ _ hr
  simp (maxDischargeDepth := 60) [kh]


theorem State.copyJob_remote_keeps {kb : Bool} (s : State) (f r : Nat) (c : Running) (x : CopyShape) (m pa : Nat)
    (d : List Byte) (u : State) : Keeps kb u ((s.copyJob f r c x).remote m pa d u) := by
  unfold State.copyJob; simp

@[simp] theorem State.copy_keeps {kb : Bool} {k0 s : State} (kh : Keeps kb k0 s) (f r : Nat) (c : Running) :
    Keeps kb k0 (State.copy s f r c) := by
  unfold State.copy
  have h2 : Keeps kb k0 ((readWords (ringAcc f r) c.desc.shape 10).exec s).2.s := by simp [kh]
  generalize (readWords (ringAcc f r) c.desc.shape 10).exec s = x at h2 ⊢
  dsimp only
  split
  · simp [h2]
  · have h3 := fun y => State.copyJob_remote_keeps (kb := kb) x.2.s f r c y
    generalize x.2.s.copyJob f r c = g at h3 ⊢
    (repeat' split) <;>
      with_reducible first
      | exact State.stageCopy_keeps h2 _ _ _ (h3 _)
      | exact State.runCopy_keeps h2 _ _ _ _ (h3 _)
      | simp [h2]

@[simp] theorem execCopy_keeps {kb : Bool} {k0 s : State} (kh : Keeps kb k0 s) (f : FnId) (r : RingIx) :
    OutKeeps kb k0 (execCopy f r s) := by
  unfold execCopy; simp (maxDischargeDepth := 60) [kh]

@[simp] theorem State.startStaged_keeps {kb : Bool} {k0 s : State} (kh : Keeps kb k0 s) (f r : Nat) :
    Keeps kb k0 (State.startStaged s f r) := by
  unfold State.startStaged
  split
  · rename_i c _
    split
    · rename_i h ws _
      dsimp only
      split
      · exact kh
      · exact State.stageCopy_keeps kh _ _ _ (fun m pa d u => State.copyJob_remote_keeps s f r c (copyShapeOf ws) m pa d u)
    · exact kh
  · exact kh


@[simp] theorem execStagedCopyStart_keeps {kb : Bool} {k0 s : State} (kh : Keeps kb k0 s) (f : FnId) (r : RingIx) :
    OutKeeps kb k0 (execStagedCopyStart f r s) := by
  unfold execStagedCopyStart; simp (maxDischargeDepth := 60) [kh]

theorem CopyJob.fill_keeps {kb : Bool} (j : CopyJob) (hr : ∀ m pa d u, Keeps kb u (j.remote m pa d u)) (value : Nat) :
    RunKeeps kb (j.fill value) := by
  unfold CopyJob.fill
  exact runKeeps_forM (fun ix => CopyJob.write_keeps j hr _ _) _


@[simp] theorem State.fill_keeps {kb : Bool} {k0 s : State} (kh : Keeps kb k0 s) (f r : Nat) (c : Running) :
    Keeps kb k0 (State.fill s f r c) := by
  unfold State.fill
  have h2 : Keeps kb k0 ((readWords (ringAcc f r) c.desc.shape 10).exec s).2.s := by simp [kh]
  have h3 (t : State) (x : CopyShape) (v : Nat) : RunKeeps kb ((t.fillJob f c.desc x).fill v) :=
    CopyJob.fill_keeps _ (fun m pa d u => Keeps.refl kb u) v
  dsimp only
  split
  · simp [h2]
  · (repeat' split) <;> simp (maxDischargeDepth := 60) [h2, h3]


@[simp] theorem execFill_keeps {kb : Bool} {k0 s : State} (kh : Keeps kb k0 s) (f : FnId) (r : RingIx) :
    OutKeeps kb k0 (execFill f r s) := by
  unfold execFill; simp (maxDischargeDepth := 60) [kh]

end Sys2Proof.Machine
end

