-- ==== Sys2Proof/Laws/KeepsCombine.lean ====
section
/-! SUPPORT. What the operations of Machine/Combine.lean keep (Laws/Keeps.lean): the queue, both memories' canonical form and,
for every `kb`, the part of the state that ring commands, engines and links never change. -/
namespace Sys2Proof.Machine

@[simp] theorem State.takeSlot_keeps {kb : Bool} {k0 s : State} (kh : Keeps kb k0 s) (h : Nat) (overshot : Bool) :
    Keeps kb k0 (State.takeSlot s h overshot) := by
  unfold State.takeSlot; simp (maxDischargeDepth := 60) [kh]

@[simp] theorem State.giveSlot_keeps {kb : Bool} {k0 s : State} (kh : Keeps kb k0 s) (h : Nat) (overshot : Bool) :
    Keeps kb k0 (State.giveSlot s h overshot) := by
  unfold State.giveSlot; simp (maxDischargeDepth := 60) [kh]

@[simp] theorem State.freeIfFull_keeps {kb : Bool} {k0 s : State} (kh : Keeps kb k0 s) (p : Nat) (t : Nat) :
    Keeps kb k0 (State.freeIfFull s p t) := by
  unfold State.freeIfFull; simp (maxDischargeDepth := 60) [kh]

@[simp] theorem State.endPartial_keeps {kb : Bool} {k0 s : State} (kh : Keeps kb k0 s) (k : Contributor) (n : Nat) :
    Keeps kb k0 (State.endPartial s k n) := by
  unfold State.endPartial
  try simp (maxDischargeDepth := 60) [kh]
  repeat' (with_reducible first | assumption | intro _ | apply And.intro | apply State.finishAcked_keeps | apply Keeps.refl | split)
  all_goals simp (maxDischargeDepth := 60) [kh]

@[simp] theorem State.chunkAdded_keeps {kb : Bool} {k0 s : State} (kh : Keeps kb k0 s) (p : Nat) (t : Nat) (i : Nat)
    (key : Nat) (fl : Flags) :
    Keeps kb k0 (State.chunkAdded s p t i key fl) := by
  unfold State.chunkAdded
  try simp (maxDischargeDepth := 60) [kh]
  repeat' (with_reducible first | assumption | intro _ | apply And.intro | apply State.addFlags_keeps | apply State.freeIfFull_keeps | apply State.setTag_keeps | apply Keeps.refl | split)
  all_goals simp (maxDischargeDepth := 60) [kh]

@[simp] theorem State.chunkSent_keeps {kb : Bool} {k0 s : State} (kh : Keeps kb k0 s) (p : Nat) (t : Nat) (i : Nat) :
    Keeps kb k0 (State.chunkSent s p t i) := by
  unfold State.chunkSent
  try simp (maxDischargeDepth := 60) [kh]
  repeat' (with_reducible first | assumption | intro _ | apply And.intro | apply State.endPartial_keeps | apply State.freeIfFull_keeps | apply State.setTag_keeps | apply Keeps.refl | split)
  all_goals simp (maxDischargeDepth := 60) [kh]

@[simp] theorem State.chunkFails_keeps {kb : Bool} {k0 s : State} (kh : Keeps kb k0 s) (p : Nat) (t : Nat) (i : Nat)
    (e : Stop) :
    Keeps kb k0 (State.chunkFails s p t i e) := by
  unfold State.chunkFails
  try simp (maxDischargeDepth := 60) [kh]
  repeat' (with_reducible first | assumption | intro _ | apply And.intro | apply State.breakTag_keeps | apply State.dropAcks_keeps | apply State.stopped_keeps | apply Keeps.refl | split)
  all_goals simp (maxDischargeDepth := 60) [kh]

@[simp] theorem State.ackChunk_keeps {kb : Bool} {k0 s : State} (kh : Keeps kb k0 s) (p : Nat) (t : Nat) (packet :
    Option (Nat × Word32)) :
    Keeps kb k0 (State.ackChunk s p t packet) := by
  unfold State.ackChunk
  try simp (maxDischargeDepth := 60) [kh]
  repeat' (with_reducible first | assumption | intro _ | apply And.intro | apply State.pushPacket_keeps | apply Keeps.refl | split)
  all_goals simp (maxDischargeDepth := 60) [kh]

@[simp] theorem addChunk_keeps {kb : Bool} (x : CombineTag) (key : Nat) (i : Nat) (home : Nat) (pa : Nat) (noCache :
    Bool) (va : Option (Nat × Nat)) (data : List Byte) :
    RunKeeps kb (addChunk x key i home pa noCache va data) := by
  unfold addChunk
  try simp (maxDischargeDepth := 60)
  repeat' (with_reducible first | assumption | intro _ | apply And.intro | exact runKeeps_getS | exact runKeeps_get | apply runKeeps_withFlags | apply runKeeps_pure | apply runKeeps_halt | apply runKeeps_throw | apply State.devStore_keeps | apply readSV_keeps | apply readStruct_keeps | apply writeV_keeps | apply runKeeps_bind | split)
  all_goals simp (maxDischargeDepth := 60)

@[simp] theorem State.addFlagsOf_keeps {kb : Bool} {k0 s : State} (kh : Keeps kb k0 s) (p : Nat) (t : Nat) (i : Nat)
    (fl : Flags) :
    Keeps kb k0 (State.addFlagsOf s p t i fl) := by
  unfold State.addFlagsOf
  try simp (maxDischargeDepth := 60) [kh]
  repeat' (with_reducible first | assumption | intro _ | apply And.intro | apply State.addFlags_keeps | apply Keeps.refl | split)
  all_goals simp (maxDischargeDepth := 60) [kh]

@[simp] theorem State.addOne_keeps {kb : Bool} {k0 s : State} (kh : Keeps kb k0 s) (p : Nat) (t : Nat) (q : Nat) (pa :
    Nat) (home : Nat) (i : Nat) (data : List Byte) :
    Keeps kb k0 (State.addOne s p t q pa home i data).2 := by
  unfold State.addOne
  try simp (maxDischargeDepth := 60) [kh]
  repeat' (with_reducible first | assumption | intro _ | apply And.intro | apply State.addFlagsOf_keeps | apply State.chunkAdded_keeps | apply State.chunkFails_keeps | apply addChunk_keeps | apply keeps_exec | apply Keeps.refl | split)
  all_goals simp (maxDischargeDepth := 60) [kh]

@[simp] theorem State.addHeld_keeps {kb : Bool} {k0 s : State} (kh : Keeps kb k0 s) (p : Nat) (t : Nat) (q : Nat) (pa
    : Nat) (home : Nat) (h : HeldChunk) :
    Keeps kb k0 (State.addHeld s p t q pa home h).2 := by
  unfold State.addHeld
  try simp (maxDischargeDepth := 60) [kh]
  repeat' (with_reducible first | assumption | intro _ | apply And.intro | apply State.addOne_keeps | apply State.chunkFails_keeps | apply State.event_keeps | apply Keeps.refl | split)
  all_goals simp (maxDischargeDepth := 60) [kh]

@[simp] theorem State.drainHeld_keeps {kb : Bool} {k0 s : State} (kh : Keeps kb k0 s) (p t q pa home n : Nat) :
    Keeps kb k0 (State.drainHeld s p t q pa home n) := by
  induction n generalizing s with
  | zero => exact kh
  | succ n ih =>
    unfold State.drainHeld
    dsimp only
    split
    · exact kh
    · split
      · apply ih
        simp (maxDischargeDepth := 60) [kh]
      · simp (maxDischargeDepth := 60) [kh]


@[simp] theorem State.arrive_keeps {kb : Bool} {k0 s : State} (kh : Keeps kb k0 s) (p t q : Nat) (place : Option Nat) (i : Nat)
    (overshot : Bool) (packet : Option (Nat × Word32)) (data : List Byte) :
    OptKeeps kb k0 (State.arrive s p t q place i overshot packet data) := by
  unfold State.arrive
  dsimp only
  (repeat' split) <;> simp (maxDischargeDepth := 60) [kh]


@[simp] theorem State.joinTag_keeps {kb : Bool} {k0 s : State} (kh : Keeps kb k0 s) (f : Nat) (r : Nat) (c : Running)
    (x : CombineTag) :
    Keeps kb k0 (State.joinTag s f r c x) := by
  unfold State.joinTag; simp (maxDischargeDepth := 60) [kh]

@[simp] theorem State.enterTag_keeps {kb : Bool} {k0 s : State} (kh : Keeps kb k0 s) (f : Nat) (r : Nat) (c : Running)
    :
    Keeps kb k0 (State.enterTag s f r c) := by
  unfold State.enterTag; simp (maxDischargeDepth := 60) [kh]

@[simp] theorem sendPartial_keeps {kb : Bool} (f r : Nat) (c : Running) (h : Nat) (l : List (Nat × Nat × Nat)) :
    RunKeeps kb (sendPartial f r c h l) := by
  induction l with
  | nil => simp [sendPartial]
  | cons x l ih =>
    unfold sendPartial
    refine runKeeps_bind (readSV_keeps _ _ _) (fun bs => runKeeps_bind (translate_keeps _ _ _) (fun t => ?_))
    dsimp only
    split <;> simp (maxDischargeDepth := 60) [ih]


@[simp] theorem State.combineRemote_keeps {kb : Bool} {k0 s : State} (kh : Keeps kb k0 s) (f : Nat) (r : Nat) (c :
    Running) :
    Keeps kb k0 (State.combineRemote s f r c) := by
  unfold State.combineRemote
  try simp (maxDischargeDepth := 60) [kh]
  repeat' (with_reducible first | assumption | intro _ | apply And.intro | apply State.finishAcked_keeps | apply State.stopped_keeps | apply sendPartial_keeps | apply keeps_exec | apply Keeps.refl | split)
  all_goals simp (maxDischargeDepth := 60) [kh]

@[simp] theorem State.combine_keeps {kb : Bool} {k0 s : State} (kh : Keeps kb k0 s) (f : Nat) (r : Nat) (c : Running)
    :
    Keeps kb k0 (State.combine s f r c) := by
  unfold State.combine
  try simp (maxDischargeDepth := 60) [kh]
  repeat' (with_reducible first | assumption | intro _ | apply And.intro | apply State.combineRemote_keeps | apply State.enterTag_keeps | apply State.fail_keeps | apply State.stopped_keeps | apply Keeps.refl | split)
  all_goals simp (maxDischargeDepth := 60) [kh]

@[simp] theorem execCombine_keeps {kb : Bool} {k0 s : State} (kh : Keeps kb k0 s) (f : FnId) (r : RingIx) :
    OutKeeps kb k0 (execCombine f r s) := by
  unfold execCombine; simp (maxDischargeDepth := 60) [kh]

@[simp] theorem State.chunkArrive_keeps {kb : Bool} {k0 s : State} (kh : Keeps kb k0 s) (f r : Nat) :
    Keeps kb k0 (State.chunkArrive s f r) := by
  unfold State.chunkArrive
  split
  · exact kh
  · rename_i c _
    split
    · rename_i q _
      dsimp only
      split
      · exact kh
      · generalize hy : Run.exec _ s = y
        have hx : Keeps kb k0 y.2.s := by rw [← hy]; simp (maxDischargeDepth := 60) [kh]
        split
        · simp (maxDischargeDepth := 60) [hx]
        · split
          · simp (maxDischargeDepth := 60) [hx]
          · split
            · rename_i u hu
              have h3 : OptKeeps kb k0 (some u) := by
                rw [← hu]
                simp (maxDischargeDepth := 60) [hx]
              exact h3
            · simp (maxDischargeDepth := 60) [hx]
    · exact kh

@[simp] theorem execChunkArrive_keeps {kb : Bool} {k0 s : State} (kh : Keeps kb k0 s) (f : FnId) (r : RingIx) :
    OutKeeps kb k0 (execChunkArrive f r s) := by
  unfold execChunkArrive; simp (maxDischargeDepth := 60) [kh]

@[simp] theorem State.retryTag_keeps {kb : Bool} {k0 s : State} (kh : Keeps kb k0 s) (f : Nat) (r : Nat) (c : Running)
    :
    Keeps kb k0 (State.retryTag s f r c) := by
  unfold State.retryTag; simp (maxDischargeDepth := 60) [kh]

@[simp] theorem State.combineExpiry_keeps {kb : Bool} {k0 s : State} (kh : Keeps kb k0 s) (p : Nat) (t : Nat) :
    Keeps kb k0 (State.combineExpiry s p t) := by
  unfold State.combineExpiry; simp (maxDischargeDepth := 60) [kh]

@[simp] theorem execCombineTimeoutExpiry_keeps {kb : Bool} {k0 s : State} (kh : Keeps kb k0 s) (p : PartId) (tag :
    BitVec 16) :
    OutKeeps kb k0 (execCombineTimeoutExpiry p tag s) := by
  unfold execCombineTimeoutExpiry; simp (maxDischargeDepth := 60) [kh]

@[simp] theorem State.freeBroken_keeps {kb : Bool} {k0 s : State} (kh : Keeps kb k0 s) (p : Nat) (t : Nat) :
    Keeps kb k0 (State.freeBroken s p t) := by
  unfold State.freeBroken; simp (maxDischargeDepth := 60) [kh]

@[simp] theorem execTagFreeTimeout_keeps {kb : Bool} {k0 s : State} (kh : Keeps kb k0 s) (p : PartId) (tag : BitVec
    16) :
    OutKeeps kb k0 (execTagFreeTimeout p tag s) := by
  unfold execTagFreeTimeout; simp (maxDischargeDepth := 60) [kh]

end Sys2Proof.Machine
end

