-- ==== Sys2Proof/Laws/KeepsCollective.lean ====
section
/-! SUPPORT. What the operations of Machine/Collective.lean keep (Laws/Keeps.lean): the queue, both memories' canonical form and,
for every `kb`, the part of the state that ring commands, engines and links never change. -/
namespace Sys2Proof.Machine

@[simp] theorem State.emitRing_keeps {kb : Bool} {k0 s : State} (kh : Keeps kb k0 s) (k : Collective) (op : Nat) (o :
    Nat) (bs : List Byte) :
    Keeps kb k0 (State.emitRing s k op o bs) := by
  unfold State.emitRing; simp (maxDischargeDepth := 60) [kh]

@[simp] theorem Collective.source_keeps {kb : Bool} (k : Collective) (f : Nat) (o : Nat) (n : Nat) :
    RunKeeps kb (Collective.source k f o n) := by
  unfold Collective.source; simp (maxDischargeDepth := 60)

@[simp] theorem Collective.put_keeps {kb : Bool} (k : Collective) (f : Nat) (parts : List (Nat × List Byte)) :
    RunKeeps kb (Collective.put k f parts) := by
  unfold Collective.put; simp (maxDischargeDepth := 60)

@[simp] theorem Collective.final_keeps {kb : Bool} (k : Collective) (f : Nat) (o : Nat) (bs : List Byte) :
    RunKeeps kb (Collective.final k f o bs) := by
  unfold Collective.final; simp (maxDischargeDepth := 60)

@[simp] theorem Collective.begin__keeps {kb : Bool} (k : Collective) (f : Nat) (l : List (Nat × Nat)) :
    RunKeeps kb (k.begin_ f l) := by
  induction l generalizing k with
  | nil => simp [Collective.begin_]
  | cons x l ih =>
    unfold Collective.begin_
    simp (maxDischargeDepth := 60) [ih]


@[simp] theorem Collective.take_keeps {kb : Bool} (k : Collective) (f : Nat) (p : Packet) :
    RunKeeps kb (Collective.take k f p) := by
  unfold Collective.take; simp (maxDischargeDepth := 60)

@[simp] theorem State.deadTag_keeps {kb : Bool} {k0 s : State} (kh : Keeps kb k0 s) (t : BitVec 16) :
    Keeps kb k0 (State.deadTag s t) := by
  unfold State.deadTag; simp (maxDischargeDepth := 60) [kh]

@[simp] theorem Collective.collected_keeps {kb : Bool} {k0 : State} (f r : Nat) (k : Collective)
    (x : Except Stop Collective × Eng) (hx : Keeps kb k0 x.2.s) : Keeps kb k0 (k.collected f r x) := by
  obtain ⟨y, e⟩ := x
  unfold Collective.collected
  dsimp only at hx ⊢
  split
  · simp (maxDischargeDepth := 60) [hx]
  · split
    · simp (maxDischargeDepth := 60) [hx]
    · split <;> simp (maxDischargeDepth := 60) [hx]


@[simp] theorem State.startCollective_keeps {kb : Bool} {k0 s : State} (kh : Keeps kb k0 s) (f : Nat) (r : Nat) (c :
    Running) :
    Keeps kb k0 (State.startCollective s f r c) := by
  unfold State.startCollective; simp (maxDischargeDepth := 60) [kh]

@[simp] theorem execAllGather_keeps {kb : Bool} {k0 s : State} (kh : Keeps kb k0 s) (f : FnId) (r : RingIx) :
    OutKeeps kb k0 (execAllGather f r s) := by
  unfold execAllGather; simp (maxDischargeDepth := 60) [kh]

@[simp] theorem execAllReduce_keeps {kb : Bool} {k0 s : State} (kh : Keeps kb k0 s) (f : FnId) (r : RingIx) :
    OutKeeps kb k0 (execAllReduce f r s) := by
  unfold execAllReduce; simp (maxDischargeDepth := 60) [kh]

@[simp] theorem execReduceScatter_keeps {kb : Bool} {k0 s : State} (kh : Keeps kb k0 s) (f : FnId) (r : RingIx) :
    OutKeeps kb k0 (execReduceScatter f r s) := by
  unfold execReduceScatter; simp (maxDischargeDepth := 60) [kh]

@[simp] theorem State.tagGranted_keeps {kb : Bool} {k0 s : State} (kh : Keeps kb k0 s) (f : Nat) (r : Nat) :
    Keeps kb k0 (State.tagGranted s f r) := by
  unfold State.tagGranted
  try simp (maxDischargeDepth := 60) [kh]
  repeat' (with_reducible first | assumption | intro _ | apply And.intro | apply State.retryTag_keeps | apply State.startCollective_keeps | apply Keeps.refl | split)
  all_goals simp (maxDischargeDepth := 60) [kh]

@[simp] theorem execCombineTagGranted_keeps {kb : Bool} {k0 s : State} (kh : Keeps kb k0 s) (f : FnId) (r : RingIx) :
    OutKeeps kb k0 (execCombineTagGranted f r s) := by
  unfold execCombineTagGranted; simp (maxDischargeDepth := 60) [kh]

@[simp] theorem State.ringPacket_keeps {kb : Bool} {k0 s : State} (kh : Keeps kb k0 s) (p : Packet) :
    OptKeeps kb k0 (State.ringPacket s p) := by
  unfold State.ringPacket
  try simp (maxDischargeDepth := 60) [kh]
  repeat' (with_reducible first | assumption | intro _ | apply And.intro | apply Collective.collected_keeps | apply Collective.take_keeps | apply State.deadTag_keeps | apply State.finish_keeps | apply keeps_exec | apply Keeps.refl | split)
  all_goals simp (maxDischargeDepth := 60) [kh]

@[simp] theorem State.ringExpiry_keeps {kb : Bool} {k0 s : State} (kh : Keeps kb k0 s) (f : Nat) (r : Nat) :
    Keeps kb k0 (State.ringExpiry s f r) := by
  unfold State.ringExpiry
  try simp (maxDischargeDepth := 60) [kh]
  repeat' (with_reducible first | assumption | intro _ | apply And.intro | apply State.deadTag_keeps | apply State.finish_keeps | apply Keeps.refl | split)
  all_goals simp (maxDischargeDepth := 60) [kh]

@[simp] theorem execRingTimeout_keeps {kb : Bool} {k0 s : State} (kh : Keeps kb k0 s) (f : FnId) (r : RingIx) :
    OutKeeps kb k0 (execRingTimeout f r s) := by
  unfold execRingTimeout; simp (maxDischargeDepth := 60) [kh]

end Sys2Proof.Machine
end

