-- ==== Sys2Proof/Laws/KeepsRunner.lean ====
section
/-! SUPPORT. What the operations of Machine/Runner.lean keep (Laws/Keeps.lean): the queue, both memories' canonical form and,
for every `kb`, the part of the state that ring commands, engines and links never change. -/
namespace Sys2Proof.Machine

@[simp] theorem Site.operand_keeps {kb : Bool} (x : Site) (fmt : BitVec 8) (e : Elem) :
    RunKeeps kb (Site.operand x fmt e) := by
  unfold Site.operand
  try simp (maxDischargeDepth := 60)
  repeat' (with_reducible first | assumption | intro _ | apply And.intro | exact runKeeps_getS | exact runKeeps_get | apply runKeeps_withFlags | apply runKeeps_pure | apply runKeeps_halt | apply runKeeps_throw | apply binElem_keeps | apply binRead_keeps | apply runKeeps_bind | split)
  all_goals simp (maxDischargeDepth := 60)

@[simp] theorem Site.rowA_keeps {kb : Bool} (x : Site) (l : Layer) (b : Body) (buf : Nat) (ks : List Nat) (r : Nat) :
    RunKeeps kb (Site.rowA x l b buf ks r) := by
  unfold Site.rowA
  try simp (maxDischargeDepth := 60)
  repeat' (with_reducible first | assumption | intro _ | apply And.intro | exact runKeeps_getS | exact runKeeps_get | apply runKeeps_withFlags | apply runKeeps_pure | apply runKeeps_halt | apply runKeeps_throw | apply Site.operand_keeps | apply runKeeps_mapM | apply runKeeps_bind | split)
  all_goals simp (maxDischargeDepth := 60)

@[simp] theorem Site.colB_keeps {kb : Bool} (x : Site) (l : Layer) (buf : Nat) (ks : List Nat) (c : Nat) :
    RunKeeps kb (Site.colB x l buf ks c) := by
  unfold Site.colB; simp (maxDischargeDepth := 60)

@[simp] theorem Site.initial_keeps {kb : Bool} (x : Site) (l : Layer) (buf : Nat) (m : Nat) (n : Nat) :
    RunKeeps kb (Site.initial x l buf m n) := by
  unfold Site.initial; simp (maxDischargeDepth := 60)

@[simp] theorem Site.entry_keeps {kb : Bool} (x : Site) (rd : Nat → Nat → Run Word32) (hr : ∀ p a, RunKeeps kb (rd p a))
    (l : Layer) (g : Group) (slot abs m n : Nat) : RunKeeps kb (Site.entry x rd l g slot abs m n) := by
  unfold Site.entry; simp (maxDischargeDepth := 60) [hr]

@[simp] theorem Site.enter_keeps {kb : Bool} (x : Site) (rd : Nat → Nat → Run Word32) (hr : ∀ p a, RunKeeps kb (rd p a))
    (l : Layer) (g : Group) (slot abs m n : Nat) (as bs : List Num) : RunKeeps kb (Site.enter x rd l g slot abs m n as bs) := by
  unfold Site.enter; simp (maxDischargeDepth := 60) [hr]

@[simp] theorem Site.pass_keeps {kb : Bool} (x : Site) (c : SetCtx) (l : Layer) (b : Body) (g : Group) (rows cols : List Nat) :
    RunKeeps kb (Site.pass x c l b g rows cols) := by
  have hr (q : Prop) [Decidable q] : ∀ p a, RunKeeps kb ((if q then accForward else accRead) p a) := by
    by_cases h : q <;> simp [h]
  unfold Site.pass
  refine runKeeps_bind (accSlot_keeps _ _ _ _) (fun abs => runKeeps_getS_bind (fun e => ?_))
  refine runKeeps_bind (runKeeps_mapM (fun _ => Site.rowA_keeps _ _ _ _ _ _) _) (fun as => ?_) e
  refine runKeeps_bind (runKeeps_mapM (fun _ => Site.colB_keeps _ _ _ _ _) _) (fun bs => ?_)
  refine runKeeps_bind (runKeeps_forM' (fun ra => runKeeps_forM' (fun cb => ?_) _) _) (fun _ => ?_)
  · exact Site.enter_keeps x _ (hr _) l g _ abs ra.1 cb.1 ra.2 cb.2
  · exact runKeeps_modS (fun u => State.modStone_keeps (Keeps.refl kb u) _ _)

@[simp] theorem State.checkerMismatch_keeps {kb : Bool} {k0 s : State} (kh : Keeps kb k0 s) (p : Nat) :
    Keeps kb k0 (State.checkerMismatch s p) := by
  unfold State.checkerMismatch; simp (maxDischargeDepth := 60) [kh]

@[simp] theorem State.afterPass_keeps {kb : Bool} {k0 s : State} (kh : Keeps kb k0 s) (p : Nat) (i : Nat) (t :
    LoopTable) :
    Keeps kb k0 (State.afterPass s p i t) := by
  unfold State.afterPass
  try simp (maxDischargeDepth := 60) [kh]
  repeat' (with_reducible first | assumption | intro _ | apply And.intro | apply State.modStone_keeps | apply State.nextOrder_keeps | apply State.putCtx_keeps | apply State.walkOn_keeps | apply Keeps.refl | split)
  all_goals simp (maxDischargeDepth := 60) [kh]

@[simp] theorem State.doPass_keeps {kb : Bool} {k0 s : State} (kh : Keeps kb k0 s) (p : Nat) (i : Nat) (t : LoopTable)
    (mismatch : Bool) :
    Keeps kb k0 (State.doPass s p i t mismatch) := by
  unfold State.doPass; simp (maxDischargeDepth := 60) [kh]

@[simp] theorem State.passIssue_keeps {kb : Bool} {k0 s : State} (kh : Keeps kb k0 s) (p : Nat) (mismatch : Bool) :
    Keeps kb k0 (State.passIssue s p mismatch) := by
  unfold State.passIssue
  try simp (maxDischargeDepth := 60) [kh]
  repeat' (with_reducible first | assumption | intro _ | apply And.intro | apply State.beginNext_keeps | apply State.checkerMismatch_keeps | apply State.doPass_keeps | apply State.modStone_keeps | apply State.tick_keeps | apply State.walkOn_keeps | apply Keeps.refl | split)
  all_goals simp (maxDischargeDepth := 60) [kh]

@[simp] theorem execPassIssue_keeps {kb : Bool} {k0 s : State} (kh : Keeps kb k0 s) (p : StoneP) (mismatch : Bool) :
    OutKeeps kb k0 (execPassIssue p mismatch s) := by
  unfold execPassIssue; simp (maxDischargeDepth := 60) [kh]

@[simp] theorem State.dummyPass_keeps {kb : Bool} {k0 s : State} (kh : Keeps kb k0 s) (p : Nat) (mismatch : Bool) :
    Keeps kb k0 (State.dummyPass s p mismatch) := by
  unfold State.dummyPass; simp (maxDischargeDepth := 60) [kh]

@[simp] theorem execDummyPass_keeps {kb : Bool} {k0 s : State} (kh : Keeps kb k0 s) (p : StoneP) (mismatch : Bool) :
    OutKeeps kb k0 (execDummyPass p mismatch s) := by
  unfold execDummyPass; simp (maxDischargeDepth := 60) [kh]

@[simp] theorem State.nextTile_keeps {kb : Bool} {k0 s : State} (kh : Keeps kb k0 s) (p : Nat) (i : Nat) :
    Keeps kb k0 (State.nextTile s p i) := by
  unfold State.nextTile; simp (maxDischargeDepth := 60) [kh]

@[simp] theorem execTileReady_keeps {kb : Bool} {k0 s : State} (kh : Keeps kb k0 s) (p : StoneP) (i : SetIx) :
    OutKeeps kb k0 (execTileReady p i s) := by
  unfold execTileReady; simp (maxDischargeDepth := 60) [kh]

@[simp] theorem State.switchSet_keeps {kb : Bool} {k0 s : State} (kh : Keeps kb k0 s) (p : Nat) :
    Keeps kb k0 (State.switchSet s p) := by
  unfold State.switchSet
  try simp (maxDischargeDepth := 60) [kh]
  repeat' (with_reducible first | assumption | intro _ | apply And.intro | apply State.modCtx_keeps | apply State.modStone_keeps | apply State.nextOrder_keeps | apply State.putCtx_keeps | apply State.stopDue_keeps | apply Keeps.refl | split)
  all_goals simp (maxDischargeDepth := 60) [kh]

@[simp] theorem execSetSwitch_keeps {kb : Bool} {k0 s : State} (kh : Keeps kb k0 s) (p : StoneP) :
    OutKeeps kb k0 (execSetSwitch p s) := by
  unfold execSetSwitch; simp (maxDischargeDepth := 60) [kh]

@[simp] theorem State.switchInDone_keeps {kb : Bool} {k0 s : State} (kh : Keeps kb k0 s) (p : Nat) :
    Keeps kb k0 (State.switchInDone s p) := by
  unfold State.switchInDone
  try simp (maxDischargeDepth := 60) [kh]
  repeat' (with_reducible first | assumption | intro _ | apply And.intro | apply State.setStone_keeps | apply State.walkOn_keeps | apply State.work_keeps | apply meetCtx_keeps | apply Keeps.refl | split)
  all_goals simp (maxDischargeDepth := 60) [kh]

@[simp] theorem execSwitchInDone_keeps {kb : Bool} {k0 s : State} (kh : Keeps kb k0 s) (p : StoneP) :
    OutKeeps kb k0 (execSwitchInDone p s) := by
  unfold execSwitchInDone; simp (maxDischargeDepth := 60) [kh]

@[simp] theorem State.schedWindow_keeps {kb : Bool} {k0 s : State} (kh : Keeps kb k0 s) (p : Nat) :
    Keeps kb k0 (State.schedWindow s p) := by
  unfold State.schedWindow; simp (maxDischargeDepth := 60) [kh]

@[simp] theorem execSchedWindow_keeps {kb : Bool} {k0 s : State} (kh : Keeps kb k0 s) (p : StoneP) :
    OutKeeps kb k0 (execSchedWindow p s) := by
  unfold execSchedWindow; simp (maxDischargeDepth := 60) [kh]

@[simp] theorem State.allotmentEnds_keeps {kb : Bool} {k0 s : State} (kh : Keeps kb k0 s) (p : Nat) :
    Keeps kb k0 (State.allotmentEnds s p) := by
  unfold State.allotmentEnds
  try simp (maxDischargeDepth := 60) [kh]
  repeat' (with_reducible first | assumption | intro _ | apply And.intro | apply State.setStone_keeps | apply Keeps.refl | split)
  all_goals simp (maxDischargeDepth := 60) [kh]

@[simp] theorem execAllotmentExpiry_keeps {kb : Bool} {k0 s : State} (kh : Keeps kb k0 s) (p : StoneP) :
    OutKeeps kb k0 (execAllotmentExpiry p s) := by
  unfold execAllotmentExpiry; simp (maxDischargeDepth := 60) [kh]

end Sys2Proof.Machine
end

