-- ==== Sys2Proof/Laws/KeepsReadout.lean ====
section
/-! SUPPORT. What the operations of Machine/Readout.lean keep (Laws/Keeps.lean): the queue, both memories' canonical form and,
for every `kb`, the part of the state that ring commands, engines and links never change. -/
namespace Sys2Proof.Machine

@[simp] theorem stoneWrite_keeps {kb : Bool} (p : Nat) (f : Nat) (va : Nat) (bs : List Byte) :
    RunKeeps kb (stoneWrite p f va bs) := by
  unfold stoneWrite; simp (maxDischargeDepth := 60)

@[simp] theorem stoneRead_keeps {kb : Bool} (p : Nat) (f : Nat) (va : Nat) (n : Nat) :
    RunKeeps kb (stoneRead p f va n) := by
  unfold stoneRead; simp (maxDischargeDepth := 60)

@[simp] theorem putRun_keeps {kb : Bool} (rd : Nat → Nat → Run (List Byte)) (wr : Nat → List Byte → Run Unit) (bits : Nat)
    (x : RowRun) (hr : ∀ a n, RunKeeps kb (rd a n)) (hw : ∀ a d, RunKeeps kb (wr a d)) : RunKeeps kb (putRun rd wr bits x) := by
  unfold putRun
  simp (maxDischargeDepth := 60) [hr, hw]


@[simp] theorem memRun_keeps {kb : Bool} (p : Nat) (f : Nat) (bits : Nat) (x : RowRun) :
    RunKeeps kb (memRun p f bits x) := by
  unfold memRun; simp (maxDischargeDepth := 60)

@[simp] theorem Site.binRun_keeps {kb : Bool} (x : Site) (bits : Nat) (r : RowRun) :
    RunKeeps kb (Site.binRun x bits r) := by
  unfold Site.binRun; simp (maxDischargeDepth := 60)

@[simp] theorem Drain.entry_keeps {kb : Bool} (d : Drain) (r : Nat) (n : Nat) :
    RunKeeps kb (Drain.entry d r n) := by
  unfold Drain.entry; simp (maxDischargeDepth := 60)

@[simp] theorem Site.word_keeps {kb : Bool} (x : Site) (off : Nat) :
    RunKeeps kb (Site.word x off) := by
  unfold Site.word; simp (maxDischargeDepth := 60)

@[simp] theorem Site.scaleOf_keeps {kb : Bool} (x : Site) (r : ReadoutRec) (col : Nat) :
    RunKeeps kb (Site.scaleOf x r col) := by
  unfold Site.scaleOf; simp (maxDischargeDepth := 60)

@[simp] theorem Drain.residual_keeps {kb : Bool} (d : Drain) (q : ReadoutRec) (r : Nat) (n : Nat) :
    RunKeeps kb (Drain.residual d q r n) := by
  unfold Drain.residual; simp (maxDischargeDepth := 60)

@[simp] theorem Drain.value_keeps {kb : Bool} (d : Drain) (r : Nat) (n : Nat) (old : Nat) :
    RunKeeps kb (Drain.value d r n old) := by
  unfold Drain.value
  try simp (maxDischargeDepth := 60)
  repeat' (with_reducible first | assumption | intro _ | apply And.intro | exact runKeeps_getS | exact runKeeps_get | apply runKeeps_withFlags | apply runKeeps_pure | apply runKeeps_halt | apply runKeeps_throw | apply Drain.entry_keeps | apply Drain.residual_keeps | apply Site.entry_keeps | apply Site.scaleOf_keeps | apply runKeeps_bind | split)
  all_goals simp (maxDischargeDepth := 60)

@[simp] theorem Drain.write_keeps {kb : Bool} (d : Drain) (x : RowRun) :
    RunKeeps kb (Drain.write d x) := by
  unfold Drain.write; simp (maxDischargeDepth := 60)

@[simp] theorem Drain.olds_keeps {kb : Bool} (d : Drain) (row : Nat) (j : Nat) (n : Nat) :
    RunKeeps kb (Drain.olds d row j n) := by
  unfold Drain.olds; simp (maxDischargeDepth := 60)

@[simp] theorem Drain.run_keeps {kb : Bool} (d : Drain) (entries : List (Nat × Nat)) :
    RunKeeps kb (Drain.run d entries) := by
  unfold Drain.run
  try simp (maxDischargeDepth := 60)
  repeat' (with_reducible first | assumption | intro _ | apply And.intro | exact runKeeps_getS | exact runKeeps_get | apply runKeeps_withFlags | apply runKeeps_pure | apply runKeeps_halt | apply runKeeps_throw | apply Drain.olds_keeps | apply Drain.value_keeps | apply Drain.write_keeps | apply binWrite_keeps | apply stoneWrite_keeps | apply runKeeps_mapM | apply runKeeps_bind | split)
  all_goals simp (maxDischargeDepth := 60)

@[simp] theorem Drain.slotOut_keeps {kb : Bool} (d : Drain) (x : Nat × Nat) :
    RunKeeps kb (Drain.slotOut d x) := by
  unfold Drain.slotOut; simp (maxDischargeDepth := 60)

@[simp] theorem Drain.all_keeps {kb : Bool} (d : Drain) :
    RunKeeps kb (Drain.all d) := by
  unfold Drain.all; simp (maxDischargeDepth := 60)

@[simp] theorem State.settlePhase_keeps {kb : Bool} {k0 s : State} (kh : Keeps kb k0 s) (p : Nat) (i : Nat) :
    Keeps kb k0 (State.settlePhase s p i) := by
  unfold State.settlePhase; simp (maxDischargeDepth := 60) [kh]

@[simp] theorem State.readout_keeps {kb : Bool} {k0 s : State} (kh : Keeps kb k0 s) (p : Nat) :
    Keeps kb k0 (State.readout s p) := by
  unfold State.readout
  try simp (maxDischargeDepth := 60) [kh]
  repeat' (with_reducible first | assumption | intro _ | apply And.intro | apply Drain.all_keeps | apply State.modCtx_keeps | apply State.settlePhase_keeps | apply State.walkOn_keeps | apply State.work_keeps | apply meetTable_keeps | apply Keeps.refl | split)
  all_goals simp (maxDischargeDepth := 60) [kh]

@[simp] theorem execVaneReadout_keeps {kb : Bool} {k0 s : State} (kh : Keeps kb k0 s) (p : StoneP) :
    OutKeeps kb k0 (execVaneReadout p s) := by
  unfold execVaneReadout; simp (maxDischargeDepth := 60) [kh]

end Sys2Proof.Machine
end

