-- ==== Sys2Proof/Laws/KeepsVaneOps.lean ====
section
/-! SUPPORT. What the operations of Machine/VaneOps.lean keep (Laws/Keeps.lean): the queue, both memories' canonical form and,
for every `kb`, the part of the state that ring commands, engines and links never change. -/
namespace Sys2Proof.Machine

@[simp] theorem VaneJob.binWord_keeps {kb : Bool} (v : VaneJob) (fmt : BitVec 8) (off : Nat) :
    RunKeeps kb (VaneJob.binWord v fmt off) := by
  unfold VaneJob.binWord; simp (maxDischargeDepth := 60)

@[simp] theorem VaneJob.src_keeps {kb : Bool} (v : VaneJob) (off : Nat) (n : Nat) :
    RunKeeps kb (VaneJob.src v off n) := by
  unfold VaneJob.src; simp (maxDischargeDepth := 60)

@[simp] theorem VaneJob.elem_keeps {kb : Bool} (v : VaneJob) (off : Nat) :
    RunKeeps kb (VaneJob.elem v off) := by
  unfold VaneJob.elem; simp (maxDischargeDepth := 60)

@[simp] theorem VaneJob.elems_keeps {kb : Bool} (v : VaneJob) (off : Nat) (n : Nat) :
    RunKeeps kb (VaneJob.elems v off n) := by
  unfold VaneJob.elems; simp (maxDischargeDepth := 60)

@[simp] theorem VaneJob.finish_keeps {kb : Bool} (v : VaneJob) (col : Nat) (y : Lane) :
    RunKeeps kb (VaneJob.finish v col y) := by
  unfold VaneJob.finish
  try simp (maxDischargeDepth := 60)
  repeat' (with_reducible first | assumption | intro _ | apply And.intro | exact runKeeps_getS | exact runKeeps_get | apply runKeeps_withFlags | apply runKeeps_pure | apply runKeeps_halt | apply runKeeps_throw | apply Site.scaleOf_keeps | apply runKeeps_bind | split)
  all_goals simp (maxDischargeDepth := 60)

@[simp] theorem VaneJob.put_keeps {kb : Bool} (v : VaneJob) (row : Nat) (j : Nat) (len : Nat) (at_ : Nat → Origin) (ys
    : List Lane) :
    RunKeeps kb (VaneJob.put v row j len at_ ys) := by
  unfold VaneJob.put; simp (maxDischargeDepth := 60)

@[simp] theorem VaneJob.pixel_keeps {kb : Bool} (v : VaneJob) (g : Nat) (n : Nat) (oy : Nat) (ox : Nat) :
    RunKeeps kb (VaneJob.pixel v g n oy ox) := by
  unfold VaneJob.pixel; simp (maxDischargeDepth := 60)

@[simp] theorem VaneJob.dwconv_keeps {kb : Bool} (v : VaneJob) (u : Nat) :
    RunKeeps kb (VaneJob.dwconv v u) := by
  unfold VaneJob.dwconv; simp (maxDischargeDepth := 60)

@[simp] theorem VaneJob.corner_keeps {kb : Bool} (v : VaneJob) (base : Nat) (y : Int) (x : Int) :
    RunKeeps kb (VaneJob.corner v base y x) := by
  unfold VaneJob.corner; simp (maxDischargeDepth := 60)

@[simp] theorem VaneJob.sample_keeps {kb : Bool} (v : VaneJob) (base : Nat) (sy : Num) (sx : Num) :
    RunKeeps kb (VaneJob.sample v base sy sx) := by
  unfold VaneJob.sample; simp (maxDischargeDepth := 60)

@[simp] theorem VaneJob.crop_keeps {kb : Bool} (v : VaneJob) (u : Nat) :
    RunKeeps kb (VaneJob.crop v u) := by
  unfold VaneJob.crop; simp (maxDischargeDepth := 60)

@[simp] theorem VaneJob.soft_keeps {kb : Bool} (v : VaneJob) (u : Nat) :
    RunKeeps kb (VaneJob.soft v u) := by
  unfold VaneJob.soft; simp (maxDischargeDepth := 60)

@[simp] theorem VaneJob.domain_keeps {kb : Bool} (v : VaneJob) (r : Nat) :
    RunKeeps kb (VaneJob.domain v r) := by
  unfold VaneJob.domain; simp (maxDischargeDepth := 60)

@[simp] theorem VaneJob.stats_keeps {kb : Bool} (v : VaneJob) (u : Nat) :
    RunKeeps kb (VaneJob.stats v u) := by
  unfold VaneJob.stats; simp (maxDischargeDepth := 60)

@[simp] theorem VaneJob.gammaBeta_keeps {kb : Bool} (v : VaneJob) (r : Nat) (j : Nat) :
    RunKeeps kb (VaneJob.gammaBeta v r j) := by
  unfold VaneJob.gammaBeta; simp (maxDischargeDepth := 60)

@[simp] theorem VaneJob.norm1_keeps {kb : Bool} (v : VaneJob) (r : Nat) (j : Nat) (x : Word32) :
    RunKeeps kb (VaneJob.norm1 v r j x) := by
  unfold VaneJob.norm1; simp (maxDischargeDepth := 60)

@[simp] theorem VaneJob.norm_keeps {kb : Bool} (v : VaneJob) (u : Nat) :
    RunKeeps kb (VaneJob.norm v u) := by
  unfold VaneJob.norm; simp (maxDischargeDepth := 60)

@[simp] theorem VaneJob.unit_keeps {kb : Bool} (v : VaneJob) (u : Nat) :
    RunKeeps kb (VaneJob.unit v u) := by
  unfold VaneJob.unit
  try simp (maxDischargeDepth := 60)
  repeat' (with_reducible first | assumption | intro _ | apply And.intro | exact runKeeps_getS | exact runKeeps_get | apply runKeeps_withFlags | apply runKeeps_pure | apply runKeeps_halt | apply runKeeps_throw | apply VaneJob.crop_keeps | apply VaneJob.dwconv_keeps | apply VaneJob.norm_keeps | apply VaneJob.soft_keeps | apply VaneJob.stats_keeps | apply runKeeps_bind | split)
  all_goals simp (maxDischargeDepth := 60)

@[simp] theorem State.vaneUnit_keeps {kb : Bool} {k0 s : State} (kh : Keeps kb k0 s) (p : Nat) :
    Keeps kb k0 (State.vaneUnit s p) := by
  unfold State.vaneUnit
  try simp (maxDischargeDepth := 60) [kh]
  repeat' (with_reducible first | assumption | intro _ | apply And.intro | apply State.modCtx_keeps | apply State.modStone_keeps | apply State.setPort_keeps | apply State.settlePhase_keeps | apply State.work_keeps | apply VaneJob.unit_keeps | apply meetTable_keeps | apply keeps_foldl | apply Keeps.refl | split)
  all_goals simp (maxDischargeDepth := 60) [kh]

@[simp] theorem execVaneOpUnit_keeps {kb : Bool} {k0 s : State} (kh : Keeps kb k0 s) (p : StoneP) :
    OutKeeps kb k0 (execVaneOpUnit p s) := by
  unfold execVaneOpUnit; simp (maxDischargeDepth := 60) [kh]

end Sys2Proof.Machine
end

