-- ==== Sys2Proof/Laws/KeepsStages.lean ====
section
/-! SUPPORT. What the operations of Machine/Stages.lean keep (Laws/Keeps.lean): the queue, both memories' canonical form and,
for every `kb`, the part of the state that ring commands, engines and links never change. -/
namespace Sys2Proof.Machine

@[simp] theorem chuteRead_keeps {kb : Bool} (a : Acc) (transposed : Bool) (va : Nat) (n : Nat) :
    RunKeeps kb (chuteRead a transposed va n) := by
  unfold chuteRead; simp (maxDischargeDepth := 60)

@[simp] theorem FillRec.fetch_keeps {kb : Bool} (x : FillRec) (a : Acc) (p : Nat) (i : Nat) (half : Bool) :
    RunKeeps kb (FillRec.fetch x a p i half) := by
  unfold FillRec.fetch; simp (maxDischargeDepth := 60)

@[simp] theorem State.chuteFill_keeps {kb : Bool} {k0 s : State} (kh : Keeps kb k0 s) (p : Nat) (i : Nat) :
    Keeps kb k0 (State.chuteFill s p i) := by
  unfold State.chuteFill; simp (maxDischargeDepth := 60) [kh]

@[simp] theorem execChuteFillDone_keeps {kb : Bool} {k0 s : State} (kh : Keeps kb k0 s) (p : StoneP) (i : SetIx) :
    OutKeeps kb k0 (execChuteFillDone p i s) := by
  unfold execChuteFillDone; simp (maxDischargeDepth := 60) [kh]

@[simp] theorem State.phaseStart_keeps {kb : Bool} {k0 s : State} (kh : Keeps kb k0 s) (p : Nat) (i : Nat) :
    Keeps kb k0 (State.phaseStart s p i) := by
  unfold State.phaseStart; simp (maxDischargeDepth := 60) [kh]

@[simp] theorem execPhaseStart_keeps {kb : Bool} {k0 s : State} (kh : Keeps kb k0 s) (p : StoneP) (i : SetIx) :
    OutKeeps kb k0 (execPhaseStart p i s) := by
  unfold execPhaseStart; simp (maxDischargeDepth := 60) [kh]

@[simp] theorem Landing.land_keeps {kb : Bool} (x : Landing) (p : Nat) (i : Nat) (seg : Segment) :
    RunKeeps kb (Landing.land x p i seg) := by
  unfold Landing.land
  try simp (maxDischargeDepth := 60)
  repeat' (with_reducible first | assumption | intro _ | apply And.intro | exact runKeeps_getS | exact runKeeps_get | apply runKeeps_withFlags | apply runKeeps_pure | apply runKeeps_halt | apply runKeeps_throw | apply VaneJob.elem_keeps | apply VaneJob.elems_keeps | apply binPutElem_keeps | apply binWrite_keeps | apply runKeeps_forM' | apply runKeeps_forM | apply runKeeps_bind | split)
  all_goals simp (maxDischargeDepth := 60)

@[simp] theorem State.moveSegment_keeps {kb : Bool} {k0 s : State} (kh : Keeps kb k0 s) (p : Nat) (i : Nat) (n : Nat)
    :
    Keeps kb k0 (State.moveSegment s p i n) := by
  unfold State.moveSegment
  try simp (maxDischargeDepth := 60) [kh]
  repeat' (with_reducible first | assumption | intro _ | apply And.intro | apply Landing.land_keeps | apply State.modCtx_keeps | apply State.staleWrite_keeps | apply State.walkOn_keeps | apply State.work_keeps | apply meetSegment_keeps | apply Keeps.refl | split)
  all_goals simp (maxDischargeDepth := 60) [kh]

@[simp] theorem execSpoutSegmentMove_keeps {kb : Bool} {k0 s : State} (kh : Keeps kb k0 s) (p : StoneP) (i : SetIx)
    (spout : Fin 4) :
    OutKeeps kb k0 (execSpoutSegmentMove p i spout s) := by
  unfold execSpoutSegmentMove; simp (maxDischargeDepth := 60) [kh]

@[simp] theorem Inlet.fetch_keeps {kb : Bool} (q : Inlet) (c : SetCtx) (a : Acc) (p : Nat) (i : Nat) :
    RunKeeps kb (Inlet.fetch q c a p i) := by
  unfold Inlet.fetch; simp (maxDischargeDepth := 60)

@[simp] theorem State.inletRead_keeps {kb : Bool} {k0 s : State} (kh : Keeps kb k0 s) (p : Nat) (i : Nat) (n : Nat) :
    Keeps kb k0 (State.inletRead s p i n) := by
  unfold State.inletRead
  try simp (maxDischargeDepth := 60) [kh]
  repeat' (with_reducible first | assumption | intro _ | apply And.intro | apply FillRec.fetch_keeps | apply Inlet.fetch_keeps | apply State.fetch_keeps | apply State.modCtx_keeps | apply State.walkOn_keeps | apply State.work_keeps | apply Keeps.refl | split)
  all_goals simp (maxDischargeDepth := 60) [kh]

@[simp] theorem execInletRead_keeps {kb : Bool} {k0 s : State} (kh : Keeps kb k0 s) (p : StoneP) (i : SetIx) (inlet :
    Fin 4) :
    OutKeeps kb k0 (execInletRead p i inlet s) := by
  unfold execInletRead; simp (maxDischargeDepth := 60) [kh]

@[simp] theorem State.givePawl_keeps {kb : Bool} {k0 s : State} (kh : Keeps kb k0 s) (p : Nat) (i : Nat) :
    Keeps kb k0 (State.givePawl s p i) := by
  unfold State.givePawl; simp (maxDischargeDepth := 60) [kh]

@[simp] theorem execStagePawlGive_keeps {kb : Bool} {k0 s : State} (kh : Keeps kb k0 s) (p : StoneP) (i : SetIx) :
    OutKeeps kb k0 (execStagePawlGive p i s) := by
  unfold execStagePawlGive; simp (maxDischargeDepth := 60) [kh]

@[simp] theorem State.setOver_keeps {kb : Bool} {k0 s : State} (kh : Keeps kb k0 s) (p : Nat) (i : Nat) :
    Keeps kb k0 (State.setOver s p i) := by
  unfold State.setOver; simp (maxDischargeDepth := 60) [kh]

@[simp] theorem execSetComplete_keeps {kb : Bool} {k0 s : State} (kh : Keeps kb k0 s) (p : StoneP) (i : SetIx) :
    OutKeeps kb k0 (execSetComplete p i s) := by
  unfold execSetComplete; simp (maxDischargeDepth := 60) [kh]

@[simp] theorem State.planOver_keeps {kb : Bool} {k0 s : State} (kh : Keeps kb k0 s) (f : Nat) (r : Nat) :
    Keeps kb k0 (State.planOver s f r) := by
  unfold State.planOver
  try simp (maxDischargeDepth := 60) [kh]
  repeat' (with_reducible first | assumption | intro _ | apply And.intro | apply State.addFlags_keeps | apply State.finishWith_keeps | apply Keeps.refl | split)
  all_goals simp (maxDischargeDepth := 60) [kh]

@[simp] theorem execPlanComplete_keeps {kb : Bool} {k0 s : State} (kh : Keeps kb k0 s) (f : FnId) (r : RingIx) :
    OutKeeps kb k0 (execPlanComplete f r s) := by
  unfold execPlanComplete; simp (maxDischargeDepth := 60) [kh]

end Sys2Proof.Machine
end

