-- ==== Sys2Proof/Laws/KeepsDamsel.lean ====
section
/-! SUPPORT. What the operations of Machine/Damsel.lean keep (Laws/Keeps.lean): the queue, both memories' canonical form and,
for every `kb`, the part of the state that ring commands, engines and links never change. -/
namespace Sys2Proof.Machine

@[simp] theorem streamPage_keeps {kb : Bool} (a : Acc) (va : Nat) :
    RunKeeps kb (streamPage a va) := by
  unfold streamPage; simp (maxDischargeDepth := 60)

@[simp] theorem readStream_keeps {kb : Bool} (a : Acc) (va : Nat) :
    RunKeeps kb (readStream a va) := by
  unfold readStream; simp (maxDischargeDepth := 60)

@[simp] theorem State.dueCounter_keeps {kb : Bool} {k0 s : State} (kh : Keeps kb k0 s) (f : Nat) (r : Nat) (va : Nat)
    (c : SetCtx) (n : Nat) :
    Keeps kb k0 (State.dueCounter s f r va c n) := by
  unfold State.dueCounter; simp (maxDischargeDepth := 60) [kh]

@[simp] theorem State.damselSeed_keeps {kb : Bool} {k0 s : State} (kh : Keeps kb k0 s) (f : Nat) (r : Nat) (c :
    Running) :
    Keeps kb k0 (State.damselSeed s f r c) := by
  unfold State.damselSeed
  try simp (maxDischargeDepth := 60) [kh]
  repeat' (with_reducible first | assumption | intro _ | apply And.intro | apply State.fail_keeps | apply State.failRead_keeps | apply State.finish_keeps | apply State.tick_keeps | apply VaneJob.finish_keeps | apply writeV_keeps | apply keeps_exec | apply Keeps.refl | split)
  all_goals simp (maxDischargeDepth := 60) [kh]

@[simp] theorem execDamselSeed_keeps {kb : Bool} {k0 s : State} (kh : Keeps kb k0 s) (f : FnId) (r : RingIx) :
    OutKeeps kb k0 (execDamselSeed f r s) := by
  unfold execDamselSeed; simp (maxDischargeDepth := 60) [kh]

@[simp] theorem DrawSpec.tensor_keeps {kb : Bool} (x : DrawSpec) (a : Acc) (c : SetCtx) (base : Nat) (n : Nat) :
    RunKeeps kb (DrawSpec.tensor x a c base n) := by
  unfold DrawSpec.tensor; simp (maxDischargeDepth := 60)

theorem drawAll_keeps {kb : Bool} (l : List (Run Hist)) (hs : List Hist) (hl : ∀ m ∈ l, RunKeeps kb m) :
    RunKeeps kb (drawAll l hs) := by
  induction l generalizing hs with
  | nil => exact runKeeps_pure _
  | cons m ms ih =>
    unfold drawAll
    refine runKeeps_bind (runKeeps_tryCatch (by simp [hl]) (by simp)) (fun x => ?_)
    split
    · exact ih _ (fun k hk => hl k (List.mem_cons_of_mem _ hk))
    · exact runKeeps_pure _

theorem DrawSpec.list_keeps {kb : Bool} (x : DrawSpec) (a : Acc) (d : Desc) (records : List (List Byte)) :
    ∀ m ∈ x.list a d records, RunKeeps kb m := by
  intro m hm
  obtain ⟨y, _, rfl⟩ := List.mem_map.1 hm
  exact DrawSpec.tensor_keeps _ _ _ _ _

@[simp] theorem State.drawOver_keeps {kb : Bool} {k0 s : State} (kh : Keeps kb k0 s) (f r : Nat) (small : Bool)
    (ms : List (Run Hist)) (hm : ∀ m ∈ ms, RunKeeps kb m) : Keeps kb k0 (State.drawOver s f r small ms) := by
  unfold State.drawOver
  have h := keeps_exec (drawAll_keeps ms [] hm) kh { ufl := small }
  dsimp only
  split <;> simp [h]

@[simp] theorem State.damselDraw_keeps {kb : Bool} {k0 s : State} (kh : Keeps kb k0 s) (f : Nat) (r : Nat) (c :
    Running) :
    Keeps kb k0 (State.damselDraw s f r c) := by
  unfold State.damselDraw
  try simp (maxDischargeDepth := 60) [kh]
  repeat' (with_reducible first | assumption | exact DrawSpec.list_keeps _ _ _ _ | exact fun _ h => List.mem_singleton.1 h ▸ DrawSpec.tensor_keeps _ _ _ _ _ | intro _ | apply And.intro | apply DrawSpec.tensor_keeps | apply State.drawOver_keeps | apply State.dueCounter_keeps | apply State.fail_keeps | apply State.failRead_keeps | apply readSV_keeps | apply readStream_keeps | apply keeps_exec | apply Keeps.refl | split)
  all_goals simp (maxDischargeDepth := 60) [kh]

@[simp] theorem execDamselDraw_keeps {kb : Bool} {k0 s : State} (kh : Keeps kb k0 s) (f : FnId) (r : RingIx) :
    OutKeeps kb k0 (execDamselDraw f r s) := by
  unfold execDamselDraw; simp (maxDischargeDepth := 60) [kh]

@[simp] theorem bolterRow_keeps {kb : Bool} (a : Acc) (d : Desc) (c : SetCtx) (n : Nat) (x : BolterReport) :
    RunKeeps kb (bolterRow a d c n x) := by
  unfold bolterRow; simp (maxDischargeDepth := 60)

@[simp] theorem bolterRows_keeps {kb : Bool} (a : Acc) (d : Desc) (c : SetCtx) (l : List Nat) (rep : BolterReport) :
    RunKeeps kb (bolterRows a d c l rep) := by
  induction l generalizing rep with
  | nil => exact runKeeps_pure _
  | cons n ns ih =>
    unfold bolterRows
    refine runKeeps_bind (runKeeps_tryCatch (by simp) (by simp)) (fun x => ?_)
    split
    · exact ih _
    · exact runKeeps_pure _

@[simp] theorem State.bolterSample_keeps {kb : Bool} {k0 s : State} (kh : Keeps kb k0 s) (f : Nat) (r : Nat) (c :
    Running) :
    Keeps kb k0 (State.bolterSample s f r c) := by
  unfold State.bolterSample
  try simp (maxDischargeDepth := 60) [kh]
  repeat' (with_reducible first | assumption | intro _ | apply And.intro | apply State.addFlags_keeps | apply State.dueCounter_keeps | apply State.fail_keeps | apply State.failRead_keeps | apply State.finishWith_keeps | apply State.stopped_keeps | apply bolterRows_keeps | apply readStream_keeps | apply keeps_exec | apply Keeps.refl | split)
  all_goals simp (maxDischargeDepth := 60) [kh]

@[simp] theorem execBolterSample_keeps {kb : Bool} {k0 s : State} (kh : Keeps kb k0 s) (f : FnId) (r : RingIx) :
    OutKeeps kb k0 (execBolterSample f r s) := by
  unfold execBolterSample; simp (maxDischargeDepth := 60) [kh]

end Sys2Proof.Machine
end

