-- ==== Sys2Proof/Laws/KeepsGrist.lean ====
section
/-! SUPPORT. What the operations of Machine/Grist.lean keep (Laws/Keeps.lean): the queue, both memories' canonical form and,
for every `kb`, the part of the state that ring commands, engines and links never change. -/
namespace Sys2Proof.Machine

@[simp] theorem State.gristJoin_keeps {kb : Bool} {k0 s : State} (kh : Keeps kb k0 s) (f : Nat) (r : Nat) (c :
    Running) :
    Keeps kb k0 (State.gristJoin s f r c) := by
  unfold State.gristJoin
  try simp (maxDischargeDepth := 60) [kh]
  repeat' (with_reducible first | assumption | intro _ | apply And.intro | apply State.evalWeir_keeps | apply State.fail_keeps | apply State.finish_keeps | apply State.setEntry_keeps | apply State.setPart_keeps | apply Keeps.refl | split)
  all_goals simp (maxDischargeDepth := 60) [kh]

@[simp] theorem execGristJoin_keeps {kb : Bool} {k0 s : State} (kh : Keeps kb k0 s) (f : FnId) (r : RingIx) :
    OutKeeps kb k0 (execGristJoin f r s) := by
  unfold execGristJoin; simp (maxDischargeDepth := 60) [kh]

@[simp] theorem State.gristLeave_keeps {kb : Bool} {k0 s : State} (kh : Keeps kb k0 s) (f : Nat) (r : Nat) (c :
    Running) :
    Keeps kb k0 (State.gristLeave s f r c) := by
  unfold State.gristLeave
  try simp (maxDischargeDepth := 60) [kh]
  repeat' (with_reducible first | assumption | intro _ | apply And.intro | apply State.fail_keeps | apply State.finish_keeps | apply State.freeEntry_keeps | apply State.setEntry_keeps | apply Keeps.refl | split)
  all_goals simp (maxDischargeDepth := 60) [kh]

@[simp] theorem execGristLeave_keeps {kb : Bool} {k0 s : State} (kh : Keeps kb k0 s) (f : FnId) (r : RingIx) :
    OutKeeps kb k0 (execGristLeave f r s) := by
  unfold execGristLeave; simp (maxDischargeDepth := 60) [kh]

@[simp] theorem State.advanceListed_keeps {kb : Bool} {k0 s : State} (kh : Keeps kb k0 s) (l : List Nat) :
    Keeps kb k0 (State.advanceListed s l) := by
  unfold State.advanceListed; simp (maxDischargeDepth := 60) [kh]

@[simp] theorem State.commitLeaves_keeps {kb : Bool} {k0 s : State} (kh : Keeps kb k0 s) (f : Nat) (p : Nat) :
    Keeps kb k0 (State.commitLeaves s f p) := by
  unfold State.commitLeaves; simp (maxDischargeDepth := 60) [kh]

@[simp] theorem State.admitJoins_keeps {kb : Bool} {k0 s : State} (kh : Keeps kb k0 s) (p : Nat) (serial : Word32) :
    Keeps kb k0 (State.admitJoins s p serial) := by
  unfold State.admitJoins
  try simp (maxDischargeDepth := 60) [kh]
  repeat' (with_reducible first | assumption | intro _ | apply And.intro | apply State.evalWeir_keeps | apply State.setEntry_keeps | apply keeps_foldl | apply Keeps.refl | split)
  all_goals simp (maxDischargeDepth := 60) [kh]

@[simp] theorem writeRecords_keeps {kb : Bool} (a : Acc) (va : Nat) (l : List (Nat × GristEntry)) :
    RunKeeps kb (writeRecords a va l) := by
  induction l generalizing va with
  | nil => simp [writeRecords]
  | cons e es ih => unfold writeRecords; simp [ih]


@[simp] theorem State.gristStep_keeps {kb : Bool} {k0 s : State} (kh : Keeps kb k0 s) (f : Nat) (r : Nat) (c :
    Running) :
    Keeps kb k0 (State.gristStep s f r c) := by
  unfold State.gristStep
  try simp (maxDischargeDepth := 60) [kh]
  repeat' (with_reducible first | assumption | intro _ | apply And.intro | apply State.admitJoins_keeps | apply State.advanceListed_keeps | apply State.commitLeaves_keeps | apply State.finish_keeps | apply State.finishWith_keeps | apply State.setEntry_keeps | apply State.setPart_keeps | apply State.tick_keeps | apply writeRecords_keeps | apply keeps_foldl | apply keeps_exec | apply Keeps.refl | split)
  all_goals simp (maxDischargeDepth := 60) [kh]

@[simp] theorem execGristStep_keeps {kb : Bool} {k0 s : State} (kh : Keeps kb k0 s) (f : FnId) (r : RingIx) :
    OutKeeps kb k0 (execGristStep f r s) := by
  unfold execGristStep; simp (maxDischargeDepth := 60) [kh]

end Sys2Proof.Machine
end

