-- ==== Sys2Proof/Laws/KeepsRace.lean ====
section
/-! SUPPORT. What the operations of Machine/Race.lean keep (Laws/Keeps.lean): the queue, both memories' canonical form and,
for every `kb`, the part of the state that ring commands, engines and links never change. -/
namespace Sys2Proof.Machine

@[simp] theorem State.claimMedia_keeps {kb : Bool} {k0 s : State} (kh : Keeps kb k0 s) (h : Nat) (n : Nat) :
    Keeps kb k0 (State.claimMedia s h n) := by
  unfold State.claimMedia; simp (maxDischargeDepth := 60) [kh]

@[simp] theorem State.openRace_keeps {kb : Bool} {k0 s : State} (kh : Keeps kb k0 s) (h : Nat) (i : Nat) (f : Nat) (x
    : RaceSpec) :
    Keeps kb k0 (State.openRace s h i f x) := by
  unfold State.openRace; simp (maxDischargeDepth := 60) [kh]

@[simp] theorem UnitResult.write_keeps {kb : Bool} (x : UnitResult) (a : Acc) (n : Nat) (fr : Config.Frame) (pic :
    Nat) :
    RunKeeps kb (UnitResult.write x a n fr pic) := by
  unfold UnitResult.write; simp (maxDischargeDepth := 60)

theorem State.enterRace_keeps {kb : Bool} {k0 s : State} (kh : Keeps kb k0 s) (f : Nat) (d : Desc) (encode : Bool) :
    Keeps kb k0 (State.enterRace s f d encode).2 ∧
    ∀ u, (State.enterRace s f d encode).1 = .ok u → Keeps kb k0 u := by
  unfold State.enterRace
  dsimp only
  (repeat' split) <;> simp [kh]


@[simp] theorem State.raceCmd_keeps {kb : Bool} {k0 s : State} (kh : Keeps kb k0 s) (f r : Nat) (c : Running) (encode : Bool)
    (k : State → State) (hk : ∀ u, Keeps kb u (k u)) : Keeps kb k0 (State.raceCmd s f r c encode k) := by
  have h1 := State.enterRace_keeps kh f c.desc encode
  unfold State.raceCmd
  dsimp only
  generalize s.enterRace f c.desc encode = x at h1 ⊢
  obtain ⟨y, t⟩ := x
  obtain ⟨h1, h2⟩ := h1
  dsimp only at h1 h2 ⊢
  split
  · split <;> simp [h1]
  · rename_i u
    have h3 : Keeps kb k0 (k u) := (h2 u rfl).trans (hk u)
    split
    · simp [h3]
    · exact h3


@[simp] theorem State.raceOver_keeps {kb : Bool} {k0 s : State} (kh : Keeps kb k0 s) (f : Nat) (r : Nat) (st : Status)
    (fl : Flags) (rep : RaceReport) (hist : Option Hist) (fault : Option FaultRec) :
    Keeps kb k0 (State.raceOver s f r st fl rep hist fault) := by
  unfold State.raceOver; simp (maxDischargeDepth := 60) [kh]

@[simp] theorem State.raceStop_keeps {kb : Bool} {k0 s : State} (kh : Keeps kb k0 s) (f : Nat) (r : Nat) (rep :
    RaceReport) (e : Stop) (y : Eng) :
    Keeps kb k0 (State.raceStop s f r rep e y) := by
  unfold State.raceStop; simp (maxDischargeDepth := 60) [kh]

@[simp] theorem raceBufs_keeps {kb : Bool} (h : Nat) :
    RunKeeps kb (raceBufs h) := by
  unfold raceBufs; simp (maxDischargeDepth := 60)

@[simp] theorem State.raceDecode_keeps {kb : Bool} {k0 s : State} (kh : Keeps kb k0 s) (f : Nat) (r : Nat) (c :
    Running) :
    Keeps kb k0 (State.raceDecode s f r c) := by
  unfold State.raceDecode
  try simp (maxDischargeDepth := 60) [kh]
  repeat' (with_reducible first | assumption | intro _ | apply And.intro | apply Drain.write_keeps | apply State.raceCmd_keeps | apply State.raceOver_keeps | apply State.setRac_keeps | apply UnitResult.write_keeps | apply readV_keeps | apply keeps_exec | apply Keeps.refl | split)
  all_goals simp (maxDischargeDepth := 60) [kh]

@[simp] theorem execRaceDecode_keeps {kb : Bool} {k0 s : State} (kh : Keeps kb k0 s) (f : FnId) (r : RingIx) :
    OutKeeps kb k0 (execRaceDecode f r s) := by
  unfold execRaceDecode; simp (maxDischargeDepth := 60) [kh]

@[simp] theorem readPlane_keeps {kb : Bool} (a : Acc) (fmt : BitVec 8) (pl : Nat × Nat × Nat × Nat) :
    RunKeeps kb (readPlane a fmt pl) := by
  unfold readPlane; simp (maxDischargeDepth := 60)

@[simp] theorem RaceSpec.source_keeps {kb : Bool} (x : RaceSpec) (a : Acc) (pic : Nat) :
    RunKeeps kb (RaceSpec.source x a pic) := by
  unfold RaceSpec.source; simp (maxDischargeDepth := 60)

@[simp] theorem State.raceEncode_keeps {kb : Bool} {k0 s : State} (kh : Keeps kb k0 s) (f : Nat) (r : Nat) (c :
    Running) :
    Keeps kb k0 (State.raceEncode s f r c) := by
  unfold State.raceEncode
  try simp (maxDischargeDepth := 60) [kh]
  repeat' (with_reducible first | assumption | intro _ | apply And.intro | apply RaceSpec.source_keeps | apply State.freeBytes_keeps | apply State.freeWord_keeps | apply State.raceCmd_keeps | apply State.raceOver_keeps | apply State.setRac_keeps | apply State.tick_keeps | apply writePieces_keeps | apply writeV_keeps | apply keeps_exec | apply Keeps.refl | split)
  all_goals simp (maxDischargeDepth := 60) [kh]

@[simp] theorem execRaceEncode_keeps {kb : Bool} {k0 s : State} (kh : Keeps kb k0 s) (f : FnId) (r : RingIx) :
    OutKeeps kb k0 (execRaceEncode f r s) := by
  unfold execRaceEncode; simp (maxDischargeDepth := 60) [kh]

end Sys2Proof.Machine
end

