-- ==== Sys2Proof/Laws/KeepsHopper.lean ====
section
/-! SUPPORT. What the operations of Machine/Hopper.lean keep (Laws/Keeps.lean): the queue, both memories' canonical form and,
for every `kb`, the part of the state that ring commands, engines and links never change. -/
namespace Sys2Proof.Machine

@[simp] theorem checkShards_keeps {kb : Bool} (a : Acc) (x : Ingest) (k i : Nat) (prev : Option Nat) :
    RunKeeps kb (checkShards a x k i prev) := by
  induction k generalizing i prev with
  | zero => simp [checkShards]
  | succ k ih =>
    unfold checkShards
    refine runKeeps_bind (readSV_keeps _ _ _) (fun bs => ?_)
    split
    · simp
    · split <;> split <;> simp [ih]


@[simp] theorem dictEntry_keeps {kb : Bool} (a : Acc) (dict : Nat) (i : Nat) :
    RunKeeps kb (dictEntry a dict i) := by
  unfold dictEntry; simp (maxDischargeDepth := 60)

@[simp] theorem dictCount_keeps {kb : Bool} (a : Acc) (dict : Nat) :
    RunKeeps kb (dictCount a dict) := by
  unfold dictCount; simp (maxDischargeDepth := 60)

@[simp] theorem checkDict_keeps {kb : Bool} (a : Acc) (dict pool k i : Nat) (prev : Option (List Byte)) :
    RunKeeps kb (checkDict a dict pool k i prev) := by
  induction k generalizing i prev with
  | zero => simp [checkDict]
  | succ k ih =>
    unfold checkDict
    refine runKeeps_bind (dictEntry_keeps _ _ _) (fun e => ?_)
    split
    · simp
    · refine runKeeps_bind (readSV_keeps _ _ _) (fun bs => ?_)
      split <;> split <;> simp [ih]

@[simp] theorem checkIngest_keeps {kb : Bool} (a : Acc) (x : Ingest) : RunKeeps kb (checkIngest a x) := by
  unfold checkIngest
  refine runKeeps_bind (checkShards_keeps _ _ _ _ _) (fun b => ?_)
  split
  · simp
  · refine runKeeps_bind (dictCount_keeps _ _) (fun n => ?_)
    split <;> simp

@[simp] theorem skipFor_keeps {kb : Bool} {α : Type} (c : Skip) :
    BuiltKeeps kb (skipFor (α := α) c) := builtKeeps_throw c

@[simp] theorem keepIf_keeps {kb : Bool} (ok : Bool) (c : Skip) :
    BuiltKeeps kb (keepIf ok c) := by
  unfold keepIf; simp

@[simp] theorem findShard_keeps {kb : Bool} (a : Acc) (x : Ingest) (g k lo hi : Nat) :
    RunKeeps kb (findShard a x g k lo hi) := by
  have h0 : RunKeeps kb (findShard a x g 0 lo hi) := by unfold findShard; simp
  induction k generalizing lo hi with
  | zero => exact h0
  | succ k ih =>
    unfold findShard
    split
    · exact h0
    · refine runKeeps_bind (readSV_keeps _ _ _) (fun bs => ?_)
      split
      · exact ih _ _ (by unfold findShard; simp)
      · exact ih _ _ (by unfold findShard; simp)


@[simp] theorem readRecord_keeps {kb : Bool} (a : Acc) (x : Ingest) (e : Word32) (i : Nat) :
    BuiltKeeps kb (readRecord a x e i) := by
  unfold readRecord
  repeat' (with_reducible first | exact keepIf_keeps _ _ | exact skipFor_keeps _ | exact builtKeeps_pure _ | exact builtKeeps_lift (findShard_keeps _ _ _ _ _ _) | exact builtKeeps_lift (readV_keeps _ _ _) | refine builtKeeps_bind ?_ (fun _ => ?_) | split)

@[simp] theorem readDict_keeps {kb : Bool} (a : Acc) (dict : Nat) :
    RunKeeps kb (readDict a dict) := by
  unfold readDict; simp (maxDischargeDepth := 60)

@[simp] theorem buildSample_keeps {kb : Bool} (a : Acc) (x : Ingest) (fits : Nat → Nat → Bool) (e : Word32) (i : Nat) :
    BuiltKeeps kb (buildSample a x fits e i) := by
  unfold buildSample
  repeat' (with_reducible first | exact keepIf_keeps _ _ | exact skipFor_keeps _ | exact builtKeeps_pure _ | exact readRecord_keeps _ _ _ _ | exact builtKeeps_lift (readDict_keeps _ _) | refine builtKeeps_bind ?_ (fun _ => ?_) | split)

@[simp] theorem Ingest.writeSlot_keeps {kb : Bool} (x : Ingest) (a : Acc) (j : Nat) (k : Nat) (img : List Nat) (cond :
    List Nat) (tokens : List Nat) (record : List Byte) :
    RunKeeps kb (Ingest.writeSlot x a j k img cond tokens record) := by
  unfold Ingest.writeSlot; simp (maxDischargeDepth := 60)

@[simp] theorem Ingest.deliver_keeps {kb : Bool} (x : Ingest) (a : Acc) (serial : Nat) (j : HopperJob) (m : Sample) :
    RunKeeps kb (Ingest.deliver x a serial j m) := by
  unfold Ingest.deliver; simp (maxDischargeDepth := 60)

@[simp] theorem Ingest.blank_keeps {kb : Bool} (x : Ingest) (a : Acc) (serial : Nat) (k : Nat) :
    RunKeeps kb (Ingest.blank x a serial k) := by
  unfold Ingest.blank; simp (maxDischargeDepth := 60)

@[simp] theorem State.batchStop_keeps {kb : Bool} {k0 s : State} (kh : Keeps kb k0 s) (f : Nat) (r : Nat) (j :
    HopperJob) (e : Stop) :
    Keeps kb k0 (State.batchStop s f r j e) := by
  unfold State.batchStop; simp (maxDischargeDepth := 60) [kh]

@[simp] theorem hopperBufs_keeps {kb : Bool} (h : Nat) :
    RunKeeps kb (hopperBufs h) := by
  unfold hopperBufs; simp (maxDischargeDepth := 60)

@[simp] theorem State.batchOver_keeps {kb : Bool} {k0 s : State} (kh : Keeps kb k0 s) (f : Nat) (r : Nat) (j :
    HopperJob) :
    Keeps kb k0 (State.batchOver s f r j) := by
  unfold State.batchOver
  try simp (maxDischargeDepth := 60) [kh]
  repeat' (with_reducible first | assumption | intro _ | apply And.intro | apply Ingest.blank_keeps | apply State.addFlags_keeps | apply State.closeHopper_keeps | apply State.ended_keeps | apply State.finishWith_keeps | apply State.setHop_keeps | apply keeps_exec | apply runKeeps_forM' | apply runKeeps_forM | apply Keeps.refl | split)
  all_goals simp (maxDischargeDepth := 60) [kh]

@[simp] theorem State.putJob_keeps {kb : Bool} {k0 s : State} (kh : Keeps kb k0 s) (f : Nat) (r : Nat) (j : HopperJob)
    :
    Keeps kb k0 (State.putJob s f r j) := by
  unfold State.putJob; simp (maxDischargeDepth := 60) [kh]

@[simp] theorem State.takeVideo_keeps {kb : Bool} {k0 s : State} (kh : Keeps kb k0 s) (f : Nat) (r : Nat) (j :
    HopperJob) :
    Keeps kb k0 (State.takeVideo s f r j) := by
  unfold State.takeVideo; simp (maxDischargeDepth := 60) [kh]

@[simp] theorem State.skipSample_keeps {kb : Bool} {k0 s : State} (kh : Keeps kb k0 s) (f r : Nat) (j : HopperJob) (c : Skip) :
    Keeps kb k0 (State.skipSample s f r j c).1 := by
  unfold State.skipSample
  simp (maxDischargeDepth := 60) [kh]


@[simp] theorem State.batchRun_keeps {kb : Bool} {k0 s : State} (kh : Keeps kb k0 s) (f r n : Nat) (j : HopperJob) :
    Keeps kb k0 (State.batchRun f r n s j) := by
  induction n generalizing s j with
  | zero => exact kh
  | succ n ih =>
    unfold State.batchRun
    dsimp only
    split
    · simp [kh]
    · split
      · simp [kh]
      · split
        · simp (maxDischargeDepth := 60) [kh]
        · apply ih
          simp (maxDischargeDepth := 60) [kh]
        · split
          · split
            · apply ih
              simp (maxDischargeDepth := 60) [kh]
            · split <;> simp (maxDischargeDepth := 60) [kh]
          · split
            · simp (maxDischargeDepth := 60) [kh]
            · apply ih
              split <;> simp (maxDischargeDepth := 60) [kh]


theorem State.enterHopper_keeps {kb : Bool} {k0 s : State} (kh : Keeps kb k0 s) (f : Nat) (d : Desc) :
    Keeps kb k0 (State.enterHopper s f d).2 ∧
    ∀ u fl, (State.enterHopper s f d).1 = .ok (u, fl) → Keeps kb k0 u := by
  have hm (a : Acc) : RunKeeps kb (do
      let bs ← readSV a (d.addr 0x10) 256
      match ingestOf bs with
      | none => halt .malformed
      | some x =>
        if !x.ok then halt .malformed
        let good ← checkIngest a x
        if !good then halt .malformed
        return (x, ingestSmall bs) : Run (Ingest × Bool)) := by
    refine runKeeps_bind (readSV_keeps _ _ _) (fun bs => ?_)
    split <;> simp (maxDischargeDepth := 60)
  unfold State.enterHopper
  dsimp only
  have h1 := keeps_exec (hm (hopperAcc f d.hopHouse)) kh {}
  split
  · simp [kh]
  · split
    · simp [kh]
    · split
      · simp only [Except.ok.injEq, Prod.mk.injEq, and_imp]
        refine ⟨kh, ?_⟩
        rintro u fl rfl _
        exact kh
      · split
        · refine ⟨h1, ?_⟩
          intro u fl h
          cases h
        · split
          · refine ⟨h1, ?_⟩
            intro u fl h
            cases h
          · refine ⟨h1, ?_⟩
            intro u fl h
            simp only [Except.ok.injEq, Prod.mk.injEq] at h
            obtain ⟨rfl, _⟩ := h
            exact State.claimMedia_keeps (State.setHop_keeps h1 _ _ _) _ _


theorem State.hopperCmd_keeps {kb : Bool} {k0 s : State} (kh : Keeps kb k0 s) (f r : Nat) (c : Running)
    (k : State → HopperJob → State) (hk : ∀ u j, Keeps kb u (k u j)) : Keeps kb k0 (State.hopperCmd s f r c k) := by
  unfold State.hopperCmd
  dsimp only
  split
  · simp [kh]
  · have h1 := State.enterHopper_keeps (State.setHop_keeps kh c.desc.hopHouse c.desc.hopStream
      { s.hop c.desc.hopHouse c.desc.hopStream with
        line := (s.hopLine c.desc.hopHouse c.desc.hopStream).filter (· != (f, r, c.seq)) }) f c.desc
    generalize State.enterHopper _ f c.desc = x at h1 ⊢
    obtain ⟨y, t⟩ := x
    obtain ⟨h1, h2⟩ := h1
    dsimp only at h1 h2 ⊢
    split
    · split <;> simp [h1]
    · rename_i u fl
      have h3 : Keeps kb k0 u := h2 u fl rfl
      split
      · split <;> simp (maxDischargeDepth := 60) [h3]
      · exact Keeps.trans (State.putJob_keeps h3 f r _) (hk _ _)

@[simp] theorem State.hopperStart_keeps {kb : Bool} {k0 s : State} (kh : Keeps kb k0 s) (f r : Nat) (c : Running) :
    Keeps kb k0 (State.hopperStart s f r c) :=
  State.hopperCmd_keeps kh f r c _ (fun u j => State.batchRun_keeps (Keeps.refl kb u) f r _ j)

@[simp] theorem execHopperBatch_keeps {kb : Bool} {k0 s : State} (kh : Keeps kb k0 s) (f : FnId) (r : RingIx) :
    OutKeeps kb k0 (execHopperBatch f r s) := by
  unfold execHopperBatch
  try simp (maxDischargeDepth := 60) [kh]
  repeat' (with_reducible first | assumption | intro _ | apply And.intro | apply State.batchRun_keeps | apply State.hopperStart_keeps | apply State.runCmd_keeps | apply State.settle_keeps | apply Keeps.refl | split)
  all_goals simp (maxDischargeDepth := 60) [kh]

@[simp] theorem State.sampleLate_keeps {kb : Bool} {k0 s : State} (kh : Keeps kb k0 s) (f : Nat) (r : Nat) :
    Keeps kb k0 (State.sampleLate s f r) := by
  unfold State.sampleLate
  try simp (maxDischargeDepth := 60) [kh]
  repeat' (with_reducible first | assumption | intro _ | apply And.intro | apply State.batchRun_keeps | apply State.skipSample_keeps | apply Keeps.refl | split)
  all_goals simp (maxDischargeDepth := 60) [kh]

@[simp] theorem execSampleDeadline_keeps {kb : Bool} {k0 s : State} (kh : Keeps kb k0 s) (f : FnId) (r : RingIx) :
    OutKeeps kb k0 (execSampleDeadline f r s) := by
  unfold execSampleDeadline; simp (maxDischargeDepth := 60) [kh]

@[simp] theorem State.sampleTakes_keeps {kb : Bool} {k0 s : State} (kh : Keeps kb k0 s) (f : Nat) (r : Nat) :
    Keeps kb k0 (State.sampleTakes s f r) := by
  unfold State.sampleTakes
  try simp (maxDischargeDepth := 60) [kh]
  repeat' (with_reducible first | assumption | intro _ | apply And.intro | apply State.takeVideo_keeps | apply Keeps.refl | split)
  all_goals simp (maxDischargeDepth := 60) [kh]

@[simp] theorem execSampleBuffersTaken_keeps {kb : Bool} {k0 s : State} (kh : Keeps kb k0 s) (f : FnId) (r : RingIx) :
    OutKeeps kb k0 (execSampleBuffersTaken f r s) := by
  unfold execSampleBuffersTaken; simp (maxDischargeDepth := 60) [kh]

@[simp] theorem State.readEnds_keeps {kb : Bool} {k0 s : State} (kh : Keeps kb k0 s) (f r : Nat) (c : Running) (e : Stop) :
    Keeps kb k0 (State.readEnds s f r c e) := by
  have hh : Keeps kb k0 (s.hopperCmd f r c (fun s j => s.batchStop f r j e)) := State.hopperCmd_keeps kh f r c _ (by simp)
  have hr (b : Bool) (rep : State → RaceReport) : Keeps kb k0 (s.raceCmd f r c b (fun s => s.raceStop f r (rep s) e { s := s })) :=
    State.raceCmd_keeps kh f r c b _ (by simp)
  unfold State.readEnds
  generalize c.wait = w
  cases w
  case none =>
    generalize opcodeOf c.desc.opcode = o
    rcases o with _ | o
    · simp [kh]
    · cases o <;> first | exact hh | exact hr _ _ | simp [kh]
  all_goals simp [kh]

@[simp] theorem State.readTimedOut_keeps {kb : Bool} {k0 s : State} (kh : Keeps kb k0 s) (f r : Nat) (va : BitVec 48) :
    Keeps kb k0 (State.readTimedOut s f r va) := by
  unfold State.readTimedOut
  split
  · exact kh
  · split
    · exact kh
    · split <;> simp [kh]

@[simp] theorem execCompletionTimeout_keeps {kb : Bool} {k0 s : State} (kh : Keeps kb k0 s) (f : FnId) (r : RingIx)
    (address : BitVec 48) :
    OutKeeps kb k0 (execCompletionTimeout f r address s) := by
  unfold execCompletionTimeout; simp (maxDischargeDepth := 60) [kh]

end Sys2Proof.Machine
end

