-- ==== Sys2Proof/Laws/KeepsRingPages.lean ====
section
/-! SUPPORT. What the operations of Machine/RingPages.lean keep (Laws/Keeps.lean): the queue, both memories' canonical form and,
for every `kb`, the part of the state that ring commands, engines and links never change. -/
namespace Sys2Proof.Machine

@[simp] theorem State.rejectRing_keeps {kb : Bool} {k0 s : State} (kh : Keeps kb k0 s) (f : Nat) :
    Keeps kb k0 (State.rejectRing s f) := by
  unfold State.rejectRing; simp (maxDischargeDepth := 60) [kh]

@[simp] theorem State.writeSqBase_keeps {kb : Bool} {k0 s : State} (kh : Keeps kb k0 s) (f : Nat) (r : Nat) (v :
    Word64) :
    Keeps kb k0 (State.writeSqBase s f r v) := by
  unfold State.writeSqBase; simp (maxDischargeDepth := 60) [kh]

@[simp] theorem State.stopRing_keeps {kb : Bool} {k0 s : State} (kh : Keeps kb k0 s) (f : Nat) (r : Nat) :
    Keeps kb k0 (State.stopRing s f r) := by
  unfold State.stopRing; simp (maxDischargeDepth := 60) [kh]

@[simp] theorem State.writeSqCfgOff_keeps {kb : Bool} {k0 s : State} (kh : Keeps kb k0 s) (f : Nat) (r : Nat) (v :
    Nat) :
    Keeps kb k0 (State.writeSqCfgOff s f r v) := by
  unfold State.writeSqCfgOff; simp (maxDischargeDepth := 60) [kh]

@[simp] theorem State.writeSqCfgOn_keeps {kb : Bool} {k0 s : State} (kh : Keeps kb k0 s) (f : Nat) (r : Nat) (v : Nat)
    :
    Keeps kb k0 (State.writeSqCfgOn s f r v) := by
  unfold State.writeSqCfgOn; simp (maxDischargeDepth := 60) [kh]

@[simp] theorem State.writeSqCfg_keeps {kb : Bool} {k0 s : State} (kh : Keeps kb k0 s) (f : Nat) (r : Nat) (v : Nat) :
    Keeps kb k0 (State.writeSqCfg s f r v) := by
  unfold State.writeSqCfg; simp (maxDischargeDepth := 60) [kh]

@[simp] theorem State.abortRing_keeps {kb : Bool} {k0 s : State} (kh : Keeps kb k0 s) (f : Nat) (r : Nat) :
    Keeps kb k0 (State.abortRing s f r) := by
  unfold State.abortRing
  try simp (maxDischargeDepth := 60) [kh]
  repeat' (with_reducible first | assumption | intro _ | apply And.intro | apply State.endCommand_keeps | apply State.stopRing_keeps | apply Keeps.refl | split)
  all_goals simp (maxDischargeDepth := 60) [kh]

@[simp] theorem State.resumeRing_keeps {kb : Bool} {k0 s : State} (kh : Keeps kb k0 s) (f : Nat) (r : Nat) :
    Keeps kb k0 (State.resumeRing s f r) := by
  unfold State.resumeRing; simp (maxDischargeDepth := 60) [kh]

@[simp] theorem State.writeSqCtrl_keeps {kb : Bool} {k0 s : State} (kh : Keeps kb k0 s) (f : Nat) (r : Nat) (v : Nat)
    :
    Keeps kb k0 (State.writeSqCtrl s f r v) := by
  unfold State.writeSqCtrl; simp (maxDischargeDepth := 60) [kh]

@[simp] theorem State.writeCqBase_keeps {kb : Bool} {k0 s : State} (kh : Keeps kb k0 s) (f : Nat) (c : Nat) (v :
    Word64) :
    Keeps kb k0 (State.writeCqBase s f c v) := by
  unfold State.writeCqBase; simp (maxDischargeDepth := 60) [kh]

@[simp] theorem State.writeCqCfg_keeps {kb : Bool} {k0 s : State} (kh : Keeps kb k0 s) (f : Nat) (c : Nat) (v :
    Word64) :
    Keeps kb k0 (State.writeCqCfg s f c v) := by
  unfold State.writeCqCfg; simp (maxDischargeDepth := 60) [kh]

@[simp] theorem State.ringTail_keeps {kb : Bool} {k0 s : State} (kh : Keeps kb k0 s) (f : Nat) (r : Nat) (v : BitVec
    16) :
    Keeps kb k0 (State.ringTail s f r v) := by
  unfold State.ringTail; simp (maxDischargeDepth := 60) [kh]

@[simp] theorem State.ringHead_keeps {kb : Bool} {k0 s : State} (kh : Keeps kb k0 s) (f : Nat) (c : Nat) (v : BitVec
    16) (rearm : Bool) :
    Keeps kb k0 (State.ringHead s f c v rearm) := by
  unfold State.ringHead; simp (maxDischargeDepth := 60) [kh]

@[simp] theorem State.writeDoorbell_keeps {kb : Bool} {k0 s : State} (kh : Keeps kb k0 s) (f : Nat) (off : Nat) (v :
    Nat) :
    Keeps kb k0 (State.writeDoorbell s f off v) := by
  unfold State.writeDoorbell; simp (maxDischargeDepth := 60) [kh]

@[simp] theorem State.writeWeirLevel_keeps {kb : Bool} {k0 s : State} (kh : Keeps kb k0 s) (id : WeirId) (v : Nat) :
    Keeps kb k0 (State.writeWeirLevel s id v) := by
  unfold State.writeWeirLevel; simp (maxDischargeDepth := 60) [kh]

@[simp] theorem State.writeWeirStat_keeps {kb : Bool} {k0 s : State} (kh : Keeps kb k0 s) (id : WeirId) (v : Nat) :
    Keeps kb k0 (State.writeWeirStat s id v) := by
  unfold State.writeWeirStat; simp (maxDischargeDepth := 60) [kh]

@[simp] theorem State.flushVector_keeps {kb : Bool} {k0 s : State} (kh : Keeps kb k0 s) (f : Nat) (v : Nat) :
    Keeps kb k0 (State.flushVector s f v) := by
  unfold State.flushVector; simp (maxDischargeDepth := 60) [kh]

@[simp] theorem State.flushVectors_keeps {kb : Bool} {k0 s : State} (kh : Keeps kb k0 s) (f : Nat) :
    Keeps kb k0 (State.flushVectors s f) := by
  unfold State.flushVectors; simp (maxDischargeDepth := 60) [kh]

@[simp] theorem State.writeMsixWord_keeps {kb : Bool} {k0 s : State} (kh : Keeps kb k0 s) (f : Nat) (off : Nat) (v :
    Nat) :
    Keeps kb k0 (State.writeMsixWord s f off v) := by
  unfold State.writeMsixWord; simp (maxDischargeDepth := 60) [kh]

@[simp] theorem State.writeMsixControl_keeps {kb : Bool} {k0 s : State} (kh : Keeps kb k0 s) (f : Nat) (v : Nat) :
    Keeps kb k0 (State.writeMsixControl s f v) := by
  unfold State.writeMsixControl; simp (maxDischargeDepth := 60) [kh]

@[simp] theorem State.writeDeviceControl_keeps {kb : Bool} {k0 s : State} (kh : Keeps kb k0 s) (f : Nat) (v : Nat) :
    Keeps kb k0 (State.writeDeviceControl s f v) := by
  unfold State.writeDeviceControl; simp (maxDischargeDepth := 60) [kh]

@[simp] theorem State.writeAer_keeps {kb : Bool} {k0 s : State} (kh : Keeps kb k0 s) (f : Nat) (v : Nat) :
    Keeps kb k0 (State.writeAer s f v) := by
  unfold State.writeAer; simp (maxDischargeDepth := 60) [kh]

@[simp] theorem State.writeRingPage_keeps {kb : Bool} {k0 s : State} (kh : Keeps kb k0 s) (f : Nat) (off : Nat) (width
    : Nat) (v : Word64) :
    Keeps kb k0 (State.writeRingPage s f off width v) := by
  unfold State.writeRingPage
  try simp (maxDischargeDepth := 60) [kh]
  repeat' (with_reducible first | assumption | intro _ | apply And.intro | apply State.setCq_keeps | apply State.setFn_keeps | apply State.setSq_keeps | apply State.writeCqBase_keeps | apply State.writeCqCfg_keeps | apply State.writeSqBase_keeps | apply State.writeSqCfg_keeps | apply State.writeSqCtrl_keeps | apply State.writeWeirLevel_keeps | apply State.writeWeirStat_keeps | apply Keeps.refl | split)
  all_goals simp (maxDischargeDepth := 60) [kh]

@[simp] theorem State.writePage_keeps {kb : Bool} {k0 s : State} (kh : Keeps kb k0 s) (f : Nat) (off : Nat) (width :
    Nat) (v : Word64) :
    Keeps kb k0 (State.writePage s f off width v) := by
  unfold State.writePage; simp (maxDischargeDepth := 60) [kh]

@[simp] theorem execSqEnable_keeps {kb : Bool} {k0 s : State} (kh : Keeps kb k0 s) (f : FnId) (r : RingIx) (value :
    Word32) :
    OutKeeps kb k0 (execSqEnable f r value s) := by
  unfold execSqEnable; simp (maxDischargeDepth := 60) [kh]

@[simp] theorem execSqDisable_keeps {kb : Bool} {k0 s : State} (kh : Keeps kb k0 s) (f : FnId) (r : RingIx) (value :
    Word32) :
    OutKeeps kb k0 (execSqDisable f r value s) := by
  unfold execSqDisable; simp (maxDischargeDepth := 60) [kh]

@[simp] theorem execSqResume_keeps {kb : Bool} {k0 s : State} (kh : Keeps kb k0 s) (f : FnId) (r : RingIx) :
    OutKeeps kb k0 (execSqResume f r s) := by
  unfold execSqResume; simp (maxDischargeDepth := 60) [kh]

@[simp] theorem execSqAbort_keeps {kb : Bool} {k0 s : State} (kh : Keeps kb k0 s) (f : FnId) (r : RingIx) (resume :
    Bool) :
    OutKeeps kb k0 (execSqAbort f r resume s) := by
  unfold execSqAbort; simp (maxDischargeDepth := 60) [kh]

@[simp] theorem execCqEnable_keeps {kb : Bool} {k0 s : State} (kh : Keeps kb k0 s) (f : FnId) (c : RingIx) (value :
    Word64) :
    OutKeeps kb k0 (execCqEnable f c value s) := by
  unfold execCqEnable; simp (maxDischargeDepth := 60) [kh]

@[simp] theorem execCqDisable_keeps {kb : Bool} {k0 s : State} (kh : Keeps kb k0 s) (f : FnId) (c : RingIx) (value :
    Word64) :
    OutKeeps kb k0 (execCqDisable f c value s) := by
  unfold execCqDisable; simp (maxDischargeDepth := 60) [kh]

@[simp] theorem execDoorbellSqTail_keeps {kb : Bool} {k0 s : State} (kh : Keeps kb k0 s) (f : FnId) (d : RingIx)
    (value : Word32) :
    OutKeeps kb k0 (execDoorbellSqTail f d value s) := by
  unfold execDoorbellSqTail; simp (maxDischargeDepth := 60) [kh]

@[simp] theorem execDoorbellCqHead_keeps {kb : Bool} {k0 s : State} (kh : Keeps kb k0 s) (f : FnId) (d : RingIx)
    (value : BitVec 16) :
    OutKeeps kb k0 (execDoorbellCqHead f d value s) := by
  unfold execDoorbellCqHead; simp (maxDischargeDepth := 60) [kh]

@[simp] theorem execCqRearm_keeps {kb : Bool} {k0 s : State} (kh : Keeps kb k0 s) (f : FnId) (d : RingIx) (value :
    BitVec 16) :
    OutKeeps kb k0 (execCqRearm f d value s) := by
  unfold execCqRearm; simp (maxDischargeDepth := 60) [kh]

@[simp] theorem execMsixUnmask_keeps {kb : Bool} {k0 s : State} (kh : Keeps kb k0 s) (f : FnId) (vector : Fin 17) :
    OutKeeps kb k0 (execMsixUnmask f vector s) := by
  unfold execMsixUnmask; simp (maxDischargeDepth := 60) [kh]

end Sys2Proof.Machine
end

