-- ==== Sys2Proof/Laws/KeepsSetup.lean ====
section
/-! SUPPORT. What the operations of Machine/Setup.lean keep (Laws/Keeps.lean): the queue, both memories' canonical form and,
for every `kb`, the part of the state that ring commands, engines and links never change. -/
namespace Sys2Proof.Machine

@[simp] theorem State.reject_keeps {k0 s : State} (kh : Keeps false k0 s) (off : Nat) :
    Keeps false k0 (State.reject s off) := by
  unfold State.reject; simp (maxDischargeDepth := 60) [kh]

@[simp] theorem State.writeModuleCfg_keeps {k0 s : State} (kh : Keeps false k0 s) (off : Nat) (v : Nat) :
    Keeps false k0 (State.writeModuleCfg s off v) := by
  unfold State.writeModuleCfg
  try simp (maxDischargeDepth := 60) [kh]
  repeat' (with_reducible first | assumption | intro _ | apply And.intro | apply State.reject_keeps | apply Keeps.refl | split)
  all_goals simp (maxDischargeDepth := 60) [kh]

@[simp] theorem State.writeLeatCtrl_keeps {k0 s : State} (kh : Keeps false k0 s) (off : Nat) (v : Nat) :
    Keeps false k0 (State.writeLeatCtrl s off v) := by
  unfold State.writeLeatCtrl; simp (maxDischargeDepth := 60) [kh]

@[simp] theorem State.writeLock_keeps {k0 s : State} (kh : Keeps false k0 s) (v : Nat) :
    Keeps false k0 (State.writeLock s v) := by
  unfold State.writeLock; simp (maxDischargeDepth := 60) [kh]

@[simp] theorem State.writeSetupStatus_keeps {k0 s : State} (kh : Keeps false k0 s) (v : Nat) :
    Keeps false k0 (State.writeSetupStatus s v) := by
  unfold State.writeSetupStatus; simp (maxDischargeDepth := 60) [kh]

@[simp] theorem State.writeCombineTimeout_keeps {k0 s : State} (kh : Keeps false k0 s) (off : Nat) (v : Nat) (expired
    : List (Nat × Nat)) :
    Keeps false k0 (State.writeCombineTimeout s off v expired) := by
  unfold State.writeCombineTimeout; simp (maxDischargeDepth := 60) [kh]

@[simp] theorem State.writePower_keeps {k0 s : State} (kh : Keeps false k0 s) (off : Nat) (v : Word64) :
    Keeps false k0 (State.writePower s off v) := by
  unfold State.writePower; simp (maxDischargeDepth := 60) [kh]

@[simp] theorem State.writeFaultCfg_keeps {k0 s : State} (kh : Keeps false k0 s) (off : Nat) (v : Nat) :
    Keeps false k0 (State.writeFaultCfg s off v) := by
  unfold State.writeFaultCfg; simp (maxDischargeDepth := 60) [kh]

@[simp] theorem State.endAction_keeps {kb : Bool} {k0 s : State} (kh : Keeps kb k0 s) (p : Nat) (result : BitVec 2) :
    Keeps kb k0 (State.endAction s p result) := by
  unfold State.endAction; simp (maxDischargeDepth := 60) [kh]

@[simp] theorem State.operatorRetire_keeps {kb : Bool} {k0 s : State} (kh : Keeps kb k0 s) (p : Nat) :
    Keeps kb k0 (State.operatorRetire s p) := by
  unfold State.operatorRetire; simp (maxDischargeDepth := 60) [kh]

@[simp] theorem State.writeStoneCmd_keeps {k0 s : State} (kh : Keeps false k0 s) (off : Nat) (v : Nat) :
    Keeps false k0 (State.writeStoneCmd s off v) := by
  unfold State.writeStoneCmd; simp (maxDischargeDepth := 60) [kh]

@[simp] theorem State.testDone_keeps {kb : Bool} {k0 s : State} (kh : Keeps kb k0 s) (p : Nat) (passed : Bool) :
    Keeps kb k0 (State.testDone s p passed) := by
  unfold State.testDone; simp (maxDischargeDepth := 60) [kh]

@[simp] theorem State.writeFwSrc_keeps {k0 s : State} (kh : Keeps false k0 s) (v : Word64) :
    Keeps false k0 (State.writeFwSrc s v) := by
  unfold State.writeFwSrc; simp (maxDischargeDepth := 60) [kh]

@[simp] theorem State.writeFwCtrl_keeps {k0 s : State} (kh : Keeps false k0 s) (off : Nat) (v : Word64) :
    Keeps false k0 (State.writeFwCtrl s off v) := by
  unfold State.writeFwCtrl; simp (maxDischargeDepth := 60) [kh]

@[simp] theorem State.shownLevel_keeps {k0 s : State} (kh : Keeps false k0 s) (g : Nat) (high : Bool) :
    Keeps false k0 (State.shownLevel s g high) := by
  unfold State.shownLevel; simp (maxDischargeDepth := 60) [kh]

@[simp] theorem State.writeGpio_keeps {k0 s : State} (kh : Keeps false k0 s) (off : Nat) (g : Nat) (v : Nat) :
    Keeps false k0 (State.writeGpio s off g v) := by
  unfold State.writeGpio; simp (maxDischargeDepth := 60) [kh]

@[simp] theorem State.fillHouse_keeps {kb : Bool} {k0 s : State} (kh : Keeps kb k0 s) (h : Nat) :
    Keeps kb k0 (State.fillHouse s h) := by
  unfold State.fillHouse
  try simp (maxDischargeDepth := 60) [kh]
  repeat' (with_reducible first | assumption | intro _ | apply And.intro | apply State.bumpEpoch_keeps | apply State.setStone_keeps | apply keeps_foldl | apply Keeps.refl | split)
  all_goals simp (maxDischargeDepth := 60) [kh]

@[simp] theorem State.repairUnit_keeps {kb : Bool} {k0 s : State} (kh : Keeps kb k0 s) (cls : Nat) (i : Nat) :
    Keeps kb k0 (State.repairUnit s cls i) := by
  unfold State.repairUnit; simp (maxDischargeDepth := 60) [kh]

@[simp] theorem State.repairHouse_keeps {kb : Bool} {k0 s : State} (kh : Keeps kb k0 s) (h : Nat) :
    Keeps kb k0 (State.repairHouse s h) := by
  unfold State.repairHouse; simp (maxDischargeDepth := 60) [kh]

@[simp] theorem State.commit_keeps {k0 s : State} (kh : Keeps false k0 s) (p : Nat) :
    Keeps false k0 (State.commit s p) := by
  unfold State.commit; simp (maxDischargeDepth := 60) [kh]

@[simp] theorem State.release_keeps {k0 s : State} (kh : Keeps false k0 s) (p : Nat) :
    Keeps false k0 (State.release s p) := by
  unfold State.release; simp (maxDischargeDepth := 60) [kh]

@[simp] theorem State.writePartCtrl_keeps {k0 s : State} (kh : Keeps false k0 s) (off : Nat) (p : Nat) (v : Nat) :
    Keeps false k0 (State.writePartCtrl s off p v) := by
  unfold State.writePartCtrl; simp (maxDischargeDepth := 60) [kh]

@[simp] theorem State.writePartCarve_keeps {k0 s : State} (kh : Keeps false k0 s) (off : Nat) (p : Nat) (v : Nat) :
    Keeps false k0 (State.writePartCarve s off p v) := by
  unfold State.writePartCarve; simp (maxDischargeDepth := 60) [kh]

@[simp] theorem State.writePartPool_keeps {k0 s : State} (kh : Keeps false k0 s) (off : Nat) (p : Nat) (v : Word64) :
    Keeps false k0 (State.writePartPool s off p v) := by
  unfold State.writePartPool; simp (maxDischargeDepth := 60) [kh]

@[simp] theorem State.writeBind_keeps {k0 s : State} (kh : Keeps false k0 s) (off : Nat) (f : Nat) (v : Nat) :
    Keeps false k0 (State.writeBind s off f v) := by
  unfold State.writeBind; simp (maxDischargeDepth := 60) [kh]

@[simp] theorem State.writeRoot_keeps {k0 s : State} (kh : Keeps false k0 s) (off : Nat) (f : Nat) (v : Word64) :
    Keeps false k0 (State.writeRoot s off f v) := by
  unfold State.writeRoot; simp (maxDischargeDepth := 60) [kh]

@[simp] theorem State.writePondSplit_keeps {k0 s : State} (kh : Keeps false k0 s) (off : Nat) (h : Nat) (v : Nat) :
    Keeps false k0 (State.writePondSplit s off h v) := by
  unfold State.writePondSplit; simp (maxDischargeDepth := 60) [kh]

@[simp] theorem State.writeRacePool_keeps {k0 s : State} (kh : Keeps false k0 s) (off : Nat) (h : Nat) (v : Word64) :
    Keeps false k0 (State.writeRacePool s off h v) := by
  unfold State.writeRacePool; simp (maxDischargeDepth := 60) [kh]

@[simp] theorem State.writeLogSelect_keeps {k0 s : State} (kh : Keeps false k0 s) (v : Word64) :
    Keeps false k0 (State.writeLogSelect s v) := by
  unfold State.writeLogSelect; simp (maxDischargeDepth := 60) [kh]

@[simp] theorem State.writeReg_keeps {k0 s : State} (kh : Keeps false k0 s) (off : Nat) (v : Word64)
    (expired : List (Nat × Nat)) (x : Reg) : Keeps false k0 (State.writeReg s off v expired x) := by
  unfold State.writeReg
  split <;> simp [kh]


@[simp] theorem State.writeSetup_keeps {k0 s : State} (kh : Keeps false k0 s) (off : Nat) (width : Nat) (v : Word64)
    (expired : List (Nat × Nat)) :
    Keeps false k0 (State.writeSetup s off width v expired) := by
  unfold State.writeSetup
  try simp (maxDischargeDepth := 60) [kh]
  repeat' (with_reducible first | assumption | intro _ | apply And.intro | apply State.reject_keeps | apply State.writeReg_keeps | apply Keeps.refl | split)
  all_goals simp (maxDischargeDepth := 60) [kh]

@[simp] theorem State.writeBar0_keeps {k0 s : State} (kh : Keeps false k0 s) (f : Nat) (off : Nat) (width : Nat) (v :
    Word64) :
    Keeps false k0 (State.writeBar0 s f off width v) := by
  unfold State.writeBar0; simp (maxDischargeDepth := 60) [kh]

@[simp] theorem execWeirLevelWrite_keeps {k0 s : State} (kh : Keeps false k0 s) (w : WeirId) (value : Word32) :
    OutKeeps false k0 (execWeirLevelWrite w value s) := by
  unfold execWeirLevelWrite; simp (maxDischargeDepth := 60) [kh]

@[simp] theorem execWeirFallingWrite_keeps {k0 s : State} (kh : Keeps false k0 s) (w : WeirId) (value : Word32) :
    OutKeeps false k0 (execWeirFallingWrite w value s) := by
  unfold execWeirFallingWrite; simp (maxDischargeDepth := 60) [kh]

@[simp] theorem execWeirCrossedClear_keeps {k0 s : State} (kh : Keeps false k0 s) (w : WeirId) (value : Word32) :
    OutKeeps false k0 (execWeirCrossedClear w value s) := by
  unfold execWeirCrossedClear; simp (maxDischargeDepth := 60) [kh]

@[simp] theorem execWeirCountClear_keeps {k0 s : State} (kh : Keeps false k0 s) (w : WeirId) (value : Word32) :
    OutKeeps false k0 (execWeirCountClear w value s) := by
  unfold execWeirCountClear; simp (maxDischargeDepth := 60) [kh]

@[simp] theorem execSetupLockWrite_keeps {k0 s : State} (kh : Keeps false k0 s) (value : Word32) :
    OutKeeps false k0 (execSetupLockWrite value s) := by
  unfold execSetupLockWrite; simp (maxDischargeDepth := 60) [kh]

@[simp] theorem execPartitionCommit_keeps {k0 s : State} (kh : Keeps false k0 s) (p : PartId) (value : Word32) :
    OutKeeps false k0 (execPartitionCommit p value s) := by
  unfold execPartitionCommit; simp (maxDischargeDepth := 60) [kh]

@[simp] theorem execPartitionRelease_keeps {k0 s : State} (kh : Keeps false k0 s) (p : PartId) (value : Word32) :
    OutKeeps false k0 (execPartitionRelease p value s) := by
  unfold execPartitionRelease; simp (maxDischargeDepth := 60) [kh]

@[simp] theorem execTenantKill_keeps {k0 s : State} (kh : Keeps false k0 s) (f : FnId) (value : Word32) :
    OutKeeps false k0 (execTenantKill f value s) := by
  unfold execTenantKill; simp (maxDischargeDepth := 60) [kh]

@[simp] theorem execStoneTest_keeps {k0 s : State} (kh : Keeps false k0 s) (p : StoneP) :
    OutKeeps false k0 (execStoneTest p s) := by
  unfold execStoneTest; simp (maxDischargeDepth := 60) [kh]

@[simp] theorem execStoneRetire_keeps {k0 s : State} (kh : Keeps false k0 s) (p : StoneP) :
    OutKeeps false k0 (execStoneRetire p s) := by
  unfold execStoneRetire; simp (maxDischargeDepth := 60) [kh]

@[simp] theorem execStoneTestDone_keeps {kb : Bool} {k0 s : State} (kh : Keeps kb k0 s) (p : StoneP) (passed : Bool) :
    OutKeeps kb k0 (execStoneTestDone p passed s) := by
  unfold execStoneTestDone; simp (maxDischargeDepth := 60) [kh]

@[simp] theorem execFwProgram_keeps {k0 s : State} (kh : Keeps false k0 s) (value : Word64) :
    OutKeeps false k0 (execFwProgram value s) := by
  unfold execFwProgram; simp (maxDischargeDepth := 60) [kh]

@[simp] theorem execGpioAssignWrite_keeps {k0 s : State} (kh : Keeps false k0 s) (pin : Fin 4) (value : Word32) (level
    : Bool) :
    OutKeeps false k0 (execGpioAssignWrite pin value level s) := by
  unfold execGpioAssignWrite; simp (maxDischargeDepth := 60) [kh]

@[simp] theorem execCombineTimeoutWrite_keeps {k0 s : State} (kh : Keeps false k0 s) (value : Word32) (expired : List
    (PartId × BitVec 16)) :
    OutKeeps false k0 (execCombineTimeoutWrite value expired s) := by
  unfold execCombineTimeoutWrite; simp (maxDischargeDepth := 60) [kh]

@[simp] theorem execFaultThresholdWrite_keeps {k0 s : State} (kh : Keeps false k0 s) (value : Word32) :
    OutKeeps false k0 (execFaultThresholdWrite value s) := by
  unfold execFaultThresholdWrite; simp (maxDischargeDepth := 60) [kh]

@[simp] theorem execLogSelectWrite_keeps {k0 s : State} (kh : Keeps false k0 s) (value : Word64) :
    OutKeeps false k0 (execLogSelectWrite value s) := by
  unfold execLogSelectWrite; simp (maxDischargeDepth := 60) [kh]

@[simp] theorem execRegisterWrite_keeps {k0 s : State} (kh : Keeps false k0 s) (f : FnId) (space : RegSpace) (offset :
    BitVec 20) (width : Nat) (value : Word64) :
    OutKeeps false k0 (execRegisterWrite f space offset width value s) := by
  unfold execRegisterWrite
  try simp (maxDischargeDepth := 60) [kh]
  repeat' (with_reducible first | assumption | intro _ | apply And.intro | apply State.settle_keeps | apply State.writeAer_keeps | apply State.writeBar0_keeps | apply State.writeDeviceControl_keeps | apply State.writeMsixControl_keeps | apply Keeps.refl | split)
  all_goals simp (maxDischargeDepth := 60) [kh]

@[simp] theorem State.zeroMemory_keeps {kb : Bool} {k0 s : State} (kh : Keeps kb k0 s) (p : Nat) :
    Keeps kb k0 (State.zeroMemory s p) := by
  unfold State.zeroMemory
  refine ⟨kh.pending, fun x => ?_, kh.host, kh.steady⟩
  exact Memory.wf_filter (kh.mem x) _


@[simp] theorem State.zeroHouse_keeps {kb : Bool} {k0 s : State} (kh : Keeps kb k0 s) (h : Nat) :
    Keeps kb k0 (State.zeroHouse s h) := by
  unfold State.zeroHouse; simp (maxDischargeDepth := 60) [kh]

@[simp] theorem State.zeroingDone_keeps {kb : Bool} {k0 s : State} (kh : Keeps kb k0 s) (p : Nat) :
    Keeps kb k0 (State.zeroingDone s p) := by
  unfold State.zeroingDone; simp (maxDischargeDepth := 60) [kh]

@[simp] theorem execZeroingDone_keeps {kb : Bool} {k0 s : State} (kh : Keeps kb k0 s) (p : PartId) :
    OutKeeps kb k0 (execZeroingDone p s) := by
  unfold execZeroingDone; simp (maxDischargeDepth := 60) [kh]

@[simp] theorem execReleaseDone_keeps {kb : Bool} {k0 s : State} (kh : Keeps kb k0 s) (p : PartId) :
    OutKeeps kb k0 (execReleaseDone p s) := by
  unfold execReleaseDone; simp (maxDischargeDepth := 60) [kh]

end Sys2Proof.Machine
end

