-- ==== Sys2Proof/Laws/KeepsManagement.lean ====
section
/-! SUPPORT. What the operations of Machine/Management.lean keep (Laws/Keeps.lean): the queue, both memories' canonical form and,
for every `kb`, the part of the state that ring commands, engines and links never change. -/
namespace Sys2Proof.Machine

@[simp] theorem State.flashRecord_keeps {kb : Bool} {k0 s : State} (kh : Keeps kb k0 s) (r : LogRec) :
    Keeps kb k0 (State.flashRecord s r) := by
  unfold State.flashRecord; simp (maxDischargeDepth := 60) [kh]

@[simp] theorem State.debugPulse_keeps {k0 s : State} (kh : Keeps false k0 s) :
    Keeps false k0 (State.debugPulse s) := by
  unfold State.debugPulse; simp (maxDischargeDepth := 60) [kh]

@[simp] theorem State.recordReached_keeps {k0 s : State} (kh : Keeps false k0 s) :
    Keeps false k0 (State.recordReached s) := by
  unfold State.recordReached; simp (maxDischargeDepth := 60) [kh]

@[simp] theorem State.logProgrammed_keeps {k0 s : State} (kh : Keeps false k0 s) :
    Keeps false k0 (State.logProgrammed s) := by
  unfold State.logProgrammed
  try simp (maxDischargeDepth := 60) [kh]
  repeat' (with_reducible first | assumption | intro _ | apply And.intro | apply State.flashRecord_keeps | apply State.recordReached_keeps | apply Keeps.refl | split)
  all_goals simp (maxDischargeDepth := 60) [kh]

@[simp] theorem execLogRecordProgrammed_keeps {k0 s : State} (kh : Keeps false k0 s) :
    OutKeeps false k0 (execLogRecordProgrammed s) := by
  unfold execLogRecordProgrammed; simp (maxDischargeDepth := 60) [kh]

@[simp] theorem State.logCopied_keeps {k0 s : State} (kh : Keeps false k0 s) :
    Keeps false k0 (State.logCopied s) := by
  unfold State.logCopied; simp (maxDischargeDepth := 60) [kh]

@[simp] theorem execLogCopyDone_keeps {k0 s : State} (kh : Keeps false k0 s) :
    OutKeeps false k0 (execLogCopyDone s) := by
  unfold execLogCopyDone; simp (maxDischargeDepth := 60) [kh]

@[simp] theorem State.scan_keeps {kb : Bool} {k0 s : State} (kh : Keeps kb k0 s) :
    Keeps kb k0 (State.scan s) := by
  unfold State.scan; simp (maxDischargeDepth := 60) [kh]

@[simp] theorem execMillerScan_keeps {kb : Bool} {k0 s : State} (kh : Keeps kb k0 s) :
    OutKeeps kb k0 (execMillerScan s) := by
  unfold execMillerScan; simp (maxDischargeDepth := 60) [kh]

@[simp] theorem State.windowEnds_keeps {k0 s : State} (kh : Keeps false k0 s) :
    Keeps false k0 (State.windowEnds s) := by
  unfold State.windowEnds; simp (maxDischargeDepth := 60) [kh]

@[simp] theorem execFaultWindowBoundary_keeps {k0 s : State} (kh : Keeps false k0 s) :
    OutKeeps false k0 (execFaultWindowBoundary s) := by
  unfold execFaultWindowBoundary; simp (maxDischargeDepth := 60) [kh]

@[simp] theorem execStoneDeadDeclared_keeps {kb : Bool} {k0 s : State} (kh : Keeps kb k0 s) (p : StoneP) :
    OutKeeps kb k0 (execStoneDeadDeclared p s) := by
  unfold execStoneDeadDeclared
  try simp (maxDischargeDepth := 60) [kh]
  repeat' (with_reducible first | assumption | intro _ | apply And.intro | apply State.declareDead_keeps | apply Keeps.refl | split)
  all_goals simp (maxDischargeDepth := 60) [kh]

@[simp] theorem execHeartbeat_keeps {kb : Bool} {k0 s : State} (kh : Keeps kb k0 s) (p : StoneP) :
    OutKeeps kb k0 (execHeartbeat p s) := by
  unfold execHeartbeat; simp (maxDischargeDepth := 60) [kh]

@[simp] theorem execCheckerRotate_keeps {kb : Bool} {k0 s : State} (kh : Keeps kb k0 s) (p : StoneP) :
    OutKeeps kb k0 (execCheckerRotate p s) := by
  unfold execCheckerRotate; simp (maxDischargeDepth := 60) [kh]

@[simp] theorem State.windowRead_keeps {kb : Bool} {k0 s : State} (kh : Keeps kb k0 s) (x n : Nat) :
    Keeps kb k0 (State.windowRead s x n) := by
  have hf (l : List (Nat × Nat × Nat)) (acc : List Byte × Bool × State) (ha : Keeps kb k0 acc.2.2) :
      Keeps kb k0 (l.foldl (fun (acc : List Byte × Bool × State) b =>
        if acc.2.2.windowReaches b.1 then
          let d := acc.2.2.devRead {} b.1 b.2.2
          (acc.1 ++ d.1, acc.2.1 || d.2.1, d.2.2)
        else (acc.1 ++ natLe b.2.2 0, acc.2.1, acc.2.2)) acc).2.2 := by
    induction l generalizing acc with
    | nil => exact ha
    | cons b l ih =>
      apply ih
      dsimp only
      split
      · simp [ha]
      · exact ha
  unfold State.windowRead
  have h2 := hf (blocks (s.windowAddr x) n) ([], false, s) kh
  dsimp only at h2 ⊢
  apply keeps_mk
  exact h2


@[simp] theorem State.windowWrite_keeps {kb : Bool} {k0 s : State} (kh : Keeps kb k0 s) (x : Nat) (data : List Byte) :
    Keeps kb k0 (State.windowWrite s x data) := by
  unfold State.windowWrite; simp (maxDischargeDepth := 60) [kh]

@[simp] theorem execMemwinRead_keeps {kb : Bool} {k0 s : State} (kh : Keeps kb k0 s) (offset : BitVec 32) (len : Nat)
    :
    OutKeeps kb k0 (execMemwinRead offset len s) := by
  unfold execMemwinRead; simp (maxDischargeDepth := 60) [kh]

@[simp] theorem execMemwinWrite_keeps {kb : Bool} {k0 s : State} (kh : Keeps kb k0 s) (offset : BitVec 32) (data :
    List Byte) :
    OutKeeps kb k0 (execMemwinWrite offset data s) := by
  unfold execMemwinWrite; simp (maxDischargeDepth := 60) [kh]

@[simp] theorem State.blockRead_keeps {k0 s : State} (kh : Keeps false k0 s) (code : Byte) (pec : Bool) (block : List
    Byte) :
    Keeps false k0 (State.blockRead s code pec block) := by
  unfold State.blockRead; simp (maxDischargeDepth := 60) [kh]

@[simp] theorem execSmbIdentity_keeps {k0 s : State} (kh : Keeps false k0 s) (pec : Bool) :
    OutKeeps false k0 (execSmbIdentity pec s) := by
  unfold execSmbIdentity; simp (maxDischargeDepth := 60) [kh]

@[simp] theorem execSmbHealth_keeps {k0 s : State} (kh : Keeps false k0 s) (pec : Bool) :
    OutKeeps false k0 (execSmbHealth pec s) := by
  unfold execSmbHealth; simp (maxDischargeDepth := 60) [kh]

@[simp] theorem execSmbLogEnd_keeps {k0 s : State} (kh : Keeps false k0 s) (pec : Bool) :
    OutKeeps false k0 (execSmbLogEnd pec s) := by
  unfold execSmbLogEnd; simp (maxDischargeDepth := 60) [kh]

@[simp] theorem execSmbLogSelect_keeps {k0 s : State} (kh : Keeps false k0 s) (seq : Word64) (pecOk : Bool) :
    OutKeeps false k0 (execSmbLogSelect seq pecOk s) := by
  unfold execSmbLogSelect; simp (maxDischargeDepth := 60) [kh]

@[simp] theorem execSmbLogRead_keeps {k0 s : State} (kh : Keeps false k0 s) (pec : Bool) :
    OutKeeps false k0 (execSmbLogRead pec s) := by
  unfold execSmbLogRead
  try simp (maxDischargeDepth := 60) [kh]
  repeat' (with_reducible first | assumption | intro _ | apply And.intro | apply Keeps.refl | split)
  all_goals simp (maxDischargeDepth := 60) [kh]

@[simp] theorem execSmbAlertResponse_keeps {k0 s : State} (kh : Keeps false k0 s) (won : Bool) (causeAfter : Bool) :
    OutKeeps false k0 (execSmbAlertResponse won causeAfter s) := by
  unfold execSmbAlertResponse; simp (maxDischargeDepth := 60) [kh]

@[simp] theorem execUartId_keeps {k0 s : State} (kh : Keeps false k0 s) :
    OutKeeps false k0 (execUartId s) := by
  unfold execUartId; simp (maxDischargeDepth := 60) [kh]

@[simp] theorem execUartHealth_keeps {k0 s : State} (kh : Keeps false k0 s) :
    OutKeeps false k0 (execUartHealth s) := by
  unfold execUartHealth; simp (maxDischargeDepth := 60) [kh]

@[simp] theorem execUartLogend_keeps {k0 s : State} (kh : Keeps false k0 s) :
    OutKeeps false k0 (execUartLogend s) := by
  unfold execUartLogend; simp (maxDischargeDepth := 60) [kh]

@[simp] theorem execUartLog_keeps {k0 s : State} (kh : Keeps false k0 s) (line : List Byte) :
    OutKeeps false k0 (execUartLog line s) := by
  unfold execUartLog; simp (maxDischargeDepth := 60) [kh]

@[simp] theorem execTapReset_keeps {k0 s : State} (kh : Keeps false k0 s) :
    OutKeeps false k0 (execTapReset s) := by
  unfold execTapReset; simp (maxDischargeDepth := 60) [kh]

@[simp] theorem State.tapBypass_keeps {k0 s : State} (kh : Keeps false k0 s) :
    Keeps false k0 (State.tapBypass s) := by
  unfold State.tapBypass; simp (maxDischargeDepth := 60) [kh]

@[simp] theorem execBypass_keeps {k0 s : State} (kh : Keeps false k0 s) :
    OutKeeps false k0 (execBypass s) := by
  unfold execBypass; simp (maxDischargeDepth := 60) [kh]

@[simp] theorem execIdcode_keeps {k0 s : State} (kh : Keeps false k0 s) :
    OutKeeps false k0 (execIdcode s) := by
  unfold execIdcode; simp (maxDischargeDepth := 60) [kh]

@[simp] theorem State.shownPins_keeps {k0 s : State} (kh : Keeps false k0 s) (p : PinLevels) :
    Keeps false k0 (State.shownPins s p) := by
  unfold State.shownPins; simp (maxDischargeDepth := 60) [kh]

@[simp] theorem execSamplePreload_keeps {k0 s : State} (kh : Keeps false k0 s) (pins : PinLevels) (preload : BitVec 9)
    :
    OutKeeps false k0 (execSamplePreload pins preload s) := by
  unfold execSamplePreload; simp (maxDischargeDepth := 60) [kh]

@[simp] theorem execExtest_keeps {k0 s : State} (kh : Keeps false k0 s) (pins : PinLevels) :
    OutKeeps false k0 (execExtest pins s) := by
  unfold execExtest; simp (maxDischargeDepth := 60) [kh]

@[simp] theorem execDebugTrigPulseEnd_keeps {k0 s : State} (kh : Keeps false k0 s) (pin : Fin 2) :
    OutKeeps false k0 (execDebugTrigPulseEnd pin s) := by
  unfold execDebugTrigPulseEnd; simp (maxDischargeDepth := 60) [kh]

end Sys2Proof.Machine
end

