-- ==== Sys2Proof/Laws/KeepsLinkSchedule.lean ====
section
/-! SUPPORT. What the operations of Machine/LinkSchedule.lean keep (Laws/Keeps.lean): the queue, both memories' canonical form and,
for every `kb`, the part of the state that ring commands, engines and links never change. -/
namespace Sys2Proof.Machine

@[simp] theorem readImage_keeps {kb : Bool} (f : Nat) (va : Nat) :
    RunKeeps kb (readImage f va) := by
  unfold readImage; simp (maxDischargeDepth := 60)

@[simp] theorem State.enterSync_keeps {kb : Bool} {k0 s : State} (kh : Keeps kb k0 s) (r : Nat) (x : Schedule) :
    Keeps kb k0 (State.enterSync s r x) := by
  unfold State.enterSync; simp (maxDischargeDepth := 60) [kh]

@[simp] theorem State.linkSchedule_keeps {kb : Bool} {k0 s : State} (kh : Keeps kb k0 s) (f : Nat) (r : Nat) (c :
    Running) :
    Keeps kb k0 (State.linkSchedule s f r c) := by
  unfold State.linkSchedule
  try simp (maxDischargeDepth := 60) [kh]
  repeat' (with_reducible first | assumption | intro _ | apply And.intro | apply State.enterSync_keeps | apply State.fail_keeps | apply State.failRead_keeps | apply State.setRunning_keeps | apply readImage_keeps | apply keeps_exec | apply Keeps.refl | split)
  all_goals simp (maxDischargeDepth := 60) [kh]

@[simp] theorem execLinkSchedule_keeps {kb : Bool} {k0 s : State} (kh : Keeps kb k0 s) (f : FnId) (r : RingIx) :
    OutKeeps kb k0 (execLinkSchedule f r s) := by
  unfold execLinkSchedule; simp (maxDischargeDepth := 60) [kh]

@[simp] theorem State.linkHaltCmd_keeps {kb : Bool} {k0 s : State} (kh : Keeps kb k0 s) (f : Nat) (r : Nat) (c :
    Running) :
    Keeps kb k0 (State.linkHaltCmd s f r c) := by
  unfold State.linkHaltCmd; simp (maxDischargeDepth := 60) [kh]

@[simp] theorem execLinkScheduleHalt_keeps {kb : Bool} {k0 s : State} (kh : Keeps kb k0 s) (f : FnId) (r : RingIx) :
    OutKeeps kb k0 (execLinkScheduleHalt f r s) := by
  unfold execLinkScheduleHalt; simp (maxDischargeDepth := 60) [kh]

@[simp] theorem State.syncExpiry_keeps {kb : Bool} {k0 s : State} (kh : Keeps kb k0 s) :
    Keeps kb k0 (State.syncExpiry s) := by
  unfold State.syncExpiry
  try simp (maxDischargeDepth := 60) [kh]
  repeat' (with_reducible first | assumption | intro _ | apply And.intro | apply State.finish_keeps | apply State.leatOff_keeps | apply Keeps.refl | split)
  all_goals simp (maxDischargeDepth := 60) [kh]

@[simp] theorem execLinkScheduleTimeout_keeps {kb : Bool} {k0 s : State} (kh : Keeps kb k0 s) :
    OutKeeps kb k0 (execLinkScheduleTimeout s) := by
  unfold execLinkScheduleTimeout; simp (maxDischargeDepth := 60) [kh]

@[simp] theorem State.portTrained_keeps {kb : Bool} {k0 s : State} (kh : Keeps kb k0 s) (p : Nat) (ns : Nat) :
    Keeps kb k0 (State.portTrained s p ns) := by
  unfold State.portTrained; simp (maxDischargeDepth := 60) [kh]

@[simp] theorem execPortTrained_keeps {kb : Bool} {k0 s : State} (kh : Keeps kb k0 s) (port : PortIx) (latencyNs :
    Nat) :
    OutKeeps kb k0 (execPortTrained port latencyNs s) := by
  unfold execPortTrained; simp (maxDischargeDepth := 60) [kh]

@[simp] theorem State.los_keeps {kb : Bool} {k0 s : State} (kh : Keeps kb k0 s) (p : Nat) :
    Keeps kb k0 (State.los s p) := by
  unfold State.los; simp (maxDischargeDepth := 60) [kh]

@[simp] theorem execLos_keeps {kb : Bool} {k0 s : State} (kh : Keeps kb k0 s) (port : PortIx) :
    OutKeeps kb k0 (execLos port s) := by
  unfold execLos; simp (maxDischargeDepth := 60) [kh]

@[simp] theorem State.stall_keeps {kb : Bool} {k0 s : State} (kh : Keeps kb k0 s) (p : Nat) (c : Nat) :
    Keeps kb k0 (State.stall s p c) := by
  unfold State.stall; simp (maxDischargeDepth := 60) [kh]

@[simp] theorem execStall_keeps {kb : Bool} {k0 s : State} (kh : Keeps kb k0 s) (port : PortIx) (chan : Fin 16) :
    OutKeeps kb k0 (execStall port chan s) := by
  unfold execStall; simp (maxDischargeDepth := 60) [kh]

@[simp] theorem State.takePulse_keeps {kb : Bool} {k0 s : State} (kh : Keeps kb k0 s) (kind : Option Bool) (ps : Int)
    :
    Keeps kb k0 (State.takePulse s kind ps) := by
  unfold State.takePulse
  try simp (maxDischargeDepth := 60) [kh]
  repeat' (with_reducible first | assumption | intro _ | apply And.intro | apply Keeps.refl | split)
  all_goals simp (maxDischargeDepth := 60) [kh]

@[simp] theorem State.showEdge_keeps {kb : Bool} {k0 s : State} (kh : Keeps kb k0 s) :
    Keeps kb k0 (State.showEdge s) := by
  unfold State.showEdge; simp (maxDischargeDepth := 60) [kh]

@[simp] theorem execTsyncPulseIn_keeps {kb : Bool} {k0 s : State} (kh : Keeps kb k0 s) (widthNs : Nat) (offsetPs :
    Int) :
    OutKeeps kb k0 (execTsyncPulseIn widthNs offsetPs s) := by
  unfold execTsyncPulseIn; simp (maxDischargeDepth := 60) [kh]

@[simp] theorem execTsyncFbPulse_keeps {kb : Bool} {k0 s : State} (kh : Keeps kb k0 s) (widthNs : Nat) (offsetPs :
    Int) :
    OutKeeps kb k0 (execTsyncFbPulse widthNs offsetPs s) := by
  unfold execTsyncFbPulse; simp (maxDischargeDepth := 60) [kh]

@[simp] theorem execTsyncLost_keeps {kb : Bool} {k0 s : State} (kh : Keeps kb k0 s) :
    OutKeeps kb k0 (execTsyncLost s) := by
  unfold execTsyncLost; simp (maxDischargeDepth := 60) [kh]

end Sys2Proof.Machine
end

