-- ==== Sys2Proof/Laws/KeepsPower.lean ====
section
/-! SUPPORT. What the operations of Machine/Power.lean keep (Laws/Keeps.lean): the queue, both memories' canonical form and,
for every `kb`, the part of the state that ring commands, engines and links never change. -/
namespace Sys2Proof.Machine

theorem State.capPeriod_atLimit_keeps {k0 s : State} (kh : Keeps false k0 s) (p : Power) (second : Bool) :
    Keeps false k0 (State.capPeriod.atLimit s p second) := by
  unfold State.capPeriod.atLimit
  split <;> simp [kh]

@[simp] theorem State.capPeriod_keeps {k0 s : State} (kh : Keeps false k0 s) (w ma mv : Nat) (t : Int) (floorSecond : Bool) :
    Keeps false k0 (State.capPeriod s w ma mv t floorSecond) := by
  unfold State.capPeriod
  dsimp only
  split
  · exact State.capPeriod_atLimit_keeps kh _ _
  · split
    · exact State.capPeriod_atLimit_keeps kh _ _
    · split <;> simp [kh]


@[simp] theorem execCapPeriod_keeps {k0 s : State} (kh : Keeps false k0 s) (powerW : Nat) (currentMa : Nat) (voltageMv
    : Nat) (tempMilliC : Int) (floorSecond : Bool) :
    OutKeeps false k0 (execCapPeriod powerW currentMa voltageMv tempMilliC floorSecond s) := by
  unfold execCapPeriod; simp (maxDischargeDepth := 60) [kh]

@[simp] theorem State.moduleReset_keeps {k0 s : State} (kh : Keeps false k0 s) (ps : PowerState) :
    Keeps false k0 (State.moduleReset s ps) := by
  unfold State.moduleReset; simp (maxDischargeDepth := 60) [kh]

@[simp] theorem State.cutProgramming_keeps {kb : Bool} {k0 s : State} (kh : Keeps kb k0 s) :
    Keeps kb k0 (State.cutProgramming s) := by
  unfold State.cutProgramming; simp (maxDischargeDepth := 60) [kh]

@[simp] theorem execResetInAssert_keeps {k0 s : State} (kh : Keeps false k0 s) :
    OutKeeps false k0 (execResetInAssert s) := by
  unfold execResetInAssert; simp (maxDischargeDepth := 60) [kh]

@[simp] theorem State.selfReset_keeps {k0 s : State} (kh : Keeps false k0 s) :
    Keeps false k0 (State.selfReset s) := by
  unfold State.selfReset; simp (maxDischargeDepth := 60) [kh]

@[simp] theorem execMillerWatchdog_keeps {k0 s : State} (kh : Keeps false k0 s) :
    OutKeeps false k0 (execMillerWatchdog s) := by
  unfold execMillerWatchdog; simp (maxDischargeDepth := 60) [kh]

@[simp] theorem State.flashNow_keeps {kb : Bool} {k0 s : State} (kh : Keeps kb k0 s) (kind : BitVec 8) (event : Nat)
    (value : Nat) :
    Keeps kb k0 (State.flashNow s kind event value) := by
  unfold State.flashNow; simp (maxDischargeDepth := 60) [kh]

@[simp] theorem execPllUnlock_keeps {k0 s : State} (kh : Keeps false k0 s) :
    OutKeeps false k0 (execPllUnlock s) := by
  unfold execPllUnlock; simp (maxDischargeDepth := 60) [kh]

@[simp] theorem execThermalTrip_keeps {k0 s : State} (kh : Keeps false k0 s) :
    OutKeeps false k0 (execThermalTrip s) := by
  unfold execThermalTrip; simp (maxDischargeDepth := 60) [kh]

@[simp] theorem State.powerLost_keeps {k0 s : State} (kh : Keeps false k0 s) :
    Keeps false k0 (State.powerLost s) := by
  unfold State.powerLost; simp (maxDischargeDepth := 60) [kh]

@[simp] theorem execPowerFail_keeps {k0 s : State} (kh : Keeps false k0 s) :
    OutKeeps false k0 (execPowerFail s) := by
  unfold execPowerFail; simp (maxDischargeDepth := 60) [kh]

@[simp] theorem execHoldupExpiry_keeps {k0 s : State} (kh : Keeps false k0 s) :
    OutKeeps false k0 (execHoldupExpiry s) := by
  unfold execHoldupExpiry; simp (maxDischargeDepth := 60) [kh]

@[simp] theorem execInputRemoved_keeps {k0 s : State} (kh : Keeps false k0 s) :
    OutKeeps false k0 (execInputRemoved s) := by
  unfold execInputRemoved; simp (maxDischargeDepth := 60) [kh]

@[simp] theorem State.restoreKept_keeps {kb : Bool} {k0 s : State} (kh : Keeps kb k0 s) :
    Keeps kb k0 (State.restoreKept s) := by
  unfold State.restoreKept; simp (maxDischargeDepth := 60) [kh]

@[simp] theorem State.startRecords_keeps {k0 s : State} (kh : Keeps false k0 s) (rolled : Bool) :
    Keeps false k0 (State.startRecords s rolled) := by
  unfold State.startRecords
  try simp (maxDischargeDepth := 60) [kh]
  repeat' (with_reducible first | assumption | intro _ | apply And.intro | apply State.log_keeps | apply State.logFirmware_keeps | apply keeps_foldl | apply Keeps.refl | split)
  all_goals simp (maxDischargeDepth := 60) [kh]

@[simp] theorem State.startUp_keeps {k0 s : State} (kh : Keeps false k0 s) (straps : BitVec 2) :
    Keeps false k0 (State.startUp s straps) := by
  unfold State.startUp
  try simp (maxDischargeDepth := 60) [kh]
  repeat' (with_reducible first | assumption | intro _ | apply And.intro | apply State.restoreKept_keeps | apply State.startRecords_keeps | apply Keeps.refl | split)
  all_goals simp (maxDischargeDepth := 60) [kh]

@[simp] theorem execStartUp_keeps {k0 s : State} (kh : Keeps false k0 s) (straps : BitVec 2) :
    OutKeeps false k0 (execStartUp straps s) := by
  unfold execStartUp; simp (maxDischargeDepth := 60) [kh]

@[simp] theorem execPllLock_keeps {k0 s : State} (kh : Keeps false k0 s) :
    OutKeeps false k0 (execPllLock s) := by
  unfold execPllLock; simp (maxDischargeDepth := 60) [kh]

@[simp] theorem State.trainingEnd_keeps {k0 s : State} (kh : Keeps false k0 s) (hbm : BitVec 12) (tier : BitVec 4) :
    Keeps false k0 (State.trainingEnd s hbm tier) := by
  unfold State.trainingEnd; simp (maxDischargeDepth := 60) [kh]

@[simp] theorem execTrainingEnd_keeps {k0 s : State} (kh : Keeps false k0 s) (hbmFail : BitVec 12) (tierFail : BitVec
    4) :
    OutKeeps false k0 (execTrainingEnd hbmFail tierFail s) := by
  unfold execTrainingEnd; simp (maxDischargeDepth := 60) [kh]

@[simp] theorem execConfigurationReady_keeps {k0 s : State} (kh : Keeps false k0 s) (rate : Fin 3) (x16 : Bool) :
    OutKeeps false k0 (execConfigurationReady rate x16 s) := by
  unfold execConfigurationReady; simp (maxDischargeDepth := 60) [kh]

@[simp] theorem State.resetVfs_keeps {k0 s : State} (kh : Keeps false k0 s) (keep : Bool) :
    Keeps false k0 (State.resetVfs s keep) := by
  unfold State.resetVfs; simp (maxDischargeDepth := 60) [kh]

@[simp] theorem State.resetPf_keeps {k0 s : State} (kh : Keeps false k0 s) :
    Keeps false k0 (State.resetPf s) := by
  unfold State.resetPf; simp (maxDischargeDepth := 60) [kh]

@[simp] theorem State.portReset_keeps {k0 s : State} (kh : Keeps false k0 s) :
    Keeps false k0 (State.portReset s) := by
  unfold State.portReset; simp (maxDischargeDepth := 60) [kh]

@[simp] theorem execPerstAssert_keeps {k0 s : State} (kh : Keeps false k0 s) :
    OutKeeps false k0 (execPerstAssert s) := by
  unfold execPerstAssert; simp (maxDischargeDepth := 60) [kh]

@[simp] theorem execPerstRelease_keeps {k0 s : State} (kh : Keeps false k0 s) :
    OutKeeps false k0 (execPerstRelease s) := by
  unfold execPerstRelease; simp (maxDischargeDepth := 60) [kh]

@[simp] theorem execPcieLinkDown_keeps {k0 s : State} (kh : Keeps false k0 s) :
    OutKeeps false k0 (execPcieLinkDown s) := by
  unfold execPcieLinkDown; simp (maxDischargeDepth := 60) [kh]

@[simp] theorem execFunctionLevelReset_keeps {k0 s : State} (kh : Keeps false k0 s) (f : FnId) :
    OutKeeps false k0 (execFunctionLevelReset f s) := by
  unfold execFunctionLevelReset; simp (maxDischargeDepth := 60) [kh]

@[simp] theorem execPf0FunctionLevelReset_keeps {k0 s : State} (kh : Keeps false k0 s) :
    OutKeeps false k0 (execPf0FunctionLevelReset s) := by
  unfold execPf0FunctionLevelReset; simp (maxDischargeDepth := 60) [kh]

@[simp] theorem execFlrEnd_keeps {k0 s : State} (kh : Keeps false k0 s) (f : FnId) :
    OutKeeps false k0 (execFlrEnd f s) := by
  unfold execFlrEnd; simp (maxDischargeDepth := 60) [kh]

@[simp] theorem execD3hotEntry_keeps {kb : Bool} {k0 s : State} (kh : Keeps kb k0 s) (f : FnId) :
    OutKeeps kb k0 (execD3hotEntry f s) := by
  unfold execD3hotEntry; simp (maxDischargeDepth := 60) [kh]

@[simp] theorem execD0Return_keeps {k0 s : State} (kh : Keeps false k0 s) (f : FnId) :
    OutKeeps false k0 (execD0Return f s) := by
  unfold execD0Return; simp (maxDischargeDepth := 60) [kh]

@[simp] theorem execVfEnableWrite_keeps {k0 s : State} (kh : Keeps false k0 s) (enable : Bool) (numVfs : Nat) :
    OutKeeps false k0 (execVfEnableWrite enable numVfs s) := by
  unfold execVfEnableWrite; simp (maxDischargeDepth := 60) [kh]

@[simp] theorem State.fwDone_keeps {k0 s : State} (kh : Keeps false k0 s) (keyOk : Bool) (flashOk : Bool) :
    Keeps false k0 (State.fwDone s keyOk flashOk) := by
  unfold State.fwDone; simp (maxDischargeDepth := 60) [kh]

@[simp] theorem execFwProgramDone_keeps {k0 s : State} (kh : Keeps false k0 s) (keyOk : Bool) (flashOk : Bool) :
    OutKeeps false k0 (execFwProgramDone keyOk flashOk s) := by
  unfold execFwProgramDone; simp (maxDischargeDepth := 60) [kh]

end Sys2Proof.Machine
end

