-- ==== Sys2Proof/Laws/KeepsSnapshot.lean ====
section
/-! SUPPORT. What the operations of Machine/Snapshot.lean keep (Laws/Keeps.lean): the queue, both memories' canonical form and,
for every `kb`, the part of the state that ring commands, engines and links never change. -/
namespace Sys2Proof.Machine

@[simp] theorem onDevice_keeps {kb : Bool} (a : Acc) (va : Nat) (n : Nat) :
    RunKeeps kb (onDevice a va n) := by
  unfold onDevice; simp (maxDischargeDepth := 60)

@[simp] theorem State.snapshot_keeps {kb : Bool} {k0 s : State} (kh : Keeps kb k0 s) (f : Nat) (r : Nat) (c : Running)
    :
    Keeps kb k0 (State.snapshot s f r c) := by
  unfold State.snapshot
  try simp (maxDischargeDepth := 60) [kh]
  repeat' (with_reducible first | assumption | intro _ | apply And.intro | apply Drain.run_keeps | apply State.fail_keeps | apply State.imageDue_keeps | apply State.setRunning_keeps | apply State.stopDue_keeps | apply State.stopIdle_keeps | apply State.stopped_keeps | apply onDevice_keeps | apply writeV_keeps | apply keeps_foldl | apply keeps_exec | apply Keeps.refl | split)
  all_goals simp (maxDischargeDepth := 60) [kh]

@[simp] theorem execSnapshot_keeps {kb : Bool} {k0 s : State} (kh : Keeps kb k0 s) (f : FnId) (r : RingIx) :
    OutKeeps kb k0 (execSnapshot f r s) := by
  unfold execSnapshot; simp (maxDischargeDepth := 60) [kh]

@[simp] theorem State.loadSets_keeps {kb : Bool} {k0 s : State} (kh : Keeps kb k0 s) (old : State) (xs : List
    SetImage) :
    Keeps kb k0 (State.loadSets s old xs) := by
  unfold State.loadSets
  try simp (maxDischargeDepth := 60) [kh]
  repeat' (with_reducible first | assumption | intro _ | apply And.intro | apply State.modStone_keeps | apply State.takeStagePawl_keeps | apply keeps_foldl | apply Keeps.refl | split)
  all_goals simp (maxDischargeDepth := 60) [kh]

@[simp] theorem readSnapshot_keeps {kb : Bool} (a : Acc) (va : Nat) :
    RunKeeps kb (readSnapshot a va) := by
  unfold readSnapshot; simp (maxDischargeDepth := 60)

@[simp] theorem State.restoreSets_keeps {kb : Bool} {k0 s : State} (kh : Keeps kb k0 s) (f : Nat) (r : Nat) (c :
    Running) (plan : Nat) (xs : List SetImage) :
    Keeps kb k0 (State.restoreSets s f r c plan xs) := by
  unfold State.restoreSets
  try simp (maxDischargeDepth := 60) [kh]
  repeat' (with_reducible first | assumption | intro _ | apply And.intro | apply Drain.all_keeps | apply Drain.run_keeps | apply State.fail_keeps | apply State.failRead_keeps | apply State.loadSets_keeps | apply State.setRunning_keeps | apply State.tryBind_keeps | apply bindPlan_keeps | apply Keeps.refl | split)
  all_goals simp (maxDischargeDepth := 60) [kh]

@[simp] theorem State.restore_keeps {kb : Bool} {k0 s : State} (kh : Keeps kb k0 s) (f : Nat) (r : Nat) (c : Running)
    :
    Keeps kb k0 (State.restore s f r c) := by
  unfold State.restore
  try simp (maxDischargeDepth := 60) [kh]
  repeat' (with_reducible first | assumption | intro _ | apply And.intro | apply Drain.run_keeps | apply State.fail_keeps | apply State.failRead_keeps | apply State.restoreSets_keeps | apply State.tryBind_keeps | apply bindPlan_keeps | apply readSnapshot_keeps | apply keeps_exec | apply Keeps.refl | split)
  all_goals simp (maxDischargeDepth := 60) [kh]

@[simp] theorem execRestore_keeps {kb : Bool} {k0 s : State} (kh : Keeps kb k0 s) (f : FnId) (r : RingIx) :
    OutKeeps kb k0 (execRestore f r s) := by
  unfold execRestore; simp (maxDischargeDepth := 60) [kh]

end Sys2Proof.Machine
end

