-- ==== Sys2Proof/Laws/KeepsTurns.lean ====
section
/-! SUPPORT. What the operations of Machine/Turns.lean keep (Laws/Keeps.lean): the queue, both memories' canonical form and,
for every `kb`, the part of the state that ring commands, engines and links never change. -/
namespace Sys2Proof.Machine

@[simp] theorem State.sendSlot_keeps {kb : Bool} {k0 s : State} (kh : Keeps kb k0 s) (p : Nat) (i : Nat) :
    Keeps kb k0 (State.sendSlot s p i).1 := by
  unfold State.sendSlot
  try simp (maxDischargeDepth := 60) [kh]
  repeat' (with_reducible first | assumption | intro _ | apply And.intro | apply Collective.take_keeps | apply State.setPort_keeps | apply Keeps.refl | split)
  all_goals simp (maxDischargeDepth := 60) [kh]

theorem sendSlots_fold_keeps {kb : Bool} {k0 : State} (p : Nat) (l : List Nat) (x : State × List TxFlit)
    (hx : Keeps kb k0 x.1) : Keeps kb k0
      (l.foldl (fun x i => let y := x.1.sendSlot p i; (y.1, x.2 ++ y.2)) x).1 := by
  induction l generalizing x with
  | nil => exact hx
  | cons i l ih => exact ih _ (State.sendSlot_keeps hx p i)

@[simp] theorem State.sendSlots_keeps {kb : Bool} {k0 s : State} (kh : Keeps kb k0 s) (p : Nat) :
    Keeps kb k0 (State.sendSlots s p).1 := sendSlots_fold_keeps p _ _ kh


theorem sendTurn_fold_keeps {kb : Bool} {k0 s : State} (l : List Nat) (x : State × List TxFlit)
    (hx : Keeps kb k0 x.1) : Keeps kb k0
      (l.foldl (fun x p =>
        let y := if x.1.leat.state = .run then x.1.sendSlots p else (x.1, (upFrom 1 75).flatMap (s.idleSlot p))
        (y.1, x.2 ++ s.markers p ++ y.2 ++ (upFrom 76 4).flatMap (s.idleSlot p))) x).1 := by
  induction l generalizing x with
  | nil => exact hx
  | cons i l ih =>
    apply ih
    dsimp only
    split
    · exact State.sendSlots_keeps hx i
    · exact hx

@[simp] theorem State.sendTurn_keeps {kb : Bool} {k0 s : State} (kh : Keeps kb k0 s) : Keeps kb k0 (State.sendTurn s) := by
  unfold State.sendTurn
  dsimp only
  apply keeps_mk
  exact sendTurn_fold_keeps (s := s) _ (s, []) kh


@[simp] theorem State.parseChan_keeps {kb : Bool} {k0 s : State} (kh : Keeps kb k0 s) (p c n : Nat) :
    Keeps kb k0 (State.parseChan s p c n) := by
  induction n generalizing s with
  | zero => exact kh
  | succ n ih =>
    unfold State.parseChan
    dsimp only
    split
    · exact kh
    · split
      · simp [kh]
      · split
        · exact kh
        · split <;> apply ih <;> simp (maxDischargeDepth := 60) [kh]


@[simp] theorem State.deliverSlot_keeps {kb : Bool} {k0 s : State} (kh : Keeps kb k0 s) (turn : Word64) (p : Nat) (i :
    Nat) (fl : List RxFlit) :
    Keeps kb k0 (State.deliverSlot s turn p i fl) := by
  unfold State.deliverSlot
  try simp (maxDischargeDepth := 60) [kh]
  repeat' (with_reducible first | assumption | intro _ | apply And.intro | apply State.parseChan_keeps | apply State.setPort_keeps | apply Keeps.refl | split)
  all_goals simp (maxDischargeDepth := 60) [kh]

@[simp] theorem State.deliverPort_keeps {kb : Bool} {k0 s : State} (kh : Keeps kb k0 s) (p : Nat) :
    Keeps kb k0 (State.deliverPort s p) := by
  unfold State.deliverPort; simp (maxDischargeDepth := 60) [kh]

@[simp] theorem State.abortLinkWork_keeps {kb : Bool} {k0 s : State} (kh : Keeps kb k0 s) :
    Keeps kb k0 (State.abortLinkWork s) := by
  unfold State.abortLinkWork
  try simp (maxDischargeDepth := 60) [kh]
  repeat' (with_reducible first | assumption | intro _ | apply And.intro | apply State.breakTag_keeps | apply State.endCommand_keeps | apply State.finish_keeps | apply keeps_foldl | apply Keeps.refl | split)
  all_goals simp (maxDischargeDepth := 60) [kh]

@[simp] theorem State.haltNow_keeps {k0 s : State} (kh : Keeps false k0 s) :
    Keeps false k0 (State.haltNow s) := by
  unfold State.haltNow; simp (maxDischargeDepth := 60) [kh]

@[simp] theorem State.startTurn_keeps {kb : Bool} {k0 s : State} (kh : Keeps kb k0 s) :
    Keeps kb k0 (State.startTurn s) := by
  unfold State.startTurn
  try simp (maxDischargeDepth := 60) [kh]
  repeat' (with_reducible first | assumption | intro _ | apply And.intro | apply State.finish_keeps | apply State.linkFail_keeps | apply State.sendTurn_keeps | apply Keeps.refl | split)
  all_goals simp (maxDischargeDepth := 60) [kh]

@[simp] theorem State.syncTurn_keeps {kb : Bool} {k0 s : State} (kh : Keeps kb k0 s) :
    Keeps kb k0 (State.syncTurn s) := by
  unfold State.syncTurn; simp (maxDischargeDepth := 60) [kh]

@[simp] theorem State.runTurn_keeps {kb : Bool} {k0 s : State} (kh : Keeps kb k0 s) :
    Keeps kb k0 (State.runTurn s) := by
  unfold State.runTurn; simp (maxDischargeDepth := 60) [kh]

@[simp] theorem State.countEdge_keeps {kb : Bool} {k0 s : State} (kh : Keeps kb k0 s) :
    Keeps kb k0 (State.countEdge s) := by
  unfold State.countEdge; simp (maxDischargeDepth := 60) [kh]

@[simp] theorem State.turnBoundary_keeps {k0 s : State} (kh : Keeps false k0 s) :
    Keeps false k0 (State.turnBoundary s) := by
  unfold State.turnBoundary
  try simp (maxDischargeDepth := 60) [kh]
  repeat' (with_reducible first | assumption | intro _ | apply And.intro | apply State.countEdge_keeps | apply State.haltNow_keeps | apply State.runTurn_keeps | apply State.sendTurn_keeps | apply State.syncTurn_keeps | apply Keeps.refl | split)
  all_goals simp (maxDischargeDepth := 60) [kh]

@[simp] theorem execTurnBoundary_keeps {k0 s : State} (kh : Keeps false k0 s) :
    OutKeeps false k0 (execTurnBoundary s) := by
  unfold execTurnBoundary; simp (maxDischargeDepth := 60) [kh]

@[simp] theorem State.failIf_keeps {kb : Bool} {k0 s : State} (kh : Keeps kb k0 s) (b : Bool) (p : Nat) (reason :
    BitVec 8) :
    Keeps kb k0 (State.failIf s b p reason) := by
  unfold State.failIf; simp (maxDischargeDepth := 60) [kh]

@[simp] theorem State.takeCredits_keeps {kb : Bool} {k0 s : State} (kh : Keeps kb k0 s) (p : Nat) (bs : List Byte) :
    Keeps kb k0 (State.takeCredits s p bs) := by
  unfold State.takeCredits; simp (maxDischargeDepth := 60) [kh]

@[simp] theorem State.replay_keeps {kb : Bool} {k0 s : State} (kh : Keeps kb k0 s) (p : Nat) (bs : List Byte) :
    Keeps kb k0 (State.replay s p bs) := by
  unfold State.replay; simp (maxDischargeDepth := 60) [kh]

@[simp] theorem State.peerHalt_keeps {kb : Bool} {k0 s : State} (kh : Keeps kb k0 s) (bs : List Byte) :
    Keeps kb k0 (State.peerHalt s bs) := by
  unfold State.peerHalt; simp (maxDischargeDepth := 60) [kh]

@[simp] theorem State.marker_keeps {kb : Bool} {k0 s : State} (kh : Keeps kb k0 s) (p : Nat) (bs : List Byte) (arrival
    : Int) :
    Keeps kb k0 (State.marker s p bs arrival) := by
  unfold State.marker; simp (maxDischargeDepth := 60) [kh]

@[simp] theorem State.countBad_keeps {kb : Bool} {k0 s : State} (kh : Keeps kb k0 s) (p : Nat) (lane : Nat) :
    Keeps kb k0 (State.countBad s p lane) := by
  unfold State.countBad; simp (maxDischargeDepth := 60) [kh]

@[simp] theorem State.markerSlot_keeps {kb : Bool} {k0 s : State} (kh : Keeps kb k0 s) (p : Nat) (lanes : List (Option
    (BitVec 20 × List Byte))) (arrival : Int) :
    Keeps kb k0 (State.markerSlot s p lanes arrival) := by
  unfold State.markerSlot
  try simp (maxDischargeDepth := 60) [kh]
  repeat' (with_reducible first | assumption | intro _ | apply And.intro | apply State.failIf_keeps | apply State.linkFail_keeps | apply State.marker_keeps | apply keeps_foldl | apply Keeps.refl | split)
  all_goals simp (maxDischargeDepth := 60) [kh]

@[simp] theorem execMarkerReceive_keeps {kb : Bool} {k0 s : State} (kh : Keeps kb k0 s) (port : PortIx) (lanes : List
    (Option (BitVec 20 × List Byte))) (arrival : Int) :
    OutKeeps kb k0 (execMarkerReceive port lanes arrival s) := by
  unfold execMarkerReceive; simp (maxDischargeDepth := 60) [kh]

@[simp] theorem State.uncorrectable_keeps {kb : Bool} {k0 s : State} (kh : Keeps kb k0 s) (p : Nat) (lane : Nat) (slot
    : Nat) :
    Keeps kb k0 (State.uncorrectable s p lane slot) := by
  unfold State.uncorrectable; simp (maxDischargeDepth := 60) [kh]

@[simp] theorem State.takeReplay_keeps {kb : Bool} {k0 s : State} (kh : Keeps kb k0 s) (p : Nat) (lane : Nat) (slot :
    Nat) (orig : Nat) (late : Bool) (bs : List Byte) :
    Keeps kb k0 (State.takeReplay s p lane slot orig late bs) := by
  unfold State.takeReplay; simp (maxDischargeDepth := 60) [kh]

@[simp] theorem State.flit_keeps {kb : Bool} {k0 s : State} (kh : Keeps kb k0 s) (p : Nat) (lane : Nat) (slot : Nat)
    (h : BitVec 20) (bs : List Byte) :
    Keeps kb k0 (State.flit s p lane slot h bs) := by
  unfold State.flit; simp (maxDischargeDepth := 60) [kh]

@[simp] theorem State.codeword_keeps {kb : Bool} {k0 s : State} (kh : Keeps kb k0 s) (p : Nat) (lane : Nat) (slot :
    Nat) (h : BitVec 20) (payload : Option (List Byte)) :
    Keeps kb k0 (State.codeword s p lane slot h payload) := by
  unfold State.codeword
  try simp (maxDischargeDepth := 60) [kh]
  repeat' (with_reducible first | assumption | intro _ | apply And.intro | apply State.flit_keeps | apply State.uncorrectable_keeps | apply Keeps.refl | split)
  all_goals simp (maxDischargeDepth := 60) [kh]

@[simp] theorem execFlitReceive_keeps {kb : Bool} {k0 s : State} (kh : Keeps kb k0 s) (port : PortIx) (lane : Fin 8)
    (slot : Fin 80) (header : BitVec 20) (payload : Option (List Byte)) :
    OutKeeps kb k0 (execFlitReceive port lane slot header payload s) := by
  unfold execFlitReceive; simp (maxDischargeDepth := 60) [kh]

@[simp] theorem State.passPacket_keeps {kb : Bool} {k0 s : State} (kh : Keeps kb k0 s) (p : Nat) (c : Nat) :
    Keeps kb k0 (State.passPacket s p c) := by
  unfold State.passPacket
  try simp (maxDischargeDepth := 60) [kh]
  repeat' (with_reducible first | assumption | intro _ | apply And.intro | apply State.setPort_keeps | apply Keeps.refl | split)
  all_goals simp (maxDischargeDepth := 60) [kh]

theorem State.runPacket_keeps {kb : Bool} {k0 s : State} (kh : Keeps kb k0 s) (p c kind : Nat) (k : Packet → Option State)
    (hk : ∀ x, OptKeeps kb k0 (k x)) : Keeps kb k0 (State.runPacket s p c kind k) := by
  unfold State.runPacket
  split
  · exact kh
  · rename_i h _
    split
    · rename_i t ht
      have h1 : OptKeeps kb k0 (some t) := ht ▸ hk h
      exact State.passPacket_keeps h1 _ _
    · exact kh


@[simp] theorem State.writePacket_keeps {kb : Bool} {k0 s : State} (kh : Keeps kb k0 s) (p : Packet) :
    Keeps kb k0 (State.writePacket s p) := by
  unfold State.writePacket; simp (maxDischargeDepth := 60) [kh]

@[simp] theorem execWritePacket_keeps {kb : Bool} {k0 s : State} (kh : Keeps kb k0 s) (port : PortIx) (chan : Fin 16)
    :
    OutKeeps kb k0 (execWritePacket port chan s) := by
  unfold execWritePacket
  try simp (maxDischargeDepth := 60) [kh]
  repeat' (with_reducible first | assumption | intro _ | apply And.intro | apply State.runPacket_keeps | apply State.writePacket_keeps | apply State.settle_keeps | apply Keeps.refl | split)
  all_goals simp (maxDischargeDepth := 60) [kh]

@[simp] theorem State.arriveAll_keeps {kb : Bool} {k0 s : State} (kh : Keeps kb k0 s) (t i : Nat) (id : Nat × Word32)
    (l : List (Nat × List Byte)) (x : Bool × State) (hx : State.arriveAll s t i id l = some x) : Keeps kb k0 x.2 := by
  induction l generalizing s x with
  | nil =>
    simp only [State.arriveAll, Option.some.injEq] at hx
    subst hx
    exact kh
  | cons y rest ih =>
    obtain ⟨pa, bs⟩ := y
    unfold State.arriveAll at hx
    dsimp only at hx
    split at hx
    · exact ih kh x hx
    · rename_i q _
      split at hx
      · exact ih kh x hx
      · split at hx
        · cases hx
        · rename_i s' hs
          have h1 : OptKeeps kb k0 (some s') := by
            rw [← hs]
            exact State.arrive_keeps kh _ _ _ _ _ _ _ _
          split at hx
          · cases hx
          · rename_i held s'' h2
            cases hx
            exact ih h1 (held, s'') h2


@[simp] theorem State.combinePacket_keeps {kb : Bool} {k0 s : State} (kh : Keeps kb k0 s) (p : Packet) :
    OptKeeps kb k0 (State.combinePacket s p) := by
  unfold State.combinePacket
  dsimp only
  generalize (if ((s.tag 0 p.tag.toNat).count == 0) = true then
    ({ fmt := p.fmt, count := p.countM1 + 1, arrival := p.op == 1, init := p.init, byPlace := true } : CombineTag)
    else s.tag 0 p.tag.toNat) = x
  split
  · trivial
  · split
    · simp [kh]
    · split
      · trivial
      · rename_i held u hu
        have h1 : Keeps kb k0 u := by
          refine State.arriveAll_keeps ?_ _ _ _ _ _ hu
          simp [kh]
        rw [optKeeps_some]
        split
        · exact h1
        · simp [h1]


@[simp] theorem execCombinePacket_keeps {kb : Bool} {k0 s : State} (kh : Keeps kb k0 s) (port : PortIx) (chan : Fin
    16) :
    OutKeeps kb k0 (execCombinePacket port chan s) := by
  unfold execCombinePacket
  try simp (maxDischargeDepth := 60) [kh]
  repeat' (with_reducible first | assumption | intro _ | apply And.intro | apply State.combinePacket_keeps | apply State.runPacket_keeps | apply State.settle_keeps | apply Keeps.refl | split)
  all_goals simp (maxDischargeDepth := 60) [kh]

@[simp] theorem execRingPacket_keeps {kb : Bool} {k0 s : State} (kh : Keeps kb k0 s) (port : PortIx) (chan : Fin 16) :
    OutKeeps kb k0 (execRingPacket port chan s) := by
  unfold execRingPacket
  try simp (maxDischargeDepth := 60) [kh]
  repeat' (with_reducible first | assumption | intro _ | apply And.intro | apply State.ringPacket_keeps | apply State.runPacket_keeps | apply State.settle_keeps | apply Keeps.refl | split)
  all_goals simp (maxDischargeDepth := 60) [kh]

@[simp] theorem State.ackPacket_keeps {kb : Bool} {k0 s : State} (kh : Keeps kb k0 s) (p : Packet) :
    Keeps kb k0 (State.ackPacket s p) := by
  unfold State.ackPacket
  try simp (maxDischargeDepth := 60) [kh]
  repeat' (with_reducible first | assumption | intro _ | apply And.intro | apply State.combine_keeps | apply State.finishWith_keeps | apply State.sendAll_keeps | apply Keeps.refl | split)
  all_goals simp (maxDischargeDepth := 60) [kh]

@[simp] theorem execAckPacket_keeps {kb : Bool} {k0 s : State} (kh : Keeps kb k0 s) (port : PortIx) (chan : Fin 16) :
    OutKeeps kb k0 (execAckPacket port chan s) := by
  unfold execAckPacket
  try simp (maxDischargeDepth := 60) [kh]
  repeat' (with_reducible first | assumption | intro _ | apply And.intro | apply State.ackPacket_keeps | apply State.runPacket_keeps | apply State.settle_keeps | apply Keeps.refl | split)
  all_goals simp (maxDischargeDepth := 60) [kh]

end Sys2Proof.Machine
end

