-- ==== Sys2Proof/Laws/State.lean ====
section
/-! SUPPORT. What a read gives after a write: tables, then every setter of the state, field by field and accessor by accessor. -/
namespace Sys2Proof.Machine

/-! ## Tables -/

theorem Table.find_filter {α : Type} (t : Table α) (p : Nat → Bool) (k : Nat) (h : p k = true) :
    (t.filter (fun c => p c.1)).find? (fun c => c.1 == k) = t.find? (fun c => c.1 == k) := by
  induction t with
  | nil => rfl
  | cons c t ih =>
    by_cases e : c.1 = k
    · simp [List.filter_cons, List.find?_cons, e, h]
    · by_cases q : p c.1 = true <;> simp [List.filter_cons, List.find?_cons, e, q, ih]

theorem Table.find_filter_none {α : Type} (t : Table α) (p : Nat → Bool) (k : Nat) (h : p k = false) :
    (t.filter (fun c => p c.1)).find? (fun c => c.1 == k) = none := by
  rw [List.find?_eq_none]
  intro c hc
  have := (List.mem_filter.1 hc).2
  intro e
  simp at e
  simp [e, h] at this

/-- An index reads what was put there last. -/
@[simp] theorem Table.get_put {α : Type} [DecidableEq α] (d : α) (t : Table α) (k : Nat) (v : α) :
    Table.get d (Table.put d t k v) k = v := by
  unfold Table.get Table.put
  rw [List.find?_append, List.find?_append, Table.find_filter_none t (fun n => decide (n < k)) k (by simp),
    Table.find_filter_none t (fun n => decide (k < n)) k (by simp)]
  by_cases e : v = d <;> simp [e]

/-- Every other index reads as before. -/
theorem Table.get_put_ne {α : Type} [DecidableEq α] (d e : α) (t : Table α) (k j : Nat) (v : α) (h : j ≠ k) :
    Table.get e (Table.put d t k v) j = Table.get e t j := by
  unfold Table.get Table.put
  have hm : (if v = d then [] else [(k, v)] : List (Nat × α)).find? (fun c => c.1 == j) = none := by
    split <;> simp
    omega
  rw [List.find?_append, List.find?_append, hm]
  rcases Nat.lt_or_gt_of_ne h with l | l
  · rw [Table.find_filter t (fun n => decide (n < k)) j (by simpa using l),
      Table.find_filter_none t (fun n => decide (k < n)) j (by simp; omega)]
    simp
  · rw [Table.find_filter_none t (fun n => decide (n < k)) j (by simp; omega),
      Table.find_filter t (fun n => decide (k < n)) j (by simpa using l)]
    simp

variable (s : State)

/-! ## Fields that a setter leaves -/

@[simp] theorem State.setPart_fields (p : Nat) (v : Partition) :
    (s.setPart p v).pending = s.pending ∧ (s.setPart p v).freeCount = s.freeCount ∧
    (s.setPart p v).clockNs = s.clockNs ∧ (s.setPart p v).power = s.power ∧ (s.setPart p v).holdup = s.holdup ∧
    (s.setPart p v).input = s.input ∧ (s.setPart p v).resetIn = s.resetIn ∧ (s.setPart p v).perst = s.perst ∧
    (s.setPart p v).cfgReady = s.cfgReady ∧ (s.setPart p v).pllLocked = s.pllLocked ∧
    (s.setPart p v).tripped = s.tripped ∧ (s.setPart p v).alert = s.alert ∧ (s.setPart p v).logNew = s.logNew ∧
    (s.setPart p v).straps = s.straps ∧ (s.setPart p v).pwr = s.pwr ∧ (s.setPart p v).gpio = s.gpio ∧
    (s.setPart p v).tap = s.tap ∧ (s.setPart p v).smbOut = s.smbOut ∧ (s.setPart p v).smbSeq = s.smbSeq ∧
    (s.setPart p v).smbCursor = s.smbCursor ∧ (s.setPart p v).uartOut = s.uartOut ∧ (s.setPart p v).winOut = s.winOut ∧
    (s.setPart p v).winPoison = s.winPoison ∧ (s.setPart p v).msgs = s.msgs ∧ (s.setPart p v).hostReqs = s.hostReqs ∧
    (s.setPart p v).ends = s.ends ∧ (s.setPart p v).pcieRate = s.pcieRate ∧ (s.setPart p v).pcieX16 = s.pcieX16 ∧
    (s.setPart p v).locked = s.locked ∧ (s.setPart p v).wrej = s.wrej ∧ (s.setPart p v).rejOffset = s.rejOffset ∧
    (s.setPart p v).shape = s.shape ∧ (s.setPart p v).moduleId = s.moduleId ∧ (s.setPart p v).turnRoot = s.turnRoot ∧
    (s.setPart p v).tsyncDelay = s.tsyncDelay ∧ (s.setPart p v).hbmFail = s.hbmFail ∧
    (s.setPart p v).tierFail = s.tierFail ∧ (s.setPart p v).lostPower = s.lostPower ∧
    (s.setPart p v).trained = s.trained ∧ (s.setPart p v).combineUs = s.combineUs ∧
    (s.setPart p v).faultWin = s.faultWin ∧ (s.setPart p v).faultWinOn = s.faultWinOn ∧
    (s.setPart p v).faultTh = s.faultTh ∧ (s.setPart p v).stBusy = s.stBusy ∧ (s.setPart p v).stResult = s.stResult ∧
    (s.setPart p v).stResStone = s.stResStone ∧ (s.setPart p v).stStone = s.stStone ∧ (s.setPart p v).fw = s.fw ∧
    (s.setPart p v).logSel = s.logSel ∧ (s.setPart p v).logReady = s.logReady ∧ (s.setPart p v).logBusy = s.logBusy ∧
    (s.setPart p v).logValid = s.logValid ∧ (s.setPart p v).logCopy = s.logCopy ∧
    (s.setPart p v).vfEnable = s.vfEnable ∧ (s.setPart p v).numVfs = s.numVfs ∧ (s.setPart p v).binds = s.binds ∧
    (s.setPart p v).houses = s.houses ∧ (s.setPart p v).fns = s.fns ∧ (s.setPart p v).mem = s.mem ∧
    (s.setPart p v).ecc = s.ecc ∧ (s.setPart p v).dirty = s.dirty ∧ (s.setPart p v).hostMem = s.hostMem ∧
    (s.setPart p v).hostResp = s.hostResp ∧ (s.setPart p v).grist = s.grist ∧ (s.setPart p v).pawls = s.pawls ∧
    (s.setPart p v).tags = s.tags ∧ (s.setPart p v).stones = s.stones ∧ (s.setPart p v).epochs = s.epochs ∧
    (s.setPart p v).units = s.units ∧ (s.setPart p v).repairs = s.repairs ∧ (s.setPart p v).logQueue = s.logQueue ∧
    (s.setPart p v).logLost = s.logLost ∧ (s.setPart p v).flash = s.flash ∧ (s.setPart p v).leat = s.leat ∧
    (s.setPart p v).hopper = s.hopper ∧ (s.setPart p v).race = s.race ∧ (s.setPart p v).saved = s.saved := by
  and_intros <;> rfl

@[simp] theorem State.setBind_fields (f : Nat) (v : Binding) :
    (s.setBind f v).pending = s.pending ∧ (s.setBind f v).freeCount = s.freeCount ∧
    (s.setBind f v).clockNs = s.clockNs ∧ (s.setBind f v).power = s.power ∧ (s.setBind f v).holdup = s.holdup ∧
    (s.setBind f v).input = s.input ∧ (s.setBind f v).resetIn = s.resetIn ∧ (s.setBind f v).perst = s.perst ∧
    (s.setBind f v).cfgReady = s.cfgReady ∧ (s.setBind f v).pllLocked = s.pllLocked ∧
    (s.setBind f v).tripped = s.tripped ∧ (s.setBind f v).alert = s.alert ∧ (s.setBind f v).logNew = s.logNew ∧
    (s.setBind f v).straps = s.straps ∧ (s.setBind f v).pwr = s.pwr ∧ (s.setBind f v).gpio = s.gpio ∧
    (s.setBind f v).tap = s.tap ∧ (s.setBind f v).smbOut = s.smbOut ∧ (s.setBind f v).smbSeq = s.smbSeq ∧
    (s.setBind f v).smbCursor = s.smbCursor ∧ (s.setBind f v).uartOut = s.uartOut ∧ (s.setBind f v).winOut = s.winOut ∧
    (s.setBind f v).winPoison = s.winPoison ∧ (s.setBind f v).msgs = s.msgs ∧ (s.setBind f v).hostReqs = s.hostReqs ∧
    (s.setBind f v).ends = s.ends ∧ (s.setBind f v).pcieRate = s.pcieRate ∧ (s.setBind f v).pcieX16 = s.pcieX16 ∧
    (s.setBind f v).locked = s.locked ∧ (s.setBind f v).wrej = s.wrej ∧ (s.setBind f v).rejOffset = s.rejOffset ∧
    (s.setBind f v).shape = s.shape ∧ (s.setBind f v).moduleId = s.moduleId ∧ (s.setBind f v).turnRoot = s.turnRoot ∧
    (s.setBind f v).tsyncDelay = s.tsyncDelay ∧ (s.setBind f v).hbmFail = s.hbmFail ∧
    (s.setBind f v).tierFail = s.tierFail ∧ (s.setBind f v).lostPower = s.lostPower ∧
    (s.setBind f v).trained = s.trained ∧ (s.setBind f v).combineUs = s.combineUs ∧
    (s.setBind f v).faultWin = s.faultWin ∧ (s.setBind f v).faultWinOn = s.faultWinOn ∧
    (s.setBind f v).faultTh = s.faultTh ∧ (s.setBind f v).stBusy = s.stBusy ∧ (s.setBind f v).stResult = s.stResult ∧
    (s.setBind f v).stResStone = s.stResStone ∧ (s.setBind f v).stStone = s.stStone ∧ (s.setBind f v).fw = s.fw ∧
    (s.setBind f v).logSel = s.logSel ∧ (s.setBind f v).logReady = s.logReady ∧ (s.setBind f v).logBusy = s.logBusy ∧
    (s.setBind f v).logValid = s.logValid ∧ (s.setBind f v).logCopy = s.logCopy ∧
    (s.setBind f v).vfEnable = s.vfEnable ∧ (s.setBind f v).numVfs = s.numVfs ∧ (s.setBind f v).parts = s.parts ∧
    (s.setBind f v).houses = s.houses ∧ (s.setBind f v).fns = s.fns ∧ (s.setBind f v).mem = s.mem ∧
    (s.setBind f v).ecc = s.ecc ∧ (s.setBind f v).dirty = s.dirty ∧ (s.setBind f v).hostMem = s.hostMem ∧
    (s.setBind f v).hostResp = s.hostResp ∧ (s.setBind f v).grist = s.grist ∧ (s.setBind f v).pawls = s.pawls ∧
    (s.setBind f v).tags = s.tags ∧ (s.setBind f v).stones = s.stones ∧ (s.setBind f v).epochs = s.epochs ∧
    (s.setBind f v).units = s.units ∧ (s.setBind f v).repairs = s.repairs ∧ (s.setBind f v).logQueue = s.logQueue ∧
    (s.setBind f v).logLost = s.logLost ∧ (s.setBind f v).flash = s.flash ∧ (s.setBind f v).leat = s.leat ∧
    (s.setBind f v).hopper = s.hopper ∧ (s.setBind f v).race = s.race ∧ (s.setBind f v).saved = s.saved := by
  and_intros <;> rfl

@[simp] theorem State.setHouse_fields (h : Nat) (v : HouseRegs) :
    (s.setHouse h v).pending = s.pending ∧ (s.setHouse h v).freeCount = s.freeCount ∧
    (s.setHouse h v).clockNs = s.clockNs ∧ (s.setHouse h v).power = s.power ∧ (s.setHouse h v).holdup = s.holdup ∧
    (s.setHouse h v).input = s.input ∧ (s.setHouse h v).resetIn = s.resetIn ∧ (s.setHouse h v).perst = s.perst ∧
    (s.setHouse h v).cfgReady = s.cfgReady ∧ (s.setHouse h v).pllLocked = s.pllLocked ∧
    (s.setHouse h v).tripped = s.tripped ∧ (s.setHouse h v).alert = s.alert ∧ (s.setHouse h v).logNew = s.logNew ∧
    (s.setHouse h v).straps = s.straps ∧ (s.setHouse h v).pwr = s.pwr ∧ (s.setHouse h v).gpio = s.gpio ∧
    (s.setHouse h v).tap = s.tap ∧ (s.setHouse h v).smbOut = s.smbOut ∧ (s.setHouse h v).smbSeq = s.smbSeq ∧
    (s.setHouse h v).smbCursor = s.smbCursor ∧ (s.setHouse h v).uartOut = s.uartOut ∧
    (s.setHouse h v).winOut = s.winOut ∧ (s.setHouse h v).winPoison = s.winPoison ∧ (s.setHouse h v).msgs = s.msgs ∧
    (s.setHouse h v).hostReqs = s.hostReqs ∧ (s.setHouse h v).ends = s.ends ∧ (s.setHouse h v).pcieRate = s.pcieRate ∧
    (s.setHouse h v).pcieX16 = s.pcieX16 ∧ (s.setHouse h v).locked = s.locked ∧ (s.setHouse h v).wrej = s.wrej ∧
    (s.setHouse h v).rejOffset = s.rejOffset ∧ (s.setHouse h v).shape = s.shape ∧
    (s.setHouse h v).moduleId = s.moduleId ∧ (s.setHouse h v).turnRoot = s.turnRoot ∧
    (s.setHouse h v).tsyncDelay = s.tsyncDelay ∧ (s.setHouse h v).hbmFail = s.hbmFail ∧
    (s.setHouse h v).tierFail = s.tierFail ∧ (s.setHouse h v).lostPower = s.lostPower ∧
    (s.setHouse h v).trained = s.trained ∧ (s.setHouse h v).combineUs = s.combineUs ∧
    (s.setHouse h v).faultWin = s.faultWin ∧ (s.setHouse h v).faultWinOn = s.faultWinOn ∧
    (s.setHouse h v).faultTh = s.faultTh ∧ (s.setHouse h v).stBusy = s.stBusy ∧
    (s.setHouse h v).stResult = s.stResult ∧ (s.setHouse h v).stResStone = s.stResStone ∧
    (s.setHouse h v).stStone = s.stStone ∧ (s.setHouse h v).fw = s.fw ∧ (s.setHouse h v).logSel = s.logSel ∧
    (s.setHouse h v).logReady = s.logReady ∧ (s.setHouse h v).logBusy = s.logBusy ∧
    (s.setHouse h v).logValid = s.logValid ∧ (s.setHouse h v).logCopy = s.logCopy ∧
    (s.setHouse h v).vfEnable = s.vfEnable ∧ (s.setHouse h v).numVfs = s.numVfs ∧ (s.setHouse h v).parts = s.parts ∧
    (s.setHouse h v).binds = s.binds ∧ (s.setHouse h v).fns = s.fns ∧ (s.setHouse h v).mem = s.mem ∧
    (s.setHouse h v).ecc = s.ecc ∧ (s.setHouse h v).dirty = s.dirty ∧ (s.setHouse h v).hostMem = s.hostMem ∧
    (s.setHouse h v).hostResp = s.hostResp ∧ (s.setHouse h v).grist = s.grist ∧ (s.setHouse h v).pawls = s.pawls ∧
    (s.setHouse h v).tags = s.tags ∧ (s.setHouse h v).stones = s.stones ∧ (s.setHouse h v).epochs = s.epochs ∧
    (s.setHouse h v).units = s.units ∧ (s.setHouse h v).repairs = s.repairs ∧ (s.setHouse h v).logQueue = s.logQueue ∧
    (s.setHouse h v).logLost = s.logLost ∧ (s.setHouse h v).flash = s.flash ∧ (s.setHouse h v).leat = s.leat ∧
    (s.setHouse h v).hopper = s.hopper ∧ (s.setHouse h v).race = s.race ∧ (s.setHouse h v).saved = s.saved := by
  and_intros <;> rfl

@[simp] theorem State.setFn_fields (f : Nat) (v : Func) :
    (s.setFn f v).pending = s.pending ∧ (s.setFn f v).freeCount = s.freeCount ∧ (s.setFn f v).clockNs = s.clockNs ∧
    (s.setFn f v).power = s.power ∧ (s.setFn f v).holdup = s.holdup ∧ (s.setFn f v).input = s.input ∧
    (s.setFn f v).resetIn = s.resetIn ∧ (s.setFn f v).perst = s.perst ∧ (s.setFn f v).cfgReady = s.cfgReady ∧
    (s.setFn f v).pllLocked = s.pllLocked ∧ (s.setFn f v).tripped = s.tripped ∧ (s.setFn f v).alert = s.alert ∧
    (s.setFn f v).logNew = s.logNew ∧ (s.setFn f v).straps = s.straps ∧ (s.setFn f v).pwr = s.pwr ∧
    (s.setFn f v).gpio = s.gpio ∧ (s.setFn f v).tap = s.tap ∧ (s.setFn f v).smbOut = s.smbOut ∧
    (s.setFn f v).smbSeq = s.smbSeq ∧ (s.setFn f v).smbCursor = s.smbCursor ∧ (s.setFn f v).uartOut = s.uartOut ∧
    (s.setFn f v).winOut = s.winOut ∧ (s.setFn f v).winPoison = s.winPoison ∧ (s.setFn f v).msgs = s.msgs ∧
    (s.setFn f v).hostReqs = s.hostReqs ∧ (s.setFn f v).ends = s.ends ∧ (s.setFn f v).pcieRate = s.pcieRate ∧
    (s.setFn f v).pcieX16 = s.pcieX16 ∧ (s.setFn f v).locked = s.locked ∧ (s.setFn f v).wrej = s.wrej ∧
    (s.setFn f v).rejOffset = s.rejOffset ∧ (s.setFn f v).shape = s.shape ∧ (s.setFn f v).moduleId = s.moduleId ∧
    (s.setFn f v).turnRoot = s.turnRoot ∧ (s.setFn f v).tsyncDelay = s.tsyncDelay ∧ (s.setFn f v).hbmFail = s.hbmFail ∧
    (s.setFn f v).tierFail = s.tierFail ∧ (s.setFn f v).lostPower = s.lostPower ∧ (s.setFn f v).trained = s.trained ∧
    (s.setFn f v).combineUs = s.combineUs ∧ (s.setFn f v).faultWin = s.faultWin ∧
    (s.setFn f v).faultWinOn = s.faultWinOn ∧ (s.setFn f v).faultTh = s.faultTh ∧ (s.setFn f v).stBusy = s.stBusy ∧
    (s.setFn f v).stResult = s.stResult ∧ (s.setFn f v).stResStone = s.stResStone ∧ (s.setFn f v).stStone = s.stStone ∧
    (s.setFn f v).fw = s.fw ∧ (s.setFn f v).logSel = s.logSel ∧ (s.setFn f v).logReady = s.logReady ∧
    (s.setFn f v).logBusy = s.logBusy ∧ (s.setFn f v).logValid = s.logValid ∧ (s.setFn f v).logCopy = s.logCopy ∧
    (s.setFn f v).vfEnable = s.vfEnable ∧ (s.setFn f v).numVfs = s.numVfs ∧ (s.setFn f v).parts = s.parts ∧
    (s.setFn f v).binds = s.binds ∧ (s.setFn f v).houses = s.houses ∧ (s.setFn f v).mem = s.mem ∧
    (s.setFn f v).ecc = s.ecc ∧ (s.setFn f v).dirty = s.dirty ∧ (s.setFn f v).hostMem = s.hostMem ∧
    (s.setFn f v).hostResp = s.hostResp ∧ (s.setFn f v).grist = s.grist ∧ (s.setFn f v).pawls = s.pawls ∧
    (s.setFn f v).tags = s.tags ∧ (s.setFn f v).stones = s.stones ∧ (s.setFn f v).epochs = s.epochs ∧
    (s.setFn f v).units = s.units ∧ (s.setFn f v).repairs = s.repairs ∧ (s.setFn f v).logQueue = s.logQueue ∧
    (s.setFn f v).logLost = s.logLost ∧ (s.setFn f v).flash = s.flash ∧ (s.setFn f v).leat = s.leat ∧
    (s.setFn f v).hopper = s.hopper ∧ (s.setFn f v).race = s.race ∧ (s.setFn f v).saved = s.saved := by
  and_intros <;> rfl

@[simp] theorem State.setSq_fields (f r : Nat) (v : SubRing) :
    (s.setSq f r v).pending = s.pending ∧ (s.setSq f r v).freeCount = s.freeCount ∧
    (s.setSq f r v).clockNs = s.clockNs ∧ (s.setSq f r v).power = s.power ∧ (s.setSq f r v).holdup = s.holdup ∧
    (s.setSq f r v).input = s.input ∧ (s.setSq f r v).resetIn = s.resetIn ∧ (s.setSq f r v).perst = s.perst ∧
    (s.setSq f r v).cfgReady = s.cfgReady ∧ (s.setSq f r v).pllLocked = s.pllLocked ∧
    (s.setSq f r v).tripped = s.tripped ∧ (s.setSq f r v).alert = s.alert ∧ (s.setSq f r v).logNew = s.logNew ∧
    (s.setSq f r v).straps = s.straps ∧ (s.setSq f r v).pwr = s.pwr ∧ (s.setSq f r v).gpio = s.gpio ∧
    (s.setSq f r v).tap = s.tap ∧ (s.setSq f r v).smbOut = s.smbOut ∧ (s.setSq f r v).smbSeq = s.smbSeq ∧
    (s.setSq f r v).smbCursor = s.smbCursor ∧ (s.setSq f r v).uartOut = s.uartOut ∧ (s.setSq f r v).winOut = s.winOut ∧
    (s.setSq f r v).winPoison = s.winPoison ∧ (s.setSq f r v).msgs = s.msgs ∧ (s.setSq f r v).hostReqs = s.hostReqs ∧
    (s.setSq f r v).ends = s.ends ∧ (s.setSq f r v).pcieRate = s.pcieRate ∧ (s.setSq f r v).pcieX16 = s.pcieX16 ∧
    (s.setSq f r v).locked = s.locked ∧ (s.setSq f r v).wrej = s.wrej ∧ (s.setSq f r v).rejOffset = s.rejOffset ∧
    (s.setSq f r v).shape = s.shape ∧ (s.setSq f r v).moduleId = s.moduleId ∧ (s.setSq f r v).turnRoot = s.turnRoot ∧
    (s.setSq f r v).tsyncDelay = s.tsyncDelay ∧ (s.setSq f r v).hbmFail = s.hbmFail ∧
    (s.setSq f r v).tierFail = s.tierFail ∧ (s.setSq f r v).lostPower = s.lostPower ∧
    (s.setSq f r v).trained = s.trained ∧ (s.setSq f r v).combineUs = s.combineUs ∧
    (s.setSq f r v).faultWin = s.faultWin ∧ (s.setSq f r v).faultWinOn = s.faultWinOn ∧
    (s.setSq f r v).faultTh = s.faultTh ∧ (s.setSq f r v).stBusy = s.stBusy ∧ (s.setSq f r v).stResult = s.stResult ∧
    (s.setSq f r v).stResStone = s.stResStone ∧ (s.setSq f r v).stStone = s.stStone ∧ (s.setSq f r v).fw = s.fw ∧
    (s.setSq f r v).logSel = s.logSel ∧ (s.setSq f r v).logReady = s.logReady ∧ (s.setSq f r v).logBusy = s.logBusy ∧
    (s.setSq f r v).logValid = s.logValid ∧ (s.setSq f r v).logCopy = s.logCopy ∧
    (s.setSq f r v).vfEnable = s.vfEnable ∧ (s.setSq f r v).numVfs = s.numVfs ∧ (s.setSq f r v).parts = s.parts ∧
    (s.setSq f r v).binds = s.binds ∧ (s.setSq f r v).houses = s.houses ∧ (s.setSq f r v).mem = s.mem ∧
    (s.setSq f r v).ecc = s.ecc ∧ (s.setSq f r v).dirty = s.dirty ∧ (s.setSq f r v).hostMem = s.hostMem ∧
    (s.setSq f r v).hostResp = s.hostResp ∧ (s.setSq f r v).grist = s.grist ∧ (s.setSq f r v).pawls = s.pawls ∧
    (s.setSq f r v).tags = s.tags ∧ (s.setSq f r v).stones = s.stones ∧ (s.setSq f r v).epochs = s.epochs ∧
    (s.setSq f r v).units = s.units ∧ (s.setSq f r v).repairs = s.repairs ∧ (s.setSq f r v).logQueue = s.logQueue ∧
    (s.setSq f r v).logLost = s.logLost ∧ (s.setSq f r v).flash = s.flash ∧ (s.setSq f r v).leat = s.leat ∧
    (s.setSq f r v).hopper = s.hopper ∧ (s.setSq f r v).race = s.race ∧ (s.setSq f r v).saved = s.saved := by
  and_intros <;> rfl

@[simp] theorem State.setCq_fields (f c : Nat) (v : CompRing) :
    (s.setCq f c v).pending = s.pending ∧ (s.setCq f c v).freeCount = s.freeCount ∧
    (s.setCq f c v).clockNs = s.clockNs ∧ (s.setCq f c v).power = s.power ∧ (s.setCq f c v).holdup = s.holdup ∧
    (s.setCq f c v).input = s.input ∧ (s.setCq f c v).resetIn = s.resetIn ∧ (s.setCq f c v).perst = s.perst ∧
    (s.setCq f c v).cfgReady = s.cfgReady ∧ (s.setCq f c v).pllLocked = s.pllLocked ∧
    (s.setCq f c v).tripped = s.tripped ∧ (s.setCq f c v).alert = s.alert ∧ (s.setCq f c v).logNew = s.logNew ∧
    (s.setCq f c v).straps = s.straps ∧ (s.setCq f c v).pwr = s.pwr ∧ (s.setCq f c v).gpio = s.gpio ∧
    (s.setCq f c v).tap = s.tap ∧ (s.setCq f c v).smbOut = s.smbOut ∧ (s.setCq f c v).smbSeq = s.smbSeq ∧
    (s.setCq f c v).smbCursor = s.smbCursor ∧ (s.setCq f c v).uartOut = s.uartOut ∧ (s.setCq f c v).winOut = s.winOut ∧
    (s.setCq f c v).winPoison = s.winPoison ∧ (s.setCq f c v).msgs = s.msgs ∧ (s.setCq f c v).hostReqs = s.hostReqs ∧
    (s.setCq f c v).ends = s.ends ∧ (s.setCq f c v).pcieRate = s.pcieRate ∧ (s.setCq f c v).pcieX16 = s.pcieX16 ∧
    (s.setCq f c v).locked = s.locked ∧ (s.setCq f c v).wrej = s.wrej ∧ (s.setCq f c v).rejOffset = s.rejOffset ∧
    (s.setCq f c v).shape = s.shape ∧ (s.setCq f c v).moduleId = s.moduleId ∧ (s.setCq f c v).turnRoot = s.turnRoot ∧
    (s.setCq f c v).tsyncDelay = s.tsyncDelay ∧ (s.setCq f c v).hbmFail = s.hbmFail ∧
    (s.setCq f c v).tierFail = s.tierFail ∧ (s.setCq f c v).lostPower = s.lostPower ∧
    (s.setCq f c v).trained = s.trained ∧ (s.setCq f c v).combineUs = s.combineUs ∧
    (s.setCq f c v).faultWin = s.faultWin ∧ (s.setCq f c v).faultWinOn = s.faultWinOn ∧
    (s.setCq f c v).faultTh = s.faultTh ∧ (s.setCq f c v).stBusy = s.stBusy ∧ (s.setCq f c v).stResult = s.stResult ∧
    (s.setCq f c v).stResStone = s.stResStone ∧ (s.setCq f c v).stStone = s.stStone ∧ (s.setCq f c v).fw = s.fw ∧
    (s.setCq f c v).logSel = s.logSel ∧ (s.setCq f c v).logReady = s.logReady ∧ (s.setCq f c v).logBusy = s.logBusy ∧
    (s.setCq f c v).logValid = s.logValid ∧ (s.setCq f c v).logCopy = s.logCopy ∧
    (s.setCq f c v).vfEnable = s.vfEnable ∧ (s.setCq f c v).numVfs = s.numVfs ∧ (s.setCq f c v).parts = s.parts ∧
    (s.setCq f c v).binds = s.binds ∧ (s.setCq f c v).houses = s.houses ∧ (s.setCq f c v).mem = s.mem ∧
    (s.setCq f c v).ecc = s.ecc ∧ (s.setCq f c v).dirty = s.dirty ∧ (s.setCq f c v).hostMem = s.hostMem ∧
    (s.setCq f c v).hostResp = s.hostResp ∧ (s.setCq f c v).grist = s.grist ∧ (s.setCq f c v).pawls = s.pawls ∧
    (s.setCq f c v).tags = s.tags ∧ (s.setCq f c v).stones = s.stones ∧ (s.setCq f c v).epochs = s.epochs ∧
    (s.setCq f c v).units = s.units ∧ (s.setCq f c v).repairs = s.repairs ∧ (s.setCq f c v).logQueue = s.logQueue ∧
    (s.setCq f c v).logLost = s.logLost ∧ (s.setCq f c v).flash = s.flash ∧ (s.setCq f c v).leat = s.leat ∧
    (s.setCq f c v).hopper = s.hopper ∧ (s.setCq f c v).race = s.race ∧ (s.setCq f c v).saved = s.saved := by
  and_intros <;> rfl

@[simp] theorem State.setRunning_fields (f r : Nat) (v : Option Running) :
    (s.setRunning f r v).pending = s.pending ∧ (s.setRunning f r v).freeCount = s.freeCount ∧
    (s.setRunning f r v).clockNs = s.clockNs ∧ (s.setRunning f r v).power = s.power ∧
    (s.setRunning f r v).holdup = s.holdup ∧ (s.setRunning f r v).input = s.input ∧
    (s.setRunning f r v).resetIn = s.resetIn ∧ (s.setRunning f r v).perst = s.perst ∧
    (s.setRunning f r v).cfgReady = s.cfgReady ∧ (s.setRunning f r v).pllLocked = s.pllLocked ∧
    (s.setRunning f r v).tripped = s.tripped ∧ (s.setRunning f r v).alert = s.alert ∧
    (s.setRunning f r v).logNew = s.logNew ∧ (s.setRunning f r v).straps = s.straps ∧
    (s.setRunning f r v).pwr = s.pwr ∧ (s.setRunning f r v).gpio = s.gpio ∧ (s.setRunning f r v).tap = s.tap ∧
    (s.setRunning f r v).smbOut = s.smbOut ∧ (s.setRunning f r v).smbSeq = s.smbSeq ∧
    (s.setRunning f r v).smbCursor = s.smbCursor ∧ (s.setRunning f r v).uartOut = s.uartOut ∧
    (s.setRunning f r v).winOut = s.winOut ∧ (s.setRunning f r v).winPoison = s.winPoison ∧
    (s.setRunning f r v).msgs = s.msgs ∧ (s.setRunning f r v).hostReqs = s.hostReqs ∧
    (s.setRunning f r v).ends = s.ends ∧ (s.setRunning f r v).pcieRate = s.pcieRate ∧
    (s.setRunning f r v).pcieX16 = s.pcieX16 ∧ (s.setRunning f r v).locked = s.locked ∧
    (s.setRunning f r v).wrej = s.wrej ∧ (s.setRunning f r v).rejOffset = s.rejOffset ∧
    (s.setRunning f r v).shape = s.shape ∧ (s.setRunning f r v).moduleId = s.moduleId ∧
    (s.setRunning f r v).turnRoot = s.turnRoot ∧ (s.setRunning f r v).tsyncDelay = s.tsyncDelay ∧
    (s.setRunning f r v).hbmFail = s.hbmFail ∧ (s.setRunning f r v).tierFail = s.tierFail ∧
    (s.setRunning f r v).lostPower = s.lostPower ∧ (s.setRunning f r v).trained = s.trained ∧
    (s.setRunning f r v).combineUs = s.combineUs ∧ (s.setRunning f r v).faultWin = s.faultWin ∧
    (s.setRunning f r v).faultWinOn = s.faultWinOn ∧ (s.setRunning f r v).faultTh = s.faultTh ∧
    (s.setRunning f r v).stBusy = s.stBusy ∧ (s.setRunning f r v).stResult = s.stResult ∧
    (s.setRunning f r v).stResStone = s.stResStone ∧ (s.setRunning f r v).stStone = s.stStone ∧
    (s.setRunning f r v).fw = s.fw ∧ (s.setRunning f r v).logSel = s.logSel ∧
    (s.setRunning f r v).logReady = s.logReady ∧ (s.setRunning f r v).logBusy = s.logBusy ∧
    (s.setRunning f r v).logValid = s.logValid ∧ (s.setRunning f r v).logCopy = s.logCopy ∧
    (s.setRunning f r v).vfEnable = s.vfEnable ∧ (s.setRunning f r v).numVfs = s.numVfs ∧
    (s.setRunning f r v).parts = s.parts ∧ (s.setRunning f r v).binds = s.binds ∧
    (s.setRunning f r v).houses = s.houses ∧ (s.setRunning f r v).mem = s.mem ∧ (s.setRunning f r v).ecc = s.ecc ∧
    (s.setRunning f r v).dirty = s.dirty ∧ (s.setRunning f r v).hostMem = s.hostMem ∧
    (s.setRunning f r v).hostResp = s.hostResp ∧ (s.setRunning f r v).grist = s.grist ∧
    (s.setRunning f r v).pawls = s.pawls ∧ (s.setRunning f r v).tags = s.tags ∧
    (s.setRunning f r v).stones = s.stones ∧ (s.setRunning f r v).epochs = s.epochs ∧
    (s.setRunning f r v).units = s.units ∧ (s.setRunning f r v).repairs = s.repairs ∧
    (s.setRunning f r v).logQueue = s.logQueue ∧ (s.setRunning f r v).logLost = s.logLost ∧
    (s.setRunning f r v).flash = s.flash ∧ (s.setRunning f r v).leat = s.leat ∧
    (s.setRunning f r v).hopper = s.hopper ∧ (s.setRunning f r v).race = s.race ∧
    (s.setRunning f r v).saved = s.saved := by
  and_intros <;> rfl

@[simp] theorem State.setStone_fields (p : Nat) (v : Stone) :
    (s.setStone p v).pending = s.pending ∧ (s.setStone p v).freeCount = s.freeCount ∧
    (s.setStone p v).clockNs = s.clockNs ∧ (s.setStone p v).power = s.power ∧ (s.setStone p v).holdup = s.holdup ∧
    (s.setStone p v).input = s.input ∧ (s.setStone p v).resetIn = s.resetIn ∧ (s.setStone p v).perst = s.perst ∧
    (s.setStone p v).cfgReady = s.cfgReady ∧ (s.setStone p v).pllLocked = s.pllLocked ∧
    (s.setStone p v).tripped = s.tripped ∧ (s.setStone p v).alert = s.alert ∧ (s.setStone p v).logNew = s.logNew ∧
    (s.setStone p v).straps = s.straps ∧ (s.setStone p v).pwr = s.pwr ∧ (s.setStone p v).gpio = s.gpio ∧
    (s.setStone p v).tap = s.tap ∧ (s.setStone p v).smbOut = s.smbOut ∧ (s.setStone p v).smbSeq = s.smbSeq ∧
    (s.setStone p v).smbCursor = s.smbCursor ∧ (s.setStone p v).uartOut = s.uartOut ∧
    (s.setStone p v).winOut = s.winOut ∧ (s.setStone p v).winPoison = s.winPoison ∧ (s.setStone p v).msgs = s.msgs ∧
    (s.setStone p v).hostReqs = s.hostReqs ∧ (s.setStone p v).ends = s.ends ∧ (s.setStone p v).pcieRate = s.pcieRate ∧
    (s.setStone p v).pcieX16 = s.pcieX16 ∧ (s.setStone p v).locked = s.locked ∧ (s.setStone p v).wrej = s.wrej ∧
    (s.setStone p v).rejOffset = s.rejOffset ∧ (s.setStone p v).shape = s.shape ∧
    (s.setStone p v).moduleId = s.moduleId ∧ (s.setStone p v).turnRoot = s.turnRoot ∧
    (s.setStone p v).tsyncDelay = s.tsyncDelay ∧ (s.setStone p v).hbmFail = s.hbmFail ∧
    (s.setStone p v).tierFail = s.tierFail ∧ (s.setStone p v).lostPower = s.lostPower ∧
    (s.setStone p v).trained = s.trained ∧ (s.setStone p v).combineUs = s.combineUs ∧
    (s.setStone p v).faultWin = s.faultWin ∧ (s.setStone p v).faultWinOn = s.faultWinOn ∧
    (s.setStone p v).faultTh = s.faultTh ∧ (s.setStone p v).stBusy = s.stBusy ∧
    (s.setStone p v).stResult = s.stResult ∧ (s.setStone p v).stResStone = s.stResStone ∧
    (s.setStone p v).stStone = s.stStone ∧ (s.setStone p v).fw = s.fw ∧ (s.setStone p v).logSel = s.logSel ∧
    (s.setStone p v).logReady = s.logReady ∧ (s.setStone p v).logBusy = s.logBusy ∧
    (s.setStone p v).logValid = s.logValid ∧ (s.setStone p v).logCopy = s.logCopy ∧
    (s.setStone p v).vfEnable = s.vfEnable ∧ (s.setStone p v).numVfs = s.numVfs ∧ (s.setStone p v).parts = s.parts ∧
    (s.setStone p v).binds = s.binds ∧ (s.setStone p v).houses = s.houses ∧ (s.setStone p v).fns = s.fns ∧
    (s.setStone p v).mem = s.mem ∧ (s.setStone p v).ecc = s.ecc ∧ (s.setStone p v).dirty = s.dirty ∧
    (s.setStone p v).hostMem = s.hostMem ∧ (s.setStone p v).hostResp = s.hostResp ∧ (s.setStone p v).grist = s.grist ∧
    (s.setStone p v).pawls = s.pawls ∧ (s.setStone p v).tags = s.tags ∧ (s.setStone p v).epochs = s.epochs ∧
    (s.setStone p v).units = s.units ∧ (s.setStone p v).repairs = s.repairs ∧ (s.setStone p v).logQueue = s.logQueue ∧
    (s.setStone p v).logLost = s.logLost ∧ (s.setStone p v).flash = s.flash ∧ (s.setStone p v).leat = s.leat ∧
    (s.setStone p v).hopper = s.hopper ∧ (s.setStone p v).race = s.race ∧ (s.setStone p v).saved = s.saved := by
  and_intros <;> rfl

@[simp] theorem State.putCtx_fields (p i : Nat) (v : SetCtx) :
    (s.putCtx p i v).pending = s.pending ∧ (s.putCtx p i v).freeCount = s.freeCount ∧
    (s.putCtx p i v).clockNs = s.clockNs ∧ (s.putCtx p i v).power = s.power ∧ (s.putCtx p i v).holdup = s.holdup ∧
    (s.putCtx p i v).input = s.input ∧ (s.putCtx p i v).resetIn = s.resetIn ∧ (s.putCtx p i v).perst = s.perst ∧
    (s.putCtx p i v).cfgReady = s.cfgReady ∧ (s.putCtx p i v).pllLocked = s.pllLocked ∧
    (s.putCtx p i v).tripped = s.tripped ∧ (s.putCtx p i v).alert = s.alert ∧ (s.putCtx p i v).logNew = s.logNew ∧
    (s.putCtx p i v).straps = s.straps ∧ (s.putCtx p i v).pwr = s.pwr ∧ (s.putCtx p i v).gpio = s.gpio ∧
    (s.putCtx p i v).tap = s.tap ∧ (s.putCtx p i v).smbOut = s.smbOut ∧ (s.putCtx p i v).smbSeq = s.smbSeq ∧
    (s.putCtx p i v).smbCursor = s.smbCursor ∧ (s.putCtx p i v).uartOut = s.uartOut ∧
    (s.putCtx p i v).winOut = s.winOut ∧ (s.putCtx p i v).winPoison = s.winPoison ∧ (s.putCtx p i v).msgs = s.msgs ∧
    (s.putCtx p i v).hostReqs = s.hostReqs ∧ (s.putCtx p i v).ends = s.ends ∧ (s.putCtx p i v).pcieRate = s.pcieRate ∧
    (s.putCtx p i v).pcieX16 = s.pcieX16 ∧ (s.putCtx p i v).locked = s.locked ∧ (s.putCtx p i v).wrej = s.wrej ∧
    (s.putCtx p i v).rejOffset = s.rejOffset ∧ (s.putCtx p i v).shape = s.shape ∧
    (s.putCtx p i v).moduleId = s.moduleId ∧ (s.putCtx p i v).turnRoot = s.turnRoot ∧
    (s.putCtx p i v).tsyncDelay = s.tsyncDelay ∧ (s.putCtx p i v).hbmFail = s.hbmFail ∧
    (s.putCtx p i v).tierFail = s.tierFail ∧ (s.putCtx p i v).lostPower = s.lostPower ∧
    (s.putCtx p i v).trained = s.trained ∧ (s.putCtx p i v).combineUs = s.combineUs ∧
    (s.putCtx p i v).faultWin = s.faultWin ∧ (s.putCtx p i v).faultWinOn = s.faultWinOn ∧
    (s.putCtx p i v).faultTh = s.faultTh ∧ (s.putCtx p i v).stBusy = s.stBusy ∧
    (s.putCtx p i v).stResult = s.stResult ∧ (s.putCtx p i v).stResStone = s.stResStone ∧
    (s.putCtx p i v).stStone = s.stStone ∧ (s.putCtx p i v).fw = s.fw ∧ (s.putCtx p i v).logSel = s.logSel ∧
    (s.putCtx p i v).logReady = s.logReady ∧ (s.putCtx p i v).logBusy = s.logBusy ∧
    (s.putCtx p i v).logValid = s.logValid ∧ (s.putCtx p i v).logCopy = s.logCopy ∧
    (s.putCtx p i v).vfEnable = s.vfEnable ∧ (s.putCtx p i v).numVfs = s.numVfs ∧ (s.putCtx p i v).parts = s.parts ∧
    (s.putCtx p i v).binds = s.binds ∧ (s.putCtx p i v).houses = s.houses ∧ (s.putCtx p i v).fns = s.fns ∧
    (s.putCtx p i v).mem = s.mem ∧ (s.putCtx p i v).ecc = s.ecc ∧ (s.putCtx p i v).dirty = s.dirty ∧
    (s.putCtx p i v).hostMem = s.hostMem ∧ (s.putCtx p i v).hostResp = s.hostResp ∧ (s.putCtx p i v).grist = s.grist ∧
    (s.putCtx p i v).pawls = s.pawls ∧ (s.putCtx p i v).tags = s.tags ∧ (s.putCtx p i v).epochs = s.epochs ∧
    (s.putCtx p i v).units = s.units ∧ (s.putCtx p i v).repairs = s.repairs ∧ (s.putCtx p i v).logQueue = s.logQueue ∧
    (s.putCtx p i v).logLost = s.logLost ∧ (s.putCtx p i v).flash = s.flash ∧ (s.putCtx p i v).leat = s.leat ∧
    (s.putCtx p i v).hopper = s.hopper ∧ (s.putCtx p i v).race = s.race ∧ (s.putCtx p i v).saved = s.saved := by
  and_intros <;> rfl

@[simp] theorem State.setEntry_fields (e : Nat) (v : GristEntry) :
    (s.setEntry e v).pending = s.pending ∧ (s.setEntry e v).freeCount = s.freeCount ∧
    (s.setEntry e v).clockNs = s.clockNs ∧ (s.setEntry e v).power = s.power ∧ (s.setEntry e v).holdup = s.holdup ∧
    (s.setEntry e v).input = s.input ∧ (s.setEntry e v).resetIn = s.resetIn ∧ (s.setEntry e v).perst = s.perst ∧
    (s.setEntry e v).cfgReady = s.cfgReady ∧ (s.setEntry e v).pllLocked = s.pllLocked ∧
    (s.setEntry e v).tripped = s.tripped ∧ (s.setEntry e v).alert = s.alert ∧ (s.setEntry e v).logNew = s.logNew ∧
    (s.setEntry e v).straps = s.straps ∧ (s.setEntry e v).pwr = s.pwr ∧ (s.setEntry e v).gpio = s.gpio ∧
    (s.setEntry e v).tap = s.tap ∧ (s.setEntry e v).smbOut = s.smbOut ∧ (s.setEntry e v).smbSeq = s.smbSeq ∧
    (s.setEntry e v).smbCursor = s.smbCursor ∧ (s.setEntry e v).uartOut = s.uartOut ∧
    (s.setEntry e v).winOut = s.winOut ∧ (s.setEntry e v).winPoison = s.winPoison ∧ (s.setEntry e v).msgs = s.msgs ∧
    (s.setEntry e v).hostReqs = s.hostReqs ∧ (s.setEntry e v).ends = s.ends ∧ (s.setEntry e v).pcieRate = s.pcieRate ∧
    (s.setEntry e v).pcieX16 = s.pcieX16 ∧ (s.setEntry e v).locked = s.locked ∧ (s.setEntry e v).wrej = s.wrej ∧
    (s.setEntry e v).rejOffset = s.rejOffset ∧ (s.setEntry e v).shape = s.shape ∧
    (s.setEntry e v).moduleId = s.moduleId ∧ (s.setEntry e v).turnRoot = s.turnRoot ∧
    (s.setEntry e v).tsyncDelay = s.tsyncDelay ∧ (s.setEntry e v).hbmFail = s.hbmFail ∧
    (s.setEntry e v).tierFail = s.tierFail ∧ (s.setEntry e v).lostPower = s.lostPower ∧
    (s.setEntry e v).trained = s.trained ∧ (s.setEntry e v).combineUs = s.combineUs ∧
    (s.setEntry e v).faultWin = s.faultWin ∧ (s.setEntry e v).faultWinOn = s.faultWinOn ∧
    (s.setEntry e v).faultTh = s.faultTh ∧ (s.setEntry e v).stBusy = s.stBusy ∧
    (s.setEntry e v).stResult = s.stResult ∧ (s.setEntry e v).stResStone = s.stResStone ∧
    (s.setEntry e v).stStone = s.stStone ∧ (s.setEntry e v).fw = s.fw ∧ (s.setEntry e v).logSel = s.logSel ∧
    (s.setEntry e v).logReady = s.logReady ∧ (s.setEntry e v).logBusy = s.logBusy ∧
    (s.setEntry e v).logValid = s.logValid ∧ (s.setEntry e v).logCopy = s.logCopy ∧
    (s.setEntry e v).vfEnable = s.vfEnable ∧ (s.setEntry e v).numVfs = s.numVfs ∧ (s.setEntry e v).parts = s.parts ∧
    (s.setEntry e v).binds = s.binds ∧ (s.setEntry e v).houses = s.houses ∧ (s.setEntry e v).fns = s.fns ∧
    (s.setEntry e v).mem = s.mem ∧ (s.setEntry e v).ecc = s.ecc ∧ (s.setEntry e v).dirty = s.dirty ∧
    (s.setEntry e v).hostMem = s.hostMem ∧ (s.setEntry e v).hostResp = s.hostResp ∧ (s.setEntry e v).pawls = s.pawls ∧
    (s.setEntry e v).tags = s.tags ∧ (s.setEntry e v).stones = s.stones ∧ (s.setEntry e v).epochs = s.epochs ∧
    (s.setEntry e v).units = s.units ∧ (s.setEntry e v).repairs = s.repairs ∧ (s.setEntry e v).logQueue = s.logQueue ∧
    (s.setEntry e v).logLost = s.logLost ∧ (s.setEntry e v).flash = s.flash ∧ (s.setEntry e v).leat = s.leat ∧
    (s.setEntry e v).hopper = s.hopper ∧ (s.setEntry e v).race = s.race ∧ (s.setEntry e v).saved = s.saved := by
  and_intros <;> rfl

@[simp] theorem State.setPawl_fields (n : Nat) (v : Pawl) :
    (s.setPawl n v).pending = s.pending ∧ (s.setPawl n v).freeCount = s.freeCount ∧
    (s.setPawl n v).clockNs = s.clockNs ∧ (s.setPawl n v).power = s.power ∧ (s.setPawl n v).holdup = s.holdup ∧
    (s.setPawl n v).input = s.input ∧ (s.setPawl n v).resetIn = s.resetIn ∧ (s.setPawl n v).perst = s.perst ∧
    (s.setPawl n v).cfgReady = s.cfgReady ∧ (s.setPawl n v).pllLocked = s.pllLocked ∧
    (s.setPawl n v).tripped = s.tripped ∧ (s.setPawl n v).alert = s.alert ∧ (s.setPawl n v).logNew = s.logNew ∧
    (s.setPawl n v).straps = s.straps ∧ (s.setPawl n v).pwr = s.pwr ∧ (s.setPawl n v).gpio = s.gpio ∧
    (s.setPawl n v).tap = s.tap ∧ (s.setPawl n v).smbOut = s.smbOut ∧ (s.setPawl n v).smbSeq = s.smbSeq ∧
    (s.setPawl n v).smbCursor = s.smbCursor ∧ (s.setPawl n v).uartOut = s.uartOut ∧ (s.setPawl n v).winOut = s.winOut ∧
    (s.setPawl n v).winPoison = s.winPoison ∧ (s.setPawl n v).msgs = s.msgs ∧ (s.setPawl n v).hostReqs = s.hostReqs ∧
    (s.setPawl n v).ends = s.ends ∧ (s.setPawl n v).pcieRate = s.pcieRate ∧ (s.setPawl n v).pcieX16 = s.pcieX16 ∧
    (s.setPawl n v).locked = s.locked ∧ (s.setPawl n v).wrej = s.wrej ∧ (s.setPawl n v).rejOffset = s.rejOffset ∧
    (s.setPawl n v).shape = s.shape ∧ (s.setPawl n v).moduleId = s.moduleId ∧ (s.setPawl n v).turnRoot = s.turnRoot ∧
    (s.setPawl n v).tsyncDelay = s.tsyncDelay ∧ (s.setPawl n v).hbmFail = s.hbmFail ∧
    (s.setPawl n v).tierFail = s.tierFail ∧ (s.setPawl n v).lostPower = s.lostPower ∧
    (s.setPawl n v).trained = s.trained ∧ (s.setPawl n v).combineUs = s.combineUs ∧
    (s.setPawl n v).faultWin = s.faultWin ∧ (s.setPawl n v).faultWinOn = s.faultWinOn ∧
    (s.setPawl n v).faultTh = s.faultTh ∧ (s.setPawl n v).stBusy = s.stBusy ∧ (s.setPawl n v).stResult = s.stResult ∧
    (s.setPawl n v).stResStone = s.stResStone ∧ (s.setPawl n v).stStone = s.stStone ∧ (s.setPawl n v).fw = s.fw ∧
    (s.setPawl n v).logSel = s.logSel ∧ (s.setPawl n v).logReady = s.logReady ∧ (s.setPawl n v).logBusy = s.logBusy ∧
    (s.setPawl n v).logValid = s.logValid ∧ (s.setPawl n v).logCopy = s.logCopy ∧
    (s.setPawl n v).vfEnable = s.vfEnable ∧ (s.setPawl n v).numVfs = s.numVfs ∧ (s.setPawl n v).parts = s.parts ∧
    (s.setPawl n v).binds = s.binds ∧ (s.setPawl n v).houses = s.houses ∧ (s.setPawl n v).fns = s.fns ∧
    (s.setPawl n v).mem = s.mem ∧ (s.setPawl n v).ecc = s.ecc ∧ (s.setPawl n v).dirty = s.dirty ∧
    (s.setPawl n v).hostMem = s.hostMem ∧ (s.setPawl n v).hostResp = s.hostResp ∧ (s.setPawl n v).grist = s.grist ∧
    (s.setPawl n v).tags = s.tags ∧ (s.setPawl n v).stones = s.stones ∧ (s.setPawl n v).epochs = s.epochs ∧
    (s.setPawl n v).units = s.units ∧ (s.setPawl n v).repairs = s.repairs ∧ (s.setPawl n v).logQueue = s.logQueue ∧
    (s.setPawl n v).logLost = s.logLost ∧ (s.setPawl n v).flash = s.flash ∧ (s.setPawl n v).leat = s.leat ∧
    (s.setPawl n v).hopper = s.hopper ∧ (s.setPawl n v).race = s.race ∧ (s.setPawl n v).saved = s.saved := by
  and_intros <;> rfl

@[simp] theorem State.setTag_fields (p t : Nat) (v : CombineTag) :
    (s.setTag p t v).pending = s.pending ∧ (s.setTag p t v).freeCount = s.freeCount ∧
    (s.setTag p t v).clockNs = s.clockNs ∧ (s.setTag p t v).power = s.power ∧ (s.setTag p t v).holdup = s.holdup ∧
    (s.setTag p t v).input = s.input ∧ (s.setTag p t v).resetIn = s.resetIn ∧ (s.setTag p t v).perst = s.perst ∧
    (s.setTag p t v).cfgReady = s.cfgReady ∧ (s.setTag p t v).pllLocked = s.pllLocked ∧
    (s.setTag p t v).tripped = s.tripped ∧ (s.setTag p t v).alert = s.alert ∧ (s.setTag p t v).logNew = s.logNew ∧
    (s.setTag p t v).straps = s.straps ∧ (s.setTag p t v).pwr = s.pwr ∧ (s.setTag p t v).gpio = s.gpio ∧
    (s.setTag p t v).tap = s.tap ∧ (s.setTag p t v).smbOut = s.smbOut ∧ (s.setTag p t v).smbSeq = s.smbSeq ∧
    (s.setTag p t v).smbCursor = s.smbCursor ∧ (s.setTag p t v).uartOut = s.uartOut ∧
    (s.setTag p t v).winOut = s.winOut ∧ (s.setTag p t v).winPoison = s.winPoison ∧ (s.setTag p t v).msgs = s.msgs ∧
    (s.setTag p t v).hostReqs = s.hostReqs ∧ (s.setTag p t v).ends = s.ends ∧ (s.setTag p t v).pcieRate = s.pcieRate ∧
    (s.setTag p t v).pcieX16 = s.pcieX16 ∧ (s.setTag p t v).locked = s.locked ∧ (s.setTag p t v).wrej = s.wrej ∧
    (s.setTag p t v).rejOffset = s.rejOffset ∧ (s.setTag p t v).shape = s.shape ∧
    (s.setTag p t v).moduleId = s.moduleId ∧ (s.setTag p t v).turnRoot = s.turnRoot ∧
    (s.setTag p t v).tsyncDelay = s.tsyncDelay ∧ (s.setTag p t v).hbmFail = s.hbmFail ∧
    (s.setTag p t v).tierFail = s.tierFail ∧ (s.setTag p t v).lostPower = s.lostPower ∧
    (s.setTag p t v).trained = s.trained ∧ (s.setTag p t v).combineUs = s.combineUs ∧
    (s.setTag p t v).faultWin = s.faultWin ∧ (s.setTag p t v).faultWinOn = s.faultWinOn ∧
    (s.setTag p t v).faultTh = s.faultTh ∧ (s.setTag p t v).stBusy = s.stBusy ∧
    (s.setTag p t v).stResult = s.stResult ∧ (s.setTag p t v).stResStone = s.stResStone ∧
    (s.setTag p t v).stStone = s.stStone ∧ (s.setTag p t v).fw = s.fw ∧ (s.setTag p t v).logSel = s.logSel ∧
    (s.setTag p t v).logReady = s.logReady ∧ (s.setTag p t v).logBusy = s.logBusy ∧
    (s.setTag p t v).logValid = s.logValid ∧ (s.setTag p t v).logCopy = s.logCopy ∧
    (s.setTag p t v).vfEnable = s.vfEnable ∧ (s.setTag p t v).numVfs = s.numVfs ∧ (s.setTag p t v).parts = s.parts ∧
    (s.setTag p t v).binds = s.binds ∧ (s.setTag p t v).houses = s.houses ∧ (s.setTag p t v).fns = s.fns ∧
    (s.setTag p t v).mem = s.mem ∧ (s.setTag p t v).ecc = s.ecc ∧ (s.setTag p t v).dirty = s.dirty ∧
    (s.setTag p t v).hostMem = s.hostMem ∧ (s.setTag p t v).hostResp = s.hostResp ∧ (s.setTag p t v).grist = s.grist ∧
    (s.setTag p t v).pawls = s.pawls ∧ (s.setTag p t v).stones = s.stones ∧ (s.setTag p t v).epochs = s.epochs ∧
    (s.setTag p t v).units = s.units ∧ (s.setTag p t v).repairs = s.repairs ∧ (s.setTag p t v).logQueue = s.logQueue ∧
    (s.setTag p t v).logLost = s.logLost ∧ (s.setTag p t v).flash = s.flash ∧ (s.setTag p t v).leat = s.leat ∧
    (s.setTag p t v).hopper = s.hopper ∧ (s.setTag p t v).race = s.race ∧ (s.setTag p t v).saved = s.saved := by
  and_intros <;> rfl

@[simp] theorem State.setUnit_fields (k i : Nat) (v : UnitCount) :
    (s.setUnit k i v).pending = s.pending ∧ (s.setUnit k i v).freeCount = s.freeCount ∧
    (s.setUnit k i v).clockNs = s.clockNs ∧ (s.setUnit k i v).power = s.power ∧ (s.setUnit k i v).holdup = s.holdup ∧
    (s.setUnit k i v).input = s.input ∧ (s.setUnit k i v).resetIn = s.resetIn ∧ (s.setUnit k i v).perst = s.perst ∧
    (s.setUnit k i v).cfgReady = s.cfgReady ∧ (s.setUnit k i v).pllLocked = s.pllLocked ∧
    (s.setUnit k i v).tripped = s.tripped ∧ (s.setUnit k i v).alert = s.alert ∧ (s.setUnit k i v).logNew = s.logNew ∧
    (s.setUnit k i v).straps = s.straps ∧ (s.setUnit k i v).pwr = s.pwr ∧ (s.setUnit k i v).gpio = s.gpio ∧
    (s.setUnit k i v).tap = s.tap ∧ (s.setUnit k i v).smbOut = s.smbOut ∧ (s.setUnit k i v).smbSeq = s.smbSeq ∧
    (s.setUnit k i v).smbCursor = s.smbCursor ∧ (s.setUnit k i v).uartOut = s.uartOut ∧
    (s.setUnit k i v).winOut = s.winOut ∧ (s.setUnit k i v).winPoison = s.winPoison ∧ (s.setUnit k i v).msgs = s.msgs ∧
    (s.setUnit k i v).hostReqs = s.hostReqs ∧ (s.setUnit k i v).ends = s.ends ∧
    (s.setUnit k i v).pcieRate = s.pcieRate ∧ (s.setUnit k i v).pcieX16 = s.pcieX16 ∧
    (s.setUnit k i v).locked = s.locked ∧ (s.setUnit k i v).wrej = s.wrej ∧ (s.setUnit k i v).rejOffset = s.rejOffset ∧
    (s.setUnit k i v).shape = s.shape ∧ (s.setUnit k i v).moduleId = s.moduleId ∧
    (s.setUnit k i v).turnRoot = s.turnRoot ∧ (s.setUnit k i v).tsyncDelay = s.tsyncDelay ∧
    (s.setUnit k i v).hbmFail = s.hbmFail ∧ (s.setUnit k i v).tierFail = s.tierFail ∧
    (s.setUnit k i v).lostPower = s.lostPower ∧ (s.setUnit k i v).trained = s.trained ∧
    (s.setUnit k i v).combineUs = s.combineUs ∧ (s.setUnit k i v).faultWin = s.faultWin ∧
    (s.setUnit k i v).faultWinOn = s.faultWinOn ∧ (s.setUnit k i v).faultTh = s.faultTh ∧
    (s.setUnit k i v).stBusy = s.stBusy ∧ (s.setUnit k i v).stResult = s.stResult ∧
    (s.setUnit k i v).stResStone = s.stResStone ∧ (s.setUnit k i v).stStone = s.stStone ∧ (s.setUnit k i v).fw = s.fw ∧
    (s.setUnit k i v).logSel = s.logSel ∧ (s.setUnit k i v).logReady = s.logReady ∧
    (s.setUnit k i v).logBusy = s.logBusy ∧ (s.setUnit k i v).logValid = s.logValid ∧
    (s.setUnit k i v).logCopy = s.logCopy ∧ (s.setUnit k i v).vfEnable = s.vfEnable ∧
    (s.setUnit k i v).numVfs = s.numVfs ∧ (s.setUnit k i v).parts = s.parts ∧ (s.setUnit k i v).binds = s.binds ∧
    (s.setUnit k i v).houses = s.houses ∧ (s.setUnit k i v).fns = s.fns ∧ (s.setUnit k i v).mem = s.mem ∧
    (s.setUnit k i v).ecc = s.ecc ∧ (s.setUnit k i v).dirty = s.dirty ∧ (s.setUnit k i v).hostMem = s.hostMem ∧
    (s.setUnit k i v).hostResp = s.hostResp ∧ (s.setUnit k i v).grist = s.grist ∧ (s.setUnit k i v).pawls = s.pawls ∧
    (s.setUnit k i v).tags = s.tags ∧ (s.setUnit k i v).stones = s.stones ∧ (s.setUnit k i v).epochs = s.epochs ∧
    (s.setUnit k i v).repairs = s.repairs ∧ (s.setUnit k i v).logQueue = s.logQueue ∧
    (s.setUnit k i v).logLost = s.logLost ∧ (s.setUnit k i v).flash = s.flash ∧ (s.setUnit k i v).leat = s.leat ∧
    (s.setUnit k i v).hopper = s.hopper ∧ (s.setUnit k i v).race = s.race ∧ (s.setUnit k i v).saved = s.saved := by
  and_intros <;> rfl

@[simp] theorem State.setHop_fields (h i : Nat) (v : HopperStream) :
    (s.setHop h i v).pending = s.pending ∧ (s.setHop h i v).freeCount = s.freeCount ∧
    (s.setHop h i v).clockNs = s.clockNs ∧ (s.setHop h i v).power = s.power ∧ (s.setHop h i v).holdup = s.holdup ∧
    (s.setHop h i v).input = s.input ∧ (s.setHop h i v).resetIn = s.resetIn ∧ (s.setHop h i v).perst = s.perst ∧
    (s.setHop h i v).cfgReady = s.cfgReady ∧ (s.setHop h i v).pllLocked = s.pllLocked ∧
    (s.setHop h i v).tripped = s.tripped ∧ (s.setHop h i v).alert = s.alert ∧ (s.setHop h i v).logNew = s.logNew ∧
    (s.setHop h i v).straps = s.straps ∧ (s.setHop h i v).pwr = s.pwr ∧ (s.setHop h i v).gpio = s.gpio ∧
    (s.setHop h i v).tap = s.tap ∧ (s.setHop h i v).smbOut = s.smbOut ∧ (s.setHop h i v).smbSeq = s.smbSeq ∧
    (s.setHop h i v).smbCursor = s.smbCursor ∧ (s.setHop h i v).uartOut = s.uartOut ∧
    (s.setHop h i v).winOut = s.winOut ∧ (s.setHop h i v).winPoison = s.winPoison ∧ (s.setHop h i v).msgs = s.msgs ∧
    (s.setHop h i v).hostReqs = s.hostReqs ∧ (s.setHop h i v).ends = s.ends ∧ (s.setHop h i v).pcieRate = s.pcieRate ∧
    (s.setHop h i v).pcieX16 = s.pcieX16 ∧ (s.setHop h i v).locked = s.locked ∧ (s.setHop h i v).wrej = s.wrej ∧
    (s.setHop h i v).rejOffset = s.rejOffset ∧ (s.setHop h i v).shape = s.shape ∧
    (s.setHop h i v).moduleId = s.moduleId ∧ (s.setHop h i v).turnRoot = s.turnRoot ∧
    (s.setHop h i v).tsyncDelay = s.tsyncDelay ∧ (s.setHop h i v).hbmFail = s.hbmFail ∧
    (s.setHop h i v).tierFail = s.tierFail ∧ (s.setHop h i v).lostPower = s.lostPower ∧
    (s.setHop h i v).trained = s.trained ∧ (s.setHop h i v).combineUs = s.combineUs ∧
    (s.setHop h i v).faultWin = s.faultWin ∧ (s.setHop h i v).faultWinOn = s.faultWinOn ∧
    (s.setHop h i v).faultTh = s.faultTh ∧ (s.setHop h i v).stBusy = s.stBusy ∧
    (s.setHop h i v).stResult = s.stResult ∧ (s.setHop h i v).stResStone = s.stResStone ∧
    (s.setHop h i v).stStone = s.stStone ∧ (s.setHop h i v).fw = s.fw ∧ (s.setHop h i v).logSel = s.logSel ∧
    (s.setHop h i v).logReady = s.logReady ∧ (s.setHop h i v).logBusy = s.logBusy ∧
    (s.setHop h i v).logValid = s.logValid ∧ (s.setHop h i v).logCopy = s.logCopy ∧
    (s.setHop h i v).vfEnable = s.vfEnable ∧ (s.setHop h i v).numVfs = s.numVfs ∧ (s.setHop h i v).parts = s.parts ∧
    (s.setHop h i v).binds = s.binds ∧ (s.setHop h i v).houses = s.houses ∧ (s.setHop h i v).fns = s.fns ∧
    (s.setHop h i v).mem = s.mem ∧ (s.setHop h i v).ecc = s.ecc ∧ (s.setHop h i v).dirty = s.dirty ∧
    (s.setHop h i v).hostMem = s.hostMem ∧ (s.setHop h i v).hostResp = s.hostResp ∧ (s.setHop h i v).grist = s.grist ∧
    (s.setHop h i v).pawls = s.pawls ∧ (s.setHop h i v).tags = s.tags ∧ (s.setHop h i v).stones = s.stones ∧
    (s.setHop h i v).epochs = s.epochs ∧ (s.setHop h i v).units = s.units ∧ (s.setHop h i v).repairs = s.repairs ∧
    (s.setHop h i v).logQueue = s.logQueue ∧ (s.setHop h i v).logLost = s.logLost ∧ (s.setHop h i v).flash = s.flash ∧
    (s.setHop h i v).leat = s.leat ∧ (s.setHop h i v).race = s.race ∧ (s.setHop h i v).saved = s.saved := by
  and_intros <;> rfl

@[simp] theorem State.setRac_fields (h i : Nat) (v : RaceStream) :
    (s.setRac h i v).pending = s.pending ∧ (s.setRac h i v).freeCount = s.freeCount ∧
    (s.setRac h i v).clockNs = s.clockNs ∧ (s.setRac h i v).power = s.power ∧ (s.setRac h i v).holdup = s.holdup ∧
    (s.setRac h i v).input = s.input ∧ (s.setRac h i v).resetIn = s.resetIn ∧ (s.setRac h i v).perst = s.perst ∧
    (s.setRac h i v).cfgReady = s.cfgReady ∧ (s.setRac h i v).pllLocked = s.pllLocked ∧
    (s.setRac h i v).tripped = s.tripped ∧ (s.setRac h i v).alert = s.alert ∧ (s.setRac h i v).logNew = s.logNew ∧
    (s.setRac h i v).straps = s.straps ∧ (s.setRac h i v).pwr = s.pwr ∧ (s.setRac h i v).gpio = s.gpio ∧
    (s.setRac h i v).tap = s.tap ∧ (s.setRac h i v).smbOut = s.smbOut ∧ (s.setRac h i v).smbSeq = s.smbSeq ∧
    (s.setRac h i v).smbCursor = s.smbCursor ∧ (s.setRac h i v).uartOut = s.uartOut ∧
    (s.setRac h i v).winOut = s.winOut ∧ (s.setRac h i v).winPoison = s.winPoison ∧ (s.setRac h i v).msgs = s.msgs ∧
    (s.setRac h i v).hostReqs = s.hostReqs ∧ (s.setRac h i v).ends = s.ends ∧ (s.setRac h i v).pcieRate = s.pcieRate ∧
    (s.setRac h i v).pcieX16 = s.pcieX16 ∧ (s.setRac h i v).locked = s.locked ∧ (s.setRac h i v).wrej = s.wrej ∧
    (s.setRac h i v).rejOffset = s.rejOffset ∧ (s.setRac h i v).shape = s.shape ∧
    (s.setRac h i v).moduleId = s.moduleId ∧ (s.setRac h i v).turnRoot = s.turnRoot ∧
    (s.setRac h i v).tsyncDelay = s.tsyncDelay ∧ (s.setRac h i v).hbmFail = s.hbmFail ∧
    (s.setRac h i v).tierFail = s.tierFail ∧ (s.setRac h i v).lostPower = s.lostPower ∧
    (s.setRac h i v).trained = s.trained ∧ (s.setRac h i v).combineUs = s.combineUs ∧
    (s.setRac h i v).faultWin = s.faultWin ∧ (s.setRac h i v).faultWinOn = s.faultWinOn ∧
    (s.setRac h i v).faultTh = s.faultTh ∧ (s.setRac h i v).stBusy = s.stBusy ∧
    (s.setRac h i v).stResult = s.stResult ∧ (s.setRac h i v).stResStone = s.stResStone ∧
    (s.setRac h i v).stStone = s.stStone ∧ (s.setRac h i v).fw = s.fw ∧ (s.setRac h i v).logSel = s.logSel ∧
    (s.setRac h i v).logReady = s.logReady ∧ (s.setRac h i v).logBusy = s.logBusy ∧
    (s.setRac h i v).logValid = s.logValid ∧ (s.setRac h i v).logCopy = s.logCopy ∧
    (s.setRac h i v).vfEnable = s.vfEnable ∧ (s.setRac h i v).numVfs = s.numVfs ∧ (s.setRac h i v).parts = s.parts ∧
    (s.setRac h i v).binds = s.binds ∧ (s.setRac h i v).houses = s.houses ∧ (s.setRac h i v).fns = s.fns ∧
    (s.setRac h i v).mem = s.mem ∧ (s.setRac h i v).ecc = s.ecc ∧ (s.setRac h i v).dirty = s.dirty ∧
    (s.setRac h i v).hostMem = s.hostMem ∧ (s.setRac h i v).hostResp = s.hostResp ∧ (s.setRac h i v).grist = s.grist ∧
    (s.setRac h i v).pawls = s.pawls ∧ (s.setRac h i v).tags = s.tags ∧ (s.setRac h i v).stones = s.stones ∧
    (s.setRac h i v).epochs = s.epochs ∧ (s.setRac h i v).units = s.units ∧ (s.setRac h i v).repairs = s.repairs ∧
    (s.setRac h i v).logQueue = s.logQueue ∧ (s.setRac h i v).logLost = s.logLost ∧ (s.setRac h i v).flash = s.flash ∧
    (s.setRac h i v).leat = s.leat ∧ (s.setRac h i v).hopper = s.hopper ∧ (s.setRac h i v).saved = s.saved := by
  and_intros <;> rfl

@[simp] theorem State.setPort_fields (p : Nat) (v : Port) :
    (s.setPort p v).pending = s.pending ∧ (s.setPort p v).freeCount = s.freeCount ∧
    (s.setPort p v).clockNs = s.clockNs ∧ (s.setPort p v).power = s.power ∧ (s.setPort p v).holdup = s.holdup ∧
    (s.setPort p v).input = s.input ∧ (s.setPort p v).resetIn = s.resetIn ∧ (s.setPort p v).perst = s.perst ∧
    (s.setPort p v).cfgReady = s.cfgReady ∧ (s.setPort p v).pllLocked = s.pllLocked ∧
    (s.setPort p v).tripped = s.tripped ∧ (s.setPort p v).alert = s.alert ∧ (s.setPort p v).logNew = s.logNew ∧
    (s.setPort p v).straps = s.straps ∧ (s.setPort p v).pwr = s.pwr ∧ (s.setPort p v).gpio = s.gpio ∧
    (s.setPort p v).tap = s.tap ∧ (s.setPort p v).smbOut = s.smbOut ∧ (s.setPort p v).smbSeq = s.smbSeq ∧
    (s.setPort p v).smbCursor = s.smbCursor ∧ (s.setPort p v).uartOut = s.uartOut ∧ (s.setPort p v).winOut = s.winOut ∧
    (s.setPort p v).winPoison = s.winPoison ∧ (s.setPort p v).msgs = s.msgs ∧ (s.setPort p v).hostReqs = s.hostReqs ∧
    (s.setPort p v).ends = s.ends ∧ (s.setPort p v).pcieRate = s.pcieRate ∧ (s.setPort p v).pcieX16 = s.pcieX16 ∧
    (s.setPort p v).locked = s.locked ∧ (s.setPort p v).wrej = s.wrej ∧ (s.setPort p v).rejOffset = s.rejOffset ∧
    (s.setPort p v).shape = s.shape ∧ (s.setPort p v).moduleId = s.moduleId ∧ (s.setPort p v).turnRoot = s.turnRoot ∧
    (s.setPort p v).tsyncDelay = s.tsyncDelay ∧ (s.setPort p v).hbmFail = s.hbmFail ∧
    (s.setPort p v).tierFail = s.tierFail ∧ (s.setPort p v).lostPower = s.lostPower ∧
    (s.setPort p v).trained = s.trained ∧ (s.setPort p v).combineUs = s.combineUs ∧
    (s.setPort p v).faultWin = s.faultWin ∧ (s.setPort p v).faultWinOn = s.faultWinOn ∧
    (s.setPort p v).faultTh = s.faultTh ∧ (s.setPort p v).stBusy = s.stBusy ∧ (s.setPort p v).stResult = s.stResult ∧
    (s.setPort p v).stResStone = s.stResStone ∧ (s.setPort p v).stStone = s.stStone ∧ (s.setPort p v).fw = s.fw ∧
    (s.setPort p v).logSel = s.logSel ∧ (s.setPort p v).logReady = s.logReady ∧ (s.setPort p v).logBusy = s.logBusy ∧
    (s.setPort p v).logValid = s.logValid ∧ (s.setPort p v).logCopy = s.logCopy ∧
    (s.setPort p v).vfEnable = s.vfEnable ∧ (s.setPort p v).numVfs = s.numVfs ∧ (s.setPort p v).parts = s.parts ∧
    (s.setPort p v).binds = s.binds ∧ (s.setPort p v).houses = s.houses ∧ (s.setPort p v).fns = s.fns ∧
    (s.setPort p v).mem = s.mem ∧ (s.setPort p v).ecc = s.ecc ∧ (s.setPort p v).dirty = s.dirty ∧
    (s.setPort p v).hostMem = s.hostMem ∧ (s.setPort p v).hostResp = s.hostResp ∧ (s.setPort p v).grist = s.grist ∧
    (s.setPort p v).pawls = s.pawls ∧ (s.setPort p v).tags = s.tags ∧ (s.setPort p v).stones = s.stones ∧
    (s.setPort p v).epochs = s.epochs ∧ (s.setPort p v).units = s.units ∧ (s.setPort p v).repairs = s.repairs ∧
    (s.setPort p v).logQueue = s.logQueue ∧ (s.setPort p v).logLost = s.logLost ∧ (s.setPort p v).flash = s.flash ∧
    (s.setPort p v).hopper = s.hopper ∧ (s.setPort p v).race = s.race ∧ (s.setPort p v).saved = s.saved := by
  and_intros <;> rfl

@[simp] theorem State.setPin_fields (g : Nat) (v : Gpio) :
    (s.setPin g v).pending = s.pending ∧ (s.setPin g v).freeCount = s.freeCount ∧ (s.setPin g v).clockNs = s.clockNs ∧
    (s.setPin g v).power = s.power ∧ (s.setPin g v).holdup = s.holdup ∧ (s.setPin g v).input = s.input ∧
    (s.setPin g v).resetIn = s.resetIn ∧ (s.setPin g v).perst = s.perst ∧ (s.setPin g v).cfgReady = s.cfgReady ∧
    (s.setPin g v).pllLocked = s.pllLocked ∧ (s.setPin g v).tripped = s.tripped ∧ (s.setPin g v).alert = s.alert ∧
    (s.setPin g v).logNew = s.logNew ∧ (s.setPin g v).straps = s.straps ∧ (s.setPin g v).pwr = s.pwr ∧
    (s.setPin g v).tap = s.tap ∧ (s.setPin g v).smbOut = s.smbOut ∧ (s.setPin g v).smbSeq = s.smbSeq ∧
    (s.setPin g v).smbCursor = s.smbCursor ∧ (s.setPin g v).uartOut = s.uartOut ∧ (s.setPin g v).winOut = s.winOut ∧
    (s.setPin g v).winPoison = s.winPoison ∧ (s.setPin g v).msgs = s.msgs ∧ (s.setPin g v).hostReqs = s.hostReqs ∧
    (s.setPin g v).ends = s.ends ∧ (s.setPin g v).pcieRate = s.pcieRate ∧ (s.setPin g v).pcieX16 = s.pcieX16 ∧
    (s.setPin g v).locked = s.locked ∧ (s.setPin g v).wrej = s.wrej ∧ (s.setPin g v).rejOffset = s.rejOffset ∧
    (s.setPin g v).shape = s.shape ∧ (s.setPin g v).moduleId = s.moduleId ∧ (s.setPin g v).turnRoot = s.turnRoot ∧
    (s.setPin g v).tsyncDelay = s.tsyncDelay ∧ (s.setPin g v).hbmFail = s.hbmFail ∧
    (s.setPin g v).tierFail = s.tierFail ∧ (s.setPin g v).lostPower = s.lostPower ∧
    (s.setPin g v).trained = s.trained ∧ (s.setPin g v).combineUs = s.combineUs ∧
    (s.setPin g v).faultWin = s.faultWin ∧ (s.setPin g v).faultWinOn = s.faultWinOn ∧
    (s.setPin g v).faultTh = s.faultTh ∧ (s.setPin g v).stBusy = s.stBusy ∧ (s.setPin g v).stResult = s.stResult ∧
    (s.setPin g v).stResStone = s.stResStone ∧ (s.setPin g v).stStone = s.stStone ∧ (s.setPin g v).fw = s.fw ∧
    (s.setPin g v).logSel = s.logSel ∧ (s.setPin g v).logReady = s.logReady ∧ (s.setPin g v).logBusy = s.logBusy ∧
    (s.setPin g v).logValid = s.logValid ∧ (s.setPin g v).logCopy = s.logCopy ∧ (s.setPin g v).vfEnable = s.vfEnable ∧
    (s.setPin g v).numVfs = s.numVfs ∧ (s.setPin g v).parts = s.parts ∧ (s.setPin g v).binds = s.binds ∧
    (s.setPin g v).houses = s.houses ∧ (s.setPin g v).fns = s.fns ∧ (s.setPin g v).mem = s.mem ∧
    (s.setPin g v).ecc = s.ecc ∧ (s.setPin g v).dirty = s.dirty ∧ (s.setPin g v).hostMem = s.hostMem ∧
    (s.setPin g v).hostResp = s.hostResp ∧ (s.setPin g v).grist = s.grist ∧ (s.setPin g v).pawls = s.pawls ∧
    (s.setPin g v).tags = s.tags ∧ (s.setPin g v).stones = s.stones ∧ (s.setPin g v).epochs = s.epochs ∧
    (s.setPin g v).units = s.units ∧ (s.setPin g v).repairs = s.repairs ∧ (s.setPin g v).logQueue = s.logQueue ∧
    (s.setPin g v).logLost = s.logLost ∧ (s.setPin g v).flash = s.flash ∧ (s.setPin g v).leat = s.leat ∧
    (s.setPin g v).hopper = s.hopper ∧ (s.setPin g v).race = s.race ∧ (s.setPin g v).saved = s.saved := by
  and_intros <;> rfl

@[simp] theorem State.tick_fields :
    s.tick.pending = s.pending ∧ s.tick.clockNs = s.clockNs ∧ s.tick.power = s.power ∧ s.tick.holdup = s.holdup ∧
    s.tick.input = s.input ∧ s.tick.resetIn = s.resetIn ∧ s.tick.perst = s.perst ∧ s.tick.cfgReady = s.cfgReady ∧
    s.tick.pllLocked = s.pllLocked ∧ s.tick.tripped = s.tripped ∧ s.tick.alert = s.alert ∧ s.tick.logNew = s.logNew ∧
    s.tick.straps = s.straps ∧ s.tick.pwr = s.pwr ∧ s.tick.gpio = s.gpio ∧ s.tick.tap = s.tap ∧
    s.tick.smbOut = s.smbOut ∧ s.tick.smbSeq = s.smbSeq ∧ s.tick.smbCursor = s.smbCursor ∧ s.tick.uartOut = s.uartOut ∧
    s.tick.winOut = s.winOut ∧ s.tick.winPoison = s.winPoison ∧ s.tick.msgs = s.msgs ∧ s.tick.hostReqs = s.hostReqs ∧
    s.tick.ends = s.ends ∧ s.tick.pcieRate = s.pcieRate ∧ s.tick.pcieX16 = s.pcieX16 ∧ s.tick.locked = s.locked ∧
    s.tick.wrej = s.wrej ∧ s.tick.rejOffset = s.rejOffset ∧ s.tick.shape = s.shape ∧ s.tick.moduleId = s.moduleId ∧
    s.tick.turnRoot = s.turnRoot ∧ s.tick.tsyncDelay = s.tsyncDelay ∧ s.tick.hbmFail = s.hbmFail ∧
    s.tick.tierFail = s.tierFail ∧ s.tick.lostPower = s.lostPower ∧ s.tick.trained = s.trained ∧
    s.tick.combineUs = s.combineUs ∧ s.tick.faultWin = s.faultWin ∧ s.tick.faultWinOn = s.faultWinOn ∧
    s.tick.faultTh = s.faultTh ∧ s.tick.stBusy = s.stBusy ∧ s.tick.stResult = s.stResult ∧
    s.tick.stResStone = s.stResStone ∧ s.tick.stStone = s.stStone ∧ s.tick.fw = s.fw ∧ s.tick.logSel = s.logSel ∧
    s.tick.logReady = s.logReady ∧ s.tick.logBusy = s.logBusy ∧ s.tick.logValid = s.logValid ∧
    s.tick.logCopy = s.logCopy ∧ s.tick.vfEnable = s.vfEnable ∧ s.tick.numVfs = s.numVfs ∧ s.tick.parts = s.parts ∧
    s.tick.binds = s.binds ∧ s.tick.houses = s.houses ∧ s.tick.fns = s.fns ∧ s.tick.mem = s.mem ∧ s.tick.ecc = s.ecc ∧
    s.tick.dirty = s.dirty ∧ s.tick.hostMem = s.hostMem ∧ s.tick.hostResp = s.hostResp ∧ s.tick.grist = s.grist ∧
    s.tick.pawls = s.pawls ∧ s.tick.tags = s.tags ∧ s.tick.stones = s.stones ∧ s.tick.epochs = s.epochs ∧
    s.tick.units = s.units ∧ s.tick.repairs = s.repairs ∧ s.tick.logQueue = s.logQueue ∧ s.tick.logLost = s.logLost ∧
    s.tick.flash = s.flash ∧ s.tick.leat = s.leat ∧ s.tick.hopper = s.hopper ∧ s.tick.race = s.race ∧
    s.tick.saved = s.saved := by
  and_intros <;> rfl

@[simp] theorem State.ended_fields :
    s.ended.pending = s.pending ∧ s.ended.freeCount = s.freeCount ∧ s.ended.clockNs = s.clockNs ∧
    s.ended.power = s.power ∧ s.ended.holdup = s.holdup ∧ s.ended.input = s.input ∧ s.ended.resetIn = s.resetIn ∧
    s.ended.perst = s.perst ∧ s.ended.cfgReady = s.cfgReady ∧ s.ended.pllLocked = s.pllLocked ∧
    s.ended.tripped = s.tripped ∧ s.ended.alert = s.alert ∧ s.ended.logNew = s.logNew ∧ s.ended.straps = s.straps ∧
    s.ended.pwr = s.pwr ∧ s.ended.gpio = s.gpio ∧ s.ended.tap = s.tap ∧ s.ended.smbOut = s.smbOut ∧
    s.ended.smbSeq = s.smbSeq ∧ s.ended.smbCursor = s.smbCursor ∧ s.ended.uartOut = s.uartOut ∧
    s.ended.winOut = s.winOut ∧ s.ended.winPoison = s.winPoison ∧ s.ended.msgs = s.msgs ∧
    s.ended.hostReqs = s.hostReqs ∧ s.ended.pcieRate = s.pcieRate ∧ s.ended.pcieX16 = s.pcieX16 ∧
    s.ended.locked = s.locked ∧ s.ended.wrej = s.wrej ∧ s.ended.rejOffset = s.rejOffset ∧ s.ended.shape = s.shape ∧
    s.ended.moduleId = s.moduleId ∧ s.ended.turnRoot = s.turnRoot ∧ s.ended.tsyncDelay = s.tsyncDelay ∧
    s.ended.hbmFail = s.hbmFail ∧ s.ended.tierFail = s.tierFail ∧ s.ended.lostPower = s.lostPower ∧
    s.ended.trained = s.trained ∧ s.ended.combineUs = s.combineUs ∧ s.ended.faultWin = s.faultWin ∧
    s.ended.faultWinOn = s.faultWinOn ∧ s.ended.faultTh = s.faultTh ∧ s.ended.stBusy = s.stBusy ∧
    s.ended.stResult = s.stResult ∧ s.ended.stResStone = s.stResStone ∧ s.ended.stStone = s.stStone ∧
    s.ended.fw = s.fw ∧ s.ended.logSel = s.logSel ∧ s.ended.logReady = s.logReady ∧ s.ended.logBusy = s.logBusy ∧
    s.ended.logValid = s.logValid ∧ s.ended.logCopy = s.logCopy ∧ s.ended.vfEnable = s.vfEnable ∧
    s.ended.numVfs = s.numVfs ∧ s.ended.parts = s.parts ∧ s.ended.binds = s.binds ∧ s.ended.houses = s.houses ∧
    s.ended.fns = s.fns ∧ s.ended.mem = s.mem ∧ s.ended.ecc = s.ecc ∧ s.ended.dirty = s.dirty ∧
    s.ended.hostMem = s.hostMem ∧ s.ended.hostResp = s.hostResp ∧ s.ended.grist = s.grist ∧ s.ended.pawls = s.pawls ∧
    s.ended.tags = s.tags ∧ s.ended.stones = s.stones ∧ s.ended.epochs = s.epochs ∧ s.ended.units = s.units ∧
    s.ended.repairs = s.repairs ∧ s.ended.logQueue = s.logQueue ∧ s.ended.logLost = s.logLost ∧
    s.ended.flash = s.flash ∧ s.ended.leat = s.leat ∧ s.ended.hopper = s.hopper ∧ s.ended.race = s.race ∧
    s.ended.saved = s.saved := by
  and_intros <;> rfl

/-! ## Accessors that a setter leaves -/

@[simp] theorem State.setPart_reads (p : Nat) (v : Partition) :
    (∀ x, (s.setPart p v).bind x = s.bind x) ∧ (∀ x, (s.setPart p v).house x = s.house x) ∧
    (∀ x, (s.setPart p v).fn x = s.fn x) ∧ (∀ x y, (s.setPart p v).sq x y = s.sq x y) ∧
    (∀ x y, (s.setPart p v).cq x y = s.cq x y) ∧ (∀ x y, (s.setPart p v).vec x y = s.vec x y) ∧
    (∀ x y, (s.setPart p v).running x y = s.running x y) ∧ (∀ x, (s.setPart p v).stone x = s.stone x) ∧
    (∀ x y, (s.setPart p v).setCtx x y = s.setCtx x y) ∧ (∀ x, (s.setPart p v).physOf x = s.physOf x) ∧
    (∀ x, (s.setPart p v).epoch x = s.epoch x) ∧ (∀ x, (s.setPart p v).entry x = s.entry x) ∧
    (∀ x, (s.setPart p v).pawl x = s.pawl x) ∧ (∀ x y, (s.setPart p v).tag x y = s.tag x y) ∧
    (∀ x y, (s.setPart p v).unit x y = s.unit x y) ∧ (∀ x y, (s.setPart p v).hop x y = s.hop x y) ∧
    (∀ x y, (s.setPart p v).rac x y = s.rac x y) ∧ (∀ x, (s.setPart p v).port x = s.port x) ∧
    (∀ x, (s.setPart p v).pin x = s.pin x) := by
  and_intros <;> intros <;> rfl

@[simp] theorem State.setBind_reads (f : Nat) (v : Binding) :
    (∀ x, (s.setBind f v).part x = s.part x) ∧ (∀ x, (s.setBind f v).house x = s.house x) ∧
    (∀ x, (s.setBind f v).fn x = s.fn x) ∧ (∀ x y, (s.setBind f v).sq x y = s.sq x y) ∧
    (∀ x y, (s.setBind f v).cq x y = s.cq x y) ∧ (∀ x y, (s.setBind f v).vec x y = s.vec x y) ∧
    (∀ x y, (s.setBind f v).running x y = s.running x y) ∧ (∀ x, (s.setBind f v).stone x = s.stone x) ∧
    (∀ x y, (s.setBind f v).setCtx x y = s.setCtx x y) ∧ (∀ x, (s.setBind f v).physOf x = s.physOf x) ∧
    (∀ x, (s.setBind f v).epoch x = s.epoch x) ∧ (∀ x, (s.setBind f v).entry x = s.entry x) ∧
    (∀ x, (s.setBind f v).pawl x = s.pawl x) ∧ (∀ x y, (s.setBind f v).tag x y = s.tag x y) ∧
    (∀ x y, (s.setBind f v).unit x y = s.unit x y) ∧ (∀ x y, (s.setBind f v).hop x y = s.hop x y) ∧
    (∀ x y, (s.setBind f v).rac x y = s.rac x y) ∧ (∀ x, (s.setBind f v).port x = s.port x) ∧
    (∀ x, (s.setBind f v).pin x = s.pin x) := by
  and_intros <;> intros <;> rfl

@[simp] theorem State.setHouse_reads (h : Nat) (v : HouseRegs) :
    (∀ x, (s.setHouse h v).part x = s.part x) ∧ (∀ x, (s.setHouse h v).bind x = s.bind x) ∧
    (∀ x, (s.setHouse h v).fn x = s.fn x) ∧ (∀ x y, (s.setHouse h v).sq x y = s.sq x y) ∧
    (∀ x y, (s.setHouse h v).cq x y = s.cq x y) ∧ (∀ x y, (s.setHouse h v).vec x y = s.vec x y) ∧
    (∀ x y, (s.setHouse h v).running x y = s.running x y) ∧ (∀ x, (s.setHouse h v).stone x = s.stone x) ∧
    (∀ x y, (s.setHouse h v).setCtx x y = s.setCtx x y) ∧ (∀ x, (s.setHouse h v).physOf x = s.physOf x) ∧
    (∀ x, (s.setHouse h v).epoch x = s.epoch x) ∧ (∀ x, (s.setHouse h v).entry x = s.entry x) ∧
    (∀ x, (s.setHouse h v).pawl x = s.pawl x) ∧ (∀ x y, (s.setHouse h v).tag x y = s.tag x y) ∧
    (∀ x y, (s.setHouse h v).unit x y = s.unit x y) ∧ (∀ x y, (s.setHouse h v).hop x y = s.hop x y) ∧
    (∀ x y, (s.setHouse h v).rac x y = s.rac x y) ∧ (∀ x, (s.setHouse h v).port x = s.port x) ∧
    (∀ x, (s.setHouse h v).pin x = s.pin x) := by
  and_intros <;> intros <;> rfl

@[simp] theorem State.setFn_reads (f : Nat) (v : Func) :
    (∀ x, (s.setFn f v).part x = s.part x) ∧ (∀ x, (s.setFn f v).bind x = s.bind x) ∧
    (∀ x, (s.setFn f v).house x = s.house x) ∧ (∀ x, (s.setFn f v).stone x = s.stone x) ∧
    (∀ x y, (s.setFn f v).setCtx x y = s.setCtx x y) ∧ (∀ x, (s.setFn f v).physOf x = s.physOf x) ∧
    (∀ x, (s.setFn f v).epoch x = s.epoch x) ∧ (∀ x, (s.setFn f v).entry x = s.entry x) ∧
    (∀ x, (s.setFn f v).pawl x = s.pawl x) ∧ (∀ x y, (s.setFn f v).tag x y = s.tag x y) ∧
    (∀ x y, (s.setFn f v).unit x y = s.unit x y) ∧ (∀ x y, (s.setFn f v).hop x y = s.hop x y) ∧
    (∀ x y, (s.setFn f v).rac x y = s.rac x y) ∧ (∀ x, (s.setFn f v).port x = s.port x) ∧
    (∀ x, (s.setFn f v).pin x = s.pin x) := by
  and_intros <;> intros <;> rfl

@[simp] theorem State.setSq_reads (f r : Nat) (v : SubRing) :
    (∀ x, (s.setSq f r v).part x = s.part x) ∧ (∀ x, (s.setSq f r v).bind x = s.bind x) ∧
    (∀ x, (s.setSq f r v).house x = s.house x) ∧ (∀ x, (s.setSq f r v).stone x = s.stone x) ∧
    (∀ x y, (s.setSq f r v).setCtx x y = s.setCtx x y) ∧ (∀ x, (s.setSq f r v).physOf x = s.physOf x) ∧
    (∀ x, (s.setSq f r v).epoch x = s.epoch x) ∧ (∀ x, (s.setSq f r v).entry x = s.entry x) ∧
    (∀ x, (s.setSq f r v).pawl x = s.pawl x) ∧ (∀ x y, (s.setSq f r v).tag x y = s.tag x y) ∧
    (∀ x y, (s.setSq f r v).unit x y = s.unit x y) ∧ (∀ x y, (s.setSq f r v).hop x y = s.hop x y) ∧
    (∀ x y, (s.setSq f r v).rac x y = s.rac x y) ∧ (∀ x, (s.setSq f r v).port x = s.port x) ∧
    (∀ x, (s.setSq f r v).pin x = s.pin x) := by
  and_intros <;> intros <;> rfl

@[simp] theorem State.setCq_reads (f c : Nat) (v : CompRing) :
    (∀ x, (s.setCq f c v).part x = s.part x) ∧ (∀ x, (s.setCq f c v).bind x = s.bind x) ∧
    (∀ x, (s.setCq f c v).house x = s.house x) ∧ (∀ x, (s.setCq f c v).stone x = s.stone x) ∧
    (∀ x y, (s.setCq f c v).setCtx x y = s.setCtx x y) ∧ (∀ x, (s.setCq f c v).physOf x = s.physOf x) ∧
    (∀ x, (s.setCq f c v).epoch x = s.epoch x) ∧ (∀ x, (s.setCq f c v).entry x = s.entry x) ∧
    (∀ x, (s.setCq f c v).pawl x = s.pawl x) ∧ (∀ x y, (s.setCq f c v).tag x y = s.tag x y) ∧
    (∀ x y, (s.setCq f c v).unit x y = s.unit x y) ∧ (∀ x y, (s.setCq f c v).hop x y = s.hop x y) ∧
    (∀ x y, (s.setCq f c v).rac x y = s.rac x y) ∧ (∀ x, (s.setCq f c v).port x = s.port x) ∧
    (∀ x, (s.setCq f c v).pin x = s.pin x) := by
  and_intros <;> intros <;> rfl

@[simp] theorem State.setRunning_reads (f r : Nat) (v : Option Running) :
    (∀ x, (s.setRunning f r v).part x = s.part x) ∧ (∀ x, (s.setRunning f r v).bind x = s.bind x) ∧
    (∀ x, (s.setRunning f r v).house x = s.house x) ∧ (∀ x, (s.setRunning f r v).stone x = s.stone x) ∧
    (∀ x y, (s.setRunning f r v).setCtx x y = s.setCtx x y) ∧ (∀ x, (s.setRunning f r v).physOf x = s.physOf x) ∧
    (∀ x, (s.setRunning f r v).epoch x = s.epoch x) ∧ (∀ x, (s.setRunning f r v).entry x = s.entry x) ∧
    (∀ x, (s.setRunning f r v).pawl x = s.pawl x) ∧ (∀ x y, (s.setRunning f r v).tag x y = s.tag x y) ∧
    (∀ x y, (s.setRunning f r v).unit x y = s.unit x y) ∧ (∀ x y, (s.setRunning f r v).hop x y = s.hop x y) ∧
    (∀ x y, (s.setRunning f r v).rac x y = s.rac x y) ∧ (∀ x, (s.setRunning f r v).port x = s.port x) ∧
    (∀ x, (s.setRunning f r v).pin x = s.pin x) := by
  and_intros <;> intros <;> rfl

@[simp] theorem State.setStone_reads (p : Nat) (v : Stone) :
    (∀ x, (s.setStone p v).part x = s.part x) ∧ (∀ x, (s.setStone p v).bind x = s.bind x) ∧
    (∀ x, (s.setStone p v).house x = s.house x) ∧ (∀ x, (s.setStone p v).fn x = s.fn x) ∧
    (∀ x y, (s.setStone p v).sq x y = s.sq x y) ∧ (∀ x y, (s.setStone p v).cq x y = s.cq x y) ∧
    (∀ x y, (s.setStone p v).vec x y = s.vec x y) ∧ (∀ x y, (s.setStone p v).running x y = s.running x y) ∧
    (∀ x, (s.setStone p v).epoch x = s.epoch x) ∧ (∀ x, (s.setStone p v).entry x = s.entry x) ∧
    (∀ x, (s.setStone p v).pawl x = s.pawl x) ∧ (∀ x y, (s.setStone p v).tag x y = s.tag x y) ∧
    (∀ x y, (s.setStone p v).unit x y = s.unit x y) ∧ (∀ x y, (s.setStone p v).hop x y = s.hop x y) ∧
    (∀ x y, (s.setStone p v).rac x y = s.rac x y) ∧ (∀ x, (s.setStone p v).port x = s.port x) ∧
    (∀ x, (s.setStone p v).pin x = s.pin x) := by
  and_intros <;> intros <;> rfl

@[simp] theorem State.putCtx_reads (p i : Nat) (v : SetCtx) :
    (∀ x, (s.putCtx p i v).part x = s.part x) ∧ (∀ x, (s.putCtx p i v).bind x = s.bind x) ∧
    (∀ x, (s.putCtx p i v).house x = s.house x) ∧ (∀ x, (s.putCtx p i v).fn x = s.fn x) ∧
    (∀ x y, (s.putCtx p i v).sq x y = s.sq x y) ∧ (∀ x y, (s.putCtx p i v).cq x y = s.cq x y) ∧
    (∀ x y, (s.putCtx p i v).vec x y = s.vec x y) ∧ (∀ x y, (s.putCtx p i v).running x y = s.running x y) ∧
    (∀ x, (s.putCtx p i v).epoch x = s.epoch x) ∧ (∀ x, (s.putCtx p i v).entry x = s.entry x) ∧
    (∀ x, (s.putCtx p i v).pawl x = s.pawl x) ∧ (∀ x y, (s.putCtx p i v).tag x y = s.tag x y) ∧
    (∀ x y, (s.putCtx p i v).unit x y = s.unit x y) ∧ (∀ x y, (s.putCtx p i v).hop x y = s.hop x y) ∧
    (∀ x y, (s.putCtx p i v).rac x y = s.rac x y) ∧ (∀ x, (s.putCtx p i v).port x = s.port x) ∧
    (∀ x, (s.putCtx p i v).pin x = s.pin x) := by
  and_intros <;> intros <;> rfl

@[simp] theorem State.setEntry_reads (e : Nat) (v : GristEntry) :
    (∀ x, (s.setEntry e v).part x = s.part x) ∧ (∀ x, (s.setEntry e v).bind x = s.bind x) ∧
    (∀ x, (s.setEntry e v).house x = s.house x) ∧ (∀ x, (s.setEntry e v).fn x = s.fn x) ∧
    (∀ x y, (s.setEntry e v).sq x y = s.sq x y) ∧ (∀ x y, (s.setEntry e v).cq x y = s.cq x y) ∧
    (∀ x y, (s.setEntry e v).vec x y = s.vec x y) ∧ (∀ x y, (s.setEntry e v).running x y = s.running x y) ∧
    (∀ x, (s.setEntry e v).stone x = s.stone x) ∧ (∀ x y, (s.setEntry e v).setCtx x y = s.setCtx x y) ∧
    (∀ x, (s.setEntry e v).physOf x = s.physOf x) ∧ (∀ x, (s.setEntry e v).epoch x = s.epoch x) ∧
    (∀ x, (s.setEntry e v).pawl x = s.pawl x) ∧ (∀ x y, (s.setEntry e v).tag x y = s.tag x y) ∧
    (∀ x y, (s.setEntry e v).unit x y = s.unit x y) ∧ (∀ x y, (s.setEntry e v).hop x y = s.hop x y) ∧
    (∀ x y, (s.setEntry e v).rac x y = s.rac x y) ∧ (∀ x, (s.setEntry e v).port x = s.port x) ∧
    (∀ x, (s.setEntry e v).pin x = s.pin x) := by
  and_intros <;> intros <;> rfl

@[simp] theorem State.setPawl_reads (n : Nat) (v : Pawl) :
    (∀ x, (s.setPawl n v).part x = s.part x) ∧ (∀ x, (s.setPawl n v).bind x = s.bind x) ∧
    (∀ x, (s.setPawl n v).house x = s.house x) ∧ (∀ x, (s.setPawl n v).fn x = s.fn x) ∧
    (∀ x y, (s.setPawl n v).sq x y = s.sq x y) ∧ (∀ x y, (s.setPawl n v).cq x y = s.cq x y) ∧
    (∀ x y, (s.setPawl n v).vec x y = s.vec x y) ∧ (∀ x y, (s.setPawl n v).running x y = s.running x y) ∧
    (∀ x, (s.setPawl n v).stone x = s.stone x) ∧ (∀ x y, (s.setPawl n v).setCtx x y = s.setCtx x y) ∧
    (∀ x, (s.setPawl n v).physOf x = s.physOf x) ∧ (∀ x, (s.setPawl n v).epoch x = s.epoch x) ∧
    (∀ x, (s.setPawl n v).entry x = s.entry x) ∧ (∀ x y, (s.setPawl n v).tag x y = s.tag x y) ∧
    (∀ x y, (s.setPawl n v).unit x y = s.unit x y) ∧ (∀ x y, (s.setPawl n v).hop x y = s.hop x y) ∧
    (∀ x y, (s.setPawl n v).rac x y = s.rac x y) ∧ (∀ x, (s.setPawl n v).port x = s.port x) ∧
    (∀ x, (s.setPawl n v).pin x = s.pin x) := by
  and_intros <;> intros <;> rfl

@[simp] theorem State.setTag_reads (p t : Nat) (v : CombineTag) :
    (∀ x, (s.setTag p t v).part x = s.part x) ∧ (∀ x, (s.setTag p t v).bind x = s.bind x) ∧
    (∀ x, (s.setTag p t v).house x = s.house x) ∧ (∀ x, (s.setTag p t v).fn x = s.fn x) ∧
    (∀ x y, (s.setTag p t v).sq x y = s.sq x y) ∧ (∀ x y, (s.setTag p t v).cq x y = s.cq x y) ∧
    (∀ x y, (s.setTag p t v).vec x y = s.vec x y) ∧ (∀ x y, (s.setTag p t v).running x y = s.running x y) ∧
    (∀ x, (s.setTag p t v).stone x = s.stone x) ∧ (∀ x y, (s.setTag p t v).setCtx x y = s.setCtx x y) ∧
    (∀ x, (s.setTag p t v).physOf x = s.physOf x) ∧ (∀ x, (s.setTag p t v).epoch x = s.epoch x) ∧
    (∀ x, (s.setTag p t v).entry x = s.entry x) ∧ (∀ x, (s.setTag p t v).pawl x = s.pawl x) ∧
    (∀ x y, (s.setTag p t v).unit x y = s.unit x y) ∧ (∀ x y, (s.setTag p t v).hop x y = s.hop x y) ∧
    (∀ x y, (s.setTag p t v).rac x y = s.rac x y) ∧ (∀ x, (s.setTag p t v).port x = s.port x) ∧
    (∀ x, (s.setTag p t v).pin x = s.pin x) := by
  and_intros <;> intros <;> rfl

@[simp] theorem State.setUnit_reads (k i : Nat) (v : UnitCount) :
    (∀ x, (s.setUnit k i v).part x = s.part x) ∧ (∀ x, (s.setUnit k i v).bind x = s.bind x) ∧
    (∀ x, (s.setUnit k i v).house x = s.house x) ∧ (∀ x, (s.setUnit k i v).fn x = s.fn x) ∧
    (∀ x y, (s.setUnit k i v).sq x y = s.sq x y) ∧ (∀ x y, (s.setUnit k i v).cq x y = s.cq x y) ∧
    (∀ x y, (s.setUnit k i v).vec x y = s.vec x y) ∧ (∀ x y, (s.setUnit k i v).running x y = s.running x y) ∧
    (∀ x, (s.setUnit k i v).stone x = s.stone x) ∧ (∀ x y, (s.setUnit k i v).setCtx x y = s.setCtx x y) ∧
    (∀ x, (s.setUnit k i v).physOf x = s.physOf x) ∧ (∀ x, (s.setUnit k i v).epoch x = s.epoch x) ∧
    (∀ x, (s.setUnit k i v).entry x = s.entry x) ∧ (∀ x, (s.setUnit k i v).pawl x = s.pawl x) ∧
    (∀ x y, (s.setUnit k i v).tag x y = s.tag x y) ∧ (∀ x y, (s.setUnit k i v).hop x y = s.hop x y) ∧
    (∀ x y, (s.setUnit k i v).rac x y = s.rac x y) ∧ (∀ x, (s.setUnit k i v).port x = s.port x) ∧
    (∀ x, (s.setUnit k i v).pin x = s.pin x) := by
  and_intros <;> intros <;> rfl

@[simp] theorem State.setHop_reads (h i : Nat) (v : HopperStream) :
    (∀ x, (s.setHop h i v).part x = s.part x) ∧ (∀ x, (s.setHop h i v).bind x = s.bind x) ∧
    (∀ x, (s.setHop h i v).house x = s.house x) ∧ (∀ x, (s.setHop h i v).fn x = s.fn x) ∧
    (∀ x y, (s.setHop h i v).sq x y = s.sq x y) ∧ (∀ x y, (s.setHop h i v).cq x y = s.cq x y) ∧
    (∀ x y, (s.setHop h i v).vec x y = s.vec x y) ∧ (∀ x y, (s.setHop h i v).running x y = s.running x y) ∧
    (∀ x, (s.setHop h i v).stone x = s.stone x) ∧ (∀ x y, (s.setHop h i v).setCtx x y = s.setCtx x y) ∧
    (∀ x, (s.setHop h i v).physOf x = s.physOf x) ∧ (∀ x, (s.setHop h i v).epoch x = s.epoch x) ∧
    (∀ x, (s.setHop h i v).entry x = s.entry x) ∧ (∀ x, (s.setHop h i v).pawl x = s.pawl x) ∧
    (∀ x y, (s.setHop h i v).tag x y = s.tag x y) ∧ (∀ x y, (s.setHop h i v).unit x y = s.unit x y) ∧
    (∀ x y, (s.setHop h i v).rac x y = s.rac x y) ∧ (∀ x, (s.setHop h i v).port x = s.port x) ∧
    (∀ x, (s.setHop h i v).pin x = s.pin x) := by
  and_intros <;> intros <;> rfl

@[simp] theorem State.setRac_reads (h i : Nat) (v : RaceStream) :
    (∀ x, (s.setRac h i v).part x = s.part x) ∧ (∀ x, (s.setRac h i v).bind x = s.bind x) ∧
    (∀ x, (s.setRac h i v).house x = s.house x) ∧ (∀ x, (s.setRac h i v).fn x = s.fn x) ∧
    (∀ x y, (s.setRac h i v).sq x y = s.sq x y) ∧ (∀ x y, (s.setRac h i v).cq x y = s.cq x y) ∧
    (∀ x y, (s.setRac h i v).vec x y = s.vec x y) ∧ (∀ x y, (s.setRac h i v).running x y = s.running x y) ∧
    (∀ x, (s.setRac h i v).stone x = s.stone x) ∧ (∀ x y, (s.setRac h i v).setCtx x y = s.setCtx x y) ∧
    (∀ x, (s.setRac h i v).physOf x = s.physOf x) ∧ (∀ x, (s.setRac h i v).epoch x = s.epoch x) ∧
    (∀ x, (s.setRac h i v).entry x = s.entry x) ∧ (∀ x, (s.setRac h i v).pawl x = s.pawl x) ∧
    (∀ x y, (s.setRac h i v).tag x y = s.tag x y) ∧ (∀ x y, (s.setRac h i v).unit x y = s.unit x y) ∧
    (∀ x y, (s.setRac h i v).hop x y = s.hop x y) ∧ (∀ x, (s.setRac h i v).port x = s.port x) ∧
    (∀ x, (s.setRac h i v).pin x = s.pin x) := by
  and_intros <;> intros <;> rfl

@[simp] theorem State.setPort_reads (p : Nat) (v : Port) :
    (∀ x, (s.setPort p v).part x = s.part x) ∧ (∀ x, (s.setPort p v).bind x = s.bind x) ∧
    (∀ x, (s.setPort p v).house x = s.house x) ∧ (∀ x, (s.setPort p v).fn x = s.fn x) ∧
    (∀ x y, (s.setPort p v).sq x y = s.sq x y) ∧ (∀ x y, (s.setPort p v).cq x y = s.cq x y) ∧
    (∀ x y, (s.setPort p v).vec x y = s.vec x y) ∧ (∀ x y, (s.setPort p v).running x y = s.running x y) ∧
    (∀ x, (s.setPort p v).stone x = s.stone x) ∧ (∀ x y, (s.setPort p v).setCtx x y = s.setCtx x y) ∧
    (∀ x, (s.setPort p v).physOf x = s.physOf x) ∧ (∀ x, (s.setPort p v).epoch x = s.epoch x) ∧
    (∀ x, (s.setPort p v).entry x = s.entry x) ∧ (∀ x, (s.setPort p v).pawl x = s.pawl x) ∧
    (∀ x y, (s.setPort p v).tag x y = s.tag x y) ∧ (∀ x y, (s.setPort p v).unit x y = s.unit x y) ∧
    (∀ x y, (s.setPort p v).hop x y = s.hop x y) ∧ (∀ x y, (s.setPort p v).rac x y = s.rac x y) ∧
    (∀ x, (s.setPort p v).pin x = s.pin x) := by
  and_intros <;> intros <;> rfl

@[simp] theorem State.setPin_reads (g : Nat) (v : Gpio) :
    (∀ x, (s.setPin g v).part x = s.part x) ∧ (∀ x, (s.setPin g v).bind x = s.bind x) ∧
    (∀ x, (s.setPin g v).house x = s.house x) ∧ (∀ x, (s.setPin g v).fn x = s.fn x) ∧
    (∀ x y, (s.setPin g v).sq x y = s.sq x y) ∧ (∀ x y, (s.setPin g v).cq x y = s.cq x y) ∧
    (∀ x y, (s.setPin g v).vec x y = s.vec x y) ∧ (∀ x y, (s.setPin g v).running x y = s.running x y) ∧
    (∀ x, (s.setPin g v).stone x = s.stone x) ∧ (∀ x y, (s.setPin g v).setCtx x y = s.setCtx x y) ∧
    (∀ x, (s.setPin g v).physOf x = s.physOf x) ∧ (∀ x, (s.setPin g v).epoch x = s.epoch x) ∧
    (∀ x, (s.setPin g v).entry x = s.entry x) ∧ (∀ x, (s.setPin g v).pawl x = s.pawl x) ∧
    (∀ x y, (s.setPin g v).tag x y = s.tag x y) ∧ (∀ x y, (s.setPin g v).unit x y = s.unit x y) ∧
    (∀ x y, (s.setPin g v).hop x y = s.hop x y) ∧ (∀ x y, (s.setPin g v).rac x y = s.rac x y) ∧
    (∀ x, (s.setPin g v).port x = s.port x) := by
  and_intros <;> intros <;> rfl

@[simp] theorem State.tick_reads :
    (∀ x, s.tick.part x = s.part x) ∧ (∀ x, s.tick.bind x = s.bind x) ∧ (∀ x, s.tick.house x = s.house x) ∧
    (∀ x, s.tick.fn x = s.fn x) ∧ (∀ x y, s.tick.sq x y = s.sq x y) ∧ (∀ x y, s.tick.cq x y = s.cq x y) ∧
    (∀ x y, s.tick.vec x y = s.vec x y) ∧ (∀ x y, s.tick.running x y = s.running x y) ∧
    (∀ x, s.tick.stone x = s.stone x) ∧ (∀ x y, s.tick.setCtx x y = s.setCtx x y) ∧
    (∀ x, s.tick.physOf x = s.physOf x) ∧ (∀ x, s.tick.epoch x = s.epoch x) ∧ (∀ x, s.tick.entry x = s.entry x) ∧
    (∀ x, s.tick.pawl x = s.pawl x) ∧ (∀ x y, s.tick.tag x y = s.tag x y) ∧ (∀ x y, s.tick.unit x y = s.unit x y) ∧
    (∀ x y, s.tick.hop x y = s.hop x y) ∧ (∀ x y, s.tick.rac x y = s.rac x y) ∧ (∀ x, s.tick.port x = s.port x) ∧
    (∀ x, s.tick.pin x = s.pin x) := by
  and_intros <;> intros <;> rfl

@[simp] theorem State.ended_reads :
    (∀ x, s.ended.part x = s.part x) ∧ (∀ x, s.ended.bind x = s.bind x) ∧ (∀ x, s.ended.house x = s.house x) ∧
    (∀ x, s.ended.fn x = s.fn x) ∧ (∀ x y, s.ended.sq x y = s.sq x y) ∧ (∀ x y, s.ended.cq x y = s.cq x y) ∧
    (∀ x y, s.ended.vec x y = s.vec x y) ∧ (∀ x y, s.ended.running x y = s.running x y) ∧
    (∀ x, s.ended.stone x = s.stone x) ∧ (∀ x y, s.ended.setCtx x y = s.setCtx x y) ∧
    (∀ x, s.ended.physOf x = s.physOf x) ∧ (∀ x, s.ended.epoch x = s.epoch x) ∧ (∀ x, s.ended.entry x = s.entry x) ∧
    (∀ x, s.ended.pawl x = s.pawl x) ∧ (∀ x y, s.ended.tag x y = s.tag x y) ∧ (∀ x y, s.ended.unit x y = s.unit x y) ∧
    (∀ x y, s.ended.hop x y = s.hop x y) ∧ (∀ x y, s.ended.rac x y = s.rac x y) ∧ (∀ x, s.ended.port x = s.port x) ∧
    (∀ x, s.ended.pin x = s.pin x) := by
  and_intros <;> intros <;> rfl

/-! ## What a setter writes, and what it leaves of its own table -/

@[simp] theorem State.part_setPart (p : Nat) (v : Partition) : (s.setPart p v).part p = v := by simp [State.setPart, State.part]

@[simp] theorem State.bind_setBind (f : Nat) (v : Binding) : (s.setBind f v).bind f = v := by simp [State.setBind, State.bind]

@[simp] theorem State.house_setHouse (h : Nat) (v : HouseRegs) : (s.setHouse h v).house h = v := by simp [State.setHouse, State.house]

@[simp] theorem State.fn_setFn (f : Nat) (v : Func) : (s.setFn f v).fn f = v := by simp [State.setFn, State.fn]

@[simp] theorem State.stone_setStone (p : Nat) (v : Stone) : (s.setStone p v).stone p = v := by simp [State.setStone, State.stone]

@[simp] theorem State.entry_setEntry (e : Nat) (v : GristEntry) : (s.setEntry e v).entry e = v := by simp [State.setEntry, State.entry]

@[simp] theorem State.pawl_setPawl (n : Nat) (v : Pawl) : (s.setPawl n v).pawl n = v := by simp [State.setPawl, State.pawl]

@[simp] theorem State.port_setPort (p : Nat) (v : Port) : (s.setPort p v).port p = v := by simp [State.setPort, State.port]

@[simp] theorem State.pin_setPin (g : Nat) (v : Gpio) : (s.setPin g v).pin g = v := by simp [State.setPin, State.pin]

theorem State.part_setPart_ne (p j : Nat) (v : Partition) (hne : j ≠ p) : (s.setPart p v).part j = s.part j := by
  simp [State.setPart, State.part, Table.get_put_ne _ _ _ _ _ _ hne]

theorem State.bind_setBind_ne (f j : Nat) (v : Binding) (hne : j ≠ f) : (s.setBind f v).bind j = s.bind j := by
  simp [State.setBind, State.bind, Table.get_put_ne _ _ _ _ _ _ hne]

theorem State.house_setHouse_ne (h j : Nat) (v : HouseRegs) (hne : j ≠ h) : (s.setHouse h v).house j = s.house j := by
  simp [State.setHouse, State.house, Table.get_put_ne _ _ _ _ _ _ hne]

theorem State.fn_setFn_ne (f j : Nat) (v : Func) (hne : j ≠ f) : (s.setFn f v).fn j = s.fn j := by
  simp [State.setFn, State.fn, Table.get_put_ne _ _ _ _ _ _ hne]

theorem State.stone_setStone_ne (p j : Nat) (v : Stone) (hne : j ≠ p) : (s.setStone p v).stone j = s.stone j := by
  simp [State.setStone, State.stone, Table.get_put_ne _ _ _ _ _ _ hne]

theorem State.entry_setEntry_ne (e j : Nat) (v : GristEntry) (hne : j ≠ e) : (s.setEntry e v).entry j = s.entry j := by
  simp [State.setEntry, State.entry, Table.get_put_ne _ _ _ _ _ _ hne]

theorem State.pawl_setPawl_ne (n j : Nat) (v : Pawl) (hne : j ≠ n) : (s.setPawl n v).pawl j = s.pawl j := by
  simp [State.setPawl, State.pawl, Table.get_put_ne _ _ _ _ _ _ hne]

theorem State.port_setPort_ne (p j : Nat) (v : Port) (hne : j ≠ p) : (s.setPort p v).port j = s.port j := by
  simp [State.setPort, State.port, Table.get_put_ne _ _ _ _ _ _ hne]

theorem State.pin_setPin_ne (g j : Nat) (v : Gpio) (hne : j ≠ g) : (s.setPin g v).pin j = s.pin j := by
  simp [State.setPin, State.pin, Table.get_put_ne _ _ _ _ _ _ hne]

/-- A ring reads what was written to it. -/
@[simp] theorem State.sq_setSq (f r : Nat) (v : SubRing) : (s.setSq f r v).sq f r = v := by simp [State.setSq, State.sq]
@[simp] theorem State.cq_setCq (f c : Nat) (v : CompRing) : (s.setCq f c v).cq f c = v := by simp [State.setCq, State.cq]
@[simp] theorem State.running_setRunning (f r : Nat) (v : Option Running) : (s.setRunning f r v).running f r = v := by
  simp [State.setRunning, State.running]

/-- Every other ring reads as before. -/
theorem State.sq_setSq_ne (f r g q : Nat) (v : SubRing) (h : g ≠ f ∨ q ≠ r) : (s.setSq f r v).sq g q = s.sq g q := by
  by_cases e : g = f
  · subst e
    have hq : q ≠ r := by rcases h with h | h; exact absurd rfl h; exact h
    simp [State.setSq, State.sq, Table.get_put_ne _ _ _ _ _ _ hq]
  · simp [State.setSq, State.sq, State.fn_setFn_ne _ _ _ _ e]

theorem State.cq_setCq_ne (f c g q : Nat) (v : CompRing) (h : g ≠ f ∨ q ≠ c) : (s.setCq f c v).cq g q = s.cq g q := by
  by_cases e : g = f
  · subst e
    have hq : q ≠ c := by rcases h with h | h; exact absurd rfl h; exact h
    simp [State.setCq, State.cq, Table.get_put_ne _ _ _ _ _ _ hq]
  · simp [State.setCq, State.cq, State.fn_setFn_ne _ _ _ _ e]

/-- The submission and completion rings of a function do not meet. -/
@[simp] theorem State.cq_setSq (f r g c : Nat) (v : SubRing) : (s.setSq f r v).cq g c = s.cq g c := by
  by_cases e : g = f
  · subst e; simp [State.setSq, State.cq]
  · simp [State.setSq, State.cq, State.fn_setFn_ne _ _ _ _ e]

@[simp] theorem State.sq_setCq (f c g r : Nat) (v : CompRing) : (s.setCq f c v).sq g r = s.sq g r := by
  by_cases e : g = f
  · subst e; simp [State.setCq, State.sq]
  · simp [State.setCq, State.sq, State.fn_setFn_ne _ _ _ _ e]

/-- A combine tag reads what was written to it. -/
@[simp] theorem State.tag_setTag (p t : Nat) (v : CombineTag) : (s.setTag p t v).tag p t = v := by simp [State.setTag, State.tag]
@[simp] theorem State.setCtx_putCtx (p i : Nat) (v : SetCtx) : (s.putCtx p i v).setCtx p i = v := by
  simp [State.putCtx, State.setCtx, Stone.setSet, Stone.set]

/-- Ending a command that runs. -/
theorem State.finish_of_running (f r : Nat) (c : Running) (st : Status) (res : Word32) (h : s.running f r = some c) :
    s.finish f r st res = s.endedWith f r c st res := by
  have e : s.ended.running f r = some c := by simpa using h
  simp only [State.finish, State.modRunning, e, State.endedWith]

/-- A command whose opcode `o` has been fetched and whose effect has not begun. -/
theorem State.fresh_iff (f r : Nat) (o : Opcode) (c : Running) :
    s.fresh f r o = some c ↔ s.running f r = some c ∧ c.wait = .none ∧ c.done = none ∧ opcodeOf c.desc.opcode = some o ∧
      (s.part (s.partOf f)).state = .active := by
  unfold State.fresh
  cases h : s.running f r with
  | none => simp
  | some x =>
    simp only [Option.some.injEq]
    constructor
    · intro k; split at k
      · next g => cases k; exact ⟨rfl, g⟩
      · cases k
    · rintro ⟨rfl, g⟩; simp [g]

/-- The effect of a fetched command. -/
theorem State.runCmd_of_fresh (f r : Nat) (o : Opcode) (k : Running → State) (c : Running) (h : s.fresh f r o = some c) :
    s.runCmd f r o k = k c := by simp [State.runCmd, h]

/-- With no fetched command of the opcode, nothing happens. -/
theorem State.runCmd_of_none (f r : Nat) (o : Opcode) (k : Running → State) (h : s.fresh f r o = none) :
    s.runCmd f r o k = s := by simp [State.runCmd, h]

/-- Where no declaration is due, the end of a step adds nothing. -/
theorem State.settle_of_none_due (h : ∀ c ∈ s.units, c.2.due = false) : s.settle = s := by
  have e : s.units.map (fun c => (c.1, { c.2 with due := false })) = s.units := by
    conv_rhs => rw [← List.map_id s.units]
    apply List.map_congr_left
    intro c hc
    have := h c hc
    rcases c with ⟨k, u⟩
    simp only at this
    cases u; simp_all
  have f : s.units.filter (fun c => c.2.due) = [] := by
    rw [List.filter_eq_nil_iff]; intro c hc; simp [h c hc]
  unfold State.settle
  simp only [e, f, List.filter_nil, sortBy, List.foldl_nil]

end Sys2Proof.Machine
end

