-- ==== Sys2Proof/Machine/Reads.lean ====
section
/-! DEFINITION. What a host read of a register returns: function page sets, the status page and the setup registers (R334
to R358, R438, R444, R457 to R475). No command of the table reads a register, and a read changes no state; these functions
say which bits of the state a register shows. -/
namespace Sys2Proof.Machine

/-! ## Codes of states -/

/-- STATE of SQ_STAT (R342). -/
def SqState.code : SqState → Nat
  | .disabled => 0 | .running => 1 | .halted => 2 | .stopping => 3

/-- STATE of CQ_STAT (R351). -/
def CqState.code : CqState → Nat
  | .disabled => 0 | .running => 1 | .faulted => 2

/-- MOD of CQ_STAT (R351). -/
def ModState.code : ModState → Nat
  | .armed => 0 | .pending => 1 | .fired => 2

/-- SHAPE of MODULE_CFG (R464). -/
def Shape.code : Shape → Nat
  | .whole => 0 | .halves => 1 | .quarters => 2

/-- STATE of PART_CTRL (R248). -/
def PState.code : PState → Nat
  | .unassigned => 0 | .zeroing => 1 | .active => 2 | .releasing => 3

/-- STATE of FW_CTRL (R457). -/
def FwState.code : FwState → Nat
  | .idle => 0 | .checking => 1 | .erasing => 2 | .programming => 3 | .verifying => 4 | .done => 5 | .failed => 6

/-! ## Ring registers (R340 to R342, R351) -/

/-- SQ_BASE and CQ_BASE (R340). -/
def SubRing.baseWord (q : SubRing) : Nat := q.base.toNat * 2 ^ 12
def CompRing.baseWord (q : CompRing) : Nat := q.base.toNat * 2 ^ 12

/-- SQ_STAT (R342). -/
def SubRing.statWord (q : SubRing) : Nat :=
  q.head.toNat + q.haltStatus.toNat * 2 ^ 16 + b2n q.dbErr * 2 ^ 29 + q.state.code * 2 ^ 30 + q.seqNext.toNat * 2 ^ 32

/-- SQ_CTRL: RESUME and ABORT read 0 (R342). -/
def SubRing.ctrlWord (q : SubRing) : Nat := q.tail.toNat * 2 ^ 32

/-- CQ_CFG (R351). -/
def CompRing.cfgWord (q : CompRing) : Nat :=
  q.vector.toNat + q.countTh.toNat * 2 ^ 8 + q.log2.toNat * 2 ^ 16 + b2n q.enable * 2 ^ 31 + q.timer.toNat * 2 ^ 32

/-- CQ_STAT (R351). -/
def CompRing.statWord (q : CompRing) : Nat :=
  q.tail.toNat + b2n q.dbErr * 2 ^ 16 + q.mod.code * 2 ^ 28 + q.state.code * 2 ^ 30 + q.head.toNat * 2 ^ 32

/-- CQ_LOST (R351). -/
def CompRing.lostWord (q : CompRing) : Nat := q.lostSq.toNat + b2n q.lost * 2 ^ 4 + q.lostSeq.toNat * 2 ^ 32

/-! ## Weir registers (R189) -/

/-- WEIR_LEVEL. -/
def Weir.levelWord (w : Weir) : Nat := w.low.toNat + w.high.toNat * 2 ^ 16

/-- WEIR_STAT: CCLR reads 0. -/
def Weir.statWord (w : Weir) : Nat :=
  w.count.toNat + b2n w.falling * 2 ^ 28 + b2n w.notify * 2 ^ 29 + b2n w.crossed * 2 ^ 30 + b2n w.live * 2 ^ 31

/-! ## The page set (R335, R339) -/

/-- A register of the ring control page: its value and its width in bits; none where the table lists none. -/
def State.ringReg (s : State) (f off : Nat) : Option (Nat × Nat) :=
  if off < 0x200 then
    let q := s.sq f (off / 0x20)
    match off % 0x20 with
    | 0x00 => some (q.baseWord, 64)
    | 0x08 => some (q.cfg, 32)
    | 0x10 => some (q.statWord, 64)
    | 0x18 => some (q.ctrlWord, 64)
    | _ => none
  else if off < 0x400 then
    let q := s.cq f ((off - 0x200) / 0x20)
    match off % 0x20 with
    | 0x00 => some (q.baseWord, 64)
    | 0x08 => some (q.cfgWord, 64)
    | 0x10 => some (q.statWord, 64)
    | 0x18 => some (q.lostWord, 64)
    | _ => none
  else if off = 0x400 then some (b2n (s.fn f).wrej, 32)
  else if off = 0x408 then some ((s.fn f).cause.word, 32)
  else if off = 0x410 then some ((s.fn f).causeEn.word, 32)
  else if off = 0x418 then some (if f = 0 then (s.fn 0).memwin.toNat * 2 ^ 32 else 0, 64)
  else if 0x800 ≤ off ∧ off < 0x900 then
    let w := (s.sq f ((off - 0x800) / 0x10)).weir
    match off % 0x10 with
    | 0x0 => some (w.levelWord, 32)
    | 0x4 => some (w.statWord, 32)
    | _ => none
  else if 0x900 ≤ off ∧ off < 0xA00 then
    let w := (s.cq f ((off - 0x900) / 0x10)).weir
    match off % 0x10 with
    | 0x0 => some (w.levelWord, 32)
    | 0x4 => some (w.statWord, 32)
    | _ => none
  else none

/-- A word of the status page (R475). -/
def State.statusWord (s : State) (f off : Nat) : Nat :=
  let b := s.bind f
  let p := b.part.toNat
  let x := s.part p
  match off with
  | 0x000 =>
    s.moduleId.toNat + f * 2 ^ 32 + b.gristMax.toNat * 2 ^ 41 + b2n b.overOk * 2 ^ 53 + b2n (s.tenant f) * 2 ^ 54 +
    b2n s.locked * 2 ^ 55 + b2n s.trained * 2 ^ 56 + b2n x.memReady * 2 ^ 57 + x.state.code * 2 ^ 58 + p * 2 ^ 60 +
    s.shape.code * 2 ^ 62
  | 0x008 => x.quantum.toNat + x.reserve.toNat * 2 ^ 18 + x.slotSize.toNat * 2 ^ 32 + x.latentSlots.toNat * 2 ^ 36
  | 0x010 =>
    x.pawlCount.toNat + (s.pawlCarve p).1 * 2 ^ 16 + x.gristCount.toNat * 2 ^ 32 + (s.gristCarve p).1 * 2 ^ 48
  | 0x018 => s.pwr.skip.toNat * 2 ^ 58
  | 0x020 => x.poolWeir.levelWord + x.poolWeir.statWord * 2 ^ 32
  | 0x028 => x.gristWeir.levelWord + x.gristWeir.statWord * 2 ^ 32
  | _ => 0

/-- The MSI-X table as bytes, as PCIe lays an entry out (R335, R355). -/
def State.msixBytes (s : State) (f : Nat) : List Byte :=
  (List.range 17).flatMap (fun v =>
    let x := s.vec f v
    natLe 8 x.addr.toNat ++ natLe 4 x.data.toNat ++ natLe 4 (b2n x.masked))

/-- `width` bits of a run of bytes at `off`; 0 unless the access is an aligned one of 32 or 64 bits. -/
def readRun (bs : List Byte) (off width : Nat) : Nat :=
  if (width = 32 ∨ width = 64) ∧ off % (width / 8) = 0 then leNat ((bs.drop off).take (width / 8)) else 0

/-- A host read of the page set of function `f` (R335): doorbells, reserved regions and unlisted offsets read zero. -/
def State.readPage (s : State) (f off width : Nat) : Nat :=
  if off < 0x1000 then 0
  else if off < 0x2000 then
    match s.ringReg f (off - 0x1000) with
    | some (v, w) => if width = w then v else 0
    | none => 0
  else if off < 0x3000 then if width = 64 then s.statusWord f (off - 0x2000) else 0
  else if off < 0x3110 then readRun (s.msixBytes f) (off - 0x3000) width
  else if 0x3800 ≤ off ∧ off < 0x3808 then readRun (natLe 8 (s.fn f).pending.toNat) (off - 0x3800) width
  else 0

/-! ## Setup registers (R458 to R474) -/

/-- POWER (R438). -/
def Power.word (x : Power) : Nat :=
  x.capW.toNat + x.iLimit.toNat * 2 ^ 16 + x.watts.toNat * 2 ^ 32 + b2n x.floor * 2 ^ 54 + b2n x.powerLim * 2 ^ 55 +
  b2n x.current * 2 ^ 56 + b2n x.thermal * 2 ^ 57 + x.skip.toNat * 2 ^ 58

/-- FW_CTRL (R457). -/
def State.fwWord (s : State) : Nat :=
  let x := s.fw
  let o := s.flash.other x.runningB
  (if o.valid then o.version.toNat else 0) + x.version.toNat * 2 ^ 16 + b2n x.rolledBack * 2 ^ 54 + b2n x.runningB * 2 ^ 55 +
  x.cause.toNat * 2 ^ 56 + x.state.code * 2 ^ 60 + b2n x.program * 2 ^ 63

/-- GPIO_ASSIGN of a pin (R429). -/
def State.gpioWord (s : State) (g : Nat) : Nat :=
  let x := s.pin g
  b2n x.genIn + b2n x.genOut * 2 + b2n x.tsync * 4 + b2n x.debug * 8 + b2n x.outLow * 2 ^ 8 + b2n (s.pinLevel g) * 2 ^ 16

/-- FUNC_BIND (R250). -/
def Binding.word (b : Binding) : Nat :=
  b2n b.kill + b.gristMax.toNat * 2 ^ 12 + b.part.toNat * 2 ^ 28 + b2n b.overOk * 2 ^ 30 + b2n b.valid * 2 ^ 31

/-- What a setup register shows. -/
def State.readReg (s : State) : Reg → Nat
  | .ident0 => Config.serial.toNat
  | .ident1 => s.fw.version.toNat + Config.silicon.toNat * 2 ^ 16 + (Config.encRev s.fw.version).toNat * 2 ^ 32
  | .setupLock => b2n s.locked
  | .setupStatus => s.rejOffset.toNat + b2n s.wrej * 2 ^ 31
  | .moduleCfg => s.moduleId.toNat + s.shape.code * 2 ^ 30
  | .leatCtrl => s.tsyncDelay.toNat + b2n s.turnRoot * 2 ^ 31
  | .moduleStatus => b2n s.trained + b2n s.lostPower * 2 + s.tierFail.toNat * 2 ^ 16 + s.hbmFail.toNat * 2 ^ 20
  | .combineTimeout => s.combineUs.toNat
  | .power => s.pwr.word
  | .faultCfg => s.faultTh.toNat + s.faultWin.toNat * 2 ^ 8
  | .stoneCmd =>
    s.stStone.toNat + s.stResStone.toNat * 2 ^ 14 + s.stResult.toNat * 2 ^ 22 + s.stBusy.toNat * 2 ^ 24
  | .fwSrc => s.fw.src.toNat * 2 ^ 12
  | .fwCtrl => s.fwWord
  | .gpio g => s.gpioWord g
  | .partCtrl p =>
    let x := s.part p
    x.quantum.toNat + x.reserve.toNat * 2 ^ 14 + b2n x.memReady * 2 ^ 27 + x.state.code * 2 ^ 28
  | .partCarve p => (s.part p).gristCount.toNat + (s.part p).pawlCount.toNat * 2 ^ 16
  | .partPool p =>
    let x := s.part p
    x.poolBase.toNat * 2 ^ 16 + x.slotSize.toNat * 2 ^ 44 + x.latentSlots.toNat * 2 ^ 48
  | .weirLevel id => (s.weir id).levelWord
  | .weirStat id => (s.weir id).statWord
  | .pondSplit h => (s.house h).scratch.toNat + (s.house h).media.toNat * 2 ^ 8 + (s.house h).cacheOff.toNat * 2 ^ 16
  | .racePool h => (s.house h).poolBase.toNat * 2 ^ 21 + (s.house h).bufMib.toNat * 2 ^ 56
  | .funcBind f => (s.bind f).word
  | .mmuRoot f => b2n (s.bind f).rootValid + (s.bind f).root.toNat * 2 ^ 12
  | .logSelect => s.logSel.toNat
  | .logEnd => s.logEnd.toNat
  | .logStatus => b2n s.logReady + b2n s.logValid * 2

/-- The 4,096 bytes of LOG_WINDOW: zero while READY or VALID is 0 (R474). -/
def State.logWindow (s : State) : List Byte :=
  match s.logCopy with
  | some r => if s.logReady && s.logValid then r.bytes else []
  | none => []

/-- A host read of the setup registers (R458): a wrong width and an unlisted offset read zero; LOG_WINDOW accepts aligned
reads of 32 or 64 bits (R474). -/
def State.readSetup (s : State) (off width : Nat) : Nat :=
  if 0x19000 ≤ off ∧ off < 0x1A000 then readRun s.logWindow (off - 0x19000) width
  else
    match regAt off with
    | some (r, w) => if width = w then s.readReg r else 0
    | none => 0

/-- A register of the configuration space of a function that R332, R333 and R355 name, in PCIe's layout. -/
inductive CfgReg where
  | msixControl | deviceControl | aerStatus | linkStatus | serial0 | serial1 | sriovVfs | sriovLayout | sriovControl
  deriving DecidableEq, Repr

/-- What it shows: MSI-X Table Size 16 (R355); Max Payload and Read Request Size; link rate and width; Device Serial Number, the fused
SERIAL; InitialVFs and TotalVFs 255, First VF Offset and VF Stride 1, NumVFs and VF Enable of PF0 (R333). -/
def State.readConfig (s : State) (f : Nat) : CfgReg → Nat
  | .msixControl => 16 + b2n (s.fn f).fnMask * 2 ^ 14 + b2n (s.fn f).msixEn * 2 ^ 15
  | .deviceControl => (s.fn f).maxPayload.toNat * 2 ^ 5 + (s.fn f).maxRead.toNat * 2 ^ 12
  | .aerStatus => (s.fn f).aer.toNat
  | .linkStatus => (s.pcieRate.toNat + 4) + (if s.pcieX16 then 16 else 8) * 2 ^ 4
  | .serial0 => Config.serial.toNat % 2 ^ 32
  | .serial1 => Config.serial.toNat / 2 ^ 32
  | .sriovVfs => if f = 0 then 255 + 255 * 2 ^ 16 else 0
  | .sriovLayout => if f = 0 then 1 + 1 * 2 ^ 16 else 0
  | .sriovControl => if f = 0 then b2n s.vfEnable + s.numVfs.toNat * 2 ^ 16 else 0

/-- A host read of BAR0 of a function (R334); none until configuration is ready (R446). -/
def State.readBar0 (s : State) (f off width : Nat) : Option Word64 :=
  if !s.cfgReady then none
  else if off < 0x10000 then some (BitVec.ofNat 64 (s.readPage f off width))
  else some (BitVec.ofNat 64 (if f = 0 then s.readSetup off width else 0))

end Sys2Proof.Machine
end

