-- ==== Sys2Proof/Tests/Slice0.lean ====
section
/-! SUPPORT. Tests: ill-formed commands, worked examples of the manual, and states that meet the hypotheses of the statements. -/
namespace Sys2Proof.Tests
open Sys2Proof.Machine

set_option Elab.async false

/-! ## Small states -/

/-- The state that a meaning answers. -/
def nextOf (x : Host.Outcome State Fault Refusal) : State := match x with | .next t => t | _ => State.reset

/-- The state after one command. -/
def after (c : Instr) (s : State) : State := nextOf (exec c s)

/-- In RUN, trained, with configuration space answering. -/
def up : State :=
  { State.reset with power := .run, resetIn := true, perst := true, cfgReady := true, pllLocked := true, trained := true }

/-- Page tables of PF0 at 0x1000: virtual gibibyte 0 is device memory from 0, gibibyte 1 host memory from 0, gibibyte 2 device
memory of module 0 behind the links, all writable (R159). -/
def tables : Memory := [(0x1000, 0x01), (0x1001, 0x20), (0x2000, 0x07), (0x2008, 0x27), (0x2010, 0x17)]

/-- A partition that serves, with PF0 as its tenant. -/
def base : State :=
  { (up.setPart 0 { up.part 0 with state := .active, memReady := true, latentSlots := 4, poolBase := 16 }).setBind 0
      { valid := true, overOk := true, rootValid := true, root := 1, gristMax := 8 } with mem := tables }

/-- Word 0 of a descriptor: opcode and OPERAND0 (R345). -/
def word0 (opcode operand : Nat) : Word64 := BitVec.ofNat 64 (opcode + operand * 2 ^ 32)

/-- A fetched command: opcode, OPERAND0, words 1 to 7. -/
def cmd (opcode operand : Nat) (rest : List Word64) : Running := { desc := word0 opcode operand :: rest }

/-- Ring 0 of PF0 runs a command. -/
def on (s : State) (c : Running) : State :=
  s.setSq 0 0 { s.sq 0 0 with state := .running, enable := true, log2 := 4, running := some c }

/-- `base` with a command on ring 0. -/
def onRing (c : Running) : State := on base c

/-- Did an engine's work end without a stop? -/
def ran {α : Type} (x : Except Stop α × Eng) : Bool := match x.1 with | .ok _ => true | .error _ => false

/-- Work that ended has a value. -/
theorem ran_spec {α : Type} {x : Except Stop α × Eng} (h : ran x = true) : ∃ v e, x = (.ok v, e) := by
  obtain ⟨v | v, e⟩ := x
  · cases h
  · exact ⟨v, e, rfl⟩

/-! ## Operands of gibibyte 0: `State.Reaches` and `State.ReachesApart` hold -/

/-- The MMU buffers of a module without stored errors. -/
theorem mmuBuf_clean (a : Acc) (e : Eng) (he : e.s.ecc = []) : (mmuBuf a).run.run e = (.ok (), e) := by
  obtain ⟨s, fl, dv, wr⟩ := e
  simp only at he
  simp [mmuBuf, meetBuf, getS, ExceptT.run, ExceptT.bind, ExceptT.mk, bind, StateT.bind, pure, StateT.pure, StateT.run, ExceptT.pure,
    get, getThe, MonadStateOf.get, liftM, monadLift, MonadLift.monadLift, ExceptT.lift, StateT.get, modify, modifyGet,
    MonadStateOf.modifyGet, StateT.modifyGet, ExceptT.bindCont, Functor.map, StateT.map, he, meetEcc]

/-- A structure read from memory without stored errors. -/
theorem readStruct_clean (a : Acc) (va pa n : Nat) (e : Eng) (he : e.s.ecc = []) :
    (readStruct a va pa n).run.run e = (.ok (e.s.mem.readN pa n), e) := by
  obtain ⟨s, fl, dv, wr⟩ := e
  simp only at he
  simp [readStruct, getS, modS, State.devRead, ExceptT.run, ExceptT.bind, ExceptT.mk, bind, StateT.bind, pure, StateT.pure, StateT.run,
    ExceptT.pure, get, getThe, MonadStateOf.get, liftM, monadLift, MonadLift.monadLift, ExceptT.lift, StateT.get, modify, modifyGet,
    MonadStateOf.modifyGet, StateT.modifyGet, ExceptT.bindCont, Functor.map, StateT.map, he, meetEcc]

/-- Work goes on from what its first part answers. -/
theorem run_bind {α β : Type} (m : Run α) (k : α → Run β) (e e' : Eng) (x : α) (h : m.run.run e = (.ok x, e')) :
    (m >>= k).run.run e = (k x).run.run e' := by
  simp only [ExceptT.run_bind, StateT.run_bind, h]; rfl

/-- The walk of an address of gibibyte 0 finds its leaf. -/
theorem walk_low (a : Acc) (va : Nat) (e : Eng) (he : e.s.ecc = []) (ha : e.s.partOf a.f = 0)
    (hd : e.s.inDram 0 0x1000 = true ∧ e.s.inRacePool 0x1000 = false ∧ e.s.inDram 0 0x2000 = true ∧ e.s.inRacePool 0x2000 = false)
    (h1 : e.s.mem.readN 0x1000 8 = natLe 8 0x2001) (h2 : e.s.mem.readN 0x2000 8 = natLe 8 7) (hv : va < 2 ^ 30) :
    (walk a va 3 0x1000).run.run e = (.ok (7, 30), e) := by
  have i3 : va / 2 ^ (12 + 9 * 3) % 512 = 0 := by omega
  have i2 : va / 2 ^ (12 + 9 * 2) % 512 = 0 := by omega
  have g : getS.run.run e = (.ok e.s, e) := rfl
  unfold walk
  rw [run_bind _ _ _ _ _ g, i3]
  simp only [ha, hd.1, hd.2.1, Bool.not_true, Bool.or_false, Bool.false_eq_true, if_false, Nat.mul_zero, Nat.add_zero]
  rw [run_bind _ _ _ _ _ (readStruct_clean a va _ _ e he), h1]
  have w1 : word64At (natLe 8 0x2001) 0 = 0x2001 := by decide
  have b1 : (!bitAt (0x2001 : Word64) 0 || fld (0x2001 : Word64) 11 6 != 0) = false := by decide
  have b2 : bitAt (0x2001 : Word64) 1 = false := by decide
  have b3 : (fld (0x2001 : Word64) 5 4 != 0 || fld (0x2001 : Word64) 63 44 != 0) = false := by decide
  have b4 : fld (0x2001 : Word64) 43 12 * 4096 = 0x2000 := by decide
  simp only [w1, b1, b2, b3, b4, Bool.false_eq_true, if_false]
  unfold walk
  rw [run_bind _ _ _ _ _ g, i2]
  simp only [ha, hd.2.2.1, hd.2.2.2, Bool.not_true, Bool.or_false, Bool.false_eq_true, if_false, Nat.mul_zero, Nat.add_zero]
  rw [run_bind _ _ _ _ _ (readStruct_clean a va _ _ e he), h2]
  have w2 : word64At (natLe 8 7) 0 = 7 := by decide
  have d1 : (!bitAt (7 : Word64) 0 || fld (7 : Word64) 11 6 != 0) = false := by decide
  have d2 : bitAt (7 : Word64) 1 = true := by decide
  have d3 : ((fld (7 : Word64) 5 4 = 3 || fld (7 : Word64) 5 4 ≠ 2 && fld (7 : Word64) 53 44 != 0) ||
    fld (7 : Word64) 5 4 = 0 && fld (7 : Word64) 63 54 != 0) = false := by decide
  have d4 : fld (7 : Word64) 63 12 * 4096 % 2 ^ (12 + 9 * (1 + 1)) = 0 := by decide
  simp only [w2, d1, d2, Bool.false_eq_true, if_false, if_true, OfNat.one_ne_ofNat, walk.leaf, d3, d4, ne_eq, not_true_eq_false]
  rfl

/-- An address of gibibyte 0 leads to the device address of the same number. -/
theorem translate_low (a : Acc) (w : Bool) (va : Nat) (s : State) (ha : a.f = 0) (he : s.ecc = []) (hb : s.bind 0 = base.bind 0)
    (hp : s.partOf 0 = 0)
    (hd : s.inDram 0 0x1000 = true ∧ s.inRacePool 0x1000 = false ∧ s.inDram 0 0x2000 = true ∧ s.inRacePool 0x2000 = false)
    (h1 : s.mem.readN 0x1000 8 = natLe 8 0x2001) (h2 : s.mem.readN 0x2000 8 = natLe 8 7) (hv : va < 2 ^ 30)
    (hr : s.reaches 0 va = true ∧ s.inRacePool va = false ∧ s.poolSlot 0 va = none) :
    ∃ e, (Machine.translate a w va).exec s = (.ok (.dev va, false), e) := by
  have hx : (Machine.translate a w va).run.run { s := s } = (.ok (.dev va, false), { s := s }) := by
    have g : getS.run.run ({ s := s } : Eng) = (.ok s, { s := s }) := rfl
    have r1 : (base.bind 0).rootValid = true := rfl
    have r2 : (base.bind 0).root.toNat * 4096 = 0x1000 := by decide
    unfold Machine.translate
    rw [run_bind _ _ _ _ _ (mmuBuf_clean a _ he), run_bind _ _ _ _ _ g]
    simp only [ha, hb, r1, r2, Bool.not_true, Bool.false_eq_true, if_false]
    rw [run_bind _ _ _ _ _ (walk_low a va _ he (by rw [ha]; exact hp) hd h1 h2 hv)]
    have c1 : fld (7 : Word64) 5 4 = 0 := by decide
    have c2 : bitAt (7 : Word64) 2 = true := by decide
    have c3 : fld (7 : Word64) 43 12 * 4096 = 0 := by decide
    have c4 : bitAt (7 : Word64) 3 = false := by decide
    have m : va % 2 ^ 30 = va := Nat.mod_eq_of_lt hv
    simp only [c1, c2, c3, c4, m]
    rw [run_bind _ _ _ _ _ g]
    simp only [hp, hr.1, hr.2.1, hr.2.2, Nat.zero_add, Bool.not_true, Bool.and_false, Bool.or_false, Bool.false_eq_true, if_false]
    rfl
  exact ⟨_, by unfold Run.exec; rw [hx]⟩

/-- Does gibibyte 0 of PF0 lead to device memory from 0 for `n` bytes from `va`, and is no stored error there? -/
def lowMap (s : State) (va n : Nat) : Bool :=
  decide (s.ecc = []) && decide (s.bind 0 = base.bind 0) && s.partOf 0 == 0 && s.inDram 0 0x1000 && !s.inRacePool 0x1000 &&
  s.inDram 0 0x2000 && !s.inRacePool 0x2000 && decide (s.mem.readN 0x1000 8 = natLe 8 0x2001) &&
  decide (s.mem.readN 0x2000 8 = natLe 8 7) && (List.range n).all (fun i =>
    decide (va + i < 2 ^ 30) && s.reaches 0 (va + i) && !s.inRacePool (va + i) && decide (s.poolSlot 0 (va + i) = none))

theorem reaches_low {s : State} {va n : Nat} (h : lowMap s va n = true) (a : Acc) (ha : a.f = 0) (w : Bool) : s.Reaches a w va n va := by
  simp only [lowMap, Bool.and_eq_true, decide_eq_true_eq, Bool.not_eq_true', beq_iff_eq, List.all_eq_true, List.mem_range] at h
  obtain ⟨⟨⟨⟨⟨⟨⟨⟨⟨he, hb⟩, hp⟩, d1⟩, d2⟩, d3⟩, d4⟩, m1⟩, m2⟩, hn⟩ := h
  intro i hi
  obtain ⟨⟨⟨hv, r1⟩, r2⟩, r3⟩ := hn i hi
  obtain ⟨e, h⟩ := translate_low a w (va + i) s ha he hb hp ⟨d1, d2, d3, d4⟩ m1 m2 hv ⟨r1, r2, r3⟩
  exact ⟨false, e, by rw [Nat.mod_eq_of_lt (by omega)]; exact h⟩

theorem reachesApart_low {s : State} {va n : Nat} (h : lowMap s va n = true) (a : Acc) (ha : a.f = 0) (w : Bool)
    {runs : List (Nat × Nat)} (hr : ∀ x ∈ runs, 0x2008 ≤ x.1) : s.ReachesApart runs a w va n va := by
  intro mem hm
  refine reaches_low ?_ a ha w
  have e1 : mem.readN 0x1000 8 = s.mem.readN 0x1000 8 :=
    by simp only [Memory.readN_eq]; exact List.map_congr_left fun i hi => hm _ fun x hx => .inl (by have := hr x hx; have := List.mem_range.1 hi; omega)
  have e2 : mem.readN 0x2000 8 = s.mem.readN 0x2000 8 :=
    by simp only [Memory.readN_eq]; exact List.map_congr_left fun i hi => hm _ fun x hx => .inl (by have := hr x hx; have := List.mem_range.1 hi; omega)
  have k : lowMap { s with mem := mem } va n = lowMap s va n := by
    unfold lowMap
    show (_ && decide (mem.readN 0x1000 8 = _) && decide (mem.readN 0x2000 8 = _) && _) = _
    rw [e1, e2]; rfl
  rw [k]; exact h

/-! ## Well-formedness: one ill-formed term for each check -/

theorem test_wf_accepts : (Instr.sqEnable 0 0 0x8004_0000).wf = true ∧ (Instr.vfEnableWrite true 65535).wf = true ∧
    (Instr.registerWrite 0 .bar0 0x10020 32 0).wf = true ∧ (Instr.memwinRead 0xFFFF_FFFF 1).wf = true := by decide
theorem test_wf_sqEnable : (Instr.sqEnable 0 0 0x0004_0000).wf = false := by decide
theorem test_wf_sqDisable : (Instr.sqDisable 0 0 0x8004_0000).wf = false := by decide
theorem test_wf_cqEnable : (Instr.cqEnable 0 0 0x0004_0000).wf = false := by decide
theorem test_wf_cqDisable : (Instr.cqDisable 0 0 0x8004_0000).wf = false := by decide
theorem test_wf_partitionCommit : (Instr.partitionCommit 0 0xC000_0000).wf = false := by decide
theorem test_wf_partitionRelease : (Instr.partitionRelease 0 0x8000_0000).wf = false := by decide
theorem test_wf_tenantKill : (Instr.tenantKill 1 0x8000_0000).wf = false := by decide
theorem test_wf_setupLock : (Instr.setupLockWrite 0).wf = false := by decide
theorem test_wf_fwProgram : (Instr.fwProgram 0x1000).wf = false := by decide
theorem test_wf_weirCrossed : (Instr.weirCrossedClear (.sq 0 0) 0x2000_0000).wf = false := by decide
theorem test_wf_weirCount : (Instr.weirCountClear (.sq 0 0) 0x4000_0000).wf = false := by decide
theorem test_wf_markerLanes : (Instr.markerReceive 0 [none] 0).wf = false := by decide
theorem test_wf_markerBytes : (Instr.markerReceive 0 (some (0, [0]) :: List.replicate 7 none) 0).wf = false := by decide
theorem test_wf_flit : (Instr.flitReceive 0 0 1 0 (some [0])).wf = false := by decide
theorem test_wf_memwinRead : (Instr.memwinRead 0xFFFF_FFFF 2).wf = false := by decide
theorem test_wf_memwinWrite : (Instr.memwinWrite 0xFFFF_FFFF [0, 0]).wf = false := by decide
theorem test_wf_registerWidth : (Instr.registerWrite 0 .bar0 0x10020 16 0).wf = false := by decide
theorem test_wf_registerAligned : (Instr.registerWrite 0 .bar0 0x10022 32 0).wf = false := by decide
theorem test_wf_msixControl : (Instr.registerWrite 0 .msixControl 0 64 0).wf = false := by decide
theorem test_wf_deviceControl : (Instr.registerWrite 0 .deviceControl 0 64 0).wf = false := by decide
theorem test_wf_aerStatus : (Instr.registerWrite 0 .aerStatus 0 16 0).wf = false := by decide
theorem test_wf_uartLog : (Instr.uartLog [0x4C, 0x0A]).wf = false := by decide
theorem test_wf_numVfs : (Instr.vfEnableWrite true 65536).wf = false := by decide

/-! ## Steps and reset -/

theorem test_step_front : step { up with pending := [.perstRelease, .tapReset] } = exec .perstRelease { up with pending := [.tapReset] } :=
  rfl
theorem test_word_spells_nothing : decodeTableWord 32 0 = none ∧ State.reset.withFetchWord 32 0 = State.reset := ⟨rfl, rfl⟩

/-- `StepTakesTheFrontCommand`, `StepKeepsMemoriesCanonical`, `StepKeepsSettingsLegal`. -/
theorem test_witness_steps : State.reset.pending = [] ∧ base.MemoriesCanonical ∧ base.SettingsLegal ∧
    step { base with pending := [.perstRelease] } = .next { base with perst := true } :=
  ⟨rfl, ⟨by decide, by decide⟩, ⟨by decide, by decide, by decide, by decide, by decide, by decide, by decide, by decide⟩, rfl⟩

/-- `LockHoldsUntilModuleReset`, `LockedIdentityIsFixed`. -/
theorem test_witness_locked : ({ up with locked := true } : State).locked = true ∧
    (after .pf0FunctionLevelReset { up with locked := true }).locked = true ∧
    Instr.pf0FunctionLevelReset ∉ [Instr.resetInAssert, .millerWatchdog, .pllUnlock, .thermalTrip, .powerFail, .inputRemoved] := by
  decide +kernel

/-- `VfWritesLeaveSetup`: VF 1 writes the offset of MODULE_CFG. -/
theorem test_witness_vf_write : (1 : FnId) ≠ 0 ∧ (after (.registerWrite 1 .bar0 0x10020 32 0x4000_0001) up).moduleId = 0 := by decide

/-- `RingCommandsKeepSteady`, `StoneAndLinkEventsKeepSteady`. -/
theorem test_witness_steady : Instr.nop 0 0 ∈ [Instr.nop 0 0, .runPlan 0 0] ∧ exec (.nop 0 0) up = .next up ∧
    exec .millerScan State.reset = .next State.reset := ⟨by decide, rfl, rfl⟩
/-! ## Pins and management ports -/

/-- `TapInstructionsComplete`, both branches of the lock. -/
theorem test_witness_tap : up.tapUp = true ∧ up.locked = false ∧ ({ up with locked := true } : State).tapUp = true := by decide

/-- A record of the fault log. -/
def rec1 : LogRec := { seq := 1, kind := kindPower }

/-- `SmbusCommandsComplete`, `ConsoleCommandsComplete`: a record selected, the cursor at its end, no record, ALERT# low. -/
theorem test_witness_ports : let s : State := { up with flash := { up.flash with log := [rec1] }, smbSeq := 1, alert := true }
    s.millerUp = true ∧ s.record s.smbSeq = some rec1 ∧ s.smbCursor < 4096 ∧ s.alert = true ∧
    4096 ≤ ({ s with smbCursor := 4096 } : State).smbCursor ∧ up.record up.smbSeq = none ∧
    s.flash.log.find? (fun y => y.seq.toNat == 1) = some rec1 ∧ ∀ y ∈ s.flash.log, y.seq.toNat ≠ 2 := by decide

/-- SMBus addresses (R424): 0x58 + 2 × SMB_ADDR1 + SMB_ADDR0, sent with the direction bit 0. -/
theorem test_smb_address :
    (after (.smbAlertResponse true false) { up with alert := true, straps := 2 }).smbOut = [0xB4] := by decide

/-- The example of R430 to R432, steps 1 to 4: GPIO0 belongs to DEBUG_TRIG; TSYNC_FB is refused, GPIO0 released, DEBUG_TRIG moved
to GPIO1, TSYNC_FB taken. -/
def gpio0 : State := after (.gpioAssignWrite 0 8 true) up
theorem test_gpio_example_1 : (gpio0.pin 0).debug = true ∧ (after (.gpioAssignWrite 0 4 true) gpio0).wrej = true ∧
    ((after (.gpioAssignWrite 0 4 true) gpio0).pin 0) = gpio0.pin 0 := by decide
theorem test_gpio_example_2 :
    let s := after (.gpioAssignWrite 0 4 true) (after (.gpioAssignWrite 1 8 true) (after (.gpioAssignWrite 0 0 true) gpio0))
    (s.pin 0).tsync = true ∧ (s.pin 0).debug = false ∧ (s.pin 1).debug = true ∧ s.wrej = false := by decide

/-- `GpioClaimsFollowTheirRules`: two claimants at once, TSYNC_FB of pin 1, DEBUG_TRIG of pin 2, DEBUG_TRIG held by another pin, a
pulse that runs. -/
theorem test_gpio_rejects : (after (.gpioAssignWrite 0 3 true) up).wrej = true ∧ (after (.gpioAssignWrite 1 4 true) up).wrej = true ∧
    (after (.gpioAssignWrite 2 8 true) up).wrej = true ∧ (after (.gpioAssignWrite 1 8 true) gpio0).wrej = true ∧
    (after (.gpioAssignWrite 1 0x102 true) up).wrej = false ∧ (gpio0.debugPulse.pin 0).pulse = true := by decide

/-! ## Power, resets, start-up -/

/-- The example of R439: 42 V, 90.48 A, then 85.27 A, then 80.06 A: SKIP 0, 8, 16, 15; and 82.66 A holds. -/
def skipAfter (skip : Nat) (w ma : Nat) : Nat :=
  (after (.capPeriod w ma 42000 60000 false) { up with pwr := { up.pwr with skip := BitVec.ofNat 6 skip } }).pwr.skip.toNat
theorem test_cap_example : skipAfter 0 3800 90480 = 8 ∧ skipAfter 8 3581 85270 = 16 ∧ skipAfter 16 3362 80060 = 15 ∧
    skipAfter 13 3444 82010 = 12 ∧ skipAfter 12 3472 82660 = 12 := by decide

/-- `PowerControllerPeriod`: SKIP at both ends of its range, and just inside the limits. -/
theorem test_cap_ends : up.power = .run ∧ skipAfter 48 3800 90000 = 48 ∧ skipAfter 0 100 1000 = 0 ∧ skipAfter 5 3801 79000 = 6 ∧
    skipAfter 5 3800 85000 = 5 := by decide

/-- `ModuleResetsReturnToReset`: each source with its precondition. -/
theorem test_witness_resets : up.resetIn = true ∧ up.millerUp = true ∧ State.reset.millerUp = false ∧ up.power = .run ∧
    ({ State.reset with holdup := true } : State).holdup = true := by decide
theorem test_reset_in : (after .resetInAssert { up with locked := true, alert := true }).locked = false ∧
    (after .resetInAssert up).power = .standby ∧ (after .resetInAssert up).resetIn = false := by decide
theorem test_power_fail : (after .powerFail up).power = .off ∧ (after .powerFail up).holdup = true := by decide

/-- `StartUpReachesConfigurationReady`: the way from reset (R446), and an unconfirmed image. -/
theorem test_start_up : State.reset.flash.choose = some (false, false) ∧ State.reset.power = .standby ∧
    State.reset.tripped = false ∧ State.reset.holdup = false ∧ (after .pllLock { State.reset with power := .start }).power = .run ∧
    (after (.trainingEnd 0 0) { up with trained := false }).trained = true ∧
    (after (.configurationReady 0 true) { up with cfgReady := false }).cfgReady = true := by decide

/-- `PortAndFunctionResets`. -/
theorem test_function_resets : up.resetIn = true ∧ up.perst = true ∧ State.reset.resetIn = false ∧ (1 : FnId) ≠ 0 ∧
    up.vfEnable = false ∧ (after (.vfEnableWrite true 300) up).numVfs = 255 ∧
    ((after (.d3hotEntry 1) up).fn 1).d3hot = true ∧ ((after (.functionLevelReset 1) up).fn 1).resetting = true := by
  decide +kernel
theorem test_flr_end : let s := after (.functionLevelReset 1) up
    (s.fn 1).resetting = true ∧ ((after (.flrEnd 1) s).fn 1).resetting = false ∧
    (after (.vfEnableWrite false 0) { up with vfEnable := true, numVfs := 3 }).vfEnable = false := by decide +kernel
/-! ## Rings -/

/-- `base` with completion ring 0 of PF0 running, 16 entries. -/
def cqUp : State := after (.cqEnable 0 0 0x1_8004_0100) base

/-- `SubmissionRingControl`: both ends of LOG2_SIZE, and one past each. -/
theorem test_sq_enable : (cqUp.cq 0 0).enable = true ∧ cqUp.tenant 0 = true ∧ (cqUp.fn 0).resetting = false ∧
    ((after (.sqEnable 0 0 0x8004_0000) cqUp).sq 0 0).state = .running ∧
    ((after (.sqEnable 0 0 0x800F_0000) cqUp).sq 0 0).state = .running ∧
    ((after (.sqEnable 0 0 0x8003_0000) cqUp).fn 0).wrej = true ∧ ((after (.sqEnable 0 0 0x8010_0000) cqUp).fn 0).wrej = true ∧
    ((after (.sqEnable 0 0 0x8004_0001) cqUp).fn 0).wrej = true := by decide +kernel

/-- Ring 0 running with nothing to do, and halted. -/
def sqUp : State := after (.sqEnable 0 0 0x8004_0000) cqUp
def sqHalted : State := sqUp.setSq 0 0 { sqUp.sq 0 0 with state := .halted }
theorem test_sq_stops : ((after (.sqDisable 0 0 0x0004_0000) sqUp).sq 0 0).state = .disabled ∧
    ((after (.sqResume 0 0) sqHalted).sq 0 0).state = .running ∧ ((after (.sqResume 0 0) sqUp).fn 0).wrej = true ∧
    ((after (.sqAbort 0 0 true) sqUp).sq 0 0).state = .disabled ∧
    ((after (.sqAbort 0 0 false) (onRing (cmd 0 0 []))).sq 0 0).running.map (fun k => k.done.map (·.1)) = some (some .aborted) := by
  decide +kernel

/-- `CompletionRingControl`: a ring that no submission ring names, one that is named, REARM at TAIL with moderation FIRED and
PENDING. -/
def cqFired : State := cqUp.setCq 0 0 { cqUp.cq 0 0 with mod := .fired, tail := 2 }
theorem test_cq : ((after (.cqDisable 0 0 0x0004_0100) cqUp).cq 0 0).state = .disabled ∧
    ((after (.cqDisable 0 0 0x0004_0100) sqUp).fn 0).wrej = true ∧ ((after (.cqRearm 0 0 2) cqFired).cq 0 0).mod = .armed ∧
    ((after (.cqRearm 0 0 0) cqFired).cq 0 0).mod = .fired ∧
    ((after (.moderationTimer 0 0) (cqUp.setCq 0 0 { cqUp.cq 0 0 with mod := .pending })).cq 0 0).mod = .fired := by
  decide +kernel

/-- The example of 13_host_rings.md: HEAD 0x04FE and TAIL 0x0502 post four entries, and a doorbell past the ring sets DB_ERR
(R346). -/
def sqExample : State := sqUp.setSq 0 0 { sqUp.sq 0 0 with head := 0x4FE, tail := 0x4FE, log2 := 8 }
theorem test_doorbell : ((after (.doorbellSqTail 0 0 0x502) sqExample).sq 0 0).posted = 4 ∧
    ((after (.doorbellSqTail 0 0 0x5FE) sqExample).sq 0 0).tail = 0x5FE ∧
    ((after (.doorbellSqTail 0 0 0x5FF) sqExample).sq 0 0).dbErr = true := by decide +kernel
theorem test_doorbell_cq : ((after (.doorbellCqHead 0 0 2) cqFired).cq 0 0).head = 2 ∧
    ((after (.doorbellCqHead 0 0 3) cqFired).cq 0 0).dbErr = true ∧ (up.sq 0 0).state = .disabled := by decide +kernel

/-- The completion entries of that example: index 0x013E has PHASE 1, 0x0140 PHASE 0, in a ring of 64 entries (R352). -/
theorem test_phase : (entryBytes { tail := 0x13E, log2 := 6 } 2 {} .ok 0 false).getD 9 0 = 1 ∧
    (entryBytes { tail := 0x140, log2 := 6 } 2 {} .ok 0 false).getD 9 0 = 0 := by decide

/-! ## Weir marks, messages, the memory window -/

/-- A mark with HIGH 8 and LOW 4: LIVE at 8, still at 4, off at 3 (R190). -/
theorem test_weir : let w : Weir := { high := 8, low := 4 }
    (w.step 7).1.live = false ∧ (w.step 8).1.crossed = true ∧ ((w.step 8).1.step 4).1.live = true ∧
    ((w.step 8).1.step 3).1.live = false := by decide

/-- `WeirMarksFollowTheirRules`: LOW equal to HIGH is taken, LOW above HIGH ignored; a level of every kind. -/
theorem test_weir_writes : ((after (.weirLevelWrite (.sq 0 0) 0x0008_0008) sqUp).sq 0 0).weir.high = 8 ∧
    after (.weirLevelWrite (.sq 0 0) 0x0007_0008) sqUp = sqUp ∧ ((after (.weirFallingWrite (.media 0) 0x1000_0000) up).house 0).mediaWeir.live = true ∧
    sqUp.level (.sq 0 0) = some 0 ∧ sqUp.level (.sq 0 1) = none ∧ base.level (.latentPool 0) = some 4 ∧
    weirOwner (.sq 3 0) = 3 := by decide +kernel

/-- `UnmaskSendsPendingMessage`, with and without a message. -/
def held : State := base.setFn 0 { base.fn 0 with msixEn := true, pending := 1 }
theorem test_unmask : (after (.msixUnmask 0 0) held).msgs = [{}] ∧ (after (.msixUnmask 0 1) held).msgs = [] := by decide +kernel

/-- `MemoryWindowReadsAndWrites`: the last byte of a block, reached and not reached. -/
theorem test_window : base.windowReaches 0xFFF = true ∧ base.windowReaches 0x90_0000_0000 = false ∧
    (after (.memwinWrite 0x3FFF [7]) base).mem.read 0x3FFF = 7 ∧ (after (.memwinRead 0x1000 2) base).winOut = [0x01, 0x20] ∧
    base.ecc = [] := by decide +kernel

/-! ## Setup registers, firmware -/

/-- `SetupRegisterRows`: FAULT_WINDOW at both ends and one past each. -/
theorem test_fault_cfg : (after (.faultThresholdWrite 0x1408) up).faultWin = 20 ∧ (after (.faultThresholdWrite 0x2808) up).faultWin = 40 ∧
    (after (.faultThresholdWrite 0x1308) up).wrej = true ∧ (after (.faultThresholdWrite 0x2908) up).wrej = true ∧
    (after (.combineTimeoutWrite 1 []) up).combineUs = 1 ∧ (after (.combineTimeoutWrite 0 []) up).rejOffset = 0x1002C := by
  decide +kernel
theorem test_log_copy : (after (.logSelectWrite 1) up).logBusy = true ∧
    (after .logCopyDone { up with logBusy := true }).logReady = true := by decide +kernel

/-- `LockedAndIllegalWritesAreRejected`: each clause, at ends of its range. -/
def locked : State := { up with locked := true }
theorem test_setup_ranges : (after (.registerWrite 0 .bar0 0x10020 32 (0x4000_0000 + 1022)) up).moduleId = 1022 ∧
    (after (.registerWrite 0 .bar0 0x10020 32 1) locked).rejOffset = 0x10020 ∧
    (after (.registerWrite 0 .bar0 0x10024 32 1) locked).wrej = true ∧
    (after (.registerWrite 0 .bar0 0x10200 32 0x300) locked).wrej = true ∧
    (after (.registerWrite 0 .bar0 0x10030 64 (40 * 2 ^ 16 + 500)) up).pwr.capW = 500 ∧
    (after (.registerWrite 0 .bar0 0x10030 64 (39 * 2 ^ 16 + 500)) up).wrej = true ∧
    (after (.registerWrite 0 .bar0 0x10030 64 (85 * 2 ^ 16 + 3801)) up).wrej = true := by decide +kernel
theorem test_setup_sizes : (regAt 0x10020).map (·.2) = some 32 ∧ regAt 0x1001C = none ∧
    (after (.registerWrite 0 .bar0 0x10020 64 0) up).wrej = true ∧ (up.fn 0).pending = 0 := by decide +kernel

/-- `FirmwareProgramming`: an image outside DRAM of an ACTIVE partition fails for cause 4, a wrong header for cause 1. -/
def programming : State := after (.fwProgram 0x8000_0000_0000_0000) up
theorem test_firmware : programming.fw.program = true ∧ up.fw.program = false ∧ (after (.fwProgram 0) up).fw.program = false ∧
    programming.imageCause true = 4 ∧ base.imageCause true = 1 := by decide +kernel

/-! ## Partitions, tenants, stones -/

/-- `PartitionLifeCycle`: each state and its event. -/
def inState (st : PState) : State := up.setPart 0 { up.part 0 with state := st }
theorem test_partitions : up.commitOk 0 = true ∧
    ((after (.partitionCommit 0 0x8010_0001) up).part 0).state = .zeroing ∧
    (after (.partitionCommit 0 0x8010_0001) (inState .active)).wrej = true ∧
    ((after (.partitionRelease 0 0x4010_0001) (inState .active)).part 0).state = .releasing ∧
    (after (.partitionRelease 0 0x4010_0001) up).wrej = true := by decide +kernel
theorem test_partition_ends : ((after (.releaseDone 0) (inState .releasing)).part 0).state = .unassigned ∧
    (inState .zeroing).trained = true ∧ after (.zeroingDone 0) up = up := by decide +kernel

/-- `TenantKillResetsTheFunction`: VF 1, bound, not yet and already killed. -/
def vf1 : State := (up.setBind 1 { valid := true, gristMax := 4 })
theorem test_kill : ((after (.tenantKill 1 0x8000_4001) vf1).fn 1).resetting = true ∧
    ((after (.tenantKill 1 0x8000_4001) vf1).bind 1).kill = true ∧
    (after (.tenantKill 1 0x8000_4001) (vf1.setBind 1 { vf1.bind 1 with kill := true })).fns = [] := by decide +kernel

/-- `StoneOperatorActions`: stone 24 is the spare of house 0. -/
def testing : State := up.setStone 24 { state := .testing }
theorem test_stones : (up.stone 24).state = .spare ∧ (up.stone 0).state = .active ∧
    ((after (.stoneRetire 24) up).stone 24).state = .retired ∧ (after (.stoneTest 24) up).wrej = true ∧
    ((after (.stoneTest 0) (up.setStone 0 { state := .retired })).stone 0).state = .testing ∧
    (after (.stoneTest 0) { up.setStone 0 { state := .retired } with stBusy := 1 }).wrej = true := by decide +kernel
theorem test_stone_test_ends : ((after (.stoneTestDone 24 true) testing).stone 24).state = .spare ∧
    ((after (.stoneTestDone 24 false) testing).stone 24).state = .retired := by decide +kernel

/-- The example of 15_faults.md: logical stone 55 runs on physical stone 57, and 74 is the spare of house 2. -/
theorem test_stone_map : up.physOf 55 = some 57 ∧ (up.stone 74).state = .spare ∧
    ((after (.stoneDeadDeclared 57) up).physOf 55) = some 74 := by decide +kernel

/-- `HealthEventsFollowTheStoneMap`. -/
theorem test_health : ((after (.heartbeat 0) (up.setStone 0 { state := .suspect })).stone 0).heard = true ∧
    ((after (.checkerRotate 0) up).stone 0).checkK = 1 ∧ (after .faultWindowBoundary { up with faultWin := 20 }).faultWinOn = 20 ∧
    ((after .millerScan (up.setStone 0 { state := .suspect, heard := true })).stone 0).state = .quarantined ∧
    (after .logRecordProgrammed { up with logQueue := [rec1] }).flash.log.length = 1 := by decide +kernel
/-! ## Ring commands -/

/-- `FetchTakesTheDescriptorAtHead`: a NOP of zeros at HEAD; an unmapped ring. -/
def posted : State := sqUp.setSq 0 0 { sqUp.sq 0 0 with tail := 1, base := 4 }
theorem test_fetch : posted.canFetch 0 0 = true ∧ sqUp.canFetch 0 0 = false ∧ ran ((readWords (ringAcc 0 0) 0x4000 8).exec posted) = true ∧
    ((after (.descriptorFetch 0 0) posted).sq 0 0).head = 1 ∧ ((after (.descriptorFetch 0 0) posted).running 0 0).isSome = true := by
  decide +kernel
theorem test_fetch_fault : let s := posted.setBind 0 { posted.bind 0 with rootValid := false }
    s.canFetch 0 0 = true ∧ ran ((readWords (ringAcc 0 0) 0x4000 8).exec s) = false ∧
    ((after (.descriptorFetch 0 0) s).running 0 0).map (fun k => (k.done.map (·.1), k.forceHalt)) = some (some .access, true) := by
  decide +kernel

/-- `CompletionEntryIsWritten`: an entry that is written, a full ring, a ring whose page is not mapped, a DISABLED ring. -/
def ended : State := (on cqUp { cmd 0 0 [] with done := some (.ok, 0) })
def endedAt (k : CompRing) : State := ended.setCq 0 0 k
theorem test_entry : (ended.cq 0 0).state = .running ∧ ((after (.completionEntryWrite 0 0) ended).cq 0 0).tail = 1 ∧
    ((after (.completionEntryWrite 0 0) ended).running 0 0) = none ∧
    after (.completionEntryWrite 0 0) (endedAt { ended.cq 0 0 with tail := 16 }) = endedAt { ended.cq 0 0 with tail := 16 } ∧
    (after (.completionEntryWrite 0 0) (endedAt {})).running 0 0 = none := by decide +kernel
theorem test_entry_lost : ((after (.completionEntryWrite 0 0) (ended.setBind 0 { ended.bind 0 with rootValid := false })).cq 0 0).lost =
    true := by decide +kernel

/-- `HostReadTimeoutEndsTheCommand`. -/
theorem test_read_timeout : ((after (.completionTimeout 0 0 0x4000_0000) (onRing (cmd 9 0 [0, 0x4000_0000]))).running 0 0).map (fun k => k.done.map (·.1)) =
    some (some .dataError) ∧ base.leads (ringAcc 0 0) false 0x4000_0000 = some (.host 0) ∧
    after (.completionTimeout 0 0 0x1000) (onRing (cmd 0 0 [])) = onRing (cmd 0 0 []) ∧ base.running 0 0 = none := by decide +kernel

/-- `NopAndFenceComplete`: FENCE on no ring, on ring 1, which runs a command; a FENCE that waits. -/
def fenced : State := (onRing (cmd 0x0A 0x0002_0000 [])).setSq 0 1 { state := .running, running := some { seq := 9 } }
theorem test_nop_fence : (onRing (cmd 0 0 [])).fresh 0 0 .nop = some (cmd 0 0 []) ∧
    ((after (.fence 0 0) (onRing (cmd 0x0A 0 []))).running 0 0).map (·.done) = some (some (.ok, 0)) ∧
    ((after (.fence 0 0) fenced).running 0 0).map (·.wait) = some (.fence [(1, 9)]) ∧
    ((after (.fenceTimeout 0 0) (after (.fence 0 0) fenced)).running 0 0).map (·.done) = some (some (.timeout, 0)) := by
  decide +kernel

/-- `WaitEndsOnceItsConditionHolds`: the word is 5; a WAIT for at least 5 ends, one for 6 waits. -/
def withWord : State := { base with mem := base.mem ++ [(0x8000, 5)] }
def waitFor (n : Nat) : Running := cmd 9 0 [0, 0x8000, BitVec.ofNat 64 n]
theorem test_wait : (on withWord (waitFor 5)).fresh 0 0 .wait = some (waitFor 5) ∧
    ((after (.wait 0 0) (on withWord (waitFor 5))).running 0 0).map (·.done) = some (some (.ok, 5)) ∧
    ((after (.wait 0 0) (on withWord (waitFor 6))).running 0 0).map (·.wait) = some (.word 5) ∧
    ((after (.waitPoll 0 0) (on withWord { waitFor 5 with wait := .word 0 })).running 0 0).map (·.done) = some (some (.ok, 5)) ∧
    ((after (.waitTimeout 0 0) (on withWord { waitFor 6 with wait := .word 5 })).running 0 0).map (·.done) = some (some (.timeout, 5)) := by
  decide +kernel

/-- `SignalStoresItsWordAndNothingElse`: SIGNAL adds 3 to the word 5. -/
def adding : Running := cmd 8 1 [0, 0x8000, 3]
theorem test_signal : (on withWord adding).fresh 0 0 .signal = some adding ∧ (on withWord adding).ecc = [] ∧
    ((wordAtPhys 0 0 0x8000 true).exec (on withWord adding)).1 = .ok (.dev 0x8000) ∧
    ((wordAtPhys 0 0 0x8000 false).exec (on withWord adding)).1 = .ok (.dev 0x8000) ∧
    (after (.signal 0 0) (on withWord adding)).mem.read 0x8000 = 8 := by decide +kernel
theorem test_signal_no_waits (f r : Nat) : (on withWord adding).waiting f r = none := by
  have h : ∀ f r, ((on withWord adding).running f r).map (·.wait) = some .none ∨ (on withWord adding).running f r = none := by
    intro f r
    rcases f with _ | f
    · rcases r with _ | r
      · exact .inl (by decide)
      · exact .inr rfl
    · exact .inr rfl
  unfold State.waiting
  rcases h f r with h | h
  · cases hk : (on withWord adding).running f r with
    | none => rfl
    | some c => rw [hk] at h; simp only [Option.map_some, Option.some.injEq] at h; simp [h]
  · rw [h]

/-- `PawlsFollowTheirRules`: a free pawl, one held by this ring, one held by another with TIMEOUT and without, one outside the
carve; PAWL_GIVE with and without a queue; a queued taker's time-out. -/
def taking (s : State) (n t : Nat) : State := on s (cmd 0x0C n [0, BitVec.ofNat 64 t])
def giving (s : State) : State := on s (cmd 0x0D 7 [])
def pawl7 (x : Pawl) : State := base.setPawl 7 x
def statusOf (s : State) : Option Status := (s.running 0 0).bind (fun k => k.done.map (·.1))
theorem test_pawl_take : statusOf (after (.pawlTake 0 0) (taking base 1023 0)) = some .ok ∧
    inCarve (base.pawlCarve 0) 1023 = true ∧ inCarve (base.pawlCarve 0) 1024 = false ∧
    statusOf (after (.pawlTake 0 0) (taking (pawl7 { holder := some (.ring 0 0) }) 7 0)) = some .state ∧
    statusOf (after (.pawlTake 0 0) (taking (pawl7 { holder := some (.ring 0 1) }) 7 0)) = some .timeout ∧
    ((after (.pawlTake 0 0) (taking (pawl7 { holder := some (.ring 0 1) }) 7 1)).pawl 7).queue = [.ring 0 0] ∧
    statusOf (after (.pawlTake 0 0) (taking (pawl7 { broken := true }) 7 0)) = some .broken := by decide +kernel
theorem test_pawl_give : statusOf (after (.pawlGive 0 0) (giving base)) = some .state ∧
    ((after (.pawlGive 0 0) (giving (pawl7 { holder := some (.ring 0 0) }))).pawl 7).holder = none ∧
    ((after (.pawlGive 0 0) (giving (pawl7 { holder := some (.ring 0 0), queue := [.ring 0 1] }))).pawl 7).holder = some (.ring 0 1) ∧
    statusOf (after (.pawlTakeTimeout 0 0) (on base { cmd 0x0C 7 [0, 5] with wait := .pawl 7 })) = some .timeout := by decide +kernel
theorem test_pawl_outside_carve : let s := { base with parts := [(0, { base.part 0 with pawlCount := 7 })] }
    statusOf (after (.pawlTake 0 0) (taking s 7 0)) = some .access ∧ statusOf (after (.pawlGive 0 0) (giving s)) = some .access := by
  decide +kernel

/-- `TimestampAndQueryReport`: QUERY of the link record, and the checks of R385. -/
def querying (f item arg : Nat) : Except Status (List Byte) := base.queryBody f item arg
theorem test_query : (base.queryBody 0 6 0).toOption.map (·.length) = some 96 ∧ querying 0 0 0 = .error .malformed ∧
    querying 0 8 0 = .error .malformed ∧ querying 0 1 1 = .error .malformed ∧ querying 1 6 0 = .error .access ∧
    querying 1 7 99 = .error .access ∧ querying 1 7 100 = .error .malformed ∧
    (onRing (cmd 0x38 0 [])).fresh 0 0 .timestamp = some (cmd 0x38 0 []) := by decide +kernel

/-- `CopyAndFillMoveTheirElements`: two bytes, INT8, from 0x5000 to 0x6000; a copy that must be staged; FILL with 9. The shape
records lie at 0x4000 (strides 1 and 1), 0x4100 (−1 and 1) and 0x4200 (none and 1). -/
def shapes : State := { base with mem := base.mem ++
  [(0x4000, 2), (0x4004, 1), (0x4008, 1), (0x400C, 1), (0x4010, 1), (0x4030, 1), (0x4100, 2), (0x4104, 1), (0x4108, 1), (0x410C, 1),
   (0x4110, 0xFF), (0x4111, 0xFF), (0x4112, 0xFF), (0x4113, 0xFF), (0x4114, 0xFF), (0x4115, 0xFF), (0x4116, 0xFF), (0x4117, 0xFF),
   (0x4130, 1), (0x4200, 2), (0x4204, 1), (0x4208, 1), (0x420C, 1), (0x4230, 1), (0x5000, 7), (0x5001, 9)] }
def copying (src dst shape : Nat) : Running :=
  cmd 2 0 [0, BitVec.ofNat 64 (0x0A0A * 2 ^ 48 + src), BitVec.ofNat 64 dst, BitVec.ofNat 64 shape]
theorem test_copy : (on shapes (copying 0x5000 0x6000 0x4000)).fresh 0 0 .copy = some (copying 0x5000 0x6000 0x4000) ∧
    ran ((readWords (ringAcc 0 0) 0x4000 10).exec (on shapes (copying 0x5000 0x6000 0x4000))) = true ∧
    (after (.copy 0 0) (on shapes (copying 0x5000 0x6000 0x4000))).mem.readN 0x6000 2 = [7, 9] ∧
    statusOf (after (.copy 0 0) (on shapes (copying 0x5000 0x6000 0x4000))) = some .ok ∧
    statusOf (after (.copy 0 0) (on shapes (copying 0x5000 0x6000 0x7000))) = some .ok := by decide +kernel
/-- The staging of house 0 is free, and taken. -/
theorem test_copy_staged : (after (.copy 0 0) (on shapes (copying 0x5001 0x5000 0x4100))).mem.readN 0x5000 2 = [9, 7] ∧
    ((after (.copy 0 0) ((on shapes (copying 0x5001 0x5000 0x4100)).setHouse 0 { staged := 1 })).running 0 0).map
      (fun k => match k.wait with | .staging h _ => h | _ => 9) = some 0 ∧
    ((after (.stagedCopyStart 0 0) (on shapes { copying 0x5001 0x5000 0x4100 with
      wait := .staging 0 (wordsOf (shapes.mem.readN 0x4100 80) 10) })).house 0).staged = 1 := by decide +kernel
def filling : Running := cmd 3 9 [0, 0x000A_0000_0000_0000, 0x6000, 0x4200]
theorem test_fill : (on shapes filling).fresh 0 0 .fill = some filling ∧
    (after (.fill 0 0) (on shapes filling)).mem.readN 0x6000 3 = [9, 9, 0] := by decide +kernel

/-- `CombineTagsFollowTheirRules`: one contributor of two, FP32, 4 bytes at 0x5000 into 0x6000, INIT = 1. -/
def combining (index : Nat) : Running :=
  cmd 4 (2 ^ 22) [0, BitVec.ofNat 64 (2 ^ 56 + 0x6000), BitVec.ofNat 64 (3 * 2 ^ 48 + 0x5000),
    BitVec.ofNat 64 (index * 2 ^ 52 + 2 * 2 ^ 39), 4]
def joined (index : Nat) : State := after (.combine 0 0) (on shapes (combining index))
theorem test_combine : (on shapes (combining 0)).fresh 0 0 .combine = some (combining 0) ∧
    (on shapes (combining 0)).combineLeaves 0 (combining 0).desc = (false, true) ∧ (shapes.tag 0 3).count = 0 ∧
    shapes.tagHouses 0 0x6000 4 = [0] ∧ shapes.openTags 0 = 0 ∧ ((joined 0).tag 0 3).count = 2 ∧
    ((joined 0).running 0 0).map (·.wait) = some (.combine 0) ∧
    Table.get 0 ((after (.chunkArrive 0 0) (joined 0)).tag 0 3).expected 0 = 1 := by decide +kernel
/-- Contributor 1 comes first: its chunk is held in a slot; with no slot free it waits. -/
theorem test_combine_held : ((after (.chunkArrive 0 0) (joined 1)).tag 0 3).held.length = 1 ∧
    ((after (.chunkArrive 0 0) (joined 1)).house 0).slotsUsed = 1 ∧
    ((after (.chunkArrive 0 0) ((joined 1).setHouse 0 { slotsUsed := 3584 })).running 0 0).map (·.wait) = some (.combine 0) := by
  decide +kernel
/-- An open tag whose chunks are more than one, a broken one, one that the COMBINE does not agree with, and time-outs. -/
theorem test_combine_ends : let broken := (on shapes (combining 0)).setTag 0 3 { count := 2, broken := true }
    let other := (on shapes (combining 0)).setTag 0 3 { count := 3, len := 4 }
    statusOf (after (.combine 0 0) broken) = some .broken ∧ statusOf (after (.combine 0 0) other) = some .state ∧
    statusOf (after (.combineTagGranted 0 0) (on broken { combining 0 with wait := .tag })) = some .broken ∧
    ((after (.combineTimeoutExpiry 0 3) (joined 0)).tag 0 3).broken = true ∧ statusOf (after (.combineTimeoutExpiry 0 3) (joined 0)) =
      some .timeout ∧ ((after (.tagFreeTimeout 0 3) broken).tag 0 3).count = 0 := by decide +kernel

/-- The example of R181: 2^24 + 1.0 is 2^24, and 2.0 + 2^24 is 2^24 + 2. -/
theorem test_combine_example : ((combineAdd 1 0x4B80_0000 0x3F80_0000).run {}).1 = 0x4B80_0000 ∧
    ((combineAdd 1 0x4000_0000 0x4B80_0000).run {}).1 = 0x4B80_0001 := by decide +kernel

/-! ## Links -/

/-- `RingCollectivesStartAndEnd`: ALL_GATHER in a ring of this module alone; links that are IDLE; no open tag left. -/
def linked : State := { base with leat := { state := .run, sched := { rings := [[0]] } } }
def gathering : Running := cmd 2 (2 ^ 31) [0, BitVec.ofNat 64 (0x0A0A * 2 ^ 48 + 0x5000), BitVec.ofNat 64 (3 * 2 ^ 48 + 0x6000), 0, 2]
def reducing (scatter : Nat) : Running :=
  cmd 4 (scatter * 2 ^ 24 + 2 ^ 31) [0, BitVec.ofNat 64 (2 ^ 56 + 0x6000), BitVec.ofNat 64 (3 * 2 ^ 48 + 0x5000), 0, 4]
theorem test_gather : (on linked gathering).fresh 0 0 .copy = some gathering ∧ gathering.desc.ringEn = true ∧
    linked.moduleId.toNat ∈ linked.leat.sched.rings.getD (linked.collectiveOf 0 gathering.desc).ring [] ∧
    linked.openTags 0 < 256 ∧ statusOf (after (.allGather 0 0) (on linked gathering)) = some .ok ∧
    statusOf (after (.allGather 0 0) (on base gathering)) = some .state := by decide +kernel
theorem test_reduce : (on linked (reducing 0)).fresh 0 0 .combine = some (reducing 0) ∧ (reducing 0).desc.scatter = false ∧
    (reducing 1).desc.scatter = true ∧ (reducing 0).desc.ringEn = true ∧
    statusOf (after (.allReduce 0 0) (on linked (reducing 0))) = some .ok ∧
    statusOf (after (.reduceScatter 0 0) (on linked (reducing 1))) = some .ok ∧
    statusOf (after (.ringTimeout 0 0) (on linked { gathering with wait := .collective {} })) = some .timeout := by decide +kernel

/-- `LinkScheduleCommandsFollowTheirChecks`: an image of zeros but for PERIOD 1 and ROOT_MODULE 5; one of zeros. -/
def withImage (root : Byte) : State := { base with mem := base.mem ++ [(0x4010, 1), (0x4012, root)] }
def scheduling (halt : Nat) : Running := cmd 0x3F halt [0, if halt = 0 then 0x4000 else 0]
def zeroImage : SchedImage :=
  { header := [0, 0, 0x5_0001] ++ List.replicate 13 0, slotMap := List.replicate 960 0, routes := List.replicate 2046 0
    rings := [], credits := List.replicate 384 0 }
theorem leNat_zeros (n : Nat) : leNat (List.replicate n 0#8) = 0 := by induction n <;> simp_all [List.replicate_succ, leNat]
theorem zero_getD (p : Prop) [Decidable p] : (if p then some 0#8 else none).getD 0#8 = 0#8 := by split <;> rfl
theorem tablesOk_zeros (x : SchedImage) (a b c : Nat) (hr : schedRings x.header = 0) (ha : x.slotMap = List.replicate a 0)
    (hb : x.routes = List.replicate b 0) (hc : x.credits = List.replicate c 0) : x.tablesOk = true := by
  simp [SchedImage.tablesOk, half16, leNat_zeros, zero_getD, hr, ha, hb, hc, bitsOf, List.getD_eq_getElem?_getD, List.getElem?_replicate]
theorem test_schedule_image : ((readImage 0 0x4000).exec (on (withImage 5) (scheduling 0))).1.toOption = some zeroImage := by
  decide +kernel
theorem test_schedule_image_ok : headerOk zeroImage.header = true ∧ zeroImage.tablesOk = true :=
  ⟨by decide, tablesOk_zeros zeroImage 960 2046 384 (by decide) rfl rfl rfl⟩
theorem test_link_schedule : (on (withImage 5) (scheduling 0)).fresh 0 0 .linkSchedule = some (scheduling 0) ∧
    headerOk (List.replicate 16 0) = false ∧ (withImage 5).linkUp = false ∧
    statusOf (after (.linkSchedule 0 0) (on base (scheduling 0))) = some .malformed := by decide +kernel
theorem test_link_schedule_ends : let s := on linked (scheduling 1)
    let t := on { base with leat := { state := .sync, cmdRing := some 0, turn := 7, syncTurns := 2 ^ 22 } } { scheduling 0 with wait := .link }
    (after (.linkScheduleHalt 0 0) s).leat.haltNext = true ∧ s.linkUp = true ∧
    statusOf (after (.linkScheduleHalt 0 0) (on base (scheduling 1))) = some .state ∧
    ((after .linkScheduleTimeout t).running 0 0).map (·.done) = some (some (.timeout, 7)) := by decide +kernel

/-- `PortAndPulseEvents`: each bound of each class of pulse, and the latency bound. -/
def inState' (st : LState) (x : Port) : State := { up with leat := { state := st, ports := [(0, x)], sched := { period := 1 } } }
def syncing : State := inState' .sync { on := true }
def pulsed (ns : Nat) : Bool × Nat := let l := (after (.tsyncPulseIn ns 0) syncing).leat; (l.startNext, l.glitches)
def fedBack (ns : Nat) : Bool × Nat :=
  let l := (after (.tsyncFbPulse ns 0) { syncing with gpio := [(0, { tsync := true })] }).leat; (l.startNext, l.glitches)
theorem test_pulses : [3, 4, 16, 17, 23, 24, 48, 49].map pulsed =
      [(false, 1), (false, 0), (false, 0), (false, 1), (false, 1), (true, 0), (true, 0), (false, 1)] ∧
    [49, 50, 200, 201, 299, 300, 600, 601].map fedBack =
      [(false, 1), (false, 0), (false, 0), (false, 1), (false, 1), (true, 0), (true, 0), (false, 1)] := by decide +kernel
theorem test_ports : ((after (.portTrained 0 1000) syncing).port 0).trained = true ∧
    (after (.portTrained 0 1001) syncing).leat.haltNext = true ∧ (syncing.port 0).on = true ∧ (syncing.port 0).trained = false ∧
    (after (.los 0) (inState' .run { on := true, trained := true })).leat.own.map (·.reason) = some 1 ∧
    (after (.stall 0 0) (inState' .run { on := true, trained := true, chans := [(0, { tx := [1], credit := 7, starved := 2 ^ 20 })] })).leat.haltNext = true ∧
    (after (.stall 0 0) (inState' .run { on := true, trained := true, chans := [(0, { tx := [1], credit := 8, starved := 2 ^ 20 })] })).leat.haltNext = false ∧
    (after .tsyncLost { up with leat := { state := .run, synced := true, missed := 128 } }).leat.haltNext = true ∧
    (after .tsyncLost { up with leat := { state := .run, synced := true, missed := 127 } }).leat.haltNext = false := by decide +kernel
theorem test_pulse_offset : let s : State := { syncing with leat := { syncing.leat with synced := true, missed := 3 } }
    (after (.tsyncPulseIn 10 20000) s).leat.missed = 0 ∧ (after (.tsyncPulseIn 10 20001) s).leat.missed = 3 ∧
    (after (.tsyncPulseIn 10 (-20001)) s).leat.missed = 3 := by decide +kernel

/-- `TurnBoundaryAdvancesTheLinks`: each state of the links; at the start of the schedule, with all ports trained and not. -/
def starting (trained : Bool) : State :=
  { on base { scheduling 0 with wait := .link } with
    leat := { state := .sync, cmdRing := some 0, startNext := true, sched := { startTurn := 9 }, ports := [(0, { on := true, trained := trained })] } }
theorem test_turn_start : (after .turnBoundary (starting true)).leat.state = .run ∧ (after .turnBoundary (starting true)).leat.turn = 9 ∧
    statusOf (after .turnBoundary (starting true)) = some .ok ∧ (after .turnBoundary (starting false)).leat.state = .sync ∧
    (after .turnBoundary (starting false)).leat.haltNext = true := by decide +kernel
theorem test_turns : let halting : State := { linked with leat := { linked.leat with haltNext := true } }
    let halted : State := { up with turnRoot := true, leat := { state := .halt, turn := 4 } }
    (after .turnBoundary linked).leat.turn = 1 ∧ (after .turnBoundary syncing).leat.syncTurns = 1 ∧
    (after .turnBoundary halting).leat.state = .halt ∧ (after .turnBoundary halting).leat.haltAt = 1 ∧
    (after .turnBoundary halting).alert = true ∧ ((after .turnBoundary halting).fn 0).cause.link = true ∧
    (after .turnBoundary halted).leat.turn = 5 ∧ after .turnBoundary base = base := by decide +kernel

/-- `MarkersAndFlitsAreChecked`: a run marker of zeros but for its kind; skew at its bound; the fourth and fifth unrepaired flit of
a turn. -/
def running : State := inState' .run { on := true, trained := true }
def marker (kind turn : Nat) : List Byte := natLe 8 turn ++ natLe 8 0 ++ natLe 8 (kind * 2 ^ 14) ++ List.replicate 232 0
/-- One marker on all eight lanes; lane `n` of a marker flit carries TYPE 2, SLOT 0 and LANE n (R218). -/
def onLanes (bs : List Byte) : List (Option (BitVec 20 × List Byte)) :=
  (List.range 8).map (fun n => some (BitVec.ofNat 20 (2 * 2 ^ 17 + n * 2 ^ 7), bs))
theorem test_markers : (after (.markerReceive 0 (onLanes (marker 1 0)) 480) running).leat.haltNext = false ∧
    (after (.markerReceive 0 (onLanes (marker 1 0)) 481) running).leat.haltNext = true ∧
    (after (.markerReceive 0 (onLanes (marker 1 1)) 0) running).leat.own.map (·.reason) = some 5 ∧
    (after (.markerReceive 0 (none :: (onLanes (marker 1 0)).drop 1) 0) running).leat.haltNext = false ∧
    (after (.markerReceive 0 (List.replicate 8 none) 0) running).leat.own.map (·.reason) = some 3 := by decide +kernel
def asked (n : Nat) : State := inState' .run { on := true, trained := true, req := (List.range n).map (fun k => (0, k)) }
theorem test_flits : (after (.flitReceive 0 0 1 0 none) (asked 3)).leat.haltNext = false ∧
    (after (.flitReceive 0 0 1 0 none) (asked 4)).leat.own.map (·.reason) = some 2 ∧
    ((after (.flitReceive 0 0 75 (BitVec.ofNat _ (75 * 2 ^ 10 + 2 ^ 17)) (some [7])) running).port 0).rx0.map (·.payload) = [some [7]] ∧
    (after (.flitReceive 0 0 75 (BitVec.ofNat _ (74 * 2 ^ 10 + 2 ^ 17)) (some [7])) running).leat.own.map (·.reason) = some 4 := by decide +kernel

/-- `PacketsHaveTheirEffectAndAnAck`: a WRITE, a COMBINE, a RING of a collective, of a dead tag and of neither, an ACK. -/
def arrived (k : Packet) (s : State) : State :=
  { s with leat := { s.leat with state := .run, ports := [(0, { on := true, trained := true, chans := [(0, { packets := [k] })] })] } }
theorem test_write_packet : let k : Packet := { kind := 1, addr := 0x5000, payload := [9, 8] }
    (after (.writePacket 0 0) (arrived k base)).mem.readN 0x5000 3 = [9, 8, 0] ∧ base.mapped 0x5000 = true ∧
    base.mapped 0x90_0000_0000 = false ∧ (((after (.writePacket 0 0) (arrived k base)).port 0).chan 0).packets = [] := by decide +kernel
theorem test_combine_packet : let k : Packet := { kind := 2, addr := 0x5000, payload := [0, 0, 0x80, 0x3F], fmt := 3, op := 1, init := true, countM1 := 0 }
    (after (.combinePacket 0 0) (arrived k base)).mem.readN 0x5000 4 = [0, 0, 0x80, 0x3F] := by decide +kernel
theorem test_ring_packet : let k : Packet := { kind := 3, tag := 3, payload := [1] }
    let member : State := on base { gathering with wait := .collective { kind := 2, tag := 3, n := 2, len := 4, fmt := 10, dst := 0x6000 } }
    (((after (.ringPacket 0 0) (arrived k { base with leat := { dead := [3] } })).port 0).chan 0).packets = [] ∧
    (((after (.ringPacket 0 0) (arrived k base)).port 0).chan 0).packets = [k] ∧
    member.memberOf 3 = some (0, 0, { kind := 2, tag := 3, n := 2, len := 4, fmt := 10, dst := 0x6000 }) ∧
    statusOf (after (.ringPacket 0 0) (arrived k member)) = some .broken := by decide +kernel
theorem test_ack_packet : let s : State := on { base with leat := { awaited := [{ seq := 1 }] } } { gathering with wait := .acks .ok [] }
    statusOf (after (.ackPacket 0 0) (arrived { kind := 4, seq := 1 } s)) = some .ok := by decide +kernel

/-- `EarliestHaltRecordIsKept`: turn before origin before reason; a halt marker of this module's own halt. -/
theorem test_halt_record : let a : Halt := { turn := 5, origin := 3, reason := 4 }
    keepHalt (some a) { turn := 4, origin := 9 } = some { turn := 4, origin := 9 } ∧ keepHalt (some a) { turn := 5, origin := 2 } =
      some { turn := 5, origin := 2 } ∧ keepHalt (some a) { turn := 5, origin := 3, reason := 3 } = some { turn := 5, origin := 3, reason := 3 } ∧
    keepHalt (some a) { turn := 6 } = some a ∧ (after (.markerReceive 0 (onLanes (marker 2 0)) 480) running).leat.haltNext = true ∧
    running.linkUp = true := by decide +kernel

/-! ## Grist, Damsel, Bolter -/

/-- `GristCommandsFollowTheirRules`: an entry joins, is admitted and listed, and leaves. -/
def joining : Running := cmd 0x10 3 [0, 5]
def gristed : State := after (.gristJoin 0 0) (onRing joining)
def leaving (s : State) : State := after (.gristLeave 0 0) (on s (cmd 0x11 0 []))
def stepped : State := after (.gristStep 0 0) (on gristed (cmd 0x12 1 [0, 0x7000]))
theorem test_grist_join : (onRing joining).fresh 0 0 .gristJoin = some joining ∧ (onRing joining).lowestFree 0 = some 0 ∧
    (gristed.entry 0).state = .queued ∧ (gristed.entry 0).total = 3 ∧ (gristed.running 0 0).map (·.done) = some (some (.ok, 0)) ∧
    statusOf (after (.gristJoin 0 0) (onRing (cmd 0x10 0 []))) = some .malformed ∧
    statusOf (after (.gristJoin 0 0) (on (base.setBind 0 { base.bind 0 with gristMax := 0 }) joining)) = some .capacity := by
  decide +kernel
theorem test_grist_step : (stepped.entry 0).state = .admitted ∧ (stepped.entry 0).slot = 0 ∧ (stepped.entry 0).listed = 1 ∧
    (stepped.running 0 0).map (·.done) = some (some (.ok, 1)) ∧ (stepped.mem.readN 0x7000 64).length = 64 := by decide +kernel
theorem test_grist_leave : ((leaving gristed).entry 0).state = .free ∧ ((leaving stepped).entry 0).state = .leaving ∧
    statusOf (leaving base) = some .state ∧
    statusOf (leaving (base.setPart 0 { base.part 0 with gristCount := 0 })) = some .access := by decide +kernel

/-- `DamselSeedWritesItsStreamRecord`: SEED 7, SUBSTREAM 5, DOMAIN 2. -/
def seeding : Running := cmd 0x28 2 [0, 0x7000, 7, 5]
theorem test_seed : (onRing seeding).fresh 0 0 .damselSeed = some seeding ∧ (onRing seeding).ecc = [] ∧
    statusOf (after (.damselSeed 0 0) (onRing seeding)) = some .ok ∧
    (after (.damselSeed 0 0) (onRing seeding)).mem.readN 0x7000 20 = natLe 8 0 ++ natLe 4 5 ++ natLe 4 2 ++ natLe 4 7 := by decide +kernel

/-- The published known answer of Philox4×32-10 for a key and a counter of zeros (R318). PRESUMED: from the published test vectors. -/
theorem test_philox : philox 0 0 = [0x6627_E8D5, 0xE169_C58D, 0xBC57_AC4C, 0x9B00_DBD8] := by decide +kernel

/-- `DrawsAndSamplesComplete`: one uniform element of FP32 under a record of zeros, and under a list of one record of zeros; the
larger of two logits; a stone of another partition. -/
def drawing (op0 where_ domain : Nat) : Running := cmd 0x29 op0 [0, 0x6000, 0, 0x3F80_0000_0000_0000, BitVec.ofNat 64 where_, BitVec.ofNat 64 (domain * 2 ^ 32), 1]
theorem test_draw : (onRing (drawing 1 0x7000 0)).fresh 0 0 .damselDraw = some (drawing 1 0x7000 0) ∧
    ran ((readStream (stoneAcc 0 0) 0x7000).exec base) = true ∧ (base.drawStone 0 0).toOption = some 0 ∧
    statusOf (after (.damselDraw 0 0) (onRing (drawing 1 0x7000 0))) = some .ok ∧
    (after (.damselDraw 0 0) (onRing (drawing 1 0x7000 0))).mem.readN 0x6000 4 = natLe 4 0x3ECC_4FD0 ∧
    (after (.damselDraw 0 0) (onRing (drawing 1 0x7000 0))).mem.read 0x7000 = 0 ∧
    (after (.completionEntryWrite 0 0) (after (.damselDraw 0 0) (on cqUp (drawing 1 0x7000 0)))).mem.read 0x7000 = 1 := by decide +kernel
theorem test_draw_list : statusOf (after (.damselDraw 0 0) (onRing (drawing (2 ^ 22 + 2 ^ 12 + 1) 0x7000 2))) = some .ok ∧
    ((after (.damselDraw 0 0) (onRing (drawing (2 ^ 22 + 2 ^ 12 + 1) 0x7000 2))).running 0 0).map (fun k => k.done.map (·.2)) =
      some (some 1) := by decide +kernel
def sampling : Running := cmd 0x2A (1 * 2 ^ 17) [0, 0x6000, 8, 0x6800, 0x3F80_0000, 0x1_0000_0002, 0x7000]
theorem test_sample : let s : State := { base with mem := base.mem ++ [(0x6006, 0x80), (0x6007, 0x3F)] }
    (on s sampling).fresh 0 0 .bolterSample = some sampling ∧ bolterOk sampling.desc = true ∧
    statusOf (after (.bolterSample 0 0) (on s sampling)) = some .ok ∧
    (after (.bolterSample 0 0) (on s sampling)).mem.readN 0x6800 4 = [1, 0, 0, 0] := by decide +kernel

/-! ## Race and the Hopper -/

/-- `RaceCommandsComplete`: what the codec makes of a unit is free, so no test says how a decoding ends. -/
def racing (encode : Bool) : State := base.setRac 0 0 { opened := true, owner := some 0, spec := { encode := encode } }
def decoding : Running := cmd 0x20 0 [0, 0, 0x6000, 0x7000, 16]
def encoding : Running := cmd 0x21 0 [0, 0, 0x6000, 0x7000, 16]
theorem test_race : (on (racing false) decoding).fresh 0 0 .raceDecode = some decoding ∧
    (on (racing true) encoding).fresh 0 0 .raceEncode = some encoding ∧ base.owns 0 0 = true ∧
    ran ((readV (raceAcc 0 0) 0x7000 16).exec (on (racing false) decoding)) = true ∧
    ran (({} : RaceSpec).source (raceAcc 0 0) 0x6000 |>.exec (on (racing true) encoding)) = true ∧
    statusOf (after (.raceDecode 0 0) (on (racing true) decoding)) = some .state ∧
    statusOf (after (.raceDecode 0 0) (onRing decoding)) = some .state ∧
    statusOf (after (.raceEncode 0 0) (on (base.setRac 0 0 { opened := true, owner := some 1 }) encoding)) = some .access := by
  decide +kernel

/-- `HopperBatchesRunAndEnd`: a batch that pauses at its first sample, one whose slots are full, a sample that is late, one that
waits for buffers, and a stream at its end. -/
def hopping (pos : Nat) : State := base.setHop 0 0 { opened := true, owner := some 0, spec := { n := 4, batch := 1, deadline := 1, replaceMax := 9 }, pos := pos }
def batch : Running := cmd 0x18 0 []
def inJob (j : HopperJob) : State := on (hopping 0) { batch with wait := .hopper j }
def phaseOf (s : State) : Option SamplePhase := (s.running 0 0).bind (fun k => match k.wait with | .hopper j => some j.phase | _ => none)
theorem test_hopper : (on (hopping 0) batch).fresh 0 0 .hopperBatch = some batch ∧ (on (hopping 0) batch).hopperBusy 0 0 = false ∧
    phaseOf (after (.hopperBatch 0 0) (on (hopping 0) batch)) = some .issued ∧
    statusOf (after (.hopperBatch 0 0) (on (hopping 4) batch)) = some .state ∧
    statusOf (after (.hopperBatch 0 0) (onRing batch)) = some .state := by decide +kernel
theorem test_hopper_job : statusOf (after (.hopperBatch 0 0) (inJob { slot := 1, pos := 1 })) = some .ok ∧
    ((after (.sampleDeadline 0 0) (inJob { phase := .issued })).hop 0 0).cDeadline = 1 ∧
    (({ n := 4, batch := 1, deadline := 1, replaceMax := 9 } : Ingest).replaceLimit) = 9 ∧
    phaseOf (after (.sampleBuffersTaken 0 0) ((inJob { phase := .waiting }).setHouse 0 { hopperBufs := 23 })) = some .decoding ∧
    phaseOf (after (.sampleBuffersTaken 0 0) ((inJob { phase := .waiting }).setHouse 0 { hopperBufs := 24 })) = some .waiting := by
  decide +kernel

/-! ## Snapshots -/

/-- `SnapshotAndRestoreComplete`: a plan of one stage whose set is not bound yet, so that its image has no section. -/
def planned : State := base.setSq 0 1 { state := .running, running := some { seq := 9, wait := .plan { stages := [{ stone := 0, set := 0 }] } } }
def saving (len : Nat) : Running := cmd 0x30 1 [0, 9, 0x7000, BitVec.ofNat 64 len]
theorem test_snapshot : (on planned (saving 64)).fresh 0 0 .snapshot = some (saving 64) ∧
    ((onDevice (stoneAcc 0 0) 0x7000 64).exec (on planned (saving 64))).1 = .ok true ∧
    ((after (.snapshot 0 0) (on planned (saving 64))).running 0 0).map (·.done) = some (some (.ok, 64)) := by decide +kernel
theorem test_snapshot_away : statusOf (after (.snapshot 0 0) (on planned (saving 63))) = some .capacity ∧
    statusOf (after (.snapshot 0 0) (on base (saving 64))) = some .state ∧
    ((after (.snapshot 0 0) (on planned (saving 64))).running 0 1).map (fun k => k.done.map (·.1)) = some (some .aborted) := by decide +kernel
def restoring : Running := cmd 0x31 0 [0, 0x4000]
theorem test_restore : let s : State := { base with mem := base.mem ++ [(0x4007, 0x80), (0x4008, 0x40), (0x4010, 1)] }
    (on s restoring).fresh 0 0 .restore = some restoring ∧ ran ((readSnapshot (stoneAcc 0 0) 0x4000).exec (on s restoring)) = true ∧
    statusOf (after (.restore 0 0) (on s restoring)) = some .malformed := by decide +kernel

/-! ## Numbers -/

/-- The narrowing examples of R25, TRUNC = 0 and TRUNC = 1. -/
def narrows (trunc : Bool) (bits result : Nat) : Bool := Machine.Num.cmp (pureFlags (narrow trunc bits)).1 (fp32 (BitVec.ofNat 32 result)) == 0
theorem test_narrow : [(0x3F80_1FFF, 0x3F80_2000), (0x3F80_1000, 0x3F80_0000), (0x3F80_3000, 0x3F80_4000)].all (fun x => narrows false x.1 x.2) ∧
    [(0x3F80_1FFF, 0x3F80_0000), (0x3F80_1000, 0x3F80_0000), (0x3F80_3000, 0x3F80_2000), (0x7F7F_FFFF, 0x7F7F_E000)].all
      (fun x => narrows true x.1 x.2) ∧
    (pureFlags (narrow false 0x7F7F_FFFF)).1.isInf ∧ (pureFlags (narrow false 0x7F80_0001)).1.isNan := by decide +kernel

/-- The MX block and the packing example of 01_number_formats.md; an integer conversion of R40; the widenings of R43. -/
theorem test_mx_block : pureFlags (mxQuantise 6 ([.fin false 3 1 0, .fin false 1 10 0, .fin true 1 1000 0, .fin false 1 100000 0] ++
      List.replicate 28 numZero)) = ((0x78, [0x7C, 0x55, 0xA0, 0x01] ++ List.replicate 28 0), { inx := true }) := by decide +kernel
theorem test_numbers : packRow 6 [0x01, 0x1F, 0x20, 0x15] = [0xC1, 0x07, 0x56] ∧ pureFlags (encodeElem 0xA (numOfInt 200)) = (127, { sat := true, inx := true }) ∧
    widen 10 1023 = 65535 ∧ widen 10 512 = 32800 ∧ widen 8 255 = 65535 := by decide +kernel

/-- `FloatNumbersFollowTheirRules`, `IntegerPassesSumAndClamp`: the pass of 02_arithmetic.md, ±1.0 and 2^−30; INT32 at both ends. -/
theorem test_pass : (pureFlags (do accEnter 0 (← passSum [.fin false 1 1 0, .fin true 1 1 0, .fin false 1 1 (-30)]))).1.1 = 0x3080_0000 ∧
    intPassSum [(numOfInt (-3), numOfInt 5), (numOfInt 2, numOfInt 4)] = -7 ∧
    pureFlags (accEnterInt 0x7FFF_FFFF 1) = (0x7FFF_FFFF, { sat := true }) ∧ pureFlags (accEnterInt 0x8000_0000 (-1)) = (0x8000_0000, { sat := true }) ∧
    pureFlags (accEnterInt 0x7FFF_FFFE 1) = (0x7FFF_FFFF, {}) := by decide +kernel

/-- The histogram example of 02_arithmetic.md: 3.0, −0.1, a zero, a flushed zero, 2^70. -/
theorem test_histogram : let h := ([(.fin false 3 1 0, false), (.fin true 1 10 0, false), (numZero, false), (numZero, true),
      (.fin false 1 1 70, false)] : List (Machine.Num × Bool)).foldl (fun (h : Hist) x => h.add x.1 x.2 3) {}
    h.elements = 5 ∧ h.bins = [(28, 1), (33, 1), (63, 1)] ∧ h.zero = 1 ∧ h.flushed = 1 := by decide +kernel

/-- The substitutes of R307's example: POC 0, 2, 6 for POC 8, and 2, 6, 10 for POC 4; the budget of R311's. -/
def pocs (l : List Int) : List RefBuf := l.map (fun n => { marked := true, order := n })
theorem test_race_examples : (substitute 2 0 (pocs [0, 2, 6]) 8).map (·.order) = some 6 ∧ (substitute 2 0 (pocs [2, 6, 10]) 4).map (·.order) = some 2 ∧
    substitute 2 0 [] 4 = none ∧
    ({ spec := { capWindow := 4, capBits := 400000 }, bits := [110000, 100000, 120000, 999999] } : RaceStream).budget = 70000 := by decide +kernel

/-! ## Plans, sets, passes -/

/-- `PlansBindAndEnd`: a plan of one stage with one phase, a STATS of no row. -/
def withPlan : State :=
  { base with mem := base.mem ++ [(0x8000, 1), (0x8004, 1), (0x8042, 0x20), (0x8047, 1), (0x8049, 0x81), (0x8100, 0x40), (0x8101, 0x81),
      (0x8145, 3), (0x8147, 0x40), (0x8168, 0x10)] }
def runPlan : Running := cmd 1 0 [0, 0x8000]
def bound : State := after (.runPlan 0 0) (on withPlan runPlan)
def waits (s : State) : Option PlanRun := (s.running 0 0).bind (fun k => match k.wait with | .plan x => some x | _ => none)
theorem test_run_plan : (on withPlan runPlan).fresh 0 0 .runPlan = some runPlan ∧ (waits bound).map (·.stages) = some [{ stone := 0, set := 0 }] ∧
    (bound.setCtx 0 0).state = .binding ∧ (bound.setCtx 0 0).plan.pawlEn = false ∧
    statusOf (after (.runPlan 0 0) (onRing runPlan)) = some .malformed := by decide +kernel

/-- A plan that runs, with a set of it on stone 0. -/
def ranOn (c : SetCtx) (x : Stone → Stone := id) : State :=
  (on base { runPlan with wait := .plan { stages := [{ stone := 0, set := 0 }] } }).setStone 0
    (x { base.stone 0 with sets := [(0, c)], loaded := some 0 })
def finishing (pawl : StagePawl) : State :=
  (ranOn { finished := true, pawl := pawl, plan := { pawl := 7, pawlEn := true } }).setPawl 7 { holder := some (.set 0 0) }
theorem test_set_ends : ((finishing .given).setCtx 0 0).over = true ∧ (finishing .given).ownsSet 0 0 = true ∧
    ((finishing .held).setCtx 0 0).over = false ∧ (waits (after (.setComplete 0 0) (finishing .given))).map (·.finished) = some [0] ∧
    ((after (.stagePawlGive 0 0) (finishing .held)).setCtx 0 0).pawl = .given ∧
    ((after (.stagePawlGive 0 0) (finishing .held)).pawl 7).holder = none ∧
    statusOf (after (.planComplete 0 0) (after (.setComplete 0 0) (finishing .given))) = some .ok := by decide +kernel

/-- A set that runs, or waits to run, a STATS of one element in the bin store. -/
def stats : VaneBlock := { vop := 4, fmtIn := 1, rows := 1, rowLen := 1, outPitch := 16, outBase := 0x6000 }
def vaneSet (st : SetState) : SetCtx := { state := st, plan := { vane := true, phases := [{ body := .vane stats }] }, started := true }

/-- `RunnerSwitchesSets`: a set that waits with its tile ready; a READY set; one that runs beside a READY one. -/
def two : State := ranOn (vaneSet .running) (fun x => { x with sets := [(0, vaneSet .running), (1, { vaneSet .ready with readyAt := 1 })], expired := true })
theorem test_runner : ((ranOn (vaneSet .waiting)).setCtx 0 0).tileReady = true ∧
    ((after (.tileReady 0 0) (ranOn (vaneSet .waiting))).setCtx 0 0).state = .ready ∧
    ((after (.setSwitch 0) (ranOn (vaneSet .ready))).setCtx 0 0).state = .running ∧ (two.stone 0).mustSwitch (vaneSet .running) = true ∧
    ((after (.setSwitch 0) two).stone 0).loaded = some 1 ∧ ((after (.setSwitch 0) two).setCtx 0 0).state = .ready := by decide +kernel
theorem test_runner_time : ((after (.switchInDone 0) (ranOn (vaneSet .running) (fun x => { x with switching := true }))).stone 0).switching = false ∧
    ((after (.allotmentExpiry 0) (two.modStone 0 (fun x => { x with expired := false }))).stone 0).expired = true ∧
    ((after (.allotmentExpiry 0) (ranOn { vaneSet .running with overshot := true })).stone 0).overCount = 1024 * 48 ∧
    ((after (.schedWindow 0) (ranOn {} (fun x => { x with overCount := 9 }))).stone 0).overCount = 0 := by decide +kernel

/-- `PassesAndReadouts`: INT8 2 × 3 in one pass, and its readout to device memory; one unit of the STATS; a dummy pass. -/
def product : Layer :=
  { fmtOut := 0xD, fmtA := 0xA, fmtB := 0xA, tk := 1, tn := 1, tm := 1, extK := 1, extN := 1, extM := 1, ring := [{}]
    a := { pitch := 1 }, b := { pitch := 1, base := 64 }, outBase := 0x6000, outRow := 4, outDest := 2 }
def looping : State :=
  ranOn { state := .running, plan := { phases := [{ body := .loop { layers := [product] } }], accSlots := 1 }, groups := [{}]
          started := true, pos := { ringAt := [0] } } (fun x => { x with bin := [(0, 2), (64, 3)] })
def readied : State := (looping.walkOn 0).beginNext 0
def passed : State := (readied.doPass 0 0 { layers := [product] } false).walkOn 0
theorem test_pass_issue : (((looping.walkOn 0).beginNext 0).passReady 0).map (·.1) = some 0 ∧ (passed.stone 0).acc = [(0, 6)] ∧
    (passed.setCtx 0 0).pos.ended = true ∧ ((passed.setCtx 0 0).group 0).state = .draining := by decide +kernel
theorem test_readout : (passed.stone 0).draining = [(0, 0)] ∧ passed.canDrain 0 0 0 = true ∧
    (after (.vaneReadout 0) passed).mem.readN 0x6000 4 = [6, 0, 0, 0] ∧ ((after (.vaneReadout 0) passed).setCtx 0 0).finished = true := by
  decide +kernel
theorem test_vane_unit : ((ranOn (vaneSet .running)).vaneJob 0).map (·.1) = some 0 ∧
    ((after (.vaneOpUnit 0) (ranOn (vaneSet .running))).setCtx 0 0).unit = 1 ∧ base.passReady 0 = none ∧
    ((after (.dummyPass 0 false) base).stone 0).acc = [] := by decide +kernel

/-- `StreamsAndFills`: a fill of two bytes into half 1; a phase that starts; a segment whose producer is fenced. -/
def filling2 : SetCtx :=
  { vaneSet .waiting with
    started := false, fillDue := 1
    plan := { vane := true, phases := [{ body := .vane stats, fills := [{ src := 0x5000, rows := 1, rowBytes := 2 }] }] } }
def chuted : State := after (.chuteFillDone 0 0) { ranOn filling2 with mem := base.mem ++ [(0x5000, 7), (0x5001, 9)] }
theorem test_fill_done : ((ranOn filling2).stone 0).fillsFirst filling2 = true ∧ (ranOn filling2).speaks 0 = true ∧
    (chuted.setCtx 0 0).filled = true ∧ (chuted.stone 0).bin.map (·.2) = [7, 9] ∧ (chuted.setCtx 0 0).canStart = true ∧
    ((after (.phaseStart 0 0) chuted).setCtx 0 0).started = true := by decide +kernel
def streaming : State := ranOn { vaneSet .running with rings := [(0, [{}, {}])] }
theorem test_fenced_segment : let s := streaming.modStone 0 (fun x => { x with logical := none })
    s.speaks 0 = false ∧ (((after (.spoutSegmentMove 0 0 0) s).setCtx 0 0).spoutRing 0).length = 1 ∧
    ((after (.spoutSegmentMove 0 0 0) s).unit 0 0).stale = 1 := by decide +kernel

/-- An image whose one section is zeros: `SnapshotAndRestoreComplete`, the RESTORE that goes on. No SNAPSHOT of this hardware writes
so small a section; the state is one that no run reaches. -/
def savedSet : SavedSet := { code := List.replicate 1024 0, ctx := { plan := { binUnits := 0, vane := true, phases := [{ body := .vane stats }] } } }
def imaged : State :=
  on { withPlan with
    saved := [savedSet]
    mem := base.mem ++ [(0x4001, 0x80), (0x4006, 1), (0x4007, 0x80), (0x4008, 0x80), (0x4009, 4), (0x4010, 0xC3), (0x4011, 0xE0), (0x4012, 0xCD), (0x4013, 0x69),
      (0x4014, 0x5D), (0x4015, 0x98), (0x4016, 0x0C), (0x4017, 0x4A)] ++ withPlan.mem.drop base.mem.length } restoring
def isOne (s : State) : Option (List Nat) := (sectionsIn s.saved 1 (List.replicate 1088 0)).map (fun l => l.map (·.logical))
theorem test_restore_reads : ((readSnapshot (stoneAcc 0 0) 0x4000).exec imaged).1.toOption.map (·.2) = some (List.replicate 1088 0) := by
  decide +kernel
theorem test_restore_check : ((readSnapshot (stoneAcc 0 0) 0x4000).exec imaged).1.toOption.map (fun x => (word64At x.1 0x10).toNat % 2 ^ 32) =
    some (crc32c (List.replicate 1088 0)).toNat := by decide +kernel
def binds_ (want : Nat → Want) : Option Word32 :=
  (imaged.tryBind (bindPlan (imaged.binder 0 0 restoring) 0x8000 want)).1.toOption.map (·.check)
theorem test_restore_binds : isOne imaged = some [0] ∧ binds_ (fun _ => .over) = some 0x4A0C_985D ∧
    binds_ (fun _ => .named 0) = some 0x4A0C_985D ∧ (imaged.setCtx 0 0).state = .empty ∧ imaged.physOf 0 = some 0 ∧
    savedSet.ctx.countersOk = true := by decide +kernel

/-! ## Further clauses -/

/-- A line that is no command (R426), "LOG 1", "LOGEND"; a lower address that wins ALERT# (R425); the level of a pin (R429). -/
theorem test_ports_more : (after (.uartLog [0x58]) up).uartOut = [69, 82, 82, 13, 10] ∧ logNumber [76, 79, 71, 32, 49] = some 1 ∧
    after (.uartLog [76, 79, 71, 69, 78, 68]) up = after .uartLogend up ∧ (after (.smbAlertResponse false false) { up with alert := true }).alert = true ∧
    ((after (.gpioAssignWrite 2 1 true) up).pin 2).extern = true ∧ (up.pin 2).extern = false ∧ logNumber [0x58] = none := by decide +kernel
/-- `CompletionRingControl`: a VF that is no tenant; a FAULTED ring that a submission ring names (R353). -/
theorem test_cq_more : ((after (.cqEnable 1 0 0x1_8004_0100) { base with vfEnable := true, numVfs := 4 }).fn 1).wrej = true ∧
    base.tenant 1 = false ∧ ((after (.cqDisable 0 0 0x0004_0100) (sqUp.setCq 0 0 { sqUp.cq 0 0 with state := .faulted })).cq 0 0).state =
      .disabled := by decide +kernel
/-- `HealthEventsFollowTheStoneMap`, `TapInstructionsComplete`: nothing is declared without stone clocks; the lock ends EXTEST. -/
theorem test_health_more : after (.stoneDeadDeclared 57) State.reset = State.reset ∧ after (.checkerRotate 0) State.reset = State.reset ∧
    (after (.setupLockWrite 1) { up with tap := { up.tap with instr := .extest } }).tap.instr = .bypass := by decide +kernel

/-! ## Operands in device memory: states that meet `State.Reaches` -/

/-- `FetchTakesTheDescriptorAtHead`: the descriptor of zeros at HEAD, in device memory. -/
theorem test_reach_fetch : posted.Reaches (ringAcc 0 0) false ((posted.sq 0 0).base.toNat * 4096 +
      (posted.sq 0 0).head.toNat % 2 ^ (posted.sq 0 0).log2.toNat * 64) 64 0x4000 ∧ posted.ecc = [] ∧
    checkDesc (wordsOf (posted.mem.readN 0x4000 64) 8) ≠ none ∧ (posted.sq 0 0).overshot = false :=
  ⟨reaches_low (va := 0x4000) (by decide +kernel) _ rfl _, rfl, by decide +kernel, rfl⟩

/-- `CompletionEntryIsWritten`: the entry's page in device memory, also after the counter of a stream record at 0x7000 has moved on;
a command of another ring that completed earlier. -/
def drawn : State := on cqUp { cmd 0x29 0 [] with done := some (.ok, 0), counter := some (0x7000, 5) }
def written : State := ((writeV (stoneAcc 0 0) 0x7000 (natLe 16 5)).exec drawn).2.s
theorem test_reach_entry : ended.Reaches { ringAcc 0 0 with strict := true } true 0 16 0 ∧ ended.ecc = [] ∧
    ended.entryAhead 0 0 { cmd 0 0 [] with done := some (.ok, 0) } = false ∧
    written.Reaches { ringAcc 0 0 with strict := true } true 0 16 0 ∧ written.ecc = [] ∧
    ran ((writeV (stoneAcc 0 0) 0x7000 (natLe 16 5)).exec drawn) = true :=
  ⟨reaches_low (va := 0) (by decide +kernel) _ rfl _, rfl, by decide +kernel, reaches_low (va := 0) (by decide +kernel) _ rfl _,
    by decide +kernel, by decide +kernel⟩
theorem test_entry_ahead : (ended.setSq 0 1 { running := some { done := some (.ok, 0) } }).entryAhead 0 0
    { cmd 0 0 [] with done := some (.ok, 0), doneAt := 1 } = true := by decide +kernel

/-- `WaitEndsOnceItsConditionHolds`. -/
theorem test_reach_wait : (on withWord (waitFor 5)).Reaches (ringAcc 0 0) false 0x8000 8 0x8000 ∧ (on withWord (waitFor 5)).ecc = [] :=
  ⟨reaches_low (by decide +kernel) _ rfl _, rfl⟩

/-- `CopyAndFillMoveTheirElements`: rows of two bytes; nothing is owed to the links. -/
theorem test_reach_copy : let s := on shapes (copying 0x5000 0x6000 0x4000)
    let j := s.copyJob 0 0 (copying 0x5000 0x6000 0x4000) (copyShapeOf (wordsOf (s.mem.readN 0x4000 80) 10))
    s.Reaches (ringAcc 0 0) false 0x4000 80 0x4000 ∧ s.ecc = [] ∧ s.leat.queued = [] ∧ s.leat.awaited = [] ∧
    copyShapeOf (wordsOf (s.mem.readN 0x4000 80) 10) = { ext := [2, 1, 1, 1], src := [1, 0, 0, 0], dst := [1, 0, 0, 0] } ∧
    s.ReachesApart [(0x6000, 2)] j.a false 0x5000 2 0x5000 ∧ s.ReachesApart [(0x6000, 2)] j.a true 0x6000 2 0x6000 :=
  ⟨reaches_low (by decide +kernel) _ rfl _, rfl, rfl, rfl, by decide +kernel,
    reachesApart_low (by decide +kernel) _ rfl _ (by decide), reachesApart_low (by decide +kernel) _ rfl _ (by decide)⟩
theorem test_reach_fill : let s := on shapes filling
    copyShapeOf (wordsOf (s.mem.readN 0x4200 80) 10) = { ext := [2, 1, 1, 1], src := [0, 0, 0, 0], dst := [1, 0, 0, 0] } ∧
    s.ReachesApart [(0x6000, 2)] (s.fillJob 0 filling.desc (copyShapeOf (wordsOf (s.mem.readN 0x4200 80) 10))).a true 0x6000 2 0x6000 :=
  ⟨by decide +kernel, reachesApart_low (by decide +kernel) _ rfl _ (by decide)⟩

/-- `CombineTagsFollowTheirRules`: the one chunk of the one contributor of tag 3, FP32 at 0x5000 into 0x6000. -/
def alone : CombineTag := { count := 1, len := 4, fmt := 1, init := true, parts := [{ f := 0, r := 0, seq := 0, index := 0 }],
                            places := [some (.here 0x6000 false)] }
def lonely : State := (on shapes { combining 0 with wait := .combine 0 }).setTag 0 3 alone
theorem test_reach_combine : lonely.Reaches (combineAcc 0 (lonely.chunkHome 0 0 (some 0x6000))) false 0x5000 4 0x5000 ∧ lonely.ecc = [] ∧
    lonely.tag 0 3 = alone ∧ (combining 0).desc.tag = 3 ∧ (combining 0).desc.src18 = 0x5000 ∧ (combining 0).desc.len = 4 ∧
    4 % combineSize 1 = 0 ∧ ((after (.chunkArrive 0 0) lonely).running 0 0).map (·.done) = some (some (.ok, 1)) ∧
    (after (.chunkArrive 0 0) lonely).mem.readN 0x6000 2 = [7, 9] :=
  ⟨reaches_low (by decide +kernel) _ rfl _, rfl, by decide +kernel, by decide, by decide, by decide, by decide, by decide +kernel,
    by decide +kernel⟩
/-- A chunk in turn, and one out of turn, of a tag of two contributors. -/
theorem test_chunks : let x := (joined 0).tag 0 3
    x.byPlace = false ∧ x.arrival = false ∧ x.places = [some (.here 0x6000 false)] ∧ Table.get 0 x.expected 0 = 0 ∧
    (x.by_ 0).map (fun k => (k.remote.isNone, k.added)) = some (true, 0) ∧ x.finished.length < x.count ∧
    (joined 1).slotFree ((joined 1).chunkHome 0 0 (some 0x6000)) false = true ∧
    ((joined 1).setHouse 0 { slotsUsed := 3584 }).slotFree 0 false = false := by decide +kernel

/-- `RingCollectivesStartAndEnd`: a ring of this module alone; one of modules 0 and 1, in which this one sends a chunk of one packet. -/
def linked2 : State := { base with leat := { state := .run, sched := { rings := [[0, 1]] } } }
theorem test_reach_gather : let s := on linked gathering
    let k := s.collectiveOf 0 gathering.desc
    linked.leat.sched.rings.getD k.ring [] = [linked.moduleId.toNat] ∧ k.src.toNat = 0x5000 ∧ k.dst.toNat = 0x6000 ∧ k.len = 2 ∧ s.ecc = [] ∧
    s.Reaches (k.acc 0) false 0x5000 2 0x5000 ∧ s.ReachesApart [(0x6000, 2)] (k.acc 0) true 0x6000 2 0x6000 :=
  ⟨by decide +kernel, by decide +kernel, by decide +kernel, by decide +kernel, rfl, reaches_low (by decide +kernel) _ rfl _,
    reachesApart_low (by decide +kernel) _ rfl _ (by decide)⟩
def gathering2 : Running := cmd 2 (2 ^ 31) [0, BitVec.ofNat 64 (0x0A0A * 2 ^ 48 + 0x5000), BitVec.ofNat 64 (3 * 2 ^ 48 + 0x6000), 0, 1032]
theorem test_reach_gather2 : let s := on linked2 gathering2
    let k := s.collectiveOf 0 gathering2.desc
    k.kind = 2 ∧ k.n = 2 ∧ k.chunkLen k.pos = 1024 ∧ k.chunkLen k.pos < k.len ∧ (k.dst.toNat + k.pos * k.size) % 2 ^ 48 = 0x6000 ∧
    s.Reaches (k.acc 0) false 0x5000 1024 0x5000 ∧ s.ReachesApart [(0x6000, 1024)] (k.acc 0) true 0x6000 1024 0x6000 :=
  ⟨by decide +kernel, by decide +kernel, by decide +kernel, by decide +kernel, by decide +kernel,
    reaches_low (by decide +kernel) _ rfl _, reachesApart_low (by decide +kernel) _ rfl _ (by decide)⟩
def reducing8 : Running := cmd 4 (2 ^ 31) [0, BitVec.ofNat 64 (2 ^ 56 + 0x6000), BitVec.ofNat 64 (3 * 2 ^ 48 + 0x5000), 0, 1032]
theorem test_reach_reduce2 : let s := on linked2 reducing8
    let k := s.collectiveOf 0 reducing8.desc
    k.kind ≠ 2 ∧ k.n = 2 ∧ k.chunkLen k.first = 8 ∧ ({ k with summed := 8 } : Collective).ended = false ∧
    s.Reaches (k.acc 0) false ((k.src.toNat + k.first * k.size) % 2 ^ 48) 8 ((k.src.toNat + k.first * k.size) % 2 ^ 48) :=
  ⟨by decide +kernel, by decide +kernel, by decide +kernel, by decide +kernel, reaches_low (by decide +kernel) _ rfl _⟩

/-- `LinkScheduleCommandsFollowTheirChecks`: the header at 0x4000, the tables, of zeros, at 0. -/
theorem test_reach_schedule : let s := on (withImage 5) (scheduling 0)
    let h := wordsOf (s.mem.readN 0x4000 128) 16
    s.Reaches (linkAcc 0) false 0x4000 128 0x4000 ∧ h = zeroImage.header ∧ s.shape = .whole ∧ s.linkUp = false ∧ s.turnRoot = false ∧
    (wordAt h 2).toNat / 2 ^ 16 % 1024 ≠ s.moduleId.toNat :=
  ⟨reaches_low (by decide +kernel) _ rfl _, by decide +kernel, rfl, by decide +kernel, rfl, by decide +kernel⟩
theorem test_reach_schedule_tables : let s := on (withImage 5) (scheduling 0)
    s.Reaches (linkAcc 0) false 0 2046 0 ∧ s.mem.readN 0 2046 = List.replicate 2046 0 ∧ (wordAt zeroImage.header 4).toNat = 0 ∧
    schedPeriod zeroImage.header = 1 :=
  ⟨reaches_low (by decide +kernel) _ rfl _, by decide +kernel, by decide, by decide⟩

/-- `TurnBoundaryAdvancesTheLinks`: at the halt boundary a collective is aborted and the halt command ends; a halt reached from SYNC
after START_TURN. -/
theorem test_halt_boundary : let halting : State := { linked with leat := { linked.leat with haltNext := true } }
    statusOf (after .turnBoundary (on halting { gathering with wait := .collective { kind := 2, tag := 3 } })) = some .aborted ∧
    statusOf (after .turnBoundary (on halting { scheduling 1 with wait := .linkHalt })) = some .ok ∧
    (after .turnBoundary (after .turnBoundary (starting false))).leat.turn = 10 ∧
    (after .turnBoundary linked).leat.pulse = some false := by decide +kernel

/-- `MarkersAndFlitsAreChecked`: a lane in a wrong place, a SYNC marker, a slot of TYPE 0, a replay of the turn before last. -/
theorem test_lanes : (after (.markerReceive 0 ((onLanes (marker 1 0)).reverse) 0) running).leat.haltNext = true ∧
    (after (.markerReceive 0 (onLanes (marker 0 0)) 481) (inState' .sync { on := true, trained := true })).leat.haltNext = false ∧
    after (.flitReceive 0 0 5 (BitVec.ofNat _ (5 * 2 ^ 10)) (some [])) running = running ∧
    ((after (.flitReceive 0 0 76 (BitVec.ofNat _ (9 * 2 ^ 10 + 3 * 2 ^ 17 + 2 * 62)) (some [7]))
      (inState' .run { on := true, trained := true, asked1 := [(0, 9)], rx2 := [{ slot := 9, lane := 0 }] })).port 0).rx2.map (·.payload) =
      [some [7]] := by decide +kernel

/-- `PacketsHaveTheirEffectAndAnAck`: the last packet of an ALL_GATHER of two modules; one of a sum, which goes on to module 1. -/
def member2 (m : Collective) (len : Nat) : State := on linked2 { gathering with wait := .collective m, desc := (cmd 2 0 [0, 0, 0, 0, BitVec.ofNat 64 len]).desc }
def arrived2 (k : Packet) (m : Collective) : State := (member2 m 2).setPort 0 { on := true, trained := true, chans := [(0, { packets := [k] })] }
def gatherOf : Collective := { kind := 2, tag := 3, n := 2, len := 1032, fmt := 10, dst := 0x6000, src := 0x5000 }
def packetOf : Packet := { kind := 3, tag := 3, op := 1, addr := 1024, payload := List.replicate 8 9, index := 1, countM1 := 1, fmt := 10 }
theorem test_reach_ring : let s := arrived2 packetOf gatherOf
    s.memberOf 3 = some (0, 0, gatherOf) ∧ gatherOf.agrees packetOf = true ∧ gatherOf.size = 1024 ∧ gatherOf.chunkLen 1 = 8 ∧ s.ecc = [] ∧
    s.ReachesApart [(0x6400, 8)] (gatherOf.acc 0) true 0x6400 8 0x6400 :=
  ⟨by decide +kernel, by decide +kernel, by decide +kernel, by decide +kernel, rfl, reachesApart_low (by decide +kernel) _ rfl _ (by decide)⟩
def sumOf : Collective := { kind := 0, tag := 3, n := 3, len := 2056, fmt := 1, dst := 0x6000, src := 0x5000 }
def partOf_ : Packet := { kind := 3, tag := 3, op := 0, addr := 2048, payload := [0, 0, 0x80, 0x3F, 0, 0, 0, 0], index := 2, countM1 := 2, fmt := 1 }
theorem test_reach_sum : let s := arrived2 partOf_ sumOf
    s.memberOf 3 = some (0, 0, sumOf) ∧ sumOf.agrees partOf_ = true ∧ sumOf.pos ≠ 2048 / sumOf.size ∧
    ({ sumOf with summed := 8 } : Collective).ended = false ∧ s.Reaches (sumOf.acc 0) false 0x5800 8 0x5800 :=
  ⟨by decide +kernel, by decide +kernel, by decide +kernel, by decide +kernel, reaches_low (by decide +kernel) _ rfl _⟩
theorem test_combine_packet_free : (∀ h, base.openTags h < 256) ∧ (base.tag 0 0).count = 0 ∧ (base.part 0).state = .active ∧
    4 % combineSize 3 = 0 := ⟨fun h => by unfold State.openTags; rw [show base.tags = [] from rfl, show base.fns = [] from rfl]; simp, rfl, rfl, by decide⟩

/-- `GristCommandsFollowTheirRules`: the step's one record, at 0x7000; `s4` is the state after its joins. -/
def steps : State :=
  let s := on gristed (cmd 0x12 1 [0, 0x7000])
  let s1 := s.setPart 0 { s.part 0 with serial := (s.part 0).serial + 1 }
  let s3 := (s1.commitLeaves 0 0).admitJoins 0 ((s.part 0).serial + 1)
  { s3 with freeCount := s3.freeCount + 2 }
theorem test_reach_step : steps.ReachesApart [(0x7000, 64)] (steps.unnamedAcc 0) true 0x7000 64 0x7000 ∧
    (steps.workList 0 0 1 1).length = 1 := ⟨reachesApart_low (by decide +kernel) _ rfl _ (by decide), by decide +kernel⟩

/-- `DamselSeedWritesItsStreamRecord`, `DrawsAndSamplesComplete`: records, logits and destinations in device memory. -/
theorem test_reach_seed : let s : State := { onRing seeding with freeCount := (onRing seeding).freeCount + 2 }
    s.Reaches ((onRing seeding).unnamedAcc 0) true 0x7000 32 0x7000 := reaches_low (by decide +kernel) _ rfl _
theorem test_reach_draw : let s := onRing (drawing 1 0x7000 0)
    let a := stoneAcc 0 0
    s.Reaches a true 0x7000 32 0x7000 ∧ s.Reaches a false 0x7000 32 0x7000 ∧ s.ReachesApart [(0x6000, 4)] a true 0x6000 4 0x6000 ∧
    (drawing 1 0x7000 0).desc.draw.ok = true ∧ (drawing 1 0x7000 0).desc.draw.count = 1 :=
  ⟨reaches_low (by decide +kernel) _ rfl _, reaches_low (by decide +kernel) _ rfl _, reachesApart_low (by decide +kernel) _ rfl _ (by decide),
    by decide, by decide⟩
theorem test_reach_sample : let s : State := on { base with mem := base.mem ++ [(0x6006, 0x80), (0x6007, 0x3F)] } sampling
    let a := stoneAcc 0 0
    s.Reaches a true 0x7000 32 0x7000 ∧ s.ReachesApart [(0x6800, 4)] a false 0x6000 8 0x6000 ∧
    s.ReachesApart [(0x6800, 4)] a true 0x6800 4 0x6800 ∧ sampling.desc.field 0x30 63 32 = 1 :=
  ⟨reaches_low (by decide +kernel) _ rfl _, reachesApart_low (by decide +kernel) _ rfl _ (by decide),
    reachesApart_low (by decide +kernel) _ rfl _ (by decide), by decide⟩

/-- `RaceCommandsComplete`, `HopperBatchesRunAndEnd`: a unit in device memory; reads of host memory that time out. -/
theorem test_reach_race : (on (racing false) decoding).Reaches (raceAcc 0 0) false 0x7000 16 0x7000 ∧
    (on (racing false) decoding).leads (raceAcc 0 0) false 0x4000_0000 = some (.host 0) ∧
    statusOf (after (.completionTimeout 0 0 0x4000_0000) (on (racing false) decoding)) = some .dataError ∧
    statusOf (after (.completionTimeout 0 0 0x4000_0000) (inJob { phase := .issued })) = some .dataError :=
  ⟨reaches_low (by decide +kernel) _ rfl _, by decide +kernel, by decide +kernel, by decide +kernel⟩
/-- A batch that must stand in line behind another of its stream. -/
theorem test_hopper_line : let x := (hopping 0).hop 0 0
    let s := (on (hopping 0) batch).setHop 0 0 { x with line := [(0, 1, 0)] }
    let t := s.setSq 0 1 { state := .running, running := some { cmd 0x18 0 [] with seq := 0 } }
    ((after (.hopperBatch 0 0) t).hop 0 0).line.length = 2 ∧ phaseOf (after (.hopperBatch 0 0) t) = none := by decide +kernel

/-- `SnapshotAndRestoreComplete`: an instance whose one set waits, so that it stops at once, and one whose set runs. -/
def resting (st : SetState) : State :=
  (base.setSq 0 1 { state := .running, running := some { seq := 9, wait := .plan { stages := [{ stone := 0, set := 0 }] } } }).setStone 0
    { base.stone 0 with
      sets := [(0, { vaneSet st with r := 1, seq := 9, plan := { binUnits := 0, vane := true, phases := [{ body := .vane stats }] } })]
      loaded := some 0, atBoundary := st != .running }
theorem no_stone_errors (p : Nat) : ((on (resting .waiting) (saving 1152)).stone p).ecc = [] := by
  rcases p with _ | p
  · rfl
  · show (Table.get (stoneShipped (p + 1)) _ (p + 1)).ecc = []
    have e : Table.get (stoneShipped (p + 1)) (on (resting .waiting) (saving 1152)).stones (p + 1) = stoneShipped (p + 1) := rfl
    rw [e]; unfold stoneShipped; split <;> rfl
theorem test_reach_snapshot : let s := on (resting .waiting) (saving 1152)
    s.ReachesApart [(0x7000, 1152)] (stoneAcc 0 0) true 0x7000 1152 0x7000 ∧ s.sectionsOf 0 1 9 = [(0, 0, 0)] ∧
    (∀ p, (s.stone p).ecc = []) ∧ (∀ n, (s.pawl n).queue = []) ∧ s.imageSize 0 1 9 = 1152 ∧ (s.instanceOf 0 1 9).isSome = true ∧
    (s.unit 0 0).due = false ∧ (s.setCtx 0 0).tables = [] ∧ (s.setCtx 0 0).rings = [] :=
  ⟨reachesApart_low (by decide +kernel) _ rfl _ (by decide), by decide +kernel, no_stone_errors, fun _ => rfl,
    by decide +kernel, by decide +kernel, by decide +kernel, rfl, rfl⟩
theorem test_snapshot_waits : statusOf (after (.snapshot 0 0) (on (resting .running) (saving 1152))) = none ∧
    ((after (.snapshot 0 0) (on (resting .running) (saving 1152))).running 0 0).map (·.wait) = some (.snapshot 1 9) := by decide +kernel
theorem test_reach_restore : imaged.Reaches (stoneAcc 0 0) false 0x4000 64 0x4000 ∧
    imaged.Reaches (stoneAcc 0 0) false 0x4040 1088 0x4040 ∧ imaged.mem.readN 0x4040 1088 = List.replicate 1088 0 ∧ imaged.ecc = [] :=
  ⟨reaches_low (by decide +kernel) _ rfl _, reaches_low (by decide +kernel) _ rfl _, by decide +kernel, rfl⟩

/-- `PlansBindAndEnd`, `RunnerSwitchesSets`: no SNAPSHOT waits; a stone that speaks, and one that does not; the stage pawl free, taken. -/
def twoSets : State := ranOn (vaneSet .binding)
theorem test_no_snapshot (f r : Nat) (k : Running) (sq : Nat) (seq : Word32) (h : twoSets.running f r = some k) :
    k.wait ≠ .snapshot sq seq := by
  rcases f with _ | f
  · rcases r with _ | r
    · have e : twoSets.running 0 0 = some { runPlan with wait := .plan { stages := [{ stone := 0, set := 0 }] } } := rfl
      rw [e, Option.some.injEq] at h
      rw [← h]
      simp
    · exact absurd (show twoSets.running 0 (r + 1) = none from rfl) (by rw [h]; simp)
  · exact absurd (show twoSets.running (f + 1) r = none from rfl) (by rw [h]; simp)
theorem test_speaks : twoSets.speaks 0 = true ∧ (twoSets.modStone 0 (fun x => { x with epoch := 7 })).speaks 0 = false ∧
    (twoSets.pawl 0).holder = none ∧ two.clocked 0 = true ∧ (two.stone 0).ecc = [] ∧ base.clocked 0 = true ∧
    ((up.setStone 3 { state := .retired }).clocked 3) = false := by decide +kernel

/-- `PassesAndReadouts`: no stored error; every element of the pass lies in the window. -/
theorem test_pass_operands : (looping.stone 0).ecc = [] ∧ subRowsValid product (({ layers := [product] } : LoopTable).body 0 []) 0 = [0] ∧
    subColsValid product (({ layers := [product] } : LoopTable).body 0 []) 0 = [0] ∧
    (matElem product.fmtA product.a 0 product.tm product.tk 0 0).off = 0 ∧ (matElem product.fmtB product.b 0 product.tn product.tk 0 0).off = 64 ∧
    (readied.setCtx 0 0).plan.bin = 65536 ∧ product.fmtBias = 0 := by decide +kernel

/-- The same product with its output in the bin window: its readout lies there. -/
def inward : Layer := { product with outDest := 0, outBase := 128 }
def readied0 : State :=
  ranOn { state := .running, plan := { phases := [{ body := .loop { layers := [inward] } }], accSlots := 1 }, started := true
          groups := [{ state := .draining, closed := 1 }], pos := { ended := true } } id
theorem test_readout_operands : let d := readied0.drain 0 0 0 { layers := [inward] }
    (readied0.stone 0).ecc = [] ∧ (readied0.stone 0).draining.find? (fun y => readied0.canDrain 0 y.1 y.2) = some (0, 0) ∧
    d.record.isNone ∧ d.clip = none ∧ fwMx d.l.fmtOut = false ∧ d.l.outDest = 0 ∧ d.slots = [(0, 0)] ∧ d.runs 0 0 = [[(0, 0)]] ∧
    d.slot 0 0 = 0 ∧ d.place 0 0 = (128, 0, 1) ∧ ((after (.vaneReadout 0) readied0).setCtx 0 0).finished = true := by decide +kernel

/-- A SOFTMAX of one element in the bin window; the segment, the inlet and the fill of a stage. -/
def soft : VaneBlock := { vop := 3, fmtIn := 1, fmtOut := 1, rows := 1, rowLen := 1, outDest := 0, outBase := 64 }
def softly : State := ranOn { vaneSet .running with plan := { vane := true, phases := [{ body := .vane soft }] } }
theorem test_softmax_unit : (softly.vaneJob 0).map (fun y => (y.1, y.2.b.vop, y.2.b.inMem, y.2.b.outDest, y.2.c.unit)) =
      some (0, 3, false, 0, 0) ∧ elemBytes soft.fmtIn * soft.rowLen = 4 ∧ rowBytes (bitsOfFmt soft.fmtOut) 1 = 4 ∧
    ((softly.setCtx 0 0).plan.bin) = 65536 ∧ ((after (.vaneOpUnit 0) softly).setCtx 0 0).unit = 1 := by decide +kernel
theorem test_reach_chute : let s : State := { ranOn filling2 with mem := base.mem ++ [(0x5000, 7), (0x5001, 9)] }
    s.Reaches (chuteAcc 0 (s.stoneUnit 0)) false 0x5000 2 0x5000 ∧ s.ecc = [] ∧
    (filling2.plan.phase filling2.fillPhase).fills = [{ src := 0x5000, rows := 1, rowBytes := 2 }] :=
  ⟨reaches_low (by decide +kernel) _ rfl _, rfl, by decide +kernel⟩

/-- `StreamsAndFills`: set 0 of stone 0 feeds port 0 of set 1, whose SOFTMAX takes one element; an inlet feeds it too. -/
def taker : SetCtx :=
  { vaneSet .waiting with
    started := false, stage := 1
    plan := { vane := true, phases := [{ body := .vane soft }], ports := [{ operand := 1, segs := 1 }, {}, {}, {}]
              inlets := [{ src := 0x5000, rows := 1, rowBytes := 4 }] } }
def giver : SetCtx :=
  { vaneSet .running with
    rings := [(0, [{ elems := [{ at_ := {}, bits := 0x3F80_0000 }], bytes := 4 }])]
    plan := { vane := true, spouts := 1, phases := [{ body := .vane stats }], targets := [{ valid := true, stage := 1 }, {}, {}, {}] } }
def streamed : State :=
  (on base { runPlan with wait := .plan { stages := [{ stone := 0, set := 0 }, { stone := 0, set := 1 }] } }).setStone 0
    { base.stone 0 with sets := [(0, giver), (1, taker)], loaded := some 0 }
theorem test_segment : streamed.speaks 0 = true ∧ taker.takes 0 = true ∧ (streamed.stone 0).ecc = [] ∧
    ((streamed.planOf giver).bind (fun x => x.at_ 1)) = some { stone := 0, set := 1 } ∧
    ((taker.landing 0 (taker.plan.ports.getD 0 {})).elem {}).map (fun k => k.off + groupBytes k.bits) = some 4 ∧
    (((after (.spoutSegmentMove 0 0 0) streamed).setCtx 0 1).port 0).fills = 1 ∧
    ((after (.spoutSegmentMove 0 0 0) streamed).setCtx 0 0).spoutRing 0 = [] := by decide +kernel
theorem test_reach_inlet : streamed.Reaches (chuteAcc 0 (streamed.stoneUnit 0)) false 0x5000 4 0x5000 ∧
    streamed.inletReady taker { src := 0x5000, rows := 1, rowBytes := 4 } = true ∧
    (taker.landing 0 (taker.plan.ports.getD 0 {})).row 0 = 0 ∧
    (((after (.inletRead 0 1 0) streamed).setCtx 0 1).port 0).fills = 1 :=
  ⟨reaches_low (by decide +kernel) _ rfl _, by decide +kernel, by decide +kernel, by decide +kernel⟩

/-- The published check value of CRC-32C, over the digits 1 to 9. PRESUMED: from the published parameters (log entry 6). -/
theorem test_crc : crc32c [0x31, 0x32, 0x33, 0x34, 0x35, 0x36, 0x37, 0x38, 0x39] = 0xE306_9283 := by decide +kernel

end Sys2Proof.Tests
end

section
/-! PROOFS. Integer passes: exact sums of products (R52), and INT32 entries that clamp pass by pass (R55). -/
namespace Sys2Proof.Machine

/-! ## Integer pass sums (R52) -/

/-- In units of 1, an integer's magnitude is its own floor. -/
@[simp] theorem floorUnits_one_zero (n : Nat) : floorUnits n 1 0 0 = (n, false) := by
  simp [floorUnits, shl, Nat.mod_one]

@[simp] theorem int_numOfInt (i : Int) : (numOfInt i).int = i := by
  rcases lt_or_ge i 0 with neg | nonneg
  · simp [numOfInt, Num.int, neg, abs_of_neg]
  · simp [numOfInt, Num.int, Int.not_lt.mpr nonneg, abs_of_nonneg nonneg]

theorem intPassSum_eq_sum (ps : List (Num × Num)) : intPassSum ps = (ps.map (fun p => p.1.int * p.2.int)).sum :=
  List.sum_eq_foldl.symm

theorem intPassSum_numOfInt (l : List (Int × Int)) :
    intPassSum (l.map (fun x => (numOfInt x.1, numOfInt x.2))) = (l.map (fun x => x.1 * x.2)).sum := by
  rw [intPassSum_eq_sum, List.map_map]
  simp [Function.comp_def]

/-! ## INT32 entries (R55) -/

/-- The clamp of R55, to the range of INT32. -/
def clampInt32 (x : Int) : Int := max (-2 ^ 31) (min (2 ^ 31 - 1) x)

/-- An entry after one more pass sum. -/
def clampAdd (x t : Int) : Int := clampInt32 (x + t)

/-- Some pass sum of the list, taken in its turn, meets a clamp that changes the value. -/
def someClamp (x : Int) (ts : List Int) : Bool :=
  (List.range ts.length).any (fun n =>
    let y := (ts.take n).foldl clampAdd x + ts.getD n 0
    decide (clampInt32 y ≠ y))

@[simp] theorem someClamp_nil (x : Int) : someClamp x [] = false := rfl

theorem someClamp_cons (x t : Int) (ts : List Int) :
    someClamp x (t :: ts) = (decide (clampInt32 (x + t) ≠ x + t) || someClamp (clampAdd x t) ts) := by
  rw [someClamp, List.length_cons, List.range_succ_eq_map, List.any_cons, List.any_map]
  rfl

theorem toInt_ofInt_clampInt32 (x : Int) : (BitVec.ofInt 32 (clampInt32 x)).toInt = clampInt32 x :=
  BitVec.toInt_ofInt_eq_self (by decide) (by simp only [clampInt32]; omega) (by simp only [clampInt32]; omega)

/-- One pass: the entry holds the clamped sum, and only a clamp that changes it sets a flag. -/
theorem accEnterInt_run (a : Word32) (t : Int) (fl : Flags) :
    (accEnterInt a t).run fl = (BitVec.ofInt 32 (clampInt32 (a.toInt + t)),
      { fl with sat := fl.sat || decide (clampInt32 (a.toInt + t) ≠ a.toInt + t) }) := by
  generalize sum : a.toInt + t = x
  rcases lt_or_ge 2147483647 x with high | notHigh
  · have clamped : clampInt32 x = 2147483647 := by simp only [clampInt32]; omega
    have changed : (2147483647 : Int) ≠ x := by omega
    simp [accEnterInt, setSat, sum, high, clamped, changed]
    rfl
  rcases lt_or_ge x (-2147483648) with low | notLow
  · have clamped : clampInt32 x = -2147483648 := by simp only [clampInt32]; omega
    have changed : (-2147483648 : Int) ≠ x := by omega
    simp [accEnterInt, setSat, sum, Int.not_lt.mpr notHigh, low, clamped, changed]
    rfl
  · have unchanged : clampInt32 x = x := by simp only [clampInt32]; omega
    simp [accEnterInt, sum, Int.not_lt.mpr notHigh, Int.not_lt.mpr notLow, unchanged]
    rfl

/-- A run of passes: each adds to the value that the clamp before it left. -/
theorem accEnterInt_foldlM_run (ts : List Int) (a : Word32) (fl : Flags) :
    ((ts.foldlM accEnterInt a).run fl).1.toInt = ts.foldl clampAdd a.toInt ∧
    ((ts.foldlM accEnterInt a).run fl).2 = { fl with sat := fl.sat || someClamp a.toInt ts } := by
  induction ts generalizing a fl with
  | nil => exact ⟨rfl, by simp only [someClamp_nil, Bool.or_false]; rfl⟩
  | cons t ts ih =>
    obtain ⟨value, flags⟩ := ih (BitVec.ofInt 32 (clampAdd a.toInt t))
      { fl with sat := fl.sat || decide (clampInt32 (a.toInt + t) ≠ a.toInt + t) }
    rw [List.foldlM_cons, StateT.run_bind, accEnterInt_run]
    rw [clampAdd, toInt_ofInt_clampInt32] at value flags
    exact ⟨value, by rw [someClamp_cons, ← Bool.or_assoc]; exact flags⟩

/-- Settles O55: a pass sum by `intPassSum_numOfInt`, a run of passes by induction on its pass sums. -/
theorem integerPassesSumAndClamp : Obligations.IntegerPassesSumAndClamp :=
  ⟨intPassSum_numOfInt, accEnterInt_foldlM_run⟩

end Sys2Proof.Machine
end

section
/-! PROOFS. Ends of commands ring by ring (R353, R364), and pawls: PAWL_TAKE, PAWL_GIVE and PAWL_TAKE_TIMEOUT (R212). -/
namespace Sys2Proof.Machine

/-! ## Ends of commands: what they write and what they leave -/

section
variable (s : State) (f r : Nat) (st : Status) (res : Word32)

/-- Every other ring keeps its command. -/
theorem State.running_setRunning_ne (g q : Nat) (v : Option Running) (other : g ≠ f ∨ q ≠ r) :
    (s.setRunning f r v).running g q = s.running g q := by
  simp only [State.setRunning, State.running, State.sq_setSq_ne s f r g q _ other]

/-- With no command on the ring, only the order of completion advances. -/
theorem State.finish_of_idle (idle : s.running f r = none) : s.finish f r st res = s.ended := by
  simp [State.finish, State.modRunning, idle]

@[simp] theorem State.finish_leaves :
    (s.finish f r st res).mem = s.mem ∧ (s.finish f r st res).hostMem = s.hostMem ∧
    (∀ n, (s.finish f r st res).pawl n = s.pawl n) ∧ (∀ p i, (s.finish f r st res).setCtx p i = s.setCtx p i) := by
  cases run : s.running f r with
  | none => rw [s.finish_of_idle f r st res run]; exact ⟨rfl, rfl, fun _ => rfl, fun _ _ => rfl⟩
  | some c => rw [s.finish_of_running f r c st res run]; exact ⟨rfl, rfl, fun _ => rfl, fun _ _ => rfl⟩

theorem State.running_finish_ne (g q : Nat) (other : g ≠ f ∨ q ≠ r) :
    (s.finish f r st res).running g q = s.running g q := by
  cases run : s.running f r with
  | none => rw [s.finish_of_idle f r st res run]; rfl
  | some c =>
    rw [s.finish_of_running f r c st res run]
    exact s.ended.running_setRunning_ne f r g q _ other

/-- A command with no end yet takes the status and the RESULT as given (R366). -/
theorem State.running_finish {c : Running} (run : s.running f r = some c) (going : c.done = none) :
    (s.finish f r st res).running f r =
      some { c with done := some (c.statusOf st, res), wait := .none, doneAt := s.ends } := by
  simp [s.finish_of_running f r c st res run, State.endedWith, going, mergeEnd]

/-- A check turns a command away; where the results table gives its RESULT, no free value is drawn (R387). -/
theorem State.fail_of_running {c : Running} (run : s.running f r = some c) (known : s.failResult c.desc = (res, s)) :
    s.fail f r st = s.turnedAway f r c st res := by
  simp only [State.fail, run, known, State.turnedAway]

end

/-! ## Passing a pawl on (R212, R213) -/

theorem Taker.ring_ne_iff (f r g q : Nat) : Taker.ring f r ≠ .ring g q ↔ f ≠ g ∨ r ≠ q := by
  rw [Ne, Taker.ring.injEq, not_and_or]

section
variable (s : State) (n : Nat) (t : Taker)

/-- A pawl whose queue is empty becomes FREE. -/
theorem State.passPawl_of_nil (broken : Bool) (empty : (s.pawl n).queue = []) :
    s.passPawl n broken = s.setPawl n { s.pawl n with holder := none, broken := broken } := by
  simp only [State.passPawl, empty]

/-- A pawl with a queue goes to its head. -/
theorem State.passPawl_of_cons (broken : Bool) (ts : List Taker) (queued : (s.pawl n).queue = t :: ts) :
    s.passPawl n broken = (s.setPawl n { holder := some t, broken := false, queue := ts }).grantPawl t broken := by
  simp only [State.passPawl, queued]

/-- A grant without BROKEN writes no memory and no pawl. -/
theorem State.grantPawl_leaves :
    (s.grantPawl t false).mem = s.mem ∧ (s.grantPawl t false).hostMem = s.hostMem ∧
    (∀ m, (s.grantPawl t false).pawl m = s.pawl m) := by
  cases t with
  | ring g q => simp [State.grantPawl]
  | set p i => exact ⟨rfl, rfl, fun _ => rfl⟩

/-- A grant to another taker leaves a ring's command. -/
theorem State.running_grantPawl_ne (f r : Nat) (other : t ≠ .ring f r) :
    (s.grantPawl t false).running f r = s.running f r := by
  cases t with
  | ring g q =>
    have apart := (Taker.ring_ne_iff f r g q).1 other.symm
    exact s.running_finish_ne g q .ok 0 f r apart
  | set p i => rfl

/-- A set that is granted a pawl holds it. -/
theorem State.setCtx_grantPawl (p i : Nat) : ((s.grantPawl (.set p i) false).setCtx p i).pawl = .held := by
  simp [State.grantPawl]

end

/-! ## Ends of pawl commands (R387) -/

section
variable {s : State} {f r : Nat} {c : Running} {o : Opcode}

/-- A pawl command that a check turns away has RESULT 0 (R387). -/
theorem State.fail_of_pawlCommand (fresh : s.fresh f r o = some c) (pawl : o = .pawlTake ∨ o = .pawlGive) (st : Status) :
    s.fail f r st = s.turnedAway f r c st 0 := by
  obtain ⟨run, -, -, op, -⟩ := (s.fresh_iff f r o c).1 fresh
  apply s.fail_of_running f r st 0 run
  rcases pawl with rfl | rfl <;> simp only [State.failResult, op]

/-- A ring's command ends after a write of a pawl. -/
theorem State.finish_setPawl (run : s.running f r = some c) (n : Nat) (v : Pawl) (st : Status) (res : Word32) :
    (s.setPawl n v).finish f r st res = (s.setPawl n v).endedWith f r c st res :=
  (s.setPawl n v).finish_of_running f r c st res run

end

/-! ## PAWL_TAKE (R212, R379) -/

section
variable {s : State} {f r : Nat} {c : Running} (fresh : s.fresh f r .pawlTake = some c)

include fresh in
theorem State.pawlTake_outside (outside : ¬inCarve (s.pawlCarve (s.partOf f)) (c.desc.op0 9 0) = true) :
    s.pawlTake f r c = s.turnedAway f r c .access 0 := by
  simp [State.pawlTake, outside, State.fail_of_pawlCommand fresh]

variable (mine : inCarve (s.pawlCarve (s.partOf f)) (c.desc.op0 9 0) = true)

include fresh mine in
theorem State.pawlTake_from_holder (holds : (s.pawl (c.desc.op0 9 0)).holder = some (.ring f r)) :
    s.pawlTake f r c = s.turnedAway f r c .state 0 := by
  simp [State.pawlTake, mine, holds, State.fail_of_pawlCommand fresh]

include fresh mine in
theorem State.pawlTake_of_free (free : (s.pawl (c.desc.op0 9 0)).holder = none) :
    s.pawlTake f r c =
      (s.setPawl (c.desc.op0 9 0) { s.pawl (c.desc.op0 9 0) with holder := some (.ring f r), broken := false }).endedWith
        f r c (if (s.pawl (c.desc.op0 9 0)).broken then .broken else .ok) 0 := by
  have run := ((s.fresh_iff f r _ c).1 fresh).1
  simp [State.pawlTake, mine, free, State.finish_setPawl run]

variable {h : Taker} (held : (s.pawl (c.desc.op0 9 0)).holder = some h) (other : h ≠ .ring f r)

include fresh mine held other in
theorem State.pawlTake_of_held_at_once (now : c.desc.timeout10 = 0) :
    s.pawlTake f r c = s.endedWith f r c .timeout 0 := by
  have run := ((s.fresh_iff f r _ c).1 fresh).1
  simp [State.pawlTake, mine, held, other, now, s.finish_of_running f r c _ _ run]

include mine held other in
theorem State.pawlTake_of_held_joins (later : c.desc.timeout10 ≠ 0) :
    s.pawlTake f r c =
      (s.setPawl (c.desc.op0 9 0) { s.pawl (c.desc.op0 9 0) with
        queue := (s.pawl (c.desc.op0 9 0)).queue ++ [.ring f r] }).setRunning f r
        (some { c with wait := .pawl (c.desc.op0 9 0) }) := by
  simp [State.pawlTake, mine, held, other, later]

end

/-! ## PAWL_GIVE (R212) -/

section
variable {s : State} {f r : Nat} {c : Running} (fresh : s.fresh f r .pawlGive = some c)

include fresh in
theorem State.pawlGive_outside (outside : ¬inCarve (s.pawlCarve (s.partOf f)) (c.desc.op0 9 0) = true) :
    s.pawlGive f r c = s.turnedAway f r c .access 0 := by
  simp [State.pawlGive, outside, State.fail_of_pawlCommand fresh]

variable (mine : inCarve (s.pawlCarve (s.partOf f)) (c.desc.op0 9 0) = true)

include fresh mine in
theorem State.pawlGive_from_other (other : (s.pawl (c.desc.op0 9 0)).holder ≠ some (.ring f r)) :
    s.pawlGive f r c = s.turnedAway f r c .state 0 := by
  simp [State.pawlGive, mine, other, State.fail_of_pawlCommand fresh]

variable (holds : (s.pawl (c.desc.op0 9 0)).holder = some (.ring f r))

include mine holds in
/-- A give from the holder passes the pawl on. -/
theorem State.pawlGive_from_holder :
    s.pawlGive f r c = (s.passPawl (c.desc.op0 9 0) false).finish f r .ok 0 := by
  simp [State.pawlGive, mine, holds]

include fresh mine holds in
theorem State.pawlGive_frees (empty : (s.pawl (c.desc.op0 9 0)).queue = []) :
    s.pawlGive f r c =
      (s.setPawl (c.desc.op0 9 0) { s.pawl (c.desc.op0 9 0) with holder := none, broken := false }).endedWith
        f r c .ok 0 := by
  have run := ((s.fresh_iff f r _ c).1 fresh).1
  rw [State.pawlGive_from_holder mine holds, s.passPawl_of_nil _ _ empty, State.finish_setPawl run]

end

/-- The pawl passes to the head of its queue: what becomes of the pawl, of the giving command and of the taker, and what is left. -/
theorem State.passPawl_then_finish {s : State} {f r n : Nat} {c : Running} {t : Taker} {ts : List Taker}
    (run : s.running f r = some c) (unwaiting : c.wait = .none) (going : c.done = none)
    (queued : (s.pawl n).queue = t :: ts) (other : t ≠ .ring f r) :
    let u := (s.passPawl n false).finish f r .ok 0
    u.pawl n = { holder := some t, broken := false, queue := ts } ∧
    (∃ k, u.running f r = some { c with done := some (c.statusOf .ok, 0), doneAt := k }) ∧
    u.mem = s.mem ∧ u.hostMem = s.hostMem ∧ (∀ m, m ≠ n → u.pawl m = s.pawl m) ∧
    (∀ g q k, t = .ring g q → s.running g q = some k → k.done = none →
      u.running g q = some { k with done := some (k.statusOf .ok, 0), wait := .none, doneAt := s.ends }) ∧
    (∀ p i, t = .set p i → (u.setCtx p i).pawl = .held) := by
  intro u
  let v := s.setPawl n { holder := some t, broken := false, queue := ts }
  have granted : s.passPawl n false = v.grantPawl t false := s.passPawl_of_cons n t false ts queued
  obtain ⟨mem, hostMem, pawls⟩ := v.grantPawl_leaves t
  obtain ⟨finMem, finHostMem, finPawls, finCtx⟩ := (v.grantPawl t false).finish_leaves f r .ok 0
  simp only [u, granted]
  refine ⟨?_, ⟨(v.grantPawl t false).ends, ?_⟩, finMem.trans mem, finHostMem.trans hostMem, fun m apart => ?_, ?_, ?_⟩
  · rw [finPawls, pawls, s.pawl_setPawl]
  · have still : (v.grantPawl t false).running f r = some c := (v.running_grantPawl_ne t f r other).trans run
    rw [(v.grantPawl t false).running_finish f r .ok 0 still going, ← unwaiting]
  · rw [finPawls, pawls, s.pawl_setPawl_ne n m _ apart]
  · rintro g q k rfl taker waits
    have apart := (Taker.ring_ne_iff g q f r).1 other
    rw [(v.grantPawl (.ring g q) false).running_finish_ne f r .ok 0 g q apart]
    exact v.running_finish g q .ok 0 taker waits
  · rintro p i rfl
    rw [finCtx, v.setCtx_grantPawl]

/-! ## PAWL_TAKE_TIMEOUT (R212, R368) -/

section
variable {s : State} {f r m : Nat} {c : Running} (run : s.running f r = some c) (queued : c.wait = .pawl m)
include run queued

theorem State.pawlTimeout_leaves_queue (limit : c.desc.timeout10 ≠ 0xFFFF_FFFF) :
    s.pawlTimeout f r = (s.setPawl m
      { s.pawl m with queue := (s.pawl m).queue.filter (fun t => t ≠ .ring f r) }).endedWith f r c .timeout 0 := by
  simp [State.pawlTimeout, run, queued, noLimit, limit, State.finish_setPawl run]

theorem State.pawlTimeout_without_limit (unlimited : c.desc.timeout10 = 0xFFFF_FFFF) : s.pawlTimeout f r = s := by
  simp [State.pawlTimeout, run, queued, noLimit, unlimited]

end

/-! ## The pawl commands -/

/-- Settles O38, clause by clause: each command by its branches, a give to a queue by `State.passPawl_then_finish`. -/
theorem pawlsFollowTheirRules : Obligations.PawlsFollowTheirRules := by
  intro s f r c n x me mine
  refine ⟨fun fresh => ?take, fun fresh => ?give, fun m run queued _ => ?timeout⟩
  case take =>
    have effect : exec (.pawlTake f r) s = .next (s.pawlTake f r c) :=
      congrArg _ (s.runCmd_of_fresh f r .pawlTake _ c fresh)
    rw [effect]
    refine ⟨fun outside => ?_, fun inside holds => ?_, fun inside free => ?_,
      fun h inside held other => ⟨fun now => ?_, fun later => ?_⟩⟩
    · rw [State.pawlTake_outside fresh outside]
    · rw [State.pawlTake_from_holder fresh inside holds]
    · rw [State.pawlTake_of_free fresh inside free]
    · rw [State.pawlTake_of_held_at_once fresh inside held other now]
    · rw [State.pawlTake_of_held_joins inside held other later]
  case give =>
    have effect : exec (.pawlGive f r) s = .next (s.pawlGive f r c) :=
      congrArg _ (s.runCmd_of_fresh f r .pawlGive _ c fresh)
    rw [effect]
    refine ⟨fun outside => ?_, fun inside other => ?_, fun inside holds empty => ?_,
      fun t ts inside holds queued other => ⟨_, congrArg _ (State.pawlGive_from_holder inside holds), ?_⟩⟩
    · rw [State.pawlGive_outside fresh outside]
    · rw [State.pawlGive_from_other fresh inside other]
    · rw [State.pawlGive_frees fresh inside holds empty]
    · obtain ⟨run, unwaiting, going, -, -⟩ := (s.fresh_iff f r _ c).1 fresh
      exact State.passPawl_then_finish run unwaiting going queued other
  case timeout =>
    have effect : exec (.pawlTakeTimeout f r) s = .next (s.pawlTimeout f r) := rfl
    rw [effect]
    refine ⟨fun limit => ?_, fun unlimited => ?_⟩
    · rw [State.pawlTimeout_leaves_queue run queued limit]
    · rw [State.pawlTimeout_without_limit run queued unlimited]

end Sys2Proof.Machine
end

section
/-! PROOFS. The kept halt record (R242): the order of the records, what a marker slot leaves of the link engine, the record in a halt
marker (R220). -/
namespace Sys2Proof.Machine

/-! ## The order of halt records (R242) -/

/-- What R242 compares, in its order: HALT_TURN, HALT_ORIGIN, HALT_REASON. -/
def Halt.key (a : Halt) : ℕ ×ₗ ℕ ×ₗ ℕ := toLex (a.turn.toNat, toLex (a.origin, a.reason.toNat))

theorem Halt.key_lt_iff (a b : Halt) :
    a.key < b.key ↔ a.turn.toNat < b.turn.toNat ∨ (a.turn = b.turn ∧ (a.origin < b.origin ∨
      (a.origin = b.origin ∧ a.reason.toNat < b.reason.toNat))) := by
  simp only [Halt.key, Prod.Lex.toLex_lt_toLex, BitVec.toNat_inj]

theorem Halt.key_eq_iff (a b : Halt) :
    a.key = b.key ↔ a.turn = b.turn ∧ a.origin = b.origin ∧ a.reason = b.reason := by
  simp only [Halt.key, toLex_inj, Prod.mk.injEq, BitVec.toNat_inj]

theorem Halt.before_iff (a b : Halt) : a.before b = true ↔ a.key < b.key := by
  rw [Halt.key_lt_iff]
  rcases eq_or_ne a.turn b.turn with turn | turn
  · rcases eq_or_ne a.origin b.origin with origin | origin
    · simp [Halt.before, turn, origin, BitVec.lt_def]
    · simp [Halt.before, turn, origin]
  · simp [Halt.before, turn, BitVec.lt_def]

@[simp] theorem keepHalt_none (n : Halt) : keepHalt none n = some n := rfl

theorem keepHalt_some (o n : Halt) : keepHalt (some o) n = if n.key < o.key then some n else some o := by
  simp only [keepHalt, Halt.before_iff]

/-- Two records may become known in either order, unless they tie and differ. -/
theorem keepHalt_right_comm (a b : Halt) (tie : a.key = b.key → a = b) (o : Option Halt) :
    keepHalt (keepHalt o a) b = keepHalt (keepHalt o b) a := by
  have first : keepHalt (some a) b = keepHalt (some b) a := by
    rcases lt_trichotomy a.key b.key with lt | eq | gt
    · simp [keepHalt_some, lt, lt.not_gt]
    · rw [tie eq]
    · simp [keepHalt_some, gt, gt.not_gt]
  cases o with
  | none => exact first
  | some o =>
    rcases lt_or_ge a.key o.key with aLt | aGe <;> rcases lt_or_ge b.key o.key with bLt | bGe
    · simpa [keepHalt_some o, aLt, bLt] using first
    · simp [keepHalt_some, aLt, bGe.not_gt, (aLt.trans_le bGe).not_gt]
    · simp [keepHalt_some, bLt, aGe.not_gt, (bLt.trans_le aGe).not_gt]
    · simp [keepHalt_some, aGe.not_gt, bGe.not_gt]

/-! ## A failure of this module (R242), a condition that does not fail -/

theorem State.halt_linkFail (s : State) (p : Nat) (reason : BitVec 8) (up : s.linkUp = true) :
    (s.linkFail p reason).leat.halt =
      keepHalt s.leat.halt { turn := s.leat.turn, origin := s.moduleId.toNat, port := p, reason := reason } := by
  simp [State.linkFail, up]

theorem State.failIf_of_false (s : State) (p : Nat) (reason : BitVec 8) {b : Bool} (clear : b = false) :
    s.failIf b p reason = s := by
  rw [clear]; rfl

/-! ## A marker slot: the lanes (R219, R220, R231) -/

/-- The state with other ports. -/
def State.withPorts (s : State) (t : Table Port) : State := { s with leat := { s.leat with ports := t } }

/-- Up to the fourth uncorrectable codeword of a lane in a turn, the lane is only counted. -/
theorem State.countBad_of_few (s : State) (p lane : Nat) (few : (s.port p).bad.countP (· == lane) < 4) :
    s.countBad p lane = s.setPort p { s.port p with bad := (s.port p).bad ++ [lane] } := by
  have noFifth : decide (4 ≤ ((s.port p).bad.filter (fun l => l == lane)).length) = false := by
    rw [← List.countP_eq_length_filter]
    exact decide_eq_false few.not_ge
  rw [State.countBad, State.failIf_of_false _ _ _ noFifth]

/-- Different lanes, none of them with its fifth uncorrectable codeword, change ports alone, and no latency. -/
theorem State.foldl_countBad_of_few (p : Nat) (l : List Nat) (different : l.Nodup) (s : State)
    (few : ∀ j ∈ l, (s.port p).bad.countP (· == j) < 4) :
    ∃ t, l.foldl (fun s j => s.countBad p j) s = s.withPorts t ∧ ((s.withPorts t).port p).latency = (s.port p).latency := by
  induction l generalizing s with
  | nil => exact ⟨s.leat.ports, rfl, rfl⟩
  | cons i l ih =>
    obtain ⟨fresh, different⟩ := List.nodup_cons.1 different
    have counted := s.countBad_of_few p i (few i List.mem_cons_self)
    obtain ⟨t, rest, latency⟩ := ih different (s.countBad p i) (fun j mem => by
      have other : (i == j) = false := by simpa using fun same : i = j => fresh (same ▸ mem)
      simpa [counted, List.countP_append, other] using few j (List.mem_cons_of_mem i mem))
    rw [counted] at rest latency
    refine ⟨t, by rw [List.foldl_cons, counted]; exact rest, latency.trans ?_⟩
    rw [State.port_setPort]

/-- The first hit of a search through an initial segment of the numbers. -/
theorem findSome?_range_of_first {α : Type} {f : Nat → Option α} {n i : Nat} {b : α} (lt : i < n) (hit : f i = some b)
    (before : ∀ j < i, f j = none) : (List.range n).findSome? f = some b := by
  obtain ⟨k, rfl⟩ := Nat.exists_eq_add_of_lt lt
  have missed : (List.range i).findSome? f = none := List.findSome?_eq_none_iff.2 (fun j mem => before j (List.mem_range.1 mem))
  rw [Nat.add_assoc, List.range_add, List.findSome?_append, missed, List.range_succ_eq_map]
  simp [hit]

section
variable {s : State} {p : Nat} {lanes : List (Option (BitVec 20 × List Byte))}

/-- A header whose SLOT, LANE and, outside SYNC, TURN_LO are the receiver's own is aligned (R219, R225). -/
theorem State.misaligned_eq_false {lane : Nat} {h : BitVec 20} (slot : h.toNat / 2 ^ 10 % 128 = 0)
    (own : h.toNat / 2 ^ 7 % 8 = lane) (turn : s.leat.state = .sync ∨ h.toNat / 2 % 64 = s.leat.turn.toNat % 64) :
    s.misaligned lane h = false := by
  have slot' : bitsOf h.toNat 16 10 = 0 := slot
  have own' : bitsOf h.toNat 9 7 = lane := own
  have turn' : s.leat.state = .sync ∨ bitsOf h.toNat 6 1 = s.leat.turn.toNat % 64 := turn
  rcases turn' with sync | turn'
  · simp [State.misaligned, slot', own', sync]
  · simp [State.misaligned, slot', own', turn']

/-- Aligned lanes, few uncorrectable codewords and a marker on lane `i` first: the slot is what lane `i` carries. -/
theorem State.markerSlot_of_sound {i : Nat} {hd : BitVec 20} {bs : List Byte} (arrival : Int)
    (lt : i < 8) (hit : lanes.getD i none = some (hd, bs)) (type : hd.toNat / 2 ^ 17 % 8 = 2)
    (before : ∀ j < i, ∀ h' bs', lanes.getD j none = some (h', bs') → h'.toNat / 2 ^ 17 % 8 ≠ 2)
    (few : ∀ j < 8, lanes.getD j none = none → (s.port p).bad.countP (· == j) < 4)
    (aligned : ∀ j < 8, ∀ h' bs', lanes.getD j none = some (h', bs') → h'.toNat / 2 ^ 10 % 128 = 0 ∧ h'.toNat / 2 ^ 7 % 8 = j ∧
      (s.leat.state = .sync ∨ h'.toNat / 2 % 64 = s.leat.turn.toNat % 64))
    (live : s.leat.state ≠ .idle) (trained : (s.port p).trained = true) :
    ∃ t, s.markerSlot p lanes arrival = (s.withPorts t).marker p bs arrival ∧
      ((s.withPorts t).port p).latency = (s.port p).latency := by
  obtain ⟨t, counted, latency⟩ := s.foldl_countBad_of_few p ((List.range 8).filter (fun j => (lanes.getD j none).isNone))
    (List.nodup_range.filter _) (fun j mem => by
      obtain ⟨lt, undecoded⟩ := List.mem_filter.1 mem
      exact few j (List.mem_range.1 lt) (Option.isNone_iff_eq_none.1 undecoded))
  refine ⟨t, ?_, latency⟩
  have found : (List.range 8).findSome? (fun j => (lanes.getD j none).bind (fun y =>
      if bitsOf y.1.toNat 19 17 = 2 then some y.2 else none)) = some bs := by
    have here : bitsOf hd.toNat 19 17 = 2 := type
    refine findSome?_range_of_first lt (by rw [hit]; simp [here]) (fun j earlier => ?_)
    cases lane : lanes.getD j none with
    | none => rfl
    | some y =>
      have noMarker : bitsOf y.1.toNat 19 17 ≠ 2 := before j earlier y.1 y.2 lane
      simp [noMarker]
  have receiving : ¬(s.leat.state = .idle ∨ (!(s.port p).trained) = true) := by simp [live, trained]
  rw [State.markerSlot, if_neg receiving]
  simp only [List.filter_map, List.foldl_map, List.any_map, List.findSome?_map, Function.comp_def]
  rw [counted, found, State.failIf_of_false _ _ _ (List.any_eq_false.2 fun j mem => ?_)]
  cases lane : lanes.getD j none with
  | none => exact Bool.false_ne_true
  | some y =>
    obtain ⟨slot, own, turn⟩ := aligned j (List.mem_range.1 mem) y.1 y.2 lane
    exact Bool.eq_false_iff.1 (State.misaligned_eq_false slot own (s := s.withPorts t) turn)

end

/-! ## The marker itself (R220, R223, R241, R242) -/

theorem fld_low (w : Word64) (hi : Nat) : fld w hi 0 = w.toNat % 2 ^ (hi + 1) := by
  rw [fld, bitsOf, Nat.pow_zero, Nat.div_one, Nat.sub_zero]

theorem State.halt_peerHalt (s : State) (bs : List Byte) :
    let v := (word64At bs 0x20).toNat
    (s.peerHalt bs).leat.halt = keepHalt s.leat.halt
      { turn := word64At bs 0x18, origin := v / 2 ^ 22 % 1024, port := v / 2 ^ 18 % 16, reason := BitVec.ofNat 8 (v % 256) } := by
  simp only [State.peerHalt, fld_low]
  rfl

section
variable (s : State) (p : Nat) (bs : List Byte)

/-- Credits change the ports alone. -/
theorem State.takeCredits_eq_withPorts : ∃ t, s.takeCredits p bs = s.withPorts t := by
  rw [State.takeCredits]
  refine List.foldlRecOn (motive := fun u => ∃ t, u = s.withPorts t) _ _ ⟨s.leat.ports, rfl⟩ ?_
  rintro u ⟨t, rfl⟩ c -
  exact ⟨_, rfl⟩

theorem State.halt_takeCredits :
    (s.takeCredits p bs).leat.halt = s.leat.halt ∧ (s.takeCredits p bs).leat.haltNext = s.leat.haltNext := by
  obtain ⟨t, credited⟩ := s.takeCredits_eq_withPorts p bs
  rw [credited]
  exact ⟨rfl, rfl⟩

/-- What a marker brings besides a peer's record changes neither the kept record nor the halt to come. -/
theorem State.halt_credits_replay (up run : Bool) :
    let u := if up then s.takeCredits p bs else s
    let v := if run then u.replay p bs else u
    v.leat.halt = s.leat.halt ∧ v.leat.haltNext = s.leat.haltNext := by
  intro u v
  have credited : u.leat.halt = s.leat.halt ∧ u.leat.haltNext = s.leat.haltNext := by
    cases up with
    | false => exact ⟨rfl, rfl⟩
    | true => exact s.halt_takeCredits p bs
  cases run with
  | false => exact credited
  | true => exact credited

end

/-- A marker that shows no failure and whose STATE is 2: the earlier record is kept (R242) and the module halts (R241). -/
theorem State.marker_of_halt {s : State} {p : Nat} {bs : List Byte} {arrival : Int}
    (halted : fld (word64At bs 0x10) 15 14 = 2) (tag : word64At bs 8 = s.leat.sched.tag)
    (peer : fld (word64At bs 0x10) 9 0 = s.leat.sched.peers.getD p 0) (root : fld (word64At bs 0x10) 25 16 = s.leat.sched.root)
    (run : s.leat.state = .run → word64At bs 0 = s.leat.turn ∧ (arrival - 12 * ((s.port p).latency : Int)).natAbs ≤ 480) :
    (s.marker p bs arrival).leat.halt = (s.peerHalt bs).leat.halt ∧ (s.marker p bs arrival).leat.haltNext = s.linkUp := by
  have inRun (b : Bool) (clear : s.leat.state = .run → b = false) : ((s.leat.state == .run) && b) = false := by
    by_cases running : s.leat.state = .run
    · rw [clear running, Bool.and_false]
    · rw [beq_eq_false_iff_ne.2 running, Bool.false_and]
  have count (x : Port) : ((s.leat.state == .run) &&
      (fld (word64At bs 0x10) 15 14 == 0 || word64At bs 0 != (s.setPort p x).leat.turn)) = false :=
    inRun _ fun running => by rw [halted]; exact bne_eq_false_iff_eq.2 (run running).1
  have skew : ((s.leat.state == .run) && decide ((arrival - 12 * ((s.port p).latency : Int)).natAbs > 480)) = false :=
    inRun _ fun running => decide_eq_false (run running).2.not_gt
  have sameTag (x : Port) : (word64At bs 8 != (s.setPort p x).leat.sched.tag) = false := bne_eq_false_iff_eq.2 tag
  have samePeer (x : Port) : (fld (word64At bs 0x10) 9 0 != (s.setPort p x).leat.sched.peers.getD p 0) = false :=
    bne_eq_false_iff_eq.2 peer
  have sameRoot (x : Port) : (fld (word64At bs 0x10) 25 16 != (s.setPort p x).leat.sched.root) = false :=
    bne_eq_false_iff_eq.2 root
  simp only [State.marker]
  rw [State.failIf_of_false _ _ _ (count _), State.failIf_of_false _ _ _ (sameTag _),
    State.failIf_of_false _ _ _ (samePeer _), State.failIf_of_false _ _ _ skew,
    State.failIf_of_false _ _ _ (sameRoot _), if_pos halted]
  exact State.halt_credits_replay _ p bs _ _

/-! ## The record in a marker (R220) -/

@[simp] theorem length_natLe (n w : Nat) : (natLe n w).length = n := by
  induction n generalizing w with
  | zero => rfl
  | succ n ih => rw [natLe, List.length_cons, ih]

theorem leNat_natLe (n w : Nat) : leNat (natLe n w) = w % 256 ^ n := by
  induction n generalizing w with
  | zero => rw [Nat.pow_zero, Nat.mod_one]; rfl
  | succ n ih => rw [natLe, leNat, ih, Nat.pow_succ', Nat.mod_mul, BitVec.toNat_ofNat]

/-- A 64-bit word reads back from where it stands in a byte image. -/
theorem word64At_of_append (l r : List Byte) (w : Nat) {o : Nat} (here : l.length = o) :
    word64At (l ++ (natLe 8 w ++ r)) o = BitVec.ofNat 64 w := by
  have word : ((l ++ (natLe 8 w ++ r)).drop o).take 8 = natLe 8 w := by
    rw [List.drop_left' here, List.take_left' (length_natLe 8 w)]
  rw [word64At, word, leNat_natLe]
  exact BitVec.eq_of_toNat_eq (by simp)

section
variable {s : State} {h : Halt} (p : Nat) (halted : s.leat.state = .halt) (kept : s.leat.halt = some h)
include halted kept

/-- The marker of a halted module shows the kept record: HALT_TURN at 0x18, the word of the other fields at 0x20. -/
theorem State.markerBytes_of_halt : ∃ l r, s.markerBytes p =
      l ++ (natLe 8 h.turn.toNat ++ (natLe 8 (h.reason.toNat + h.port * 2 ^ 18 + h.origin * 2 ^ 22) ++ r)) ∧
    l.length = 0x18 := by
  rw [State.markerBytes]
  simp only [if_pos halted, kept, Option.getD_some]
  exact ⟨natLe 8 _ ++ natLe 8 _ ++ natLe 8 _, _, by simp only [List.append_assoc]; rfl,
    by simp only [List.length_append, length_natLe]⟩

theorem State.haltTurn_markerBytes : word64At (s.markerBytes p) 0x18 = h.turn := by
  obtain ⟨l, r, bytes, length⟩ := State.markerBytes_of_halt p halted kept
  rw [bytes, word64At_of_append l _ _ length, BitVec.ofNat_toNat, BitVec.setWidth_eq]

theorem State.haltWord_markerBytes :
    word64At (s.markerBytes p) 0x20 = BitVec.ofNat 64 (h.reason.toNat + h.port * 2 ^ 18 + h.origin * 2 ^ 22) := by
  obtain ⟨l, r, bytes, length⟩ := State.markerBytes_of_halt p halted kept
  rw [bytes, ← List.append_assoc]
  exact word64At_of_append _ r _ (by rw [List.length_append, length, length_natLe])

/-- The fields of the record read back from their word. -/
theorem State.haltFields_markerBytes (origin : h.origin < 1024) (port : h.port < 16) :
    let w := (word64At (s.markerBytes p) 0x20).toNat
    w % 256 = h.reason.toNat ∧ w / 2 ^ 18 % 16 = h.port ∧ w / 2 ^ 22 % 1024 = h.origin := by
  have reason : h.reason.toNat < 256 := h.reason.isLt
  rw [State.haltWord_markerBytes p halted kept, BitVec.toNat_ofNat]
  refine ⟨?_, ?_, ?_⟩ <;> omega

end

/-! ## The halt record -/

/-- Settles O48, clause by clause: which of two records is kept by `Halt.before_iff`, a peer's record through
`State.markerSlot_of_sound` and `State.marker_of_halt`, the order of news by `keepHalt_right_comm`. -/
theorem earliestHaltRecordIsKept : Obligations.EarliestHaltRecordIsKept := by
  refine ⟨fun o n => ⟨rfl, fun earlier => ?earlier, fun later => ?later⟩, ?peer,
    fun s p reason up => s.halt_linkFail p reason up,
    fun s p h halted kept origin port => ⟨State.haltTurn_markerBytes p halted kept,
      State.haltFields_markerBytes p halted kept origin port⟩,
    fun l l' perm ties => ?order⟩
  case earlier => rw [keepHalt_some, if_pos ((n.key_lt_iff o).2 earlier)]
  case later => rw [keepHalt_some, if_neg (mt (n.key_lt_iff o).1 later)]
  case peer =>
    refine fun s p lanes arrival i hd bs lt hit type before few aligned live trained halted tag peer root run => ?_
    obtain ⟨t, slot, latency⟩ := State.markerSlot_of_sound arrival lt hit type before few aligned live trained
    have effect : exec (.markerReceive p lanes arrival) s = .next ((s.withPorts t).marker p bs arrival) :=
      congrArg Host.Outcome.next slot
    obtain ⟨kept, halts⟩ := State.marker_of_halt (s := s.withPorts t) (p := p) halted tag ((fld_low _ 9).trans peer) root
      (by rw [latency]; exact run)
    exact ⟨_, effect, kept.trans ((s.withPorts t).halt_peerHalt bs), halts⟩
  case order =>
    refine perm.foldl_eq' (fun a ha b hb o => keepHalt_right_comm a b (fun tie => ?_) o) none
    obtain ⟨turn, origin, reason⟩ := (a.key_eq_iff b).1 tie
    exact ties a ha b hb turn origin reason

end Sys2Proof.Machine
end

section
/-! PROOFS. Device memory in a module without stored errors (R158 to R160, R171, R390): a translation changes nothing, a write changes
the bytes it names; DAMSEL_SEED writes its stream record (R321). -/
namespace Sys2Proof.Machine

/-! ## Engine work that changes nothing (R158 to R160) -/

section
variable {α β : Type}

/-- Work goes on from what its first part answers. -/
theorem Run.bind_of_ok {m : Run α} {e e' : Eng} {x : α} (first : m.run.run e = (.ok x, e')) (k : α → Run β) :
    (m >>= k).run.run e = (k x).run.run e' := by
  rw [ExceptT.run_bind, StateT.run_bind, first]
  rfl

/-- Work that answers has no use for its handler. -/
theorem Run.tryCatch_of_ok {m : Run α} {e e' : Eng} {x : α} (answer : m.run.run e = (.ok x, e')) (k : Stop → Run α) :
    (tryCatch m k).run.run e = (.ok x, e') := by
  simp only [tryCatch, tryCatchThe, MonadExceptOf.tryCatch, ExceptT.tryCatch, ExceptT.run_mk]
  rw [StateT.run_bind, show StateT.run m e = (.ok x, e') from answer]
  rfl

theorem Run.forM_singleton (f : α → Run PUnit) (x : α) : [x].forM f = f x := bind_pure (f x)

/-- Where no stored error lies in the module, the work leaves its engine, and so the module, as it stands. -/
def Run.ReadOnly (m : Run α) : Prop := ∀ e : Eng, e.s.ecc = [] → (m.run.run e).2 = e

theorem Run.readOnly_pure (x : α) : (pure x : Run α).ReadOnly := fun _ _ => rfl

theorem Run.readOnly_throw (x : Stop) : (throw x : Run α).ReadOnly := fun _ _ => rfl

theorem Run.readOnly_getS : getS.ReadOnly := fun _ _ => rfl

theorem Run.readOnly_bind {m : Run α} {k : α → Run β} (first : m.ReadOnly) (rest : ∀ x, (k x).ReadOnly) :
    (m >>= k).ReadOnly := by
  intro e clean
  have same := first e clean
  rw [ExceptT.run_bind, StateT.run_bind]
  rcases run : m.run.run e with ⟨x | x, e'⟩ <;> rw [run] at same <;> subst same
  · rfl
  · exact rest x _ clean

theorem Run.readOnly_ite {c : Prop} [Decidable c] {x y : Run α} (yes : x.ReadOnly) (no : y.ReadOnly) :
    (if c then x else y : Run α).ReadOnly := by
  split
  · exact yes
  · exact no

/-- A check before the work that stops it or lets it go on. -/
theorem Run.readOnly_check {c : Prop} [Decidable c] (x : Stop) {k : PUnit → Run α} (rest : (k ⟨⟩).ReadOnly) :
    (if c then throw x >>= k else k ⟨⟩ : Run α).ReadOnly :=
  Run.readOnly_ite (Run.readOnly_bind (Run.readOnly_throw x) fun _ => rest) rest

end

/-! ## A translation changes nothing -/

theorem State.devRead_of_clean {s : State} (clean : s.ecc = []) (rec : FaultRec) (pa n : Nat) :
    s.devRead rec pa n = (s.mem.readN pa n, false, s) := by
  simp [State.devRead, clean, meetEcc]

theorem readStruct_of_clean (a : Acc) (va pa n : Nat) (e : Eng) (clean : e.s.ecc = []) :
    (readStruct a va pa n).run.run e = (.ok (e.s.mem.readN pa n), e) := by
  have here : getS.run.run e = (.ok e.s, e) := rfl
  rw [readStruct, Run.bind_of_ok here, State.devRead_of_clean clean]
  rfl

theorem readStruct_readOnly (a : Acc) (va pa n : Nat) : (readStruct a va pa n).ReadOnly :=
  fun e clean => congrArg Prod.snd (readStruct_of_clean a va pa n e clean)

theorem meetBuf_of_clean (kind h : Nat) (e : Eng) (clean : e.s.ecc = []) : (meetBuf kind h).run.run e = (.ok (), e) := by
  have here : getS.run.run e = (.ok e.s, e) := rfl
  rw [meetBuf, Run.bind_of_ok here, clean]
  obtain ⟨s, flags, device, wrote⟩ := e
  cases device <;> rfl

theorem mmuBuf_of_clean (a : Acc) (e : Eng) (clean : e.s.ecc = []) : (mmuBuf a).run.run e = (.ok (), e) := by
  let cleared : Eng := { e with device := false }
  have before : (get : Run Eng).run.run e = (.ok e, e) := rfl
  have clear : (modify (fun x : Eng => { x with device := false }) : Run PUnit).run.run e = (.ok (), cleared) := rfl
  have here : getS.run.run cleared = (.ok e.s, cleared) := rfl
  rw [mmuBuf, Run.bind_of_ok before, Run.bind_of_ok clear, Run.bind_of_ok here,
    Run.bind_of_ok (meetBuf_of_clean 3 _ cleared clean)]
  rfl

theorem mmuBuf_readOnly (a : Acc) : (mmuBuf a).ReadOnly := fun e clean => congrArg Prod.snd (mmuBuf_of_clean a e clean)

theorem walk_leaf_readOnly (e : Word64) (bits : Nat) {bad : Run (Word64 × Nat)} (fails : bad.ReadOnly) :
    (walk.leaf e bits bad).ReadOnly :=
  Run.readOnly_ite fails (Run.readOnly_ite fails (Run.readOnly_pure _))

theorem walk_readOnly (a : Acc) (va level table : Nat) : (walk a va level table).ReadOnly := by
  have bad : (throw { report := some (a.fault 1 va) } : Run (Word64 × Nat)).ReadOnly := Run.readOnly_throw _
  induction level generalizing table with
  | zero =>
    unfold walk
    refine Run.readOnly_bind Run.readOnly_getS fun s =>
      Run.readOnly_check _ (Run.readOnly_bind (readStruct_readOnly a va _ 8) fun bs => ?_)
    exact Run.readOnly_ite bad (walk_leaf_readOnly _ _ bad)
  | succ l ih =>
    unfold walk
    refine Run.readOnly_bind Run.readOnly_getS fun s =>
      Run.readOnly_check _ (Run.readOnly_bind (readStruct_readOnly a va _ 8) fun bs => ?_)
    refine Run.readOnly_ite bad (Run.readOnly_ite ?largePage ?nextLevel)
    case largePage => exact Run.readOnly_ite bad (walk_leaf_readOnly _ _ bad)
    case nextLevel => exact Run.readOnly_ite bad (ih _)

theorem translate_readOnly (a : Acc) (write : Bool) (va : Nat) : (translate a write va).ReadOnly := by
  unfold translate
  refine Run.readOnly_bind (mmuBuf_readOnly a) fun _ => Run.readOnly_bind Run.readOnly_getS fun s =>
    Run.readOnly_check _ (Run.readOnly_bind (walk_readOnly a va 3 _) fun leaf => Run.readOnly_bind Run.readOnly_getS fun s =>
      Run.readOnly_check _ ?_)
  refine Run.readOnly_ite ?host (Run.readOnly_ite ?remote ?device)
  case host => exact Run.readOnly_check _ (Run.readOnly_pure _)
  case remote => exact Run.readOnly_check _ (Run.readOnly_pure _)
  case device =>
    refine Run.readOnly_check _ ?_
    split
    · exact Run.readOnly_ite (Run.readOnly_pure _) (Run.readOnly_throw _)
    · exact Run.readOnly_pure _

/-- Where a run of bytes reaches device memory, the translation of its first byte says so and changes nothing. -/
theorem State.Reaches.translate_run {s : State} {a : Acc} {write : Bool} {va n pa : Nat} (reach : s.Reaches a write va n pa)
    (clean : s.ecc = []) (nonempty : 0 < n) (low : va < 2 ^ 48) :
    ∃ nc, (translate a write va).run.run { s := s } = (.ok (.dev pa, nc), { s := s }) := by
  obtain ⟨nc, e, run⟩ := reach 0 nonempty
  rw [Nat.add_zero, Nat.add_zero, Nat.mod_eq_of_lt low] at run
  have answer : ((translate a write va).run.run { s := s }).1 = .ok (.dev pa, nc) := congrArg Prod.fst run
  exact ⟨nc, Prod.ext answer (translate_readOnly a write va { s := s } clean)⟩

/-! ## A write to device memory (R171, R390) -/

/-- Two states agree in both memories, the stored errors, the order of completions and the running commands of all rings. -/
structure State.SameContents (s t : State) : Prop where
  mem     : t.mem = s.mem
  hostMem : t.hostMem = s.hostMem
  ecc     : t.ecc = s.ecc
  ends    : t.ends = s.ends
  running : ∀ f r, t.running f r = s.running f r

theorem State.SameContents.refl (s : State) : s.SameContents s := ⟨rfl, rfl, rfl, rfl, fun _ _ => rfl⟩

theorem State.SameContents.trans {s t u : State} (first : s.SameContents t) (next : t.SameContents u) : s.SameContents u :=
  ⟨next.mem.trans first.mem, next.hostMem.trans first.hostMem, next.ecc.trans first.ecc, next.ends.trans first.ends,
    fun f r => (next.running f r).trans (first.running f r)⟩

theorem State.sameContents_setHouse (s : State) (h : Nat) (v : HouseRegs) : s.SameContents (s.setHouse h v) :=
  ⟨rfl, rfl, rfl, rfl, fun _ _ => rfl⟩

/-- A write to a function's page set that leaves its submission rings. -/
theorem State.sameContents_setFn (s : State) (f : Nat) {v : Func} (rings : v.sqs = (s.fn f).sqs) :
    s.SameContents (s.setFn f v) := by
  refine ⟨rfl, rfl, rfl, rfl, fun g r => ?_⟩
  by_cases same : g = f
  · rw [State.running, State.running, State.sq, State.sq, same, State.fn_setFn, rings]
  · rw [State.running, State.running, State.sq, State.sq, State.fn_setFn_ne _ _ _ _ same]

theorem State.sameContents_message (s : State) (f v : Nat) : s.SameContents (s.message f v) := by
  rw [State.message]
  split
  · exact .refl s
  split
  · exact s.sameContents_setFn f rfl
  · exact ⟨rfl, rfl, rfl, rfl, fun _ _ => rfl⟩

theorem State.sameContents_notice (s : State) (f : Nat) (c : Cause) : s.SameContents (s.notice f c) := by
  have marked := s.sameContents_setFn f (v := { s.fn f with cause := (s.fn f).cause.mark c }) rfl
  rw [State.notice]
  split
  · exact .refl s
  split
  · exact marked.trans (State.sameContents_message _ f 16)
  · exact marked

theorem State.sameContents_evalWeir_pondCache (s : State) (h : House) : s.SameContents (s.evalWeir (.pondCache h)) := by
  have stepped (w : Weir) : s.SameContents (s.setWeir (.pondCache h) w) := s.sameContents_setHouse h _
  simp only [State.evalWeir, State.level]
  split
  · exact (stepped _).trans (State.sameContents_notice _ _ .weir)
  · exact stepped _

theorem State.writeBack_of_clean {s : State} (clean : s.ecc = []) (ls : List Nat) : s.writeBack ls = s := by
  simp only [State.writeBack, clean, List.filter_nil, List.map_nil, meetEcc, Table.drop, List.foldl_nil]
  rw [← clean]

theorem State.sameContents_dirtyLine {s : State} (clean : s.ecc = []) (h l : Nat) : s.SameContents (s.dirtyLine h l) := by
  have evaluated (t : State) (same : s.SameContents t) :
      s.SameContents (if (t.house h).pondWeir.beyondPond then t else t.evalWeir (.pondCache (houseIx h))) := by
    split
    · exact same
    · exact same.trans (t.sameContents_evalWeir_pondCache _)
  rw [State.dirtyLine, State.writeBack_of_clean clean]
  exact evaluated _ ⟨rfl, rfl, rfl, rfl, fun _ _ => rfl⟩

/-- Without stored errors the cache of a Pond keeps books of its dirty lines, and no more. -/
theorem State.sameContents_pondWrite {s : State} (clean : s.ecc = []) (noCache : Bool) (pa n : Nat) :
    s.SameContents (s.pondWrite noCache pa n) := by
  rw [State.pondWrite]
  split
  · exact .refl s
  refine List.foldlRecOn (motive := s.SameContents) _ _ (.refl s) ?_
  intro t same l _
  split
  · split
    · exact same
    · exact same.trans (State.sameContents_dirtyLine (same.ecc.trans clean) _ l)
  · exact same

/-- The state with other device memory. -/
def State.withMem (s : State) (m : Memory) : State := { s with mem := m }

theorem State.sameContents_devStore {s : State} (clean : s.ecc = []) (noCache : Bool) (pa : Nat) (bs : List Byte) :
    (s.withMem (s.mem.write pa bs)).SameContents (s.devStore noCache pa bs) := by
  have written : s.devWrite pa bs = s.withMem (s.mem.write pa bs) := by
    simp only [State.devWrite, State.withMem, clean, Table.drop, List.filter_nil]
  rw [State.devStore, written]
  exact State.sameContents_pondWrite (s := s.withMem (s.mem.write pa bs)) clean noCache pa bs.length

/-- Bytes written to memory read back. -/
theorem Memory.readN_write (m : Memory) (a : Nat) (bs : List Byte) : (m.write a bs).readN a bs.length = bs := by
  rw [Memory.readN_eq]
  refine List.ext_getElem (by simp) fun i _ lt => ?_
  rw [List.getElem_map, List.getElem_range, Memory.read_write_in m a bs i lt, List.getD_eq_getElem _ _ lt]

theorem Eng.sameContents_clearWritten (e : Eng) (clean : e.s.ecc = []) : e.s.SameContents e.clearWritten.s :=
  ⟨rfl, rfl, by rw [Eng.clearWritten, clean]; rfl, rfl, fun _ _ => rfl⟩

/-! ## A write within one page (R160) -/

theorem pieces_of_page {va n : Nat} (nonempty : 0 < n) (page : va % 4096 + n ≤ 4096) (low : va < 2 ^ 48) :
    pieces va n = [(va, 0, n)] := by
  have one : (va + n - 1) / 4096 + 1 - va / 4096 = 1 := by omega
  have first : max va (va / 4096 * 4096) = va := by omega
  have last : min (va + n) ((va / 4096 + 1) * 4096) = va + n := by omega
  simpa [pieces, one, first, last, nonempty.ne'] using low

theorem writeV_of_page {a : Acc} {va pa : Nat} {nc : Bool} {bs : List Byte} {e : Eng} (nonempty : 0 < bs.length)
    (page : va % 4096 + bs.length ≤ 4096) (low : va < 2 ^ 48)
    (leads : (translate a true va).run.run e = (.ok (.dev pa, nc), e)) :
    (writeV a va bs).run.run e = (.ok (), { e with s := e.s.devStore nc pa bs, wrote := e.wrote ++ [(pa, bs.length)] }) := by
  rw [writeV, pieces_of_page nonempty page low, Run.forM_singleton, Run.bind_of_ok leads]
  simp only [List.drop_zero, List.take_length]
  rfl

/-! ## DAMSEL_SEED (R320, R321) -/

theorem streamPage_of_dev {a : Acc} {va pa : Nat} {nc : Bool} {e : Eng}
    (leads : (translate a true va).run.run e = (.ok (.dev pa, nc), e)) : (streamPage a va).run.run e = (.ok true, e) := by
  rw [streamPage]
  exact Run.tryCatch_of_ok ((Run.bind_of_ok leads _).trans rfl) _

/-- The stream record that a DAMSEL_SEED writes: c0 to c3, KEY, and eight bytes of 0 (R320, R321). -/
def Desc.streamRecord (d : Desc) : List Byte :=
  natLe 8 0 ++ natLe 4 (d.field 0x20 31 0) ++ natLe 4 (d.op0 31 0) ++ natLe 8 (d.field 0x18 63 0) ++ natLe 8 0

theorem Desc.length_streamRecord (d : Desc) : d.streamRecord.length = 32 := by simp [Desc.streamRecord]

theorem Desc.streamRecord_eq (d : Desc) : d.streamRecord = natLe 4 0 ++ natLe 4 0 ++ natLe 4 ((wordAt d 4).toNat % 2 ^ 32) ++
    natLe 4 ((wordAt d 0).toNat / 2 ^ 32) ++ natLe 8 (wordAt d 3).toNat ++ natLe 8 0 := by
  have substream : d.field 0x20 31 0 = (wordAt d 4).toNat % 2 ^ 32 := fld_low _ 31
  have domain : d.op0 31 0 = (wordAt d 0).toNat / 2 ^ 32 := by
    simp only [Desc.op0, fld, bitsOf]
    omega
  have seed : d.field 0x18 63 0 = (wordAt d 3).toNat := (fld_low _ 63).trans (Nat.mod_eq_of_lt (wordAt d 3).isLt)
  rw [Desc.streamRecord, substream, domain, seed]
  rfl

theorem Desc.addr_lt (d : Desc) (o : Nat) : d.addr o < 2 ^ 48 :=
  (fld_low _ 47).trans_lt (Nat.mod_lt _ (Nat.two_pow_pos 48))

/-- The engine's work of a DAMSEL_SEED: it checks where the record lies, and writes it. -/
def Desc.writeStream (d : Desc) (a : Acc) : Run Bool := do
  if !(← streamPage a (d.addr 0x10)) then return false
  writeV a (d.addr 0x10) d.streamRecord
  return true

theorem State.damselSeed_of_written {s : State} {f : Nat} (r : Nat) {c : Running} {e : Eng}
    (work : (c.desc.writeStream (s.unnamedAcc f)).exec s.tick.tick = (.ok true, e)) :
    s.damselSeed f r c = e.s.finish f r .ok 0 := by
  simp only [Desc.writeStream, Desc.streamRecord] at work
  simp only [State.damselSeed, work]

/-- Where an aligned record lies in writable device memory, its 32 bytes are written and no other contents change. -/
theorem Desc.writeStream_of_reaches {s : State} {a : Acc} {d : Desc} {pa : Nat} (aligned : d.addr 0x10 % 32 = 0)
    (clean : s.ecc = []) (reach : s.Reaches a true (d.addr 0x10) 32 pa) :
    ∃ e, (d.writeStream a).exec s = (.ok true, e) ∧ (s.withMem (s.mem.write pa d.streamRecord)).SameContents e.s := by
  have low := d.addr_lt 0x10
  have length := d.length_streamRecord
  obtain ⟨nc, leads⟩ := reach.translate_run clean (by decide) low
  have written := writeV_of_page (bs := d.streamRecord) (by omega) (by omega) low leads
  have stored := State.sameContents_devStore clean nc pa d.streamRecord
  let e : Eng := { s := s.devStore nc pa d.streamRecord, wrote := [(pa, d.streamRecord.length)] }
  have work : (d.writeStream a).run.run { s := s } = (.ok true, e) :=
    (Run.bind_of_ok (streamPage_of_dev leads) _).trans (Run.bind_of_ok written _)
  exact ⟨e.clearWritten, by rw [Run.exec, work], stored.trans (e.sameContents_clearWritten (stored.ecc.trans clean))⟩

/-! ## The counter of a seeded stream (R321) -/

/-- 32 bits from bit `i` of the counter of a seeded stream, after `n` calls. -/
theorem toNat_counterOf_add_word (substream domain : Word32) (n i : Nat) :
    ((counterOf 0 0 substream.toNat domain.toNat + BitVec.ofNat 128 n).extractLsb' i 32).toNat =
      (n + 2 ^ 64 * substream.toNat + 2 ^ 96 * domain.toNat) % 2 ^ 128 / 2 ^ i % 2 ^ 32 := by
  have count : 0 + 2 ^ 32 * 0 + 2 ^ 64 * substream.toNat + 2 ^ 96 * domain.toNat + n =
      n + 2 ^ 64 * substream.toNat + 2 ^ 96 * domain.toNat := by omega
  rw [BitVec.extractLsb'_toNat, Nat.shiftRight_eq_div_pow, counterOf, ← BitVec.ofNat_add, BitVec.toNat_ofNat, count]

section
variable (substream domain : Word32)

/-- Below 2^64 calls a seeded stream keeps its substream and its domain. -/
theorem counterOf_add_words {n : Nat} (few : n < 2 ^ 64) :
    let x := counterOf 0 0 substream.toNat domain.toNat + BitVec.ofNat 128 n
    x.extractLsb' 64 32 = substream ∧ x.extractLsb' 96 32 = domain := by
  have substreamLt := substream.isLt
  have domainLt := domain.isLt
  constructor <;> refine BitVec.eq_of_toNat_eq ((toNat_counterOf_add_word substream domain n _).trans ?_) <;> omega

/-- At 2^64 calls it reaches the next substream. -/
theorem counterOf_add_substream :
    (counterOf 0 0 substream.toNat domain.toNat + BitVec.ofNat 128 (2 ^ 64)).extractLsb' 64 32 = substream + 1 := by
  have next : (substream + 1).toNat = (substream.toNat + 1) % 2 ^ 32 := BitVec.toNat_add substream 1
  refine BitVec.eq_of_toNat_eq ((toNat_counterOf_add_word substream domain (2 ^ 64) 64).trans ?_)
  omega

end

/-! ## The command -/

/-- Settles O50: the record by `Desc.writeStream_of_reaches`, the end of the command by `State.running_finish`, the counter's words
by `counterOf_add_words` and `counterOf_add_substream`. -/
theorem damselSeedWritesItsStreamRecord : Obligations.DamselSeedWritesItsStreamRecord := by
  refine ⟨fun s f r c a fresh aligned clean reach => ?record, fun substream domain n few => ?counter⟩
  case record =>
    obtain ⟨run, wait, going, -, -⟩ := (s.fresh_iff f r _ c).1 fresh
    obtain ⟨e, work, same⟩ := Desc.writeStream_of_reaches (s := s.tick.tick) aligned clean reach
    obtain ⟨mem, hostMem, -, -⟩ := e.s.finish_leaves f r .ok 0
    have written : (e.s.finish f r .ok 0).mem = s.mem.write a c.desc.streamRecord := mem.trans same.mem
    refine ⟨e.s.finish f r .ok 0, ?effect, ?bytes, ?frame, hostMem.trans same.hostMem, ?ends⟩
    case effect =>
      have effect := s.runCmd_of_fresh f r .damselSeed (s.damselSeed f r) c fresh
      rw [State.damselSeed_of_written r work] at effect
      exact congrArg (fun u => Host.Outcome.next u.settle) effect
    case bytes => rw [written, ← c.desc.streamRecord_eq, ← c.desc.length_streamRecord, Memory.readN_write]
    case frame =>
      intro b outside
      rw [written]
      exact s.mem.read_write_out a _ b (by rwa [c.desc.length_streamRecord])
    case ends =>
      have ended := e.s.running_finish f r .ok 0 ((same.running f r).trans run) going
      rw [← wait, same.ends] at ended
      exact ended
  case counter =>
    obtain ⟨substream_eq, domain_eq⟩ := counterOf_add_words substream domain few
    exact ⟨substream_eq, domain_eq, counterOf_add_substream substream domain⟩

end Sys2Proof.Machine
end

section
/-! PROOFS. Every command answers a next state; the queue, the canonical form of both memories and the steady part that commands leave. -/
namespace Sys2Proof.Machine

/-! ## Every command, at once -/

/-- The outcome of a command is a next state, with the queue and the canonical form of both memories kept. -/
theorem exec_keeps (c : Instr) (s : State) : OutKeeps false s (exec c s) := by
  cases c <;> simp [exec]

theorem OutKeeps.exists_next {b : Bool} {s : State} {o : Host.Outcome State Fault Refusal} (h : OutKeeps b s o) :
    ∃ t, o = .next t ∧ Keeps b s t := by
  cases o with
  | next t => exact ⟨t, rfl, h⟩
  | fault r => exact h.elim
  | refused r => exact h.elim

theorem OutKeeps.keeps_of_next {b : Bool} {s t : State} {o : Host.Outcome State Fault Refusal} (h : OutKeeps b s o)
    (next : o = .next t) : Keeps b s t := by
  subst next
  exact h

/-- Settles O2, by `exec_keeps`. -/
theorem everyCommandAnswersNext : Obligations.EveryCommandAnswersNext := by
  intro c s
  obtain ⟨t, next, kept⟩ := (exec_keeps c s).exists_next
  exact ⟨t, next, kept.pending⟩

/-! ## Steps -/

theorem step_of_nil {s : State} (idle : s.pending = []) : step s = .next s := by
  simp only [step, idle]

theorem step_of_cons {s : State} {c : Instr} {q : List Instr} (front : s.pending = c :: q) :
    step s = exec c { s with pending := q } := by
  simp only [step, front]

/-- What a step answers: the state itself, or what the command at the front makes of it with the queue's rest. -/
theorem step_cases {s t : State} (next : step s = .next t) :
    t = s ∨ ∃ c q, s.pending = c :: q ∧ exec c { s with pending := q } = .next t := by
  cases queue : s.pending with
  | nil =>
    rw [step_of_nil queue] at next
    exact .inl (Host.Outcome.next.inj next).symm
  | cons c q => exact .inr ⟨c, q, rfl, (step_of_cons queue).symm.trans next⟩

/-- Settles O1, by the two equations of `step`. -/
theorem stepTakesTheFrontCommand : Obligations.StepTakesTheFrontCommand :=
  ⟨fun _ _ _ => step_of_cons rfl, fun _ => step_of_nil⟩

/-- Settles O3: a step idles or runs one command, which keeps the form by `exec_keeps`. -/
theorem stepKeepsMemoriesCanonical : Obligations.StepKeepsMemoriesCanonical := by
  rintro s t ⟨mem, host⟩ next
  obtain rfl | ⟨c, q, -, run⟩ := step_cases next
  · exact ⟨mem, host⟩
  · have kept := (exec_keeps c { s with pending := q }).keeps_of_next run
    exact ⟨kept.mem mem, kept.host host⟩

/-! ## Frames of the steady part -/

/-- Settles O9: each of these commands keeps the steady part by its own lemma. -/
theorem ringCommandsKeepSteady : Obligations.RingCommandsKeepSteady := by
  intro f r p tag va s t c listed next
  suffices kept : OutKeeps true s (exec c s) from (kept.keeps_of_next next).steady rfl
  simp only [List.mem_cons, List.not_mem_nil, or_false] at listed
  rcases listed with rfl | rfl | rfl | rfl | rfl | rfl | rfl | rfl | rfl | rfl | rfl | rfl | rfl | rfl | rfl | rfl | rfl |
    rfl | rfl | rfl | rfl | rfl | rfl | rfl | rfl | rfl | rfl | rfl | rfl | rfl | rfl | rfl | rfl | rfl | rfl | rfl | rfl |
    rfl | rfl | rfl | rfl | rfl | rfl | rfl | rfl | rfl | rfl <;> simp [exec]

/-- Settles O10: each of these commands keeps the steady part by its own lemma. -/
theorem stoneAndLinkEventsKeepSteady : Obligations.StoneAndLinkEventsKeepSteady := by
  intro p i n b port k lane slot h bs ln x w s t c listed next
  suffices kept : OutKeeps true s (exec c s) from (kept.keeps_of_next next).steady rfl
  simp only [List.mem_cons, List.not_mem_nil, or_false] at listed
  rcases listed with rfl | rfl | rfl | rfl | rfl | rfl | rfl | rfl | rfl | rfl | rfl | rfl | rfl | rfl | rfl | rfl | rfl |
    rfl | rfl | rfl | rfl | rfl | rfl | rfl | rfl | rfl | rfl | rfl | rfl | rfl | rfl | rfl | rfl | rfl <;> simp [exec]

/-- Settles O8: a write to a VF's BAR0 ends in its page set, or nowhere. -/
theorem vfWritesLeaveSetup : Obligations.VfWritesLeaveSetup := by
  intro f o w v s t vf next
  have other : (f : Nat) ≠ 0 := fun zero => vf (Fin.ext zero)
  have bar0 : Keeps true s (s.writeBar0 f o.toNat w v) := by
    rw [State.writeBar0, if_neg other]
    split
    · exact State.writePage_keeps (Keeps.refl true s) _ _ _ _
    · exact Keeps.refl true s
  have kept : Keeps true s t := Host.Outcome.next.inj next ▸ State.settle_keeps bar0
  exact kept.steady rfl

/-! ## The state after reset -/

theorem State.memoriesCanonical_reset : State.reset.MemoriesCanonical := ⟨Memory.wf_nil, Memory.wf_nil⟩

theorem State.settingsLegal_reset : State.reset.SettingsLegal := by
  constructor <;> decide

theorem State.part_reset (p : Nat) :
    State.reset.part p = if p = 0 then { pawlCount := 1024, gristCount := 4096 } else {} := by
  cases p <;> rfl

theorem State.bind_reset (f : Nat) : State.reset.bind f = if f = 0 then { valid := true, overOk := true } else {} := by
  cases f <;> rfl

/-- Settles O5, accessor by accessor. -/
theorem resetStateHoldsItsValues : Obligations.ResetStateHoldsItsValues := by
  refine ⟨State.memoriesCanonical_reset, State.settingsLegal_reset, rfl, rfl, rfl, rfl, rfl, rfl, rfl, rfl, rfl, rfl, rfl, rfl,
    rfl, rfl, fun p => ?parts, fun p other => ?carves, rfl, fun f other => ?binds, fun h => ?houses, fun f r => ?sqs, fun f c => ?cqs⟩
  case parts => cases p <;> exact ⟨rfl, rfl, rfl⟩
  case carves => simp [State.part_reset, other]
  case binds => simp [State.bind_reset, other]
  case houses => exact ⟨rfl, rfl, rfl⟩
  case sqs => exact ⟨rfl, rfl, rfl⟩
  case cqs => exact ⟨rfl, rfl⟩

end Sys2Proof.Machine
end

section
/-! PROOFS. What the writes of setup registers, resets and the power controller leave of the settings: legal values stay legal, and
under the lock the identity stays. -/
namespace Sys2Proof.Machine

/-! ## The settings -/

/-- The values that the ranges of R438, R439 and R464 to R467 and the lock of R461 are about. -/
structure Settings where
  capW       : BitVec 16
  iLimit     : BitVec 8
  skip       : BitVec 6
  faultWin   : BitVec 6
  faultWinOn : BitVec 6
  tsyncDelay : BitVec 15
  moduleId   : BitVec 10
  combineUs  : Word32
  locked     : Bool
  shape      : Shape
  turnRoot   : Bool

/-- The settings of the steady part. -/
def Steady.settings (x : Steady) : Settings :=
  { capW := x.pwr.capW, iLimit := x.pwr.iLimit, skip := x.pwr.skip, faultWin := x.faultWin, faultWinOn := x.faultWinOn,
    tsyncDelay := x.tsyncDelay, moduleId := x.moduleId, combineUs := x.combineUs, locked := x.locked, shape := x.shape,
    turnRoot := x.turnRoot }

/-- The settings of a state. -/
def State.settings (s : State) : Settings := s.steady.settings

theorem State.SettingsLegal.of_settings {s t : State} (same : t.settings = s.settings) (legal : s.SettingsLegal) :
    t.SettingsLegal := by
  obtain ⟨cap, current, skip, window, inForce, delay, id, timeout⟩ := legal
  simp only [State.settings, Steady.settings, State.steady, Settings.mk.injEq] at same
  obtain ⟨capW, iLimit, skipEq, win, winOn, delayEq, idEq, us, -⟩ := same
  constructor
  case cap => rwa [capW]
  case current => rwa [iLimit]
  case skip => rwa [skipEq]
  case window => rwa [win]
  case inForce => rwa [winOn]
  case delay => rwa [delayEq]
  case id => rwa [idEq]
  case timeout => rwa [us]

/-! ## Guarded changes -/

/-- A change that keeps legal settings legal and, once the setup is locked, the lock and the identity (R461). -/
structure Guards (s t : State) : Prop where
  legal    : s.SettingsLegal → t.SettingsLegal
  lock     : s.locked = true → t.locked = true
  identity : s.locked = true →
    t.shape = s.shape ∧ t.moduleId = s.moduleId ∧ t.turnRoot = s.turnRoot ∧ t.tsyncDelay = s.tsyncDelay

theorem Guards.of_settings {s t : State} (same : t.settings = s.settings) : Guards s t := by
  have fields := same
  simp only [State.settings, Steady.settings, State.steady, Settings.mk.injEq] at fields
  obtain ⟨-, -, -, -, -, delay, id, -, locked, shape, root⟩ := fields
  exact ⟨State.SettingsLegal.of_settings same, fun on => locked.trans on, fun _ => ⟨shape, id, root, delay⟩⟩

theorem Guards.of_steady {s t : State} (same : t.steady = s.steady) : Guards s t :=
  .of_settings (congrArg Steady.settings same)

theorem Guards.refl (s : State) : Guards s s := .of_steady rfl

theorem Guards.trans {s t u : State} (first : Guards s t) (next : Guards t u) : Guards s u := by
  refine ⟨next.legal ∘ first.legal, next.lock ∘ first.lock, fun locked => ?_⟩
  obtain ⟨shape, id, root, delay⟩ := first.identity locked
  obtain ⟨shape', id', root', delay'⟩ := next.identity (first.lock locked)
  exact ⟨shape'.trans shape, id'.trans id, root'.trans root, delay'.trans delay⟩

/-- Work that keeps the steady part, after a guarded change. -/
theorem Guards.keeps {s t u : State} (first : Guards s t) (next : Keeps true t u) : Guards s u :=
  first.trans (.of_steady (next.steady rfl))

theorem Keeps.guards {s t : State} (kept : Keeps true s t) : Guards s t := (Guards.refl s).keeps kept

theorem Guards.foldl {α : Type} {g : State → α → State} (each : ∀ u a, Guards u (g u a)) (l : List α) (s : State) :
    Guards s (l.foldl g s) := by
  induction l generalizing s with
  | nil => exact .refl s
  | cons a l ih => exact (each s a).trans (ih (g s a))

theorem Guards.settle {s t : State} (changed : Guards s t) : Guards s t.settle :=
  changed.keeps (State.settle_keeps (Keeps.refl true t))

/-! ## Resets of functions -/

/-- A function whose reset has begun: the reset is in progress, KILL is set, and a reset of PF0 leaves LINK_SCHEDULE (R359, R360). -/
def State.markReset (s : State) (f : Nat) : State :=
  let t := (s.setFn f { s.fn f with resetting := true }).setBind f { s.bind f with kill := true }
  if f = 0 then { t with leat := { t.leat with cmdRing := none } } else t

/-- What a step of a reset may do to the module: end a command of the function, release what it holds, free what it owns. -/
structure ResetStep (f : Nat) (P : State → Prop) : Prop where
  endCommand : ∀ u r, P u → P (u.endCommand f r .aborted)
  unstage    : ∀ u c, P u → P (u.unstage c)
  dropTaker  : ∀ u r, P u → P (u.dropTaker (.ring f r))
  breakTag   : ∀ u p t, P u → P (u.breakTag p t .broken none)
  freeEntry  : ∀ u p e, P u → P (u.freeEntry p e)
  setPart    : ∀ u p l, P u → P (u.setPart p { u.part p with prevList := l })
  hopper     : ∀ u h i, P u → P (u.closeHopper h i)
  race       : ∀ u h i, P u → P (u.closeRace h i)

theorem foldl_keeps_of_each {α : Type} {P : State → Prop} {g : State → α → State} (each : ∀ u a, P u → P (g u a)) (l : List α)
    {s : State} (start : P s) : P (l.foldl g s) :=
  List.foldlRecOn (motive := P) l g start fun u known a _ => each u a known

/-- A reset of a function marks it, clears what it holds step by step, and returns its page set to reset values (R359). -/
theorem State.resetFunction_eq (s : State) (f : Nat) (keepMemwin : Bool) :
    ∃ u, s.resetFunction f keepMemwin = u.setFn f
        { resetting := true, memwin := if keepMemwin then (u.fn f).memwin else 0, maxPayload := (u.fn f).maxPayload,
          aer := (u.fn f).aer } ∧
      ∀ P : State → Prop, ResetStep f P → P (s.markReset f) → P u := by
  unfold State.resetFunction
  extract_lets p _ resetting _ killed _ unlinked aborted unstaged dropped untagged freed _ unlisted hoppers races
  refine ⟨races, rfl, fun P each marked => ?_⟩
  have keptAborted : P aborted := foldl_keeps_of_each (fun u r => each.endCommand u r) _ marked
  have keptUnstaged : P unstaged := foldl_keeps_of_each (fun u r known => by
    split
    · exact each.unstage u _ known
    · exact known) _ keptAborted
  have keptDropped : P dropped := foldl_keeps_of_each (fun u r => each.dropTaker u r) _ keptUnstaged
  have keptUntagged : P untagged := foldl_keeps_of_each (fun u c known => by
    split
    · exact each.breakTag u _ _ known
    · exact known) _ keptDropped
  have keptFreed : P freed := foldl_keeps_of_each (fun u e known => by
    split
    · exact each.freeEntry u _ _ known
    · exact known) _ keptUntagged
  have keptHoppers : P hoppers := foldl_keeps_of_each (fun u i known => by
    split
    · exact each.hopper u _ _ known
    · exact known) _ (each.setPart freed p _ keptFreed)
  exact foldl_keeps_of_each (fun u i known => by
    split
    · exact each.race u _ _ known
    · exact known) _ keptHoppers

theorem State.resetStep_keeps (f : Nat) (s : State) : ResetStep f (Keeps true s) where
  endCommand _ r known := State.endCommand_keeps known f r _
  unstage _ c known := State.unstage_keeps known c
  dropTaker _ _ known := State.dropTaker_keeps known _
  breakTag _ p t known := State.breakTag_keeps known p t _ _
  freeEntry _ p e known := State.freeEntry_keeps known p e
  setPart _ p _ known := State.setPart_keeps known p _
  hopper _ h i known := State.closeHopper_keeps known h i
  race _ h i known := State.closeRace_keeps known h i

theorem State.markReset_keeps_killed (s : State) (f : Nat) :
    Keeps true (s.setBind f { s.bind f with kill := true }) (s.markReset f) :=
  keeps_ite.2 ⟨fun _ => ⟨rfl, id, id, fun _ => rfl⟩, fun _ => ⟨rfl, id, id, fun _ => rfl⟩⟩

/-- A reset of a function marks its binding and changes nothing else of the steady part (R252, R359). -/
theorem State.resetFunction_keeps_killed (s : State) (f : Nat) (keepMemwin : Bool) :
    Keeps true (s.setBind f { s.bind f with kill := true }) (s.resetFunction f keepMemwin) := by
  obtain ⟨u, reset, cleared⟩ := s.resetFunction_eq f keepMemwin
  rw [reset]
  exact State.setFn_keeps (cleared _ (State.resetStep_keeps f _) (s.markReset_keeps_killed f)) f _

theorem State.guards_setBind (s : State) (f : Nat) (v : Binding) : Guards s (s.setBind f v) := .of_settings rfl

theorem State.guards_resetFunction (s : State) (f : Nat) (keepMemwin : Bool) : Guards s (s.resetFunction f keepMemwin) :=
  (s.guards_setBind f _).keeps (s.resetFunction_keeps_killed f keepMemwin)

/-! ## Setup writes -/

theorem State.settings_log (s : State) (r : LogRec) : (s.log r).settings = s.settings :=
  congrArg Steady.settings ((State.log_keeps (Keeps.refl true s) r).steady rfl)

theorem State.settings_logFirmware (s : State) (event value : Nat) : (s.logFirmware event value).settings = s.settings :=
  s.settings_log _

theorem State.settings_logPower (s : State) (event value : Nat) : (s.logPower event value).settings = s.settings :=
  s.settings_log _

section
variable (s : State) (off : Nat)

theorem State.guards_reject : Guards s (s.reject off) := by
  unfold State.reject
  split
  · exact .refl s
  · exact .of_settings rfl

theorem toNat_ofNat_of_lt {w n : Nat} (fits : n < 2 ^ w) : (BitVec.ofNat w n).toNat = n :=
  (BitVec.toNat_ofNat n w).trans (Nat.mod_eq_of_lt fits)

theorem bitsOf_lt (v hi lo : Nat) : bitsOf v hi lo < 2 ^ (hi + 1 - lo) := Nat.mod_lt _ (Nat.two_pow_pos _)

/-- Under the lock the fields that a taken write leaves are the old ones; unlocked, the ID is a legal one (R461, R464). -/
theorem State.guards_writeModuleCfg (v : Nat) : Guards s (s.writeModuleCfg off v) := by
  unfold State.writeModuleCfg
  split
  · exact s.guards_reject off
  next sh _ =>
  extract_lets id chSh chId
  split
  · exact s.guards_reject off
  next taken =>
  simp only [Bool.or_eq_true, decide_eq_true_eq, Bool.and_eq_true, not_or] at taken
  obtain ⟨⟨⟨notBroadcast, unlocked⟩, -⟩, -⟩ := taken
  have idLt : id < 1024 := bitsOf_lt v 9 0
  have idEq : (BitVec.ofNat 10 id).toNat = id := toNat_ofNat_of_lt idLt
  refine ⟨fun legal => { legal with id := fun bad => ?_ }, fun locked => locked, fun locked => ?_⟩
  · exact notBroadcast (idEq.symm.trans (congrArg BitVec.toNat bad))
  · simp only [locked, true_and, not_or, chSh, chId, decide_eq_true_eq, bne_iff_ne, ne_eq, not_not] at unlocked
    obtain ⟨shape, same⟩ := unlocked
    exact ⟨shape, BitVec.eq_of_toNat_eq (idEq.trans same), rfl, rfl⟩

theorem State.guards_writeLeatCtrl (v : Nat) : Guards s (s.writeLeatCtrl off v) := by
  unfold State.writeLeatCtrl
  extract_lets root delay ch
  split
  · exact s.guards_reject off
  next taken =>
  simp only [Bool.or_eq_true, decide_eq_true_eq, Bool.and_eq_true, not_or] at taken
  obtain ⟨short, unlocked⟩ := taken
  have delayEq : (BitVec.ofNat 15 delay).toNat = delay := toNat_ofNat_of_lt (bitsOf_lt v 14 0)
  refine ⟨fun legal => { legal with delay := ?_ }, fun locked => locked, fun locked => ?_⟩
  · rw [delayEq]
    omega
  · simp only [locked, true_or, and_true, ch, Bool.or_eq_true, bne_iff_ne, ne_eq, not_or, not_not] at unlocked
    obtain ⟨rootEq, same⟩ := unlocked
    exact ⟨rfl, rfl, rootEq, BitVec.eq_of_toNat_eq (delayEq.trans same)⟩

theorem State.guards_writeLock (v : Nat) : Guards s (s.writeLock v) := by
  unfold State.writeLock
  split
  · exact .refl s
  · exact ⟨fun legal => { legal with }, fun _ => rfl, fun _ => ⟨rfl, rfl, rfl, rfl⟩⟩

theorem State.guards_writeSetupStatus (v : Nat) : Guards s (s.writeSetupStatus v) := by
  unfold State.writeSetupStatus
  split
  · exact .of_settings rfl
  · exact .refl s

theorem State.guards_writeCombineTimeout {v : Nat} (low : v < 2 ^ 32) (expired : List (Nat × Nat)) :
    Guards s (s.writeCombineTimeout off v expired) := by
  unfold State.writeCombineTimeout
  split
  · exact s.guards_reject off
  next nonzero =>
  have set : Guards s { s with combineUs := BitVec.ofNat 32 v } :=
    ⟨fun legal => { legal with
      timeout := fun zero => nonzero ((toNat_ofNat_of_lt low).symm.trans (congrArg BitVec.toNat zero)) },
      fun locked => locked, fun _ => ⟨rfl, rfl, rfl, rfl⟩⟩
  refine set.trans (Guards.foldl (fun u x => ?_) expired _)
  split
  · exact (State.setTag_keeps (Keeps.refl true u) _ _ _).guards
  · exact (State.breakTag_keeps (Keeps.refl true u) _ _ _ _).guards

theorem State.guards_writePower (v : Word64) : Guards s (s.writePower off v) := by
  unfold State.writePower
  extract_lets lim cap
  split
  · exact s.guards_reject off
  next taken =>
  simp only [Bool.or_eq_true, decide_eq_true_eq, not_or, not_lt] at taken
  obtain ⟨⟨⟨limLow, limHigh⟩, capLow⟩, capHigh⟩ := taken
  have limEq : (BitVec.ofNat 8 lim).toNat = lim := toNat_ofNat_of_lt (bitsOf_lt v.toNat 23 16)
  have capEq : (BitVec.ofNat 16 cap).toNat = cap := toNat_ofNat_of_lt (bitsOf_lt v.toNat 15 0)
  refine ⟨fun legal => { legal with cap := ?_, current := ?_, skip := legal.skip }, fun locked => locked,
    fun _ => ⟨rfl, rfl, rfl, rfl⟩⟩
  · rw [capEq]
    omega
  · rw [limEq]
    omega

theorem State.guards_writeFaultCfg (v : Nat) : Guards s (s.writeFaultCfg off v) := by
  unfold State.writeFaultCfg
  extract_lets w th
  split
  · exact s.guards_reject off
  next taken =>
  simp only [Bool.or_eq_true, decide_eq_true_eq, not_or, not_lt] at taken
  have windowEq : (BitVec.ofNat 6 w).toNat = w := toNat_ofNat_of_lt (bitsOf_lt v 13 8)
  have set : Guards s { s with faultWin := BitVec.ofNat 6 w, faultTh := BitVec.ofNat 8 th } :=
    ⟨fun legal => { legal with window := by rw [windowEq]; exact taken }, fun locked => locked, fun _ => ⟨rfl, rfl, rfl, rfl⟩⟩
  split
  · exact set
  refine set.trans (Guards.foldl (fun u c => ?_) _ _)
  split
  · exact (State.declare_keeps (Keeps.refl true u) _ _).guards
  · exact .refl u

theorem State.guards_writeStoneCmd (v : Nat) : Guards s (s.writeStoneCmd off v) := by
  unfold State.writeStoneCmd
  extract_lets n act st ok chosen
  split
  · exact s.guards_reject off
  split
  · exact .of_settings rfl
  split
  · exact s.guards_reject off
  split
  · exact .of_settings rfl
  · exact (Guards.of_settings rfl : Guards s chosen).keeps (State.operatorRetire_keeps (Keeps.refl true _) n)

theorem State.guards_writeFwCtrl (v : Word64) : Guards s (s.writeFwCtrl off v) := by
  unfold State.writeFwCtrl
  split
  · exact .refl s
  split
  · exact s.guards_reject off
  · exact .of_settings rfl

theorem State.guards_writeGpio (g v : Nat) : Guards s (s.writeGpio off g v) := by
  unfold State.writeGpio
  extract_lets
  split
  · exact s.guards_reject off
  · exact .of_settings rfl

/-- COMMIT changes nothing of the steady part but the roots of the bindings (R470). -/
theorem State.guards_commit (p : Nat) : Guards s (s.commit p) := by
  unfold State.commit
  extract_lets hs inForce filled unrooted
  have kept : Keeps true s filled :=
    keeps_foldl (fun u h => State.repairHouse_keeps (State.fillHouse_keeps (Keeps.refl true u) h) h)
      (keeps_foldl (fun u h => State.setHouse_keeps (Keeps.refl true u) h _) (Keeps.refl true s) hs) hs
  exact (kept.guards.trans (Guards.of_settings rfl : Guards filled unrooted)).keeps
    (State.keep_keeps (State.setPart_keeps (Keeps.refl true _) p _))

theorem State.guards_release (p : Nat) : Guards s (s.release p) := by
  unfold State.release
  extract_lets _ releasing _ stopped
  have released : Guards s releasing := .of_settings rfl
  have kept : Guards s stopped := by
    simp only [stopped]
    split
    · exact released.trans (.of_settings (State.settings_logFirmware _ _ _))
    · exact released
  exact kept.trans (Guards.foldl (fun u f => (u.guards_setBind f _).trans (State.guards_resetFunction _ f true)) _ _)

theorem State.guards_writePartCtrl (p v : Nat) : Guards s (s.writePartCtrl off p v) := by
  unfold State.writePartCtrl
  extract_lets _ _ _ _ _ set
  have written : Guards s set := .of_settings rfl
  split
  · exact s.guards_reject off
  split
  · exact written.trans (State.guards_commit _ p)
  split
  · exact written.trans (State.guards_release _ p)
  · exact written

theorem State.guards_writePartCarve (p v : Nat) : Guards s (s.writePartCarve off p v) := by
  unfold State.writePartCarve
  extract_lets
  split
  · exact s.guards_reject off
  · exact (State.evalWeir_keeps (State.setPart_keeps (Keeps.refl true s) _ _) _).guards

theorem State.guards_writePartPool (p : Nat) (v : Word64) : Guards s (s.writePartPool off p v) := by
  unfold State.writePartPool
  split
  · exact s.guards_reject off
  · exact (State.evalWeir_keeps (State.setPart_keeps (Keeps.refl true s) _ _) _).guards

theorem State.guards_writeBind (f v : Nat) : Guards s (s.writeBind off f v) := by
  unfold State.writeBind
  extract_lets _ _ _ bound
  split
  · exact s.guards_reject off
  split
  · exact ((s.guards_setBind f _).trans (State.guards_setBind _ f _)).trans (State.guards_resetFunction _ f true)
  · exact s.guards_setBind f _

theorem State.guards_writeRoot (f : Nat) (v : Word64) : Guards s (s.writeRoot off f v) := by
  unfold State.writeRoot
  extract_lets
  split
  · exact s.guards_reject off
  · exact s.guards_setBind f _

theorem State.guards_writePondSplit (h v : Nat) : Guards s (s.writePondSplit off h v) := by
  unfold State.writePondSplit
  extract_lets
  split
  · exact s.guards_reject off
  · exact .of_settings rfl

theorem State.guards_writeRacePool (h : Nat) (v : Word64) : Guards s (s.writeRacePool off h v) := by
  unfold State.writeRacePool
  extract_lets
  split
  · exact s.guards_reject off
  · exact .of_settings rfl

theorem State.guards_writeWeirLevel (id : WeirId) (v : Nat) : Guards s (s.writeWeirLevel id v) :=
  (State.writeWeirLevel_keeps (Keeps.refl true s) id v).guards

theorem State.guards_writeWeirStat (id : WeirId) (v : Nat) : Guards s (s.writeWeirStat id v) :=
  (State.writeWeirStat_keeps (Keeps.refl true s) id v).guards

/-- Each register's write is guarded; the 32-bit value of COMBINE_TIMEOUT fits its register. -/
theorem State.guards_writeReg (v : Word64) (expired : List (Nat × Nat)) (x : Reg) (low : x = .combineTimeout → v.toNat < 2 ^ 32) :
    Guards s (s.writeReg off v expired x) := by
  cases x with
  | ident0 | ident1 | moduleStatus | logEnd | logStatus => exact .refl s
  | setupLock => exact s.guards_writeLock _
  | setupStatus => exact s.guards_writeSetupStatus _
  | moduleCfg => exact s.guards_writeModuleCfg off _
  | leatCtrl => exact s.guards_writeLeatCtrl off _
  | combineTimeout => exact s.guards_writeCombineTimeout off (low rfl) expired
  | power => exact s.guards_writePower off v
  | faultCfg => exact s.guards_writeFaultCfg off _
  | stoneCmd => exact s.guards_writeStoneCmd off _
  | fwSrc => exact .of_settings rfl
  | fwCtrl => exact s.guards_writeFwCtrl off v
  | gpio g => exact s.guards_writeGpio off g _
  | partCtrl p => exact s.guards_writePartCtrl off p _
  | partCarve p => exact s.guards_writePartCarve off p _
  | partPool p => exact s.guards_writePartPool off p v
  | weirLevel id => exact s.guards_writeWeirLevel id _
  | weirStat id => exact s.guards_writeWeirStat id _
  | pondSplit h => exact s.guards_writePondSplit off h _
  | racePool h => exact s.guards_writeRacePool off h v
  | funcBind f => exact s.guards_writeBind off f _
  | mmuRoot f => exact s.guards_writeRoot off f v
  | logSelect => exact .of_settings rfl

end

/-- COMBINE_TIMEOUT is a 32-bit register (R462). -/
theorem regAt_combineTimeout_width {off w : Nat} (found : regAt off = some (.combineTimeout, w)) : w = 32 := by
  unfold regAt at found
  repeat' split at found
  all_goals simp_all

theorem State.guards_writeSetup (s : State) (off width : Nat) (v : Word64) (expired : List (Nat × Nat)) :
    Guards s (s.writeSetup off width v expired) := by
  unfold State.writeSetup
  split
  · exact .refl s
  split
  · exact .refl s
  next x w found =>
  split
  · refine s.guards_writeReg off _ expired x fun combine => ?_
    have narrow := regAt_combineTimeout_width (combine ▸ found)
    subst narrow
    simp only [BitVec.toNat_setWidth]
    omega
  · exact s.guards_reject off

theorem State.guards_writeBar0 (s : State) (f off width : Nat) (v : Word64) : Guards s (s.writeBar0 f off width v) := by
  unfold State.writeBar0
  split
  · exact (State.writePage_keeps (Keeps.refl true s) _ _ _ _).guards
  split
  · exact s.guards_writeSetup off width v []
  · exact .refl s

end Sys2Proof.Machine
end

section
/-! PROOFS. Every command keeps legal settings legal (R438, R439, R464 to R467); every command but a module reset keeps the lock, and the
identity under it (R461). -/
namespace Sys2Proof.Machine

section
variable (s : State)

/-! ## Management -/

theorem State.guards_debugPulse : Guards s s.debugPulse := by
  refine Guards.foldl (fun u g => ?_) _ s
  split
  · exact .of_settings rfl
  · exact .refl u

theorem State.guards_recordReached : Guards s s.recordReached :=
  ((Guards.of_settings rfl : Guards s { s with alert := true, logNew := true }).trans (State.guards_debugPulse _)).keeps
    (State.notice_keeps (Keeps.refl true _) 0 .fault)

theorem State.guards_logProgrammed : Guards s s.logProgrammed := by
  unfold State.logProgrammed
  split
  · exact .refl s
  extract_lets flashed next
  have started : Guards s next := by
    simp only [next]
    split <;> exact .of_settings rfl
  exact started.trans next.guards_recordReached

theorem State.guards_blockRead (code : Byte) (pec : Bool) (block : List Byte) : Guards s (s.blockRead code pec block) :=
  .of_settings rfl

theorem State.guards_shownPins (p : PinLevels) : Guards s (s.shownPins p) :=
  Guards.foldl (g := fun u g => u.shownLevel g (p.gpio.toNat.testBit g)) (fun _ _ => .of_settings rfl) _ s

theorem State.guards_haltNow : Guards s s.haltNow := by
  unfold State.haltNow
  extract_lets was _ halting aborted ports _ closed logged
  have kept : Keeps true s logged :=
    State.log_keeps (keeps_mk (State.abortLinkWork_keeps (keeps_mk (.refl true s) ..)) ..) _
  have pulled : Guards s { logged with alert := true } := kept.guards.trans (.of_settings rfl)
  exact (pulled.trans (State.guards_debugPulse _)).keeps
    (State.sendTurn_keeps (State.notice_keeps (Keeps.refl true _) 0 .link))

theorem State.keeps_setLeat (l : Leat) : Keeps true s { s with leat := l } := ⟨rfl, id, id, fun _ => rfl⟩

/-- At a boundary the module halts, or goes on with the steady part as it was. -/
theorem State.guards_turnBoundary : Guards s s.turnBoundary := by
  unfold State.turnBoundary
  extract_lets edge t
  have counted : Keeps true s t := State.countEdge_keeps (.refl true s)
  have halted (l : Leat) : Guards s (State.haltNow { t with leat := l }) :=
    (counted.guards.keeps (t.keeps_setLeat l)).trans (State.guards_haltNow _)
  split
  case h_1 => exact .refl s
  case h_2 =>
    split
    · exact halted _
    · exact counted.guards.keeps (State.syncTurn_keeps (.refl true t))
  case h_3 =>
    split
    · exact halted _
    · exact counted.guards.keeps (State.runTurn_keeps (.refl true t))
  case h_4 => exact counted.guards.keeps (State.sendTurn_keeps (t.keeps_setLeat _))

/-! ## Power and start-up -/

theorem State.guards_atLimit (p : Power) (second : Bool) (written : Guards s { s with pwr := p }) :
    Guards s (State.capPeriod.atLimit s p second) := by
  unfold State.capPeriod.atLimit
  split
  · exact written.trans (.of_settings (State.settings_logPower _ _ _))
  · exact written

/-- A period keeps the limits, and moves SKIP between 0 and 48 (R439). -/
theorem State.guards_setSkip (p : Power) (n : Nat) (low : s.pwr.skip.toNat ≤ 48 → n ≤ 48)
    (limits : p.capW = s.pwr.capW ∧ p.iLimit = s.pwr.iLimit) (skip : p.skip = s.pwr.skip ∨ n < 64 ∧ p.skip = BitVec.ofNat 6 n) :
    Guards s { s with pwr := p } := by
  obtain ⟨cap, lim⟩ := limits
  refine ⟨fun legal => { legal with cap := ?_, current := ?_, skip := ?_ }, id, fun _ => ⟨rfl, rfl, rfl, rfl⟩⟩
  · rw [cap]
    exact legal.cap
  · rw [lim]
    exact legal.current
  · rcases skip with same | ⟨fits, moved⟩
    · rw [same]
      exact legal.skip
    · rw [moved, toNat_ofNat_of_lt fits]
      exact low legal.skip

theorem State.guards_capPeriod (w ma mv : Nat) (t : Int) (second : Bool) : Guards s (s.capPeriod w ma mv t second) := by
  have skipLt := s.pwr.skip.isLt
  unfold State.capPeriod
  extract_lets _ p skip lim cap n8 n1 capped
  have skipEq : skip = s.pwr.skip.toNat := rfl
  split
  · refine s.guards_atLimit _ second (s.guards_setSkip _ n8 (by omega) ?_ ?_) <;> split
    · exact ⟨rfl, rfl⟩
    · exact ⟨rfl, rfl⟩
    · exact .inr ⟨by omega, rfl⟩
    · exact .inl rfl
  split
  · refine s.guards_atLimit _ second (s.guards_setSkip _ n1 (by omega) ?_ ?_) <;> split
    · exact ⟨rfl, rfl⟩
    · exact ⟨rfl, rfl⟩
    · exact .inr ⟨by omega, rfl⟩
    · exact .inl rfl
  split
  · exact s.guards_setSkip _ (skip - 1) (by omega) ⟨rfl, rfl⟩ (.inr ⟨by omega, rfl⟩)
  · exact .of_settings rfl

theorem State.guards_startRecords (rolled : Bool) : Guards s (s.startRecords rolled) := by
  unfold State.startRecords
  extract_lets _ _ marked torn logged _ failed
  have markedGuards : Guards s marked := by
    simp only [marked]
    split
    · exact .refl s
    · exact .of_settings (State.settings_log _ _)
  have loggedGuards : Guards s logged :=
    markedGuards.trans (Guards.foldl (fun u x => .of_settings (u.settings_logFirmware 5 _)) torn marked)
  have failedGuards : Guards s failed := by
    simp only [failed]
    split
    · exact loggedGuards.trans (.of_settings rfl)
    · exact loggedGuards
  split
  · exact failedGuards.trans (.of_settings (failed.settings_logFirmware 3 _))
  · exact failedGuards

theorem State.guards_startUp (straps : BitVec 2) : Guards s (s.startUp straps) := by
  unfold State.startUp
  extract_lets powered
  split
  · exact .of_settings rfl
  extract_lets _ slot _ fl started
  have kept : Guards s started.restoreKept := (Guards.of_settings rfl : Guards s started).keeps
    (State.restoreKept_keeps (.refl true started))
  exact kept.trans (State.guards_startRecords _ _)

theorem State.guards_trainingEnd (hbm : BitVec 12) (tier : BitVec 4) : Guards s (s.trainingEnd hbm tier) := by
  unfold State.trainingEnd
  extract_lets trained hbms tiers
  have failures (mask : Nat) (l : List Nat) (u : State) :
      Guards u (l.foldl (fun u k => if mask.testBit k then u.logPower 0x03 k else u) u) := by
    refine Guards.foldl (fun v k => ?_) l u
    split
    · exact .of_settings (v.settings_logPower 3 k)
    · exact .refl v
  have logged : Guards s tiers :=
    ((Guards.of_settings rfl : Guards s trained).trans (failures _ _ trained)).trans (failures _ _ hbms)
  split
  · exact logged.trans (.of_settings (State.settings_logFirmware _ _ _))
  · exact logged

theorem State.guards_fwDone (keyOk flashOk : Bool) : Guards s (s.fwDone keyOk flashOk) := by
  unfold State.fwDone
  extract_lets cause v slot
  split
  · exact .refl s
  split
  · exact .of_settings (State.settings_logFirmware _ _ _)
  split <;> exact .of_settings (State.settings_logFirmware _ _ _)

/-! ## Resets of the port -/

theorem State.guards_resetVfs (keep : Bool) : Guards s (s.resetVfs keep) :=
  Guards.foldl (fun u f => u.guards_resetFunction f keep) _ s

theorem State.guards_setVfEnable (on : Bool) : Guards s { s with vfEnable := on } := .of_settings rfl

theorem State.guards_resetPf : Guards s s.resetPf := by
  unfold State.resetPf
  extract_lets reset
  have done : Guards s reset :=
    (State.linkFail_keeps (.refl true s) 0 reasonLocal).guards.trans (State.guards_resetFunction _ 0 false)
  exact (done.trans (reset.guards_setVfEnable false)).trans (State.guards_resetVfs _ false)

theorem State.guards_closePort (fns : Table Func) :
    Guards s { s with cfgReady := false, numVfs := 0, pcieRate := 0, pcieX16 := false, fns := fns } := .of_settings rfl

theorem State.guards_portReset : Guards s s.portReset := by
  unfold State.portReset
  exact s.guards_resetPf.trans (s.resetPf.guards_closePort _)

theorem State.guards_setPerst (level : Bool) : Guards s { s with perst := level } := .of_settings rfl

end

/-! ## Every command -/

/-- A command whose meaning is a choice of next states keeps the guard where each choice does. -/
theorem Guards.of_next {s t u : State} (next : (Host.Outcome.next u : Out) = .next t) (changed : Guards s u) : Guards s t :=
  Host.Outcome.next.inj next ▸ changed

theorem Guards.ite {s t u : State} {p : Prop} [Decidable p] (yes : Guards s t) (no : Guards s u) :
    Guards s (if p then t else u) := by
  split
  · exact yes
  · exact no

/-- The commands that reset the module (R440). -/
def moduleResets : List Instr := [.resetInAssert, .millerWatchdog, .pllUnlock, .thermalTrip, .powerFail, .inputRemoved]

/-- Every command but a module reset is guarded. -/
theorem exec_guards (c : Instr) (s t : State) (next : exec c s = .next t) (other : c ∉ moduleResets) : Guards s t := by
  have same {u : State} (settings : u.settings = s.settings) : Guards s u := .of_settings settings
  have write (off width : Nat) (v : Word64) : Guards s (s.writeSetup off width v) := s.guards_writeSetup off width v []
  cases c with
  | resetInAssert | millerWatchdog | pllUnlock | thermalTrip | powerFail | inputRemoved => simp [moduleResets] at other
  | weirLevelWrite w v => exact .of_next next (s.guards_writeBar0 _ _ _ _)
  | weirFallingWrite w v => exact .of_next next (s.guards_writeBar0 _ _ _ _)
  | weirCrossedClear w v => exact .of_next next (s.guards_writeBar0 _ _ _ _)
  | weirCountClear w v => exact .of_next next (s.guards_writeBar0 _ _ _ _)
  | setupLockWrite v => exact .of_next next (write _ _ _)
  | partitionCommit p v => exact .of_next next (write _ _ _).settle
  | partitionRelease p v => exact .of_next next (write _ _ _).settle
  | tenantKill f v => exact .of_next next (write _ _ _).settle
  | stoneTest p => exact .of_next next (write _ _ _).settle
  | stoneRetire p => exact .of_next next (write _ _ _).settle
  | fwProgram v => exact .of_next next (write _ _ _)
  | gpioAssignWrite pin v level =>
    exact .of_next next ((same rfl : Guards s (s.shownLevel pin level)).trans (State.guards_writeSetup _ _ _ _ []))
  | combineTimeoutWrite v ts => exact .of_next next (s.guards_writeSetup _ _ _ _).settle
  | faultThresholdWrite v => exact .of_next next (write _ _ _).settle
  | logSelectWrite v => exact .of_next next (write _ _ _)
  | registerWrite f space o w v =>
    cases space with
    | bar0 => exact .of_next next (s.guards_writeBar0 _ _ _ _).settle
    | _ => exact (OutKeeps.keeps_of_next (b := true) (by simp [exec, execRegisterWrite]) next).guards
  | logRecordProgrammed => exact .of_next next (s.guards_logProgrammed.ite (.refl s))
  | logCopyDone => exact .of_next next (.ite (.refl s) (same rfl))
  | faultWindowBoundary =>
    have ended : Guards s s.windowEnds :=
      ⟨fun legal => { legal with inForce := legal.window }, id, fun _ => ⟨rfl, rfl, rfl, rfl⟩⟩
    exact .of_next next ended
  | smbIdentity pec => exact .of_next next (.ite (same rfl) (.refl s))
  | smbHealth pec => exact .of_next next (.ite (same rfl) (.refl s))
  | smbLogEnd pec => exact .of_next next (.ite (same rfl) (.refl s))
  | smbLogSelect seq ok => exact .of_next next (.ite (same rfl) (.refl s))
  | smbLogRead pec =>
    refine .of_next next (.ite (.refl s) (.ite (same rfl) ?_))
    split <;> exact same rfl
  | smbAlertResponse won cause => exact .of_next next (.ite (.refl s) (.ite (same rfl) (same rfl)))
  | uartId => exact .of_next next (.ite (same rfl) (.refl s))
  | uartHealth => exact .of_next next (.ite (same rfl) (.refl s))
  | uartLogend => exact .of_next next (.ite (same rfl) (.refl s))
  | uartLog line => exact .of_next next (.ite (same rfl) (.refl s))
  | tapReset => exact .of_next next (same rfl)
  | bypass => exact .of_next next (.ite (same rfl) (.refl s))
  | idcode => exact .of_next next (.ite (same rfl) (.refl s))
  | samplePreload pins preload =>
    exact .of_next next ((s.guards_shownPins pins).trans (.ite (.refl _) (.ite (.of_settings rfl) (.of_settings rfl))))
  | extest pins =>
    exact .of_next next ((s.guards_shownPins pins).trans (.ite (.refl _) (.ite (.of_settings rfl) (.of_settings rfl))))
  | debugTrigPulseEnd pin => exact .of_next next (.ite (same rfl) (.refl s))
  | capPeriod w ma mv temp second => exact .of_next next (.ite (s.guards_capPeriod w ma mv temp second) (.refl s))
  | holdupExpiry => exact .of_next next (.ite (same rfl) (.refl s))
  | startUp straps => exact .of_next next (.ite (s.guards_startUp straps) (.refl s))
  | pllLock => exact .of_next next (.ite (same rfl) (.refl s))
  | trainingEnd hbm tier => exact .of_next next (.ite (s.guards_trainingEnd hbm tier) (.refl s))
  | configurationReady rate x16 => exact .of_next next (.ite (same rfl) (.refl s))
  | perstAssert =>
    have low : Guards s { s.portReset with perst := false } := s.guards_portReset.trans (s.portReset.guards_setPerst false)
    exact .of_next next (.ite (Guards.settle (.ite low (.refl s))) (same rfl))
  | perstRelease => exact .of_next next (same rfl)
  | pcieLinkDown => exact .of_next next (.ite s.guards_portReset.settle (.refl s))
  | functionLevelReset f =>
    exact .of_next next (.ite (.refl s) (.ite s.guards_resetPf.settle (s.guards_resetFunction f false).settle))
  | pf0FunctionLevelReset => exact .of_next next (.ite s.guards_resetPf.settle (.refl s))
  | flrEnd f => exact .of_next next (.ite (same rfl) (.refl s))
  | d0Return f => exact .of_next next (.ite (s.guards_resetFunction f false).settle (.refl s))
  | vfEnableWrite enable n =>
    have off : Guards s (State.resetVfs { s with vfEnable := false } false) :=
      (s.guards_setVfEnable false).trans (State.guards_resetVfs _ false)
    exact .of_next next (.ite (.refl s) (.ite (.ite (.refl s) off.settle) (same rfl)))
  | fwProgramDone keyOk flashOk => exact .of_next next (s.guards_fwDone keyOk flashOk)
  | turnBoundary => exact .of_next next (s.guards_turnBoundary.settle)
  | _ => exact (OutKeeps.keeps_of_next (b := true) (by simp [exec]) next).guards

/-! ## Module resets -/

/-- A module reset leaves the settings at their reset values (R440). -/
theorem State.settings_moduleReset (s : State) (ps : PowerState) : (s.moduleReset ps).settings = State.reset.settings := rfl

theorem State.SettingsLegal.of_reset {s : State} (same : s.settings = State.reset.settings) : s.SettingsLegal :=
  State.SettingsLegal.of_settings same State.settingsLegal_reset

theorem exec_moduleReset_legal (c : Instr) (s t : State) (next : exec c s = .next t) (reset : c ∈ moduleResets)
    (legal : s.SettingsLegal) : t.SettingsLegal := by
  have choose {p : Prop} [Decidable p] {u v : State} (run : (Host.Outcome.next (if p then u else v) : Out) = .next t)
      (yes : u.SettingsLegal) (no : v.SettingsLegal) : t.SettingsLegal := by
    rw [← Host.Outcome.next.inj run]
    split
    · exact yes
    · exact no
  simp only [moduleResets, List.mem_cons, List.not_mem_nil, or_false] at reset
  rcases reset with rfl | rfl | rfl | rfl | rfl | rfl
  · exact choose next (.of_reset rfl) legal
  · exact choose next (.of_reset rfl) legal
  · exact choose next (.of_reset rfl) legal
  · exact choose next (.of_reset rfl) legal
  · exact choose next (.of_reset rfl) legal
  · exact choose next (.of_reset rfl) (.of_reset rfl)

/-- Settles O4: a step idles, resets the module or runs a guarded command. -/
theorem stepKeepsSettingsLegal : Obligations.StepKeepsSettingsLegal := by
  intro s t legal next
  obtain rfl | ⟨c, q, -, run⟩ := step_cases next
  · exact legal
  have queued : State.SettingsLegal { s with pending := q } := State.SettingsLegal.of_settings (s := s) rfl legal
  by_cases reset : c ∈ moduleResets
  · exact exec_moduleReset_legal c _ t run reset queued
  · exact (exec_guards c _ t run reset).legal queued

/-- Settles O6, by `exec_guards`. -/
theorem lockHoldsUntilModuleReset : Obligations.LockHoldsUntilModuleReset :=
  fun c s t locked next other => (exec_guards c s t next other).lock locked

/-- Settles O7, by `exec_guards`. -/
theorem lockedIdentityIsFixed : Obligations.LockedIdentityIsFixed :=
  fun c s t locked next other => (exec_guards c s t next other).identity locked

end Sys2Proof.Machine
end

section
/-! PROOFS. The management ports: TAP (R427), SMBus (R424, R425), console (R426), GPIO pins (R428 to R432). -/
namespace Sys2Proof.Machine

/-! ## The TAP (R427) -/

section
variable (s : State) (pins : PinLevels)

theorem State.foldl_setPin_eq {α : Type} (pin : α → Nat) (v : State → α → Gpio) (l : List α) (u : State) :
    l.foldl (fun u a => u.setPin (pin a) (v u a)) u = { u with gpio := (l.foldl (fun u a => u.setPin (pin a) (v u a)) u).gpio } := by
  induction l generalizing u with
  | nil => rfl
  | cons a l ih => exact ih (u.setPin (pin a) (v u a))

theorem State.shownPins_eq : s.shownPins pins = { s with gpio := (s.shownPins pins).gpio } :=
  State.foldl_setPin_eq id (fun u g => { u.pin g with extern := pins.gpio.toNat.testBit g }) (List.range 4) s

/-- Showing the pins changes the level of each, and nothing else of a pin. -/
theorem State.pin_shownPins {g : Nat} (four : g < 4) :
    (s.shownPins pins).pin g = { s.pin g with extern := pins.gpio.toNat.testBit g } := by
  simp only [State.shownPins, show List.range 4 = [0, 1, 2, 3] from rfl, List.foldl_cons, List.foldl_nil, State.shownLevel]
  interval_cases g <;> simp [State.pin_setPin_ne]

theorem State.tapUp_shownPins : (s.shownPins pins).tapUp = s.tapUp := by
  rw [s.shownPins_eq pins]
  rfl

end

/-- Settles O11, command by command; `State.pin_shownPins` gives the levels. -/
theorem tapInstructionsComplete : Obligations.TapInstructionsComplete := by
  intro s pins preload t
  have up : t.tapUp = s.tapUp := s.tapUp_shownPins pins
  have sample : exec (.samplePreload pins preload) s = .next (if !t.tapUp then t else if t.locked then t.tapBypass
    else { t with tap := { instr := .sample, out := t.capture pins, preload := preload } }) := rfl
  have extest : exec (.extest pins) s = .next (if !t.tapUp then t else if t.locked then t.tapBypass
    else { t with tap := { t.tap with instr := .extest, out := t.capture pins } }) := rfl
  have bypass (u : State) : exec .bypass u = .next (if u.tapUp then u.tapBypass else u) := rfl
  have idcode : exec .idcode s =
    .next (if s.tapUp then { s with tap := { s.tap with instr := .idcode, out := idcodeWord } } else s) := rfl
  refine ⟨s.shownPins_eq pins, fun g four => s.pin_shownPins pins four, rfl, fun held => ?held, fun runs => ?runs⟩
  case held =>
    rw [bypass, idcode, sample, extest, up]
    simp [held]
  case runs =>
    refine ⟨by rw [bypass, if_pos runs]; rfl, by rw [idcode, if_pos runs]; rfl, fun free => ?free, fun locked => ?locked⟩
    case free =>
      have free' : t.locked = false := (congrArg State.locked (s.shownPins_eq pins)).trans free
      rw [sample, extest, up]
      simp [runs, free']
    case locked =>
      have locked' : t.locked = true := (congrArg State.locked (s.shownPins_eq pins)).trans locked
      rw [sample, extest, bypass, up]
      simp [runs, locked']

/-! ## SMBus (R424, R425) -/

/-- Settles O12, command by command. -/
theorem smbusCommandsComplete : Obligations.SmbusCommandsComplete := by
  intro s seq pec cause a read
  have block (code : Byte) (bs : List Byte) : s.blockRead code pec bs = { s with smbOut := read code bs } := by
    have address : s.smbAddr * 2 = a := Nat.mul_comm _ _
    simp only [State.blockRead, address, read]
  refine ⟨fun answers => ?identity, fun up => ⟨?health, ?logEnd, ?select, ?wrong, fun x found within => ?record, fun past => ?past,
    fun low => ?alert, fun high won => ?quiet⟩⟩
  case identity =>
    have choice : exec (.smbIdentity pec) s =
      .next (if s.millerUp || s.romOnly then s.blockRead 0x01 pec s.moduleIdentity else s) := rfl
    rw [choice, if_pos (by simpa using answers), block]
  case health =>
    have choice : exec (.smbHealth pec) s = .next (if s.millerUp then s.blockRead 0x02 pec s.health else s) := rfl
    rw [choice, if_pos up, block]
  case logEnd =>
    have choice : exec (.smbLogEnd pec) s =
      .next (if s.millerUp then s.blockRead 0x10 pec (natLe 8 s.logEnd.toNat) else s) := rfl
    rw [choice, if_pos up, block]
  case select => simp [exec, execSmbLogSelect, up]
  case wrong => simp [exec, execSmbLogSelect]
  case record =>
    have within' : ¬s.smbCursor > 4095 := by omega
    simp [exec, execSmbLogRead, up, within', found, block]
  case past =>
    simp only [exec, execSmbLogRead, up, block]
    rcases past with none | past
    · simp [none]
    · have past' : s.smbCursor > 4095 := by omega
      simp [past']
  case alert =>
    have address : s.smbAddr * 2 = a := Nat.mul_comm _ _
    exact ⟨by simp [exec, execSmbAlertResponse, up, low, address], by simp [exec, execSmbAlertResponse, up, low]⟩
  case quiet => simp [exec, execSmbAlertResponse, high]

/-! ## The console (R426) -/

theorem toNat_digit {n : Nat} (digit : n < 10) : (BitVec.ofNat 8 (48 + n)).toNat = 48 + n :=
  toNat_ofNat_of_lt (by omega)

/-- Reading the digits of a decimal number, most significant first, after a number read so far. -/
def readDecimal (n : Nat) (digits : List Byte) : Nat := digits.foldl (fun n b => 10 * n + (b.toNat - 48)) n

theorem decimal_digits (fuel n : Nat) : ∀ b ∈ decimal fuel n, 48 ≤ b.toNat ∧ b.toNat ≤ 57 := by
  have digit {k : Nat} (low : k < 10) : 48 ≤ (BitVec.ofNat 8 (48 + k)).toNat ∧ (BitVec.ofNat 8 (48 + k)).toNat ≤ 57 := by
    rw [toNat_digit low]
    omega
  induction fuel generalizing n with
  | zero => simp [decimal]
  | succ fuel ih =>
    intro b listed
    rw [decimal] at listed
    split at listed
    next low => exact List.mem_singleton.1 listed ▸ digit low
    · rcases List.mem_append.1 listed with front | last
      · exact ih _ b front
      · exact List.mem_singleton.1 last ▸ digit (Nat.mod_lt n (by decide))

/-- With digits enough, a decimal number reads as itself. -/
theorem readDecimal_decimal {fuel n : Nat} (fits : n < 10 ^ fuel) : readDecimal 0 (decimal fuel n) = n := by
  induction fuel generalizing n with
  | zero => simp_all [decimal, readDecimal]
  | succ fuel ih =>
    rw [decimal]
    split
    next low =>
      have value := toNat_digit low
      simp only [readDecimal, List.foldl_cons, List.foldl_nil, value]
      omega
    next high =>
      have value := toNat_digit (Nat.mod_lt n (show 0 < 10 by decide))
      have front : readDecimal 0 (decimal fuel (n / 10)) = n / 10 := ih (by rw [Nat.pow_succ] at fits; omega)
      simp only [readDecimal] at front ⊢
      rw [List.foldl_append, front, List.foldl_cons, List.foldl_nil, value]
      omega

theorem decimal_ne_nil {fuel : Nat} (some : 0 < fuel) (n : Nat) : decimal fuel n ≠ [] := by
  obtain ⟨fuel, rfl⟩ := Nat.exists_eq_succ_of_ne_zero some.ne'
  rw [decimal]
  split <;> simp

/-- The line "LOG n" names the record n. -/
theorem logNumber_decimal {n : Nat} (fits : n < 10 ^ 20) : logNumber ([76, 79, 71, 32] ++ decimal 20 n) = some n := by
  have digits : (decimal 20 n).all (fun b => decide (48 ≤ b.toNat ∧ b.toNat ≤ 57)) = true := by
    simpa using decimal_digits 20 n
  have value : (decimal 20 n).foldl (fun n b => 10 * n + (b.toNat - 48)) 0 = n := readDecimal_decimal fits
  have line : ([76, 79, 71, 32] ++ decimal 20 n).drop 4 = decimal 20 n := rfl
  have word : (([76, 79, 71, 32] ++ decimal 20 n).take 4 == asciiOf ['L', 'O', 'G', ' ']) = true := rfl
  have nonempty : (decimal 20 n != []) = true := by simpa using decimal_ne_nil (by decide) n
  simp only [logNumber, line, word, nonempty, digits, value, Bool.and_self, if_true]

section
variable (s : State) {line : List Byte}

theorem State.execUartLog_of_up (up : s.millerUp = true) : exec (.uartLog line) s = .next { s with uartOut := s.console line } := by
  simp only [exec, execUartLog, if_pos up]

/-- A line with a record number is none of the three words. -/
theorem State.console_of_logNumber {n : Nat} (named : logNumber line = some n) : s.console line = s.consoleLog n := by
  have words : ∀ w ∈ [asciiOf ['I', 'D'], asciiOf ['H', 'E', 'A', 'L', 'T', 'H'], asciiOf ['L', 'O', 'G', 'E', 'N', 'D']],
      line ≠ w := by
    rintro w listed rfl
    have none : ∀ w ∈ [asciiOf ['I', 'D'], asciiOf ['H', 'E', 'A', 'L', 'T', 'H'], asciiOf ['L', 'O', 'G', 'E', 'N', 'D']],
      logNumber w = none := by decide
    rw [none _ listed] at named
    cases named
  simp only [List.mem_cons, List.not_mem_nil, or_false, forall_eq_or_imp, forall_eq] at words
  obtain ⟨id, health, logEnd⟩ := words
  simp only [State.console, if_neg id, if_neg health, if_neg logEnd, named]

end

/-- Settles O13; a decimal number reads as itself by `readDecimal_decimal`. -/
theorem consoleCommandsComplete : Obligations.ConsoleCommandsComplete := by
  intro s line up words
  have log := s.execUartLog_of_up (line := line) up
  refine ⟨?id, ?health, ?logEnd, ?words, fun n named => ⟨fun x found => ?record, fun absent => ?none⟩, fun unnamed other => ?other,
    fun n fits => logNumber_decimal fits⟩
  case id => simp only [exec, execUartId, if_pos up, State.consoleId, crlf]
  case health => simp only [exec, execUartHealth, if_pos up, State.consoleHealth, crlf]
  case logEnd => simp only [exec, execUartLogend, if_pos up, State.consoleEnd, crlf]
  case words => simp only [words, List.map_cons, List.map_nil, exec, execUartLog, execUartId, execUartHealth, execUartLogend, if_pos up] <;> rfl
  case record =>
    have report : s.consoleLog n = hexLines x.bytes 64 ++ [79, 75, 13, 10] := by
      simp only [State.consoleLog, found, List.append_assoc]
      rfl
    rw [log, s.console_of_logNumber named, report]
  case none =>
    have missing : s.flash.log.find? (fun y => y.seq.toNat == n) = none := by simpa using absent
    rw [log, s.console_of_logNumber named]
    simp only [State.consoleLog, missing]
    rfl
  case other =>
    simp only [words, List.mem_cons, List.not_mem_nil, or_false, not_or] at other
    obtain ⟨id, health, logEnd⟩ := other
    have console : s.console line = asciiOf ['E', 'R', 'R'] ++ crlf := by
      simp only [State.console, unnamed]
      exact (if_neg id).trans ((if_neg health).trans (if_neg logEnd))
    rw [log, console]
    rfl

end Sys2Proof.Machine
end

section
/-! PROOFS. Writes of setup registers (R428 to R432, R457 to R467, R474): which register takes a write, and what it does. -/
namespace Sys2Proof.Machine

/-! ## The register map -/

section
variable (s : State) (ready : s.cfgReady = true) {off w : Nat} {x : Reg}
include ready

/-- A write of a register's own width reaches the register (R458). -/
theorem State.writeSetup_of_width (found : regAt off = some (x, w)) (v : Word64) (ts : List (Nat × Nat)) :
    s.writeSetup off w v ts = s.writeReg off ((v.setWidth w).setWidth 64) ts x := by
  simp [State.writeSetup, ready, found]

theorem State.writeSetup_of_other_width (found : regAt off = some (x, w)) {w' : Nat} (other : w' ≠ w) (v : Word64)
    (ts : List (Nat × Nat)) : s.writeSetup off w' v ts = s.reject off := by
  simp [State.writeSetup, ready, found, other]

theorem State.writeSetup_of_unlisted (none : regAt off = .none) (v : Word64) (ts : List (Nat × Nat)) :
    s.writeSetup off w v ts = s := by
  simp [State.writeSetup, ready, none]

/-- A 32-bit register takes the 32-bit value of its row. -/
theorem State.writeSetup_word (found : regAt off = some (x, 32)) (v : Word32) (ts : List (Nat × Nat)) :
    s.writeSetup off 32 (v.setWidth 64) ts = s.writeReg off (v.setWidth 64) ts x := by
  rw [s.writeSetup_of_width ready found]
  congr 1
  exact BitVec.eq_of_toNat_eq (by simp)

/-- A 64-bit register takes the 64-bit value of its row. -/
theorem State.writeSetup_double (found : regAt off = some (x, 64)) (v : Word64) (ts : List (Nat × Nat)) :
    s.writeSetup off 64 v ts = s.writeReg off v ts x := by
  rw [s.writeSetup_of_width ready found, BitVec.setWidth_eq, BitVec.setWidth_eq]

end

theorem State.writeSetup_of_not_ready {s : State} (early : s.cfgReady = false) (off w : Nat) (v : Word64) (ts : List (Nat × Nat)) :
    s.writeSetup off w v ts = s := by
  simp [State.writeSetup, early]

theorem toNat_setWidth_word (v : Word32) : (v.setWidth 64).toNat = v.toNat := by
  simp
  omega

/-! ## GPIO_ASSIGN (R428 to R432) -/

/-- The claimant bits of a GPIO_ASSIGN value: DEBUG_TRIG, TSYNC_FB, GENERAL_OUT, GENERAL_IN (R429). -/
def gpioClaims (v : Nat) : List Bool := [v.testBit 3, v.testBit 2, v.testBit 1, v.testBit 0]

/-- The claimants that hold a pin. -/
def Gpio.held (x : Gpio) : List Bool := [x.debug, x.tsync, x.genOut, x.genIn]

/-- The refusals of R430, of a pin `g` with the claimants `held`; `elsewhere`: another pin holds DEBUG_TRIG. -/
def gpioRefused (claims held : List Bool) (g : Nat) (locked : Bool) (elsewhere : Prop) : Prop :=
  1 < (claims.filter id).length ∨
  (∃ i j, i < 4 ∧ j < 4 ∧ i ≠ j ∧ claims.getD i false = true ∧ held.getD i false = false ∧ held.getD j false = true) ∨
  ((claims.getD 1 false = true ∧ g ≠ 0) ∨ (claims.getD 0 false = true ∧ 1 < g)) ∨
  (claims.getD 0 false = true ∧ held.getD 0 false = false ∧ elsewhere) ∨
  (locked = true ∧ claims ≠ held)

/-- A pin other than `g` holds DEBUG_TRIG. -/
def State.debugElsewhere (s : State) (g : Nat) : Prop := ∃ k < 4, k ≠ g ∧ (s.pin k).debug = true

theorem getD_newClaims (claims held : Bool × Bool × Bool × Bool) {i : Nat} (four : i < 4) :
    ((([claims.1, claims.2.1, claims.2.2.1, claims.2.2.2].zip [held.1, held.2.1, held.2.2.1, held.2.2.2]).map
      (fun y => y.1 && !y.2)).getD i false) =
    ([claims.1, claims.2.1, claims.2.2.1, claims.2.2.2].getD i false &&
      !([held.1, held.2.1, held.2.2.1, held.2.2.2].getD i false)) := by
  interval_cases i <;> rfl

/-- The model's test for a refusal, for the claimant bits as four Booleans. -/
theorem gpioRefused_iff (claims held : Bool × Bool × Bool × Bool) (g : Nat) (locked : Bool) (elsewhere : Bool) :
    let new := [claims.1, claims.2.1, claims.2.2.1, claims.2.2.2]
    let old := [held.1, held.2.1, held.2.2.1, held.2.2.2]
    let sets := (new.zip old).map (fun y => y.1 && !y.2)
    (locked && new != old || decide ((new.filter id).length > 1) ||
      (List.range 4).any (fun i => sets.getD i false && (List.range 4).any (fun j => j != i && old.getD j false)) ||
      !(!(new.getD 1 false && g != 0) && !(new.getD 0 false && decide (1 < g))) ||
      (sets.getD 0 false && elsewhere)) = true ↔ gpioRefused new old g locked (elsewhere = true) := by
  intro new old sets
  have setsAt (i : Nat) (four : i < 4) : sets.getD i false = (new.getD i false && !(old.getD i false)) :=
    getD_newClaims claims held four
  have otherIff : (List.range 4).any (fun i => sets.getD i false && (List.range 4).any (fun j => j != i && old.getD j false)) = true ↔
      ∃ i j, i < 4 ∧ j < 4 ∧ i ≠ j ∧ new.getD i false = true ∧ old.getD i false = false ∧ old.getD j false = true := by
    simp only [List.any_eq_true, List.mem_range, Bool.and_eq_true, bne_iff_ne]
    constructor
    · rintro ⟨i, four, set, j, four', apart, holds⟩
      rw [setsAt i four, Bool.and_eq_true, Bool.not_eq_true'] at set
      exact ⟨i, j, four, four', apart.symm, set.1, set.2, holds⟩
    · rintro ⟨i, j, four, four', apart, claims, free, holds⟩
      exact ⟨i, four, by rw [setsAt i four, claims, free]; rfl, j, four', apart.symm, holds⟩
  have offeredIff : (!(!(new.getD 1 false && g != 0) && !(new.getD 0 false && decide (1 < g)))) = true ↔
      (new.getD 1 false = true ∧ g ≠ 0) ∨ (new.getD 0 false = true ∧ 1 < g) := by
    rw [Bool.not_and, Bool.not_not, Bool.not_not, Bool.or_eq_true, Bool.and_eq_true, Bool.and_eq_true, bne_iff_ne, decide_eq_true_iff]
  have takenIff : (sets.getD 0 false && elsewhere) = true ↔ new.getD 0 false = true ∧ old.getD 0 false = false ∧ elsewhere = true := by
    rw [setsAt 0 (by decide), Bool.and_eq_true, Bool.and_eq_true, Bool.not_eq_true', and_assoc]
  rw [Bool.or_eq_true, Bool.or_eq_true, Bool.or_eq_true, Bool.or_eq_true, otherIff, offeredIff, takenIff, decide_eq_true_iff,
    Bool.and_eq_true, bne_iff_ne, or_assoc, or_assoc, or_assoc, or_comm, or_assoc, or_assoc, or_assoc]
  rfl

/-- GPIO_ASSIGN takes a write that R430 does not refuse. -/
theorem State.writeGpio_cases (s : State) (off g v : Nat) :
    (gpioRefused (gpioClaims v) (s.pin g).held g s.locked (s.debugElsewhere g) → s.writeGpio off g v = s.reject off) ∧
    (¬gpioRefused (gpioClaims v) (s.pin g).held g s.locked (s.debugElsewhere g) → s.writeGpio off g v = s.setPin g { s.pin g with
      outLow := v.testBit 8, debug := v.testBit 3, tsync := v.testBit 2, genOut := v.testBit 1, genIn := v.testBit 0,
      pulse := (s.pin g).pulse && v.testBit 3 }) := by
  have elsewhere : (List.range 4).any (fun k => k != g && (s.pin k).debug) = true ↔ s.debugElsewhere g := by
    simp only [List.any_eq_true, List.mem_range, Bool.and_eq_true, bne_iff_ne, State.debugElsewhere]
  have refused := gpioRefused_iff (v.testBit 3, v.testBit 2, v.testBit 1, v.testBit 0)
    ((s.pin g).debug, (s.pin g).tsync, (s.pin g).genOut, (s.pin g).genIn) g s.locked
    ((List.range 4).any (fun k => k != g && (s.pin k).debug))
  rw [elsewhere] at refused
  exact ⟨fun bad => if_pos (refused.2 bad), fun good => if_neg (fun bad => good (refused.1 bad))⟩

theorem regAt_gpio (g : Fin 4) : regAt (0x10050 + 4 * g.val) = some (.gpio g.val, 32) := by
  fin_cases g <;> rfl

/-- Settles O14, by `State.writeGpio_cases`. -/
theorem gpioClaimsFollowTheirRules : Obligations.GpioClaimsFollowTheirRules := by
  intro s pin v level x t claims held several other notOffered taken
  have shown : exec (.gpioAssignWrite pin v level) s = .next (t.writeSetup (0x10050 + 4 * pin.val) 32 (v.setWidth 64)) := rfl
  have write (ready : s.cfgReady = true) :
      exec (.gpioAssignWrite pin v level) s = .next (t.writeGpio (0x10050 + 4 * pin.val) pin v.toNat) := by
    rw [shown, State.writeSetup_word t ready (regAt_gpio pin)]
    simp only [State.writeReg, toNat_setWidth_word]
  have self : t.pin pin = { x with extern := level } := s.pin_setPin pin _
  have elsewhere : t.debugElsewhere pin ↔ s.debugElsewhere pin :=
    exists_congr fun k => and_congr_right fun _ => and_congr_right fun apart => by rw [s.pin_setPin_ne pin k _ apart]
  have named : (pin : Nat) ≠ 0 ↔ pin ≠ 0 := by rw [Ne, Ne, Fin.val_eq_zero_iff]
  have refusedIff : gpioRefused (gpioClaims v.toNat) (t.pin pin).held pin t.locked (t.debugElsewhere pin) ↔
      several ∨ other ∨ notOffered ∨ taken ∨ (s.locked = true ∧ claims ≠ held) := by
    rw [self, elsewhere, gpioRefused, named]
    rfl
  refine ⟨fun early => ?early, fun ready => ⟨fun one other_ offers open_ lock => ?taken, fun bad => ?refused⟩, fun g pulsing => ?ends⟩
  case early => rw [shown, State.writeSetup_of_not_ready (s := t) early]
  case taken =>
    rw [write ready, (t.writeGpio_cases _ _ _).2 (refusedIff.not.2 ?_), self]
    rintro (bad | bad | bad | bad | bad)
    · exact one bad
    · exact other_ bad
    · exact offers bad
    · exact open_ bad
    · exact bad.2 (lock bad.1)
  case refused => rw [write ready, (t.writeGpio_cases _ _ _).1 (refusedIff.2 bad)]
  case ends => simp only [exec, execDebugTrigPulseEnd, if_pos pulsing]

end Sys2Proof.Machine
end

section
/-! PROOFS. Power capping, module resets, start-up and firmware programming (R413, R433 to R457): what each leaves in the registers and
in flash. -/
namespace Sys2Proof.Machine

/-! ## Records of the fault log (R406 to R409) -/

/-- The state with other books of the fault log: free values, the clock, LOST and the queue. -/
def State.withLog (s : State) (free clock : Nat) (lost : Word32) (queue : List LogRec) : State :=
  { s with freeCount := free, clockNs := clock, logLost := lost, logQueue := queue }

/-- `t` is `s` but for the books of the fault log. -/
def State.LogOnly (s t : State) : Prop := ∃ free clock lost queue, t = s.withLog free clock lost queue

theorem State.LogOnly.refl (s : State) : s.LogOnly s := ⟨s.freeCount, s.clockNs, s.logLost, s.logQueue, rfl⟩

theorem State.LogOnly.trans {s t u : State} (first : s.LogOnly t) (next : t.LogOnly u) : s.LogOnly u := by
  obtain ⟨free, clock, lost, queue, rfl⟩ := first
  obtain ⟨free', clock', lost', queue', rfl⟩ := next
  exact ⟨free', clock', lost', queue', rfl⟩

theorem State.logOnly_log (s : State) (r : LogRec) : s.LogOnly (s.log r) := by
  have read : s.LogOnly s.now.2 := ⟨_, _, _, _, rfl⟩
  unfold State.log
  generalize s.now = x at read
  obtain ⟨time, u⟩ := x
  obtain ⟨free, clock, lost, queue, rfl⟩ := read
  dsimp only
  split
  · exact ⟨_, _, _, _, rfl⟩
  split
  · exact ⟨_, _, _, _, rfl⟩
  · exact ⟨_, _, _, _, rfl⟩

theorem State.LogOnly.foldl {α : Type} {g : State → α → State} (each : ∀ u a, State.LogOnly u (g u a)) (l : List α) (s : State) :
    s.LogOnly (l.foldl g s) :=
  List.foldlRecOn (motive := s.LogOnly) l g (.refl s) fun u known a _ => known.trans (each u a)

/-! ## The power controller (R438, R439) -/

/-- Over a limit, a period may set FLOOR, with its record. -/
theorem State.logOnly_atLimit (s : State) (p : Power) (second : Bool) :
    ∃ floor, State.LogOnly { s with pwr := { p with floor := floor } } (State.capPeriod.atLimit s p second) := by
  unfold State.capPeriod.atLimit
  split
  · exact ⟨true, State.logOnly_log _ _⟩
  · exact ⟨p.floor, .refl _⟩

/-- SKIP after a period (R439). -/
def nextSkip (skip lim cap w ma : Nat) (t : Int) : Nat :=
  if ma > lim * 1000 then min 48 (skip + 8)
  else if w > cap ∨ t ≥ 105000 then min 48 (skip + 1)
  else if 100 * w < 97 * cap ∧ 100 * ma < 97 * (lim * 1000) ∧ t < 100000 then skip - 1
  else skip

theorem toNat_ofNat_skip {n : Nat} (low : n ≤ 48) : (BitVec.ofNat 6 n).toNat = n := toNat_ofNat_of_lt (by omega)

/-- What a period writes to POWER (R438, R439): the readings beside the limits. -/
structure Power.Period (old new : Power) (w ma mv : Nat) (skip : Nat) : Prop where
  moved  : new.skip.toNat = skip
  watts  : new.watts = BitVec.ofNat 16 w
  amps   : new.amps = BitVec.ofNat 16 (ma / 10)
  volts  : new.volts = BitVec.ofNat 16 (mv / 10)
  limits : new.iLimit = old.iLimit ∧ new.capW = old.capW
  floor  : new.skip.toNat < old.skip.toNat → new.floor = false

/-- Over a limit SKIP rises to `n`, or stands there. -/
theorem State.capPeriod_over (s : State) (p q : Power) (second : Bool) {w ma mv n : Nat}
    (rises : s.pwr.skip.toNat ≤ n) (stays : s.pwr.Period p w ma mv s.pwr.skip.toNat)
    (raised : s.pwr.Period { q with floor := p.floor } w ma mv n) :
    ∃ p', State.LogOnly { s with pwr := p' } (State.capPeriod.atLimit s (if n > s.pwr.skip.toNat then q else p) second) ∧
      s.pwr.Period p' w ma mv n := by
  obtain ⟨floor, logged⟩ := s.logOnly_atLimit (if n > s.pwr.skip.toNat then q else p) second
  refine ⟨_, logged, ?_⟩
  split
  · exact { raised with floor := fun falls => absurd falls (by rw [show q.skip.toNat = n from raised.moved]; exact rises.not_gt) }
  next top =>
    have here : s.pwr.skip.toNat = n := by omega
    exact { stays with
      moved := stays.moved.trans here
      floor := fun falls => absurd falls (by rw [show p.skip.toNat = _ from stays.moved]; exact lt_irrefl _) }

/-- POWER after a period: SKIP as R439 gives, the readings, the limits; a falling SKIP clears FLOOR. -/
theorem State.capPeriod_power (s : State) (w ma mv : Nat) (t : Int) (second : Bool) (low : s.pwr.skip.toNat ≤ 48) :
    ∃ p : Power, State.LogOnly { s with pwr := p } (s.capPeriod w ma mv t second) ∧
      s.pwr.Period p w ma mv (nextSkip s.pwr.skip.toNat s.pwr.iLimit.toNat s.pwr.capW.toNat w ma t) := by
  unfold State.capPeriod nextSkip
  extract_lets p0 p skip lim cap n8 n1 raised
  have stays : s.pwr.Period p w ma mv skip := ⟨rfl, rfl, rfl, rfl, ⟨rfl, rfl⟩, fun falls => absurd falls (lt_irrefl _)⟩
  have raises {n : Nat} (low : n ≤ 48) (rises : skip ≤ n) (c pl th fl : Bool) : s.pwr.Period
      { p with skip := BitVec.ofNat 6 n, current := c, powerLim := pl, thermal := th, floor := fl } w ma mv n :=
    have taken := toNat_ofNat_skip low
    ⟨taken, rfl, rfl, rfl, ⟨rfl, rfl⟩, fun falls => absurd falls (taken.symm ▸ rises.not_gt : ¬(BitVec.ofNat 6 n).toNat < skip)⟩
  change skip ≤ 48 at low
  split
  · exact s.capPeriod_over p _ second (n := n8) (show skip ≤ n8 by omega) stays (raises (by omega) (by omega) ..)
  split
  · exact s.capPeriod_over p raised second (n := n1) (show skip ≤ n1 by omega) stays (raises (by omega) (by omega) ..)
  split
  next falling =>
    obtain ⟨watts, amps, cool, above⟩ := falling
    refine ⟨_, .refl _, ?_⟩
    rw [if_pos ⟨watts, by show 100 * ma < 97 * (lim * 1000); omega, cool⟩]
    exact ⟨toNat_ofNat_skip (show skip - 1 ≤ 48 by omega), rfl, rfl, rfl, ⟨rfl, rfl⟩, fun _ => rfl⟩
  next staying =>
    refine ⟨p, .refl _, ?_⟩
    split
    next down =>
      obtain ⟨watts, amps, cool⟩ := down
      change 100 * ma < 97 * (lim * 1000) at amps
      have bottom : skip - 1 = skip := by
        by_contra above
        exact staying ⟨watts, by omega, cool, by omega⟩
      exact { stays with moved := bottom.symm }
    · exact stays

/-- Settles O15, by `State.capPeriod_power`. -/
theorem powerControllerPeriod : Obligations.PowerControllerPeriod := by
  intro s w ma mv t second run low
  have effect : exec (.capPeriod w ma mv t second) s = .next (s.capPeriod w ma mv t second) :=
    congrArg Host.Outcome.next (if_pos run)
  obtain ⟨p, ⟨free, clock, lost, queue, period⟩, ⟨skip, watts, amps, volts, ⟨lim, cap⟩, floor⟩⟩ := s.capPeriod_power w ma mv t second low
  rw [effect, period]
  exact ⟨_, rfl, skip, watts, amps, volts, lim, cap, floor, rfl, rfl, rfl, rfl, rfl, rfl⟩

/-! ## Module resets (R440 to R454) -/

/-- What a module reset puts back needs no look at the state before. -/
theorem State.justReset_moduleReset (s : State) (ps : PowerState) : (s.moduleReset ps).JustReset :=
  ⟨rfl, ⟨rfl, rfl⟩, ⟨rfl, rfl, rfl, rfl⟩, ⟨rfl, rfl, rfl, rfl, rfl⟩, ⟨rfl, rfl, rfl, rfl, rfl, rfl⟩,
    ⟨rfl, rfl, rfl, rfl, rfl, rfl, rfl, rfl, rfl⟩, ⟨rfl, rfl, rfl, rfl, rfl, rfl, rfl⟩⟩

/-- The standby domain's own marks are no part of what a reset puts back. -/
theorem State.JustReset.with_standby {t : State} (reset : t.JustReset) (holdup input tripped : Bool) (clock : Nat) :
    State.JustReset { t with holdup := holdup, input := input, tripped := tripped, clockNs := clock, alert := false } := by
  obtain ⟨locked, rejects, identity, settings, tenants, engines, trained, cfg, pll, -, queue, lost, dirty⟩ := reset
  exact ⟨locked, rejects, identity, settings, tenants, engines, trained, cfg, pll, rfl, queue, lost, dirty⟩

section
variable (x : Flash) (b : Bool) (v : FwSlot)

@[simp] theorem Flash.log_setSlot : (x.setSlot b v).log = x.log := by cases b <;> rfl
@[simp] theorem Flash.marker_setSlot : (x.setSlot b v).marker = x.marker := by cases b <;> rfl
@[simp] theorem Flash.running_setSlot : (x.setSlot b v).running b = v := by cases b <;> rfl
@[simp] theorem Flash.other_setSlot_not : (x.setSlot (!b) v).other b = v := by cases b <;> rfl
@[simp] theorem Flash.running_setSlot_not : (x.setSlot (!b) v).running b = x.running b := by cases b <;> rfl

end

/-- An interrupted programming leaves the records of the log and the marker. -/
theorem State.cutProgramming_eq (s : State) : ∃ (fl : Flash) (free : Nat),
    s.cutProgramming = { s with flash := fl, freeCount := free } ∧ fl.log = s.flash.log ∧ fl.marker = s.flash.marker := by
  unfold State.cutProgramming
  split
  · exact ⟨s.flash, s.freeCount, rfl, rfl, rfl⟩
  extract_lets k ticked torn whole
  split
  · exact ⟨s.flash, _, rfl, rfl, rfl⟩
  · exact ⟨_, _, rfl, s.flash.log_setSlot _ _, s.flash.marker_setSlot _ _⟩

/-- A record that reaches flash at once: its kind, its SEQ and its event. -/
theorem State.flashNow_eq (s : State) (kind : BitVec 8) (event value : Nat) :
    ∃ x free clock, s.flashNow kind event value =
        { s with flash := { s.flash with log := (x :: s.flash.log).take 4095 }, freeCount := free, clockNs := clock, logLost := 0 } ∧
      x.kind = kind ∧ x.seq = s.logEnd + 1 ∧ x.detail = eventDetail event value 0 :=
  ⟨_, _, _, rfl, rfl, rfl, rfl⟩

/-- A self-reset after a record. -/
theorem State.selfReset_flashNow (s : State) (event : Nat) : ∃ x : LogRec, ∃ t : State,
    (s.flashNow kindPower event 0).selfReset = t ∧ t.JustReset ∧ t.power = .standby ∧
      t.flash.log = (x :: s.flash.log).take 4095 ∧ x.kind = kindPower ∧ x.seq = s.logEnd + 1 ∧ x.detail = eventDetail event 0 0 := by
  obtain ⟨x, free, clock, recorded, kind, seq, detail⟩ := s.flashNow_eq kindPower event 0
  obtain ⟨fl, free', cut, log, -⟩ := (s.flashNow kindPower event 0).cutProgramming_eq
  refine ⟨x, _, rfl, State.justReset_moduleReset _ _, rfl, ?_, kind, seq, detail⟩
  rw [State.selfReset, cut]
  exact log.trans (by rw [recorded])

/-- A power-fail: the marker counts the records that wait. -/
theorem State.powerLost_eq (s : State) : ∃ (t : State) (m : Marker), s.powerLost = t ∧ t.JustReset ∧ t.power = .off ∧ t.holdup = true ∧
    t.flash.marker = some m ∧ m.discarded = BitVec.ofNat 16 (s.logQueue.length - 1) ∧ t.flash.log = s.flash.log := by
  obtain ⟨fl, free, cut, log, -⟩ := s.now.2.cutProgramming_eq
  refine ⟨_, _, rfl, (State.justReset_moduleReset _ .off).with_standby true _ _ 0, rfl, rfl, rfl, rfl, ?_⟩
  exact (congrArg (fun u => u.flash.log) cut).trans log

/-- Settles O16, source by source. -/
theorem moduleResetsReturnToReset : Obligations.ModuleResetsReturnToReset := by
  intro s
  refine ⟨fun high => ?pin, fun up => ⟨?watchdog, ?trip, ?fail, ?removed⟩, fun down => ?unpowered, fun run => ?pll, fun holdup => ?expiry⟩
  case pin =>
    obtain ⟨fl, free, cut, log, -⟩ := s.cutProgramming_eq
    refine ⟨_, congrArg Host.Outcome.next (if_pos high), State.justReset_moduleReset _ _, rfl, rfl, ?_⟩
    rw [cut]
    exact ⟨rfl, rfl, log, rfl⟩
  case watchdog =>
    obtain ⟨fl, free, cut, log, -⟩ := s.cutProgramming_eq
    refine ⟨_, congrArg Host.Outcome.next (if_pos up), State.justReset_moduleReset _ _, rfl, ?_⟩
    rw [State.selfReset, cut]
    exact ⟨log, rfl⟩
  case trip =>
    obtain ⟨x, t, reset, just, -, log, kind, seq, detail⟩ := s.selfReset_flashNow 0x02
    refine ⟨_, x, congrArg Host.Outcome.next (if_pos up), ?_⟩
    rw [reset]
    exact ⟨{ just with }, rfl, log, kind, seq, by rw [detail]; rfl⟩
  case fail =>
    obtain ⟨t, m, lost, just, off, holdup, marker, count, log⟩ := s.powerLost_eq
    exact ⟨t, m, (congrArg Host.Outcome.next (if_pos up)).trans (by rw [lost]), just, off, holdup, marker, count, log⟩
  case removed =>
    obtain ⟨t, m, lost, just, off, -, marker, -, log⟩ := s.powerLost_eq
    refine ⟨_, m, congrArg Host.Outcome.next (if_pos up), ?_⟩
    rw [lost]
    exact ⟨just.with_standby _ _ _ _, off, rfl, rfl, marker, log⟩
  case unpowered =>
    exact ⟨_, congrArg Host.Outcome.next (if_neg (Bool.not_eq_true _ ▸ down)), (State.justReset_moduleReset s .off).with_standby _ _ _ _,
      rfl, rfl, rfl, rfl⟩
  case pll =>
    obtain ⟨x, t, reset, just, standby, log, kind, seq, detail⟩ := s.selfReset_flashNow 0x05
    exact ⟨t, x, (congrArg Host.Outcome.next (if_pos run)).trans (by rw [reset]), just, standby, log, kind, seq, by rw [detail]; rfl⟩
  case expiry => exact congrArg Host.Outcome.next (if_pos holdup)

/-! ## Start-up (R434, R444, R446, R453, R456) -/

/-- The marker of a power-fail is retired, and LOST_POWER says that there was one (R444, R453). -/
def State.markerRetired (s : State) : State :=
  { s with lostPower := s.lostPower || s.flash.marker.isSome, flash := { s.flash with marker := none } }

/-- The state with another firmware control. -/
def State.withFw (s : State) (fw : FwCtrl) : State := { s with fw := fw }

theorem State.LogOnly.withFw {s t : State} (logged : s.LogOnly t) (fw : FwCtrl) : (s.withFw fw).LogOnly (t.withFw fw) := by
  obtain ⟨free, clock, lost, queue, rfl⟩ := logged
  exact ⟨free, clock, lost, queue, rfl⟩

/-- The start-up records retire the marker and leave the running image. -/
theorem State.startRecords_eq (s : State) (rolled : Bool) : ∃ fw : FwCtrl,
    (s.markerRetired.withFw fw).LogOnly (s.startRecords rolled) ∧
    fw.runningB = s.fw.runningB ∧ fw.rolledBack = s.fw.rolledBack ∧ fw.version = s.fw.version := by
  unfold State.startRecords
  extract_lets _ _ marked torn logged _ failed
  have markedOnly : s.markerRetired.LogOnly marked := by
    simp only [marked]
    cases retired : s.flash.marker with
    | none =>
      have none_ : { s.flash with marker := none } = s.flash := by rw [← retired]
      have same : s.markerRetired = s := by simp only [State.markerRetired, retired, none_, Option.isSome_none, Bool.or_false]
      rw [same]
      exact .refl s
    | some m =>
      have same : s.markerRetired = { s with lostPower := true, flash := { s.flash with marker := none } } := by
        simp only [State.markerRetired, retired, Option.isSome_some, Bool.or_true]
      rw [same]
      exact State.logOnly_log _ _
  have loggedOnly : s.markerRetired.LogOnly logged :=
    markedOnly.trans (State.LogOnly.foldl (fun u x => u.logOnly_log _) torn marked)
  have fwOf {t : State} (only : s.markerRetired.LogOnly t) : t.fw = s.fw := by
    obtain ⟨free, clock, lost, queue, rfl⟩ := only
    rfl
  have failedOnly : ∃ fw : FwCtrl, (s.markerRetired.withFw fw).LogOnly failed ∧
      fw.runningB = s.fw.runningB ∧ fw.rolledBack = s.fw.rolledBack ∧ fw.version = s.fw.version := by
    simp only [failed]
    split
    · refine ⟨_, loggedOnly.withFw { logged.fw with state := .failed, cause := 6 }, ?_⟩
      rw [fwOf loggedOnly]
      exact ⟨rfl, rfl, rfl⟩
    · exact ⟨s.fw, loggedOnly, rfl, rfl, rfl⟩
  split
  · obtain ⟨fw, only, same⟩ := failedOnly
    exact ⟨fw, only.trans (failed.logOnly_log _), same⟩
  · exact failedOnly

/-- The state of a start-up before its records: START, the straps, the chosen image (R446, R455, R456). -/
def State.started (s : State) (straps : BitVec 2) (b rolled : Bool) : State :=
  let slot := if !rolled ∧ (s.flash.running b).attempt = 0xFF then { s.flash.running b with attempt := 0 } else s.flash.running b
  { s with
    input := true, resetIn := true, straps := if s.input then s.straps else straps, power := .start,
    flash := { s.flash.setSlot b slot with boots := s.flash.boots + 1 },
    fw := { runningB := b, rolledBack := rolled, version := slot.version } }

theorem State.startUp_of_chosen (s : State) (straps : BitVec 2) (b rolled : Bool) (chosen : s.flash.choose = some (b, rolled)) :
    s.startUp straps = (s.started straps b rolled).restoreKept.startRecords rolled := by
  simp only [State.startUp, chosen]
  rfl

/-- START_UP with a valid image (R446, R456). -/
theorem State.startUp_fields (s : State) (straps : BitVec 2) (b rolled : Bool) (chosen : s.flash.choose = some (b, rolled)) :
    ∃ t, s.startUp straps = t ∧ t.power = .start ∧ t.input = true ∧ t.resetIn = true ∧
      t.straps = (if s.input = true then s.straps else straps) ∧
      t.fw.runningB = b ∧ t.fw.rolledBack = rolled ∧ t.fw.version = (s.flash.running b).version ∧
      t.flash.boots = s.flash.boots + 1 ∧ t.flash.marker = none ∧
      (t.lostPower = true ↔ s.lostPower = true ∨ s.flash.marker.isSome = true) := by
  obtain ⟨fw, ⟨free, clock, lost, queue, records⟩, runningB, rolledBack, version⟩ :=
    (s.started straps b rolled).restoreKept.startRecords_eq rolled
  have slotVersion : (s.started straps b rolled).fw.version = (s.flash.running b).version := by
    simp only [State.started]
    split <;> rfl
  have marker : (s.started straps b rolled).flash.marker = s.flash.marker := s.flash.marker_setSlot b _
  refine ⟨_, (s.startUp_of_chosen straps b rolled chosen).trans records, rfl, rfl, rfl, rfl, runningB, rolledBack,
    version.trans slotVersion, rfl, rfl, ?_⟩
  rw [← marker]
  exact (Bool.or_eq_true _ _).to_iff

/-! ## Training (R444, R447, R456) -/

theorem State.trainingEnd_fields (s : State) (hbm : BitVec 12) (tier : BitVec 4) : ∃ t, s.trainingEnd hbm tier = t ∧
    t.trained = true ∧ t.hbmFail = hbm ∧ t.tierFail = tier ∧ (t.flash.running s.fw.runningB).confirmed ≠ 0xFF ∧
    t.power = s.power ∧ t.parts = s.parts ∧ t.mem = s.mem := by
  refine ⟨_, rfl, ?_⟩
  unfold State.trainingEnd
  extract_lets trained hbms tiers slot
  have failures (mask : Nat) (l : List Nat) (u : State) :
      u.LogOnly (l.foldl (fun u k => if mask.testBit k then u.logPower 0x03 k else u) u) := by
    refine State.LogOnly.foldl (fun v k => ?_) l u
    split
    · exact v.logOnly_log _
    · exact .refl v
  obtain ⟨free, clock, lost, queue, logged⟩ : trained.LogOnly tiers := (failures _ _ trained).trans (failures _ _ hbms)
  have slotEq : slot = s.flash.running s.fw.runningB := by
    simp only [slot, logged]
    rfl
  split
  · obtain ⟨free', clock', lost', queue', recorded⟩ := State.logOnly_log
      { tiers with flash := tiers.flash.setSlot tiers.fw.runningB { slot with confirmed := 0 } }
      { kind := kindFirmware, detail := eventDetail 0x02 slot.version.toNat 0 }
    rw [State.logFirmware, recorded]
    simp only [logged]
    refine ⟨rfl, rfl, rfl, ?_, rfl, rfl, rfl⟩
    show ((s.flash.setSlot s.fw.runningB _).running s.fw.runningB).confirmed ≠ 0xFF
    rw [Flash.running_setSlot]
    exact (by decide : (0 : Byte) ≠ 0xFF)
  next known =>
    have running : tiers.flash = s.flash := by rw [logged]; rfl
    rw [running, ← slotEq]
    refine ⟨by rw [logged]; rfl, by rw [logged]; rfl, by rw [logged]; rfl, by simpa using known, by rw [logged]; rfl, by rw [logged]; rfl,
      by rw [logged]; rfl⟩

/-- Settles O17, step by step of the start-up. -/
theorem startUpReachesConfigurationReady : Obligations.StartUpReachesConfigurationReady := by
  intro s hbm tier straps rate x16
  refine ⟨fun b rolled off cool spent chosen => ?start, fun start => ?lock, fun run untrained => ?train, rfl, fun run high => ?ready⟩
  case start =>
    obtain ⟨t, started, fields⟩ := s.startUp_fields straps b rolled chosen
    have may : (s.power = .off ∨ s.power = .standby) ∧ !s.tripped ∧ !s.holdup := ⟨off, by rw [cool]; rfl, by rw [spent]; rfl⟩
    exact ⟨t, congrArg Host.Outcome.next ((if_pos may).trans started), fields⟩
  case lock => exact congrArg Host.Outcome.next (if_pos start)
  case train =>
    obtain ⟨t, ended, trained, hbmFail, tierFail, confirmed, power, parts, mem⟩ := s.trainingEnd_fields hbm tier
    have may : s.power = .run ∧ !s.trained := ⟨run, by rw [untrained]; rfl⟩
    exact ⟨t, congrArg Host.Outcome.next ((if_pos may).trans ended), trained, hbmFail, tierFail, confirmed, power.trans run, parts, mem⟩
  case ready => exact congrArg Host.Outcome.next (if_pos ⟨run, high⟩)

/-! ## Firmware programming (R455, R457) -/

theorem State.writeFwCtrl_cases (s : State) (off : Nat) (v : Word64) :
    s.writeFwCtrl off v = if v.toNat.testBit 63 = false then s else if s.fw.program = true then s.reject off
      else { s with fw := { s.fw with program := true, state := .checking, cause := 0 } } := by
  unfold State.writeFwCtrl bitAt
  cases v.toNat.testBit 63 <;> rfl

/-- The larger generation plus one, where both slots are valid (R457). -/
theorem Flash.nextGeneration_of_valid (x : Flash) (a : x.slotA.checksOk = true) (b : x.slotB.checksOk = true) :
    x.nextGeneration.toNat = (max x.slotA.generation.toNat x.slotB.generation.toNat + 1) % 2 ^ 32 := by
  simp [Flash.nextGeneration, a, b]

theorem State.imageVersion_eq (s : State) : s.imageVersion =
    (s.mem.read (s.fw.src.toNat * 4096 + 4)).toNat + 256 * (s.mem.read (s.fw.src.toNat * 4096 + 5)).toNat := by
  simp [State.imageVersion, Memory.readN_eq, List.range_succ, leNat]

/-- The end of a programming: the control register and the slots, whatever the record that tells of it (R457). -/
def State.programmed (s : State) (st : FwState) (cause : BitVec 4) (fl : Flash) : State :=
  { s with fw := { s.fw with program := false, state := st, cause := cause }, flash := fl }

/-- The slot that a good programming writes. -/
def State.newSlot (s : State) : FwSlot :=
  { erased := false, checksOk := true, keyOk := true, version := BitVec.ofNat 16 s.imageVersion, generation := s.flash.nextGeneration }

theorem State.fwDone_of_running (s : State) (keyOk flashOk : Bool) (runs : s.fw.program = true) : ∃ event,
    s.fwDone keyOk flashOk =
      (if s.imageCause keyOk ≠ 0 then s.programmed .failed (s.imageCause keyOk) s.flash
       else if flashOk = false then s.programmed .failed 5 (s.flash.setSlot (!s.fw.runningB) { erased := false })
       else s.programmed .done 0 (s.flash.setSlot (!s.fw.runningB) s.newSlot)).logFirmware event s.imageVersion := by
  unfold State.fwDone
  simp only [runs, Bool.not_true, Bool.false_eq_true, if_false, Bool.not_eq_true']
  split
  · exact ⟨4, rfl⟩
  split
  · exact ⟨4, rfl⟩
  · exact ⟨1, rfl⟩

/-- Settles O26: the start by `State.writeFwCtrl_cases`, the end by `State.fwDone_of_running`. -/
theorem firmwareProgramming : Obligations.FirmwareProgramming := by
  intro s v keyOk flashOk
  refine ⟨fun ready => ?start, fun idle => congrArg Host.Outcome.next (if_pos (by rw [idle]; rfl)), fun runs => ?done⟩
  case start =>
    have effect : exec (.fwProgram v) s = .next (s.writeFwCtrl 0x10048 v) := by
      show Host.Outcome.next (s.writeSetup 0x10048 64 v) = _
      rw [s.writeSetup_double ready (x := .fwCtrl) rfl]
      rfl
    rw [effect, s.writeFwCtrl_cases]
    refine ⟨fun plain => by rw [if_pos plain], fun set busy => ?_, fun set free => ?_⟩
    · rw [set, if_neg (by decide), if_pos busy]
    · rw [set, if_neg (by decide), if_neg (by rw [free]; decide)]
  case done =>
    obtain ⟨event, done⟩ := s.fwDone_of_running keyOk flashOk runs
    obtain ⟨free, clock, lost, queue, recorded⟩ := State.logOnly_log
      (if s.imageCause keyOk ≠ 0 then s.programmed .failed (s.imageCause keyOk) s.flash
       else if flashOk = false then s.programmed .failed 5 (s.flash.setSlot (!s.fw.runningB) { erased := false })
       else s.programmed .done 0 (s.flash.setSlot (!s.fw.runningB) s.newSlot))
      { kind := kindFirmware, detail := eventDetail event s.imageVersion 0 }
    refine ⟨_, congrArg Host.Outcome.next (done.trans recorded), ?_⟩
    by_cases bad : s.imageCause keyOk = 0
    · rw [if_neg (not_not.2 bad)]
      cases flashOk with
      | false =>
        refine ⟨rfl, s.flash.running_setSlot_not _ _, rfl, rfl, s.flash.log_setSlot _ _,
          fun worse => absurd bad worse, fun _ _ => ⟨rfl, rfl, ?_⟩, fun _ ok => Bool.noConfusion ok⟩
        rw [show (State.withLog _ free clock lost queue).flash = s.flash.setSlot (!s.fw.runningB) { erased := false } from rfl,
          Flash.other_setSlot_not]
        exact ⟨rfl, rfl⟩
      | true =>
        refine ⟨rfl, s.flash.running_setSlot_not _ _, rfl, rfl, s.flash.log_setSlot _ _,
          fun worse => absurd bad worse, fun _ no => Bool.noConfusion no, fun _ _ => ⟨rfl, rfl, ?_⟩⟩
        rw [show (State.withLog _ free clock lost queue).flash = s.flash.setSlot (!s.fw.runningB) s.newSlot from rfl,
          Flash.other_setSlot_not]
        refine ⟨rfl, rfl, ?version, ?generation, rfl, rfl⟩
        case version =>
          have first := (s.mem.read (s.fw.src.toNat * 4096 + 4)).isLt
          have second := (s.mem.read (s.fw.src.toNat * 4096 + 5)).isLt
          rw [← s.imageVersion_eq]
          exact toNat_ofNat_of_lt (by rw [s.imageVersion_eq]; omega)
        case generation =>
          by_cases a : s.flash.slotA.checksOk = true
          · by_cases b : s.flash.slotB.checksOk = true
            · exact .inl (s.flash.nextGeneration_of_valid a b)
            · exact .inr (.inr (Bool.not_eq_true _ ▸ b))
          · exact .inr (.inl (Bool.not_eq_true _ ▸ a))
    · rw [if_pos bad]
      exact ⟨rfl, rfl, rfl, rfl, rfl, fun _ => ⟨rfl, rfl, rfl⟩, fun good => absurd good bad, fun good => absurd good bad⟩

end Sys2Proof.Machine
end

section
/-! PROOFS. Messages, notices and weir marks (R189, R190, R355, R357): what they change, and what they leave. -/
namespace Sys2Proof.Machine

/-! ## Messages and notices (R355, R357) -/

/-- `t` is `s` but for messages sent, pending bits and notice causes. -/
structure State.Noticed (s t : State) : Prop where
  rest : ∃ fns msgs, t = { s with fns := fns, msgs := msgs }
  fn   : ∀ f, ∃ pending cause, t.fn f = { s.fn f with pending := pending, cause := cause }

theorem State.Noticed.refl (s : State) : s.Noticed s := ⟨⟨s.fns, s.msgs, rfl⟩, fun f => ⟨(s.fn f).pending, (s.fn f).cause, rfl⟩⟩

theorem State.Noticed.trans {s t u : State} (first : s.Noticed t) (next : t.Noticed u) : s.Noticed u := by
  refine ⟨?_, fun f => ?_⟩
  · obtain ⟨fns, msgs, rfl⟩ := first.rest
    obtain ⟨fns', msgs', rfl⟩ := next.rest
    exact ⟨fns', msgs', rfl⟩
  · obtain ⟨pending, cause, here⟩ := first.fn f
    obtain ⟨pending', cause', there⟩ := next.fn f
    exact ⟨pending', cause', by rw [there, here]⟩

/-- A write to a page set that changes no more than pending bits and causes. -/
theorem State.noticed_setFn (s : State) (f : Nat) (pending : BitVec 17) (cause : Notices) :
    s.Noticed (s.setFn f { s.fn f with pending := pending, cause := cause }) := by
  refine ⟨⟨_, s.msgs, rfl⟩, fun g => ?_⟩
  by_cases same : g = f
  · exact ⟨pending, cause, by rw [same, s.fn_setFn]⟩
  · exact ⟨(s.fn g).pending, (s.fn g).cause, by rw [s.fn_setFn_ne f g _ same]⟩

theorem State.noticed_message (s : State) (f v : Nat) : s.Noticed (s.message f v) := by
  unfold State.message
  extract_lets x
  split
  · exact .refl s
  split
  · exact s.noticed_setFn f _ x.cause
  · exact ⟨⟨s.fns, _, rfl⟩, fun g => ⟨_, _, rfl⟩⟩

theorem State.noticed_notice (s : State) (f : Nat) (c : Cause) : s.Noticed (s.notice f c) := by
  have marked := s.noticed_setFn f (s.fn f).pending ((s.fn f).cause.mark c)
  unfold State.notice
  extract_lets x u
  split
  · exact .refl s
  split
  · exact marked.trans (State.noticed_message _ f 16)
  · exact marked

section
variable {s t : State} (noticed : s.Noticed t)
include noticed

theorem State.Noticed.sq (f r : Nat) : t.sq f r = s.sq f r := by
  obtain ⟨pending, cause, fn⟩ := noticed.fn f
  rw [State.sq, State.sq, fn]

theorem State.Noticed.cq (f c : Nat) : t.cq f c = s.cq f c := by
  obtain ⟨pending, cause, fn⟩ := noticed.fn f
  rw [State.cq, State.cq, fn]

theorem State.Noticed.vec (f v : Nat) : t.vec f v = s.vec f v := by
  obtain ⟨pending, cause, fn⟩ := noticed.fn f
  rw [State.vec, State.vec, fn]

theorem State.Noticed.weir (id : WeirId) : t.weir id = s.weir id := by
  obtain ⟨fns, msgs, rest⟩ := noticed.rest
  cases id with
  | sq f r => exact congrArg SubRing.weir (noticed.sq f r)
  | cq f c => exact congrArg CompRing.weir (noticed.cq f c)
  | pondCache | media | combineSlots | copyStaging | latentPool | gristTable => rw [rest]; rfl

end

/-- A message leaves the causes. -/
theorem State.cause_message (s : State) (f v g : Nat) : ((s.message f v).fn g).cause = (s.fn g).cause := by
  unfold State.message
  extract_lets x
  split
  · rfl
  split
  · by_cases same : g = f
    · rw [same, s.fn_setFn]
    · rw [s.fn_setFn_ne f g _ same]
  · rfl

/-- A message, and a notice, leave the other page sets. -/
theorem State.fn_message_ne (s : State) (f v : Nat) {g : Nat} (other : g ≠ f) : (s.message f v).fn g = s.fn g := by
  unfold State.message
  extract_lets x
  split
  · rfl
  split
  · exact s.fn_setFn_ne f g _ other
  · rfl

theorem State.fn_notice_ne (s : State) (f : Nat) (c : Cause) {g : Nat} (other : g ≠ f) : (s.notice f c).fn g = s.fn g := by
  have marked : (s.setFn f { s.fn f with cause := (s.fn f).cause.mark c }).fn g = s.fn g := s.fn_setFn_ne f g _ other
  unfold State.notice
  extract_lets x t
  split
  · rfl
  split
  · exact (t.fn_message_ne f 16 other).trans marked
  · exact marked

/-- A notice outside a reset sets its cause (R357, R359). -/
theorem State.cause_notice (s : State) (f : Nat) (c : Cause) (on : (s.fn f).resetting = false) :
    ((s.notice f c).fn f).cause = (s.fn f).cause.mark c := by
  have marked : ((s.setFn f { s.fn f with cause := (s.fn f).cause.mark c }).fn f).cause = (s.fn f).cause.mark c := by
    rw [s.fn_setFn]
  unfold State.notice
  extract_lets x t
  rw [if_neg (by rw [show x.resetting = false from on]; exact Bool.false_ne_true)]
  split
  · exact (t.cause_message f 16 f).trans marked
  · exact marked

/-- A message of an unmasked vector that may be sent. -/
theorem State.message_of_open {s : State} {f v : Nat} (enabled : (s.fn f).msixEn = true) (awake : (s.fn f).d3hot = false)
    (up : (s.fn f).resetting = false) (open_ : (s.fn f).fnMask = false) (unmasked : (s.vec f v).masked = false) :
    s.message f v = { s with msgs := { f := f, v := v, addr := (s.vec f v).addr, data := (s.vec f v).data } :: s.msgs } := by
  simp [State.message, enabled, awake, up, open_, unmasked]

/-! ## Weir marks (R189, R190) -/

@[simp] theorem State.weir_setWeir (s : State) (id : WeirId) (w : Weir) : (s.setWeir id w).weir id = w := by
  cases id <;> simp [State.weir, State.setWeir]

theorem State.resetting_setWeir (s : State) (id : WeirId) (w : Weir) (f : Nat) :
    ((s.setWeir id w).fn f).resetting = (s.fn f).resetting := by
  have page (g : Nat) (v : Func) (same : v.resetting = (s.fn g).resetting) : ((s.setFn g v).fn f).resetting = (s.fn f).resetting := by
    by_cases here : f = g
    · rw [here, s.fn_setFn, same]
    · rw [s.fn_setFn_ne g f _ here]
  cases id with
  | sq g r => exact page g _ rfl
  | cq g c => exact page g _ rfl
  | pondCache | media | combineSlots | copyStaging | latentPool | gristTable => rfl

theorem State.evalWeir_of_level {s : State} {id : WeirId} {l : Nat} (here : s.level id = some l) :
    s.evalWeir id = if ((s.weir id).step l).2 = true then (s.setWeir id ((s.weir id).step l).1).notice (weirOwner id) .weir
      else s.setWeir id ((s.weir id).step l).1 := by
  simp only [State.evalWeir, here]

theorem State.weir_evalWeir {s : State} {id : WeirId} {l : Nat} (here : s.level id = some l) :
    (s.evalWeir id).weir id = ((s.weir id).step l).1 := by
  rw [State.evalWeir_of_level here]
  split
  · rw [(State.noticed_notice _ _ _).weir, State.weir_setWeir]
  · exact State.weir_setWeir ..

theorem Weir.liveAt_eq (w : Weir) (l : Nat) : w.liveAt l =
    if w.falling then (if l ≤ w.low.toNat then true else if w.high.toNat < l then false else w.live)
    else (if w.high.toNat ≤ l then true else if l < w.low.toNat then false else w.live) := rfl

theorem Weir.step_fst (w : Weir) (l : Nat) : (w.step l).1 = if w.liveAt l = true ∧ w.live = false
    then { w with live := true, crossed := true, count := if w.count = 0xFFFF then w.count else w.count + 1 }
    else { w with live := w.liveAt l } := by
  unfold Weir.step
  cases now : w.liveAt l <;> cases before : w.live <;> rfl

/-- The notice of a mark that becomes live. -/
theorem Weir.step_snd {w : Weir} {l : Nat} (live : w.liveAt l = true) (before : w.live = false) (first : w.crossed = false)
    (notify : w.notify = true) : (w.step l).2 = true := by
  simp [Weir.step, live, before, first, notify]

/-- `t` is `s` but for weir marks and what notices change. -/
structure State.MarksOnly (s t : State) : Prop where
  rest  : ∃ fns msgs houses parts, t = { s with fns := fns, msgs := msgs, houses := houses, parts := parts }
  fn    : ∀ f, ∃ sqs cqs pending cause, t.fn f = { s.fn f with sqs := sqs, cqs := cqs, pending := pending, cause := cause }
  sq    : ∀ f r, ∃ w, t.sq f r = { s.sq f r with weir := w }
  cq    : ∀ f c, ∃ w, t.cq f c = { s.cq f c with weir := w }
  house : ∀ h, ∃ pond media slots staging, t.house h =
    { s.house h with pondWeir := pond, mediaWeir := media, slotWeir := slots, stageWeir := staging }
  part  : ∀ p, ∃ pool grist, t.part p = { s.part p with poolWeir := pool, gristWeir := grist }

theorem State.Noticed.marksOnly {s t : State} (noticed : s.Noticed t) : s.MarksOnly t := by
  obtain ⟨fns, msgs, rest⟩ := noticed.rest
  refine ⟨⟨fns, msgs, s.houses, s.parts, rest⟩, fun f => ?_, fun f r => ⟨_, noticed.sq f r⟩, fun f c => ⟨_, noticed.cq f c⟩,
    fun h => ⟨_, _, _, _, by rw [rest]; rfl⟩, fun p => ⟨_, _, by rw [rest]; rfl⟩⟩
  obtain ⟨pending, cause, fn⟩ := noticed.fn f
  exact ⟨_, _, pending, cause, fn⟩

theorem State.MarksOnly.refl (s : State) : s.MarksOnly s := (State.Noticed.refl s).marksOnly

theorem State.MarksOnly.trans {s t u : State} (first : s.MarksOnly t) (next : t.MarksOnly u) : s.MarksOnly u where
  rest := by
    obtain ⟨fns, msgs, houses, parts, rfl⟩ := first.rest
    obtain ⟨fns', msgs', houses', parts', rfl⟩ := next.rest
    exact ⟨fns', msgs', houses', parts', rfl⟩
  fn f := by
    obtain ⟨sqs, cqs, pending, cause, here⟩ := first.fn f
    obtain ⟨sqs', cqs', pending', cause', there⟩ := next.fn f
    exact ⟨sqs', cqs', pending', cause', by rw [there, here]⟩
  sq f r := by
    obtain ⟨w, here⟩ := first.sq f r
    obtain ⟨w', there⟩ := next.sq f r
    exact ⟨w', by rw [there, here]⟩
  cq f c := by
    obtain ⟨w, here⟩ := first.cq f c
    obtain ⟨w', there⟩ := next.cq f c
    exact ⟨w', by rw [there, here]⟩
  house h := by
    obtain ⟨a, b, c, d, here⟩ := first.house h
    obtain ⟨a', b', c', d', there⟩ := next.house h
    exact ⟨a', b', c', d', by rw [there, here]⟩
  part p := by
    obtain ⟨a, b, here⟩ := first.part p
    obtain ⟨a', b', there⟩ := next.part p
    exact ⟨a', b', by rw [there, here]⟩

theorem State.marksOnly_setSq (s : State) (f r : Nat) (w : Weir) : s.MarksOnly (s.setSq f r { s.sq f r with weir := w }) where
  rest := ⟨_, s.msgs, s.houses, s.parts, rfl⟩
  fn g := by
    by_cases here : g = f
    · exact ⟨_, _, _, _, by rw [here]; exact s.fn_setFn f _⟩
    · exact ⟨_, _, _, _, s.fn_setFn_ne f g _ here⟩
  sq g q := by
    by_cases here : g = f ∧ q = r
    · obtain ⟨rfl, rfl⟩ := here
      exact ⟨w, s.sq_setSq g q _⟩
    · exact ⟨_, s.sq_setSq_ne f r g q _ (not_and_or.1 here)⟩
  cq g c := ⟨_, s.cq_setSq f r g c _⟩
  house h := ⟨_, _, _, _, rfl⟩
  part p := ⟨_, _, rfl⟩

theorem State.marksOnly_setCq (s : State) (f r : Nat) (w : Weir) : s.MarksOnly (s.setCq f r { s.cq f r with weir := w }) where
  rest := ⟨_, s.msgs, s.houses, s.parts, rfl⟩
  fn g := by
    by_cases here : g = f
    · exact ⟨_, _, _, _, by rw [here]; exact s.fn_setFn f _⟩
    · exact ⟨_, _, _, _, s.fn_setFn_ne f g _ here⟩
  sq g q := ⟨_, s.sq_setCq f r g q _⟩
  cq g c := by
    by_cases here : g = f ∧ c = r
    · obtain ⟨rfl, rfl⟩ := here
      exact ⟨w, s.cq_setCq g c _⟩
    · exact ⟨_, s.cq_setCq_ne f r g c _ (not_and_or.1 here)⟩
  house h := ⟨_, _, _, _, rfl⟩
  part p := ⟨_, _, rfl⟩

theorem State.marksOnly_setHouse (s : State) (h : Nat) (pond media slots staging : Weir) : s.MarksOnly (s.setHouse h
    { s.house h with pondWeir := pond, mediaWeir := media, slotWeir := slots, stageWeir := staging }) where
  rest := ⟨s.fns, s.msgs, _, s.parts, rfl⟩
  fn g := ⟨_, _, _, _, rfl⟩
  sq g q := ⟨_, rfl⟩
  cq g c := ⟨_, rfl⟩
  house k := by
    by_cases here : k = h
    · exact ⟨_, _, _, _, by rw [here]; exact s.house_setHouse h _⟩
    · exact ⟨_, _, _, _, s.house_setHouse_ne h k _ here⟩
  part p := ⟨_, _, rfl⟩

theorem State.marksOnly_setPart (s : State) (p : Nat) (pool grist : Weir) : s.MarksOnly (s.setPart p
    { s.part p with poolWeir := pool, gristWeir := grist }) where
  rest := ⟨s.fns, s.msgs, s.houses, _, rfl⟩
  fn g := ⟨_, _, _, _, rfl⟩
  sq g q := ⟨_, rfl⟩
  cq g c := ⟨_, rfl⟩
  house h := ⟨_, _, _, _, rfl⟩
  part k := by
    by_cases here : k = p
    · exact ⟨_, _, by rw [here]; exact s.part_setPart p _⟩
    · exact ⟨_, _, s.part_setPart_ne p k _ here⟩

theorem State.marksOnly_setWeir (s : State) (id : WeirId) (w : Weir) : s.MarksOnly (s.setWeir id w) := by
  cases id with
  | sq f r => exact s.marksOnly_setSq f r w
  | cq f c => exact s.marksOnly_setCq f c w
  | pondCache h => exact s.marksOnly_setHouse h w _ _ _
  | media h => exact s.marksOnly_setHouse h _ w _ _
  | combineSlots h => exact s.marksOnly_setHouse h _ _ w _
  | copyStaging h => exact s.marksOnly_setHouse h _ _ _ w
  | latentPool p => exact s.marksOnly_setPart p w _
  | gristTable p => exact s.marksOnly_setPart p _ w

/-- Evaluating a mark changes marks, and what a notice changes. -/
theorem State.marksOnly_evalWeir (s : State) (id : WeirId) : s.MarksOnly (s.evalWeir id) := by
  cases here : s.level id with
  | none => simpa only [State.evalWeir, here] using State.MarksOnly.refl s
  | some l =>
    have stepped := s.marksOnly_setWeir id ((s.weir id).step l).1
    rw [State.evalWeir_of_level here]
    split
    · exact stepped.trans (State.noticed_notice _ _ _).marksOnly
    · exact stepped

section
variable {s t : State} (marked : s.MarksOnly t)
include marked

theorem State.MarksOnly.running (f r : Nat) : t.running f r = s.running f r := by
  obtain ⟨w, ring⟩ := marked.sq f r
  rw [State.running, State.running, ring]

theorem State.MarksOnly.sameContents : s.SameContents t := by
  have rings := marked.running
  obtain ⟨fns, msgs, houses, parts, rfl⟩ := marked.rest
  exact ⟨rfl, rfl, rfl, rfl, rings⟩

theorem State.MarksOnly.vec (f v : Nat) : t.vec f v = s.vec f v := by
  obtain ⟨sqs, cqs, pending, cause, fn⟩ := marked.fn f
  rw [State.vec, State.vec, fn]

end

/-! ## Writes of the weir registers (R189) -/

/-- A page-set write outside a reset reaches the control page (R335, R446). -/
theorem State.writePage_ring {s : State} {f off w : Nat} (ready : s.cfgReady = true) (up : (s.fn f).resetting = false)
    (low : 0x1000 ≤ off) (high : off < 0x2000) (v : Word64) : s.writePage f off w v = s.writeRingPage f (off - 0x1000) w v := by
  have page : ¬off < 0x1000 := by omega
  simp [State.writePage, ready, up, page, high]

theorem fnId_val (f : FnId) : fnId f.val = f := Fin.ofNat_val_eq_self f
theorem ringIx_val (r : RingIx) : ringIx r.val = r := Fin.ofNat_val_eq_self r

theorem toNat_word_of_row (v : Word32) : (v.setWidth 64 : Word64).toNat = v.toNat := toNat_setWidth_word v

/-- The weir registers of a ring stand in its control page (R339). -/
theorem State.writeRingPage_weir (s : State) (f : FnId) (r : RingIx) (v : Word64) :
    s.writeRingPage f (0x800 + 0x10 * r.val) 32 v = s.writeWeirLevel (.sq f r) v.toNat ∧
    s.writeRingPage f (0x800 + 0x10 * r.val + 4) 32 v = s.writeWeirStat (.sq f r) v.toNat ∧
    s.writeRingPage f (0x900 + 0x10 * r.val) 32 v = s.writeWeirLevel (.cq f r) v.toNat ∧
    s.writeRingPage f (0x900 + 0x10 * r.val + 4) 32 v = s.writeWeirStat (.cq f r) v.toNat := by
  have r16 := r.isLt
  have sq : WeirId.sq (fnId f) (ringIx ((0x800 + 0x10 * r.val - 0x800) / 0x10)) = .sq f r ∧
      WeirId.sq (fnId f) (ringIx ((0x800 + 0x10 * r.val + 4 - 0x800) / 0x10)) = .sq f r := by
    rw [fnId_val, show (0x800 + 0x10 * r.val - 0x800) / 0x10 = r.val by omega,
      show (0x800 + 0x10 * r.val + 4 - 0x800) / 0x10 = r.val by omega, ringIx_val]
    exact ⟨rfl, rfl⟩
  have cq : WeirId.cq (fnId f) (ringIx ((0x900 + 0x10 * r.val - 0x900) / 0x10)) = .cq f r ∧
      WeirId.cq (fnId f) (ringIx ((0x900 + 0x10 * r.val + 4 - 0x900) / 0x10)) = .cq f r := by
    rw [fnId_val, show (0x900 + 0x10 * r.val - 0x900) / 0x10 = r.val by omega,
      show (0x900 + 0x10 * r.val + 4 - 0x900) / 0x10 = r.val by omega, ringIx_val]
    exact ⟨rfl, rfl⟩
  have registers (o : Nat) (low : 0x800 ≤ o) : ¬o < 0x200 ∧ ¬o < 0x400 ∧ o ≠ 0x400 ∧ o ≠ 0x408 ∧ o ≠ 0x410 ∧ o ≠ 0x418 := by omega
  refine ⟨?_, ?_, ?_, ?_⟩
  · obtain ⟨a, b, c, d, e, g⟩ := registers (0x800 + 0x10 * r.val) (by omega)
    rw [State.writeRingPage, if_neg a, if_neg b, if_neg c, if_neg d, if_neg e, if_neg g, if_pos (by omega), sq.1,
      if_neg (by decide), if_pos (by omega)]
  · obtain ⟨a, b, c, d, e, g⟩ := registers (0x800 + 0x10 * r.val + 4) (by omega)
    rw [State.writeRingPage, if_neg a, if_neg b, if_neg c, if_neg d, if_neg e, if_neg g, if_pos (by omega), sq.2,
      if_neg (by decide), if_neg (by omega), if_pos (by omega)]
  · obtain ⟨a, b, c, d, e, g⟩ := registers (0x900 + 0x10 * r.val) (by omega)
    rw [State.writeRingPage, if_neg a, if_neg b, if_neg c, if_neg d, if_neg e, if_neg g, if_neg (by omega), if_pos (by omega), cq.1,
      if_neg (by decide), if_pos (by omega)]
  · obtain ⟨a, b, c, d, e, g⟩ := registers (0x900 + 0x10 * r.val + 4) (by omega)
    rw [State.writeRingPage, if_neg a, if_neg b, if_neg c, if_neg d, if_neg e, if_neg g, if_neg (by omega), if_pos (by omega), cq.2,
      if_neg (by decide), if_neg (by omega), if_pos (by omega)]

/-- The weir registers of a partition and of a house stand in the setup map (R458). -/
theorem regAt_weir (k : Fin 4) :
    (regAt (0x10110 + 0x40 * k.val) = some (.weirLevel (.latentPool k), 32) ∧
      regAt (0x10110 + 0x40 * k.val + 4) = some (.weirStat (.latentPool k), 32)) ∧
    (regAt (0x10118 + 0x40 * k.val) = some (.weirLevel (.gristTable k), 32) ∧
      regAt (0x10118 + 0x40 * k.val + 4) = some (.weirStat (.gristTable k), 32)) ∧
    (regAt (0x10210 + 0x40 * k.val) = some (.weirLevel (.pondCache k), 32) ∧
      regAt (0x10210 + 0x40 * k.val + 4) = some (.weirStat (.pondCache k), 32)) ∧
    (regAt (0x10218 + 0x40 * k.val) = some (.weirLevel (.media k), 32) ∧
      regAt (0x10218 + 0x40 * k.val + 4) = some (.weirStat (.media k), 32)) ∧
    (regAt (0x10220 + 0x40 * k.val) = some (.weirLevel (.combineSlots k), 32) ∧
      regAt (0x10220 + 0x40 * k.val + 4) = some (.weirStat (.combineSlots k), 32)) ∧
    (regAt (0x10228 + 0x40 * k.val) = some (.weirLevel (.copyStaging k), 32) ∧
      regAt (0x10228 + 0x40 * k.val + 4) = some (.weirStat (.copyStaging k), 32)) := by
  fin_cases k <;> exact ⟨⟨rfl, rfl⟩, ⟨rfl, rfl⟩, ⟨rfl, rfl⟩, ⟨rfl, rfl⟩, ⟨rfl, rfl⟩, rfl, rfl⟩

section
variable {s : State} (ready : s.cfgReady = true)
include ready

/-- A weir register of the setup map, through BAR0 of PF0. -/
theorem State.writeBar0_weirSetup {off : Nat} (high : 0x10000 ≤ off) {id : WeirId}
    (level : regAt off = some (.weirLevel id, 32)) (stat : regAt (off + 4) = some (.weirStat id, 32)) (v : Word32) :
    s.writeBar0 0 off 32 (v.setWidth 64) = s.writeWeirLevel id v.toNat ∧
    s.writeBar0 0 (off + 4) 32 (v.setWidth 64) = s.writeWeirStat id v.toNat := by
  constructor
  · rw [State.writeBar0, if_neg (by omega), if_pos rfl, s.writeSetup_word ready level, State.writeReg, toNat_setWidth_word]
  · rw [State.writeBar0, if_neg (by omega), if_pos rfl, s.writeSetup_word ready stat, State.writeReg, toNat_setWidth_word]

/-- The two weir registers of a source, through BAR0 of its owner (R189). -/
theorem State.writeBar0_weir (id : WeirId) (up : (s.fn (weirOwner id)).resetting = false) (v : Word32) :
    s.writeBar0 (weirOwner id) (weirOffset id) 32 (v.setWidth 64) = s.writeWeirLevel id v.toNat ∧
    s.writeBar0 (weirOwner id) (weirOffset id + 4) 32 (v.setWidth 64) = s.writeWeirStat id v.toNat := by
  have ring (f : FnId) (up : (s.fn f).resetting = false) {off o : Nat} (page : off = 0x1000 + o) (high : o < 0x1000) :
      s.writeBar0 f off 32 (v.setWidth 64) = s.writeRingPage f o 32 (v.setWidth 64) := by
    subst page
    rw [State.writeBar0, if_pos (by omega), State.writePage_ring ready up (by omega) (by omega), Nat.add_sub_cancel_left]
  cases id with
  | sq f r =>
    obtain ⟨level, stat, -, -⟩ := s.writeRingPage_weir f r (v.setWidth 64)
    rw [toNat_setWidth_word] at level stat
    exact ⟨(ring f up (by simp only [weirOffset]; omega) (by omega)).trans level,
      (ring f up (by simp only [weirOffset]; omega) (by omega)).trans stat⟩
  | cq f r =>
    obtain ⟨-, -, level, stat⟩ := s.writeRingPage_weir f r (v.setWidth 64)
    rw [toNat_setWidth_word] at level stat
    exact ⟨(ring f up (by simp only [weirOffset]; omega) (by omega)).trans level,
      (ring f up (by simp only [weirOffset]; omega) (by omega)).trans stat⟩
  | latentPool k =>
    obtain ⟨⟨level, stat⟩, -⟩ := regAt_weir k
    exact State.writeBar0_weirSetup ready (by omega) level stat v
  | gristTable k =>
    obtain ⟨-, ⟨level, stat⟩, -⟩ := regAt_weir k
    exact State.writeBar0_weirSetup ready (by omega) level stat v
  | pondCache k =>
    obtain ⟨-, -, ⟨level, stat⟩, -⟩ := regAt_weir k
    exact State.writeBar0_weirSetup ready (by omega) level stat v
  | media k =>
    obtain ⟨-, -, -, ⟨level, stat⟩, -⟩ := regAt_weir k
    exact State.writeBar0_weirSetup ready (by omega) level stat v
  | combineSlots k =>
    obtain ⟨-, -, -, -, ⟨level, stat⟩, -⟩ := regAt_weir k
    exact State.writeBar0_weirSetup ready (by omega) level stat v
  | copyStaging k =>
    obtain ⟨-, -, -, -, -, level, stat⟩ := regAt_weir k
    exact State.writeBar0_weirSetup ready (by omega) level stat v

end

/-- Settles O22: the registers by `State.writeBar0_weir`, the step by `Weir.step_fst`. -/
theorem weirMarksFollowTheirRules : Obligations.WeirMarksFollowTheirRules := by
  refine ⟨fun s w v ready up => ?writes, fun s w l here => ?step⟩
  case writes =>
    obtain ⟨level, stat⟩ := State.writeBar0_weir ready w up v
    have high : bitsOf v.toNat 31 16 = v.toNat / 65536 := by simp only [bitsOf]; omega
    have low : bitsOf v.toNat 15 0 = v.toNat % 65536 := by simp only [bitsOf]; omega
    have levelEffect : exec (.weirLevelWrite w v) s = .next (s.writeWeirLevel w v.toNat) := congrArg Host.Outcome.next level
    rw [State.writeWeirLevel, high, low] at levelEffect
    refine ⟨fun fits => levelEffect.trans (congrArg _ (if_neg (by omega))), fun bad => levelEffect.trans (congrArg _ (if_pos bad)), ?_⟩
    intro x y t
    have written : s.writeWeirStat w v.toNat = t := by
      simp only [State.writeWeirStat, t, y, x, bne_iff_ne, ne_eq, ite_not]
    have statEffect : Host.Outcome.next (s.writeBar0 (weirOwner w) (weirOffset w + 4) 32 (v.setWidth 64)) = (.next t : Out) :=
      congrArg Host.Outcome.next (stat.trans written)
    exact ⟨statEffect, statEffect, statEffect⟩
  case step =>
    intro x live
    refine ⟨(State.weir_evalWeir here).trans (Weir.step_fst _ l), fun isLive before first notify up => ?_⟩
    have marks : ((s.weir w).step l).2 = true := Weir.step_snd isLive before first notify
    rw [State.evalWeir_of_level here, if_pos marks, State.cause_notice]
    · rfl
    · exact (State.resetting_setWeir ..).trans up

end Sys2Proof.Machine
end

section
/-! PROOFS. Ring control pages, doorbells and MSI-X (R341 to R357): what each register write does to its ring or vector. -/
namespace Sys2Proof.Machine

/-! ## Ring frames -/

theorem State.sq_evalWeir_sq (s : State) (f r : Nat) (x : FnId) (y : RingIx) (mine : x.val = f) (ring : y.val = r) :
    (∃ w, (s.evalWeir (.sq x y)).sq f r = { s.sq f r with weir := w }) ∧
    ∀ g q, g ≠ f ∨ q ≠ r → (s.evalWeir (.sq x y)).sq g q = s.sq g q := by
  refine ⟨(s.marksOnly_evalWeir _).sq f r, fun g q other => ?_⟩
  subst mine ring
  cases here : s.level (.sq x y) with
  | none => simp only [State.evalWeir, here]
  | some l =>
    have stepped : (s.setWeir (.sq x y) ((s.weir (.sq x y)).step l).1).sq g q = s.sq g q := s.sq_setSq_ne x y g q _ other
    rw [State.evalWeir_of_level here]
    split
    · rw [(State.noticed_notice _ _ _).sq, stepped]
    · exact stepped

/-- The notice of a doorbell that was not taken (R346, R357). -/
theorem State.doorbell_notice (s : State) (f : Nat) (up : (s.fn f).resetting = false) :
    ((s.notice f .doorbell).fn f).cause.doorbell = true ∧ (s.notice f .doorbell).mem = s.mem ∧
    (s.notice f .doorbell).hostMem = s.hostMem := by
  have same := s.sameContents_notice f .doorbell
  refine ⟨?_, same.mem, same.hostMem⟩
  rw [s.cause_notice f .doorbell up]
  rfl

/-! ## Doorbells (R346) -/

section
variable {s : State} {f : FnId} (ready : s.cfgReady = true) (up : (s.fn f).resetting = false) (d : RingIx)
include ready up

/-- A 32-bit write to the doorbell page. -/
theorem State.writePage_doorbell (k : Nat) (v : Word64) (low : v.toNat < 2 ^ 32) (first : k < 0x100) :
    s.writePage f (0x100 * d.val + k) 32 v =
      if k = 0 then s.ringTail f d (BitVec.ofNat 16 v.toNat)
      else if k = 8 then s.ringHead f d (BitVec.ofNat 16 v.toNat) (v.toNat.testBit 16) else s := by
  have ring : (0x100 * d.val + k) / 0x100 = d.val := by omega
  have reg : (0x100 * d.val + k) % 0x100 = k := by omega
  have page : 0x100 * d.val + k < 0x1000 := by omega
  simp only [State.writePage, ready, up, Bool.not_true, Bool.or_self, Bool.false_eq_true, if_false, if_pos page, if_true,
    State.writeDoorbell, ring, reg, Nat.mod_eq_of_lt low]

theorem State.exec_doorbellSqTail (v : Word32) : exec (.doorbellSqTail f d v) s = .next (s.ringTail f d (v.setWidth 16)) := by
  have write := State.writePage_doorbell ready up d 0 (v.setWidth 64) (by rw [toNat_setWidth_word]; exact v.isLt) (by decide)
  have value : BitVec.ofNat 16 (v.setWidth 64 : Word64).toNat = v.setWidth 16 := by
    rw [toNat_setWidth_word]
    rfl
  rw [if_pos rfl, value] at write
  exact congrArg Host.Outcome.next write

theorem State.exec_doorbellCqHead (h : BitVec 16) : exec (.doorbellCqHead f d h) s = .next (s.ringHead f d h false) := by
  have hLt := h.isLt
  have wide : (h.setWidth 64 : Word64).toNat = h.toNat := by simp; omega
  have write := State.writePage_doorbell ready up d 8 (h.setWidth 64) (by rw [wide]; omega) (by decide)
  rw [if_neg (by decide), if_pos rfl, wide, BitVec.ofNat_toNat, BitVec.setWidth_eq, Nat.testBit_lt_two_pow hLt] at write
  exact congrArg Host.Outcome.next write

theorem State.exec_cqRearm (h : BitVec 16) : exec (.cqRearm f d h) s = .next (s.ringHead f d h true) := by
  have hLt := h.isLt
  have wide : (h.setWidth 64 ||| 0x1_0000 : Word64).toNat = 2 ^ 16 + h.toNat := by
    rw [BitVec.toNat_or, Nat.or_comm]
    have := Nat.two_pow_add_eq_or_of_lt hLt 1
    simp at this ⊢
    rw [this, Nat.mod_eq_of_lt (by omega)]
  have write := State.writePage_doorbell ready up d 8 (h.setWidth 64 ||| 0x1_0000) (by rw [wide]; omega) (by decide)
  have value : BitVec.ofNat 16 (2 ^ 16 + h.toNat) = h := BitVec.eq_of_toNat_eq (by rw [BitVec.toNat_ofNat]; omega)
  have bit : (2 ^ 16 + h.toNat).testBit 16 = true := by
    rw [Nat.testBit_two_pow_add_eq, Nat.testBit_lt_two_pow hLt]
    rfl
  rw [if_neg (by decide), if_pos rfl, wide, value, bit] at write
  exact congrArg Host.Outcome.next write

end

section
variable (s : State) (f : FnId) (d : RingIx)

theorem State.ringTail_of_accepted {t : BitVec 16} (on : (s.sq f d).state ≠ .disabled)
    (fits : (t - (s.sq f d).head).toNat ≤ 2 ^ (s.sq f d).log2.toNat) : ∃ u, s.ringTail f d t = u ∧
      { u.sq f d with weir := (s.sq f d).weir } = { s.sq f d with tail := t } ∧ u.mem = s.mem ∧ u.hostMem = s.hostMem ∧
      ∀ g r, (g ≠ f.val ∨ r ≠ d.val) → u.sq g r = s.sq g r := by
  have moved : s.ringTail f d t = (s.setSq f d { s.sq f d with tail := t }).evalWeir (.sq f d) := by
    rw [State.ringTail, if_neg on, SubRing.entries, if_pos fits, fnId_val, ringIx_val]
  obtain ⟨⟨w, here⟩, other⟩ := (s.setSq f d { s.sq f d with tail := t }).sq_evalWeir_sq f d f d rfl rfl
  have same := ((s.setSq f d { s.sq f d with tail := t }).marksOnly_evalWeir (.sq f d)).sameContents
  refine ⟨_, moved, ?_, same.mem, same.hostMem, fun g r apart => (other g r apart).trans (s.sq_setSq_ne f d g r _ apart)⟩
  rw [here, s.sq_setSq]

theorem State.ringTail_of_beyond {t : BitVec 16} (up : (s.fn f).resetting = false) (on : (s.sq f d).state ≠ .disabled)
    (beyond : 2 ^ (s.sq f d).log2.toNat < (t - (s.sq f d).head).toNat) : ∃ u, s.ringTail f d t = u ∧
      u.sq f d = { s.sq f d with dbErr := true } ∧ (u.fn f).cause.doorbell = true ∧ u.mem = s.mem ∧ u.hostMem = s.hostMem := by
  have told : s.ringTail f d t = (s.setSq f d { s.sq f d with dbErr := true }).notice f .doorbell := by
    rw [State.ringTail, if_neg on, SubRing.entries, if_neg (Nat.not_le.2 beyond)]
  have up' : ((s.setSq f d { s.sq f d with dbErr := true }).fn f).resetting = false := by
    rw [State.setSq, s.fn_setFn]
    exact up
  refine ⟨_, told, ?_, State.doorbell_notice _ f up'⟩
  rw [(State.noticed_notice _ _ _).sq, s.sq_setSq]

theorem State.ringHead_of_accepted {h : BitVec 16} (on : (s.cq f d).state ≠ .disabled)
    (fits : (h - (s.cq f d).head).toNat ≤ (s.cq f d).used) :
    s.ringHead f d h false = (s.setCq f d { s.cq f d with head := h }).evalWeir (.cq f d) := by
  have bound : ¬(s.cq f d).state = .disabled := on
  simp only [State.ringHead, if_neg bound, if_pos fits, fnId_val, ringIx_val, Bool.false_eq_true, if_false]

theorem State.ringHead_of_beyond {h : BitVec 16} (up : (s.fn f).resetting = false) (on : (s.cq f d).state ≠ .disabled)
    (beyond : (s.cq f d).used < (h - (s.cq f d).head).toNat) (rearm : Bool) : ∃ u, s.ringHead f d h rearm = u ∧
      u.cq f d = { s.cq f d with dbErr := true } ∧ (u.fn f).cause.doorbell = true ∧ u.mem = s.mem ∧ u.hostMem = s.hostMem := by
  have told : s.ringHead f d h rearm = (s.setCq f d { s.cq f d with dbErr := true }).notice f .doorbell := by
    rw [State.ringHead, if_neg on, if_neg (Nat.not_le.2 beyond)]
  have up' : ((s.setCq f d { s.cq f d with dbErr := true }).fn f).resetting = false := by
    rw [State.setCq, s.fn_setFn]
    exact up
  refine ⟨_, told, ?_, State.doorbell_notice _ f up'⟩
  rw [(State.noticed_notice _ _ _).cq, s.cq_setCq]

end

/-- Settles O21, range by range. -/
theorem doorbellsMoveTailAndHead : Obligations.DoorbellsMoveTailAndHead := by
  intro s f d v h ready up
  refine ⟨⟨fun off => ?_, fun on fits => ?_, fun on beyond => ?_⟩, fun off => ?_, fun on fits => ?_, fun on beyond => ?_⟩
  · rw [State.exec_doorbellSqTail ready up, State.ringTail, if_pos off]
  · obtain ⟨u, moved, fields⟩ := s.ringTail_of_accepted f d on fits
    exact ⟨u, (State.exec_doorbellSqTail ready up d v).trans (congrArg _ moved), fields⟩
  · obtain ⟨u, told, fields⟩ := s.ringTail_of_beyond f d up on beyond
    exact ⟨u, (State.exec_doorbellSqTail ready up d v).trans (congrArg _ told), fields⟩
  · rw [State.exec_doorbellCqHead ready up, State.ringHead, if_pos off]
  · have marks := (s.setCq f d { s.cq f d with head := h }).marksOnly_evalWeir (.cq f d)
    obtain ⟨w, ring⟩ := marks.cq f d
    refine ⟨_, (State.exec_doorbellCqHead ready up d h).trans (congrArg _ (s.ringHead_of_accepted f d on fits)), ?_,
      marks.sameContents.mem, marks.sameContents.hostMem⟩
    rw [ring, s.cq_setCq]
  · obtain ⟨u, told, fields⟩ := s.ringHead_of_beyond f d up on beyond false
    exact ⟨u, (State.exec_doorbellCqHead ready up d h).trans (congrArg _ told), fields⟩

/-! ## MSI-X (R355) -/

/-- The state in which the mask bit of a vector is clear. -/
def State.unmasked (s : State) (f v : Nat) : State :=
  s.setFn f { s.fn f with msix := Table.put {} (s.fn f).msix v { s.vec f v with masked := false } }

theorem State.exec_msixUnmask {s : State} {f : FnId} (ready : s.cfgReady = true) (up : (s.fn f).resetting = false) (v : Fin 17) :
    exec (.msixUnmask f v) s = .next ((s.unmasked f v).flushVector f v) := by
  have vLt := v.isLt
  have page : ¬0x3000 + 16 * v.val + 12 < 0x1000 ∧ ¬0x3000 + 16 * v.val + 12 < 0x2000 ∧
      (0x3000 ≤ 0x3000 + 16 * v.val + 12 ∧ 0x3000 + 16 * v.val + 12 < 0x3110) ∧ (0x3000 + 16 * v.val + 12) % 4 = 0 := by omega
  have entry : (0x3000 + 16 * v.val + 12 - 0x3000) / 16 = v.val ∧ (0x3000 + 16 * v.val + 12 - 0x3000) % 16 / 4 = 3 ∧
      ¬v.val ≥ 17 := by omega
  obtain ⟨notBell, notRing, table, word⟩ := page
  obtain ⟨index, reg, listed⟩ := entry
  have taken : ¬(!s.cfgReady || (s.fn f).resetting) = true := by rw [ready, up]; exact Bool.false_ne_true
  have write : s.writePage f (0x3000 + 16 * v.val + 12) 32 0 = (s.unmasked f v).flushVector f v := by
    rw [State.writePage, if_neg taken, if_neg notBell, if_neg notRing, if_pos table, if_pos ⟨rfl, word⟩]
    simp only [State.writeMsixWord, index, reg, if_neg listed]
    rfl
  exact congrArg Host.Outcome.next write

theorem State.vec_unmasked (s : State) (f v : Nat) : (s.unmasked f v).vec f v = { s.vec f v with masked := false } := by
  rw [State.unmasked, State.vec, s.fn_setFn, Table.get_put]

theorem State.vec_unmasked_ne (s : State) (f v k : Nat) (other : k ≠ v) : (s.unmasked f v).vec f k = s.vec f k := by
  rw [State.unmasked, State.vec, s.fn_setFn]
  exact Table.get_put_ne _ _ _ _ _ _ other

/-- The state in which a vector's pending bit is clear. -/
def State.pendingCleared (s : State) (f v : Nat) : State :=
  s.setFn f { s.fn f with pending := (s.fn f).pending &&& ~~~((1 : BitVec 17) <<< v) }

theorem State.fn_pendingCleared (s : State) (f v : Nat) :
    (s.pendingCleared f v).fn f = { s.fn f with pending := (s.fn f).pending &&& ~~~((1 : BitVec 17) <<< v) } := s.fn_setFn f _

theorem State.vec_pendingCleared (s : State) (f v k : Nat) : (s.pendingCleared f v).vec f k = s.vec f k := by
  rw [State.vec, s.fn_pendingCleared, State.vec]

/-- A vector that may send and has a pending message sends it, and its pending bit clears. -/
theorem State.flushVector_of_sends {s : State} {f : Nat} (v : Fin 17) (unmasked : (s.vec f v).masked = false)
    (pending : (s.fn f).pending.getLsbD v = true) (on : (s.fn f).msixEn = true) (open_ : (s.fn f).fnMask = false)
    (awake : (s.fn f).d3hot = false) (up : (s.fn f).resetting = false) :
    s.flushVector f v = { s.pendingCleared f v with
      msgs := { f := f, v := v, addr := (s.vec f v).addr, data := (s.vec f v).data } :: s.msgs } := by
  have bit : (s.fn f).pending.toNat.testBit v = true := pending
  have sends : ((s.fn f).pending.toNat.testBit v && (s.fn f).msixEn && !(s.fn f).fnMask && !(s.vec f v).masked && !(s.fn f).d3hot &&
      !(s.fn f).resetting) = true := by
    rw [bit, on, open_, unmasked, awake, up]
    rfl
  rw [← s.vec_pendingCleared f v v]
  exact if_pos sends

theorem State.flushVector_of_quiet {s : State} {f : Nat} (v : Fin 17)
    (quiet : ¬((s.fn f).pending.getLsbD v = true ∧ (s.fn f).msixEn = true ∧ (s.fn f).fnMask = false ∧ (s.fn f).d3hot = false)) :
    s.flushVector f v = s := by
  refine if_neg fun sends => quiet ?_
  simp only [Bool.and_eq_true, Bool.not_eq_true'] at sends
  obtain ⟨⟨⟨⟨⟨pending, on⟩, open_⟩, -⟩, awake⟩, -⟩ := sends
  exact ⟨pending, on, open_, awake⟩

theorem getLsbD_clear_bit (p : BitVec 17) (v : Fin 17) (k : Nat) :
    (p &&& ~~~((1 : BitVec 17) <<< v.val)).getLsbD k = (p.getLsbD k && decide (k ≠ v.val)) := by
  have vLt := v.isLt
  by_cases low : k < 17
  · simp only [BitVec.getLsbD_and, BitVec.getLsbD_not, BitVec.getLsbD_shiftLeft, low, decide_true, Bool.true_and]
    congr 1
    by_cases same : k = v.val
    · simp [same]
    · by_cases below : k < v.val
      · simp [same, below]
      · have above : k - v.val ≠ 0 := by omega
        simp [same, above]
  · simp [BitVec.getLsbD_of_ge p k (by omega)]

/-- Settles O23: what is sent by `State.flushVector_of_sends` and `State.flushVector_of_quiet`. -/
theorem unmaskSendsPendingMessage : Obligations.UnmaskSendsPendingMessage := by
  intro s f v ready up
  refine ⟨_, State.exec_msixUnmask ready up v, ?_⟩
  have page : (s.unmasked f v).fn f = { s.fn f with msix := Table.put {} (s.fn f).msix v { s.vec f v with masked := false } } :=
    s.fn_setFn f _
  have entry := s.vec_unmasked f v
  have others := s.vec_unmasked_ne f v
  by_cases sends : (s.fn f).pending.getLsbD v = true ∧ (s.fn f).msixEn = true ∧ (s.fn f).fnMask = false ∧ (s.fn f).d3hot = false
  · obtain ⟨pending, on, open_, awake⟩ := sends
    have sent := State.flushVector_of_sends (s := s.unmasked f v) (f := f) v (by rw [entry]) (by rw [page]; exact pending)
      (by rw [page]; exact on) (by rw [page]; exact open_) (by rw [page]; exact awake) (by rw [page]; exact up)
    rw [sent]
    have kept (k : Nat) := (s.unmasked f v).vec_pendingCleared f v k
    refine ⟨(kept v).trans entry, fun k other => (kept k).trans (others k other), rfl, rfl, fun _ => ⟨?_, fun k => ?_⟩,
      fun no => absurd ⟨pending, on, open_, awake⟩ no⟩
    · rw [entry]
      rfl
    · show (((s.unmasked f v).pendingCleared f v).fn f).pending.getLsbD k = _
      rw [State.fn_pendingCleared, page]
      exact getLsbD_clear_bit _ v k
  · rw [State.flushVector_of_quiet (s := s.unmasked f v) v (by rw [page]; exact sends)]
    exact ⟨entry, others, rfl, rfl, fun yes => absurd yes sends, fun _ => ⟨rfl, by rw [page]⟩⟩

end Sys2Proof.Machine
end

section
/-! PROOFS. Ring control (R341 to R343, R348, R351, R353, R356): SQ_CFG, SQ_CTRL, CQ_CFG and REARM. -/
namespace Sys2Proof.Machine

/-! ## The ring control page (R339) -/

section
variable (s : State) (f : Nat) (r : RingIx) (v : Word64)

theorem State.writeRingPage_sqCfg : s.writeRingPage f (0x20 * r.val + 8) 32 v = s.writeSqCfg f r (v.toNat % 2 ^ 32) := by
  have place : 0x20 * r.val + 8 < 0x200 ∧ (0x20 * r.val + 8) / 0x20 = r.val ∧ (0x20 * r.val + 8) % 0x20 = 8 := by omega
  obtain ⟨page, ring, reg⟩ := place
  rw [State.writeRingPage, if_pos page, ring]
  split
  next zero => omega
  next => exact if_pos rfl
  next sixteen => omega
  next other => omega
  next _ other _ _ => exact absurd reg other

theorem State.writeRingPage_sqCtrl : s.writeRingPage f (0x20 * r.val + 0x18) 64 v = s.writeSqCtrl f r v.toNat := by
  have place : 0x20 * r.val + 0x18 < 0x200 ∧ (0x20 * r.val + 0x18) / 0x20 = r.val ∧ (0x20 * r.val + 0x18) % 0x20 = 0x18 := by omega
  obtain ⟨page, ring, reg⟩ := place
  rw [State.writeRingPage, if_pos page, ring]
  split
  next zero => omega
  next eight => omega
  next sixteen => omega
  next => exact if_pos rfl
  next other => exact absurd reg other

end

section
variable {s : State} {f : FnId} (ready : s.cfgReady = true) (up : (s.fn f).resetting = false) (r : RingIx)
include ready up

theorem State.writePage_sqCfg (v : Word32) : s.writePage f (sqReg r 8) 32 (v.setWidth 64) = s.writeSqCfg f r v.toNat := by
  have place : sqReg r 8 = 0x1000 + (0x20 * r.val + 8) := by rw [sqReg, Nat.add_assoc]
  rw [place, State.writePage_ring ready up (by omega) (by omega), Nat.add_sub_cancel_left, State.writeRingPage_sqCfg,
    toNat_setWidth_word, Nat.mod_eq_of_lt v.isLt]

theorem State.writePage_sqCtrl (v : Word64) : s.writePage f (sqReg r 0x18) 64 v = s.writeSqCtrl f r v.toNat := by
  have place : sqReg r 0x18 = 0x1000 + (0x20 * r.val + 0x18) := by rw [sqReg, Nat.add_assoc]
  rw [place, State.writePage_ring ready up (by omega) (by omega), Nat.add_sub_cancel_left, State.writeRingPage_sqCtrl]

theorem State.writePage_cqCfg (v : Word64) : s.writePage f (cqReg r 8) 64 v = s.writeCqCfg f r v := by
  have low : ¬0x1200 + 0x20 * r.val + 8 - 0x1000 < 0x200 ∧ 0x1200 + 0x20 * r.val + 8 - 0x1000 < 0x400 ∧
      (0x1200 + 0x20 * r.val + 8 - 0x1000 - 0x200) / 0x20 = r.val ∧ (0x1200 + 0x20 * r.val + 8 - 0x1000) % 0x20 = 8 := by omega
  obtain ⟨notSq, page, ring, reg⟩ := low
  rw [cqReg, State.writePage_ring ready up (by omega) (by omega), State.writeRingPage, if_neg notSq, if_pos page, ring, reg]
  rfl

end

theorem fld_eq (v : Word64) (hi lo : Nat) : fld v hi lo = v.toNat / 2 ^ lo % 2 ^ (hi + 1 - lo) := rfl

/-! ## Completion rings (R351, R353, R356) -/

/-- The fields of CQ_CFG that a write takes whatever the ring's state. -/
def CompRing.configured (q : CompRing) (v : Word64) : CompRing :=
  { q with timer := BitVec.ofNat 10 (fld v 41 32), countTh := BitVec.ofNat 8 (fld v 15 8), vector := BitVec.ofNat 4 (fld v 3 0) }

section
variable (s : State) (f : FnId) (c : RingIx) (v : Word64)

theorem State.cqNamed_iff : s.cqNamed f c = true ↔ ∃ r < 16, (s.sq f r).enable = true ∧ (s.sq f r).cq.toNat = c.val := by
  simp only [State.cqNamed, List.any_eq_true, List.mem_range, Bool.and_eq_true, beq_iff_eq]

theorem State.writeCqCfg_enable (off : (s.cq f c).state = .disabled) (set : v.toNat.testBit 31 = true) :
    s.writeCqCfg f c v = if s.tenant f = false then s.rejectRing f
      else (s.setCq f c { (s.cq f c).configured v with
        log2 := BitVec.ofNat 5 (fld v 20 16), enable := true, state := .running, head := 0, tail := 0, mod := .armed }).evalWeir
          (.cq f c) := by
  have bit : bitAt v 31 = true := set
  simp only [State.writeCqCfg, off, bit, if_true, Bool.true_and, Bool.not_eq_true', fnId_val, ringIx_val]
  rfl

theorem State.writeCqCfg_disable (on : (s.cq f c).state ≠ .disabled) (clear : v.toNat.testBit 31 = false) :
    s.writeCqCfg f c v = if (s.cq f c).state = .running ∧ s.cqNamed f c = true then s.rejectRing f
      else s.setCq f c { (s.cq f c).configured v with enable := false, state := .disabled } := by
  have bit : bitAt v 31 = false := clear
  simp only [State.writeCqCfg, if_neg on, bit, Bool.false_eq_true, if_false]
  rfl

end

theorem CompRing.onRearm_fields (q : CompRing) :
    q.onRearm.1.head = q.head ∧ q.onRearm.1.tail = q.tail ∧ q.onRearm.1.state = q.state ∧
    q.onRearm.1.mod = (if q.mod ≠ .fired then q.mod else if q.used = 0 then .armed else if q.threshold ≤ q.used then .fired else .pending) ∧
    (q.mod = .fired → 0 < q.used → q.onRearm.1.count = q.used) ∧
    (q.onRearm.2 = true ↔ q.mod = .fired ∧ 0 < q.used ∧ q.threshold ≤ q.used) := by
  unfold CompRing.onRearm
  cases here : q.mod with
  | armed | pending => simp [here]
  | fired =>
    simp only [ne_eq, not_true_eq_false, if_false, true_and]
    split
    next empty => simp [empty]
    next some_ =>
      have filled : 0 < q.used := Nat.pos_of_ne_zero some_
      split
      next high => simp [filled, high]
      next low => simp [filled, low]

/-- CQ_HEAD with REARM = 1, within the entries in use (R346, R356). -/
theorem State.ringHead_of_rearm (s : State) (f : FnId) (c : RingIx) {h : BitVec 16} (on : (s.cq f c).state ≠ .disabled)
    (fits : (h - (s.cq f c).head).toNat ≤ (s.cq f c).used) :
    let m := CompRing.onRearm { s.cq f c with head := h }
    s.ringHead f c h true = if m.2 = true then ((s.setCq f c m.1).evalWeir (.cq f c)).message f (s.cq f c).vector.toNat
      else (s.setCq f c m.1).evalWeir (.cq f c) := by
  have bound : ¬(s.cq f c).state = .disabled := on
  simp only [State.ringHead, if_neg bound, if_pos fits, fnId_val, ringIx_val, if_true]

/-- The message of a ring that REARM fires goes out at once where its vector may send (R355, R356). -/
theorem State.msgs_of_rearm {s t : State} {f : FnId} {v : Nat} (same : s.MarksOnly t) (enabled : (s.fn f).msixEn = true)
    (awake : (s.fn f).d3hot = false) (up : (s.fn f).resetting = false) (open_ : (s.fn f).fnMask = false)
    (unmasked : (s.vec f v).masked = false) :
    (t.message f v).msgs.head? = some { f := f, v := v, addr := (s.vec f v).addr, data := (s.vec f v).data } := by
  obtain ⟨sqs, cqs, pending, cause, fn⟩ := same.fn f
  have vec := same.vec f v
  rw [State.message_of_open (by rw [fn]; exact enabled) (by rw [fn]; exact awake) (by rw [fn]; exact up)
    (by rw [fn]; exact open_) (by rw [vec]; exact unmasked), vec]
  rfl

/-- Settles O20, register by register. -/
theorem completionRingControl : Obligations.CompletionRingControl := by
  intro s f c v h q
  refine ⟨fun ready up => ⟨fun off set free => ?refused, fun off set tenant => ?enabled, fun on clear => ⟨fun may => ?disabled, fun running named => ?kept⟩,
    fun on fits => ?rearm⟩, fun pending => congrArg Host.Outcome.next (if_pos pending), fun other => congrArg Host.Outcome.next (if_neg other)⟩
  case refused =>
    rw [show exec (.cqEnable f c v) s = _ from congrArg Host.Outcome.next (State.writePage_cqCfg ready up c v),
      s.writeCqCfg_enable f c v off set, if_pos free]
  case enabled =>
    refine ⟨_, congrArg Host.Outcome.next ((State.writePage_cqCfg ready up c v).trans ((s.writeCqCfg_enable f c v off set).trans
      (if_neg (by rw [tenant]; decide)))), ?_⟩
    obtain ⟨w, ring⟩ := (State.marksOnly_evalWeir _ (.cq f c)).cq f c
    rw [ring, s.cq_setCq]
    have log2 : fld v 20 16 < 2 ^ 5 := bitsOf_lt _ _ _
    have countTh : fld v 15 8 < 2 ^ 8 := bitsOf_lt _ _ _
    have timer : fld v 41 32 < 2 ^ 10 := bitsOf_lt _ _ _
    have vector : fld v 3 0 < 2 ^ 4 := bitsOf_lt _ _ _
    exact ⟨rfl, rfl, rfl, rfl, rfl, toNat_ofNat_of_lt log2, toNat_ofNat_of_lt countTh, toNat_ofNat_of_lt timer,
      (toNat_ofNat_of_lt vector).trans (fld_low v 3), rfl⟩
  case disabled =>
    have open_ : ¬((s.cq f c).state = .running ∧ s.cqNamed f c = true) := by
      rintro ⟨running, named⟩
      rcases may with faulted | free
      · exact absurd (running.symm.trans faulted) (by decide)
      · obtain ⟨r, lt, enabled, names⟩ := (s.cqNamed_iff f c).1 named
        exact free r lt enabled names
    refine ⟨_, congrArg Host.Outcome.next ((State.writePage_cqCfg ready up c v).trans ((s.writeCqCfg_disable f c v on clear).trans
      (if_neg open_))), ?_⟩
    rw [s.cq_setCq]
    exact ⟨rfl, rfl, rfl, rfl, rfl⟩
  case kept =>
    rw [show exec (.cqDisable f c v) s = _ from congrArg Host.Outcome.next (State.writePage_cqCfg ready up c v),
      s.writeCqCfg_disable f c v on clear, if_pos ⟨running, (s.cqNamed_iff f c).2 named⟩]
  case rearm =>
    have moved := s.ringHead_of_rearm f c on fits
    obtain ⟨head, tail, state, mod, count, sends⟩ := CompRing.onRearm_fields { s.cq f c with head := h }
    generalize CompRing.onRearm { s.cq f c with head := h } = m at *
    have marks := (s.setCq f c m.1).marksOnly_evalWeir (.cq f c)
    have ring : ∃ w, (s.ringHead f c h true).cq f c = { m.1 with weir := w } := by
      obtain ⟨w, ring⟩ := marks.cq f c
      rw [s.cq_setCq] at ring
      refine ⟨w, ?_⟩
      rw [moved]
      dsimp only
      split
      · rw [(State.noticed_message _ _ _).cq, ring]
      · exact ring
    obtain ⟨w, ring⟩ := ring
    refine ⟨_, State.exec_cqRearm ready up c h, ?_⟩
    rw [ring]
    refine ⟨head, tail, state, mod, count, fun fired left full enabled awake open_ unmasked => ?_⟩
    rw [moved, if_pos (sends.2 ⟨fired, left, full⟩)]
    have page : (s.setCq f c m.1).fn f = { s.fn f with cqs := Table.put {} (s.fn f).cqs c m.1 } := s.fn_setFn f _
    have vec (n : Nat) : (s.setCq f c m.1).vec f n = s.vec f n := by rw [State.vec, page, State.vec]
    have sent := State.msgs_of_rearm (v := q.vector.toNat) marks (by rw [page]; exact enabled) (by rw [page]; exact awake) (by rw [page]; exact up)
      (by rw [page]; exact open_) (by rw [vec]; exact unmasked)
    rw [vec] at sent
    exact sent

end Sys2Proof.Machine
end

section
/-! PROOFS. How commands end (R101, R210, R349, R353, R366): the steps of an early end, what they leave of page sets, and the status
that an aborted command keeps. -/
namespace Sys2Proof.Machine

/-! ## What ends of commands leave -/

/-- `t` is `s` but for what ends of commands change: the partitions stand but for work lists and marks, the stone map and the epochs
stand and, where `kept`, both memories. -/
structure State.Beside (kept : Bool) (s t : State) : Prop where
  memories : kept = true → t.mem = s.mem ∧ t.hostMem = s.hostMem
  part     : ∀ p, ∃ prev pool grist, t.part p = { s.part p with prevList := prev, poolWeir := pool, gristWeir := grist }
  stone    : ∀ q, ∃ sets tables loaded switching at_ expired, t.stone q =
    { s.stone q with sets := sets, tables := tables, loaded := loaded, switching := switching, atBoundary := at_, expired := expired }
  epochs   : t.epochs = s.epochs

/-- The fields that `Beside` looks at. -/
def State.asides (s : State) : Memory × Memory × Table Partition × Table Stone × Table Word32 :=
  (s.mem, s.hostMem, s.parts, s.stones, s.epochs)

/-- The page sets, and those fields. -/
def State.pages (s : State) : Table Func × Memory × Memory × Table Partition × Table Stone × Table Word32 := (s.fns, s.asides)

theorem State.fns_of_pages {s t : State} (same : t.pages = s.pages) : t.fns = s.fns := congrArg Prod.fst same

theorem State.Beside.of_asides {kept : Bool} {s t : State} (same : t.asides = s.asides) : State.Beside kept s t := by
  simp only [State.asides, Prod.mk.injEq] at same
  obtain ⟨mem, host, parts, stones, epochs⟩ := same
  exact ⟨fun _ => ⟨mem, host⟩, fun p => ⟨_, _, _, by rw [State.part, parts]; rfl⟩,
    fun q => ⟨_, _, _, _, _, _, by rw [State.stone, stones]; rfl⟩, epochs⟩

theorem State.Beside.trans {kept : Bool} {s t u : State} (first : State.Beside kept s t) (next : State.Beside kept t u) :
    State.Beside kept s u where
  memories on := ⟨(next.memories on).1.trans (first.memories on).1, (next.memories on).2.trans (first.memories on).2⟩
  part p := by
    obtain ⟨a, b, c, here⟩ := first.part p
    obtain ⟨a', b', c', there⟩ := next.part p
    exact ⟨a', b', c', by rw [there, here]⟩
  stone q := by
    obtain ⟨a, b, c, d, e, g, here⟩ := first.stone q
    obtain ⟨a', b', c', d', e', g', there⟩ := next.stone q
    exact ⟨a', b', c', d', e', g', by rw [there, here]⟩
  epochs := next.epochs.trans first.epochs

section
variable {kept : Bool} (s : State)

theorem State.MarksOnly.beside {s t : State} (marked : s.MarksOnly t) : State.Beside kept s t := by
  have parts := marked.part
  obtain ⟨fns, msgs, houses, _, rfl⟩ := marked.rest
  exact ⟨fun _ => ⟨rfl, rfl⟩, fun p => ⟨_, parts p⟩, fun q => ⟨_, _, _, _, _, _, rfl⟩, rfl⟩

theorem State.beside_prevList (p : Nat) (l : Table (List Nat)) : State.Beside kept s (s.setPart p { s.part p with prevList := l }) := by
  refine ⟨fun _ => ⟨rfl, rfl⟩, fun q => ?_, fun q => ⟨_, _, _, _, _, _, rfl⟩, rfl⟩
  by_cases here : q = p
  · exact ⟨l, _, _, by rw [here]; exact s.part_setPart p _⟩
  · exact ⟨_, _, _, s.part_setPart_ne p q _ here⟩

/-- A write to the sets of a stone, or to what its set in loop state is. -/
theorem State.beside_setStone (p : Nat) {v : Stone} (same : ∃ sets tables loaded switching at_ expired, v =
    { s.stone p with sets := sets, tables := tables, loaded := loaded, switching := switching, atBoundary := at_, expired := expired }) :
    State.Beside kept s (s.setStone p v) := by
  refine ⟨fun _ => ⟨rfl, rfl⟩, fun q => ⟨_, _, _, rfl⟩, fun q => ?_, rfl⟩
  by_cases here : q = p
  · rw [here, s.stone_setStone p v]
    exact same
  · exact ⟨_, _, _, _, _, _, s.stone_setStone_ne p q v here⟩

theorem State.beside_putCtx (p i : Nat) (v : SetCtx) : State.Beside kept s (s.putCtx p i v) :=
  s.beside_setStone p ⟨_, _, _, _, _, _, rfl⟩

theorem State.asides_modRunning (f r : Nat) (m : Running → Running) : (s.modRunning f r m).asides = s.asides := by
  unfold State.modRunning
  split <;> rfl

end

/-! ## Steps of an end -/

/-- Is it the mark of a source that no function owns alone (R188)? -/
def sharedMark : WeirId → Bool
  | .sq _ _ | .cq _ _ => false
  | _ => true

/-- One step of what ends commands: a command ends, a step of a shared mark, a change outside the page sets, a mark on a plan, flags.
`fair`: the command is a SNAPSHOT that waits, or its status is one of a started command other than DEVICE_ERROR; `kept`: both memories
stay. -/
inductive State.EndStep (fair kept : Bool) (s : State) : State → Prop
  | ends (g q : Nat) (st : Status) (res : Word32)
      (only : fair = true → 2 ≤ st.prec ∨ ∃ k a b, s.running g q = some k ∧ k.wait = .snapshot a b) : EndStep fair kept s (s.finish g q st res)
  | weir (id : WeirId) (shared : sharedMark id = true) : EndStep fair kept s (s.evalWeir id)
  | apart {t : State} (pages : t.fns = s.fns) (beside : State.Beside kept s t) : EndStep fair kept s t
  | breaks (g q : Nat) : EndStep fair kept s (s.markPlanBroken g q)
  | flags (g q : Nat) (fl : Flags) : EndStep fair kept s (s.addFlags g q fl)

/-- Any number of such steps. -/
abbrev State.EndSteps (fair kept : Bool) : State → State → Prop := Relation.ReflTransGen (State.EndStep fair kept)

section
variable {fair kept : Bool} {s t : State}

theorem State.EndSteps.foldl {α : Type} {g : State → α → State} (each : ∀ u a, State.EndSteps fair kept u (g u a)) (l : List α) (s : State) :
    State.EndSteps fair kept s (l.foldl g s) :=
  List.foldlRecOn (motive := State.EndSteps fair kept s) l g .refl fun u known a _ => known.trans (each u a)

theorem State.endSteps_apart (same : t.pages = s.pages) : State.EndSteps fair kept s t :=
  .single (.apart (congrArg Prod.fst same) (.of_asides (congrArg Prod.snd same)))

end

section
variable {fair kept : Bool} {s t u : State} (known : State.EndSteps fair kept s t)
include known

theorem State.EndSteps.apart (same : u.pages = t.pages) : State.EndSteps fair kept s u :=
  known.trans (State.endSteps_apart same)
theorem State.EndSteps.evalWeir (id : WeirId) (shared : sharedMark id = true := by rfl) : State.EndSteps fair kept s (t.evalWeir id) :=
  known.tail (.weir id shared)

end

/-! ## The parts of an end -/

section
variable {fair kept : Bool} (s : State)

theorem State.endSteps_finish (g q : Nat) (st : Status) (res : Word32) (late : 2 ≤ st.prec) :
    State.EndSteps fair kept s (s.finish g q st res) := .single (.ends g q st res fun _ => .inl late)

theorem State.endSteps_grantPawl (t : Taker) : State.EndSteps fair kept s (s.grantPawl t true) := by
  cases t with
  | ring g q => exact s.endSteps_finish g q .broken 0 (by decide)
  | set p i =>
    exact .tail (.single (.apart (t := s.putCtx p i { s.setCtx p i with pawl := .held }) rfl (s.beside_putCtx p i _))) (.breaks _ _)

theorem State.endSteps_passPawl (n : Nat) : State.EndSteps fair kept s (s.passPawl n true) := by
  cases queued : (s.pawl n).queue with
  | nil =>
    rw [s.passPawl_of_nil n true queued]
    exact State.endSteps_apart rfl
  | cons t ts =>
    rw [s.passPawl_of_cons n t true ts queued]
    exact .trans (State.endSteps_apart (t := s.setPawl n { holder := some t, broken := false, queue := ts }) rfl)
      (State.endSteps_grantPawl _ t)

theorem State.endSteps_dropTaker (t : Taker) : State.EndSteps fair kept s (s.dropTaker t) := by
  refine State.EndSteps.foldl (fun u c => ?_) s.pawls s
  dsimp only
  split
  · exact u.endSteps_passPawl c.1
  · exact State.endSteps_apart rfl

theorem Stone.empty_sets (x : Stone) (i : Nat) : ∃ sets tables loaded switching at_ expired, x.empty i =
    { x with sets := sets, tables := tables, loaded := loaded, switching := switching, atBoundary := at_, expired := expired } := by
  unfold Stone.empty
  extract_lets c y
  split <;> exact ⟨_, _, _, _, _, _, rfl⟩

theorem State.endSteps_discardSet (p i : Nat) : State.EndSteps fair kept s (s.discardSet p i) := by
  refine (s.endSteps_dropTaker (.set p i)).tail ?_
  unfold State.discardSet
  extract_lets t
  exact .apart rfl (t.beside_setStone p (Stone.empty_sets _ i))

theorem State.failResult_pages (d : Desc) : (s.failResult d).2.pages = s.pages := by
  unfold State.failResult
  split <;> rfl

theorem State.endSteps_endSnapshots (f r : Nat) (seq : Word32) (st : Status) : State.EndSteps fair kept s (s.endSnapshots f r seq st) := by
  refine State.EndSteps.foldl (fun u q => ?_) _ s
  split
  next k run =>
    split
    next waits =>
      have same : (u.failResult k.desc).2.running f q = some k := by
        rw [State.running, State.sq, State.fn, State.fns_of_pages (u.failResult_pages k.desc)]
        exact run
      exact (State.endSteps_apart (u.failResult_pages k.desc)).tail (.ends f q st _ fun _ => .inr ⟨k, r, seq, same, waits⟩)
    · exact .refl
  · exact .refl

theorem State.resumeSets_fns (f r : Nat) (seq : Word32) :
    (s.resumeSets f r seq).fns = s.fns := by
  refine List.foldlRecOn (motive := fun u : State => u.fns = s.fns) _ _ rfl fun u known x _ => ?_
  dsimp only
  split
  · exact known
  · exact known

theorem State.endSteps_resumeSets (f r : Nat) (seq : Word32) : State.EndSteps fair kept s (s.resumeSets f r seq) := by
  refine State.EndSteps.foldl (fun u x => ?_) _ s
  dsimp only
  split
  · exact .single (.apart rfl (u.beside_putCtx _ _ _))
  · exact .refl

theorem State.endSteps_freeSlotsOf (held : List HeldChunk) : State.EndSteps fair kept s (s.freeSlotsOf held) :=
  State.EndSteps.foldl (fun _ _ => .evalWeir (.apart .refl (by rfl)) _) held s

theorem State.linkFail_pages (p : Nat) (reason : BitVec 8) : (s.linkFail p reason).pages = s.pages := by
  unfold State.linkFail
  split <;> rfl

theorem State.pushPacket_pages (p : Packet) : (s.pushPacket p).pages = s.pages := by
  unfold State.pushPacket
  split
  · exact s.linkFail_pages _ _
  · rfl

theorem State.endSteps_breakTag (p t : Nat) (st : Status) (late : 2 ≤ st.prec) (skip : Option (Nat × Nat)) :
    State.EndSteps fair kept s (s.breakTag p t st skip) := by
  unfold State.breakTag
  extract_lets x freed acked broken
  split
  · exact .refl
  have freeing : State.EndSteps fair kept s freed := s.endSteps_freeSlotsOf _
  have acking : State.EndSteps fair kept freed acked := State.EndSteps.foldl (fun u k => State.endSteps_apart (u.pushPacket_pages _)) _ _
  have breaking : State.EndSteps fair kept acked broken := State.endSteps_apart rfl
  refine ((freeing.trans acking).trans breaking).trans (State.EndSteps.foldl (fun u k => ?_) _ _)
  split
  · exact .refl
  · exact u.endSteps_finish _ _ st _ late

theorem State.endSteps_releaseMedia (h n : Nat) : State.EndSteps fair kept s (s.releaseMedia h n) := by
  unfold State.releaseMedia
  split
  · exact .refl
  · exact .evalWeir (.apart .refl (by rfl)) _

theorem State.endSteps_closeHopper (h i : Nat) : State.EndSteps fair kept s (s.closeHopper h i) :=
  .trans (State.endSteps_apart (t := s.setHop h i { s.hop h i with opened := false, claim := 0 }) rfl) (State.endSteps_releaseMedia _ _ _)

theorem State.endSteps_closeRace (h i : Nat) : State.EndSteps fair kept s (s.closeRace h i) :=
  .trans (State.endSteps_apart (t := s.setRac h i { s.rac h i with opened := false, claim := 0, bufs := [] }) rfl)
    (State.endSteps_releaseMedia _ _ _)

theorem State.endSteps_unstage (c : Running) : State.EndSteps fair kept s (s.unstage c) := by
  unfold State.unstage
  split
  · exact .evalWeir (.apart .refl (by rfl)) _
  · exact .refl

theorem State.endSteps_freeEntry (p e : Nat) : State.EndSteps fair false s (s.freeEntry p e) := by
  unfold State.freeEntry
  extract_lets x z zeroed held _ listed freed
  have cleared : State.EndSteps fair false s zeroed := by
    simp only [zeroed]
    split
    · refine .single (.apart rfl ⟨fun kept => Bool.noConfusion kept, fun q => ⟨_, _, _, rfl⟩, fun q => ⟨_, _, _, _, _, _, rfl⟩, rfl⟩)
    · exact .refl
  have done : State.EndSteps fair false zeroed freed := by
    clear_value zeroed
    have unlisted : State.EndSteps fair false zeroed listed := .single (.apart rfl (zeroed.beside_prevList p _))
    exact (unlisted.apart (u := listed.setEntry e {}) rfl).evalWeir _
  split
  · exact .evalWeir (cleared.trans done) _
  · exact cleared.trans done

end

/-! ## What the steps leave of page sets -/

/-- Every page set stands but for its rings, pending bits and causes. -/
def State.PagesKept (s t : State) : Prop :=
  ∀ g, ∃ sqs cqs pending cause, t.fn g = { s.fn g with sqs := sqs, cqs := cqs, pending := pending, cause := cause }

theorem State.PagesKept.refl (s : State) : s.PagesKept s := fun _ => ⟨_, _, _, _, rfl⟩

theorem State.PagesKept.trans {s t u : State} (first : s.PagesKept t) (next : t.PagesKept u) : s.PagesKept u := fun g => by
  obtain ⟨sqs, cqs, pending, cause, here⟩ := first g
  obtain ⟨sqs', cqs', pending', cause', there⟩ := next g
  exact ⟨sqs', cqs', pending', cause', by rw [there, here]⟩

theorem State.pagesKept_setSq (s : State) (f r : Nat) (v : SubRing) : s.PagesKept (s.setSq f r v) := fun g => by
  by_cases here : g = f
  · exact ⟨_, _, _, _, by rw [here]; exact s.fn_setFn f _⟩
  · exact ⟨_, _, _, _, s.fn_setFn_ne f g _ here⟩

theorem State.pagesKept_modRunning (s : State) (f r : Nat) (m : Running → Running) : s.PagesKept (s.modRunning f r m) := by
  unfold State.modRunning
  split
  · exact s.pagesKept_setSq f r _
  · exact .refl s

theorem State.EndStep.pagesKept {fair kept : Bool} {s t : State} (step : State.EndStep fair kept s t) : s.PagesKept t := by
  cases step with
  | ends g q st res => exact State.pagesKept_modRunning s.ended g q _
  | weir id => exact (s.marksOnly_evalWeir id).fn
  | apart pages => exact fun g => ⟨_, _, _, _, by rw [State.fn, pages]; rfl⟩
  | breaks g q => exact State.pagesKept_modRunning s g q _
  | flags g q fl => exact State.pagesKept_modRunning s g q _

theorem State.EndStep.beside {fair kept : Bool} {s t : State} (step : State.EndStep fair kept s t) : State.Beside kept s t := by
  cases step with
  | ends g q st res => exact .of_asides (State.asides_modRunning s.ended g q _)
  | weir id => exact (s.marksOnly_evalWeir id).beside
  | apart _ beside => exact beside
  | breaks g q => exact .of_asides (State.asides_modRunning s g q _)
  | flags g q fl => exact .of_asides (State.asides_modRunning s g q _)

theorem State.EndSteps.beside {fair kept : Bool} {s t : State} (steps : State.EndSteps fair kept s t) : State.Beside kept s t := by
  induction steps with
  | refl => exact .of_asides rfl
  | tail _ step ih => exact ih.trans step.beside

theorem State.EndSteps.pagesKept {fair kept : Bool} {s t : State} (steps : State.EndSteps fair kept s t) : s.PagesKept t := by
  induction steps with
  | refl => exact .refl s
  | tail _ step ih => exact ih.trans step.pagesKept

/-! ## A page set in reset -/

theorem State.notice_of_resetting {s : State} {f : Nat} (held : (s.fn f).resetting = true) (c : Cause) : s.notice f c = s := if_pos held

/-- A step of a shared mark touches no page set but PF0's, and that one only outside a reset (R188, R359). -/
theorem State.fn_evalWeir_of_shared (s : State) (id : WeirId) (shared : sharedMark id = true) (f : Nat)
    (held : f = 0 → (s.fn 0).resetting = true) : (s.evalWeir id).fn f = s.fn f := by
  have facts : weirOwner id = 0 ∧ ∀ w, (s.setWeir id w).fn f = s.fn f := by
    cases id with
    | sq | cq => exact absurd shared Bool.false_ne_true
    | pondCache | media | combineSlots | copyStaging | latentPool | gristTable => exact ⟨rfl, fun _ => rfl⟩
  obtain ⟨owner, pages⟩ := facts
  cases here : s.level id with
  | none => simp only [State.evalWeir, here]
  | some l =>
    rw [State.evalWeir_of_level here, owner]
    split
    · by_cases pf : f = 0
      · rw [State.notice_of_resetting ((State.resetting_setWeir ..).trans (held pf)), pages]
      · rw [State.fn_notice_ne _ _ _ pf, pages]
    · exact pages _

/-! ## A command on its way to an end -/

/-- The ring `q` of function `f` still runs the command `k`, without an end or with the end of a started command. -/
def State.OnItsWay (f r : Nat) (q : SubRing) (k : Running) (t : State) : Prop :=
  ∃ k' w, t.sq f r = { q with running := some k', weir := w } ∧ k'.seq = k.seq ∧ k'.sideEnd = none ∧
    (k'.done = none ∨ ∃ st res, k'.done = some (st, res) ∧ 2 ≤ st.prec) ∧ ∀ a b, k'.wait ≠ .snapshot a b

/-- What a change of the running command must leave. -/
structure Running.GoesOn (k k' : Running) : Prop where
  seq  : k'.seq = k.seq
  side : k'.sideEnd = k.sideEnd
  done : (k.done = none ∨ ∃ st res, k.done = some (st, res) ∧ 2 ≤ st.prec) →
    (k'.done = none ∨ ∃ st res, k'.done = some (st, res) ∧ 2 ≤ st.prec)
  wait : (∀ a b, k.wait ≠ .snapshot a b) → ∀ a b, k'.wait ≠ .snapshot a b

section
variable {f r : Nat} {q : SubRing} {k : Running} {t u : State}

theorem State.OnItsWay.of_sq (known : t.OnItsWay f r q k) {w : Weir} (same : u.sq f r = { t.sq f r with weir := w }) :
    u.OnItsWay f r q k := by
  obtain ⟨k', w', ring, rest⟩ := known
  exact ⟨k', w, by rw [same, ring], rest⟩

theorem State.OnItsWay.modRunning (known : t.OnItsWay f r q k) (g p : Nat) {m : Running → Running}
    (goes : ∀ k', t.running f r = some k' → g = f → p = r → k'.sideEnd = none → k'.GoesOn (m k')) :
    (t.modRunning g p m).OnItsWay f r q k := by
  by_cases mine : g = f ∧ p = r
  · obtain ⟨rfl, rfl⟩ := mine
    obtain ⟨k', w, ring, seq, side, done, wait⟩ := known
    have run : t.running g p = some k' := by rw [State.running, ring]
    have go := goes k' run rfl rfl side
    refine ⟨m k', w, ?_, go.seq.trans seq, go.side.trans side, go.done done, go.wait wait⟩
    simp only [State.modRunning, run, State.setRunning, State.sq_setSq, ring]
  · have other : f ≠ g ∨ r ≠ p := by
      rw [← not_and_or]
      exact fun same => mine ⟨same.1.symm, same.2.symm⟩
    refine known.of_sq (w := (t.sq f r).weir) ?_
    unfold State.modRunning
    split
    · exact t.sq_setSq_ne g p f r _ other
    · rfl

theorem mergeEnd_late {old : Option (Status × Word32)} {st : Status} {res : Word32} (late : 2 ≤ st.prec)
    (was : old = none ∨ ∃ st res, old = some (st, res) ∧ 2 ≤ st.prec) :
    ∃ st' res', mergeEnd old st res = some (st', res') ∧ 2 ≤ st'.prec := by
  rcases was with rfl | ⟨st0, res0, rfl, late0⟩
  · exact ⟨st, res, rfl, late⟩
  · have started : ¬st0.prec = 0 := by omega
    simp only [mergeEnd, if_neg started]
    split
    · exact ⟨st, res, rfl, late⟩
    · exact ⟨st0, res0, rfl, late0⟩

theorem State.OnItsWay.step (known : t.OnItsWay f r q k) (step : State.EndStep true kept t u) : u.OnItsWay f r q k := by
  cases step with
  | ends g p st res only =>
    refine State.OnItsWay.modRunning (t := t.ended) known g p fun k' run mine ring side => ?_
    subst mine ring
    obtain ⟨kNow, w, now, -, -, -, waits⟩ := known
    have here : k' = kNow := by
      have run' : (t.sq g p).running = some k' := run
      rw [now] at run'
      exact (Option.some.inj run').symm
    have late : 2 ≤ st.prec := by
      rcases only rfl with late | ⟨c, a, b, running, snapshot⟩
      · exact late
      · have same : k' = c := Option.some.inj (run.symm.trans running)
        rw [← same, here] at snapshot
        exact absurd snapshot (waits a b)
    have status : k'.statusOf st = st := by rw [Running.statusOf, side]
    exact ⟨rfl, rfl, fun was => .inr (by rw [status]; exact mergeEnd_late late was), fun _ _ _ h => WaitKind.noConfusion h⟩
  | weir id =>
    obtain ⟨w, ring⟩ := (t.marksOnly_evalWeir id).sq f r
    exact known.of_sq ring
  | apart pages =>
    refine known.of_sq (w := (t.sq f r).weir) ?_
    rw [State.sq, State.fn, pages]
    rfl
  | breaks g p =>
    refine known.modRunning g p fun k' _ _ _ _ => ?_
    split
    · exact ⟨rfl, rfl, id, fun _ _ _ h => WaitKind.noConfusion h⟩
    · exact ⟨rfl, rfl, id, id⟩
  | flags g p fl => exact known.modRunning g p fun k' _ _ _ _ => ⟨rfl, rfl, id, id⟩

theorem State.OnItsWay.steps (known : t.OnItsWay f r q k) (steps : State.EndSteps true kept t u) : u.OnItsWay f r q k := by
  induction steps with
  | refl => exact known
  | tail _ step ih => exact ih.step step

/-- Only ABORTED has its place in the precedence of started commands (R366). -/
theorem Status.eq_aborted_of_prec {st : Status} (late : 2 ≤ st.prec) (first : ¬Status.aborted.prec < st.prec) : st = .aborted := by
  cases st <;> simp_all [Status.prec]

theorem mergeEnd_aborted {old : Option (Status × Word32)} {res : Word32}
    (was : old = none ∨ ∃ st res, old = some (st, res) ∧ 2 ≤ st.prec) :
    ∃ res', mergeEnd old .aborted res = some (.aborted, res') := by
  rcases was with rfl | ⟨st0, res0, rfl, late⟩
  · exact ⟨res, rfl⟩
  · have started : ¬st0.prec = 0 := by omega
    simp only [mergeEnd, if_neg started]
    split
    · exact ⟨res, rfl⟩
    next first => exact ⟨res0, by rw [Status.eq_aborted_of_prec late first]⟩

/-- A command on its way ends with ABORTED. -/
theorem State.OnItsWay.finish_aborted (known : t.OnItsWay f r q k) (res : Word32) : ∃ k' w res',
    (t.finish f r .aborted res).sq f r = { q with running := some k', weir := w } ∧ k'.done = some (.aborted, res') ∧
    k'.seq = k.seq := by
  obtain ⟨k', w, ring, seq, side, done, -⟩ := known
  have run : t.running f r = some k' := by rw [State.running, ring]
  have status : k'.statusOf .aborted = .aborted := by rw [Running.statusOf, side]
  obtain ⟨res', merged⟩ := mergeEnd_aborted (res := res) done
  refine ⟨{ k' with done := mergeEnd k'.done (k'.statusOf .aborted) res, wait := .none, doneAt := t.ends }, w, res', ?_, ?_, seq⟩
  · rw [t.finish_of_running f r k' .aborted res run, State.endedWith, State.setRunning, State.sq_setSq]
    exact congrArg (fun x : SubRing => { x with
      running := some { k' with done := mergeEnd k'.done (k'.statusOf .aborted) res, wait := .none, doneAt := t.ends } }) ring
  · exact (congrArg (fun x => mergeEnd k'.done x res) status).trans merged

end

/-! ## SQ_ABORT (R349) -/

section
variable {s : State} {f r : Nat} {k : Running}

/-- A plan that is stopped discards its sets, ends the SNAPSHOTs that wait for them and takes its flags, then ends (R210). -/
theorem State.stopPlan_of_running (run : s.running f r = some k) (st : Status) : ∃ fl res, s.stopPlan f r st none =
    ((((s.setsOf f r k.seq).foldl (fun s x => s.discardSet x.1 x.2) s).endSnapshots f r k.seq .state).addFlags f r fl).finish
      f r st res := by
  have noRecords (t : State) (res : Word32) : t.finishWith f r st res [] none = t.finish f r st res := rfl
  simp only [State.stopPlan, run, noRecords]
  exact ⟨_, _, rfl⟩

/-- An end of a command with ABORTED: what it holds is released, then it ends. -/
theorem State.endCommand_eq_finish (run : s.running f r = some k) (going : k.done = none)
    (acks : ∀ st0 recs, k.wait = .acks st0 recs → 2 ≤ st0.prec ∧ recs = []) (device : ∀ j, k.wait = .hopper j → j.device = false) :
    ∃ t res, s.endCommand f r .aborted = t.finish f r .aborted res ∧
      (t.fns = s.fns ∨ State.EndSteps true true s t ∧ ∀ a b, k.wait ≠ .snapshot a b) := by
  cases waits : k.wait with
  | none => exact ⟨(s.failResult k.desc).2, _, by simp only [State.endCommand, run, waits, going]; rfl, .inl (State.fns_of_pages (s.failResult_pages _))⟩
  | word last => exact ⟨s, _, by simp only [State.endCommand, run, waits]; rfl, .inl rfl⟩
  | pawl id => exact ⟨s.setPawl id _, _, by simp only [State.endCommand, run, waits]; rfl, .inl rfl⟩
  | fence on => exact ⟨s, _, by simp only [State.endCommand, run, waits]; rfl, .inl rfl⟩
  | staging h sh => exact ⟨s, _, by simp only [State.endCommand, run, waits]; rfl, .inl rfl⟩
  | tag => exact ⟨s, _, by simp only [State.endCommand, run, waits]; rfl, .inl rfl⟩
  | collective c =>
    exact ⟨{ s with leat := { s.leat with dead := s.leat.dead ++ [c.tag] } }, _, by simp only [State.endCommand, run, waits]; rfl, .inl rfl⟩
  | linkHalt => exact ⟨s, _, by simp only [State.endCommand, run, waits]; rfl, .inl rfl⟩
  | link =>
    refine ⟨if s.leat.cmdRing = some r then s.leatOff else s, _, by simp only [State.endCommand, run, waits]; rfl, .inl ?_⟩
    split <;> rfl
  | snapshot q seq =>
    exact ⟨(s.failResult k.desc).2.resumeSets f q seq, _, by simp only [State.endCommand, run, waits]; rfl,
      .inl ((State.resumeSets_fns _ f q seq).trans (State.fns_of_pages (s.failResult_pages _)))⟩
  | combine next =>
    refine ⟨((s.dropAcks f r k.seq).tagsOf f r).foldl (fun s x => s.breakTag x.1 x.2 .broken (some (f, r))) (s.dropAcks f r k.seq), _,
      by simp only [State.endCommand, run, waits]; rfl, .inr ⟨?_, fun _ _ h => WaitKind.noConfusion h⟩⟩
    exact .trans (State.endSteps_apart (t := s.dropAcks f r k.seq) rfl)
      (State.EndSteps.foldl (fun u x => u.endSteps_breakTag _ _ .broken (by decide) _) _ _)
  | acks st0 recs =>
    obtain ⟨late, rfl⟩ := acks st0 recs waits
    have noRecords : (s.dropAcks f r k.seq).sides f r (if st0.noHist && !(s.fn f).resetting then [] else []) none =
        s.dropAcks f r k.seq := by
      rw [ite_self]
      rfl
    refine ⟨(s.dropAcks f r k.seq).finish f r st0 _, _, by simp only [State.endCommand, run, waits, noRecords]; rfl,
      .inr ⟨?_, fun _ _ h => WaitKind.noConfusion h⟩⟩
    exact .trans (State.endSteps_apart (t := s.dropAcks f r k.seq) rfl) (State.endSteps_finish _ f r st0 _ late)
  | hopper j =>
    have freed : State.EndSteps true true s ((s.addFlags f r j.flags).freeVideo j) := by
      refine State.EndSteps.apart (.single (.flags f r j.flags)) ?_
      unfold State.freeVideo
      split <;> rfl
    refine ⟨if j.close then ((s.addFlags f r j.flags).freeVideo j).closeHopper j.house j.stream
      else (s.addFlags f r j.flags).freeVideo j, _, by simp only [State.endCommand, run, waits, device j waits]; rfl,
      .inr ⟨?_, fun _ _ h => WaitKind.noConfusion h⟩⟩
    split
    · exact freed.trans (State.endSteps_closeHopper _ _ _)
    · exact freed
  | plan p =>
    obtain ⟨fl, res, stopped⟩ := State.stopPlan_of_running run .aborted
    refine ⟨_, res, by simp only [State.endCommand, run, waits]; exact stopped, .inr ⟨?_, fun _ _ h => WaitKind.noConfusion h⟩⟩
    have discarding : State.EndSteps true true s ((s.setsOf f r k.seq).foldl (fun s x => s.discardSet x.1 x.2) s) :=
      State.EndSteps.foldl (fun u x => u.endSteps_discardSet _ _) _ _
    exact (discarding.trans (State.endSteps_endSnapshots _ f r k.seq .state)).tail (.flags f r _)

/-- SQ_ABORT of a command without an end, which met no destroyed data and awaits no side record. -/
theorem State.endCommand_aborted (run : s.running f r = some k) (going : k.done = none) (side : k.sideEnd = none)
    (acks : ∀ st0 recs, k.wait = .acks st0 recs → 2 ≤ st0.prec ∧ recs = []) (device : ∀ j, k.wait = .hopper j → j.device = false) :
    ∃ k' w res, (s.endCommand f r .aborted).sq f r = { s.sq f r with running := some k', weir := w } ∧
      k'.done = some (.aborted, res) ∧ k'.seq = k.seq := by
  have ring : s.sq f r = { s.sq f r with running := some k } := by
    rw [← show (s.sq f r).running = some k from run]
  obtain ⟨t, res, ends, pages | ⟨steps, notSnapshot⟩⟩ := State.endCommand_eq_finish run going acks device
  · have here : t.sq f r = s.sq f r := by rw [State.sq, State.fn, pages]; rfl
    have run' : t.running f r = some k := by rw [State.running, here]; exact run
    have status : k.statusOf .aborted = .aborted := by rw [Running.statusOf, side]
    have ended : (t.finish f r .aborted res).sq f r =
        { s.sq f r with running := some { k with done := some (.aborted, res), wait := .none, doneAt := t.ends } } := by
      rw [t.finish_of_running f r k .aborted res run', State.endedWith, State.setRunning, State.sq_setSq, status, going, ← here]
      rfl
    exact ⟨_, (s.sq f r).weir, res, (congrArg (fun u => State.sq u f r) ends).trans ended, rfl, rfl⟩
  · have started : s.OnItsWay f r (s.sq f r) k := ⟨k, _, ring, rfl, side, .inl going, notSnapshot⟩
    rw [ends]
    exact (started.steps steps).finish_aborted res

end

end Sys2Proof.Machine
end

section
/-! PROOFS. SQ_ENABLE, SQ_DISABLE, SQ_RESUME and SQ_ABORT (R341, R343, R348, R349). -/
namespace Sys2Proof.Machine

/-! ## SQ_CFG (R341, R343) -/

/-- The fields of SQ_CFG. -/
def SubRing.configured (q : SubRing) (v : Nat) : SubRing :=
  { q with haltOnErr := v.testBit 30, overshot := v.testBit 29, log2 := BitVec.ofNat 5 (bitsOf v 20 16), cq := BitVec.ofNat 4 (bitsOf v 3 0) }

section
variable (s : State) (f : FnId) (r : RingIx)

theorem SubRing.configured_fields (q : SubRing) (v : Nat) :
    (q.configured v).log2.toNat = v / 65536 % 32 ∧ (q.configured v).cq.toNat = v % 16 := by
  constructor
  · simp only [SubRing.configured, bitsOf, BitVec.toNat_ofNat]
    omega
  · simp only [SubRing.configured, bitsOf, BitVec.toNat_ofNat]
    omega

/-- SQ_CFG with ENABLE on a DISABLED ring. -/
theorem State.writeSqCfg_enable {v : Nat} (off : (s.sq f r).state = .disabled) (set : v.testBit 31 = true) :
    s.writeSqCfg f r v =
      if v / 65536 % 32 < 4 ∨ 15 < v / 65536 % 32 ∨ (s.cq f (v % 16)).enable = false ∨ s.tenant f = false then s.rejectRing f
      else (s.setSq f r { (s.sq f r).configured v with enable := true, state := .running, head := 0, tail := 0, seqNext := 0 }).evalWeir
        (.sq f r) := by
  obtain ⟨log2, cq⟩ := (s.sq f r).configured_fields v
  have bad : ((((s.sq f r).configured v).log2.toNat < 4 || ((s.sq f r).configured v).log2.toNat > 15 ||
      !(s.cq f ((s.sq f r).configured v).cq.toNat).enable || !s.tenant f) = true) ↔
      (v / 65536 % 32 < 4 ∨ 15 < v / 65536 % 32 ∨ (s.cq f (v % 16)).enable = false ∨ s.tenant f = false) := by
    rw [log2, cq]
    simp only [Bool.or_eq_true, decide_eq_true_eq, Bool.not_eq_true', or_assoc, gt_iff_lt]
  have cfg : s.writeSqCfg f r v = s.writeSqCfgOff f r v := if_pos off
  rw [cfg, State.writeSqCfgOff, fnId_val, ringIx_val, if_pos set]
  exact if_congr bad rfl rfl

theorem State.writeSqCfgOn_disable {v : Nat} (notOff : (s.sq f r).state = .running ∨ (s.sq f r).state = .halted)
    (clear : v.testBit 31 = false) :
    ∃ t : State, s.writeSqCfg f r v = t.stopRing f r ∧ t.sq f r = { s.sq f r with haltOnErr := v.testBit 30 } ∧
      ((t.fn f).wrej = true ↔ (s.fn f).wrej = true ∨ v.testBit 29 ≠ (s.sq f r).overshot ∨ v / 65536 % 32 ≠ (s.sq f r).log2.toNat ∨
        v % 16 ≠ (s.sq f r).cq.toNat) := by
  have off : ¬(s.sq f r).state = .disabled := by rcases notOff with running | halted <;> simp [*]
  have stopping : (s.sq f r).state ≠ .stopping := by rcases notOff with running | halted <;> simp [*]
  have size : bitsOf v 20 16 = v / 65536 % 32 := rfl
  have ring : bitsOf v 3 0 = v % 16 := by simp only [bitsOf]; omega
  have cfg : s.writeSqCfg f r v = s.writeSqCfgOn f r v := if_neg off
  rw [cfg, State.writeSqCfgOn]
  have stops : ((s.sq f r).state ≠ .stopping && !v.testBit 31) = true := by rw [clear]; simp [stopping]
  have other : (v.testBit 29 != (s.sq f r).overshot || bitsOf v 20 16 != (s.sq f r).log2.toNat || bitsOf v 3 0 != (s.sq f r).cq.toNat ||
      ((s.sq f r).state == .stopping && v.testBit 31)) = true ↔ (v.testBit 29 ≠ (s.sq f r).overshot ∨
        v / 65536 % 32 ≠ (s.sq f r).log2.toNat ∨ v % 16 ≠ (s.sq f r).cq.toNat) := by
    rw [size, ring, clear]
    simp only [Bool.and_false, Bool.or_false, Bool.or_eq_true, bne_iff_ne, or_assoc]
  dsimp only
  rw [if_pos stops]
  refine ⟨_, rfl, ?_⟩
  have written (u : SubRing) : ((s.setSq f r u).fn f).wrej = (s.fn f).wrej := by rw [State.setSq, s.fn_setFn]
  split
  next differs =>
    refine ⟨?_, ?_⟩
    · rw [State.rejectRing, State.sq, State.fn_setFn]
      exact s.sq_setSq f r _
    · rw [State.rejectRing, State.fn_setFn]
      exact iff_of_true rfl (.inr (other.1 differs))
  next same =>
    refine ⟨s.sq_setSq f r _, ?_⟩
    rw [written]
    exact ⟨.inl, fun either => either.resolve_right fun differs => same (other.2 differs)⟩

theorem State.sq_stopRing : (s.stopRing f r).sq f r =
    { s.sq f r with enable := false, state := if (s.sq f r).running = none then .disabled else .stopping } := by
  rw [State.stopRing, State.sq_setSq]
  simp only [Option.isNone_iff_eq_none]

theorem State.fn_stopRing_wrej : ((s.stopRing f r).fn f).wrej = (s.fn f).wrej := by
  rw [State.stopRing, State.setSq, State.fn_setFn]

theorem State.endCommand_of_idle {g p : Nat} (idle : s.running g p = none) (st : Status) : s.endCommand g p st = s := by
  simp only [State.endCommand, idle]

end

/-! ## The rows -/

section
variable {s : State} {f : FnId} (ready : s.cfgReady = true) (up : (s.fn f).resetting = false) (r : RingIx)
include ready up

theorem State.exec_sqEnable (v : Word32) : exec (.sqEnable f r v) s = .next (s.writeSqCfg f r v.toNat).settle :=
  congrArg (fun u => Host.Outcome.next (State.settle u)) (State.writePage_sqCfg ready up r v)

theorem State.exec_sqDisable (v : Word32) : exec (.sqDisable f r v) s = .next (s.writeSqCfg f r v.toNat).settle :=
  congrArg (fun u => Host.Outcome.next (State.settle u)) (State.writePage_sqCfg ready up r v)

theorem State.exec_sqResume : exec (.sqResume f r) s = .next (s.resumeRing f r) :=
  congrArg Host.Outcome.next (State.writePage_sqCtrl ready up r 2)

/-- ABORT wins over RESUME (R349). -/
theorem State.exec_sqAbort (resume : Bool) : exec (.sqAbort f r resume) s = .next (s.abortRing f r).settle := by
  have write := State.writePage_sqCtrl ready up r (if resume then 3 else 1)
  have aborts : s.writeSqCtrl f r (if resume then 3 else 1 : Word64).toNat = s.abortRing f r := by cases resume <;> rfl
  exact congrArg (fun u => Host.Outcome.next (State.settle u)) (write.trans aborts)

end

theorem State.abortRing_of_on {s : State} {f r : Nat} (on : (s.sq f r).state = .running ∨ (s.sq f r).state = .halted) :
    s.abortRing f r = (s.stopRing f r).endCommand f r .aborted := by
  rcases on with running | halted
  · simp only [State.abortRing, running]
  · simp only [State.abortRing, halted]

/-- Settles O19, bit by bit; the end of an aborted command by `State.endCommand_aborted`. -/
theorem submissionRingControl : Obligations.SubmissionRingControl := by
  intro s f r v resume q size c ready up
  refine ⟨fun off set => ⟨fun low high named tenant => ?enables, fun bad => ?refused⟩, fun on clear => ?disables,
    fun halted => ?resumes, fun other => ?notHalted, fun on => ⟨fun idle => ?abortIdle, fun k run going side acks device => ?aborts⟩⟩
  case enables =>
    have good : ¬(v.toNat / 65536 % 32 < 4 ∨ 15 < v.toNat / 65536 % 32 ∨ (s.cq f (v.toNat % 16)).enable = false ∨ s.tenant f = false) := by
      rintro (bad | bad | bad | bad)
      · exact absurd low bad.not_ge
      · exact absurd high bad.not_ge
      · exact absurd (named.symm.trans bad) (by decide)
      · exact absurd (tenant.symm.trans bad) (by decide)
    obtain ⟨log2, cq⟩ := (s.sq f r).configured_fields v.toNat
    let on : SubRing := { (s.sq f r).configured v.toNat with enable := true, state := .running, head := 0, tail := 0, seqNext := 0 }
    have marks := (s.setSq f r on).marksOnly_evalWeir (.sq f r)
    obtain ⟨⟨w, ring⟩, others⟩ := (s.setSq f r on).sq_evalWeir_sq f r f r rfl rfl
    rw [s.sq_setSq] at ring
    refine ⟨_, (State.exec_sqEnable ready up r v).trans
      (congrArg (fun u => Host.Outcome.next (State.settle u)) ((s.writeSqCfg_enable f r off set).trans (if_neg good))), ?_⟩
    rw [ring]
    exact ⟨rfl, rfl, rfl, rfl, rfl, log2, cq, rfl, rfl, rfl, rfl,
      fun g p apart => (others g p apart).trans (s.sq_setSq_ne f r g p _ apart), marks.sameContents.mem, marks.sameContents.hostMem⟩
  case refused => rw [State.exec_sqEnable ready up, s.writeSqCfg_enable f r off set, if_pos bad]
  case disables =>
    obtain ⟨t, written, ring, wrej⟩ := s.writeSqCfgOn_disable f r on clear
    refine ⟨t.stopRing f r, (State.exec_sqDisable ready up r v).trans (congrArg (fun u => Host.Outcome.next (State.settle u)) written), ?_, ?_⟩
    · rw [t.sq_stopRing, ring]
    · rw [t.fn_stopRing_wrej]
      exact wrej
  case resumes => rw [State.exec_sqResume ready up, State.resumeRing, if_pos halted]
  case notHalted => rw [State.exec_sqResume ready up, State.resumeRing, if_neg other]
  case abortIdle =>
    refine ⟨_, (State.exec_sqAbort ready up r resume).trans
      (congrArg (fun u => Host.Outcome.next (State.settle u)) (State.abortRing_of_on on)), ?_⟩
    have still : (s.stopRing f r).running f r = none := by rw [State.running, s.sq_stopRing]; exact idle
    rw [State.endCommand_of_idle _ still, s.sq_stopRing, if_pos idle]
  case aborts =>
    have still : (s.stopRing f r).running f r = some k := by rw [State.running, s.sq_stopRing]; exact run
    obtain ⟨k', w, res, ring, done, seq⟩ := State.endCommand_aborted still going side acks device
    have busy : (s.sq f r).running ≠ none := by
      rw [show (s.sq f r).running = some k from run]
      exact Option.some_ne_none k
    refine ⟨_, k', res, (State.exec_sqAbort ready up r resume).trans
      (congrArg (fun u => Host.Outcome.next (State.settle u)) (State.abortRing_of_on on)), ?_⟩
    rw [ring, s.sq_stopRing, if_neg busy]
    exact ⟨rfl, rfl, rfl, done, seq⟩

end Sys2Proof.Machine
end

section
/-! PROOFS. Resets of the port and of functions (R252, R333, R359, R360, R440): what a reset returns, and what it keeps. -/
namespace Sys2Proof.Machine

/-! ## A command that ends during a reset of its function (R359) -/

theorem State.endSteps_finishAny {kept : Bool} (s : State) (g q : Nat) (st : Status) (res : Word32) :
    State.EndSteps false kept s (s.finish g q st res) := .single (.ends g q st res fun h => Bool.noConfusion h)

theorem State.EndSteps.finish {kept : Bool} {s t : State} (known : State.EndSteps false kept s t) (g q : Nat) (st : Status) (res : Word32) :
    State.EndSteps false kept s (t.finish g q st res) := known.trans (t.endSteps_finishAny g q st res)

theorem State.sides_nil (s : State) (f r : Nat) : s.sides f r [] none = s := rfl

/-- Does the command of a ring end without a side record: a reset is in progress, or no side record awaits its acknowledgements? -/
def State.EndsQuietly (s : State) (f r : Nat) : Prop :=
  (s.fn f).resetting = true ∨ ∀ k st recs, s.running f r = some k → k.wait ≠ .acks st recs

/-- The end of a command without a side record is made of the steps alone. -/
theorem State.endSteps_endCommand {kept : Bool} {s : State} {f r : Nat} (quiet : s.EndsQuietly f r) (st : Status) :
    State.EndSteps false kept s (s.endCommand f r st) := by
  cases run : s.running f r with
  | none => rw [State.endCommand_of_idle _ run]
  | some k =>
  cases waits : k.wait with
  | none =>
    cases ended : k.done with
    | none =>
      simp only [State.endCommand, run, waits, ended]
      exact .finish (State.endSteps_apart (s.failResult_pages _)) ..
    | some d =>
      simp only [State.endCommand, run, waits, ended]
      exact s.endSteps_finishAny ..
  | word last =>
    simp only [State.endCommand, run, waits]
    exact s.endSteps_finishAny ..
  | pawl id =>
    simp only [State.endCommand, run, waits]
    exact .finish (State.EndSteps.apart .refl (by rfl)) ..
  | fence on =>
    simp only [State.endCommand, run, waits]
    exact s.endSteps_finishAny ..
  | staging h sh =>
    simp only [State.endCommand, run, waits]
    exact s.endSteps_finishAny ..
  | tag =>
    simp only [State.endCommand, run, waits]
    exact s.endSteps_finishAny ..
  | collective c =>
    simp only [State.endCommand, run, waits]
    exact .finish (State.EndSteps.apart .refl (by rfl)) ..
  | linkHalt =>
    simp only [State.endCommand, run, waits]
    exact s.endSteps_finishAny ..
  | link =>
    simp only [State.endCommand, run, waits]
    refine .finish (State.endSteps_apart ?_) ..
    split <;> rfl
  | snapshot q seq =>
    simp only [State.endCommand, run, waits]
    exact .finish ((State.endSteps_apart (s.failResult_pages k.desc)).trans (State.endSteps_resumeSets _ f q seq)) ..
  | combine next =>
    simp only [State.endCommand, run, waits]
    refine .finish ?_ ..
    exact .trans (State.endSteps_apart (t := s.dropAcks f r k.seq) rfl)
      (State.EndSteps.foldl (fun u x => u.endSteps_breakTag _ _ .broken (by decide) _) _ _)
  | acks st0 recs =>
    have resetting : (s.fn f).resetting = true := quiet.resolve_right fun none => none k st0 recs run waits
    simp only [State.endCommand, run, waits, resetting, Bool.not_true, Bool.and_false, Bool.false_eq_true, if_false,
      State.sides_nil]
    exact .finish (.finish (State.EndSteps.apart .refl (by rfl)) ..) ..
  | hopper j =>
    simp only [State.endCommand, run, waits]
    refine .finish ?_ ..
    have freed : State.EndSteps false kept s ((s.addFlags f r j.flags).freeVideo j) := by
      refine State.EndSteps.apart (.single (.flags f r j.flags)) ?_
      unfold State.freeVideo
      split <;> rfl
    split
    · exact freed.trans (State.endSteps_closeHopper _ _ _)
    · exact freed
  | plan p =>
    obtain ⟨fl, res, stopped⟩ := State.stopPlan_of_running run st
    simp only [State.endCommand, run, waits, stopped]
    refine .finish ?_ ..
    have discarding : State.EndSteps false kept s ((s.setsOf f r k.seq).foldl (fun s x => s.discardSet x.1 x.2) s) :=
      State.EndSteps.foldl (fun u x => u.endSteps_discardSet _ _) _ _
    exact (discarding.trans (State.endSteps_endSnapshots _ f r k.seq .state)).tail (.flags f r _)

/-! ## Resets of functions (R359) -/

theorem State.markReset_fns (s : State) (f : Nat) : (s.markReset f).fns = (s.setFn f { s.fn f with resetting := true }).fns := by
  unfold State.markReset
  split <;> rfl

theorem State.fn_markReset (s : State) (f : Nat) : (s.markReset f).fn f = { s.fn f with resetting := true } := by
  rw [State.fn, s.markReset_fns]
  exact s.fn_setFn f _

theorem State.fn_markReset_ne (s : State) (f : Nat) {g : Nat} (other : g ≠ f) : (s.markReset f).fn g = s.fn g := by
  rw [State.fn, s.markReset_fns]
  exact s.fn_setFn_ne f g _ other

theorem State.resetStep_endSteps (s : State) (f : Nat) : ResetStep f (State.EndSteps false false (s.markReset f)) where
  endCommand u r known := by
    obtain ⟨_, _, _, _, page⟩ := known.pagesKept f
    exact known.trans (State.endSteps_endCommand (.inl (by rw [page, s.fn_markReset])) _)
  unstage u c known := known.trans (u.endSteps_unstage c)
  dropTaker u r known := known.trans (u.endSteps_dropTaker _)
  breakTag u p t known := known.trans (u.endSteps_breakTag p t .broken (by decide) _)
  freeEntry u p e known := known.trans (u.endSteps_freeEntry p e)
  setPart u p l known := known.tail (.apart rfl (u.beside_prevList p l))
  hopper u h i known := known.trans (u.endSteps_closeHopper h i)
  race u h i known := known.trans (u.endSteps_closeRace h i)

/-- The page set of a function after its reset (R336, R359). -/
def Func.afterReset (x : Func) (keepMemwin : Bool) : Func :=
  { resetting := true, memwin := if keepMemwin then x.memwin else 0, maxPayload := x.maxPayload, aer := x.aer }

theorem State.resetFunction_steps (s : State) (f : Nat) (keepMemwin : Bool) : ∃ u, State.EndSteps false false (s.markReset f) u ∧
    s.resetFunction f keepMemwin = u.setFn f ((s.fn f).afterReset keepMemwin) := by
  obtain ⟨u, reset, cleared⟩ := s.resetFunction_eq f keepMemwin
  have steps := cleared _ (s.resetStep_endSteps f) .refl
  obtain ⟨_, _, _, _, page⟩ := steps.pagesKept f
  rw [s.fn_markReset] at page
  exact ⟨u, steps, by rw [reset, page]; rfl⟩

theorem State.fn_resetFunction (s : State) (f : Nat) (keepMemwin : Bool) :
    (s.resetFunction f keepMemwin).fn f = (s.fn f).afterReset keepMemwin := by
  obtain ⟨u, -, reset⟩ := s.resetFunction_steps f keepMemwin
  rw [reset, State.fn_setFn]

/-- A page set in reset whose rings run nothing stands as it is. -/
def State.Held (s : State) (f : Nat) : Prop := (s.fn f).resetting = true ∧ ∀ r, s.running f r = none

theorem State.Held.of_fn {s t : State} {f : Nat} (held : s.Held f) (same : t.fn f = s.fn f) : t.Held f :=
  ⟨by rw [same]; exact held.1, fun r => by rw [State.running, State.sq, same]; exact held.2 r⟩

theorem State.Held.modRunning {s : State} {f : Nat} (held : s.Held f) (g q : Nat) (m : Running → Running) :
    (s.modRunning g q m).fn f = s.fn f := by
  by_cases same : f = g
  · subst same
    simp only [State.modRunning, held.2 q]
  · unfold State.modRunning
    split
    · exact s.fn_setFn_ne g f _ same
    · rfl

theorem State.Held.step {fair kept : Bool} {s t : State} {f : Nat} (held : s.Held f) (step : State.EndStep fair kept s t) : t.fn f = s.fn f := by
  cases step with
  | ends g q st res => exact State.Held.modRunning (s := s.ended) held g q _
  | weir id shared => exact s.fn_evalWeir_of_shared id shared f fun pf => pf ▸ held.1
  | apart pages => rw [State.fn, pages]; rfl
  | breaks g q => exact held.modRunning g q _
  | flags g q fl => exact held.modRunning g q _

theorem State.Held.steps {fair kept : Bool} {s t : State} {f : Nat} (held : s.Held f) (steps : State.EndSteps fair kept s t) :
    t.fn f = s.fn f := by
  induction steps with
  | refl => rfl
  | tail _ step ih => exact (State.Held.step (held.of_fn ih) step).trans ih

theorem State.Held.resetFunction {s : State} {f g : Nat} (held : s.Held f) (other : f ≠ g) (keepMemwin : Bool) :
    (s.resetFunction g keepMemwin).fn f = s.fn f := by
  obtain ⟨u, steps, reset⟩ := s.resetFunction_steps g keepMemwin
  have marked := s.fn_markReset_ne g other
  rw [reset, State.fn_setFn_ne u g f _ other, State.Held.steps (held.of_fn marked) steps, marked]

theorem State.held_resetFunction (s : State) (f : Nat) (keepMemwin : Bool) : (s.resetFunction f keepMemwin).Held f :=
  ⟨by rw [s.fn_resetFunction]; rfl, fun r => by rw [State.running, State.sq, s.fn_resetFunction]; rfl⟩

/-! ## What a reset leaves of the module -/

theorem State.binds_of_steady {s t : State} (same : t.steady = s.steady) : t.binds = s.binds := congrArg Steady.binds same

/-- A reset of a function sets its KILL, and leaves the other bindings (R252). -/
theorem State.bind_resetFunction (s : State) (f : Nat) (keepMemwin : Bool) :
    (s.resetFunction f keepMemwin).bind f = { s.bind f with kill := true } ∧
    ∀ g, g ≠ f → (s.resetFunction f keepMemwin).bind g = s.bind g := by
  have binds := State.binds_of_steady ((s.resetFunction_keeps_killed f keepMemwin).steady rfl)
  exact ⟨by rw [State.bind, binds]; exact s.bind_setBind f _, fun g other => by rw [State.bind, binds]; exact s.bind_setBind_ne f g _ other⟩

/-- The registers of the port that a reset of a function leaves, besides the lock. -/
structure State.SamePort (s t : State) : Prop where
  vfEnable : t.vfEnable = s.vfEnable
  numVfs   : t.numVfs = s.numVfs
  cfgReady : t.cfgReady = s.cfgReady
  locked   : t.locked = s.locked

theorem State.SamePort.trans {s t u : State} (first : s.SamePort t) (next : t.SamePort u) : s.SamePort u :=
  ⟨next.vfEnable.trans first.vfEnable, next.numVfs.trans first.numVfs, next.cfgReady.trans first.cfgReady, next.locked.trans first.locked⟩

theorem State.samePort_of_steady {s t : State} (same : t.steady = s.steady) : s.SamePort t :=
  ⟨congrArg Steady.vfEnable same, congrArg Steady.numVfs same, congrArg Steady.cfgReady same, congrArg Steady.locked same⟩

theorem State.samePort_resetFunction (s : State) (f : Nat) (keepMemwin : Bool) : s.SamePort (s.resetFunction f keepMemwin) := by
  have killed : s.SamePort (s.setBind f { s.bind f with kill := true }) := ⟨rfl, rfl, rfl, rfl⟩
  exact killed.trans (State.samePort_of_steady ((s.resetFunction_keeps_killed f keepMemwin).steady rfl))

/-- What the resets of every VF leave. -/
structure State.VfsReset (s t : State) : Prop where
  port : s.SamePort t
  kill : ∀ g, { t.bind g with kill := (s.bind g).kill } = s.bind g
  pf   : s.Held 0 → t.fn 0 = s.fn 0
  root : t.bind 0 = s.bind 0

theorem State.vfsReset_resetVfs (s : State) (keep : Bool) : s.VfsReset (s.resetVfs keep) := by
  unfold State.resetVfs
  refine List.foldlRecOn (motive := s.VfsReset) _ _ ⟨⟨rfl, rfl, rfl, rfl⟩, fun _ => rfl, fun _ => rfl, rfl⟩ fun u known f mem => ?_
  have vf : f ≠ 0 := by simpa using (List.mem_filter.1 mem).2
  obtain ⟨own, others⟩ := u.bind_resetFunction f keep
  refine ⟨known.port.trans (u.samePort_resetFunction f keep), fun g => ?_, fun held => ?_, (others 0 vf.symm).trans known.root⟩
  · by_cases here : g = f
    · rw [here, own]
      exact known.kill f
    · rw [others g here]
      exact known.kill g
  · have same := known.pf held
    exact ((held.of_fn same).resetFunction vf.symm keep).trans same

/-- The state between the failure of a link and the reset of PF0's VFs (R360). -/
theorem State.linkFail_port (s : State) (p : Nat) (reason : BitVec 8) : ∃ l, s.linkFail p reason = { s with leat := l } := by
  unfold State.linkFail
  split
  · exact ⟨s.leat, rfl⟩
  · exact ⟨_, rfl⟩

/-- A reset of PF0 (R360): its page set, VF Enable, the bindings. -/
structure State.PfReset (s t : State) : Prop where
  vfEnable : t.vfEnable = false
  numVfs   : t.numVfs = s.numVfs
  cfgReady : t.cfgReady = s.cfgReady
  locked   : t.locked = s.locked
  page     : t.fn 0 = (s.fn 0).afterReset false
  kill     : (t.bind 0).kill = true
  binds    : ∀ g, { t.bind g with kill := (s.bind g).kill } = s.bind g

/-- After the function reset itself: VF Enable clears, and every VF is reset. -/
theorem State.PfReset.of_resetFunction (s : State) (reset : State) (port : s.SamePort reset)
    (page : reset.fn 0 = (s.fn 0).afterReset false) (own : reset.bind 0 = { s.bind 0 with kill := true })
    (others : ∀ g, g ≠ 0 → reset.bind g = s.bind g) : s.PfReset (State.resetVfs { reset with vfEnable := false } false) := by
  have held : State.Held { reset with vfEnable := false } 0 :=
    ⟨congrArg Func.resetting page, fun r => by
      show (Table.get {} (reset.fn 0).sqs r).running = none
      rw [page]
      rfl⟩
  have vfs := State.vfsReset_resetVfs { reset with vfEnable := false } false
  generalize State.resetVfs { reset with vfEnable := false } false = t at vfs
  refine ⟨vfs.port.vfEnable, vfs.port.numVfs.trans port.numVfs, vfs.port.cfgReady.trans port.cfgReady, vfs.port.locked.trans port.locked,
    (vfs.pf held).trans page, ?_, fun g => ?_⟩
  · rw [vfs.root]
    exact congrArg Binding.kill own
  · have kept : { t.bind g with kill := (reset.bind g).kill } = reset.bind g := vfs.kill g
    by_cases pf : g = 0
    · rw [pf, own] at kept
      rw [pf]
      exact congrArg (fun b : Binding => { b with kill := (s.bind 0).kill }) kept
    · rw [others g pf] at kept
      exact kept

theorem State.pfReset_resetPf (s : State) : s.PfReset s.resetPf := by
  obtain ⟨l, failed⟩ := s.linkFail_port 0 reasonLocal
  have start : s.resetPf = State.resetVfs { (s.linkFail 0 reasonLocal).resetFunction 0 false with vfEnable := false } false := rfl
  rw [start, failed]
  have bindings := State.bind_resetFunction { s with leat := l } 0 false
  have port := State.samePort_resetFunction { s with leat := l } 0 false
  have page := State.fn_resetFunction { s with leat := l } 0 false
  generalize State.resetFunction { s with leat := l } 0 false = reset at bindings port page
  exact State.PfReset.of_resetFunction s reset ⟨port.vfEnable, port.numVfs, port.cfgReady, port.locked⟩ page bindings.1 bindings.2

/-- The values of a table of page sets, changed alike. -/
theorem Table.get_map {α : Type} (d : α) (g : α → α) (still : g d = d) (t : Table α) (k : Nat) :
    Table.get d (t.map (fun c => (c.1, g c.2))) k = g (Table.get d t k) := by
  unfold Table.get
  induction t with
  | nil => exact still.symm
  | cons c t ih =>
    by_cases here : c.1 = k
    · simp [here]
    · simpa [List.find?_cons, here] using ih

/-- The port's own registers at their reset values, those that outlast a function-level reset among them (R440). -/
def State.portClosed (u : State) : State :=
  { u with
    cfgReady := false, numVfs := 0, pcieRate := 0, pcieX16 := false,
    fns := u.fns.map (fun c => (c.1, { c.2 with maxPayload := ({} : Func).maxPayload, aer := 0 })) }

theorem State.fn_portClosed (u : State) (f : Nat) :
    u.portClosed.fn f = { u.fn f with maxPayload := ({} : Func).maxPayload, aer := 0 } :=
  Table.get_map ({} : Func) (fun x => { x with maxPayload := ({} : Func).maxPayload, aer := 0 }) rfl u.fns f

/-- A reset of the port (R440). -/
theorem State.portReset_fields (s : State) : s.portReset.cfgReady = false ∧ s.portReset.vfEnable = false ∧ s.portReset.numVfs = 0 ∧
    s.portReset.fn 0 = { resetting := true } ∧ s.portReset.locked = s.locked := by
  have closed : s.portReset = s.resetPf.portClosed := rfl
  have reset := s.pfReset_resetPf
  rw [closed]
  generalize s.resetPf = u at reset
  refine ⟨rfl, reset.vfEnable, rfl, ?_, reset.locked⟩
  rw [u.fn_portClosed, reset.page]
  rfl

/-- Settles O18, reset by reset. -/
theorem portAndFunctionResets : Obligations.PortAndFunctionResets := by
  intro s f n fresh
  have own := s.fn_resetFunction f false
  obtain ⟨bind, binds⟩ := s.bind_resetFunction f false
  have port := s.samePort_resetFunction f false
  have pf := s.pfReset_resetPf
  refine ⟨fun on high => ?perst, fun off => congrArg Host.Outcome.next (if_neg (by rw [off]; decide)), fun ready =>
    ⟨?linkDown, fun vf => ?flr, ?pfFlr, ?pfSame, congrArg Host.Outcome.next (if_pos ready), fun off => ?vfOn, fun on => ?vfOff⟩,
    fun resetting => congrArg Host.Outcome.next (if_pos resetting), fun asleep => ?d0⟩
  case perst =>
    have effect : exec .perstAssert s = .next (State.settle { s.portReset with perst := false }) := by
      show Host.Outcome.next (if s.resetIn then (if s.perst then { s.portReset with perst := false } else s).settle else _) = _
      rw [if_pos on, if_pos high]
    have fields := s.portReset_fields
    generalize s.portReset = u at effect fields
    exact ⟨{ u with perst := false }, effect, rfl, fields⟩
  case linkDown =>
    obtain ⟨closed, vfEnable, numVfs, page, locked⟩ := s.portReset_fields
    exact ⟨s.portReset, congrArg Host.Outcome.next (if_pos ready), closed, vfEnable, numVfs, locked⟩
  case flr =>
    refine ⟨s.resetFunction f false, ?_, own, port.vfEnable, bind, binds⟩
    show Host.Outcome.next (if !s.cfgReady then s else if f = 0 then _ else _) = _
    rw [if_neg (by rw [ready]; decide), if_neg vf]
  case pfFlr =>
    refine ⟨s.resetPf, congrArg Host.Outcome.next (if_pos ready), pf.vfEnable, pf.cfgReady.trans ready, ?_, ?_, pf.kill, pf.binds⟩
    · rw [pf.page]; rfl
    · rw [pf.page]; rfl
  case pfSame =>
    show Host.Outcome.next (if !s.cfgReady then s else if (0 : FnId) = 0 then _ else _) = Host.Outcome.next (if s.cfgReady then _ else _)
    rw [if_neg (by rw [ready]; decide), if_pos rfl, if_pos ready]
  case vfOn =>
    show Host.Outcome.next (if !s.cfgReady then s else if s.vfEnable then _ else _) = _
    rw [if_neg (by rw [ready]; decide), if_neg (by rw [off]; decide)]
  case vfOff =>
    have vfs := State.vfsReset_resetVfs { s with vfEnable := false } false
    refine ⟨State.resetVfs { s with vfEnable := false } false, ?_, vfs.port.vfEnable, vfs.port.numVfs⟩
    show Host.Outcome.next (if !s.cfgReady then s else if s.vfEnable then (if false = true then s else _) else _) = _
    rw [if_neg (by rw [ready]; decide), if_pos on, if_neg (by decide)]
  case d0 => exact ⟨s.resetFunction f false, congrArg Host.Outcome.next (if_pos asleep), own, bind, binds⟩

end Sys2Proof.Machine
end

section
/-! PROOFS. What a memory engine leaves (R158 to R171, R337, R388 to R394): reads, writes and walks change memories, stored errors,
counts of events and the log, and of a function its AER status, pending bits and notice causes. -/
namespace Sys2Proof.Machine

/-! ## The frame -/

/-- A state without what memory engines change. -/
def State.offMemory (s : State) : State :=
  { s with mem := [], hostMem := [], ecc := [], dirty := [], freeCount := 0, clockNs := 0, units := [],
           flash := { s.flash with kept := {} }, logQueue := [], logLost := 0, hostReqs := [], fns := [], msgs := [], houses := [] }

/-- `t` is `s` but for what memory engines change; `kept`: both memories stay. -/
structure State.ByMemory (kept : Bool) (s t : State) : Prop where
  memories : kept = true → t.mem = s.mem ∧ t.hostMem = s.hostMem
  rest  : t.offMemory = s.offMemory
  fn    : ∀ f, ∃ aer pending cause, t.fn f = { s.fn f with aer := aer, pending := pending, cause := cause }
  house : ∀ h, ∃ w, t.house h = { s.house h with pondWeir := w }

theorem State.ByMemory.refl {kept : Bool} (s : State) : State.ByMemory kept s s := ⟨fun _ => ⟨rfl, rfl⟩, rfl, fun _ => ⟨_, _, _, rfl⟩, fun _ => ⟨_, rfl⟩⟩

theorem State.ByMemory.trans {kept : Bool} {s t u : State} (first : State.ByMemory kept s t) (next : State.ByMemory kept t u) : State.ByMemory kept s u where
  memories on := ⟨(next.memories on).1.trans (first.memories on).1, (next.memories on).2.trans (first.memories on).2⟩
  rest := next.rest.trans first.rest
  fn f := by
    obtain ⟨a, p, c, here⟩ := first.fn f
    obtain ⟨a', p', c', there⟩ := next.fn f
    exact ⟨a', p', c', by rw [there, here]⟩
  house h := by
    obtain ⟨w, here⟩ := first.house h
    obtain ⟨w', there⟩ := next.house h
    exact ⟨w', by rw [there, here]⟩

/-- A change outside memories, page sets and houses. -/
theorem State.ByMemory.of_rest {kept : Bool} {s t : State} (rest : t.offMemory = s.offMemory) (mem : t.mem = s.mem)
    (host : t.hostMem = s.hostMem) (fns : t.fns = s.fns) (houses : t.houses = s.houses) : State.ByMemory kept s t :=
  ⟨fun _ => ⟨mem, host⟩, rest, fun f => ⟨_, _, _, by rw [State.fn, fns]; rfl⟩, fun h => ⟨_, by rw [State.house, houses]; rfl⟩⟩

section
variable {kept : Bool} {s t : State} (by_ : State.ByMemory kept s t)
include by_

theorem State.ByMemory.sq (f r : Nat) : t.sq f r = s.sq f r := by
  obtain ⟨a, p, c, fn⟩ := by_.fn f
  rw [State.sq, State.sq, fn]

theorem State.ByMemory.cq (f r : Nat) : t.cq f r = s.cq f r := by
  obtain ⟨a, p, c, fn⟩ := by_.fn f
  rw [State.cq, State.cq, fn]

theorem State.ByMemory.running (f r : Nat) : t.running f r = s.running f r := by rw [State.running, State.running, by_.sq]

theorem State.ByMemory.resetting (f : Nat) : (t.fn f).resetting = (s.fn f).resetting := by
  obtain ⟨a, p, c, fn⟩ := by_.fn f
  rw [fn]

theorem State.ByMemory.parts : t.parts = s.parts := (congrArg State.parts by_.rest :)
theorem State.ByMemory.stones : t.stones = s.stones := (congrArg State.stones by_.rest :)
theorem State.ByMemory.epochs : t.epochs = s.epochs := (congrArg State.epochs by_.rest :)
theorem State.ByMemory.ends : t.ends = s.ends := (congrArg State.ends by_.rest :)

end

/-- What notices change. -/
theorem State.Noticed.byMemory {kept : Bool} {s t : State} (noticed : s.Noticed t) : State.ByMemory kept s t := by
  obtain ⟨fns, msgs, rest⟩ := noticed.rest
  refine ⟨fun _ => by rw [rest]; exact ⟨rfl, rfl⟩, by rw [rest]; rfl, fun f => ?_, fun h => ⟨_, by rw [rest]; rfl⟩⟩
  obtain ⟨pending, cause, fn⟩ := noticed.fn f
  exact ⟨_, pending, cause, fn⟩

/-- What the log changes. -/
theorem State.LogOnly.byMemory {kept : Bool} {s t : State} (logged : s.LogOnly t) : State.ByMemory kept s t := by
  obtain ⟨free, clock, lost, queue, rfl⟩ := logged
  exact .of_rest rfl rfl rfl rfl rfl

/-! ## Events and stored errors (R388 to R394) -/

section
variable {kept : Bool} (s : State)

theorem State.byMemory_keep : State.ByMemory kept s s.keep := .of_rest rfl rfl rfl rfl rfl

theorem State.byMemory_declare (cls i : Nat) : State.ByMemory kept s (s.declare cls i) := by
  have marked : State.ByMemory kept s (s.setUnit cls i { s.unit cls i with lasting := true, due := true, rows := [] }) := .of_rest rfl rfl rfl rfl rfl
  exact (marked.trans (State.byMemory_keep _)).trans (State.logOnly_log _ _).byMemory

theorem State.byMemory_event (cls i : Nat) (k : Event) (addr : Nat) (rec : FaultRec) : State.ByMemory kept s (s.event cls i k addr rec) := by
  have counted (v : UnitCount) : State.ByMemory kept s (s.now.2.setUnit cls i v) := .of_rest rfl rfl rfl rfl rfl
  have logged {t : State} (known : State.ByMemory kept s t) (c : Prop) [Decidable c] (r : LogRec) : State.ByMemory kept s (if c then t.tick.log r else t) := by
    split
    · exact (known.trans (.of_rest (t := t.tick) rfl rfl rfl rfl rfl)).trans (State.logOnly_log _ r).byMemory
    · exact known
  have declared {t : State} (known : State.ByMemory kept s t) (c : Prop) [Decidable c] : State.ByMemory kept s (if c then t.declare cls i else t) := by
    split
    · exact known.trans (t.byMemory_declare cls i)
    · exact known
  exact declared (logged (counted _) _ _) _

theorem State.byMemory_meetEcc (rec : FaultRec) (l : List Nat) : State.ByMemory kept s (meetEcc rec l s).2 := by
  induction l generalizing s with
  | nil => exact .refl s
  | cons g gs ih =>
    unfold meetEcc
    refine .trans ?_ (ih _)
    have errors (e : Table EccState) : State.ByMemory kept s { s with ecc := e } := .of_rest rfl rfl rfl rfl rfl
    split
    · exact (errors _).trans (State.byMemory_event _ _ _ _ _ _)
    · refine .trans ?_ (State.byMemory_event _ _ _ _ _ _)
      split <;> exact errors _
    · exact .refl s

theorem State.byMemory_devRead (rec : FaultRec) (pa n : Nat) : State.ByMemory kept s (s.devRead rec pa n).2.2 := by
  unfold State.devRead
  dsimp only
  split
  · exact s.byMemory_meetEcc rec _
  · exact (s.byMemory_meetEcc rec _).trans (.of_rest rfl rfl rfl rfl rfl)

/-! ## The Pond cache (R171) -/

theorem State.byMemory_evalWeir_pondCache (h : House) : State.ByMemory kept s (s.evalWeir (.pondCache h)) := by
  have marked (w : Weir) : State.ByMemory kept s (s.setWeir (.pondCache h) w) := by
    refine ⟨fun _ => ⟨rfl, rfl⟩, rfl, fun f => ⟨_, _, _, rfl⟩, fun k => ?_⟩
    by_cases here : k = h
    · exact ⟨w, by rw [here]; exact s.house_setHouse h _⟩
    · exact ⟨_, s.house_setHouse_ne h k _ here⟩
  rw [State.evalWeir_of_level (show s.level (.pondCache h) = some _ from rfl)]
  split
  · exact (marked _).trans (State.noticed_notice _ _ _).byMemory
  · exact marked _

theorem State.byMemory_writeBack (ls : List Nat) : State.ByMemory kept s (s.writeBack ls) :=
  (s.byMemory_meetEcc {} _).trans (.of_rest rfl rfl rfl rfl rfl)

theorem State.byMemory_tick_dirty (l : List Nat) : State.ByMemory kept s { s.tick with dirty := l } := .of_rest rfl rfl rfl rfl rfl

theorem State.byMemory_dirtyLine (h l : Nat) : State.ByMemory kept s (s.dirtyLine h l) := by
  unfold State.dirtyLine
  extract_lets mine stay excess keeps written listed
  have back : State.ByMemory kept s listed := (s.byMemory_writeBack _).trans (State.byMemory_tick_dirty _ _)
  split
  · exact back
  · exact back.trans (listed.byMemory_evalWeir_pondCache _)

theorem State.byMemory_pondWrite (noCache : Bool) (pa n : Nat) : State.ByMemory kept s (s.pondWrite noCache pa n) := by
  unfold State.pondWrite
  split
  · exact .refl s
  refine List.foldlRecOn (motive := State.ByMemory kept s) _ _ (.refl s) fun u known l _ => ?_
  split
  · split
    · exact known
    · exact known.trans (u.byMemory_dirtyLine _ l)
  · exact known

/-- A change of the memories. -/
theorem State.ByMemory.of_memories {s t : State} (rest : t.offMemory = s.offMemory) (fns : t.fns = s.fns) (houses : t.houses = s.houses) :
    State.ByMemory false s t :=
  ⟨fun kept => Bool.noConfusion kept, rest, fun f => ⟨_, _, _, by rw [State.fn, fns]; rfl⟩, fun h => ⟨_, by rw [State.house, houses]; rfl⟩⟩

theorem State.byMemory_devWrite (pa : Nat) (bs : List Byte) : State.ByMemory false s (s.devWrite pa bs) := .of_memories rfl rfl rfl

theorem State.byMemory_devStore (noCache : Bool) (pa : Nat) (bs : List Byte) : State.ByMemory false s (s.devStore noCache pa bs) :=
  .trans (s.byMemory_devWrite pa bs) (State.byMemory_pondWrite _ noCache pa bs.length)

end

/-! ## Engine work -/

/-- The work of an engine that changes no more. -/
def Run.ByMemory {α : Type} (kept : Bool) (m : Run α) : Prop := ∀ e : Eng, State.ByMemory kept e.s (m.run.run e).2.s

section
variable {kept : Bool} {α β : Type}

theorem Run.byMemory_pure (x : α) : Run.ByMemory kept (pure x : Run α) := fun e => .refl e.s
theorem Run.byMemory_throw (x : Stop) : Run.ByMemory kept (throw x : Run α) := fun e => .refl e.s
theorem Run.byMemory_halt (st : Status) : Run.ByMemory kept (halt st : Run α) := fun e => .refl e.s
theorem Run.byMemory_getS : Run.ByMemory kept getS := fun e => .refl e.s
theorem Run.byMemory_get : Run.ByMemory kept (get : Run Eng) := fun e => .refl e.s
theorem Run.byMemory_modS {g : State → State} (each : ∀ u, State.ByMemory kept u (g u)) : Run.ByMemory kept (modS g) := fun e => each e.s
theorem Run.byMemory_modify {g : Eng → Eng} (each : ∀ e : Eng, State.ByMemory kept e.s (g e).s) : Run.ByMemory kept (modify g : Run Unit) := each

/-- Work in sequence: the second part where the first answers. -/
theorem Run.bind_run_state (m : Run α) (k : α → Run β) (e : Eng) : ((m >>= k).run.run e).2.s =
    match m.run.run e with
    | (.ok x, e') => ((k x).run.run e').2.s
    | (.error _, e') => e'.s := by
  change ((ExceptT.bindCont k (m.run.run e).1 : StateM Eng _).run (m.run.run e).2).2.s = _
  generalize m.run.run e = first
  obtain ⟨x | x, e'⟩ := first <;> rfl

theorem Run.byMemory_bind {m : Run α} {k : α → Run β} (first : Run.ByMemory kept m) (rest : ∀ x, Run.ByMemory kept (k x)) : Run.ByMemory kept (m >>= k) := fun e => by
  have here := first e
  rw [Run.bind_run_state]
  generalize m.run.run e = answer at here
  obtain ⟨x | x, e'⟩ := answer
  · exact here
  · exact here.trans (rest x e')

theorem Run.byMemory_ite {c : Prop} [Decidable c] {x y : Run α} (yes : Run.ByMemory kept x) (no : Run.ByMemory kept y) : Run.ByMemory kept (if c then x else y) := by
  split
  · exact yes
  · exact no

/-- A check that stops the work, or lets it go on. -/
theorem Run.byMemory_check {c : Prop} [Decidable c] (x : Stop) {k : PUnit → Run α} (rest : Run.ByMemory kept (k ⟨⟩)) :
    Run.ByMemory kept (if c then (throw x : Run PUnit) >>= k else k ⟨⟩) := by
  split
  · exact fun e => .refl e.s
  · exact rest

theorem Run.byMemory_forM {f : α → Run PUnit} (each : ∀ x, Run.ByMemory kept (f x)) (l : List α) : Run.ByMemory kept (l.forM f) := by
  induction l with
  | nil => exact Run.byMemory_pure _
  | cons x l ih => exact Run.byMemory_bind (each x) fun _ => ih

theorem Run.byMemory_mapM {f : α → Run β} (each : ∀ x, Run.ByMemory kept (f x)) (l : List α) : Run.ByMemory kept (l.mapM f) := by
  induction l with
  | nil => exact Run.byMemory_pure _
  | cons x l ih =>
    rw [List.mapM_cons]
    exact Run.byMemory_bind (each x) fun _ => Run.byMemory_bind ih fun _ => Run.byMemory_pure _

/-- Work whose stop is caught. -/
theorem Run.tryCatch_run_state (m : Run α) (k : Stop → Run α) (e : Eng) : ((tryCatch m k).run.run e).2.s =
    match m.run.run e with
    | (.ok _, e') => e'.s
    | (.error x, e') => ((k x).run.run e').2.s := by
  simp only [tryCatch, tryCatchThe, MonadExceptOf.tryCatch, ExceptT.tryCatch, ExceptT.run_mk]
  rw [StateT.run_bind]
  have here : StateT.run m e = m.run.run e := rfl
  rw [here]
  generalize m.run.run e = answer
  obtain ⟨x | x, e'⟩ := answer <;> rfl

theorem Run.byMemory_tryCatch {m : Run α} {k : Stop → Run α} (first : Run.ByMemory kept m) (rest : ∀ x, Run.ByMemory kept (k x)) :
    Run.ByMemory kept (tryCatch m k) := fun e => by
  have here := first e
  rw [Run.tryCatch_run_state]
  generalize m.run.run e = answer at here
  obtain ⟨x | x, e'⟩ := answer
  · exact here.trans (rest x e')
  · exact here

theorem Run.ByMemory.exec {m : Run α} (work : Run.ByMemory kept m) (s : State) (fl : Flags := {}) : State.ByMemory kept s (m.exec s fl).2.s :=
  (work { s := s, flags := fl }).trans (.of_rest rfl rfl rfl rfl rfl)

end

/-! ## Virtual accesses (R158 to R160, R337) -/

section
variable {kept : Bool}

theorem meetBuf_byMemory (kind h : Nat) : Run.ByMemory kept (meetBuf kind h) := fun e => e.s.byMemory_meetEcc {} _

theorem mmuBuf_byMemory (a : Acc) : Run.ByMemory kept (mmuBuf a) := by
  unfold mmuBuf
  refine Run.byMemory_bind Run.byMemory_get fun before => Run.byMemory_bind (Run.byMemory_modify fun e => .refl e.s) fun _ =>
    Run.byMemory_bind Run.byMemory_getS fun s => Run.byMemory_bind (meetBuf_byMemory _ _) fun _ =>
    Run.byMemory_bind Run.byMemory_get fun after => Run.byMemory_bind (Run.byMemory_modify fun e => .refl e.s) fun _ => ?_
  exact Run.byMemory_ite (Run.byMemory_halt _) (Run.byMemory_pure _)

theorem readStruct_byMemory (a : Acc) (va pa n : Nat) : Run.ByMemory kept (readStruct a va pa n) := fun e => by
  have read : State.ByMemory kept e.s (e.s.devRead (a.fault 0 va) pa n).2.2 := e.s.byMemory_devRead (a.fault 0 va) pa n
  unfold readStruct
  rw [Run.bind_run_state]
  change State.ByMemory kept e.s ((modS (fun _ => (e.s.devRead (a.fault 0 va) pa n).2.2) >>= fun _ => _).run.run e).2.s
  generalize e.s.devRead (a.fault 0 va) pa n = r at read
  rw [Run.bind_run_state]
  refine read.trans ?_
  dsimp only [modS]
  exact Run.byMemory_check (α := List Byte) ⟨.deviceError, none⟩ (k := fun _ => pure r.1) (Run.byMemory_pure _) { e with s := r.2.2 }

theorem walk_leaf_byMemory (e : Word64) (bits : Nat) {bad : Run (Word64 × Nat)} (fails : Run.ByMemory kept bad) :
    Run.ByMemory kept (walk.leaf e bits bad) :=
  Run.byMemory_ite fails (Run.byMemory_ite fails (Run.byMemory_pure _))

theorem walk_byMemory (a : Acc) (va level table : Nat) : Run.ByMemory kept (walk a va level table) := by
  induction level generalizing table with
  | zero =>
    unfold walk
    refine Run.byMemory_bind Run.byMemory_getS fun s => Run.byMemory_check _ ?_
    refine Run.byMemory_bind (readStruct_byMemory _ _ _ _) fun bs => ?_
    exact Run.byMemory_ite (Run.byMemory_throw _) (walk_leaf_byMemory _ _ (Run.byMemory_throw _))
  | succ level ih =>
    unfold walk
    refine Run.byMemory_bind Run.byMemory_getS fun s => Run.byMemory_check _ ?_
    refine Run.byMemory_bind (readStruct_byMemory _ _ _ _) fun bs => Run.byMemory_ite (Run.byMemory_throw _) ?_
    refine Run.byMemory_ite (Run.byMemory_ite (Run.byMemory_throw _) (walk_leaf_byMemory _ _ (Run.byMemory_throw _))) ?_
    exact Run.byMemory_ite (Run.byMemory_throw _) (ih _)

theorem translate_byMemory (a : Acc) (write : Bool) (va : Nat) : Run.ByMemory kept (translate a write va) := by
  unfold translate
  refine Run.byMemory_bind (mmuBuf_byMemory a) fun _ => Run.byMemory_bind Run.byMemory_getS fun s => Run.byMemory_check _ ?_
  refine Run.byMemory_bind (walk_byMemory a va 3 _) fun x => Run.byMemory_bind Run.byMemory_getS fun t => Run.byMemory_check _ ?_
  refine Run.byMemory_ite ?host (Run.byMemory_ite ?remote ?device)
  case host => exact Run.byMemory_check _ (Run.byMemory_pure _)
  case remote => exact Run.byMemory_check _ (Run.byMemory_pure _)
  case device =>
    refine Run.byMemory_check _ ?_
    split
    · exact Run.byMemory_ite (Run.byMemory_pure _) (Run.byMemory_throw _)
    · exact Run.byMemory_pure _

theorem State.byMemory_setAer (s : State) (f bit : Nat) : State.ByMemory kept s (s.setAer f bit) := by
  refine ⟨fun _ => ⟨rfl, rfl⟩, rfl, fun g => ?_, fun h => ⟨_, rfl⟩⟩
  by_cases here : g = f
  · exact ⟨_, _, _, by rw [here]; exact s.fn_setFn f _⟩
  · exact ⟨_, _, _, s.fn_setFn_ne f g _ here⟩

theorem State.byMemory_hostIssue (s : State) (q : HostReq) : State.ByMemory kept s (s.hostIssue q) := .of_rest rfl rfl rfl rfl rfl

theorem hostRead_byMemory (a : Acc) (va ha n : Nat) : Run.ByMemory kept (hostRead a va ha n) := by
  unfold hostRead
  refine Run.byMemory_bind (Run.byMemory_modS fun u => u.byMemory_hostIssue _) fun _ => Run.byMemory_bind Run.byMemory_getS fun s => ?_
  split
  · exact Run.byMemory_throw _
  · exact Run.byMemory_throw _
  · exact Run.byMemory_bind (Run.byMemory_modS fun u => u.byMemory_setAer _ _) fun _ => Run.byMemory_throw _
  · exact Run.byMemory_bind (Run.byMemory_modS fun u => u.byMemory_setAer _ _) fun _ => Run.byMemory_throw _
  · exact Run.byMemory_pure _

theorem readPiece_byMemory (a : Acc) (x : Nat × Nat × Nat) : Run.ByMemory kept (readPiece a x) := by
  unfold readPiece
  refine Run.byMemory_bind (translate_byMemory a false x.1) fun t => ?_
  split
  next pa _ => exact fun e => e.s.byMemory_devRead (a.fault 0 x.1) pa x.2.2
  · exact hostRead_byMemory _ _ _ _
  · exact Run.byMemory_throw _

theorem readV_byMemory (a : Acc) (va n : Nat) : Run.ByMemory kept (readV a va n) :=
  Run.byMemory_bind (Run.byMemory_mapM (readPiece_byMemory a) _) fun _ => Run.byMemory_pure _

theorem readSV_byMemory (a : Acc) (va n : Nat) : Run.ByMemory kept (readSV a va n) := by
  unfold readSV
  refine Run.byMemory_bind Run.byMemory_get fun before => Run.byMemory_bind (Run.byMemory_modify fun e => .refl e.s) fun _ =>
    Run.byMemory_bind (readV_byMemory a va n) fun bs => Run.byMemory_bind Run.byMemory_get fun after =>
    Run.byMemory_bind (Run.byMemory_modify fun e => .refl e.s) fun _ => ?_
  exact Run.byMemory_check ⟨.deviceError, none⟩ (k := fun _ => pure bs) (Run.byMemory_pure _)

theorem readWords_byMemory (a : Acc) (va n : Nat) : Run.ByMemory kept (readWords a va n) :=
  Run.byMemory_bind (readSV_byMemory a va _) fun _ => Run.byMemory_pure _

theorem State.byMemory_hostWrite (s : State) (m : Memory) (q : HostReq) : State.ByMemory false s (({ s with hostMem := m } : State).hostIssue q) :=
  .of_memories rfl rfl rfl

theorem writeV_byMemory (a : Acc) (va : Nat) (bs : List Byte) (remote : Nat → Nat → List Byte → State → State)
    (apart : ∀ m pa d u, State.ByMemory false u (remote m pa d u)) : Run.ByMemory false (writeV a va bs remote) := by
  unfold writeV
  apply Run.byMemory_forM
  intro x
  refine Run.byMemory_bind (translate_byMemory a true x.1) fun t => ?_
  dsimp only
  split
  · exact Run.byMemory_modify fun e => e.s.byMemory_devStore _ _ _
  · exact Run.byMemory_modS fun u => u.byMemory_hostWrite _ _
  · exact Run.byMemory_modS fun u => apart _ _ _ u

theorem writeV_local_byMemory (a : Acc) (va : Nat) (bs : List Byte) : Run.ByMemory false (writeV a va bs) := by
  refine writeV_byMemory a va bs _ fun _ _ _ u => ?_
  exact State.ByMemory.refl u

end

end Sys2Proof.Machine
end

section
/-! PROOFS. The life of a partition and of its functions (R247 to R252): TENANT_KILL, COMMIT, zeroing and RELEASE. -/
namespace Sys2Proof.Machine

/-! ## TENANT_KILL (R250, R252) -/

theorem regAt_funcBind (f : FnId) : regAt (0x11000 + 4 * f.val) = some (.funcBind f.val, 32) := by
  fin_cases f <;> rfl

/-- A reset leaves the partitions but for work lists and marks. -/
theorem State.beside_resetFunction (s : State) (f : Nat) (keepMemwin : Bool) : State.Beside false s (s.resetFunction f keepMemwin) := by
  obtain ⟨u, steps, reset⟩ := s.resetFunction_steps f keepMemwin
  have marked : (s.markReset f).asides = s.asides := by
    unfold State.markReset
    split <;> rfl
  rw [reset]
  exact (State.Beside.of_asides marked).trans (steps.beside.trans (.of_asides rfl))

/-- A write of FUNC_BIND that changes no other field: the binding as it stands, then the reset where KILL rises. -/
theorem State.writeBind_of_same {s : State} {f v off : Nat} (vf : f ≠ 0) (valid : v.testBit 31 = (s.bind f).valid)
    (rights : v.testBit 30 = (s.bind f).overOk) (part : v / 2 ^ 28 % 4 = (s.bind f).part.toNat)
    (max : v / 2 ^ 12 % 4096 = (s.bind f).gristMax.toNat) (kill : v.testBit 0 = true) :
    s.writeBind off f v = if (s.bind f).kill = false then
        ((s.setBind f (s.bind f)).setBind f { s.bind f with kill := true }).resetFunction f true
      else s.setBind f (s.bind f) := by
  have partBits : BitVec.ofNat 2 (bitsOf v 29 28) = (s.bind f).part := by
    rw [bitsOf, show 2 ^ (29 + 1 - 28) = 4 from rfl, part, BitVec.ofNat_toNat, BitVec.setWidth_eq]
  have maxBits : BitVec.ofNat 12 (bitsOf v 23 12) = (s.bind f).gristMax := by
    rw [bitsOf, show v / 2 ^ 12 % 2 ^ (23 + 1 - 12) = v / 2 ^ 12 % 4096 from rfl, max, BitVec.ofNat_toNat, BitVec.setWidth_eq]
  unfold State.writeBind
  simp only [if_neg vf, valid, rights, partBits, maxBits, ne_eq, not_true_eq_false, false_and, if_false, kill, Bool.true_and,
    Bool.not_eq_true']

theorem State.identity_of_steady {s t : State} (same : t.steady = s.steady) :
    t.locked = s.locked ∧ t.shape = s.shape ∧ t.wrej = s.wrej :=
  ⟨congrArg Steady.locked same, congrArg Steady.shape same, congrArg Steady.wrej same⟩

theorem State.identity_resetFunction (s : State) (f : Nat) (keepMemwin : Bool) :
    (s.resetFunction f keepMemwin).locked = s.locked ∧ (s.resetFunction f keepMemwin).shape = s.shape ∧
    (s.resetFunction f keepMemwin).wrej = s.wrej :=
  State.identity_of_steady (s := s.setBind f { s.bind f with kill := true }) ((s.resetFunction_keeps_killed f keepMemwin).steady rfl)

/-- Settles O29, by `State.fn_resetFunction` and `State.bind_resetFunction`. -/
theorem tenantKillResetsTheFunction : Obligations.TenantKillResetsTheFunction := by
  intro s f v ready vf kill valid rights part max
  have named : f.val ≠ 0 := fun zero => vf (Fin.ext zero)
  have effect : exec (.tenantKill f v) s = .next (s.writeBind (0x11000 + 4 * f.val) f v.toNat).settle := by
    show Host.Outcome.next (State.settle (s.writeSetup _ 32 (v.setWidth 64))) = _
    rw [s.writeSetup_word ready (regAt_funcBind f), State.writeReg, toNat_setWidth_word]
  rw [State.writeBind_of_same named valid rights part max kill] at effect
  refine ⟨fun before => ?rises, fun before => ?set⟩
  case rises =>
    rw [if_pos before] at effect
    have own : ((s.setBind f (s.bind f)).setBind f { s.bind f with kill := true }).bind f = { s.bind f with kill := true } :=
      State.bind_setBind _ f _
    have others (g : Nat) (apart : g ≠ f.val) :
        ((s.setBind f (s.bind f)).setBind f { s.bind f with kill := true }).bind g = s.bind g := by
      rw [State.bind_setBind_ne _ _ _ _ apart, State.bind_setBind_ne _ _ _ _ apart]
    have fields : ((s.setBind f (s.bind f)).setBind f { s.bind f with kill := true }).fns = s.fns ∧
        ((s.setBind f (s.bind f)).setBind f { s.bind f with kill := true }).parts = s.parts ∧
        ((s.setBind f (s.bind f)).setBind f { s.bind f with kill := true }).locked = s.locked ∧
        ((s.setBind f (s.bind f)).setBind f { s.bind f with kill := true }).shape = s.shape ∧
        ((s.setBind f (s.bind f)).setBind f { s.bind f with kill := true }).wrej = s.wrej := ⟨rfl, rfl, rfl, rfl, rfl⟩
    generalize (s.setBind f (s.bind f)).setBind f { s.bind f with kill := true } = t at effect own others fields
    obtain ⟨fns, parts, locked, shape, wrej⟩ := fields
    obtain ⟨bind, binds⟩ := t.bind_resetFunction f true
    obtain ⟨locked', shape', wrej'⟩ := t.identity_resetFunction f true
    refine ⟨t.resetFunction f true, effect, ?_, ?_, fun g apart => (binds g apart).trans (others g apart), fun p => ?_, ?_, ?_, ?_⟩
    · rw [t.fn_resetFunction, State.fn, fns]
      rfl
    · rw [bind, own]
    · obtain ⟨prev, pool, grist, kept⟩ := (t.beside_resetFunction f true).part p
      rw [kept, State.part, parts]
      rfl
    · exact locked'.trans locked
    · exact shape'.trans shape
    · exact wrej'.trans wrej
  case set =>
    rw [if_neg (by rw [before]; decide)] at effect
    exact ⟨s.setBind f (s.bind f), effect, rfl, s.bind_setBind f _, rfl⟩

/-! ## PARTITION_COMMIT (R248) -/

theorem regAt_partCtrl (p : PartId) : regAt (0x10100 + 64 * p.val) = some (.partCtrl p.val, 32) := by
  fin_cases p <;> rfl

/-- The values of a table that is filtered: those of the table, or the default. -/
theorem Table.get_mem {α : Type} (d : α) (t : Table α) (k : Nat) : Table.get d t k = d ∨ (k, Table.get d t k) ∈ t := by
  unfold Table.get
  cases found : t.find? (fun c => c.1 == k) with
  | none => exact .inl rfl
  | some c =>
    have key : c.1 = k := by simpa using List.find?_some found
    exact .inr (key ▸ List.mem_of_find?_eq_some found)

/-- After a COMMIT no function bound to the partition has a valid root (R470). -/
theorem rootValid_dropRoots (p : Nat) (l : Table Binding) (f : Nat) :
    (Table.get {} (dropRoots p l) f).part.toNat = p → (Table.get {} (dropRoots p l) f).rootValid = false := by
  intro bound
  rcases Table.get_mem {} (dropRoots p l) f with default | listed
  · rw [default]
  · obtain ⟨c, -, same⟩ := List.mem_map.1 (List.mem_of_mem_filter listed)
    have value := congrArg Prod.snd same
    dsimp only at value
    rw [← value] at bound ⊢
    split at bound
    next here => rw [if_pos here]
    next apart => exact absurd bound apart

/-- What the fill and the repair of houses leave (R394, R403). -/
def State.lands (s : State) : Memory × Table Partition × Table Binding := (s.mem, s.parts, s.binds)

theorem foldl_same {α β : Type} {g : State → α → State} {look : State → β} (each : ∀ u a, look (g u a) = look u) (l : List α) (s : State) :
    look (l.foldl g s) = look s :=
  List.foldlRecOn (motive := fun u => look u = look s) l g rfl fun u known a _ => (each u a).trans known

theorem State.lands_fillHouse (s : State) (h : Nat) : (s.fillHouse h).lands = s.lands := by
  unfold State.fillHouse
  extract_lets filled
  have fill : filled.lands = s.lands := foldl_same (fun u l => by
    split
    · rfl
    · split <;> rfl) _ s
  clear_value filled
  split
  · exact fill
  · split <;> exact fill

theorem State.lands_repairHouse (s : State) (h : Nat) : (s.repairHouse h).lands = s.lands := by
  unfold State.repairHouse
  extract_lets lasting repaired
  have repair : repaired.lands = s.lands := foldl_same (fun u c => by
    dsimp only
    split <;> rfl) _ s
  refine (foldl_same (look := State.lands) (fun u c => ?_) lasting repaired).trans repair
  dsimp only
  split <;> rfl

/-- A COMMIT: the partition is zeroed next, the roots of its functions are no longer valid, nothing else of partitions changes. -/
theorem State.commit_fields (s : State) (p : Nat) : (s.commit p).part p = { s.part p with state := .zeroing, memReady := false } ∧
    (∀ q, q ≠ p → (s.commit p).part q = s.part q) ∧ (s.commit p).mem = s.mem ∧ (s.commit p).binds = dropRoots p s.binds := by
  unfold State.commit
  extract_lets hs settled filled dropped
  have settle : settled.lands = s.lands := foldl_same (look := State.lands) (fun u h => by rfl) hs s
  have fill : filled.lands = settled.lands := foldl_same (look := State.lands)
    (fun u h => (State.lands_repairHouse _ h).trans (u.lands_fillHouse h)) hs settled
  obtain ⟨mem, parts, binds⟩ : filled.mem = s.mem ∧ filled.parts = s.parts ∧ filled.binds = s.binds := by
    have both := fill.trans settle
    simpa only [State.lands, Prod.mk.injEq] using both
  have part (q : Nat) : dropped.part q = s.part q := by
    show Table.get {} filled.parts q = _
    rw [parts]
    rfl
  have droppedMem : dropped.mem = s.mem := mem
  have droppedBinds : dropped.binds = dropRoots p s.binds := congrArg (dropRoots p) binds
  clear_value dropped
  refine ⟨?_, fun q apart => ?_, droppedMem, droppedBinds⟩
  · exact (dropped.part_setPart p _).trans (congrArg (fun x : Partition => { x with state := .zeroing, memReady := false }) (part p))
  · rw [← part q]
    exact dropped.part_setPart_ne p q _ apart

/-! ## PART_CTRL (R248) -/

section
variable {s : State} {off p v : Nat} (reserve : v / 2 ^ 14 % 128 ≤ 64) (quantum : v % 2 ^ 14 ≠ 0)

/-- The partition with the RESERVE and the QUANTUM of a write. -/
def Partition.withShares (x : Partition) (v : Nat) : Partition :=
  { x with reserve := BitVec.ofNat 7 (bitsOf v 20 14), quantum := BitVec.ofNat 14 (bitsOf v 13 0) }

theorem bitsOf_reserve (v : Nat) : bitsOf v 20 14 = v / 2 ^ 14 % 128 := rfl
theorem bitsOf_quantum (v : Nat) : bitsOf v 13 0 = v % 2 ^ 14 := by rw [bitsOf, pow_zero, Nat.div_one]

theorem State.writePartCtrl_refused_commit (commit : v.testBit 31 = true) (busy : (s.part p).state ≠ .unassigned) :
    s.writePartCtrl off p v = s.reject off := by
  simp [State.writePartCtrl, commit, busy]

theorem State.writePartCtrl_refused_release (release : v.testBit 30 = true) (idle : (s.part p).state ≠ .active) :
    s.writePartCtrl off p v = s.reject off := by
  simp [State.writePartCtrl, release, idle]

include reserve quantum

theorem State.writePartCtrl_commit (commit : v.testBit 31 = true) (only : v.testBit 30 = false) (idle : (s.part p).state = .unassigned)
    (formed : p < partCount s.shape) (ok : s.commitOk p = true) :
    s.writePartCtrl off p v = (s.setPart p ((s.part p).withShares v)).commit p := by
  rw [← bitsOf_reserve] at reserve
  rw [← bitsOf_quantum] at quantum
  simp [State.writePartCtrl, commit, only, idle, formed, ok, reserve, quantum, Partition.withShares]

theorem State.writePartCtrl_release (only : v.testBit 31 = false) (release : v.testBit 30 = true) (active : (s.part p).state = .active) :
    s.writePartCtrl off p v = (s.setPart p ((s.part p).withShares v)).release p := by
  rw [← bitsOf_reserve] at reserve
  rw [← bitsOf_quantum] at quantum
  simp [State.writePartCtrl, only, release, active, reserve, quantum, Partition.withShares]

end

/-! ## RELEASE (R252) -/

/-- KILL of a function in reset is set. -/
def State.Killed (s : State) (f : Nat) : Prop := s.Held f ∧ (s.bind f).kill = true

/-- A function is killed: KILL, then its reset (R252). -/
def State.killFunction (s : State) (f : Nat) : State := (s.setBind f { s.bind f with kill := true }).resetFunction f true

theorem State.killed_killFunction (s : State) (f : Nat) : (s.killFunction f).Killed f := by
  unfold State.killFunction
  generalize s.setBind f { s.bind f with kill := true } = t
  exact ⟨t.held_resetFunction f true, by rw [(t.bind_resetFunction f true).1]⟩

theorem State.Killed.killFunction {s : State} {f : Nat} (killed : s.Killed f) (g : Nat) : (s.killFunction g).Killed f := by
  by_cases here : f = g
  · rw [here]
    exact s.killed_killFunction g
  · have held : (s.setBind g { s.bind g with kill := true }).Held f := killed.1.of_fn rfl
    have bind : ((s.setBind g { s.bind g with kill := true }).bind f).kill = true := by
      rw [s.bind_setBind_ne g f _ here]
      exact killed.2
    unfold State.killFunction
    generalize s.setBind g { s.bind g with kill := true } = t at held bind
    exact ⟨held.of_fn (held.resetFunction here true), by rw [(t.bind_resetFunction g true).2 f here]; exact bind⟩

/-- Every function of a list is killed in turn. -/
theorem State.killed_foldl (l : List Nat) (s : State) : ∀ f ∈ l, (l.foldl State.killFunction s).Killed f := by
  induction l generalizing s with
  | nil => exact fun f mem => absurd mem (List.not_mem_nil)
  | cons g l ih =>
    intro f mem
    by_cases later : f ∈ l
    · rw [List.foldl_cons]
      exact ih _ f later
    · rw [List.foldl_cons]
      obtain rfl := (List.mem_cons.1 mem).resolve_right later
      exact foldl_keeps_of_each (P := fun u => u.Killed f) (fun u g known => known.killFunction g) l (s.killed_killFunction f)

theorem State.beside_killFunction (s : State) (f : Nat) : State.Beside false s (s.killFunction f) :=
  .trans (.of_asides (t := s.setBind f { s.bind f with kill := true }) rfl) (State.beside_resetFunction _ f true)

/-- A partition that enters RELEASING; a firmware source in it is released (R457). -/
def State.releasing (s : State) (p : Nat) : State :=
  let t := s.setPart p { s.part p with state := .releasing, memReady := false }
  if t.fw.program && t.inDram p (t.fw.src.toNat * 4096) then
    { t with fw := { t.fw with program := false, state := .failed, cause := 4 } }.logFirmware 4 t.imageVersion
  else t

theorem State.release_eq (s : State) (p : Nat) :
    s.release p = ((s.releasing p).boundTo p).foldl State.killFunction (s.releasing p) := rfl

theorem State.releasing_fields (s : State) (p : Nat) :
    (s.releasing p).parts = (s.setPart p { s.part p with state := .releasing, memReady := false }).parts ∧
    (s.releasing p).binds = s.binds := by
  unfold State.releasing
  extract_lets _ t _
  split
  · obtain ⟨_, _, _, _, logged⟩ := State.logOnly_log { t with fw := { t.fw with program := false, state := .failed, cause := 4 } }
      { kind := kindFirmware, detail := eventDetail 4 t.imageVersion 0 }
    rw [State.logFirmware, logged]
    exact ⟨rfl, rfl⟩
  · exact ⟨rfl, rfl⟩

/-- A RELEASE: the partition is RELEASING, every function bound to it is killed, and no state of another partition changes. -/
theorem State.release_fields (s : State) (p : Nat) : ((s.release p).part p).state = .releasing ∧ ((s.release p).part p).memReady = false ∧
    (∀ q, q ≠ p → ((s.release p).part q).state = (s.part q).state) ∧ ∀ f ∈ s.boundTo p, (s.release p).Killed f := by
  obtain ⟨parts, binds⟩ := s.releasing_fields p
  have bound : (s.releasing p).boundTo p = s.boundTo p := by rw [State.boundTo, binds]; rfl
  have own : (s.releasing p).part p = { s.part p with state := .releasing, memReady := false } := by
    rw [State.part, parts]
    exact s.part_setPart p _
  have others (q : Nat) (apart : q ≠ p) : (s.releasing p).part q = s.part q := by
    rw [State.part, parts]
    exact s.part_setPart_ne p q _ apart
  rw [s.release_eq p, bound]
  generalize s.releasing p = t at own others
  have kept : State.Beside false t ((s.boundTo p).foldl State.killFunction t) :=
    List.foldlRecOn (motive := State.Beside false t) _ _ (.of_asides rfl) fun u known f _ => known.trans (u.beside_killFunction f)
  obtain ⟨_, _, _, here⟩ := kept.part p
  refine ⟨by rw [here, own], by rw [here, own], fun q apart => ?_, State.killed_foldl _ t⟩
  obtain ⟨_, _, _, there⟩ := kept.part q
  rw [there, others q apart]

/-! ## ZEROING_DONE (R249) -/

/-- What is neither a mark nor within the houses that are zeroed. -/
structure State.ZeroKept (s t : State) : Prop where
  mem : t.mem = s.mem
  host : t.hostMem = s.hostMem
  binds : t.binds = s.binds
  resetting : (t.fn 0).resetting = (s.fn 0).resetting

theorem State.ZeroKept.trans {s t u : State} (first : s.ZeroKept t) (next : t.ZeroKept u) : s.ZeroKept u :=
  ⟨next.mem.trans first.mem, next.host.trans first.host, next.binds.trans first.binds, next.resetting.trans first.resetting⟩

theorem State.MarksOnly.zeroKept {s t : State} (marked : s.MarksOnly t) : s.ZeroKept t := by
  obtain ⟨_, _, _, _, pf⟩ := marked.fn 0
  obtain ⟨fns, msgs, houses, parts, rest⟩ := marked.rest
  exact ⟨by rw [rest], by rw [rest], by rw [rest], by rw [pf]⟩

theorem State.zeroKept_zeroHouse (s : State) (h : Nat) : s.ZeroKept (s.zeroHouse h) := by
  unfold State.zeroHouse
  extract_lets x settled cleared stones
  have emptied : s.ZeroKept stones := by
    refine List.foldlRecOn (motive := s.ZeroKept) _ _ ⟨rfl, rfl, rfl, rfl⟩ fun u known q _ => ?_
    split
    · exact known.trans ⟨rfl, rfl, rfl, rfl⟩
    · exact known
  exact List.foldlRecOn (motive := s.ZeroKept) _ _ emptied fun u known id _ => known.trans (u.marksOnly_evalWeir id).zeroKept

/-- The bytes of zeroed memory. -/
theorem Memory.read_drop (m : Memory) (lost : Nat → Bool) (a : Nat) :
    Memory.read (Table.drop m lost) a = if lost a = true then 0 else m.read a := by
  unfold Memory.read Table.get Table.drop
  cases here : lost a with
  | true => rw [Table.find_filter_none m (fun k => !lost k) a (by rw [here]; rfl)]; rfl
  | false => rw [Table.find_filter m (fun k => !lost k) a (by rw [here]; rfl)]; rfl

theorem State.read_zeroMemory (s : State) (p : Nat) {a : Nat} {x : Region} {h o : Nat} (there : regionOf a = some (x, h, o)) :
    (s.zeroMemory p).mem.read a = if s.owns p h then 0 else s.mem.read a := by
  unfold State.zeroMemory
  extract_lets mine
  have here : mine a = s.owns p h := by simp only [mine, there]
  rw [← here]
  exact Memory.read_drop s.mem mine a

/-- The end of zeroing. -/
theorem State.zeroingDone_fields (s : State) (p : Nat) (zeroing : (s.part p).state = .zeroing) (trained : s.trained = true) :
    ((s.zeroingDone p).part p).state = .active ∧ ((s.zeroingDone p).part p).memReady = true ∧
    (∀ a x h o, regionOf a = some (x, h, o) → (s.zeroingDone p).mem.read a = if s.owns p h then 0 else s.mem.read a) ∧
    (s.zeroingDone p).hostMem = s.hostMem ∧ (s.zeroingDone p).binds = s.binds ∧
    ((s.fn 0).resetting = false → ((s.zeroingDone p).fn 0).cause.partition = true) := by
  unfold State.zeroingDone
  rw [if_neg (by rw [zeroing, trained]; decide)]
  extract_lets zeroed houses carve pawls freed x active marked
  have memory (a : Nat) {x : Region} {h o : Nat} (there : regionOf a = some (x, h, o)) :
      zeroed.mem.read a = if s.owns p h then 0 else s.mem.read a :=
    s.read_zeroMemory p there
  have start : s.hostMem = zeroed.hostMem ∧ s.binds = zeroed.binds ∧ (s.fn 0).resetting = (zeroed.fn 0).resetting := ⟨rfl, rfl, rfl⟩
  have cleared : zeroed.ZeroKept houses :=
    List.foldlRecOn (motive := zeroed.ZeroKept) _ _ ⟨rfl, rfl, rfl, rfl⟩ fun u known h _ => known.trans (u.zeroKept_zeroHouse h)
  have ready : zeroed.ZeroKept active := cleared.trans ⟨rfl, rfl, rfl, rfl⟩
  have own : (active.part p).state = .active ∧ (active.part p).memReady = true := by
    rw [show active.part p = _ from freed.part_setPart p _]
    exact ⟨rfl, rfl⟩
  have marks : active.MarksOnly marked := (active.marksOnly_evalWeir _).trans (State.marksOnly_evalWeir _ _)
  have told : active.MarksOnly (marked.notice 0 .partition) := marks.trans (State.noticed_notice _ _ _).marksOnly
  have kept := ready.trans told.zeroKept
  obtain ⟨pool, grist, part⟩ := told.part p
  refine ⟨by rw [part]; exact own.1, by rw [part]; exact own.2, fun a x h o there => ?_, kept.host.trans start.1.symm,
    kept.binds.trans start.2.1.symm, fun up => ?_⟩
  · rw [kept.mem]
    exact memory a there
  · have on : (marked.fn 0).resetting = false := by
      rw [(ready.trans marks.zeroKept).resetting, ← start.2.2]
      exact up
    exact (congrArg Notices.partition (marked.cause_notice 0 .partition on)).trans rfl

/-- Settles O28: each row by the fields of its operation. -/
theorem partitionLifeCycle : Obligations.PartitionLifeCycle := by
  intro s p v
  have write (ready : s.cfgReady = true) : exec (.partitionCommit p v) s = .next (s.writePartCtrl (0x10100 + 64 * p.val) p v.toNat).settle ∧
      exec (.partitionRelease p v) s = .next (s.writePartCtrl (0x10100 + 64 * p.val) p v.toNat).settle := by
    have effect : s.writeSetup (0x10100 + 64 * p.val) 32 (v.setWidth 64) = s.writePartCtrl (0x10100 + 64 * p.val) p v.toNat := by
      rw [s.writeSetup_word ready (regAt_partCtrl p), State.writeReg, toNat_setWidth_word]
    exact ⟨congrArg (fun u => Host.Outcome.next (State.settle u)) effect, congrArg (fun u => Host.Outcome.next (State.settle u)) effect⟩
  refine ⟨fun ready reserve quantum => ⟨fun commit only idle formed ok => ?commit, fun commit busy => ?noCommit,
    fun only release active => ?release, fun release idle => ?noRelease⟩, fun zeroing trained => ?zeroed, fun not => ?notZeroed,
    fun releasing => congrArg Host.Outcome.next (if_pos releasing), fun not => congrArg Host.Outcome.next (if_neg not)⟩
  case commit =>
    obtain ⟨own, others, mem, binds⟩ := (s.setPart p ((s.part p).withShares v.toNat)).commit_fields p
    rw [(write ready).1, State.writePartCtrl_commit reserve quantum commit only idle formed ok]
    have part := s.part_setPart p ((s.part p).withShares v.toNat)
    have reserveLow : v.toNat / 2 ^ 14 % 128 < 2 ^ 7 := Nat.mod_lt _ (by decide)
    have quantumLow : v.toNat % 2 ^ 14 < 2 ^ 14 := Nat.mod_lt _ (by decide)
    refine ⟨_, rfl, by rw [own], by rw [own], ?_, ?_, fun f bound => ?_, fun q apart => ?_, mem⟩
    · rw [own, part]
      exact (congrArg (fun n => (BitVec.ofNat 7 n).toNat) (bitsOf_reserve _)).trans (toNat_ofNat_of_lt reserveLow)
    · rw [own, part]
      exact (congrArg (fun n => (BitVec.ofNat 14 n).toNat) (bitsOf_quantum _)).trans (toNat_ofNat_of_lt quantumLow)
    · rw [State.bind, binds] at bound ⊢
      exact rootValid_dropRoots p _ f bound
    · rw [others q apart, s.part_setPart_ne p q _ apart]
  case noCommit => rw [(write ready).1, State.writePartCtrl_refused_commit commit busy]
  case release =>
    obtain ⟨own, unready, others, killed⟩ := (s.setPart p ((s.part p).withShares v.toNat)).release_fields p
    rw [(write ready).2, State.writePartCtrl_release reserve quantum only release active]
    refine ⟨_, rfl, own, unready, fun q apart => ?_, fun f bound => ⟨(killed f bound).2, (killed f bound).1.1⟩⟩
    rw [others q apart, s.part_setPart_ne p q _ apart]
  case noRelease => rw [(write ready).2, State.writePartCtrl_refused_release release idle]
  case zeroed => exact ⟨_, rfl, s.zeroingDone_fields p zeroing trained⟩
  case notZeroed =>
    have skip : (decide ((s.part p).state ≠ .zeroing) || !s.trained) = true := by
      rcases not with state | trained
      · rw [decide_eq_true state]; rfl
      · rw [trained, Bool.not_false, Bool.or_true]
    exact congrArg Host.Outcome.next (if_pos skip)

end Sys2Proof.Machine
end

section
/-! PROOFS. Setup registers of PF0 (R355, R393, R438, R458 to R467, R472, R474): what a write takes, and what it turns away. -/
namespace Sys2Proof.Machine

/-! ## FAULT_CFG (R393, R467) -/

/-- What declarations of units leave. -/
structure State.Declared (s t : State) : Prop where
  mem     : t.mem = s.mem
  stones  : t.stones = s.stones
  steady  : t.steady = s.steady
  lasting : ∀ c i, (s.unit c i).lasting = true → (t.unit c i).lasting = true

theorem State.Declared.refl (s : State) : s.Declared s := ⟨rfl, rfl, rfl, fun _ _ => id⟩

theorem State.Declared.trans {s t u : State} (first : s.Declared t) (next : t.Declared u) : s.Declared u :=
  ⟨next.mem.trans first.mem, next.stones.trans first.stones, next.steady.trans first.steady,
    fun c i on => next.lasting c i (first.lasting c i on)⟩

/-- A unit that is declared is lasting; its declaration is written to flash and to the log. -/
theorem State.declare_eq (s : State) (c i : Nat) : ∃ t : State,
    t = s.setUnit c i { s.unit c i with lasting := true, due := true, rows := [] } ∧ t.keep.LogOnly (s.declare c i) :=
  ⟨_, rfl, State.logOnly_log _ _⟩

theorem State.unit_declare (s : State) (c i d j : Nat) : (s.declare c i).unit d j =
    if d * 1024 + j = c * 1024 + i then { s.unit c i with lasting := true, due := true, rows := [] } else s.unit d j := by
  obtain ⟨t, rfl, _, _, _, _, logged⟩ := s.declare_eq c i
  have units : (s.declare c i).units = Table.put {} s.units (c * 1024 + i) { s.unit c i with lasting := true, due := true, rows := [] } := by
    rw [logged]
    rfl
  rw [State.unit, units]
  split
  next same => rw [same, Table.get_put]
  next apart => exact Table.get_put_ne _ _ _ _ _ _ apart

theorem State.declared_declare (s : State) (c i : Nat) : s.Declared (s.declare c i) := by
  refine ⟨?_, ?_, (State.declare_keeps (Keeps.refl true s) c i).steady rfl, fun d j on => ?_⟩
  · obtain ⟨t, rfl, _, _, _, _, logged⟩ := s.declare_eq c i
    rw [logged]
    rfl
  · obtain ⟨t, rfl, _, _, _, _, logged⟩ := s.declare_eq c i
    rw [logged]
    rfl
  · rw [s.unit_declare]
    split
    · rfl
    · exact on

/-- A unit of the list is declared, unless it is lasting or its count is below the threshold. -/
def State.declareAt (th : Nat) (s : State) (c : Nat × UnitCount) : State :=
  if !c.2.lasting && c.2.window.toNat ≥ th then s.declare (c.1 / 1024) (c.1 % 1024) else s

theorem State.declared_declareAt (th : Nat) (s : State) (c : Nat × UnitCount) : s.Declared (s.declareAt th c) := by
  unfold State.declareAt
  split
  · exact s.declared_declare _ _
  · exact .refl s

theorem State.declared_foldl (th : Nat) (l : List (Nat × UnitCount)) (s : State) : s.Declared (l.foldl (State.declareAt th) s) :=
  List.foldlRecOn (motive := s.Declared) l _ (.refl s) fun u known c _ => known.trans (u.declared_declareAt th c)

/-- Every unit of a list whose count reaches the threshold is lasting at the end, where those that are lasting in the list were. -/
theorem State.lasting_foldl (th : Nat) (l : List (Nat × UnitCount)) (s : State) {k : Nat} {x : UnitCount} (listed : (k, x) ∈ l)
    (reached : th ≤ x.window.toNat) (was : x.lasting = true → (s.unit (k / 1024) (k % 1024)).lasting = true) :
    ((l.foldl (State.declareAt th) s).unit (k / 1024) (k % 1024)).lasting = true := by
  induction l generalizing s with
  | nil => exact absurd listed List.not_mem_nil
  | cons c l ih =>
    rw [List.foldl_cons]
    rcases List.mem_cons.1 listed with rfl | later
    · refine (State.declared_foldl th l _).lasting _ _ ?_
      by_cases lasting : x.lasting = true
      · exact (s.declared_declareAt th (k, x)).lasting _ _ (was lasting)
      · have due : (!x.lasting && decide (x.window.toNat ≥ th)) = true := by
          rw [Bool.not_eq_true] at lasting
          rw [lasting, decide_eq_true reached]
          rfl
        rw [State.declareAt, if_pos due, s.unit_declare, if_pos rfl]
    · exact ih _ later fun lasting => (s.declared_declareAt th c).lasting _ _ (was lasting)

theorem State.writeFaultCfg_eq (s : State) (off v : Nat) : s.writeFaultCfg off v =
    if v / 256 % 64 < 20 ∨ 40 < v / 256 % 64 then s.reject off
    else if v % 256 = 0 then { s with faultWin := BitVec.ofNat 6 (v / 256 % 64), faultTh := BitVec.ofNat 8 (v % 256) }
    else s.units.foldl (State.declareAt (v % 256))
      { s with faultWin := BitVec.ofNat 6 (v / 256 % 64), faultTh := BitVec.ofNat 8 (v % 256) } := by
  have window : bitsOf v 13 8 = v / 256 % 64 := rfl
  have threshold : bitsOf v 7 0 = v % 256 := by simp [bitsOf]
  simp only [State.writeFaultCfg, window, threshold, Bool.or_eq_true, decide_eq_true_eq]
  rfl

/-! ## COMBINE_TIMEOUT (R466) -/

/-- What the tags that a shorter time-out ends leave. -/
structure State.TagsOnly (s t : State) : Prop where
  mem  : t.mem = s.mem
  host : t.hostMem = s.hostMem
  us   : t.combineUs = s.combineUs

theorem State.TagsOnly.trans {s t u : State} (first : s.TagsOnly t) (next : t.TagsOnly u) : s.TagsOnly u :=
  ⟨next.mem.trans first.mem, next.host.trans first.host, next.us.trans first.us⟩

theorem State.combineUs_of_steady {s t : State} (same : t.steady = s.steady) : t.combineUs = s.combineUs := congrArg Steady.combineUs same

theorem State.tagsOnly_breakTag (s : State) (p t : Nat) : s.TagsOnly (s.breakTag p t .timeout none) := by
  have broken : State.Beside true s (s.breakTag p t .timeout none) :=
    State.EndSteps.beside (fair := false) (s.endSteps_breakTag p t .timeout (by decide) none)
  obtain ⟨mem, host⟩ := broken.memories rfl
  exact ⟨mem, host, State.combineUs_of_steady ((State.breakTag_keeps (Keeps.refl true s) p t _ _).steady rfl)⟩

theorem State.writeCombineTimeout_fields (s : State) (off v : Nat) (set : v ≠ 0) (ts : List (Nat × Nat)) :
    (s.writeCombineTimeout off v ts).mem = s.mem ∧ (s.writeCombineTimeout off v ts).hostMem = s.hostMem ∧
    (s.writeCombineTimeout off v ts).combineUs = BitVec.ofNat 32 v := by
  have start : State.TagsOnly { s with combineUs := BitVec.ofNat 32 v } (s.writeCombineTimeout off v ts) := by
    rw [State.writeCombineTimeout, if_neg set]
    refine List.foldlRecOn (motive := State.TagsOnly _) _ _ ⟨rfl, rfl, rfl⟩ fun u known x _ => ?_
    split
    · exact known.trans ⟨rfl, rfl, rfl⟩
    · exact known.trans (u.tagsOnly_breakTag _ _)
  exact ⟨start.mem, start.host, start.us⟩

/-! ## SETUP_LOCK (R461) -/

theorem State.writeLock_eq (s : State) (v : Nat) : s.writeLock v = if v.testBit 0 = true then
    { s with locked := true,
             tap := if s.tap.instr = .sample ∨ s.tap.instr = .extest then { s.tap with instr := .bypass } else s.tap }
    else s := by
  unfold State.writeLock
  cases v.testBit 0 with
  | false => rfl
  | true => simp

/-- Settles O25, register by register. -/
theorem setupRegisterRows : Obligations.SetupRegisterRows := by
  intro s v x ts ready
  have lock : exec (.setupLockWrite v) s = .next (s.writeLock v.toNat) := by
    show Host.Outcome.next (s.writeSetup 0x10010 32 (v.setWidth 64)) = _
    rw [s.writeSetup_word ready (x := .setupLock) rfl, State.writeReg, toNat_setWidth_word]
  have fault : exec (.faultThresholdWrite v) s = .next (s.writeFaultCfg 0x10038 v.toNat).settle := by
    show Host.Outcome.next (State.settle (s.writeSetup 0x10038 32 (v.setWidth 64))) = _
    rw [s.writeSetup_word ready (x := .faultCfg) rfl, State.writeReg, toNat_setWidth_word]
  have combine (w : Word32) : exec (.combineTimeoutWrite w ts) s =
      .next (s.writeCombineTimeout 0x1002C w.toNat (ts.map (fun x => (x.1.val, x.2.toNat)))).settle := by
    show Host.Outcome.next (State.settle (s.writeSetup 0x1002C 32 (w.setWidth 64) _)) = _
    rw [s.writeSetup_word ready (x := .combineTimeout) rfl, State.writeReg, toNat_setWidth_word]
  rw [s.writeLock_eq] at lock
  refine ⟨fun clear => by rw [lock, if_neg (by rw [clear]; decide)], fun set => by rw [lock, if_pos set], ?select,
    fun busy => congrArg Host.Outcome.next (if_neg (by rw [busy]; decide)),
    ⟨fun out => by rw [fault, s.writeFaultCfg_eq, if_pos out], fun low high => ?taken⟩, fun some_ => ?combine, ?zero⟩
  case select =>
    show Host.Outcome.next (s.writeSetup 0x18000 64 x) = _
    rw [s.writeSetup_double ready (x := .logSelect) rfl]
    rfl
  case taken =>
    have legal : ¬(v.toNat / 256 % 64 < 20 ∨ 40 < v.toNat / 256 % 64) := by omega
    have windowLow : v.toNat / 256 % 64 < 2 ^ 6 := Nat.mod_lt _ (by decide)
    have thresholdLow : v.toNat % 256 < 2 ^ 8 := Nat.mod_lt _ (by decide)
    have effect := fault
    rw [s.writeFaultCfg_eq, if_neg legal] at effect
    generalize v.toNat / 256 % 64 = w at windowLow effect
    generalize v.toNat % 256 = th at thresholdLow effect ⊢
    split at effect
    next off =>
      exact ⟨_, effect, toNat_ofNat_of_lt windowLow, toNat_ofNat_of_lt thresholdLow, rfl, rfl, rfl, fun on => absurd off (Nat.ne_of_gt on)⟩
    next on =>
      have declared := State.declared_foldl th s.units { s with faultWin := BitVec.ofNat 6 w, faultTh := BitVec.ofNat 8 th }
      refine ⟨_, effect, ?_, ?_, congrArg Steady.faultWinOn declared.steady, declared.mem, declared.stones, fun _ c i reached => ?_⟩
      · exact (congrArg (fun y : Steady => y.faultWin.toNat) declared.steady).trans (toNat_ofNat_of_lt windowLow)
      · exact (congrArg (fun y : Steady => y.faultTh.toNat) declared.steady).trans (toNat_ofNat_of_lt thresholdLow)
      · have key : (c * 1024 + i) / 1024 * 1024 + (c * 1024 + i) % 1024 = c * 1024 + i := by omega
        have same (t : State) : t.unit ((c * 1024 + i) / 1024) ((c * 1024 + i) % 1024) = t.unit c i := by
          rw [State.unit, State.unit, key]
        rcases Table.get_mem {} s.units (c * 1024 + i) with default | listed
        · have none : s.unit c i = {} := default
          rw [none] at reached
          exact absurd (Nat.le_zero.1 reached) on
        · rw [← same]
          exact State.lasting_foldl th s.units _ listed reached fun lasting => by
            rw [same]
            exact lasting
  case combine =>
    have set : v.toNat ≠ 0 := fun zero => some_ (BitVec.eq_of_toNat_eq zero)
    obtain ⟨mem, host, us⟩ := s.writeCombineTimeout_fields 0x1002C v.toNat set (ts.map (fun x => (x.1.val, x.2.toNat)))
    exact ⟨_, combine v, us.trans (by rw [BitVec.ofNat_toNat, BitVec.setWidth_eq]), mem, host⟩
  case zero => exact (combine 0).trans (congrArg (fun u => Host.Outcome.next (State.settle u)) (if_pos rfl))

end Sys2Proof.Machine
end

section
/-! PROOFS. REGISTER_WRITE (R355, R438, R458 to R461, R464, R465, R472): the setup map through BAR0 of PF0, and the PCIe registers of a
function. -/
namespace Sys2Proof.Machine

/-! ## Fields of a 32-bit write -/

theorem toNat_low_word (v : Word64) : ((v.setWidth 32).setWidth 64 : Word64).toNat = v.toNat % 2 ^ 32 := by
  rw [BitVec.toNat_setWidth, BitVec.toNat_setWidth]
  exact Nat.mod_eq_of_lt (by omega)

theorem bitsOf_shape (n : Nat) : bitsOf (n % 2 ^ 32) 31 30 = n / 2 ^ 30 % 4 := by
  show n % 2 ^ 32 / 2 ^ 30 % 4 = _
  omega

theorem bitsOf_moduleId (n : Nat) : bitsOf (n % 2 ^ 32) 9 0 = n % 1024 := by
  rw [bitsOf, pow_zero, Nat.div_one]
  show n % 2 ^ 32 % 2 ^ 10 = _
  omega

theorem bitsOf_delay (n : Nat) : bitsOf (n % 2 ^ 32) 14 0 = n % 2 ^ 15 := by
  rw [bitsOf, pow_zero, Nat.div_one]
  show n % 2 ^ 32 % 2 ^ 15 = _
  omega

theorem bitsOf_media (n : Nat) : bitsOf (n % 2 ^ 32) 12 8 = n / 256 % 32 := by
  show n % 2 ^ 32 / 2 ^ 8 % 32 = _
  omega

/-! ## The registers (R438, R464, R465, R472) -/

section
variable (s : State) (off : Nat)

/-- A legal shape and ID, unlocked, with the link down and no partition assigned (R464). -/
theorem State.writeModuleCfg_taken {n : Nat} {sh : Shape} (shape : shapeOf (bitsOf n 31 30) = some sh) (id : bitsOf n 9 0 ≠ 1023)
    (unlocked : s.locked = false) (down : s.linkUp = false) (free : ∀ p < 4, (s.part p).state = .unassigned) :
    s.writeModuleCfg off n = { s with
      shape := sh, moduleId := BitVec.ofNat 10 (bitsOf n 9 0),
      leat := if sh = .whole then s.leat else { s.leat with ports := [], out := [] } } := by
  have all : s.allUnassigned = true := by
    rw [State.allUnassigned, List.all_eq_true]
    intro p mem
    rw [free p (List.mem_range.1 mem)]
    rfl
  rw [State.writeModuleCfg, shape]
  simp only [id, unlocked, all, down, decide_false, Bool.false_and, Bool.not_true, Bool.and_false, Bool.or_self,
    Bool.false_eq_true, if_false]

theorem shapeOf_of_known {n : Nat} (known : n ≤ 2) : ∃ sh, shapeOf n = some sh := by
  interval_cases n
  · exact ⟨_, rfl⟩
  · exact ⟨_, rfl⟩
  · exact ⟨_, rfl⟩

theorem State.writeModuleCfg_locked {n : Nat} (known : bitsOf n 31 30 ≤ 2) (locked : s.locked = true)
    (other : bitsOf n 9 0 ≠ s.moduleId.toNat) : s.writeModuleCfg off n = s.reject off := by
  obtain ⟨sh, shape⟩ := shapeOf_of_known known
  rw [State.writeModuleCfg, shape]
  simp [locked, other]

theorem State.writeLeatCtrl_locked {n : Nat} (locked : s.locked = true) (other : bitsOf n 14 0 ≠ s.tsyncDelay.toNat) :
    s.writeLeatCtrl off n = s.reject off := by
  simp [State.writeLeatCtrl, locked, other]

theorem State.writePondSplit_locked {n : Nat} (h : Nat) (locked : s.locked = true) (other : bitsOf n 12 8 ≠ (s.house h).media.toNat) :
    s.writePondSplit off h n = s.reject off := by
  simp [State.writePondSplit, locked, other]

theorem fld_limit (v : Word64) : fld v 23 16 = v.toNat / 2 ^ 16 % 256 := by
  rw [fld_eq]
  rfl

theorem fld_cap (v : Word64) : fld v 15 0 = v.toNat % 65536 := by
  rw [fld_low]
  rfl

theorem State.writePower_eq (v : Word64) : s.writePower off v =
    if v.toNat / 2 ^ 16 % 256 < 40 ∨ 85 < v.toNat / 2 ^ 16 % 256 ∨ v.toNat % 65536 < 500 ∨ 3800 < v.toNat % 65536 then s.reject off
    else { s with pwr := { s.pwr with iLimit := BitVec.ofNat 8 (v.toNat / 2 ^ 16 % 256), capW := BitVec.ofNat 16 (v.toNat % 65536) } } := by
  simp only [State.writePower, fld_limit, fld_cap, Bool.or_eq_true, decide_eq_true_eq, or_assoc, gt_iff_lt]

end

/-! ## Registers of PCIe (R332, R355) -/

/-- With no vector pending no message is sent. -/
theorem State.flushVectors_of_none {s : State} {f : Nat} (none : (s.fn f).pending = 0) : s.flushVectors f = s := by
  have each (v : Nat) : s.flushVector f v = s := by simp [State.flushVector, none]
  exact List.foldlRecOn (motive := fun u => u = s) _ _ rfl fun u same v _ => by rw [same, each v]

theorem ofNat_toNat_setWidth (v : Word64) : BitVec.ofNat 32 v.toNat = v.setWidth 32 :=
  BitVec.eq_of_toNat_eq (by simp)

/-- Settles O27, register by register. -/
theorem lockedAndIllegalWritesAreRejected : Obligations.LockedAndIllegalWritesAreRejected := by
  intro s v f ready n
  have write (o : BitVec 20) (w : Nat) (setup : 0x10000 ≤ o.toNat) :
      exec (.registerWrite 0 .bar0 o w v) s = .next (s.writeSetup o.toNat w v).settle := by
    have here : s.writeBar0 0 o.toNat w v = s.writeSetup o.toNat w v := by
      rw [State.writeBar0, if_neg (by omega), if_pos rfl]
    exact congrArg (fun u => Host.Outcome.next (State.settle u)) here
  have word {x : Reg} (o : BitVec 20) (setup : 0x10000 ≤ o.toNat) (found : regAt o.toNat = some (x, 32)) :
      exec (.registerWrite 0 .bar0 o 32 v) s = .next (s.writeReg o.toNat ((v.setWidth 32).setWidth 64) [] x).settle := by
    rw [write o 32 setup, s.writeSetup_of_width ready found]
  refine ⟨fun sh shape id unlocked down free => ?cfg, fun locked known other => ?cfgLocked, fun locked other => ?leat,
    fun locked other => ?pond, ⟨fun a b c d => ?power, fun out => ?powerOut⟩, fun o w w' reg setup found other => ?narrow,
    fun o w0 setup none => ?ignored, ?reject, fun up quiet => ?msix, fun up => ?aer⟩
  case cfg =>
    rw [word (x := .moduleCfg) 0x10020 (by decide) rfl, State.writeReg, toNat_low_word,
      s.writeModuleCfg_taken _ (by rw [bitsOf_shape]; exact shape) (by rw [bitsOf_moduleId]; exact id) unlocked down free, bitsOf_moduleId]
  case cfgLocked =>
    rw [word (x := .moduleCfg) 0x10020 (by decide) rfl, State.writeReg, toNat_low_word,
      s.writeModuleCfg_locked _ (by rw [bitsOf_shape]; exact known) locked (by rw [bitsOf_moduleId]; exact other)]
    rfl
  case leat =>
    rw [word (x := .leatCtrl) 0x10024 (by decide) rfl, State.writeReg, toNat_low_word,
      s.writeLeatCtrl_locked _ locked (by rw [bitsOf_delay]; exact other)]
    rfl
  case pond =>
    rw [word (x := .pondSplit 0) 0x10200 (by decide) rfl, State.writeReg, toNat_low_word,
      s.writePondSplit_locked _ 0 locked (by rw [bitsOf_media]; exact other)]
    rfl
  case power =>
    rw [write 0x10030 64 (by decide), s.writeSetup_double ready (x := .power) rfl, State.writeReg, s.writePower_eq,
      if_neg (by omega)]
  case powerOut =>
    rw [write 0x10030 64 (by decide), s.writeSetup_double ready (x := .power) rfl, State.writeReg, s.writePower_eq, if_pos out]
    rfl
  case narrow => rw [write o w' setup, s.writeSetup_of_other_width ready found other]
  case ignored => rw [write o w0 setup, s.writeSetup_of_unlisted ready none]
  case reject =>
    unfold State.reject
    split
    next already => exact already
    · rfl
  case msix =>
    have quiet' : ((s.setFn f { s.fn f with msixEn := n.testBit 15, fnMask := n.testBit 14 }).fn f).pending = 0 := by
      rw [s.fn_setFn]
      exact quiet
    have open_ : (s.cfgReady && !(s.fn f).resetting) = true := by rw [ready, up]; rfl
    show (if (s.cfgReady && !(s.fn f).resetting) = true then Host.Outcome.next (s.writeMsixControl f v.toNat) else _) = _
    rw [if_pos open_, State.writeMsixControl, State.flushVectors_of_none quiet']
  case aer =>
    have open_ : (s.cfgReady && !(s.fn f).resetting) = true := by rw [ready, up]; rfl
    show (if (s.cfgReady && !(s.fn f).resetting) = true then Host.Outcome.next (s.writeAer f v.toNat) else _) = _
    rw [if_pos open_, State.writeAer, ofNat_toNat_setWidth]

end Sys2Proof.Machine
end

section
/-! PROOFS. The stone map (R394 to R403, R468): operator actions, retirement, and stones that are declared dead. -/
namespace Sys2Proof.Machine

/-! ## Ends of commands and the stone map -/

theorem State.ByMemory.beside {kept : Bool} {s t : State} (by_ : State.ByMemory kept s t) : State.Beside kept s t :=
  ⟨by_.memories, fun p => ⟨_, _, _, by rw [State.part, by_.parts]; rfl⟩,
    fun q => ⟨_, _, _, _, _, _, by rw [State.stone, by_.stones]; rfl⟩, by_.epochs⟩

theorem State.beside_modRunning {kept : Bool} (s : State) (f r : Nat) (m : Running → Running) : State.Beside kept s (s.modRunning f r m) :=
  .of_asides (s.asides_modRunning f r m)

theorem State.beside_side (s : State) (f r kind : Nat) (body : List Byte) : State.Beside false s (s.side f r kind body) := by
  unfold State.side
  split
  · exact .of_asides rfl
  dsimp only
  split
  · exact .of_asides rfl
  split
  · exact .of_asides rfl
  have written (a : Acc) (va : Nat) (bs : List Byte) : State.Beside false s ((writeV a va bs).exec s).2.s :=
    ((writeV_local_byMemory a va bs).exec s).beside
  split
  · exact (written _ _ _).trans (State.beside_modRunning _ f r _)
  · exact (written _ _ _).trans (State.beside_modRunning _ f r _)

theorem State.beside_sides (s : State) (f r : Nat) (recs : List (Nat × List Byte)) (fault : Option FaultRec) :
    State.Beside false s (s.sides f r recs fault) := by
  have listed : State.Beside false s (recs.foldl (fun s x => s.side f r x.1 x.2) s) :=
    List.foldlRecOn (motive := State.Beside false s) _ _ (.of_asides rfl) fun u known x _ => known.trans (u.beside_side f r x.1 x.2)
  unfold State.sides
  split
  · exact listed.trans (State.beside_side _ f r _ _)
  · exact listed

theorem State.beside_finish {kept : Bool} (s : State) (f r : Nat) (st : Status) (res : Word32) : State.Beside kept s (s.finish f r st res) :=
  .of_asides (State.asides_modRunning s.ended f r _)

/-- The end of a command leaves the stone map, whatever it waits for. -/
theorem State.beside_endCommand (s : State) (f r : Nat) (st : Status) : State.Beside false s (s.endCommand f r st) := by
  by_cases quiet : ∃ k st recs, s.running f r = some k ∧ k.wait = .acks st recs
  · obtain ⟨k, st0, recs, run, waits⟩ := quiet
    simp only [State.endCommand, run, waits]
    have dropped : State.Beside false s (s.dropAcks f r k.seq) := .of_asides rfl
    exact ((dropped.trans (State.beside_sides _ f r _ _)).trans (State.beside_finish _ f r _ _)).trans (State.beside_finish _ f r _ _)
  · exact (State.endSteps_endCommand (.inr fun k st recs run waits => quiet ⟨k, st, recs, run, waits⟩) st).beside

theorem State.beside_dropTaker (s : State) (t : Taker) : State.Beside true s (s.dropTaker t) :=
  State.EndSteps.beside (fair := false) (s.endSteps_dropTaker t)

theorem State.Beside.weaken {s t : State} (known : State.Beside true s t) : State.Beside false s t :=
  ⟨fun kept => Bool.noConfusion kept, known.part, known.stone, known.epochs⟩

theorem State.endSteps_abortImages {fair kept : Bool} (s : State) (p : Nat) : State.EndSteps fair kept s (s.abortImages p) := by
  refine State.EndSteps.foldl (fun u x => ?_) _ s
  split
  · exact u.endSteps_endSnapshots _ _ _ _
  · exact .refl

section
variable {kept : Bool} {s t : State} (known : State.Beside kept s t)
include known

theorem State.Beside.state (q : Nat) : (t.stone q).state = (s.stone q).state := by
  obtain ⟨_, _, _, _, _, _, here⟩ := known.stone q
  rw [here]

theorem State.Beside.logical (q : Nat) : (t.stone q).logical = (s.stone q).logical := by
  obtain ⟨_, _, _, _, _, _, here⟩ := known.stone q
  rw [here]

theorem State.Beside.heard (q : Nat) : (t.stone q).heard = (s.stone q).heard := by
  obtain ⟨_, _, _, _, _, _, here⟩ := known.stone q
  rw [here]

end

/-! ## Rebinding a logical stone (R397) -/

theorem State.epoch_bumpEpoch (s : State) (l : Nat) : (s.bumpEpoch l).epoch l = s.epoch l + 1 := Table.get_put _ _ _ _

/-- A stone that is no spare stays as it is. -/
theorem State.stone_rebind_of_other {s : State} {p : Nat} (other : (s.stone p).state ≠ .spare) (l : Nat) :
    (s.rebind l).stone p = s.stone p := by
  unfold State.rebind
  extract_lets t
  split
  next q found =>
    have spare : (s.stone q).state = .spare := eq_of_beq (List.find?_some (p := fun p => (t.stone p).state == .spare) found)
    exact State.stone_setStone_ne t q p _ fun same => other (same ▸ spare)
  · rfl

theorem State.epoch_rebind (s : State) (l : Nat) : (s.rebind l).epoch l = s.epoch l + 1 := by
  rw [← s.epoch_bumpEpoch l]
  unfold State.rebind
  extract_lets t
  split <;> rfl

/-- The spare of the house takes the logical stone. -/
theorem State.stone_rebind_of_spare {s : State} {l q : Nat} (spare : s.stoneIn (l / 24) .spare = some q) :
    (s.rebind l).stone q = (s.stone q).takeId l (s.epoch l + 1) := by
  unfold State.rebind
  extract_lets t
  have found : t.stoneIn (l / 24) .spare = some q := spare
  have epoch : t.epoch l = s.epoch l + 1 := s.epoch_bumpEpoch l
  rw [found, ← epoch]
  exact t.stone_setStone q _

/-- The lowest stone of a house in a state depends on the states alone. -/
theorem State.stoneIn_congr {s t : State} (same : ∀ q, ((t.stone q).state == .spare) = ((s.stone q).state == .spare)) (h : Nat) :
    t.stoneIn h .spare = s.stoneIn h .spare := by
  unfold State.stoneIn
  simp only [same]

/-! ## The log and the flash -/

/-- What a record changes, and what stays in flash: the stone map, the units and the epochs stand. -/
structure State.Recorded (s t : State) : Prop where
  mem     : t.mem = s.mem
  host    : t.hostMem = s.hostMem
  stones  : t.stones = s.stones
  epochs  : t.epochs = s.epochs
  units   : t.units = s.units

theorem State.Recorded.trans {s t u : State} (first : s.Recorded t) (next : t.Recorded u) : s.Recorded u :=
  ⟨next.mem.trans first.mem, next.host.trans first.host, next.stones.trans first.stones, next.epochs.trans first.epochs,
    next.units.trans first.units⟩

theorem State.recorded_keep_log (s : State) (r : LogRec) : s.Recorded (s.keep.log r) := by
  obtain ⟨_, _, _, _, logged⟩ := State.logOnly_log s.keep r
  rw [logged]
  exact ⟨rfl, rfl, rfl, rfl, rfl⟩

section
variable {s t : State} (known : s.Recorded t)
include known

theorem State.Recorded.stone (q : Nat) : t.stone q = s.stone q := by rw [State.stone, known.stones]; rfl
theorem State.Recorded.epoch (l : Nat) : t.epoch l = s.epoch l := by rw [State.epoch, known.epochs]; rfl
theorem State.Recorded.unit (c i : Nat) : t.unit c i = s.unit c i := by rw [State.unit, known.units]; rfl

end

/-! ## Retirement (R397) -/

/-- The logical stone that a stone carried moves on, if it carried one. -/
def State.moveOn (s : State) (l : Option Nat) : State := match l with | some l => s.rebind l | none => s

theorem State.stone_moveOn_of_other {s : State} {p : Nat} (other : (s.stone p).state ≠ .spare) (l : Option Nat) :
    (s.moveOn l).stone p = s.stone p := by
  cases l with
  | none => rfl
  | some l => exact State.stone_rebind_of_other other l

/-- A retirement: the stone's commands have ended, the stone carries nothing, its logical stone moves on, a record tells of it. -/
theorem State.retireStone_eq (s : State) (p : Nat) : ∃ (t : State) (r : LogRec),
    s.retireStone p = ((t.setStone p (freshStone .retired none 0)).moveOn (t.stone p).logical).keep.log r := ⟨_, _, rfl⟩

/-- A stone that is retired carries no logical stone. -/
theorem State.stone_retireStone (s : State) (p : Nat) :
    ((s.retireStone p).stone p).state = .retired ∧ ((s.retireStone p).stone p).logical = none := by
  obtain ⟨t, r, retired⟩ := s.retireStone_eq p
  have own : (t.setStone p (freshStone .retired none 0)).stone p = freshStone .retired none 0 := t.stone_setStone p _
  rw [retired, (State.recorded_keep_log _ r).stone p, State.stone_moveOn_of_other (by rw [own]; decide), own]
  exact ⟨rfl, rfl⟩

/-! ## Operator actions (R403, R468) -/

theorem State.endAction_fields (s : State) (p : Nat) (stone : p < 128) (result : BitVec 2) :
    (∀ q, (s.endAction p result).stone q = s.stone q) ∧ (s.endAction p result).stResult = result ∧
    (s.endAction p result).stResStone.toNat = p ∧
    (s.endAction p result).stBusy = s.stBusy &&& ~~~((1 : BitVec 4) <<< (p / 25)) := by
  obtain ⟨r, ended⟩ : ∃ r, s.endAction p result = State.log (State.keep { s with
      stBusy := s.stBusy &&& ~~~((1 : BitVec 4) <<< (p / 25)), stResult := result, stResStone := BitVec.ofNat 7 p }) r := ⟨_, rfl⟩
  obtain ⟨_, _, _, _, logged⟩ := State.logOnly_log (State.keep { s with
    stBusy := s.stBusy &&& ~~~((1 : BitVec 4) <<< (p / 25)), stResult := result, stResStone := BitVec.ofNat 7 p }) r
  rw [ended, logged]
  exact ⟨fun q => rfl, rfl, toNat_ofNat_of_lt stone, rfl⟩

theorem house_lt (p : StoneP) : p.val / 25 < 4 := by omega

/-- The bit of a house, set and cleared. -/
theorem testBit_busy_set (x : BitVec 4) {h : Nat} (house : h < 4) : (x ||| (1 <<< h)).toNat.testBit h = true := by
  interval_cases h <;> (revert x; decide)

theorem testBit_busy_clear (x : BitVec 4) {h : Nat} (house : h < 4) : (x &&& ~~~((1 : BitVec 4) <<< h)).toNat.testBit h = false := by
  interval_cases h <;> (revert x; decide)

/-- May the operator test a stone in this state, or retire it? -/
def StoneState.testable (st : StoneState) : Bool := st == .retired || st == .suspect || st == .quarantined
def StoneState.retirable (st : StoneState) : Bool := st == .active || st == .spare || st == .restorable

/-- STONE_CMD with ACTION 1. -/
theorem State.writeStoneCmd_test (s : State) (off : Nat) (p : StoneP) : s.writeStoneCmd off (2 ^ 30 + p.val) =
    if !(s.stone p).state.testable || s.stBusy.toNat.testBit (p.val / 25) then s.reject off
    else ({ s with stStone := BitVec.ofNat 7 p.val, stBusy := s.stBusy ||| (1 <<< (p.val / 25)) }.setStone p
      (freshStone .testing none 0)).keep := by
  have stone : bitsOf (2 ^ 30 + p.val) 6 0 = p.val := by
    rw [bitsOf, pow_zero, Nat.div_one]
    show (2 ^ 30 + p.val) % 128 = p.val
    omega
  have act : bitsOf (2 ^ 30 + p.val) 31 30 = 1 := by
    show (2 ^ 30 + p.val) / 2 ^ 30 % 4 = 1
    omega
  have legal : ¬(decide (p.val > 99) || decide (1 = 3)) = true := by
    rw [decide_eq_false (by omega), decide_eq_false (by decide)]
    decide
  rw [State.writeStoneCmd]
  simp only [stone, act, if_neg legal]
  rfl

/-- STONE_CMD with ACTION 2. -/
theorem State.writeStoneCmd_retire (s : State) (off : Nat) (p : StoneP) : s.writeStoneCmd off (2 ^ 31 + p.val) =
    if !(s.stone p).state.retirable || s.stBusy.toNat.testBit (p.val / 25) then s.reject off
    else { s with stStone := BitVec.ofNat 7 p.val }.operatorRetire p := by
  have stone : bitsOf (2 ^ 31 + p.val) 6 0 = p.val := by
    rw [bitsOf, pow_zero, Nat.div_one]
    show (2 ^ 31 + p.val) % 128 = p.val
    omega
  have act : bitsOf (2 ^ 31 + p.val) 31 30 = 2 := by
    show (2 ^ 31 + p.val) / 2 ^ 30 % 4 = 2
    omega
  have legal : ¬(decide (p.val > 99) || decide (2 = 3)) = true := by
    rw [decide_eq_false (by omega), decide_eq_false (by decide)]
    decide
  rw [State.writeStoneCmd]
  simp only [stone, act, if_neg legal]
  rfl

/-- The end of a self-test. -/
theorem State.testDone_fields (s : State) (p : StoneP) (passed : Bool) (testing : (s.stone p).state = .testing) :
    ((s.testDone p passed).stone p).state =
      (if passed then (if (s.stoneIn (p.val / 25) .spare).isSome then .restorable else .spare) else .retired) ∧
    ((s.testDone p passed).stone p).logical = none ∧ (s.testDone p passed).stResult = (if passed then 1 else 2) ∧
    (s.testDone p passed).stResStone.toNat = p.val ∧ (s.testDone p passed).stBusy.toNat.testBit (p.val / 25) = false ∧
    ∀ q, q ≠ p.val → (s.testDone p passed).stone q = s.stone q := by
  have low : p.val < 128 := by omega
  have done (t : State) (v : Stone) (result : BitVec 2) (same : t.stones = s.stones) :
      ((t.setStone p v).endAction p result).stone p = v ∧ ((t.setStone p v).endAction p result).stResult = result ∧
      ((t.setStone p v).endAction p result).stResStone.toNat = p.val ∧
      ((t.setStone p v).endAction p result).stBusy.toNat.testBit (p.val / 25) = false ∧
      ∀ q, q ≠ p.val → ((t.setStone p v).endAction p result).stone q = s.stone q := by
    obtain ⟨stones, res, resStone, busy⟩ := (t.setStone p v).endAction_fields p low result
    refine ⟨(stones p).trans (t.stone_setStone p v), res, resStone, by rw [busy]; exact testBit_busy_clear _ (house_lt p), fun q apart => ?_⟩
    rw [stones q, t.stone_setStone_ne p q v apart, State.stone, same]
    rfl
  cases passed with
  | true =>
    obtain ⟨own, rest⟩ := done (s.setUnit 0 p {}) { freshStone (if (s.stoneIn (p.val / 25) .spare).isSome then .restorable else .spare) none 0 with
      reserve := (s.part (partOfHouse s.shape (p.val / 25))).reserve } 1 rfl
    have ended : s.testDone p true = ((s.setUnit 0 p {}).setStone p
        { freshStone (if (s.stoneIn (p.val / 25) .spare).isSome then .restorable else .spare) none 0 with
          reserve := (s.part (partOfHouse s.shape (p.val / 25))).reserve }).endAction p 1 := by
      rw [State.testDone, if_neg (by rw [testing]; decide), if_pos rfl]
    rw [ended]
    exact ⟨by rw [own]; rfl, by rw [own]; rfl, rest⟩
  | false =>
    obtain ⟨own, rest⟩ := done s (freshStone .retired none 0) 2 rfl
    have ended : s.testDone p false = (s.setStone p (freshStone .retired none 0)).endAction p 2 := by
      rw [State.testDone, if_neg (by rw [testing]; decide), if_neg (by decide)]
    rw [ended]
    exact ⟨by rw [own]; rfl, by rw [own]; rfl, rest⟩

/-- Settles O30: the writes by `State.writeStoneCmd_test` and `State.writeStoneCmd_retire`. -/
theorem stoneOperatorActions : Obligations.StoneOperatorActions := by
  intro s p passed st
  have low : p.val < 128 := by omega
  have effects (ready : s.cfgReady = true) : exec (.stoneTest p) s = .next (s.writeStoneCmd 0x1003C (2 ^ 30 + p.val)).settle ∧
      exec (.stoneRetire p) s = .next (s.writeStoneCmd 0x1003C (2 ^ 31 + p.val)).settle := by
    have word (n : Nat) (fits : n < 2 ^ 32) : s.writeSetup 0x1003C 32 (BitVec.ofNat 64 n) = s.writeStoneCmd 0x1003C n := by
      rw [s.writeSetup_of_width ready (x := .stoneCmd) rfl, State.writeReg, toNat_low_word,
        toNat_ofNat_of_lt (show n < 2 ^ 64 by omega), Nat.mod_eq_of_lt fits]
    exact ⟨congrArg (fun u => Host.Outcome.next (State.settle u)) (word _ (by omega)),
      congrArg (fun u => Host.Outcome.next (State.settle u)) (word _ (by omega))⟩
  refine ⟨fun ready free => ?_, fun ready busy => ?_, fun testing => ⟨_, rfl, s.testDone_fields p passed testing⟩, fun not => ?_⟩
  · obtain ⟨test, retire⟩ := effects ready
    rw [s.writeStoneCmd_test] at test
    rw [s.writeStoneCmd_retire] at retire
    have tested {b : Bool} (known : st.testable = b) : (!(s.stone p).state.testable || s.stBusy.toNat.testBit (p.val / 25)) = !b := by
      rw [show (s.stone p).state.testable = b from known, free, Bool.or_false]
    have retired {b : Bool} (known : st.retirable = b) : (!(s.stone p).state.retirable || s.stBusy.toNat.testBit (p.val / 25)) = !b := by
      rw [show (s.stone p).state.retirable = b from known, free, Bool.or_false]
    refine ⟨fun may => ?test, fun not => ?noTest, fun may => ?retire, fun active => ?retireActive, fun not => ?noRetire⟩
    case test =>
      have known : st.testable = true := by rcases may with h | h | h <;> rw [h] <;> rfl
      rw [tested known, if_neg (by decide)] at test
      exact ⟨_, test, State.stone_setStone _ p _, testBit_busy_set _ (house_lt p), toNat_ofNat_of_lt low,
        fun q apart => State.stone_setStone_ne _ p q _ apart⟩
    case noTest =>
      have known : st.testable = false := by rcases not with h | h | h | h <;> rw [h] <;> rfl
      rw [test, tested known, if_pos (by decide)]
    case retire =>
      have known : st.retirable = true := by rcases may with h | h <;> rw [h] <;> rfl
      have idle : ¬(s.stone p).state = .active := by
        show ¬st = .active
        rcases may with h | h <;> rw [h] <;> decide
      rw [retired known, if_neg (by decide), State.operatorRetire] at retire
      have cold : ¬(State.stone { s with stStone := BitVec.ofNat 7 p.val } p).state = .active := idle
      rw [if_neg cold] at retire
      obtain ⟨stones, result, resStone, -⟩ := State.endAction_fields
        (State.setStone { s with stStone := BitVec.ofNat 7 p.val } p (freshStone .retired none 0)) p low 3
      exact ⟨_, retire, (stones p).trans (State.stone_setStone _ p _), result, resStone,
        fun q apart => (stones q).trans (State.stone_setStone_ne _ p q _ apart)⟩
    case retireActive =>
      have known : st.retirable = true := by rw [active]; rfl
      rw [retired known, if_neg (by decide), State.operatorRetire] at retire
      have hot : (State.stone { s with stStone := BitVec.ofNat 7 p.val } p).state = .active := active
      rw [if_pos hot] at retire
      obtain ⟨state, logical⟩ := State.stone_retireStone { s with stStone := BitVec.ofNat 7 p.val } p
      obtain ⟨stones, result, resStone, -⟩ := State.endAction_fields
        (State.retireStone { s with stStone := BitVec.ofNat 7 p.val } p) p low 3
      exact ⟨_, retire, by rw [stones p]; exact state, by rw [stones p]; exact logical, result, resStone⟩
    case noRetire =>
      have known : st.retirable = false := by rcases not with h | h | h | h <;> rw [h] <;> rfl
      rw [retire, retired known, if_pos (by decide)]
  · obtain ⟨test, retire⟩ := effects ready
    rw [test, retire, s.writeStoneCmd_test, s.writeStoneCmd_retire, busy, Bool.or_true, Bool.or_true, if_pos rfl]
    exact ⟨rfl, rfl⟩
  · have same : s.testDone p passed = s := if_pos not
    exact congrArg (fun u => Host.Outcome.next (State.settle u)) same

end Sys2Proof.Machine
end

section
/-! PROOFS. The health of stones and the fault log (R83, R392, R397, R400, R402, R406, R408, R425). -/
namespace Sys2Proof.Machine

/-! ## Commands without a side record -/

/-- No command of a list of rings awaits acknowledgements. -/
def State.NoAcks (s : State) (l : List (Nat × Nat)) : Prop :=
  ∀ x ∈ l, ∀ k st recs, s.running x.1 x.2 = some k → k.wait ≠ .acks st recs

/-- A change of a running command that adds no wait for acknowledgements. -/
theorem State.running_modRunning (s : State) (f r g q : Nat) (m : Running → Running) (k : Running)
    (run : (s.modRunning f r m).running g q = some k) : s.running g q = some k ∨ ∃ k0, s.running g q = some k0 ∧ k = m k0 := by
  unfold State.modRunning at run
  split at run
  next k0 was =>
    by_cases here : g = f ∧ q = r
    · obtain ⟨rfl, rfl⟩ := here
      rw [s.running_setRunning g q _] at run
      exact .inr ⟨k0, was, (Option.some.inj run).symm⟩
    · rw [s.running_setRunning_ne f r g q _ (not_and_or.1 here)] at run
      exact .inl run
  · exact .inl run

theorem State.NoAcks.step {fair kept : Bool} {s t : State} {l : List (Nat × Nat)} (none : s.NoAcks l)
    (step : State.EndStep fair kept s t) : t.NoAcks l := by
  intro x mem k st recs run
  have changed {u : State} {f r : Nat} {m : Running → Running} (same : u.running x.1 x.2 = s.running x.1 x.2)
      (run : (u.modRunning f r m).running x.1 x.2 = some k)
      (each : ∀ k0 : Running, k0.wait ≠ .acks st recs → (m k0).wait ≠ .acks st recs) : k.wait ≠ .acks st recs := by
    rcases u.running_modRunning f r x.1 x.2 m k run with was | ⟨k0, was, rfl⟩
    · exact none x mem k st recs (same ▸ was)
    · exact each k0 (none x mem k0 st recs (same ▸ was))
  cases step with
  | ends g q st' res => exact changed (u := s.ended) rfl run fun k0 _ ended => WaitKind.noConfusion ended
  | weir id => exact none x mem k st recs ((s.marksOnly_evalWeir id).running x.1 x.2 ▸ run)
  | apart pages =>
    refine none x mem k st recs (Eq.trans ?_ run)
    rw [State.running, State.running, State.sq, State.sq, State.fn, State.fn, pages]
  | breaks g q =>
    refine changed rfl run fun k0 was => ?_
    split
    · exact fun plan => WaitKind.noConfusion plan
    · exact was
  | flags g q fl => exact changed rfl run fun k0 was => was

theorem State.NoAcks.steps {fair kept : Bool} {s t : State} {l : List (Nat × Nat)} (none : s.NoAcks l)
    (steps : State.EndSteps fair kept s t) : t.NoAcks l := by
  induction steps with
  | refl => exact none
  | tail _ step ih => exact ih.step step

/-! ## Owners of a stone -/

/-- Steps that touch no stone, and of a ring no sequence number. -/
structure State.SameOwners (s t : State) : Prop where
  stones : t.stones = s.stones
  seq    : ∀ f r, (t.running f r).map (·.seq) = (s.running f r).map (·.seq)

theorem State.SameOwners.trans {s t u : State} (first : s.SameOwners t) (next : t.SameOwners u) : s.SameOwners u :=
  ⟨next.stones.trans first.stones, fun f r => (next.seq f r).trans (first.seq f r)⟩

theorem State.SameOwners.ownersOn {s t : State} (same : s.SameOwners t) (p : Nat) : t.ownersOn p = s.ownersOn p := by
  unfold State.ownersOn State.stone
  simp only [same.stones, same.seq]

theorem State.sameOwners_finish (s : State) (f r : Nat) (st : Status) (res : Word32) : s.SameOwners (s.finish f r st res) := by
  refine ⟨?_, fun g q => ?_⟩
  · unfold State.finish State.modRunning
    split <;> rfl
  · unfold State.finish State.modRunning
    split
    next k run =>
      by_cases here : g = f ∧ q = r
      · obtain ⟨rfl, rfl⟩ := here
        rw [State.running_setRunning, show s.running g q = some k from run]
        rfl
      · rw [s.ended.running_setRunning_ne f r g q _ (not_and_or.1 here)]
        rfl
    · rfl

theorem State.sameOwners_failResult (s : State) (d : Desc) : s.SameOwners (s.failResult d).2 := by
  unfold State.failResult
  split <;> exact ⟨rfl, fun _ _ => rfl⟩

theorem State.sameOwners_abortImages (s : State) (p : Nat) : s.SameOwners (s.abortImages p) := by
  have snapshots (u : State) (f r : Nat) (seq : Word32) (st : Status) : u.SameOwners (u.endSnapshots f r seq st) := by
    refine List.foldlRecOn (motive := u.SameOwners) _ _ ⟨rfl, fun _ _ => rfl⟩ fun v known q _ => ?_
    dsimp only
    split
    · split
      · exact known.trans ((v.sameOwners_failResult _).trans (State.sameOwners_finish _ f q st _))
      · exact known
    · exact known
  refine List.foldlRecOn (motive := s.SameOwners) _ _ ⟨rfl, fun _ _ => rfl⟩ fun u known x _ => ?_
  split
  · exact known.trans (snapshots u _ _ _ _)
  · exact known

/-! ## Dead stones (R400) -/

/-- The commands of a dead stone end: their sets there give up their pawls, then they end with STALE. -/
def State.endOwner (p : Nat) (s : State) (x : Nat × Nat) : State :=
  let mine := ((s.stone p).sets.filter (fun k => k.2.f == x.1 && k.2.r == x.2)).map (·.1)
  (mine.foldl (fun s i => s.dropTaker (.set p i)) s).endCommand x.1 x.2 .stale

/-- A stone that is SUSPECT. -/
def Stone.suspected (x : Stone) : Stone := { x with state := .suspect, logical := none, heard := false }

theorem State.declareDead_eq (s : State) (p : Nat) : ∃ r : LogRec, s.declareDead p =
    ((((s.abortImages p).ownersOn p).foldl (State.endOwner p)
      ((s.abortImages p).setStone p ((s.abortImages p).stone p).suspected)).moveOn ((s.abortImages p).stone p).logical).keep.log r := ⟨_, rfl⟩

theorem State.beside_endOwner (p : Nat) (s : State) (x : Nat × Nat) : State.Beside false s (s.endOwner p x) := by
  unfold State.endOwner
  extract_lets mine
  have dropped : State.Beside false s (mine.foldl (fun s i => s.dropTaker (.set p i)) s) :=
    List.foldlRecOn (motive := State.Beside false s) _ _ (.of_asides rfl) fun u known i _ => known.trans (u.beside_dropTaker _).weaken
  exact dropped.trans (State.beside_endCommand _ x.1 x.2 .stale)

theorem State.endSteps_endOwner (p : Nat) {s : State} {l : List (Nat × Nat)} (none : s.NoAcks l) {x : Nat × Nat} (mem : x ∈ l) :
    State.EndSteps false true s (s.endOwner p x) := by
  unfold State.endOwner
  extract_lets mine
  have dropped : State.EndSteps false true s (mine.foldl (fun s i => s.dropTaker (.set p i)) s) :=
    State.EndSteps.foldl (fun u i => u.endSteps_dropTaker _) _ _
  exact dropped.trans (State.endSteps_endCommand (.inr fun k st recs run => none.steps dropped x mem k st recs run) .stale)

theorem State.memories_endOwners (p : Nat) (l : List (Nat × Nat)) (s : State) (none : s.NoAcks l) :
    State.EndSteps false true s (l.foldl (State.endOwner p) s) := by
  refine List.foldlRecOn (motive := State.EndSteps false true s) _ _ .refl fun u known x mem => ?_
  exact known.trans (State.endSteps_endOwner p (none.steps known) mem)

/-- A stone that is declared dead, when it was ACTIVE, a SPARE or RESTORABLE. -/
theorem State.declareDead_fields (s : State) (p : Nat) : ∃ u, s.declareDead p = u ∧
    (u.stone p).state = .suspect ∧ (u.stone p).logical = none ∧ (u.stone p).heard = false ∧
    (∀ l, (s.stone p).logical = some l → u.epoch l = s.epoch l + 1 ∧
      ∀ q, (s.stone p).state = .active → s.stoneIn (l / 24) .spare = some q → q ≠ p →
        (u.stone q).state = .active ∧ (u.stone q).logical = some l ∧ (u.stone q).epoch = s.epoch l + 1) ∧
    ((∀ x ∈ s.ownersOn p, ∃ c q, s.running x.1 x.2 = some c ∧ c.wait = .plan q) → u.mem = s.mem ∧ u.hostMem = s.hostMem) := by
  obtain ⟨r, declared⟩ := s.declareDead_eq p
  have imaged : State.EndSteps false true s (s.abortImages p) := s.endSteps_abortImages p
  have owners := (s.sameOwners_abortImages p).ownersOn p
  rw [owners] at declared
  generalize s.abortImages p = t at declared imaged
  have before := imaged.beside
  have own : (t.setStone p (t.stone p).suspected).stone p = (t.stone p).suspected := t.stone_setStone p _
  have ended : State.Beside false (t.setStone p (t.stone p).suspected)
      ((s.ownersOn p).foldl (State.endOwner p) (t.setStone p (t.stone p).suspected)) :=
    List.foldlRecOn (motive := State.Beside false _) _ _ (.of_asides rfl) fun u known x _ => known.trans (u.beside_endOwner p x)
  refine ⟨_, rfl, ?_⟩
  rw [declared]
  have memories : (∀ x ∈ s.ownersOn p, ∃ c q, s.running x.1 x.2 = some c ∧ c.wait = .plan q) →
      ((s.ownersOn p).foldl (State.endOwner p) (t.setStone p (t.stone p).suspected)).mem = s.mem ∧
      ((s.ownersOn p).foldl (State.endOwner p) (t.setStone p (t.stone p).suspected)).hostMem = s.hostMem := by
    intro plans
    have none : s.NoAcks (s.ownersOn p) := fun x mem k st recs run acks => by
      obtain ⟨c, q, run', plan⟩ := plans x mem
      obtain rfl := Option.some.inj (run.symm.trans run')
      exact WaitKind.noConfusion (acks.symm.trans plan)
    have quiet : (t.setStone p (t.stone p).suspected).NoAcks (s.ownersOn p) := fun x mem k st recs run => none.steps imaged x mem k st recs run
    obtain ⟨mem, host⟩ := (State.memories_endOwners p _ _ quiet).beside.memories rfl
    obtain ⟨mem', host'⟩ := before.memories rfl
    exact ⟨mem.trans mem', host.trans host'⟩
  generalize (s.ownersOn p).foldl (State.endOwner p) (t.setStone p (t.stone p).suspected) = e at ended memories
  have logical : (t.stone p).logical = (s.stone p).logical := before.logical p
  have suspect : (e.stone p).state = .suspect := by rw [ended.state p, own]; rfl
  have recorded := State.recorded_keep_log (e.moveOn (t.stone p).logical) r
  have still : (e.moveOn (t.stone p).logical).stone p = e.stone p := State.stone_moveOn_of_other (by rw [suspect]; decide) _
  refine ⟨by rw [recorded.stone p, still, suspect], by rw [recorded.stone p, still, ended.logical p, own]; rfl,
    by rw [recorded.stone p, still, ended.heard p, own]; rfl, fun l carried => ?_, fun plans => ?_⟩
  · have epoch : e.epoch l = s.epoch l := by
      rw [State.epoch, ended.epochs]
      exact congrArg (fun t => Table.get 0 t l) before.epochs
    rw [logical, carried] at recorded ⊢
    refine ⟨by rw [recorded.epoch l, State.moveOn, State.epoch_rebind, epoch], fun q active spare apart => ?_⟩
    have spares (x : Nat) : ((e.stone x).state == .spare) = ((s.stone x).state == .spare) := by
      by_cases here : x = p
      · rw [here, suspect, active]
        rfl
      · rw [ended.state x, t.stone_setStone_ne p x _ here, before.state x]
    have found : e.stoneIn (l / 24) .spare = some q := (State.stoneIn_congr spares _).trans spare
    rw [recorded.stone q, State.moveOn, State.stone_rebind_of_spare found, epoch]
    exact ⟨rfl, rfl, rfl⟩
  · obtain ⟨mem, host⟩ := memories plans
    have moved : (e.moveOn (t.stone p).logical).mem = e.mem ∧ (e.moveOn (t.stone p).logical).hostMem = e.hostMem := by
      unfold State.moveOn State.rebind
      split
      · dsimp only
        split <;> exact ⟨rfl, rfl⟩
      · exact ⟨rfl, rfl⟩
    exact ⟨recorded.mem.trans (moved.1.trans mem), recorded.host.trans (moved.2.trans host)⟩

/-! ## MILLER_SCAN (R402) -/

/-- Does a scan quarantine this stone? -/
def State.scanned (s : State) (q : Nat) : Stone :=
  if (s.stone q).state = .suspect ∧ ((s.stone q).heard = true ∨ (s.unit 0 q).stale ≠ 0) then { state := .quarantined } else s.stone q

/-- One stone of a scan. -/
def State.scanStone (s : State) (p : Nat) : State :=
  if (s.stone p).state = .suspect ∧ ((s.stone p).heard ∨ (s.unit 0 p).stale ≠ 0) then
    ((s.setStone p (freshStone .quarantined none 0)).keep).log
      { kind := kindQuarantined, cls := 0, unit := BitVec.ofNat 16 p, count := ((s.unit 0 p).window).setWidth 32 }
  else s

theorem State.scanStone_fields (s : State) (p : Nat) : (s.scanStone p).stone p = s.scanned p ∧
    (∀ q, q ≠ p → (s.scanStone p).stone q = s.stone q) ∧ (s.scanStone p).units = s.units := by
  unfold State.scanStone State.scanned
  split
  · have recorded (r : LogRec) := State.recorded_keep_log (s.setStone p (freshStone .quarantined none 0)) r
    refine ⟨?_, fun q apart => ?_, (recorded _).units⟩
    · rw [(recorded _).stone p, s.stone_setStone]
      rfl
    · rw [(recorded _).stone q, s.stone_setStone_ne p q _ apart]
  · exact ⟨rfl, fun q _ => rfl, rfl⟩

/-- After the first `n` stones of a scan. -/
theorem State.scan_first (s : State) (n : Nat) : (∀ q < n, ((List.range n).foldl State.scanStone s).stone q = s.scanned q) ∧
    (∀ q, n ≤ q → ((List.range n).foldl State.scanStone s).stone q = s.stone q) ∧
    ((List.range n).foldl State.scanStone s).units = s.units := by
  induction n with
  | zero => exact ⟨fun q low => absurd low (Nat.not_lt_zero q), fun q _ => rfl, rfl⟩
  | succ n ih =>
    obtain ⟨done, open_, units⟩ := ih
    rw [List.range_succ, List.foldl_append, List.foldl_cons, List.foldl_nil]
    generalize (List.range n).foldl State.scanStone s = t at done open_ units
    obtain ⟨own, others, units'⟩ := t.scanStone_fields n
    have next : t.scanned n = s.scanned n := by
      rw [State.scanned, State.scanned, open_ n (Nat.le_refl n), State.unit, units]
      rfl
    refine ⟨fun q low => ?_, fun q high => ?_, units'.trans units⟩
    · by_cases here : q = n
      · rw [here, own, next]
      · rw [others q here, done q (by omega)]
    · rw [others q (by omega), open_ q (by omega)]

/-! ## FAULT_WINDOW_BOUNDARY and the log (R392, R406, R408) -/

/-- A unit count as a window's end leaves it. -/
def UnitCount.afterWindow (x : UnitCount) : UnitCount := { x with window := 0, logged := 0 }

theorem State.windowEnds_units (s : State) :
    s.windowEnds.units = (s.units.map (fun c => (c.1, c.2.afterWindow))).filter (fun c => c.2 != ({} : UnitCount)) := rfl

theorem State.windowEnds_fields (s : State) : (∀ c i, (s.windowEnds.unit c i).window = 0) ∧
    (∀ k y, (k, y) ∈ s.windowEnds.units → ∃ x, (k, x) ∈ s.units ∧ y = x.afterWindow) ∧
    (∀ k x, (k, x) ∈ s.units → (k, x.afterWindow) ∈ s.windowEnds.units ∨ x.afterWindow = ({} : UnitCount)) := by
  have from_ (k : Nat) (y : UnitCount) (listed : (k, y) ∈ s.windowEnds.units) : ∃ x, (k, x) ∈ s.units ∧ y = x.afterWindow := by
    rw [s.windowEnds_units] at listed
    obtain ⟨c, mem, same⟩ := List.mem_map.1 (List.mem_of_mem_filter listed)
    obtain ⟨rfl, rfl⟩ := Prod.mk.inj same
    exact ⟨c.2, mem, rfl⟩
  refine ⟨fun c i => ?_, from_, fun k x listed => ?_⟩
  · rcases Table.get_mem {} s.windowEnds.units (c * 1024 + i) with default | listed
    · rw [State.unit, default]
    · obtain ⟨x, -, same⟩ := from_ _ _ listed
      exact congrArg UnitCount.window same
  · by_cases fresh : x.afterWindow = ({} : UnitCount)
    · exact .inr fresh
    · refine .inl ?_
      rw [s.windowEnds_units]
      exact List.mem_filter.2 ⟨List.mem_map.2 ⟨(k, x), listed, rfl⟩, bne_iff_ne.2 fresh⟩

/-- The flash, the queue and the alert after a record has reached flash. -/
theorem State.recordReached_fields (s : State) : s.recordReached.flash = s.flash ∧ s.recordReached.logQueue = s.logQueue ∧
    s.recordReached.alert = true ∧ s.recordReached.logNew = true ∧
    ((s.fn 0).resetting = false → (s.recordReached.fn 0).cause.fault = true) := by
  have pulsed : ∃ g, State.debugPulse { s with alert := true, logNew := true } = { s with alert := true, logNew := true, gpio := g } := by
    refine List.foldlRecOn (motive := fun u : State => ∃ g, u = { s with alert := true, logNew := true, gpio := g }) _ _ ⟨_, rfl⟩
      fun u known g _ => ?_
    obtain ⟨pins, rfl⟩ := known
    split
    · exact ⟨_, rfl⟩
    · exact ⟨pins, rfl⟩
  obtain ⟨pins, pulsed⟩ := pulsed
  have told : s.recordReached = State.notice { s with alert := true, logNew := true, gpio := pins } 0 .fault := congrArg (fun u => State.notice u 0 .fault) pulsed
  obtain ⟨fns, msgs, rest⟩ := (State.noticed_notice { s with alert := true, logNew := true, gpio := pins } 0 .fault).rest
  refine ⟨by rw [told, rest], by rw [told, rest], by rw [told, rest], by rw [told, rest], fun up => ?_⟩
  rw [told]
  exact congrArg Notices.fault (State.cause_notice { s with alert := true, logNew := true, gpio := pins } 0 .fault up)

theorem State.logProgrammed_fields (s : State) (x : LogRec) (xs : List LogRec) (queued : s.logQueue = x :: xs) :
    s.logProgrammed.flash.log = ({ x with seq := s.logEnd + 1 } :: s.flash.log).take 4095 ∧ s.logProgrammed.logQueue.length = xs.length ∧
    s.logProgrammed.alert = true ∧ s.logProgrammed.logNew = true ∧
    ((s.fn 0).resetting = false → (s.logProgrammed.fn 0).cause.fault = true) := by
  cases xs with
  | nil =>
    obtain ⟨flash, queue, alert, new, told⟩ := State.recordReached_fields { s.flashRecord x with logQueue := [] }
    have done : s.logProgrammed = State.recordReached { s.flashRecord x with logQueue := [] } := by rw [State.logProgrammed, queued]
    rw [done]
    exact ⟨by rw [flash]; rfl, by rw [queue], alert, new, told⟩
  | cons y ys =>
    obtain ⟨flash, queue, alert, new, told⟩ := State.recordReached_fields
      { s.flashRecord x with logQueue := { y with lost := y.lost + s.logLost } :: ys, logLost := 0 }
    have done : s.logProgrammed = State.recordReached
        { s.flashRecord x with logQueue := { y with lost := y.lost + s.logLost } :: ys, logLost := 0 } := by
      rw [State.logProgrammed, queued]
      rfl
    rw [done]
    exact ⟨by rw [flash]; rfl, by rw [queue]; rfl, alert, new, told⟩

/-- Settles O31, event by event. -/
theorem healthEventsFollowTheStoneMap : Obligations.HealthEventsFollowTheStoneMap := by
  intro s p st
  refine ⟨rfl, fun run unretired unquarantined => ?rotate, fun held => ?noRotate, fun run live => ?dead, fun not => ?noDead,
    fun up => ⟨s.scan, congrArg Host.Outcome.next (if_pos up), (s.scan_first 100).1⟩, ?window,
    fun x xs up queued => ⟨s.logProgrammed, congrArg Host.Outcome.next (if_pos up), s.logProgrammed_fields x xs queued⟩⟩
  case rotate =>
    have clocked : s.clocked p = true := by
      simp only [State.clocked, run, beq_self_eq_true, Bool.true_and, Bool.and_eq_true, bne_iff_ne]
      exact ⟨unretired, unquarantined⟩
    exact congrArg Host.Outcome.next (if_pos clocked)
  case noRotate =>
    have still : ¬s.clocked p = true := by
      simp only [State.clocked, Bool.and_eq_true, beq_iff_eq, bne_iff_ne]
      rintro ⟨⟨run, unretired⟩, unquarantined⟩
      rcases held with off | retired | quarantined
      · exact off run
      · exact unretired retired
      · exact unquarantined quarantined
    exact congrArg Host.Outcome.next (if_neg still)
  case dead =>
    obtain ⟨u, declared, state, logical, heard, moved, memories⟩ := s.declareDead_fields p
    have effect : exec (.stoneDeadDeclared p) s = .next (s.declareDead p) := by
      show Host.Outcome.next (if s.power ≠ .run then s else match (s.stone p).state with
        | .active => s.declareDead p | .spare => s.declareDead p | .restorable => s.declareDead p | _ => s) = _
      rw [if_neg (not_not.2 run)]
      rcases live with h | h | h <;> rw [show (s.stone p).state = _ from h]
    refine ⟨u, effect.trans (congrArg Host.Outcome.next declared), state, logical, heard, fun l carried => ?_, memories⟩
    obtain ⟨epoch, spare⟩ := moved l carried
    exact ⟨epoch, fun q _ => spare q⟩
  case noDead =>
    show Host.Outcome.next (if s.power ≠ .run then s else _) = _
    rcases not with off | ⟨a, b, c⟩
    · rw [if_pos off]
    · split
      · rfl
      · cases here : (s.stone p).state with
        | active => exact absurd here a
        | spare => exact absurd here b
        | restorable => exact absurd here c
        | retired | suspect | quarantined | testing => rfl
  case window =>
    obtain ⟨clear, from_, into⟩ := s.windowEnds_fields
    exact ⟨s.windowEnds, rfl, rfl, clear, from_, into, rfl, rfl⟩

end Sys2Proof.Machine
end

section
/-! PROOFS. Reads of device memory in a module without stored errors (R158 to R160, R390), in whatever pages the bytes lie. -/
namespace Sys2Proof.Machine

/-! ## Work whose answer the state decides -/

section
variable {α β : Type}

/-- Where no stored error lies in the module, the work changes nothing and its answer depends on the state alone. -/
def Run.Reads (m : Run α) : Prop := ∀ e : Eng, e.s.ecc = [] → m.run.run e = ((m.run.run { s := e.s }).1, e)

theorem Run.reads_of_const {m : Run α} {y : State → Except Stop α} (const : ∀ e : Eng, e.s.ecc = [] → m.run.run e = (y e.s, e)) :
    Run.Reads m := fun e clean => by rw [const e clean, const { s := e.s } clean]

theorem Run.reads_pure (x : α) : Run.Reads (pure x : Run α) := fun _ _ => rfl
theorem Run.reads_throw (x : Stop) : Run.Reads (throw x : Run α) := fun _ _ => rfl
theorem Run.reads_getS : Run.Reads getS := fun _ _ => rfl

theorem Run.bind_of_error {m : Run α} {e e' : Eng} {x : Stop} (first : m.run.run e = (.error x, e')) (k : α → Run β) :
    (m >>= k).run.run e = (.error x, e') := by
  rw [ExceptT.run_bind, StateT.run_bind, first]
  rfl

theorem Run.reads_bind {m : Run α} {k : α → Run β} (first : Run.Reads m) (rest : ∀ x, Run.Reads (k x)) : Run.Reads (m >>= k) := by
  intro e clean
  have here := first e clean
  have there := first { s := e.s } clean
  cases answer : (m.run.run { s := e.s }).1 with
  | ok x =>
    rw [answer] at here there
    rw [Run.bind_of_ok here, Run.bind_of_ok there]
    exact rest x e clean
  | error x =>
    rw [answer] at here there
    rw [Run.bind_of_error here, Run.bind_of_error there]

theorem Run.reads_ite {c : Prop} [Decidable c] {x y : Run α} (yes : Run.Reads x) (no : Run.Reads y) : Run.Reads (if c then x else y) := by
  split
  · exact yes
  · exact no

theorem Run.reads_check {c : Prop} [Decidable c] (x : Stop) {k : PUnit → Run α} (rest : Run.Reads (k ⟨⟩)) :
    Run.Reads (if c then (throw x : Run PUnit) >>= k else k ⟨⟩) :=
  Run.reads_ite (Run.reads_bind (Run.reads_throw x) fun _ => rest) rest

end

/-! ## Translations -/

theorem mmuBuf_reads (a : Acc) : Run.Reads (mmuBuf a) :=
  Run.reads_of_const (y := fun _ => .ok ()) fun e clean => mmuBuf_of_clean a e clean

theorem readStruct_reads (a : Acc) (va pa n : Nat) : Run.Reads (readStruct a va pa n) :=
  Run.reads_of_const (y := fun s => .ok (s.mem.readN pa n)) fun e clean => readStruct_of_clean a va pa n e clean

theorem walk_leaf_reads (e : Word64) (bits : Nat) {bad : Run (Word64 × Nat)} (fails : Run.Reads bad) :
    Run.Reads (walk.leaf e bits bad) :=
  Run.reads_ite fails (Run.reads_ite fails (Run.reads_pure _))

theorem walk_reads (a : Acc) (va level table : Nat) : Run.Reads (walk a va level table) := by
  induction level generalizing table with
  | zero =>
    unfold walk
    refine Run.reads_bind Run.reads_getS fun s => Run.reads_check _ (Run.reads_bind (readStruct_reads a va _ 8) fun bs => ?_)
    exact Run.reads_ite (Run.reads_throw _) (walk_leaf_reads _ _ (Run.reads_throw _))
  | succ l ih =>
    unfold walk
    refine Run.reads_bind Run.reads_getS fun s => Run.reads_check _ (Run.reads_bind (readStruct_reads a va _ 8) fun bs => ?_)
    refine Run.reads_ite (Run.reads_throw _) (Run.reads_ite ?largePage ?nextLevel)
    case largePage => exact Run.reads_ite (Run.reads_throw _) (walk_leaf_reads _ _ (Run.reads_throw _))
    case nextLevel => exact Run.reads_ite (Run.reads_throw _) (ih _)

theorem translate_reads (a : Acc) (write : Bool) (va : Nat) : Run.Reads (translate a write va) := by
  unfold translate
  refine Run.reads_bind (mmuBuf_reads a) fun _ => Run.reads_bind Run.reads_getS fun s =>
    Run.reads_check _ (Run.reads_bind (walk_reads a va 3 _) fun leaf => Run.reads_bind Run.reads_getS fun s => Run.reads_check _ ?_)
  refine Run.reads_ite ?host (Run.reads_ite ?remote ?device)
  case host => exact Run.reads_check _ (Run.reads_pure _)
  case remote => exact Run.reads_check _ (Run.reads_pure _)
  case device =>
    refine Run.reads_check _ ?_
    split
    · exact Run.reads_ite (Run.reads_pure _) (Run.reads_throw _)
    · exact Run.reads_pure _

/-- Where a run of bytes reaches device memory, so does each of its bytes, whatever the engine has done before. -/
theorem State.Reaches.leads {s : State} {a : Acc} {write : Bool} {va n pa i : Nat} (reach : s.Reaches a write va n pa)
    (clean : s.ecc = []) (inside : i < n) {e : Eng} (here : e.s = s) :
    ∃ nc, (translate a write ((va + i) % 2 ^ 48)).run.run e = (.ok (.dev (pa + i), nc), e) := by
  obtain ⟨nc, e', run⟩ := reach i inside
  have answer : ((translate a write ((va + i) % 2 ^ 48)).run.run { s := s }).1 = .ok (.dev (pa + i), nc) := congrArg Prod.fst run
  refine ⟨nc, ?_⟩
  rw [translate_reads a write _ e (by rw [here]; exact clean), here, answer]

theorem State.Reaches.sub {s : State} {a : Acc} {write : Bool} {va n pa o m : Nat} (reach : s.Reaches a write va n pa) (inside : o + m ≤ n) :
    s.Reaches a write (va + o) m (pa + o) := fun i low => by
  obtain ⟨nc, e, run⟩ := reach (o + i) (by omega)
  exact ⟨nc, e, by rw [Nat.add_assoc, Nat.add_assoc]; exact run⟩

/-! ## The pieces of a run of bytes (R160) -/

/-- The pieces of a run, first to last: each begins where the one before it ends, and none crosses a page. -/
theorem pieces_flatMap {α : Type} (g : Nat → Nat → List α) (join : ∀ i m k, g i m ++ g (i + m) k = g i (m + k)) (none : g 0 0 = [])
    (va n : Nat) : (pieces va n).flatMap (fun x => g x.2.1 x.2.2) = g 0 n := by
  unfold pieces
  split
  next empty => rw [empty, none]; rfl
  next some =>
    extract_lets first
    have upTo (k : Nat) (few : k ≤ (va + n - 1) / 4096 + 1 - first) :
        ((List.range k).map (fun i =>
          (max va ((first + i) * 4096) % 2 ^ 48, max va ((first + i) * 4096) - va,
            min (va + n) ((first + i + 1) * 4096) - max va ((first + i) * 4096)))).flatMap (fun x => g x.2.1 x.2.2) =
        g 0 (min (va + n) ((first + k) * 4096) - va) := by
      have low : first * 4096 ≤ va := Nat.div_mul_le_self va 4096
      induction k with
      | zero =>
        have empty : min (va + n) ((first + 0) * 4096) - va = 0 := by omega
        rw [empty, none]
        rfl
      | succ k ih =>
        rw [List.range_succ, List.map_append, List.flatMap_append, ih (by omega)]
        have begun : max va ((first + k) * 4096) - va = 0 + (min (va + n) ((first + k) * 4096) - va) := by omega
        have length : min (va + n) ((first + k) * 4096) - va +
            (min (va + n) ((first + k + 1) * 4096) - max va ((first + k) * 4096)) = min (va + n) ((first + (k + 1)) * 4096) - va := by
          omega
        rw [List.map_singleton, List.flatMap_singleton]
        dsimp only
        rw [begun, join, length]
    have all : min (va + n) ((first + ((va + n - 1) / 4096 + 1 - first)) * 4096) - va = n := by omega
    have whole := upTo _ (Nat.le_refl _)
    rw [all] at whole
    exact whole

/-- A piece lies in its run, and its address is that of its first byte. -/
theorem mem_pieces {va n : Nat} {x : Nat × Nat × Nat} (mem : x ∈ pieces va n) :
    x.1 = (va + x.2.1) % 2 ^ 48 ∧ 0 < x.2.2 ∧ x.2.1 + x.2.2 ≤ n := by
  unfold pieces at mem
  split at mem
  · exact absurd mem List.not_mem_nil
  next some =>
    obtain ⟨i, low, rfl⟩ := List.mem_map.1 mem
    have few := List.mem_range.1 low
    have start : va / 4096 * 4096 ≤ va := Nat.div_mul_le_self va 4096
    have next : va < (va / 4096 + 1) * 4096 := by omega
    dsimp only
    refine ⟨?_, by omega, by omega⟩
    congr 1
    omega

/-! ## Reads (R390) -/

theorem Eng.clearWritten_of_clean {e : Eng} (clean : e.s.ecc = []) : e.clearWritten = e := by
  obtain ⟨s, flags, device, wrote⟩ := e
  have drop : Table.drop s.ecc (eccWritten wrote) = s.ecc := by rw [show s.ecc = [] from clean]; rfl
  simp only [Eng.clearWritten, drop]

theorem readPiece_of_dev {a : Acc} {x : Nat × Nat × Nat} {pa : Nat} {nc : Bool} {e : Eng} (clean : e.s.ecc = [])
    (leads : (translate a false x.1).run.run e = (.ok (.dev pa, nc), e)) :
    (readPiece a x).run.run e = (.ok (e.s.mem.readN pa x.2.2), e) := by
  have here : getS.run.run e = (.ok e.s, e) := rfl
  rw [readPiece, Run.bind_of_ok leads]
  dsimp only
  rw [Run.bind_of_ok here, State.devRead_of_clean clean]
  obtain ⟨s, flags, device, wrote⟩ := e
  cases device <;> rfl

theorem Run.mapM_of_ok {α β : Type} {f : α → Run β} {y : α → β} {e : Eng} (l : List α) (each : ∀ x ∈ l, (f x).run.run e = (.ok (y x), e)) :
    (l.mapM f).run.run e = (.ok (l.map y), e) := by
  induction l with
  | nil => rfl
  | cons x l ih =>
    have rest := ih fun z mem => each z (List.mem_cons_of_mem x mem)
    rw [List.mapM_cons, Run.bind_of_ok (each x List.mem_cons_self), Run.bind_of_ok rest]
    rfl

theorem Memory.readN_append (m : Memory) (a n k : Nat) : m.readN a n ++ m.readN (a + n) k = m.readN a (n + k) := by
  rw [Memory.readN_eq, Memory.readN_eq, Memory.readN_eq, List.range_add, List.map_append, List.map_map]
  congr 1
  exact List.map_congr_left fun i _ => congrArg m.read (Nat.add_assoc a n i)

section
variable {s : State} {a : Acc} {va n pa : Nat} (clean : s.ecc = []) (reach : s.Reaches a false va n pa) {e : Eng} (here : e.s = s)
include clean reach here

/-- A read of bytes that lie in device memory answers them and changes nothing. -/
theorem readV_of_reaches : (readV a va n).run.run e = (.ok (s.mem.readN pa n), e) := by
  have piece (x : Nat × Nat × Nat) (mem : x ∈ pieces va n) :
      (readPiece a x).run.run e = (.ok (s.mem.readN (pa + x.2.1) x.2.2), e) := by
    obtain ⟨addr, some, inside⟩ := mem_pieces mem
    obtain ⟨nc, leads⟩ := reach.leads clean (i := x.2.1) (by omega) here
    rw [← addr] at leads
    rw [readPiece_of_dev (by rw [here]; exact clean) leads, here]
  have flat := pieces_flatMap (fun o m => s.mem.readN (pa + o) m)
    (fun i m k => by rw [← Nat.add_assoc]; exact Memory.readN_append s.mem (pa + i) m k) (by rw [Memory.readN_eq]; rfl) va n
  rw [readV, Run.bind_of_ok (Run.mapM_of_ok _ piece), ← Nat.add_zero pa, ← flat, List.flatMap]
  rfl

theorem readSV_of_reaches : (readSV a va n).run.run e = (.ok (s.mem.readN pa n), e) := by
  let cleared : Eng := { e with device := false }
  have before : (get : Run Eng).run.run e = (.ok e, e) := rfl
  have clear : (modify (fun x : Eng => { x with device := false }) : Run PUnit).run.run e = (.ok (), cleared) := rfl
  have read : (readV a va n).run.run cleared = (.ok (s.mem.readN pa n), cleared) := readV_of_reaches clean reach here
  rw [readSV, Run.bind_of_ok before, Run.bind_of_ok clear, Run.bind_of_ok read]
  rfl

end

section
variable {s : State} {a : Acc} {va pa : Nat} (clean : s.ecc = [])
include clean

theorem readWords_of_reaches {n : Nat} (reach : s.Reaches a false va (8 * n) pa) {e : Eng} (here : e.s = s) :
    (readWords a va n).run.run e = (.ok (wordsOf (s.mem.readN pa (8 * n)) n), e) := by
  rw [readWords, Run.bind_of_ok (readSV_of_reaches clean reach here)]
  rfl

/-- The outcome of work that reads and changes nothing. -/
theorem Run.exec_of_run {α : Type} {m : Run α} {x : Except Stop α} {fl : Flags} (run : m.run.run { s := s, flags := fl } = (x, { s := s, flags := fl })) :
    m.exec s fl = (x, { s := s, flags := fl }) := by
  rw [Run.exec, run, Eng.clearWritten_of_clean (e := { s := s, flags := fl }) clean]

theorem readWords_exec {n : Nat} (reach : s.Reaches a false va (8 * n) pa) :
    (readWords a va n).exec s = (.ok (wordsOf (s.mem.readN pa (8 * n)) n), { s := s }) :=
  Run.exec_of_run clean (readWords_of_reaches clean reach rfl)

theorem readV_exec {n : Nat} (reach : s.Reaches a false va n pa) :
    (readV a va n).exec s = (.ok (s.mem.readN pa n), { s := s }) :=
  Run.exec_of_run clean (readV_of_reaches clean reach rfl)

end

end Sys2Proof.Machine
end

section
/-! PROOFS. DESCRIPTOR_FETCH (R254, R344, R347, R350, R363): the descriptor at HEAD, and the checks that come first. -/
namespace Sys2Proof.Machine

/-! ## A command that is turned away (R364) -/

/-- A check turns the running command away: its ring keeps the rest, and both memories stay. -/
theorem State.fail_fields {t : State} {f r : Nat} {c : Running} (run : t.running f r = some c) (st : Status) : ∃ res,
    (t.fail f r st).sq f r =
      { t.sq f r with running := some { c with done := some (st, res), flags := {}, wait := .none, doneAt := (t.failResult c.desc).2.ends } } ∧
    (t.fail f r st).mem = t.mem ∧ (t.fail f r st).hostMem = t.hostMem := by
  have pages := t.failResult_pages c.desc
  have failed : t.fail f r st = (t.failResult c.desc).2.ended.setRunning f r
      (some { c with done := some (st, (t.failResult c.desc).1), flags := {}, wait := .none, doneAt := (t.failResult c.desc).2.ends }) := by
    rw [State.fail, run]
  rw [failed]
  generalize t.failResult c.desc = x at pages
  have ring : x.2.ended.sq f r = t.sq f r := by
    show Table.get {} (Table.get {} x.2.fns f).sqs r = _
    rw [State.fns_of_pages pages]
    rfl
  refine ⟨x.1, ?_, congrArg (fun y => y.2.1) pages, congrArg (fun y => y.2.2.1) pages⟩
  rw [State.setRunning, State.sq_setSq, ring]

/-! ## The fetch -/

/-- The ring after its fetch, running `c`. -/
def State.fetched (s : State) (f r : Nat) (q : SubRing) (c : Running) : State :=
  (s.setSq f r { s.sq f r with head := q.head + 1, seqNext := q.seqNext + 1, running := some c }).evalWeir (.sq (fnId f) (ringIx r))

theorem State.fetched_fields (s : State) (f r : Nat) (q : SubRing) (c : Running) : ∃ w,
    (s.fetched f r q c).sq f r = { s.sq f r with head := q.head + 1, seqNext := q.seqNext + 1, running := some c, weir := w } ∧
    (s.fetched f r q c).mem = s.mem ∧ (s.fetched f r q c).hostMem = s.hostMem ∧ (s.fetched f r q c).binds = s.binds := by
  have marked := State.marksOnly_evalWeir
    (s.setSq f r { s.sq f r with head := q.head + 1, seqNext := q.seqNext + 1, running := some c }) (.sq (fnId f) (ringIx r))
  obtain ⟨w, ring⟩ := marked.sq f r
  obtain ⟨fns, msgs, houses, parts, rest⟩ := marked.rest
  refine ⟨w, ?_, ?_, ?_, ?_⟩
  · rw [State.fetched, ring, s.sq_setSq]
  · rw [State.fetched, rest]; rfl
  · rw [State.fetched, rest]; rfl
  · rw [State.fetched, rest]; rfl

/-- Where the descriptor at HEAD stands. -/
def SubRing.headAddr (q : SubRing) : Nat := q.base.toNat * 4096 + q.head.toNat % 2 ^ q.log2.toNat * 64

section
variable {s : State} {f r : Nat} (can : s.canFetch f r = true) {d : Desc} {e : Eng}
  (read : (readWords (ringAcc f r) (s.sq f r).headAddr 8).exec s = (.ok d, e))
include can read

theorem State.fetch_of_ok : s.fetch f r =
    (if checkDesc d = none then (e.s.fetched f r (s.sq f r) { seq := (s.sq f r).seqNext, desc := d }).fail f r .malformed
     else if (s.sq f r).overshot && !((e.s.fetched f r (s.sq f r) { seq := (s.sq f r).seqNext, desc := d }).bind f).overOk then
      (e.s.fetched f r (s.sq f r) { seq := (s.sq f r).seqNext, desc := d }).fail f r .access
     else e.s.fetched f r (s.sq f r) { seq := (s.sq f r).seqNext, desc := d }) := by
  have read' : (readWords (ringAcc f r) ((s.sq f r).base.toNat * 4096 + (s.sq f r).head.toNat % (s.sq f r).entries * 64) 8).exec s = (.ok d, e) := read
  have started : (!s.canFetch f r) = false := by rw [can]; rfl
  rw [State.fetch]
  simp only [started, Bool.false_eq_true, if_false, read']
  cases checkDesc d with
  | none => rfl
  | some o => rfl

end

theorem State.fetch_of_error {s : State} {f r : Nat} (can : s.canFetch f r = true) {x : Stop} {e : Eng}
    (read : (readWords (ringAcc f r) (s.sq f r).headAddr 8).exec s = (.error x, e)) : ∃ (t : State) (res : Word32),
    t.fns = e.s.fns ∧ s.fetch f r = t.fetched f r (s.sq f r)
      { seq := (s.sq f r).seqNext, done := some (x.status, res), forceHalt := x.status != .deviceError, doneAt := e.s.ends } := by
  have read' : (readWords (ringAcc f r) ((s.sq f r).base.toNat * 4096 + (s.sq f r).head.toNat % (s.sq f r).entries * 64) 8).exec s = (.error x, e) := read
  have started : (!s.canFetch f r) = false := by rw [can]; rfl
  refine ⟨e.s.freeWord.2.ended, e.s.freeWord.1, rfl, ?_⟩
  rw [State.fetch]
  simp only [started, Bool.false_eq_true, if_false, read']
  rfl

theorem State.running_of_canFetch {s : State} {f r : Nat} (can : s.canFetch f r = true) : (s.sq f r).state = .running := by
  simp only [State.canFetch, Bool.and_eq_true, beq_iff_eq] at can
  obtain ⟨⟨⟨⟨⟨⟨⟨state, -⟩, -⟩, -⟩, -⟩, -⟩, -⟩, -⟩ := can
  exact state

/-- What an engine that only reads leaves of the rings and of the memories. -/
theorem readWords_leaves {a : Acc} {va n : Nat} {s : State} {x : Except Stop (List Word64)} {e : Eng}
    (read : (readWords a va n).exec s = (x, e)) : (∀ f r, e.s.sq f r = s.sq f r) ∧ e.s.mem = s.mem ∧ e.s.hostMem = s.hostMem ∧
    e.s.binds = s.binds := by
  have by_ : State.ByMemory true s ((readWords a va n).exec s).2.s := (readWords_byMemory a va n).exec s
  rw [read] at by_
  exact ⟨by_.sq, (by_.memories rfl).1, (by_.memories rfl).2, (congrArg State.binds by_.rest :)⟩

/-- Settles O32: the ring after the fetch by `State.fetched_fields`, the descriptor's bytes by `readWords_exec`. -/
theorem fetchTakesTheDescriptorAtHead : Obligations.FetchTakesTheDescriptorAtHead := by
  intro s f r q x
  have effect : exec (.descriptorFetch f r) s = .next (s.fetch f r).settle := rfl
  refine ⟨fun cannot => ?idle, fun d e can read => ?fetched, fun st e can read => ?faulted, fun a can clean reach => ?bytes⟩
  case idle =>
    have same : s.fetch f r = s := if_pos (by rw [cannot]; rfl)
    rw [effect, same]
  case fetched =>
    obtain ⟨rings, mem, host, binds⟩ := readWords_leaves read
    obtain ⟨w, ring, mem', host', binds'⟩ := e.s.fetched_fields f r q { seq := q.seqNext, desc := d }
    have fetch := State.fetch_of_ok can read
    have access : (q.overshot && !((e.s.fetched f r q { seq := q.seqNext, desc := d }).bind f).overOk) = true ↔
        (q.overshot = true ∧ (s.bind f).overOk = false) := by
      have same : (e.s.fetched f r q { seq := q.seqNext, desc := d }).bind f = s.bind f := by
        rw [State.bind, binds', binds]
        rfl
      rw [same, Bool.and_eq_true, Bool.not_eq_true']
    have running : (e.s.sq f r).state = .running := by rw [rings]; exact State.running_of_canFetch can
    have tail : (e.s.sq f r).tail = q.tail := by rw [rings]
    generalize e.s.fetched f r q { seq := q.seqNext, desc := d } = t at ring mem' host' fetch access
    have run : t.running f r = some { seq := q.seqNext, desc := d } := by rw [State.running, ring]
    have failed (st : Status) (ended : s.fetch f r = t.fail f r st) : ∃ (u : State) (k : Running),
        exec (.descriptorFetch f r) s = .next u.settle ∧ (u.sq f r).running = some k ∧ (u.sq f r).head = q.head + 1 ∧
        (u.sq f r).seqNext = q.seqNext + 1 ∧ (u.sq f r).tail = q.tail ∧ (u.sq f r).state = .running ∧
        k.seq = q.seqNext ∧ k.desc = d ∧ k.wait = .none ∧ k.forceHalt = false ∧ k.done.map (·.1) = some st ∧
        u.mem = s.mem ∧ u.hostMem = s.hostMem := by
      obtain ⟨res, after, memF, hostF⟩ := State.fail_fields run st
      refine ⟨t.fail f r st, _, by rw [effect, ended], by rw [after], by rw [after, ring], by rw [after, ring], ?_, ?_, rfl, rfl, rfl, rfl, rfl,
        memF.trans (mem'.trans mem), hostF.trans (host'.trans host)⟩
      · rw [after, ring]; exact tail
      · rw [after, ring]; exact running
    by_cases bad : checkDesc d = none
    · rw [if_pos bad] at fetch
      obtain ⟨u, k, eff, run', head, next, tail', state, seq, desc, wait, force, done, memU, hostU⟩ := failed .malformed fetch
      exact ⟨u, k, eff, run', head, next, tail', state, seq, desc, wait, force, by rw [if_pos bad]; exact done, memU, hostU⟩
    · rw [if_neg bad] at fetch
      by_cases barred : q.overshot = true ∧ (s.bind f).overOk = false
      · rw [if_pos (access.2 barred)] at fetch
        obtain ⟨u, k, eff, run', head, next, tail', state, seq, desc, wait, force, done, memU, hostU⟩ := failed .access fetch
        exact ⟨u, k, eff, run', head, next, tail', state, seq, desc, wait, force, by rw [if_neg bad, if_pos barred]; exact done, memU, hostU⟩
      · rw [if_neg (fun denied => barred (access.1 denied))] at fetch
        refine ⟨t, _, by rw [effect, fetch], by rw [ring], by rw [ring], by rw [ring], ?_, ?_, rfl, rfl, rfl, rfl, ?_,
          mem'.trans mem, host'.trans host⟩
        · rw [ring]; exact tail
        · rw [ring]; exact running
        · rw [if_neg bad, if_neg barred]
          rfl
  case faulted =>
    obtain ⟨t, res, -, fetch⟩ := State.fetch_of_error can read
    obtain ⟨w, ring, -⟩ := t.fetched_fields f r q
      { seq := q.seqNext, done := some (st.status, res), forceHalt := st.status != .deviceError, doneAt := e.s.ends }
    rw [← fetch] at ring
    exact ⟨s.fetch f r, _, effect, by rw [ring], by rw [ring], rfl, rfl, bne_iff_ne, rfl⟩
  case bytes =>
    intro d sound rights
    have read : (readWords (ringAcc f r) (s.sq f r).headAddr 8).exec s = (.ok d, { s := s }) := readWords_exec clean (n := 8) reach
    have fetch := State.fetch_of_ok can read
    obtain ⟨w, ring, mem, host, binds⟩ := s.fetched_fields f r q { seq := q.seqNext, desc := d }
    have allowed : ¬((s.sq f r).overshot && !((s.fetched f r (s.sq f r) { seq := (s.sq f r).seqNext, desc := d }).bind f).overOk) = true := by
      have same : (s.fetched f r q { seq := q.seqNext, desc := d }).bind f = s.bind f := by
        rw [State.bind, binds]
        rfl
      rw [same]
      rcases rights with reserved | granted
      · rw [show (s.sq f r).overshot = false from reserved, Bool.false_and]; decide
      · rw [granted, Bool.not_true, Bool.and_false]; decide
    rw [if_neg sound, if_neg allowed] at fetch
    rw [← fetch] at ring mem host
    exact ⟨s.fetch f r, effect, by rw [ring], by rw [ring], by rw [ring], mem, host⟩

end Sys2Proof.Machine
end

section
/-! PROOFS. COMPLETION_ENTRY_WRITE (R322, R343, R348, R350, R352, R353): where the entry goes, its bytes, and the rings after it. -/
namespace Sys2Proof.Machine

/-! ## A write within one page (R160) -/

theorem pieces_in_page {va n : Nat} (nonempty : 0 < n) (page : va % 4096 + n ≤ 4096) : pieces va n = [(va % 2 ^ 48, 0, n)] := by
  have one : (va + n - 1) / 4096 + 1 - va / 4096 = 1 := by omega
  have first : max va (va / 4096 * 4096) = va := by omega
  have last : min (va + n) ((va / 4096 + 1) * 4096) = va + n := by omega
  simp [pieces, one, first, last, nonempty.ne']

/-- The outcome of a write to device memory: its bytes stand there and nowhere else, and nothing else of the module's contents changes. -/
structure State.Stored (s t : State) (pa : Nat) (bs : List Byte) : Prop where
  bytes   : t.mem.readN pa bs.length = bs
  others  : ∀ b, b < pa ∨ pa + bs.length ≤ b → t.mem.read b = s.mem.read b
  host    : t.hostMem = s.hostMem
  ecc     : t.ecc = []
  engine  : State.ByMemory false s t

theorem State.stored_devStore {s : State} (clean : s.ecc = []) (noCache : Bool) (pa : Nat) (bs : List Byte) :
    s.Stored (s.devStore noCache pa bs) pa bs := by
  have contents := State.sameContents_devStore clean noCache pa bs
  have mem : (s.devStore noCache pa bs).mem = s.mem.write pa bs := contents.mem
  exact ⟨by rw [mem]; exact Memory.readN_write s.mem pa bs, fun b out => by rw [mem]; exact Memory.read_write_out s.mem pa bs b out,
    contents.hostMem, contents.ecc.trans clean, s.byMemory_devStore noCache pa bs⟩

theorem writeV_page {a : Acc} {va pa : Nat} {bs : List Byte} {nc : Bool} {e : Eng} (nonempty : 0 < bs.length)
    (page : va % 4096 + bs.length ≤ 4096) (leads : (translate a true (va % 2 ^ 48)).run.run e = (.ok (.dev pa, nc), e)) :
    (writeV a va bs).run.run e = (.ok (), { e with s := e.s.devStore nc pa bs, wrote := e.wrote ++ [(pa, bs.length)] }) := by
  rw [writeV, pieces_in_page nonempty page, Run.forM_singleton, Run.bind_of_ok leads]
  simp only [List.drop_zero, List.take_length]
  rfl

theorem writeV_in_page {s : State} {a : Acc} {va pa : Nat} {bs : List Byte} (clean : s.ecc = []) (nonempty : 0 < bs.length)
    (page : va % 4096 + bs.length ≤ 4096) (reach : s.Reaches a true va bs.length pa) : ∃ e,
    (writeV a va bs).exec s = (.ok (), e) ∧ s.Stored e.s pa bs := by
  obtain ⟨nc, leads⟩ := reach.leads clean nonempty (e := { s := s }) rfl
  have stored := State.stored_devStore clean nc pa bs
  refine ⟨{ s := s.devStore nc pa bs, wrote := [(pa, bs.length)] }, ?_, stored⟩
  rw [Run.exec, writeV_page nonempty page leads]
  exact congrArg (Prod.mk _) (Eng.clearWritten_of_clean stored.ecc)

/-! ## Notices and the cause of a faulted completion ring (R357) -/

/-- A cause bit that is set stays set. -/
theorem State.cqFault_notice {s : State} {f : Nat} (set : (s.fn f).cause.cqFault = true) (g : Nat) (c : Cause) :
    ((s.notice g c).fn f).cause.cqFault = true := by
  by_cases here : f = g
  · rw [← here]
    cases up : (s.fn f).resetting with
    | true => rw [State.notice_of_resetting up]; exact set
    | false =>
      rw [s.cause_notice f c up]
      cases c with
      | cqFault => rfl
      | weir | sqHalt | doorbell | partition | link | fault => exact set
  · rw [s.fn_notice_ne g c here]
    exact set

/-! ## What a completed command leaves (R343, R353) -/

/-- What follows the end of the command of ring (f, r) leaves of that ring, of the completion rings and of the memories. -/
structure State.Told (f r : Nat) (s t : State) : Prop where
  mem   : t.mem = s.mem
  host  : t.hostMem = s.hostMem
  sq    : t.sq f r = s.sq f r
  cq    : ∀ g c, t.cq g c = s.cq g c
  fault : (s.fn f).cause.cqFault = true → (t.fn f).cause.cqFault = true

theorem State.Told.trans {f r : Nat} {s t u : State} (first : State.Told f r s t) (next : State.Told f r t u) : State.Told f r s u :=
  ⟨next.mem.trans first.mem, next.host.trans first.host, next.sq.trans first.sq, fun g c => (next.cq g c).trans (first.cq g c),
    fun set => next.fault (first.fault set)⟩

theorem State.Told.refl (f r : Nat) (s : State) : State.Told f r s s := ⟨rfl, rfl, rfl, fun _ _ => rfl, id⟩

/-- A write to another ring of the function. -/
theorem State.told_setSq (s : State) {f r q : Nat} (other : q ≠ r) (v : SubRing) : State.Told f r s (s.setSq f q v) :=
  ⟨rfl, rfl, s.sq_setSq_ne f q f r v (.inr other.symm), fun g c => s.cq_setSq f q g c v, fun set => by
    rw [State.setSq, s.fn_setFn]
    exact set⟩

theorem State.told_modRunning (s : State) {f r q : Nat} (other : q ≠ r) (m : Running → Running) :
    State.Told f r s (s.modRunning f q m) := by
  unfold State.modRunning
  split
  · exact s.told_setSq other _
  · exact .refl f r s

theorem State.told_finish (s : State) {f r q : Nat} (other : q ≠ r) (st : Status) (res : Word32) :
    State.Told f r s (s.finish f q st res) :=
  State.Told.trans (t := s.ended) ⟨rfl, rfl, rfl, fun _ _ => rfl, id⟩ (s.ended.told_modRunning other _)

theorem State.told_notice (s : State) (f r g : Nat) (c : Cause) : State.Told f r s (s.notice g c) := by
  have noticed := s.noticed_notice g c
  obtain ⟨fns, msgs, rest⟩ := noticed.rest
  exact ⟨by rw [rest], by rw [rest], noticed.sq f r, noticed.cq, fun set => State.cqFault_notice set g c⟩

/-- FENCEs learn of the end; the ring itself runs nothing. -/
theorem State.told_tellFences {s : State} {f r : Nat} (idle : s.running f r = none) (seq : Word32) :
    State.Told f r s (s.tellFences f r seq) := by
  refine List.foldlRecOn (motive := State.Told f r s) _ _ (.refl f r s) fun u known q _ => ?_
  dsimp only
  split
  next k run =>
    have other : q ≠ r := fun same => by
      rw [same, State.running, known.sq, ← State.running, idle] at run
      exact nomatch run
    split
    · split
      · exact known.trans (u.told_finish other _ _)
      · exact known.trans (u.told_setSq other _)
    · exact known
  · exact known

theorem State.told_unstage (s : State) (f r : Nat) (c : Running) : State.Told f r s (s.unstage c) := by
  unfold State.unstage
  split
  next h n _ =>
    have cleared : State.Told f r s (s.setHouse h { s.house h with staged := 0 }) := ⟨rfl, rfl, rfl, fun _ _ => rfl, id⟩
    refine cleared.trans ?_
    generalize s.setHouse h { s.house h with staged := 0 } = t
    rw [State.evalWeir_of_level (show t.level (.copyStaging (houseIx h)) = some _ from rfl)]
    have stepped (w : Weir) : State.Told f r t (t.setWeir (.copyStaging (houseIx h)) w) := ⟨rfl, rfl, rfl, fun _ _ => rfl, id⟩
    split
    · exact (stepped _).trans (State.told_notice _ f r _ _)
    · exact stepped _
  · exact .refl f r s

/-- The state of a ring after its command has completed. -/
def SubRing.stateAfter (q : SubRing) (halts : Bool) : SqState := if q.state = .stopping then .disabled else if halts then .halted else q.state

/-- The ring of a command that has completed, before the FENCEs learn of it. -/
def State.ringRetired (t : State) (f r : Nat) (halts : Bool) (st : Status) (notify : Bool) : State :=
  if (t.sq f r).state = .stopping then t.setSq f r { t.sq f r with running := none, state := .disabled }
  else if halts then
    let u := t.setSq f r { t.sq f r with running := none, state := .halted,
                                         haltStatus := if notify then BitVec.ofNat 8 st.code else (t.sq f r).haltStatus }
    if notify then u.notice f .sqHalt else u
  else t.setSq f r { t.sq f r with running := none }

theorem State.retire_eq (s : State) (f r : Nat) (c : Running) (halts : Bool) (st : Status) (notify : Bool) :
    s.retire f r c halts st notify = ((s.unstage c).ringRetired f r halts st notify).tellFences f r c.seq := rfl

theorem State.ringRetired_fields (t : State) (f r : Nat) (halts : Bool) (st : Status) (notify : Bool) : ∃ status,
    (t.ringRetired f r halts st notify).sq f r =
      { t.sq f r with running := none, state := (t.sq f r).stateAfter halts, haltStatus := status } ∧
    (t.ringRetired f r halts st notify).mem = t.mem ∧ (t.ringRetired f r halts st notify).hostMem = t.hostMem ∧
    (∀ g n, (t.ringRetired f r halts st notify).cq g n = t.cq g n) ∧
    ((t.fn f).cause.cqFault = true → ((t.ringRetired f r halts st notify).fn f).cause.cqFault = true) := by
  have put (v : SubRing) : (t.setSq f r v).sq f r = v ∧ (∀ g n, (t.setSq f r v).cq g n = t.cq g n) ∧
      ((t.fn f).cause.cqFault = true → ((t.setSq f r v).fn f).cause.cqFault = true) :=
    ⟨t.sq_setSq f r v, fun g n => t.cq_setSq f r g n v, fun set => by rw [State.setSq, t.fn_setFn]; exact set⟩
  unfold State.ringRetired SubRing.stateAfter
  by_cases stopping : (t.sq f r).state = .stopping
  · rw [if_pos stopping, if_pos stopping]
    obtain ⟨ring, cqs, fault⟩ := put { t.sq f r with running := none, state := .disabled }
    exact ⟨_, ring, rfl, rfl, cqs, fault⟩
  rw [if_neg stopping, if_neg stopping]
  cases halts with
  | false =>
    obtain ⟨ring, cqs, fault⟩ := put { t.sq f r with running := none }
    exact ⟨_, ring, rfl, rfl, cqs, fault⟩
  | true =>
    rw [if_pos rfl, if_pos rfl]
    extract_lets _ u
    obtain ⟨ring, cqs, fault⟩ := put { t.sq f r with
      running := none, state := .halted, haltStatus := if notify then BitVec.ofNat 8 st.code else (t.sq f r).haltStatus }
    have told := u.told_notice f r f .sqHalt
    split
    · exact ⟨_, told.sq.trans ring, told.mem, told.host, fun g n => (told.cq g n).trans (cqs g n), fun set => told.fault (fault set)⟩
    · exact ⟨_, ring, rfl, rfl, cqs, fault⟩

/-- The ring runs nothing, the completion rings and the memories stand. -/
theorem State.retire_fields (s : State) (f r : Nat) (c : Running) (halts : Bool) (st : Status) (notify : Bool) : ∃ status,
    (s.retire f r c halts st notify).sq f r =
      { s.sq f r with running := none, state := (s.sq f r).stateAfter halts, haltStatus := status } ∧
    (s.retire f r c halts st notify).mem = s.mem ∧ (s.retire f r c halts st notify).hostMem = s.hostMem ∧
    (∀ g n, (s.retire f r c halts st notify).cq g n = s.cq g n) ∧
    ((s.fn f).cause.cqFault = true → ((s.retire f r c halts st notify).fn f).cause.cqFault = true) := by
  have freed := s.told_unstage f r c
  obtain ⟨status, ring, mem, host, cqs, fault⟩ := (s.unstage c).ringRetired_fields f r halts st notify
  have told := State.told_tellFences (s := (s.unstage c).ringRetired f r halts st notify) (f := f) (r := r)
    (by rw [State.running, ring]) c.seq
  rw [s.retire_eq]
  exact ⟨status, by rw [told.sq, ring, freed.sq], told.mem.trans (mem.trans freed.mem), told.host.trans (host.trans freed.host),
    fun g n => (told.cq g n).trans ((cqs g n).trans (freed.cq g n)), fun set => told.fault (fault (freed.fault set))⟩

/-! ## A completion ring that faults (R353) -/

/-- The completion ring is FAULTED and holds the first lost entry; a ring that runs a command stands, and the notice is raised. -/
theorem State.faultCq_fields (s : State) (f n r : Nat) (seq : Word32) (busy : (s.sq f r).running ≠ none)
    (up : (s.fn f).resetting = false) :
    (s.faultCq f n r seq).sq f r = s.sq f r ∧ ((s.faultCq f n r seq).cq f n).state = .faulted ∧
    ((s.faultCq f n r seq).cq f n).lost = true ∧ ((s.cq f n).lost = false → ((s.faultCq f n r seq).cq f n).lostSeq = seq) ∧
    ((s.faultCq f n r seq).cq f n).tail = (s.cq f n).tail ∧ ((s.faultCq f n r seq).fn f).cause.cqFault = true := by
  unfold State.faultCq
  extract_lets q q' faulted halted
  have put : faulted.cq f n = { q' with state := .faulted } := s.cq_setCq f n _
  have ring : faulted.sq f r = s.sq f r := s.sq_setCq f n f r _
  have on : (faulted.fn f).resetting = false := by
    rw [show (faulted.fn f) = _ from s.fn_setFn f _]
    exact up
  have kept : halted.sq f r = faulted.sq f r ∧ halted.cq f n = faulted.cq f n ∧ (halted.fn f).resetting = (faulted.fn f).resetting := by
    refine List.foldlRecOn (motive := fun u : State => u.sq f r = faulted.sq f r ∧ u.cq f n = faulted.cq f n ∧
      (u.fn f).resetting = (faulted.fn f).resetting) _ _ ⟨rfl, rfl, rfl⟩ fun u known i _ => ?_
    obtain ⟨rings, cqs, resets⟩ := known
    dsimp only
    split
    next idle =>
      have other : r ≠ i := fun same => by
        obtain ⟨-, -, none⟩ := idle
        rw [← same, rings, ring] at none
        exact busy none
      refine ⟨(u.sq_setSq_ne f i f r _ (.inr other)).trans rings, (u.cq_setSq f i f n _).trans cqs, ?_⟩
      rw [State.setSq, u.fn_setFn]
      exact resets
    · exact ⟨rings, cqs, resets⟩
  obtain ⟨rings, cqs, resets⟩ := kept
  have noticed := halted.noticed_notice f .cqFault
  have cause := congrArg Notices.cqFault (halted.cause_notice f .cqFault (resets.trans on))
  have lost : q'.lost = true ∧ (q.lost = false → q'.lostSeq = seq) ∧ q'.tail = q.tail := by
    simp only [q']
    split
    next was => exact ⟨was, fun not => absurd was (by rw [not]; decide), rfl⟩
    · exact ⟨rfl, fun _ => rfl, rfl⟩
  refine ⟨(noticed.sq f r).trans (rings.trans ring), ?_, ?_, fun first => ?_, ?_, cause⟩
  · rw [noticed.cq, cqs, put]
  · rw [noticed.cq, cqs, put]; exact lost.1
  · rw [noticed.cq, cqs, put]; exact lost.2.1 first
  · rw [noticed.cq, cqs, put]; exact lost.2.2

/-! ## The entry (R352) -/

theorem CompRing.onEntry_fields (q : CompRing) (now : Bool) :
    (q.onEntry now).1.tail = q.tail ∧ (q.onEntry now).1.head = q.head ∧ (q.onEntry now).1.state = q.state := by
  unfold CompRing.onEntry
  split
  · split <;> exact ⟨rfl, rfl, rfl⟩
  · split <;> exact ⟨rfl, rfl, rfl⟩
  · exact ⟨rfl, rfl, rfl⟩

theorem entryBytes_sixteen (k : CompRing) (r : Nat) (c : Running) (st : Status) (res : Word32) (h : Bool) :
    (entryBytes k r c st res h).length = 16 := by
  simp only [entryBytes, List.length_append, length_natLe]

/-- The bytes of an entry, each field in its place. -/
theorem entryBytes_fields (k : CompRing) (r : RingIx) (c : Running) (st : Status) (res : Word32) (h : Bool) (few : c.sideUsed < 65536) :
    let b := entryBytes k r c st res h
    b.length = 16 ∧ leNat (b.take 4) = c.seq.toNat ∧ leNat ((b.drop 4).take 2) = 0 ∧ leNat ((b.drop 6).take 1) = 16 * r.val ∧
    leNat ((b.drop 7).take 1) = st.code ∧ leNat ((b.drop 8).take 1) = c.flags.byte ∧
    leNat ((b.drop 9).take 1) = (k.tail.toNat / 2 ^ k.log2.toNat % 2 + 1) % 2 + 2 * h.toNat + 4 * c.sideOvf.toNat ∧
    leNat ((b.drop 10).take 2) = c.sideUsed ∧ leNat ((b.drop 12).take 4) = res.toNat := by
  have code : st.code < 256 := by cases st <;> decide
  have bit (x : Bool) : b2n x ≤ 1 ∧ b2n x = x.toNat := by cases x <;> decide
  have flags : c.flags.byte < 256 := by
    have a := (bit c.flags.inv).1
    have b := (bit c.flags.ovf).1
    have d := (bit c.flags.ufl).1
    have e := (bit c.flags.inx).1
    have g := (bit c.flags.sat).1
    rw [Flags.byte]
    omega
  have halted := bit h
  have overflow := bit c.sideOvf
  have phase : (k.tail.toNat / 2 ^ k.log2.toNat % 2 + 1) % 2 < 2 := Nat.mod_lt _ (by decide)
  have seq : c.seq.toNat < 2 ^ 32 := c.seq.isLt
  have result : res.toNat < 2 ^ 32 := res.isLt
  have ring : r.val < 16 := r.isLt
  dsimp only
  simp only [entryBytes, List.append_assoc, List.length_append, length_natLe]
  simp [List.drop_append, List.drop_of_length_le, List.take_of_length_le, leNat_natLe]
  omega

/-! ## The completion (R322, R343, R352, R353) -/

/-- Does the completion halt its ring, which is not stopping? -/
def SubRing.haltsAt (q : SubRing) (c : Running) (st : Status) : Bool := haltsRing q c st && q.state != .stopping

/-- The write of the entry at the tail of the completion ring. -/
def State.entryWrite (s : State) (f r : Nat) (c : Running) (st : Status) (res : Word32) : Run Unit :=
  let q := s.sq f r
  let k := s.cq f q.cq.toNat
  writeV { ringAcc f r with strict := true } (k.base.toNat * 4096 + k.tail.toNat % k.entries * 16)
    (entryBytes k r c st res (q.haltsAt c st))

/-- The completion ring `m.1` after the entry, its mark, and its message if `m.2` says so. -/
def State.entryMarked (t : State) (f n vector : Nat) (m : CompRing × Bool) : State :=
  let u := (t.setCq f n m.1).evalWeir (.cq (fnId f) (ringIx n))
  if m.2 then u.message f vector else u

theorem State.entryMarked_fields (t : State) (f n vector : Nat) (m : CompRing × Bool) (r : Nat) :
    (t.entryMarked f n vector m).sq f r = { t.sq f r with weir := ((t.entryMarked f n vector m).sq f r).weir } ∧
    (t.entryMarked f n vector m).cq f n = { m.1 with weir := ((t.entryMarked f n vector m).cq f n).weir } ∧
    (t.entryMarked f n vector m).mem = t.mem ∧ (t.entryMarked f n vector m).hostMem = t.hostMem := by
  have marks : (t.setCq f n m.1).MarksOnly (t.entryMarked f n vector m) := by
    have evaluated := (t.setCq f n m.1).marksOnly_evalWeir (.cq (fnId f) (ringIx n))
    unfold State.entryMarked
    extract_lets u
    split
    · exact evaluated.trans (u.noticed_message f vector).marksOnly
    · exact evaluated
  obtain ⟨w, ring⟩ := marks.sq f r
  obtain ⟨w', entry⟩ := marks.cq f n
  rw [t.sq_setCq] at ring
  rw [t.cq_setCq] at entry
  exact ⟨by rw [ring], by rw [entry], marks.sameContents.mem, marks.sameContents.hostMem⟩

section
variable {s : State} {f r : Nat} {c : Running} {st : Status} {res : Word32}
  (on : (s.cq f (s.sq f r).cq.toNat).state = .running)
include on

theorem State.completeNow_of_written {e : Eng} (run : (s.entryWrite f r c st res).exec s = (.ok (), e)) :
    s.completeNow f r c st res =
      (e.s.entryMarked f (s.sq f r).cq.toNat (s.cq f (s.sq f r).cq.toNat).vector.toNat
        (CompRing.onEntry { s.cq f (s.sq f r).cq.toNat with tail := (s.cq f (s.sq f r).cq.toNat).tail + 1 } c.desc.irqNow)).retire
        f r c ((s.sq f r).haltsAt c st) st true := by
  unfold State.completeNow
  extract_lets q n k halts va _ x t m u v
  have answer : x = (.ok (), e) := run
  have told : v = x.2.s.entryMarked f n k.vector.toNat m := rfl
  rw [answer] at told
  split
  next off => exact absurd (off.symm.trans on) (by decide)
  next lost => exact absurd (lost.symm.trans on) (by decide)
  next =>
    rw [answer]
    exact congrArg (fun w : State => w.retire f r c halts st true) told

theorem State.completeNow_of_fault {e : Eng} {y : Stop} (run : (s.entryWrite f r c st res).exec s = (.error y, e)) :
    s.completeNow f r c st res = (e.s.faultCq f (s.sq f r).cq.toNat r c.seq).retire f r c true st ((s.sq f r).haltsAt c st) := by
  unfold State.completeNow
  extract_lets q n k halts va _ x
  have answer : x = (.error y, e) := run
  rw [show k.state = _ from on, answer]
  rfl

/-- The ring, its completion ring and the memories once the entry stands. -/
theorem State.completeNow_fields {e : Eng} (run : (s.entryWrite f r c st res).exec s = (.ok (), e)) : ∃ status w w',
    (s.completeNow f r c st res).sq f r = { s.sq f r with
      running := none, state := (s.sq f r).stateAfter ((s.sq f r).haltsAt c st), haltStatus := status, weir := w } ∧
    (s.completeNow f r c st res).cq f (s.sq f r).cq.toNat =
      { (CompRing.onEntry { s.cq f (s.sq f r).cq.toNat with tail := (s.cq f (s.sq f r).cq.toNat).tail + 1 } c.desc.irqNow).1 with
        weir := w' } ∧
    (s.completeNow f r c st res).mem = e.s.mem ∧ (s.completeNow f r c st res).hostMem = e.s.hostMem := by
  have written : State.ByMemory false s e.s := by
    have known := Run.ByMemory.exec (m := s.entryWrite f r c st res) (writeV_local_byMemory _ _ _) s
    rwa [run] at known
  rw [State.completeNow_of_written on run]
  generalize CompRing.onEntry _ _ = m
  obtain ⟨ring, entry, mem, host⟩ := e.s.entryMarked_fields f (s.sq f r).cq.toNat (s.cq f (s.sq f r).cq.toNat).vector.toNat m r
  obtain ⟨status, ring', mem', host', cqs, -⟩ := State.retire_fields _ f r c ((s.sq f r).haltsAt c st) st true
  rw [ring, written.sq] at ring'
  exact ⟨status, _, _, ring', (cqs _ _).trans entry, mem'.trans mem, host'.trans host⟩

/-- A write of the entry that faults: the completion ring holds the lost entry, the submission ring halts. -/
theorem State.completeNow_fault_fields {e : Eng} {y : Stop} (run : (s.entryWrite f r c st res).exec s = (.error y, e))
    (busy : s.running f r ≠ none) (up : (s.fn f).resetting = false) (goes : (s.sq f r).state ≠ .stopping) :
    let u := s.completeNow f r c st res
    let k := s.cq f (s.sq f r).cq.toNat
    let k' := u.cq f (s.sq f r).cq.toNat
    (u.sq f r).running = none ∧ (u.sq f r).state = .halted ∧ k'.state = .faulted ∧ k'.lost = true ∧
    (k.lost = false → k'.lostSeq = c.seq) ∧ k'.tail = k.tail ∧ (u.fn f).cause.cqFault = true := by
  have written : State.ByMemory false s e.s := by
    have known := Run.ByMemory.exec (m := s.entryWrite f r c st res) (writeV_local_byMemory _ _ _) s
    rwa [run] at known
  dsimp only
  rw [State.completeNow_of_fault on run]
  obtain ⟨ring, state, lost, seq, tail, cause⟩ := e.s.faultCq_fields f (s.sq f r).cq.toNat r c.seq
    (by rw [written.sq]; exact busy) (written.resetting f ▸ up)
  obtain ⟨status, ring', -, -, cqs, fault⟩ := State.retire_fields (e.s.faultCq f (s.sq f r).cq.toNat r c.seq) f r c true st
    ((s.sq f r).haltsAt c st)
  rw [ring, written.sq] at ring'
  rw [written.cq] at seq tail
  refine ⟨by rw [ring'], ?_, by rw [cqs]; exact state, by rw [cqs]; exact lost, fun first => by rw [cqs]; exact seq first,
    by rw [cqs]; exact tail, fault cause⟩
  rw [ring']
  exact (if_neg goes).trans (if_pos rfl)

end

/-- A command completes in the state in which its counter stands. -/
theorem State.complete_of_counted {s s1 : State} {f r : Nat} {c : Running} {st : Status} {res : Word32} (runs : s.running f r = some c)
    (done : c.done = some (st, res)) (up : (s.fn f).resetting = false) (free : s.entryWaits f r c = false)
    (counted : s.writeCounter f r = s1) (same : s1.running f r = some c) : s.complete f r = s1.completeNow f r c st res := by
  unfold State.complete
  rw [runs]
  dsimp only
  rw [counted, same, up, free, done]
  dsimp only
  rw [done]
  rfl

/-- No counter is held: its write changes nothing. -/
theorem State.writeCounter_of_none {s : State} {f r : Nat} {c : Running} (runs : s.running f r = some c) (none : c.counter = none) :
    s.writeCounter f r = s := by
  rw [State.writeCounter, runs]
  dsimp only
  rw [none]

/-- The state in which an advanced counter stands is the one in which its command completes, and only memories differ. -/
theorem State.writeCounter_eq {s s1 : State} {f r : Nat} {c : Running} {st : Status} {res : Word32} (runs : s.running f r = some c)
    (done : c.done = some (st, res))
    (stands : if c.counter.isSome = true ∧ st.advances = true
      then ∃ v e, c.counter = some v ∧ s1 = e.s ∧
        (writeV (stoneAcc f (c.desc.op0 31 25)) v.1.toNat (natLe 16 v.2.toNat)).exec s = (.ok (), e)
      else s1 = s) : s.writeCounter f r = s1 ∧ State.ByMemory false s s1 := by
  rw [State.writeCounter, runs]
  dsimp only
  rw [done]
  split at stands
  next both =>
    obtain ⟨⟨va, n⟩, e, held, rfl, run⟩ := stands
    obtain ⟨-, advances⟩ := both
    have written := Run.ByMemory.exec (writeV_local_byMemory (stoneAcc f (c.desc.op0 31 25)) va.toNat (natLe 16 n.toNat)) s
    rw [run] at written
    rw [held]
    dsimp only
    rw [advances, run]
    exact ⟨rfl, written⟩
  next not =>
    rw [stands]
    refine ⟨?_, .refl s⟩
    cases held : c.counter with
    | none => rfl
    | some v =>
      have stays : st.advances = false := Bool.eq_false_iff.mpr fun advances => not ⟨by rw [held]; rfl, advances⟩
      dsimp only
      rw [stays]
      rfl

/-- The entry of a ring lies in one page. -/
theorem CompRing.entry_in_page (k : CompRing) :
    (k.base.toNat * 4096 + k.tail.toNat % 2 ^ k.log2.toNat * 16) % 4096 + 16 ≤ 4096 := by omega

/-- Settles O33. -/
theorem completionEntryIsWritten : Obligations.CompletionEntryIsWritten := by
  unfold Obligations.CompletionEntryIsWritten
  refine ⟨?_, fun k r c st res h few => entryBytes_fields k r c st res h few⟩
  intro s s1 f r c st res q n k halts bytes va x room after runs done up
  have stays (waits : s.entryWaits f r c = true) : exec (.completionEntryWrite f r) s = .next s.settle := by
    show Host.Outcome.next (State.settle (s.complete f r)) = _
    rw [State.complete, runs]
    dsimp only
    rw [waits, Bool.or_true, if_pos rfl]
  have runsOn (idle : k.state ≠ .running) : s.entryWaits f r c = false := by
    show (k.state == _ && _) = false
    rw [beq_eq_false_iff_ne.mpr idle, Bool.false_and]
  have discards (idle : k.state ≠ .running) (held : c.counter = none) : s.complete f r = s.completeNow f r c st res :=
    s.complete_of_counted runs done up (runsOn idle) (State.writeCounter_of_none runs held) runs
  have retired (h : Bool) (notify : Bool) (held : s.complete f r = s.retire f r c h st notify) :
      ∃ u : State, exec (.completionEntryWrite f r) s = .next u.settle ∧ after u h ∧ u.mem = s.mem ∧ u.hostMem = s.hostMem := by
    obtain ⟨status, ring, mem, host, -, -⟩ := s.retire_fields f r c h st notify
    refine ⟨_, congrArg (fun u => Host.Outcome.next (State.settle u)) held, ?_, mem, host⟩
    show (State.sq _ f r).running = none ∧ _
    rw [ring]
    exact ⟨rfl, rfl, rfl, rfl⟩
  refine ⟨fun on late => stays ?_, fun on roomy first stands => ?written, fun faulted held => retired true halts ?_,
    fun disabled held => retired false false ?_⟩
  case written =>
    have free : s.entryWaits f r c = false := by
      show (k.state == .running && (decide ((k.tail - k.head).toNat ≥ 2 ^ k.log2.toNat) || s.entryAhead f r c)) = false
      rw [first, decide_eq_false (Nat.not_le.mpr roomy), Bool.or_false, Bool.and_false]
    obtain ⟨counted, written⟩ := State.writeCounter_eq runs done stands
    have completes : s.complete f r = s1.completeNow f r c st res :=
      s.complete_of_counted runs done up free counted ((written.running f r).trans runs)
    have ring := written.sq f r
    have entry : s1.cq f (s1.sq f r).cq.toNat = k := by rw [ring, written.cq]
    have goes : exec (.completionEntryWrite f r) s = .next (s1.completeNow f r c st res).settle :=
      congrArg (fun u => Host.Outcome.next (State.settle u)) completes
    have on1 : (s1.cq f (s1.sq f r).cq.toNat).state = .running := by rw [entry]; exact on
    have write : x = (s1.entryWrite f r c st res).exec s1 := by
      rw [State.entryWrite, entry, ring]; rfl
    have stored (e : Eng) (run : x = (.ok (), e)) : ∃ u : State, exec (.completionEntryWrite f r) s = .next u.settle ∧
        after u halts ∧ (u.cq f n).tail = k.tail + 1 ∧ (u.cq f n).head = k.head ∧ (u.cq f n).state = .running ∧
        u.mem = e.s.mem ∧ u.hostMem = e.s.hostMem := by
      obtain ⟨status, w, w', ring', entry', mem, host⟩ := State.completeNow_fields on1 (write.symm.trans run)
      obtain ⟨tail, head, state⟩ := CompRing.onEntry_fields { k with tail := k.tail + 1 } c.desc.irqNow
      rw [ring] at ring'
      rw [entry, ring] at entry'
      refine ⟨_, goes, ?_, ?_⟩
      · show (State.sq _ f r).running = none ∧ _
        rw [ring']
        exact ⟨rfl, rfl, rfl, rfl⟩
      · show (State.cq _ f q.cq.toNat).tail = _ ∧ (State.cq _ f q.cq.toNat).head = _ ∧ (State.cq _ f q.cq.toNat).state = _ ∧ _
        rw [entry']
        exact ⟨tail, head, state.trans on, mem, host⟩
    refine ⟨stored, fun a clean reach => ?_, fun y e run alive => ?_⟩
    · have long : bytes.length = 16 := (entryBytes_sixteen k r c st res halts)
      obtain ⟨e, run, stands⟩ := writeV_in_page (bs := bytes) clean (by rw [long]; decide) (by rw [long]; exact k.entry_in_page)
        (by rw [long]; exact reach)
      obtain ⟨u, answers, now, tail, -, -, mem, host⟩ := stored e run
      have bytes' := stands.bytes
      have others := stands.others
      rw [long] at bytes' others
      exact ⟨u, answers, now, tail, by rw [mem]; exact bytes', fun b out => by rw [mem]; exact others b out, host.trans stands.host⟩
    · have fault := State.completeNow_fault_fields on1 (write.symm.trans run) (by rw [written.running, runs]; exact Option.some_ne_none c)
        (by rw [written.resetting]; exact up) (by rw [ring]; exact alive)
      dsimp only at fault
      rw [entry, ring] at fault
      exact ⟨_, goes, fault⟩
  · show (k.state == .running && (decide ((k.tail - k.head).toNat ≥ 2 ^ k.log2.toNat) || s.entryAhead f r c)) = true
    rw [on]
    rcases late with full | ahead
    · rw [decide_eq_true (Nat.not_lt.mp full)]; rfl
    · rw [ahead, Bool.or_true]; rfl
  · rw [discards (by rw [faulted]; decide) held, State.completeNow]
    dsimp only
    rw [faulted]
    rfl
  · rw [discards (by rw [disabled]; decide) held, State.completeNow]
    dsimp only
    rw [disabled]

end Sys2Proof.Machine
end

section
/-! PROOFS. Ordering commands and reports: NOP (R369), SIGNAL (R376), WAIT (R377), FENCE (R378), TIMESTAMP (R384), QUERY (R385). -/
namespace Sys2Proof.Machine

/-! ## NOP and FENCE -/

/-- Settles O35. -/
theorem nopAndFenceComplete : Obligations.NopAndFenceComplete := by
  intro s f r c
  refine ⟨fun fresh => ?_, fun fresh => ?_, fun on runs waits going => ?_⟩
  · have runs := ((s.fresh_iff f r _ c).1 fresh).1
    refine congrArg Host.Outcome.next ?_
    rw [State.runCmd_of_fresh s f r _ _ c fresh, s.finish_of_running f r c .ok 0 runs]
  · have runs := ((s.fresh_iff f r _ c).1 fresh).1
    intro on
    have goes : exec (.fence f r) s = .next (if on = [] then s.finish f r .ok 0 else s.setRunning f r (some { c with wait := .fence on })) :=
      congrArg Host.Outcome.next (State.runCmd_of_fresh s f r _ _ c fresh)
    refine ⟨fun none => ?_, fun some => by rw [goes, if_neg some]⟩
    rw [goes, if_pos none, s.finish_of_running f r c .ok 0 runs]
  · have goes : exec (.fenceTimeout f r) s = .next (if c.desc.timeout10 = noLimit then s else s.finish f r .timeout 0) := by
      refine congrArg Host.Outcome.next ?_
      rw [State.fenceTimeout, runs]
      dsimp only
      rw [waits]
    refine ⟨fun limit => ?_, fun none => by rw [goes]; exact congrArg Host.Outcome.next (if_pos none)⟩
    rw [goes, if_neg (show ¬_ = noLimit from limit), s.finish_of_running f r c .timeout 0 runs]

/-! ## WAIT -/

theorem condMet_iff (cond : Nat) (w v : Word64) : condMet cond w v = true ↔
    (if cond = 0 then (w.toNat + 2 ^ 64 - v.toNat) % 2 ^ 64 < 2 ^ 63 else if cond = 1 then w = v else w ≠ v) := by
  match cond with
  | 0 =>
    have diff : (w - v).toNat = (w.toNat + 2 ^ 64 - v.toNat) % 2 ^ 64 := by
      rw [BitVec.toNat_sub]
      have := v.isLt
      omega
    simp [condMet, diff]
  | 1 => simp [condMet]
  | n + 2 => simp [condMet]

/-- A poll whose word can be read ends the WAIT or keeps the word. -/
theorem State.pollWait_of_read {s : State} {f r : Nat} {c : Running} (runs : s.running f r = some c) {bs : List Byte} {e : Eng}
    (read : (readSV (ringAcc f r) (c.desc.addr 0x10) 8).exec s = (.ok bs, e)) : s.pollWait f r =
      if condMet (c.desc.op0 1 0) (word64At bs 0) (wordAt c.desc 3) = true
      then e.s.endedWith f r c .ok ((word64At bs 0).setWidth 32)
      else e.s.setRunning f r (some { c with wait := .word (word64At bs 0) }) := by
  have known := Run.ByMemory.exec (kept := true) (readSV_byMemory (ringAcc f r) (c.desc.addr 0x10) 8) s
  rw [read] at known
  rw [State.pollWait, runs]
  dsimp only
  rw [read]
  dsimp only
  rw [e.s.finish_of_running f r c _ _ ((known.running f r).trans runs)]

/-- A WAIT that starts, and one that polls, both poll. -/
theorem exec_of_polls {s : State} {f : FnId} {r : RingIx} {c : Running} {i : Instr}
    (polls : (i = Instr.wait f r ∧ s.fresh f r .wait = some c) ∨
      (i = Instr.waitPoll f r ∧ s.running f r = some c ∧ c.done = none ∧ ∃ w, c.wait = .word w)) :
    s.running f r = some c ∧ exec i s = .next (s.pollWait f r).settle := by
  rcases polls with ⟨rfl, fresh⟩ | ⟨rfl, runs, -, w, waits⟩
  · exact ⟨((s.fresh_iff f r _ c).1 fresh).1,
      congrArg (fun u => Host.Outcome.next (State.settle u)) (State.runCmd_of_fresh s f r _ _ c fresh)⟩
  · refine ⟨runs, congrArg Host.Outcome.next ?_⟩
    have waiting : s.waiting f r = some c := by rw [State.waiting, runs]; dsimp only; rw [waits]
    rw [waiting]

/-- Settles O36. -/
theorem waitEndsOnceItsConditionHolds : Obligations.WaitEndsOnceItsConditionHolds := by
  intro s f r c v met
  have decides (w : Word64) : condMet (c.desc.op0 1 0) w (wordAt c.desc 3) = true ↔ met w := condMet_iff _ w v
  have poll (i : Instr) (bs : List Byte) (e : Eng)
      (polls : (i = Instr.wait f r ∧ s.fresh f r .wait = some c) ∨
        (i = Instr.waitPoll f r ∧ s.running f r = some c ∧ c.done = none ∧ ∃ w, c.wait = .word w))
      (read : (readSV (ringAcc f r) (c.desc.addr 0x10) 8).exec s = (.ok bs, e)) :
      (met (word64At bs 0) → exec i s = .next (e.s.endedWith f r c .ok ((word64At bs 0).setWidth 32)).settle) ∧
      (¬met (word64At bs 0) → exec i s = .next (e.s.setRunning f r (some { c with wait := .word (word64At bs 0) })).settle) := by
    obtain ⟨runs, goes⟩ := exec_of_polls polls
    rw [State.pollWait_of_read runs read] at goes
    exact ⟨fun holds => by rw [goes, if_pos ((decides _).mpr holds)], fun fails => by rw [goes, if_neg (fails ∘ (decides _).mp)]⟩
  refine ⟨fun i bs e polls read => ?_, fun i a polls clean reach _ => ?_, fun w runs waits going => ?_⟩
  · have known := Run.ByMemory.exec (kept := true) (readSV_byMemory (ringAcc f r) (c.desc.addr 0x10) 8) s
    rw [read] at known
    obtain ⟨mem, host⟩ := known.memories rfl
    exact ⟨mem, host, poll i bs e polls read⟩
  · have read := Run.exec_of_run clean (fl := {}) (readSV_of_reaches clean reach rfl)
    have answer := poll i _ _ polls read
    have word : word64At (s.mem.readN a 8) 0 = BitVec.ofNat 64 (leNat (s.mem.readN a 8)) := by
      rw [word64At, List.drop_zero, List.take_of_length_le (by rw [Memory.readN_eq]; simp)]
    rw [word] at answer
    exact answer
  · have goes : exec (.waitTimeout f r) s = .next (if c.desc.timeout20 = noLimit then s else s.finish f r .timeout (w.setWidth 32)) := by
      refine congrArg Host.Outcome.next ?_
      rw [State.waitTimeout, State.waiting, runs]
      dsimp only
      rw [waits]
      dsimp only
      rw [waits]
    refine ⟨fun limit => ?_, fun none => by rw [goes]; exact congrArg Host.Outcome.next (if_pos none)⟩
    rw [goes, if_neg (show ¬_ = noLimit from limit), s.finish_of_running f r c _ _ runs]

/-! ## SIGNAL -/

/-- The read of a structure that lies in one page. -/
theorem readSV_page {a : Acc} {va n pa : Nat} {nc : Bool} {e : Eng} (clean : e.s.ecc = []) (nonempty : 0 < n)
    (page : va % 4096 + n ≤ 4096)
    (leads : ∀ e' : Eng, e'.s = e.s → (translate a false (va % 2 ^ 48)).run.run e' = (.ok (.dev pa, nc), e')) :
    (readSV a va n).run.run e = (.ok (e.s.mem.readN pa n), e) := by
  let cleared : Eng := { e with device := false }
  have before : (get : Run Eng).run.run e = (.ok e, e) := rfl
  have clear : (modify (fun x : Eng => { x with device := false }) : Run PUnit).run.run e = (.ok (), cleared) := rfl
  have read : (readV a va n).run.run cleared = (.ok (e.s.mem.readN pa n), cleared) := by
    have piece : ∀ x ∈ pieces va n, (readPiece a x).run.run cleared = (.ok (e.s.mem.readN pa x.2.2), cleared) := fun x mem => by
      rw [pieces_in_page nonempty page, List.mem_singleton] at mem
      rw [mem]
      exact readPiece_of_dev clean (leads cleared rfl)
    rw [readV, Run.bind_of_ok (Run.mapM_of_ok _ piece), pieces_in_page nonempty page]
    exact congrArg (fun l => (Except.ok l, cleared)) (List.append_nil _)
  rw [readSV, Run.bind_of_ok before, Run.bind_of_ok clear, Run.bind_of_ok read]
  rfl

/-- The translation of a word that was found once is found by every engine in that state. -/
theorem wordAtPhys_leads {s : State} {f r va pa : Nat} {write : Bool} {e : Eng} (clean : s.ecc = [])
    (run : (wordAtPhys f r va write).exec s = (.ok (.dev pa), e)) :
    ∃ nc, ∀ e' : Eng, e'.s = s → (translate (ringAcc f r) write va).run.run e' = (.ok (.dev pa, nc), e') := by
  have reads := translate_reads (ringAcc f r) write va
  have first := reads { s := s } clean
  cases answer : ((translate (ringAcc f r) write va).run.run { s := s }).1 with
  | error x =>
    rw [answer] at first
    rw [Run.exec, wordAtPhys, Run.bind_of_error first] at run
    exact nomatch congrArg Prod.fst run
  | ok y =>
    rw [answer] at first
    rw [Run.exec, wordAtPhys, Run.bind_of_ok first] at run
    have place : y.1 = .dev pa := Except.ok.inj (congrArg Prod.fst run)
    obtain ⟨p, nc⟩ := y
    obtain rfl : p = .dev pa := place
    exact ⟨nc, fun e' here => by rw [reads e' (by rw [here]; exact clean), here, answer]⟩

/-- No WAIT waits: a SIGNAL wakes none. -/
theorem State.wakeWaits_of_none {s : State} (none : ∀ f r, s.waiting f r = none) (at_ : Phys) : s.wakeWaits at_ = s := by
  have silent (f r : Nat) : s.waitsOn f r at_ = false := by
    have here := none f r
    unfold State.waiting at here
    unfold State.waitsOn
    split
    next c run =>
      rw [run] at here
      dsimp only at here
      split
      next w waits => rw [waits] at here; exact nomatch here
      · rfl
    · rfl
  refine List.foldl_fixed' (fun x : Nat × Func => List.foldl_fixed' (fun r : Nat => ?_) (List.range 16)) s.fns
  rw [silent]
  rfl

/-- The word that a SIGNAL stores. -/
def Desc.signalled (d : Desc) (old : Word64) : Word64 := if d.op0 0 0 = 0 then wordAt d 3 else old + wordAt d 3

/-- A SIGNAL to an aligned word of device memory stores its new word there. -/
theorem signalWord_of_dev {s : State} {f r a : Nat} {d : Desc} (clean : s.ecc = []) (aligned : d.addr 0x10 % 8 = 0)
    (writes : ∃ nc, ∀ e : Eng, e.s = s → (translate (ringAcc f r) true (d.addr 0x10)).run.run e = (.ok (.dev a, nc), e))
    (reads : d.op0 0 0 ≠ 0 → ∃ nc, ∀ e : Eng, e.s = s → (translate (ringAcc f r) false (d.addr 0x10)).run.run e = (.ok (.dev a, nc), e)) :
    ∃ e, (signalWord f r d).exec s = (.ok (.dev a, d.signalled (word64At (s.mem.readN a 8) 0)), e) ∧
      s.Stored e.s a (natLe 8 (d.signalled (word64At (s.mem.readN a 8) 0)).toNat) := by
  obtain ⟨nc, leads⟩ := writes
  have page : d.addr 0x10 % 4096 + 8 ≤ 4096 := by omega
  have whole : d.addr 0x10 % 2 ^ 48 = d.addr 0x10 := Nat.mod_eq_of_lt (Desc.addr_lt d 0x10)
  have place : (wordAtPhys f r (d.addr 0x10) true).run.run { s := s } = (.ok (.dev a), { s := s }) := by
    rw [wordAtPhys, Run.bind_of_ok (leads _ rfl)]
    rfl
  have store (w : Word64) := writeV_page (a := ringAcc f r) (va := d.addr 0x10) (bs := natLe 8 w.toNat) (e := { s := s }) (pa := a) (nc := nc)
    (by rw [length_natLe]; decide) (by rw [length_natLe]; exact page) (by rw [whole]; exact leads _ rfl)
  have finish (w : Word64) (run : (signalWord f r d).run.run { s := s } = (.ok (.dev a, w),
      { s := s.devStore nc a (natLe 8 w.toNat), wrote := [] ++ [(a, (natLe 8 w.toNat).length)] })) :
      ∃ e, (signalWord f r d).exec s = (.ok (.dev a, w), e) ∧ s.Stored e.s a (natLe 8 w.toNat) := by
    have stored := State.stored_devStore clean nc a (natLe 8 w.toNat)
    refine ⟨{ s := s.devStore nc a (natLe 8 w.toNat), wrote := [] ++ [(a, (natLe 8 w.toNat).length)] }, ?_, stored⟩
    rw [Run.exec, run]
    exact congrArg (Prod.mk _) (Eng.clearWritten_of_clean stored.ecc)
  apply finish
  unfold signalWord Desc.signalled
  rw [Run.bind_of_ok place]
  split
  · rw [Run.bind_of_ok (store _)]
    rfl
  next adds =>
    obtain ⟨nc', leads'⟩ := reads adds
    have old := readSV_page (e := { s := s }) clean (by decide) page (fun e' here => by rw [whole]; exact leads' e' here)
    rw [Run.bind_of_ok old, Run.bind_of_ok (store _)]
    rfl

theorem getD_natLe {n i : Nat} (inside : i < n) (v : Nat) : (natLe n v).getD i 0 = BitVec.ofNat 8 (v / 256 ^ i) := by
  induction n generalizing i v with
  | zero => exact absurd inside (Nat.not_lt_zero i)
  | succ n ih =>
    cases i with
    | zero => rw [Nat.pow_zero, Nat.div_one]; rfl
    | succ i => rw [Nat.pow_succ', ← Nat.div_div_eq_div_mul]; exact ih (Nat.lt_of_succ_lt_succ inside) (v / 256)

/-- Settles O37. -/
theorem signalStoresItsWordAndNothingElse : Obligations.SignalStoresItsWordAndNothingElse := by
  intro s f r c a e fresh aligned none clean writes reads w
  obtain ⟨runs, waits, going, -, -⟩ := (s.fresh_iff f r _ c).1 fresh
  obtain ⟨e', run, stored⟩ := signalWord_of_dev clean aligned (wordAtPhys_leads clean writes) fun adds => by
    obtain ⟨e', run⟩ := reads adds
    exact wordAtPhys_leads clean run
  have word : c.desc.signalled (word64At (s.mem.readN a 8) 0) = w := by
    unfold Desc.signalled
    split
    next plain => exact (if_pos plain).symm
    next adds =>
      refine Eq.trans ?_ (if_neg adds).symm
      rw [word64At, List.drop_zero, Memory.readN_eq, List.take_of_length_le (by simp)]
  rw [word] at run stored
  have runs' : e'.s.running f r = some c := (stored.engine.running f r).trans runs
  have silent (f' r' : Nat) : e'.s.waiting f' r' = Option.none := by
    rw [State.waiting, stored.engine.running]
    exact none f' r'
  have goes : s.signal f r c = e'.s.endedWith f r c .ok (w.setWidth 32) := by
    rw [State.signal, run]
    dsimp only
    rw [State.wakeWaits_of_none silent, e'.s.finish_of_running f r c _ _ runs']
  have bytes := stored.bytes
  have others := stored.others
  rw [length_natLe] at bytes others
  refine ⟨_, congrArg (fun u => Host.Outcome.next (State.settle u)) ((State.runCmd_of_fresh s f r _ _ c fresh).trans goes), ?_,
    fun i low => ?_, others, stored.host, (congrArg State.pawls stored.engine.rest :), stored.engine.stones⟩
  · refine (State.running_setRunning e'.s.ended f r _).trans ?_
    rw [going, waits, stored.engine.ends]
    rfl
  · have byte := congrArg (fun l => l.getD i 0) bytes
    rw [getD_natLe low, Memory.readN_eq] at byte
    rw [← byte]
    simp [low]
    rfl

/-! ## Side records (R354) -/

theorem length_sideBytes (kind : Nat) (body : List Byte) : (sideBytes kind body).length / 16 = 1 + ceilDiv body.length 16 := by
  simp only [sideBytes, List.length_append, length_natLe, ceilDiv]
  omega

section
variable {s : State} {f r : Nat} {c : Running} (runs : s.running f r = some c) (kind : Nat) (body : List Byte)
include runs

/-- Without a side buffer the record is lost. -/
theorem State.side_of_no_buffer (none : c.desc.sideLen = 0) :
    s.side f r kind body = s.setRunning f r (some { c with sideOvf := true }) := by
  have full : c.sideUsed + (sideBytes kind body).length / 16 > c.desc.sideLen := by
    rw [none, length_sideBytes]
    omega
  rw [State.side, runs]
  dsimp only
  rw [if_pos full, ite_self]

/-- A record that fits and can be written counts its 16-byte units. -/
theorem State.side_of_written (lost : c.sideOvf = false) (good : c.sideEnd = none)
    (fits : c.sideUsed + (1 + ceilDiv body.length 16) ≤ c.desc.sideLen) {e : Eng}
    (run : (writeV (sideAcc f r) (c.desc.sideBase + 16 * c.sideUsed) (sideBytes kind body)).exec s = (.ok (), e)) :
    State.ByMemory false s e.s ∧
    s.side f r kind body = e.s.setRunning f r (some { c with sideUsed := c.sideUsed + (1 + ceilDiv body.length 16) }) := by
  have written := Run.ByMemory.exec (writeV_local_byMemory (sideAcc f r) (c.desc.sideBase + 16 * c.sideUsed) (sideBytes kind body)) s
  rw [run] at written
  have room : ¬c.sideUsed + (sideBytes kind body).length / 16 > c.desc.sideLen := by
    rw [length_sideBytes]
    omega
  have whole : ¬(c.sideOvf || c.sideEnd.isSome) = true := by rw [lost, good]; decide
  refine ⟨written, ?_⟩
  rw [State.side, runs]
  dsimp only
  rw [if_neg whole, if_neg room, run]
  dsimp only
  rw [State.modRunning, written.running, runs, length_sideBytes]

end

/-- One side record, then the end. -/
theorem State.finishWith_of_one (s : State) (f r : Nat) (st : Status) (res : Word32) (kind : Nat) (body : List Byte) :
    s.finishWith f r st res [(kind, body)] = (s.side f r kind body).finish f r st res := rfl

section
variable {s : State} {f r : Nat} {c : Running} (runs : s.running f r = some c) (kind : Nat) (body : List Byte) (res : Word32)
include runs

/-- A report without a side buffer. -/
theorem State.finishWith_of_no_buffer (none : c.desc.sideLen = 0) : s.finishWith f r .ok res [(kind, body)] =
    (s.setRunning f r (some { c with sideOvf := true })).endedWith f r { c with sideOvf := true } .ok res := by
  rw [s.finishWith_of_one, s.side_of_no_buffer runs kind body none]
  exact State.finish_of_running _ f r _ .ok res (s.running_setRunning f r _)

/-- A report whose side record can be written. -/
theorem State.finishWith_of_written (waits : c.wait = .none) (going : c.done = none) (unused : c.sideUsed = 0) (lost : c.sideOvf = false)
    (good : c.sideEnd = none) (fits : 1 + ceilDiv body.length 16 ≤ c.desc.sideLen) {e : Eng}
    (run : (writeV (sideAcc f r) c.desc.sideBase (sideBytes kind body)).exec s = (.ok (), e)) : ∃ u,
    s.finishWith f r .ok res [(kind, body)] = u ∧ u.mem = e.s.mem ∧ u.hostMem = e.s.hostMem ∧
    (u.sq f r).running = some { c with sideUsed := 1 + ceilDiv body.length 16, done := some (.ok, res), doneAt := s.ends } := by
  obtain ⟨written, stands⟩ := s.side_of_written runs kind body lost good (by rw [unused, Nat.zero_add]; exact fits)
    (by rw [unused, Nat.mul_zero, Nat.add_zero]; exact run)
  have ends := State.finish_of_running _ f r _ .ok res (e.s.running_setRunning f r
    (some { c with sideUsed := c.sideUsed + (1 + ceilDiv body.length 16) }))
  rw [s.finishWith_of_one, stands, ends]
  refine ⟨_, rfl, rfl, rfl, (State.running_setRunning _ f r _).trans ?_⟩
  have first : mergeEnd c.done (c.statusOf .ok) res = some (.ok, res) := by rw [Running.statusOf, good, going]; rfl
  have units : c.sideUsed + (1 + ceilDiv body.length 16) = 1 + ceilDiv body.length 16 := by rw [unused, Nat.zero_add]
  rw [units, ← waits]
  exact congrArg₂ (fun x n => some { c with sideUsed := 1 + ceilDiv body.length 16, done := x, doneAt := n }) first written.ends

end

/-! ## TIMESTAMP and QUERY -/

/-- Settles O39. -/
theorem timestampAndQueryReport : Obligations.TimestampAndQueryReport := by
  intro s f r c
  refine ⟨fun fresh => ?_, fun fresh => ?_⟩
  · obtain ⟨runs, waits, going, -, -⟩ := (s.fresh_iff f r _ c).1 fresh
    intro t up s' body
    have goes : exec (.timestamp f r) s = .next (s'.finishWith f r .ok (if up then 1 else 0) [(0x10, body)]).settle := by
      refine congrArg (fun u => Host.Outcome.next (State.settle u)) ((State.runCmd_of_fresh s f r _ _ c fresh).trans ?_)
      have clock : (BitVec.ofNat 64 t).toNat = t % 2 ^ 64 := BitVec.toNat_ofNat t 64
      show s'.finishWith f r .ok _ [(0x10, natLe 8 (BitVec.ofNat 64 t).toNat ++ natLe 8 (BitVec.toNat _))] = _
      rw [clock]
      dsimp only [body]
      by_cases runs : up
      · have state : (s.leat.state == .run) = true := beq_iff_eq.mpr runs
        rw [state, if_pos runs, if_pos runs]
        rfl
      · have state : (s.leat.state == .run) = false := beq_eq_false_iff_ne.mpr runs
        rw [state, if_neg runs, if_neg runs]
        rfl
    refine ⟨fun none => ?_, fun e unused lost good long run => ?_⟩
    · rw [goes, State.finishWith_of_no_buffer (s := s') runs 0x10 body _ none]
    · have two : 1 + ceilDiv body.length 16 = 2 := by
        simp only [body, List.length_append, length_natLe]
        decide
      obtain ⟨u, eq, mem, host, ring⟩ := State.finishWith_of_written (s := s') runs 0x10 body (if up then 1 else 0) waits going unused
        lost good (two ▸ long) run
      rw [two] at ring
      exact ⟨u, by rw [goes, eq], mem, host, ring⟩
  · obtain ⟨runs, waits, going, op, -⟩ := (s.fresh_iff f r _ c).1 fresh
    intro item arg
    have goes : exec (.query f r) s = .next (s.query f r c).settle :=
      congrArg (fun u => Host.Outcome.next (State.settle u)) (State.runCmd_of_fresh s f r _ _ c fresh)
    have answers (body : List Byte) (known : s.queryBody f item arg = .ok body) :
        s.query f r c = s.finishWith f r .ok (BitVec.ofNat 32 body.length) [(0x10 + item, body)] := by
      rw [State.query, show s.queryBody f (c.desc.op0 31 24) (c.desc.op0 23 0) = _ from known]
    refine ⟨fun st bad => ?_, fun body known none => ?_, fun body e known unused lost good fits run => ?_, fun none => ?_,
      fun one some => ?_, fun six zero vf => ?_, fun seven inside vf => ?_⟩
    · have drawn : s.failResult c.desc = s.freeWord := by rw [State.failResult, op]
      refine ⟨s.query f r c, s.freeWord.1, goes, ?_⟩
      rw [State.query, show s.queryBody f (c.desc.op0 31 24) (c.desc.op0 23 0) = _ from bad]
      dsimp only
      rw [State.fail, runs]
      dsimp only
      rw [drawn]
      rfl
    · rw [goes, answers body known, State.finishWith_of_no_buffer runs _ body _ none]
    · obtain ⟨u, eq, mem, host, ring⟩ := State.finishWith_of_written runs (0x10 + item) body (BitVec.ofNat 32 body.length) waits going
        unused lost good fits run
      exact ⟨u, by rw [goes, answers body known, eq], mem, host, ring⟩
    · rcases none with zero | above
      · rw [zero]; rfl
      · obtain ⟨k, more⟩ := Nat.exists_eq_add_of_le' above
        rw [more]; rfl
    · rw [one]; exact if_pos some
    · have notPf : (f : Nat) ≠ 0 := fun same => vf (Fin.ext same)
      rw [six, zero]; exact if_pos notPf
    · have notPf : (f : Nat) ≠ 0 := fun same => vf (Fin.ext same)
      rw [seven]
      exact (if_neg (Nat.not_le.mpr inside)).trans (if_pos notPf)

end Sys2Proof.Machine
end

section
/-! PROOFS. Host accesses: the PF memory window (R336), and host reads that time out (R337, R354). -/
namespace Sys2Proof.Machine

/-! ## The memory window -/

theorem blocks_in_page {pa n : Nat} (nonempty : 0 < n) (page : pa % 4096 + n ≤ 4096) : blocks pa n = [(pa, 0, n)] := by
  have one : (pa + n - 1) / 4096 + 1 - pa / 4096 = 1 := by omega
  have first : max pa (pa / 4096 * 4096) = pa := by omega
  have last : min (pa + n) ((pa / 4096 + 1) * 4096) = pa + n := by omega
  simp [blocks, one, first, last, nonempty.ne']

theorem State.devStore_memories (s : State) (noCache : Bool) (pa : Nat) (bs : List Byte) :
    (s.devStore noCache pa bs).mem = s.mem.write pa bs ∧ (s.devStore noCache pa bs).hostMem = s.hostMem :=
  (State.byMemory_pondWrite (kept := true) (s.devWrite pa bs) noCache pa bs.length).memories rfl

/-- A read of bytes that no stored error touches answers them. -/
theorem State.devRead_of_untouched {s : State} (rec : FaultRec) {pa n : Nat}
    (good : ∀ g ∈ granules pa n ++ lineGranules s.shape pa n, ∀ e, (g, e) ∉ s.ecc) :
    s.devRead rec pa n = (s.mem.readN pa n, false, s) := by
  have none : (granules pa n ++ lineGranules s.shape pa n).filter (fun g => s.ecc.any (fun c => c.1 == g)) = [] := by
    refine List.filter_eq_nil_iff.mpr fun g mem met => ?_
    obtain ⟨⟨k, e⟩, listed, same⟩ := List.any_eq_true.mp met
    obtain rfl : k = g := beq_iff_eq.mp same
    exact good k mem e listed
  rw [State.devRead, none]
  rfl

/-- Settles O24. -/
theorem memoryWindowReadsAndWrites : Obligations.MemoryWindowReadsAndWrites := by
  intro s o n data ready up nonempty page long a
  have open_ : (s.cfgReady && !(s.fn 0).resetting) = true := by rw [ready, up]; rfl
  have block : blocks (s.windowAddr o.toNat) n = [(a, 0, n)] := blocks_in_page (pa := a) nonempty (by omega)
  have writes : exec (.memwinWrite o data) s = .next (if s.windowReaches a then s.devStore false a data else s).settle := by
    refine congrArg (fun u => Host.Outcome.next (State.settle u)) ((if_pos open_).trans ?_)
    rw [State.windowWrite, long, block, List.foldl_cons, List.foldl_nil, List.drop_zero, List.take_of_length_le long.le]
  have reads (r : List Byte × Bool × State) (answer : (if s.windowReaches a then
        ([] ++ (s.devRead {} a n).1, false || (s.devRead {} a n).2.1, (s.devRead {} a n).2.2) else ([] ++ natLe n 0, false, s)) = r) :
      exec (.memwinRead o n) s = .next ({ r.2.2 with winOut := r.1, winPoison := r.2.1 } : State).settle := by
    refine congrArg Host.Outcome.next ((if_pos open_).trans ?_)
    rw [State.windowRead, block, List.foldl_cons, List.foldl_nil]
    exact congrArg (fun r : List Byte × Bool × State => ({ r.2.2 with winOut := r.1, winPoison := r.2.1 } : State).settle) answer
  refine ⟨fun reached => ⟨⟨_, writes, ?_⟩, fun good => ?_⟩, fun away => ⟨?_, ?_⟩⟩
  · obtain ⟨mem, host⟩ := s.devStore_memories false a data
    rw [if_pos reached, mem]
    exact ⟨fun i low => Memory.read_write_in s.mem a data i (long ▸ low), fun b out => Memory.read_write_out s.mem a data b (long ▸ out), host,
      (s.byMemory_devStore false a data).sq⟩
  · rw [State.devRead_of_untouched {} good, if_pos reached] at reads
    exact ⟨_, reads _ rfl, Memory.readN_eq _ _ _, rfl, rfl, rfl⟩
  · rw [writes, away]; rfl
  · rw [away] at reads
    have zeros : natLe n 0 = List.replicate n 0 := by
      clear * -
      induction n with
      | zero => rfl
      | succ n ih => rw [natLe, List.replicate_succ, Nat.zero_div, ih]; rfl
    exact ⟨_, reads _ rfl, zeros, rfl, rfl⟩

/-! ## A command that stops without a side buffer -/

theorem State.failResult_eq (s : State) (d : Desc) : (s.failResult d).2 = s ∨ (s.failResult d).2 = s.tick := by
  unfold State.failResult
  split
  case h_10 => exact .inr rfl
  all_goals exact .inl rfl

/-- A command that stops without a side buffer ends with its status; its fault record is lost. -/
theorem State.stopped_of_no_buffer {s : State} {f r : Nat} {c : Running} (runs : s.running f r = some c) (none : c.desc.sideLen = 0)
    (e : Stop) {x : FaultRec} (report : e.report = some x) (res : Option Word32) : ∃ (t : State) (v : Word32),
    (t = s ∨ t = s.tick) ∧ (∀ w, res = some w → v = w) ∧
    s.stopped f r e [] res = (t.setRunning f r (some { c with sideOvf := true })).endedWith f r { c with sideOvf := true } e.status v := by
  let y := match res with | some v => (v, s) | Option.none => s.failResult c.desc
  have drawn : (y.2 = s ∨ y.2 = s.tick) ∧ (∀ w, res = some w → y.1 = w) := by
    cases known : res with
    | none => exact ⟨by simp only [y, known]; exact s.failResult_eq c.desc, fun w h => nomatch h⟩
    | some v => exact ⟨.inl (by simp only [y, known]), fun w h => by simp only [y, known]; exact Option.some.inj h⟩
  have runs' : y.2.running f r = some c := by
    rcases drawn.1 with same | same <;> rw [same]
    · exact runs
    · exact runs
  refine ⟨y.2, y.1, drawn.1, drawn.2, ?_⟩
  rw [State.stopped, runs]
  show y.2.finishWith f r e.status y.1 [] e.report = _
  rw [report]
  exact (congrArg (fun u : State => u.finish f r e.status y.1) (y.2.side_of_no_buffer runs' 0x03 x.body none)).trans
    (State.finish_of_running _ f r _ _ _ (State.running_setRunning _ f r _))

/-- What a command that stops so leaves. -/
theorem State.stopped_fields {s : State} {f r : Nat} {c : Running} (runs : s.running f r = some c) (going : c.done = none)
    (good : c.sideEnd = none) (none : c.desc.sideLen = 0) (e : Stop) {x : FaultRec} (report : e.report = some x) (res : Option Word32) :
    ∃ v, (∀ w, res = some w → v = w) ∧
      ((s.stopped f r e [] res).sq f r).running =
        some { c with done := some (e.status, v), sideOvf := true, wait := .none, doneAt := s.ends } ∧
      ((s.stopped f r e [] res).fn f).aer = (s.fn f).aer ∧ (s.stopped f r e [] res).mem = s.mem ∧
      (s.stopped f r e [] res).hostMem = s.hostMem ∧
      ∀ f' r', (f' ≠ f ∨ r' ≠ r) → (s.stopped f r e [] res).sq f' r' = s.sq f' r' := by
  obtain ⟨t, v, drawn, known, ends⟩ := State.stopped_of_no_buffer runs none e report res
  obtain ⟨fns, mem, host, count⟩ : t.fns = s.fns ∧ t.mem = s.mem ∧ t.hostMem = s.hostMem ∧ t.ends = s.ends := by
    rcases drawn with same | same <;> rw [same] <;> exact ⟨rfl, rfl, rfl, rfl⟩
  have first : mergeEnd c.done (c.statusOf e.status) v = some (e.status, v) := by rw [Running.statusOf, good, going]; rfl
  rw [ends]
  refine ⟨v, known, ?_, ?_, mem, host, fun f' r' other => ?_⟩
  · refine (State.running_setRunning _ f r _).trans ?_
    exact congrArg₂ (fun y n => some { c with done := y, sideOvf := true, wait := .none, doneAt := n }) first count
  · have aer (u : State) (k : Option Running) : ((u.setRunning f r k).fn f).aer = (u.fn f).aer := by
      rw [State.setRunning, State.setSq, u.fn_setFn]
    rw [State.endedWith, aer]
    refine (aer t _).trans ?_
    rw [State.fn, fns]
    rfl
  · refine (State.sq_setSq_ne _ f r f' r' _ other).trans ((t.sq_setSq_ne f r f' r' _ other).trans ?_)
    rw [State.sq, State.fn, fns]
    rfl

/-! ## Host reads that time out -/

theorem State.readEnds_of_word {c : Running} {w : Word64} (waits : c.wait = .word w) (t : State) (f r : Nat) (e : Stop) :
    t.readEnds f r c e = t.stopped f r e [] (some (w.setWidth 32)) := by
  rw [State.readEnds, waits]

theorem State.readEnds_of_started {c : Running} (waits : c.wait = .none)
    (plain : opcodeOf c.desc.opcode ∉ [some .hopperBatch, some .raceDecode, some .raceEncode]) (t : State) (f r : Nat) (e : Stop) :
    t.readEnds f r c e = t.stopped f r e := by
  rw [State.readEnds, waits]
  dsimp only
  generalize opcodeOf c.desc.opcode = o at plain
  split
  · exact absurd (.head _) plain
  · exact absurd (.tail _ (.head _)) plain
  · exact absurd (.tail _ (.tail _ (.head _))) plain
  · rfl

/-- Only a batch reads host memory for a batch that runs. -/
theorem State.hostReader_of_batch {s : State} {f r : Nat} {c : Running} {va : Nat} {a : Acc} {j : HopperJob} (waits : c.wait = .hopper j)
    (reader : s.hostReader f r c va = some a) : opcodeOf c.desc.opcode = some .hopperBatch := by
  unfold State.hostReader at reader
  extract_lets d word shape data at reader
  rw [show opcodeOf c.desc.opcode = opcodeOf d.opcode from rfl]
  generalize opcodeOf d.opcode = o at reader ⊢
  rw [waits] at reader
  clear_value data word shape
  cases o with
  | none => exact nomatch reader
  | some o =>
    cases o
    case hopperBatch => rfl
    all_goals exact nomatch reader

theorem State.readEnds_of_hostReader {s : State} {f r : Nat} {c : Running} {va : Nat} {a : Acc} (reader : s.hostReader f r c va = some a)
    (plain : opcodeOf c.desc.opcode ∉ [some .hopperBatch, some .raceDecode, some .raceEncode]) (t : State) (e : Stop) : ∃ res,
    t.readEnds f r c e = t.stopped f r e [] res ∧ ∀ w, c.wait = .word w → res = some (w.setWidth 32) := by
  cases waits : c.wait with
  | word w => exact ⟨_, t.readEnds_of_word waits f r e, fun w' same => by cases same; rfl⟩
  | none => exact ⟨none, State.readEnds_of_started waits plain t f r e, fun w same => nomatch same⟩
  | hopper j => exact absurd (State.hostReader_of_batch waits reader) fun same => plain (by rw [same]; exact .head _)
  | _ => exact ⟨none, by rw [State.readEnds, waits], fun w same => nomatch same⟩

/-- Settles O34. -/
theorem hostReadTimeoutEndsTheCommand : Obligations.HostReadTimeoutEndsTheCommand := by
  intro s f r va
  refine ⟨fun c a ha runs going reader host none good plain => ?_, fun idle => ?_, fun c runs away => ?_⟩
  · have up := State.byMemory_setAer (kept := true) s f aerTimeout
    obtain ⟨res, ends, word⟩ := State.readEnds_of_hostReader reader plain (s.setAer f aerTimeout)
      { status := .dataError, report := some (a.fault 6 va.toNat) }
    have goes : exec (.completionTimeout f r va) s = .next ((s.setAer f aerTimeout).stopped f r
        { status := .dataError, report := some (a.fault 6 va.toNat) } [] res).settle := by
      refine congrArg (fun u => Host.Outcome.next (State.settle u)) (Eq.trans ?_ ends)
      rw [State.readTimedOut, runs]
      dsimp only
      rw [going, if_neg (by decide), reader]
      dsimp only
      rw [host]
    obtain ⟨v, known, ring, aer, mem, hostMem, others⟩ := State.stopped_fields ((up.running f r).trans runs) going good none
      { status := .dataError, report := some (a.fault 6 va.toNat) } rfl res
    obtain ⟨mem', host'⟩ := up.memories rfl
    refine ⟨_, v, goes, ring.trans (by rw [up.ends]), fun w waits => known _ (word w waits), ?_, mem.trans mem', hostMem.trans host',
      fun f' r' other => (others f' r' other).trans (up.sq f' r')⟩
    rw [aer, State.setAer, s.fn_setFn]
    simp [aerTimeout]
  · refine congrArg (fun u => Host.Outcome.next (State.settle u)) ?_
    rw [State.readTimedOut, idle]
  · refine congrArg (fun u => Host.Outcome.next (State.settle u)) ?_
    rw [State.readTimedOut, runs]
    dsimp only
    rcases away with done | unread | ⟨a, reader, elsewhere⟩
    · rw [if_pos done]
    · rw [unread, ite_self]
    · split
      · rfl
      next a' found =>
        have same : a' = a := by
          split at found
          · exact nomatch found
          · exact Option.some.inj (found.symm.trans reader)
        rw [same]
        split
        next ha leads => exact absurd leads (elsewhere ha)
        · rfl

end Sys2Proof.Machine
end

section
/-! PROOFS. Ports and pulses of the links (R221, R222, R225, R240, R431), LINK_SCHEDULE and its time-out (R226 to R228, R386). -/
namespace Sys2Proof.Machine

/-! ## Failures of this module (R241, R244) -/

theorem keepHalt_isSome (o : Option Halt) (n : Halt) : (keepHalt o n).isSome = true := by
  cases o with
  | none => rfl
  | some o =>
    rw [keepHalt_some]
    split <;> rfl

/-- A failure while a schedule is up halts at the next boundary and keeps the first detection. -/
theorem State.linkFail_fields (s : State) (p : Nat) (reason : BitVec 8) (up : s.linkUp = true) :
    (s.linkFail p reason).leat.haltNext = true ∧ (s.linkFail p reason).leat.halt.isSome = true ∧
    (s.linkFail p reason).leat.own =
      some (s.leat.own.getD { turn := s.leat.turn, origin := s.moduleId.toNat, port := p, reason := reason }) ∧
    (s.linkFail p reason).mem = s.mem ∧ (s.linkFail p reason).hostMem = s.hostMem := by
  refine ⟨?_, by rw [s.halt_linkFail p reason up]; exact keepHalt_isSome _ _, ?_⟩
  · simp [State.linkFail, up]
  · simp only [State.linkFail, up]
    cases s.leat.own <;> exact ⟨rfl, rfl, rfl⟩

/-! ## Pulses (R221, R222, R225, R431) -/

/-- A pulse that a member may take: it is accepted unless the module idles or the pulse comes too far from its boundary. -/
theorem State.takePulse_some (s : State) (start : Bool) (ps : Int) (member : s.turnRoot = false) : s.takePulse (some start) ps =
    if s.leat.state = .idle ∨ (s.leat.synced = true ∧ 20000 < ps.natAbs) then s
    else { s with leat := { s.leat with
      edge := true, synced := true, missed := 0, startNext := s.leat.startNext || (start && s.leat.state == .sync) } } := by
  simp [State.takePulse, member]

theorem State.takePulse_of_root {s : State} (root : s.turnRoot = true) (kind : Option Bool) (ps : Int) : s.takePulse kind ps = s := by
  simp [State.takePulse, root]

/-- Settles O44. -/
theorem portAndPulseEvents : Obligations.PortAndPulseEvents := by
  intro s p ch ns ps x l
  refine ⟨fun sync on untrained => ?_, rfl, rfl, ?_, fun reason up => ?_, ⟨fun root => ?_, fun member => ⟨?_, fun role unseen => ?_⟩, fun none => ?_⟩⟩
  · have trains : l.state = .sync ∧ x.on = true ∧ (!x.trained) = true := ⟨sync, on, by rw [untrained]; rfl⟩
    exact ⟨fun near => congrArg Host.Outcome.next ((if_pos trains).trans (if_neg (Nat.not_lt.mpr near))),
      fun far => congrArg Host.Outcome.next ((if_pos trains).trans (if_pos far))⟩
  · refine congrArg Host.Outcome.next ?_
    simp only [Bool.and_eq_true, Bool.not_eq_true', decide_eq_true_eq, and_assoc]
    rfl
  · obtain ⟨halts, -, own, -, -⟩ := s.linkFail_fields p reason up
    exact ⟨halts, own⟩
  · exact congrArg Host.Outcome.next (State.takePulse_of_root (s := s.showEdge) root _ ps)
  · refine congrArg Host.Outcome.next ?_
    unfold pulseIn
    split
    · exact State.takePulse_some s.showEdge false ps member
    · split
      · exact State.takePulse_some s.showEdge true ps member
      · exact if_neg (by rw [show s.showEdge.turnRoot = _ from member]; decide)
  · have serves : ((s.pin 0).tsync && !s.leat.shown) = true := by rw [role, show s.leat.shown = _ from unseen]; rfl
    refine congrArg Host.Outcome.next ((if_pos serves).trans ?_)
    unfold pulseFb
    split
    · exact State.takePulse_some s false ps member
    · split
      · exact State.takePulse_some s true ps member
      · exact if_neg (by rw [member]; decide)
  · refine congrArg Host.Outcome.next ?_
    split
    next serves =>
      rw [Bool.and_eq_true, Bool.not_eq_true'] at serves
      obtain ⟨role, unseen⟩ := serves
      rcases none with root | unused | seen
      · exact State.takePulse_of_root root _ ps
      · exact absurd (role.symm.trans unused) (by decide)
      · exact absurd (unseen.symm.trans seen) (by decide)
    · rfl

/-! ## Commands turned away (R364, R387) -/

/-- Where the results table leaves RESULT open, a check that turns a command away draws a free value. -/
theorem State.fail_of_freeWord {s : State} {f r : Nat} {c : Running} (runs : s.running f r = some c)
    (open_ : s.failResult c.desc = s.freeWord) (st : Status) :
    s.fail f r st = ({ s with freeCount := s.freeCount + 1 } : State).turnedAway f r c st s.freeWord.1 := by
  rw [State.fail, runs]
  dsimp only
  rw [open_]
  rfl

/-! ## The schedule image (R226, R227) -/

theorem readImage_byMemory {kept : Bool} (f va : Nat) : Run.ByMemory kept (readImage f va) := by
  unfold readImage
  refine Run.byMemory_bind (readWords_byMemory _ _ _) fun h => Run.byMemory_ite (Run.byMemory_pure _) ?_
  refine Run.byMemory_bind (readSV_byMemory _ _ _) fun m => Run.byMemory_bind (readSV_byMemory _ _ _) fun t => ?_
  exact Run.byMemory_bind (readSV_byMemory _ _ _) fun r => Run.byMemory_bind (readSV_byMemory _ _ _) fun c => Run.byMemory_pure _

/-- An image whose header and tables lie in device memory is read as it lies there. -/
theorem readImage_of_reaches {s : State} {f va ph pm pt pr pc : Nat} (clean : s.ecc = []) (reach : s.Reaches (linkAcc f) false va 128 ph)
    (good : headerOk (wordsOf (s.mem.readN ph 128) 16) = true) :
    let h := wordsOf (s.mem.readN ph 128) 16
    let table (i n pa : Nat) : Prop := s.Reaches (linkAcc f) false ((wordAt h i).toNat % 2 ^ 48) n pa
    table 4 (schedPeriod h * 960) pm → table 5 2046 pt → table 6 (schedRings h * 2048) pr → table 7 384 pc →
    (readImage f va).exec s = (.ok ⟨h, s.mem.readN pm (schedPeriod h * 960), s.mem.readN pt 2046, s.mem.readN pr (schedRings h * 2048),
      s.mem.readN pc 384⟩, { s := s }) := by
  intro h table slots routes rings credits
  refine Run.exec_of_run clean (fl := {}) ?_
  have place (i : Nat) : fld (wordAt h i) 47 0 = (wordAt h i).toNat % 2 ^ 48 := fld_low _ 47
  have first : (readWords (linkAcc f) va 16).run.run { s := s } = (.ok h, { s := s }) := readWords_of_reaches (n := 16) clean reach rfl
  unfold readImage
  rw [Run.bind_of_ok first, show headerOk h = true from good]
  simp only [Bool.not_true, if_neg Bool.false_ne_true, place]
  rw [Run.bind_of_ok (readSV_of_reaches clean slots rfl), Run.bind_of_ok (readSV_of_reaches clean routes rfl),
    Run.bind_of_ok (readSV_of_reaches clean rings rfl), Run.bind_of_ok (readSV_of_reaches clean credits rfl)]
  rfl

/-! ## LINK_SCHEDULE (R228) -/

/-- The checks of an image (R226 to R228). -/
theorem SchedImage.good_iff (s : State) (im : SchedImage) :
    (!headerOk im.header || !im.tablesOk || !s.rootAgrees im.header) = false ↔ headerOk im.header = true ∧ im.tablesOk = true ∧
      (s.turnRoot = true ↔ (wordAt im.header 2).toNat / 2 ^ 16 % 1024 = s.moduleId.toNat) := by
  have root : s.rootAgrees im.header = true ↔
      (s.turnRoot = true ↔ (wordAt im.header 2).toNat / 2 ^ 16 % 1024 = s.moduleId.toNat) := by
    rw [State.rootAgrees, beq_iff_eq, Bool.eq_iff_iff, beq_iff_eq]
    rfl
  rw [← root]
  cases headerOk im.header <;> cases im.tablesOk <;> cases s.rootAgrees im.header <;> decide

/-- A table listed for the indices of a range that a predicate holds of. -/
theorem Table.get_filterMap_range {α : Type} (d v : α) (b : Nat → Bool) {n k : Nat} (inside : k < n) :
    Table.get d ((List.range n).filterMap (fun p => if b p then some (p, v) else none)) k = if b k then v else d := by
  have pick : (fun p => ((if b p = true then some (p, v) else none).any (fun c => c.1 == k))) = fun p => b p && p == k := by
    funext p
    cases b p <;> rfl
  rw [Table.get, List.find?_filterMap, pick]
  cases on : b k with
  | true =>
    have hit : (List.range n).find? (fun p => b p && p == k) = some k := by
      rw [List.find?_range_eq_some]
      refine ⟨by rw [on, beq_self_eq_true]; rfl, List.mem_range.mpr inside, fun j low => ?_⟩
      rw [beq_eq_false_iff_ne.mpr low.ne, Bool.and_false]; rfl
    rw [hit, Option.bind_some, if_pos on]
    rfl
  | false =>
    have miss : (List.range n).find? (fun p => b p && p == k) = none := by
      rw [List.find?_eq_none]
      intro p _ both
      rw [Bool.and_eq_true, beq_iff_eq] at both
      obtain ⟨holds, rfl⟩ := both
      exact absurd (holds.symm.trans on) (by decide)
    rw [miss]
    rfl

/-- The ports of a module that enters SYNC: those of PORT_MASK are on, none is trained. -/
theorem State.port_enterSync (s : State) (r : Nat) (x : Schedule) {p : Nat} (inside : p < 12) :
    ((s.enterSync r x).port p).on = x.mask.getLsbD p ∧ ((s.enterSync r x).port p).trained = false := by
  have ports : (s.enterSync r x).port p = if x.mask.toNat.testBit p then { on := true } else {} :=
    Table.get_filterMap_range ({} : Port) { on := true } x.mask.toNat.testBit inside
  rw [ports, show x.mask.toNat.testBit p = x.mask.getLsbD p from rfl]
  cases x.mask.getLsbD p <;> exact ⟨rfl, rfl⟩

section
variable {s : State} {f r : Nat} {c : Running} {im : SchedImage} {e : Eng} (pf : f = 0)
  (run : (readImage f (c.desc.addr 0x10)).exec s = (.ok im, e))
include pf run

/-- A sound schedule while none is up: the module enters SYNC and the command waits. -/
theorem State.linkSchedule_of_good (good : (!headerOk im.header || !im.tablesOk || !e.s.rootAgrees im.header) = false)
    (whole : e.s.shape = .whole) (down : e.s.linkUp = false) :
    s.linkSchedule f r c = (e.s.enterSync r im.schedule).setRunning f r (some { c with wait := .link }) := by
  have up : ¬(e.s.shape ≠ .whole ∨ e.s.linkUp = true) := by rw [whole, down]; simp
  rw [State.linkSchedule, if_neg (not_not.mpr pf), run]
  dsimp only
  rw [good, if_neg Bool.false_ne_true, if_neg up]

theorem State.linkSchedule_of_bad (bad : (!headerOk im.header || !im.tablesOk || !e.s.rootAgrees im.header) = true) :
    s.linkSchedule f r c = e.s.fail f r .malformed := by
  rw [State.linkSchedule, if_neg (not_not.mpr pf), run]
  dsimp only
  rw [if_pos bad]

theorem State.linkSchedule_of_busy (good : (!headerOk im.header || !im.tablesOk || !e.s.rootAgrees im.header) = false)
    (up : e.s.shape ≠ .whole ∨ e.s.linkUp = true) : s.linkSchedule f r c = e.s.fail f r .state := by
  rw [State.linkSchedule, if_neg (not_not.mpr pf), run]
  dsimp only
  rw [good, if_neg Bool.false_ne_true, if_pos up]

end

/-- What the module then holds. -/
theorem State.scheduled_fields (t : State) (f r : Nat) (x : Schedule) (k : Running) :
    let u := (t.enterSync r x).setRunning f r (some k)
    u.leat.state = .sync ∧ u.leat.sched = x ∧ u.leat.cmdRing = some r ∧
    (∀ p < 12, (u.port p).on = x.mask.getLsbD p ∧ (u.port p).trained = false) ∧ (u.sq f r).running = some k ∧
    u.mem = t.mem ∧ u.hostMem = t.hostMem :=
  ⟨rfl, rfl, rfl, fun _ inside => t.port_enterSync r x inside, State.running_setRunning _ f r _, rfl, rfl⟩

/-- The time-out of SYNC holds the ports off; the waiting command ends with TIMEOUT. -/
theorem State.syncExpiry_of_due {s : State} (due : s.leat.state = .sync ∧ 2 ^ 22 ≤ s.leat.syncTurns ∧ s.leat.startNext = false ∧
    s.leat.loaded = false) : s.syncExpiry = match s.leat.cmdRing with
      | some r => s.leatOff.finish 0 r .timeout (s.leat.turn.setWidth 32)
      | none => s.leatOff := by
  obtain ⟨sync, long, noStart, notLoaded⟩ := due
  refine if_neg ?_
  rw [noStart, notLoaded]
  simp only [Bool.or_false, Bool.or_eq_true, decide_eq_true_eq]
  exact fun away => away.elim (fun other => other sync) (Nat.not_lt.mpr long)

theorem State.syncExpiry_of_not_due {s : State} (early : ¬(s.leat.state = .sync ∧ 2 ^ 22 ≤ s.leat.syncTurns ∧ s.leat.startNext = false ∧
    s.leat.loaded = false)) : s.syncExpiry = s := by
  refine if_pos ?_
  by_contra quiet
  simp only [Bool.or_eq_true, decide_eq_true_eq, not_or, not_not, Bool.not_eq_true, Nat.not_lt] at quiet
  obtain ⟨⟨⟨sync, long⟩, noStart⟩, notLoaded⟩ := quiet
  exact early ⟨sync, long, noStart, notLoaded⟩

/-- Settles O43. -/
theorem linkScheduleCommandsFollowTheirChecks : Obligations.LinkScheduleCommandsFollowTheirChecks := by
  intro s f r c
  have drawn (t : State) (op : opcodeOf c.desc.opcode = some .linkSchedule) : t.failResult c.desc = t.freeWord := by
    rw [State.failResult, op]
  refine ⟨fun fresh starts => ?_, fun fresh stops => ?_, ?_⟩
  · obtain ⟨runs, waits, going, op, -⟩ := (s.fresh_iff f r _ c).1 fresh
    have goes : exec (.linkSchedule f r) s = .next (s.linkSchedule f r c).settle :=
      congrArg (fun u => Host.Outcome.next (State.settle u)) ((State.runCmd_of_fresh s f r _ _ c fresh).trans (if_pos starts))
    refine ⟨fun vf => ⟨s.freeWord.1, ?_⟩, ?image, ?table⟩
    · have notPf : (f : Nat) ≠ 0 := fun same => vf (Fin.ext same)
      rw [goes, State.linkSchedule, if_pos notPf, State.fail_of_freeWord runs (drawn s op)]
    case image =>
      intro im e pf run good
      have zero : (f : Nat) = 0 := congrArg Fin.val pf
      have known := Run.ByMemory.exec (kept := true) (readImage_byMemory f (c.desc.addr 0x10)) s
      rw [run] at known
      have runs' : e.s.running f r = some c := (known.running _ _).trans runs
      have root : e.s.turnRoot = s.turnRoot := (congrArg State.turnRoot known.rest :)
      have ident : e.s.moduleId = s.moduleId := (congrArg State.moduleId known.rest :)
      have shape : e.s.shape = s.shape := (congrArg State.shape known.rest :)
      have up : e.s.linkUp = s.linkUp := (congrArg State.linkUp known.rest :)
      have checks := im.good_iff e.s
      rw [root, ident] at checks
      refine ⟨fun bad => ⟨e.s.freeWord.1, ?_⟩, fun sound busy => ⟨e.s.freeWord.1, ?_⟩, fun sound whole down => ⟨_, goes, ?_⟩⟩
      · have fails := (Bool.not_eq_false _).mp (bad ∘ checks.mp)
        rw [goes, State.linkSchedule_of_bad zero run fails, State.fail_of_freeWord runs' (drawn e.s op)]
      · rw [goes, State.linkSchedule_of_busy zero run (checks.mpr sound) (by rw [shape, up]; exact busy),
          State.fail_of_freeWord runs' (drawn e.s op)]
      · rw [State.linkSchedule_of_good zero run (checks.mpr sound) (shape.trans whole) (up.trans down)]
        obtain ⟨sync, sched, ring, ports, command, mem, host⟩ := e.s.scheduled_fields f r im.schedule { c with wait := .link }
        obtain ⟨mem', host'⟩ := known.memories rfl
        exact ⟨sync, sched, ring, ports, command, mem.trans mem', host.trans host'⟩
    case table =>
      intro ph pm pt pr pc pf clean whole down reach h table im slots routes rings credits header tables root
      have run := readImage_of_reaches clean reach header slots routes rings credits
      have sound := (SchedImage.good_iff s im).mpr ⟨header, tables, root⟩
      rw [goes, State.linkSchedule_of_good (congrArg Fin.val pf) run sound whole down]
      exact ⟨_, rfl, s.scheduled_fields f r im.schedule { c with wait := .link }⟩
  · obtain ⟨runs, waits, going, op, -⟩ := (s.fresh_iff f r _ c).1 fresh
    have goes : exec (.linkScheduleHalt f r) s = .next (s.linkHaltCmd f r c) :=
      congrArg Host.Outcome.next ((State.runCmd_of_fresh s f r _ _ c fresh).trans (if_pos stops))
    refine ⟨fun vf => ⟨s.freeWord.1, ?_⟩, fun pf down => ⟨s.freeWord.1, ?_⟩, fun pf up => ⟨_, goes, ?_⟩⟩
    · have notPf : (f : Nat) ≠ 0 := fun same => vf (Fin.ext same)
      rw [goes, State.linkHaltCmd, if_pos notPf, State.fail_of_freeWord runs (drawn s op)]
    · have zero : (f : Nat) = 0 := congrArg Fin.val pf
      rw [goes, State.linkHaltCmd, if_neg (not_not.mpr zero), if_pos (by rw [down]; rfl), State.fail_of_freeWord runs (drawn s op)]
    · have zero : (f : Nat) = 0 := congrArg Fin.val pf
      rw [State.linkHaltCmd, if_neg (not_not.mpr zero), if_neg (by rw [up]; decide)]
      obtain ⟨halts, kept, own, mem, host⟩ := s.linkFail_fields 0 reasonLocal up
      exact ⟨halts, kept, congrArg Option.isSome own, State.running_setRunning _ f r _, mem, host⟩
  · intro due
    refine ⟨fun early => congrArg Host.Outcome.next (State.syncExpiry_of_not_due early), fun k now ring runs going => ?_⟩
    have ends := State.finish_of_running s.leatOff 0 r k .timeout (s.leat.turn.setWidth 32) runs
    refine ⟨s.leatOff.endedWith 0 r k .timeout (s.leat.turn.setWidth 32), congrArg Host.Outcome.next ?_, rfl, rfl, rfl, rfl, ?_⟩
    · rw [State.syncExpiry_of_due now, ring]
      exact ends
    · refine (State.running_setRunning _ 0 r _).trans ?_
      rw [going]
      rfl

end Sys2Proof.Machine
end

section
/-! PROOFS. Markers (R219, R220, R223, R225, R229 to R231) and flits (R218, R219, R231, R232): what is taken, what is a failure. -/
namespace Sys2Proof.Machine

/-! ## Detections (R240, R241) -/

/-- `t` follows `s` by receiving, which is a failure exactly if `fails`: ports, what is sent and the halt to come are all that changes. -/
structure State.Detects (s t : State) (fails : Prop) : Prop where
  rest  : ∃ ports out next halt own,
    t = { s with leat := { s.leat with ports := ports, out := out, haltNext := next, halt := halt, own := own } }
  kept  : ¬fails → t.leat.haltNext = s.leat.haltNext ∧ t.leat.halt = s.leat.halt
  halts : s.linkUp = true → fails ∨ s.leat.haltNext = true → t.leat.haltNext = true

namespace State.Detects
variable {s t u : State} {a b : Prop}

theorem linkUp (step : s.Detects t a) : t.linkUp = s.linkUp := by
  obtain ⟨ports, out, next, halt, own, rfl⟩ := step.rest
  rfl

theorem misaligned (step : s.Detects t a) : t.misaligned = s.misaligned := by
  obtain ⟨ports, out, next, halt, own, rfl⟩ := step.rest
  rfl

/-- The rest of the module and of the links stands. -/
theorem frame (step : s.Detects t a) : t.mem = s.mem ∧ t.hostMem = s.hostMem ∧ t.fns = s.fns ∧ t.leat.state = s.leat.state ∧
    t.leat.turn = s.leat.turn ∧ t.leat.sched = s.leat.sched := by
  obtain ⟨ports, out, next, halt, own, rfl⟩ := step.rest
  exact ⟨rfl, rfl, rfl, rfl, rfl, rfl⟩

theorem trans (first : s.Detects t a) (next : t.Detects u b) : s.Detects u (a ∨ b) where
  rest := by
    obtain ⟨_, _, _, _, _, rfl⟩ := first.rest
    obtain ⟨_, _, _, _, _, rfl⟩ := next.rest
    exact ⟨_, _, _, _, _, rfl⟩
  kept neither := by
    obtain ⟨left, right⟩ := not_or.mp neither
    obtain ⟨here, halt⟩ := first.kept left
    obtain ⟨there, halt'⟩ := next.kept right
    exact ⟨there.trans here, halt'.trans halt⟩
  halts up some := by
    have up' : t.linkUp = true := first.linkUp.trans up
    rcases some with (left | right) | was
    · exact next.halts up' (.inr (first.halts up (.inl left)))
    · exact next.halts up' (.inl right)
    · exact next.halts up' (.inr (first.halts up (.inr was)))

theorem congr (step : s.Detects t a) (same : a ↔ b) : s.Detects t b := propext same ▸ step

end State.Detects

theorem State.detects_ports (s : State) (t : Table Port) : s.Detects (s.withPorts t) False :=
  ⟨⟨t, _, _, _, _, rfl⟩, fun _ => ⟨rfl, rfl⟩, fun _ some => some.elim False.elim id⟩

theorem State.detects_linkFail (s : State) (p : Nat) (reason : BitVec 8) : s.Detects (s.linkFail p reason) True where
  rest := by
    unfold State.linkFail
    split
    · exact ⟨s.leat.ports, _, _, _, _, rfl⟩
    · exact ⟨s.leat.ports, _, _, _, _, rfl⟩
  kept := fun no => absurd trivial no
  halts := fun up _ => (s.linkFail_fields p reason up).1

theorem State.ports_linkFail (s : State) (p : Nat) (reason : BitVec 8) : (s.linkFail p reason).leat.ports = s.leat.ports := by
  unfold State.linkFail
  split <;> rfl

theorem State.linkFail_of_down {s : State} (down : s.linkUp = false) (p : Nat) (reason : BitVec 8) : s.linkFail p reason = s := by
  rw [State.linkFail, down]
  rfl

theorem State.detects_failIf (s : State) (b : Bool) (p : Nat) (reason : BitVec 8) : s.Detects (s.failIf b p reason) (b = true) := by
  cases b with
  | true => exact (s.detects_linkFail p reason).congr ⟨fun _ => rfl, fun _ => trivial⟩
  | false => exact (s.detects_ports s.leat.ports).congr ⟨False.elim, fun no => Bool.noConfusion no⟩

theorem State.ports_failIf (s : State) (b : Bool) (p : Nat) (reason : BitVec 8) : (s.failIf b p reason).leat.ports = s.leat.ports := by
  cases b with
  | true => exact s.ports_linkFail p reason
  | false => rfl

theorem State.failIf_of_down {s : State} (down : s.linkUp = false) (b : Bool) (p : Nat) (reason : BitVec 8) : s.failIf b p reason = s := by
  cases b with
  | true => exact State.linkFail_of_down down p reason
  | false => rfl

/-! ## Uncorrectable lanes (R231) -/

/-- Is the next uncorrectable codeword of a lane its fifth? -/
def Port.fifth (x : Port) (lane : Nat) : Prop := 4 ≤ x.bad.countP (· == lane)

theorem State.detects_countBad (s : State) (p lane : Nat) : s.Detects (s.countBad p lane) ((s.port p).fifth lane) := by
  have counted : s.Detects (s.setPort p { s.port p with bad := (s.port p).bad ++ [lane] }) False := s.detects_ports _
  refine (counted.trans (State.detects_failIf _ _ p reasonFec)).congr ?_
  rw [false_or, decide_eq_true_iff, ← List.countP_eq_length_filter]
  rfl

theorem State.port_countBad (s : State) (p lane : Nat) :
    (s.countBad p lane).port p = { s.port p with bad := (s.port p).bad ++ [lane] } := by
  rw [State.countBad, State.port, State.ports_failIf]
  exact s.port_setPort p _

/-- Different lanes without a codeword: a failure where one of them has its fifth. -/
theorem State.detects_foldl_countBad (p : Nat) (l : List Nat) (different : l.Nodup) (s : State) :
    s.Detects (l.foldl (fun s j => s.countBad p j) s) (∃ j ∈ l, (s.port p).fifth j) ∧
    ∃ bad, (l.foldl (fun s j => s.countBad p j) s).port p = { s.port p with bad := bad } := by
  induction l generalizing s with
  | nil => exact ⟨(s.detects_ports s.leat.ports).congr (by simp), _, rfl⟩
  | cons i l ih =>
    obtain ⟨fresh, different⟩ := List.nodup_cons.1 different
    obtain ⟨step, bad, port⟩ := ih different (s.countBad p i)
    have counted := s.port_countBad p i
    refine ⟨((s.detects_countBad p i).trans step).congr ?_, bad, by rw [List.foldl_cons, port, counted]⟩
    have same (j : Nat) (mem : j ∈ l) : ((s.countBad p i).port p).fifth j ↔ (s.port p).fifth j := by
      have other : (i == j) = false := beq_eq_false_iff_ne.mpr fun same : i = j => fresh (same ▸ mem)
      rw [counted, Port.fifth, Port.fifth, List.countP_append, List.countP_singleton, other]
      rfl
    simp only [List.mem_cons, exists_eq_or_imp]
    exact or_congr_right (exists_congr fun j => and_congr_right fun mem => same j mem)

theorem State.haltNext_foldl_countBad_of_down {s : State} (down : s.linkUp = false) (p : Nat) (l : List Nat) :
    (l.foldl (fun s j => s.countBad p j) s).linkUp = false ∧
    (l.foldl (fun s j => s.countBad p j) s).leat.haltNext = s.leat.haltNext := by
  refine List.foldlRecOn (motive := fun u : State => u.linkUp = false ∧ u.leat.haltNext = s.leat.haltNext) _ _ ⟨down, rfl⟩ ?_
  rintro u ⟨quiet, next⟩ j -
  have counted : u.countBad p j = u.setPort p { u.port p with bad := (u.port p).bad ++ [j] } :=
    State.failIf_of_down (s := u.setPort p _) quiet _ p reasonFec
  rw [counted]
  exact ⟨quiet, next⟩

/-! ## The marker itself (R220, R223, R230) -/

/-- What makes a marker a failure, or brings a peer's halt. -/
def State.markerFails (s : State) (p : Nat) (bs : List Byte) (arrival : Int) : Prop :=
  let w := word64At bs 0x10
  (s.leat.state = .run ∧ (fld w 15 14 = 0 ∨ word64At bs 0 ≠ s.leat.turn)) ∨ word64At bs 8 ≠ s.leat.sched.tag ∨
  fld w 9 0 ≠ s.leat.sched.peers.getD p 0 ∨ (s.leat.state = .run ∧ 480 < (arrival - 12 * ((s.port p).latency : Int)).natAbs) ∨
  fld w 25 16 ≠ s.leat.sched.root

theorem State.port_foldl_credits (p : Nat) (g : Nat → Word32) (l : List Nat) (s : State) :
    let u := l.foldl (fun s c => let x := s.port p; s.setPort p (x.setChan c { x.chan c with credit := g c })) s
    (u.port p).skew = (s.port p).skew ∧
    ∀ c, (u.port p).chan c = if c ∈ l then { (s.port p).chan c with credit := g c } else (s.port p).chan c := by
  induction l generalizing s with
  | nil => exact ⟨rfl, fun c => (if_neg List.not_mem_nil).symm⟩
  | cons i l ih =>
    let v := (s.port p).setChan i { (s.port p).chan i with credit := g i }
    obtain ⟨skew, chans⟩ := ih (s.setPort p v)
    rw [s.port_setPort p v] at skew chans
    refine ⟨skew, fun c => (chans c).trans ?_⟩
    by_cases here : c = i
    · subst here
      have now : v.chan c = { (s.port p).chan c with credit := g c } := Table.get_put _ _ c _
      rw [now, if_pos List.mem_cons_self, ite_self]
    · have now : v.chan c = (s.port p).chan c := Table.get_put_ne _ _ _ i c _ here
      have mem : c ∈ i :: l ↔ c ∈ l := by rw [List.mem_cons]; exact or_iff_right here
      rw [now]
      exact if_congr mem.symm rfl rfl

theorem State.port_takeCredits (s : State) (p : Nat) (bs : List Byte) :
    ((s.takeCredits p bs).port p).skew = (s.port p).skew ∧
    ∀ c < 16, (((s.takeCredits p bs).port p).chan c).credit = word32At bs (0x40 + 4 * c) ∧
      (((s.takeCredits p bs).port p).chan c).tx = ((s.port p).chan c).tx := by
  obtain ⟨skew, chans⟩ := State.port_foldl_credits p (fun c => word32At bs (0x40 + 4 * c)) (List.range 16) s
  refine ⟨skew, fun c low => ?_⟩
  have here : ((s.takeCredits p bs).port p).chan c = { (s.port p).chan c with credit := word32At bs (0x40 + 4 * c) } :=
    (chans c).trans (if_pos (List.mem_range.mpr low))
  rw [here]
  exact ⟨rfl, rfl⟩

theorem State.detects_peerHalt (s : State) (bs : List Byte) : s.Detects (s.peerHalt bs) True :=
  ⟨⟨s.leat.ports, _, _, _, _, rfl⟩, fun no => absurd trivial no, fun up _ => up⟩

theorem State.marker_fields (s : State) (p : Nat) (bs : List Byte) (arrival : Int) :
    s.Detects (s.marker p bs arrival) (s.markerFails p bs arrival ∨ fld (word64At bs 0x10) 15 14 = 2) ∧
    ((s.marker p bs arrival).port p).skew = BitVec.ofInt 32 (arrival - 12 * ((s.port p).latency : Int)) ∧
    (s.linkUp = true → ∀ c < 16, (((s.marker p bs arrival).port p).chan c).credit = word32At bs (0x40 + 4 * c) ∧
      (((s.marker p bs arrival).port p).chan c).tx = ((s.port p).chan c).tx) := by
  unfold State.marker
  extract_lets w st run skew _ shown counted tagged peered skewed rooted peer credited
  have start : s.Detects shown False := s.detects_ports _
  have toCount : shown.Detects counted _ := shown.detects_failIf _ p reasonCount
  have toTag : counted.Detects tagged _ := counted.detects_failIf _ p reasonTag
  have toPeer : tagged.Detects peered _ := tagged.detects_failIf _ p reasonPeer
  have toSkew : peered.Detects skewed _ := peered.detects_failIf _ p reasonSkew
  have toRoot : skewed.Detects rooted _ := skewed.detects_failIf _ p reasonRoot
  have toHalt : rooted.Detects peer (st = 2) := by
    simp only [peer]
    split
    next halts => exact (rooted.detects_peerHalt bs).congr ⟨fun _ => halts, fun _ => trivial⟩
    next no => exact (rooted.detects_ports rooted.leat.ports).congr ⟨False.elim, no⟩
  have toCredit : peer.Detects credited False := by
    obtain ⟨t, credits⟩ := peer.takeCredits_eq_withPorts p bs
    simp only [credited]
    split
    · rw [credits]; exact peer.detects_ports t
    · exact peer.detects_ports peer.leat.ports
  have toReplay : credited.Detects (if run = true then credited.replay p bs else credited) False := by
    split
    · exact ⟨⟨credited.leat.ports, _, _, _, _, rfl⟩, fun _ => ⟨rfl, rfl⟩, fun _ some => some.elim False.elim id⟩
    · exact credited.detects_ports credited.leat.ports
  have upTo : s.Detects peer _ := (((((start.trans toCount).trans toTag).trans toPeer).trans toSkew).trans toRoot).trans toHalt
  have ports : peer.leat.ports = shown.leat.ports := by
    have kept : peer.leat.ports = rooted.leat.ports := by
      simp only [peer]
      split <;> rfl
    rw [kept]
    simp only [rooted, skewed, peered, tagged, counted, State.ports_failIf]
  have port : peer.port p = { s.port p with skew := BitVec.ofInt 32 skew } := by
    rw [State.port, ports]
    exact s.port_setPort p _
  have final : (if run = true then credited.replay p bs else credited).port p = credited.port p := by split <;> rfl
  obtain ⟨sameSkew, credits⟩ := peer.port_takeCredits p bs
  refine ⟨((upTo.trans toCredit).trans toReplay).congr ?_, ?_, fun up c low => ?_⟩
  · have sched (t : State) (a : Prop) (step : shown.Detects t a) : t.leat.sched = s.leat.sched := step.frame.2.2.2.2.2
    rw [sched _ _ toCount, sched _ _ (toCount.trans toTag), sched _ _ (((toCount.trans toTag).trans toPeer).trans toSkew)]
    have running : run = true ↔ s.leat.state = .run := beq_iff_eq
    simp only [false_or, or_false, Bool.and_eq_true, Bool.or_eq_true, beq_iff_eq, bne_iff_ne, decide_eq_true_eq, running,
      State.markerFails, or_assoc]
    rfl
  · rw [final]
    simp only [credited]
    split
    · rw [sameSkew, port]
    · rw [port]
  · rw [final]
    simp only [credited]
    rw [if_pos (upTo.linkUp.trans up)]
    obtain ⟨credit, tx⟩ := credits c low
    exact ⟨credit, tx.trans (by rw [port]; rfl)⟩

/-! ## The marker slot (R219, R220, R231) -/

theorem State.misaligned_iff (s : State) (lane : Nat) (h : BitVec 20) : s.misaligned lane h = true ↔
    ¬(h.toNat / 2 ^ 10 % 128 = 0 ∧ h.toNat / 2 ^ 7 % 8 = lane ∧
      (s.leat.state = .sync ∨ h.toNat / 2 % 64 = s.leat.turn.toNat % 64)) := by
  have slot : bitsOf h.toNat 16 10 = h.toNat / 2 ^ 10 % 128 := rfl
  have own : bitsOf h.toNat 9 7 = h.toNat / 2 ^ 7 % 8 := rfl
  have low : bitsOf h.toNat 6 1 = h.toNat / 2 % 64 := rfl
  rw [State.misaligned, slot, own, low, not_and_or, not_and_or, not_or]
  simp only [Bool.or_eq_true, Bool.and_eq_true, bne_iff_ne, ne_eq, or_assoc]

/-- The lane whose codeword is used: the lowest that carries a marker. -/
def markerOf (lanes : List (Option (BitVec 20 × List Byte))) : Option (List Byte) :=
  (List.range 8).findSome? (fun j => (lanes.getD j none).bind (fun y => if bitsOf y.1.toNat 19 17 = 2 then some y.2 else none))

theorem markerOf_of_first {lanes : List (Option (BitVec 20 × List Byte))} {i : Nat} {h : BitVec 20} {bs : List Byte} (lt : i < 8)
    (hit : lanes.getD i none = some (h, bs)) (type : h.toNat / 2 ^ 17 % 8 = 2)
    (before : ∀ j < i, ∀ h' bs', lanes.getD j none = some (h', bs') → h'.toNat / 2 ^ 17 % 8 ≠ 2) : markerOf lanes = some bs := by
  refine findSome?_range_of_first lt (by rw [hit]; exact if_pos type) fun j earlier => ?_
  cases lane : lanes.getD j none with
  | none => rfl
  | some y => exact if_neg (before j earlier y.1 y.2 lane)

theorem markerOf_of_none {lanes : List (Option (BitVec 20 × List Byte))}
    (none_ : ∀ i < 8, ∀ h bs, lanes.getD i none = some (h, bs) → h.toNat / 2 ^ 17 % 8 ≠ 2) : markerOf lanes = none := by
  refine List.findSome?_eq_none_iff.mpr fun j mem => ?_
  cases lane : lanes.getD j none with
  | none => rfl
  | some y => exact if_neg (none_ j (List.mem_range.mp mem) y.1 y.2 lane)

/-- A lane without a codeword has its fifth in this turn, or a lane that decodes is not aligned. -/
def State.lanesFail (s : State) (p : Nat) (lanes : List (Option (BitVec 20 × List Byte))) : Prop :=
  (∃ j < 8, lanes.getD j none = none ∧ (s.port p).fifth j) ∨
  (∃ j < 8, ∃ y, lanes.getD j none = some y ∧ s.misaligned j y.1 = true)

/-- A marker slot of a port that receives: the checks of its lanes, then the marker. -/
theorem State.markerSlot_lanes (s : State) (p : Nat) (lanes : List (Option (BitVec 20 × List Byte))) (arrival : Int)
    (live : s.leat.state ≠ .idle) (trained : (s.port p).trained = true) : ∃ t,
    s.markerSlot p lanes arrival = (match markerOf lanes with | none => t.linkFail p reasonMark | some bs => t.marker p bs arrival) ∧
    s.Detects t (s.lanesFail p lanes) ∧ (∃ bad, t.port p = { s.port p with bad := bad }) ∧
    (s.linkUp = false → t.leat.haltNext = s.leat.haltNext) := by
  let undecoded := (List.range 8).filter (fun j => (lanes.getD j none).isNone)
  let counted := undecoded.foldl (fun s j => s.countBad p j) s
  let off := (List.range 8).any (fun j => match lanes.getD j none with | some y => counted.misaligned j y.1 | none => false)
  obtain ⟨step, bad, port⟩ := State.detects_foldl_countBad p undecoded (List.nodup_range.filter _) s
  have last : counted.Detects (counted.failIf off p reasonAlign) (off = true) := State.detects_failIf _ _ _ _
  refine ⟨counted.failIf off p reasonAlign, ?_, (step.trans last).congr (or_congr ?_ ?_), ⟨bad, ?_⟩, fun down => ?_⟩
  · rw [State.markerSlot, if_neg (by simp [live, trained])]
    simp only [List.filter_map, List.foldl_map, List.any_map, List.findSome?_map, Function.comp_def]
    rfl
  · simp only [undecoded, List.mem_filter, List.mem_range, Option.isNone_iff_eq_none, and_assoc]
  · have same : counted.misaligned = s.misaligned := step.misaligned
    simp only [off, List.any_eq_true, List.mem_range]
    refine exists_congr fun j => and_congr_right fun _ => ?_
    cases lanes.getD j none with
    | none => simp
    | some y => rw [same]; simp
  · rw [State.port, State.ports_failIf]
    exact port
  · obtain ⟨quiet, next⟩ := State.haltNext_foldl_countBad_of_down down p undecoded
    rw [State.failIf_of_down quiet]
    exact next

/-! ## Flits (R219, R231, R232) -/

section
variable {s : State} {p : Nat} {lane slot : Nat} {h : BitVec 20} (bs : List Byte)

/-- A flit on another lane, or one that is no replay and shows another slot or turn. -/
theorem State.flit_elsewhere (plain : h.toNat / 2 ^ 17 % 8 ≠ 3) (away : ¬(h.toNat / 2 ^ 10 % 128 = slot ∧ h.toNat / 2 ^ 7 % 8 = lane ∧
    h.toNat / 2 % 64 = s.leat.turn.toNat % 64)) : s.flit p lane slot h bs = s.linkFail p reasonAlign := by
  unfold State.flit
  extract_lets ty hs lo turn
  split
  · rfl
  next own =>
    rw [if_neg (show ¬ty = 3 from plain), if_pos]
    by_contra same
    obtain ⟨here, now⟩ := not_or.mp same
    exact away ⟨not_not.mp here, not_not.mp own, not_not.mp now⟩

section
variable (plain : h.toNat / 2 ^ 17 % 8 ≠ 3) (here : h.toNat / 2 ^ 10 % 128 = slot) (own : h.toNat / 2 ^ 7 % 8 = lane)
  (now : h.toNat / 2 % 64 = s.leat.turn.toNat % 64)
include plain here own now

theorem State.flit_in_place : s.flit p lane slot h bs =
    if h.toNat / 2 ^ 17 % 8 = 0 then s
    else if h.toNat / 2 ^ 17 % 8 = 1 ∧ slot ≤ 75 then
      s.setPort p { s.port p with rx0 := (s.port p).rx0 ++ [{ slot := slot, lane := lane, payload := some bs }] }
    else s.linkFail p reasonAlign := by
  have lane' : bitsOf h.toNat 9 7 = lane := own
  have slot' : bitsOf h.toNat 16 10 = slot := here
  have turn' : bitsOf h.toNat 6 1 = s.leat.turn.toNat % 64 := now
  unfold State.flit
  extract_lets ty hs lo turn
  rw [if_neg (not_not.mpr lane'), if_neg (show ¬ty = 3 from plain), if_neg]
  · rfl
  · exact fun off => off.elim (fun no => no slot') fun no => no turn'

end

/-- A replay in a data slot, on another lane or of another turn. -/
theorem State.flit_bad_replay (replay : h.toNat / 2 ^ 17 % 8 = 3) (bad : slot < 76 ∨ h.toNat / 2 ^ 7 % 8 ≠ lane ∨
    (h.toNat / 2 % 64 ≠ (s.leat.turn.toNat + 63) % 64 ∧ h.toNat / 2 % 64 ≠ (s.leat.turn.toNat + 62) % 64)) :
    s.flit p lane slot h bs = s.linkFail p reasonAlign := by
  unfold State.flit
  extract_lets ty hs lo turn late
  split
  · rfl
  next own =>
    rw [if_pos (show ty = 3 from replay), if_pos]
    rcases bad with data | other | ⟨notLast, notBefore⟩
    · exact .inl data
    · exact absurd (not_not.mp own) other
    · exact .inr ⟨notLast, by rw [show late = false from decide_eq_false notBefore]; rfl⟩

/-- A replay of the last turn, or of the one before. -/
theorem State.flit_replay (replay : h.toNat / 2 ^ 17 % 8 = 3) (slots : 76 ≤ slot) (own : h.toNat / 2 ^ 7 % 8 = lane) (late : Bool)
    (turn : h.toNat / 2 % 64 = (s.leat.turn.toNat + (if late = true then 62 else 63)) % 64) :
    s.flit p lane slot h bs = s.takeReplay p lane slot (h.toNat / 2 ^ 10 % 128) late bs := by
  have lane' : bitsOf h.toNat 9 7 = lane := own
  have isLate : decide (bitsOf h.toNat 6 1 = (s.leat.turn.toNat + 62) % 64) = late := by
    rw [show bitsOf h.toNat 6 1 = h.toNat / 2 % 64 from rfl, turn]
    cases late with
    | true => simp
    | false => rw [if_neg Bool.false_ne_true]; exact decide_eq_false (by omega)
  unfold State.flit
  extract_lets ty hs lo now late'
  rw [if_neg (not_not.mpr lane'), if_pos (show ty = 3 from replay), show late' = late from isLate, if_neg]
  · rfl
  · rintro (data | ⟨other, notLate⟩)
    · exact absurd data (Nat.not_lt.mpr slots)
    · cases late with
      | true => exact absurd notLate (by decide)
      | false => exact other turn

theorem State.takeReplay_of_asked {orig : Nat} {late : Bool} (some_ : orig ≠ 0)
    (asked : (((if late = true then (s.port p).asked1 else (s.port p).asked).filter (fun q => q.1 == lane)).map (·.2))[slot - 76]? = some orig) :
    let fill (rx : List RxFlit) : List RxFlit := rx.map (fun t => if t.slot = orig ∧ t.lane = lane then { t with payload := some bs } else t)
    s.takeReplay p lane slot orig late bs = s.setPort p (if late = true then { s.port p with rx2 := fill (s.port p).rx2 }
      else { s.port p with rx1 := fill (s.port p).rx1 }) := by
  intro fill
  unfold State.takeReplay
  extract_lets x l
  refine if_neg ?_
  rintro (other | none)
  · exact other (by rw [List.getD_eq_getElem?_getD, show l[slot - 76]? = some orig from asked]; rfl)
  · exact some_ none

theorem State.takeReplay_of_not_asked {orig : Nat} {late : Bool}
    (other : (((if late = true then (s.port p).asked1 else (s.port p).asked).filter (fun q => q.1 == lane)).map (·.2))[slot - 76]? ≠ some orig) :
    s.takeReplay p lane slot orig late bs = s.linkFail p reasonAlign := by
  unfold State.takeReplay
  extract_lets x l
  refine if_pos ?_
  by_contra neither
  obtain ⟨same, some_⟩ := not_or.mp neither
  have here : l.getD (slot - 76) 0 = orig := not_not.mp same
  rw [List.getD_eq_getElem?_getD] at here
  cases found : l[slot - 76]? with
  | none => rw [found] at here; exact some_ here.symm
  | some v => rw [found] at here; exact other (found.trans (congrArg some here))

end

section
variable {s : State} {p lane slot : Nat}

/-- An uncorrectable codeword fails as the fifth of its lane, or as the fifth of a data slot to be replayed on it. -/
theorem State.halts_uncorrectable (up : s.linkUp = true)
    (bad : (s.port p).fifth lane ∨ (slot < 76 ∧ 4 ≤ (s.port p).req.countP (fun q => q.1 == lane))) :
    (s.uncorrectable p lane slot).leat.haltNext = true := by
  have counted := s.detects_countBad p lane
  have up' := counted.linkUp.trans up
  have req : ((s.countBad p lane).port p).req = (s.port p).req := by rw [s.port_countBad]
  unfold State.uncorrectable
  extract_lets t x
  rcases bad with fifth | ⟨data, full⟩
  · have halted : t.leat.haltNext = true := counted.halts up (.inl fifth)
    split
    · exact (t.detects_failIf _ p reasonFec).halts up' (.inr halted)
    · split
      · exact (t.detects_linkFail p reasonFec).halts up' (.inr halted)
      · exact halted
  · have four : (x.req.filter (fun q => q.1 == lane)).length ≥ 4 := by
      rw [← List.countP_eq_length_filter, show x.req = _ from req]
      exact full
    rw [if_neg (Nat.not_le.mpr data), if_pos four]
    exact (t.detects_linkFail p reasonFec).halts up' (.inl trivial)

variable (few : ¬(s.port p).fifth lane)
include few

theorem State.uncorrectable_data (data : slot < 76) (room : (s.port p).req.countP (fun q => q.1 == lane) < 4) :
    s.uncorrectable p lane slot = (s.setPort p { s.port p with bad := (s.port p).bad ++ [lane] }).setPort p { s.port p with
      bad := (s.port p).bad ++ [lane], req := (s.port p).req ++ [(lane, slot)]
      rx0 := (s.port p).rx0 ++ [{ slot := slot, lane := lane }] } := by
  have counted := s.countBad_of_few p lane (Nat.not_le.mp few)
  unfold State.uncorrectable
  rw [counted]
  dsimp only
  rw [s.port_setPort, if_neg (Nat.not_le.mpr data), if_neg]
  rw [← List.countP_eq_length_filter]
  exact Nat.not_le.mpr room

theorem State.uncorrectable_replay (replay : 76 ≤ slot) :
    s.uncorrectable p lane slot = (s.setPort p { s.port p with bad := (s.port p).bad ++ [lane] }).failIf
      (slot - 76 < (s.port p).asked.countP (fun q => q.1 == lane)) p reasonFec := by
  have counted := s.countBad_of_few p lane (Nat.not_le.mp few)
  unfold State.uncorrectable
  rw [counted]
  dsimp only
  rw [s.port_setPort, if_pos replay, List.countP_eq_length_filter]

end

/-- Settles O46. -/
theorem markersAndFlitsAreChecked : Obligations.MarkersAndFlitsAreChecked := by
  intro s p x l
  refine ⟨fun quiet lanes arrival => ?_, fun quiet lane slot h bs => ?_, fun lanes arrival live trained none_ => ?_,
    fun lanes arrival i h bs live trained low lane off => ?_, ?marker, ?flits⟩
  · refine congrArg Host.Outcome.next (if_pos (quiet.imp_right fun untrained => ?_))
    rw [show (s.port p).trained = false from untrained]
    rfl
  · refine congrArg Host.Outcome.next (if_pos (quiet.imp_right fun untrained => .inl ?_))
    rw [show (s.port p).trained = false from untrained]
    rfl
  · obtain ⟨t, slot, step, -, down⟩ := s.markerSlot_lanes p lanes arrival live trained
    rw [markerOf_of_none none_] at slot
    refine ⟨_, congrArg Host.Outcome.next slot, ?_⟩
    cases up : s.linkUp with
    | true => rw [Bool.or_true]; exact ((t.detects_linkFail p reasonMark).halts (step.linkUp.trans up) (.inl trivial))
    | false => rw [State.linkFail_of_down (step.linkUp.trans up), down up, Bool.or_false]
  · obtain ⟨t, slot, step, -, -⟩ := s.markerSlot_lanes p lanes arrival live trained
    refine ⟨_, congrArg Host.Outcome.next slot, fun up => ?_⟩
    have bad : s.misaligned i h = true := by
      rw [State.misaligned_iff]
      rintro ⟨here, own, turn⟩
      rcases off with other | other | ⟨notSync, other⟩
      · exact other here
      · exact other own
      · exact turn.elim notSync other
    have halted : t.leat.haltNext = true := step.halts up (.inl (.inr ⟨i, low, (h, bs), lane, bad⟩))
    have up' := step.linkUp.trans up
    cases markerOf lanes with
    | none => exact (t.detects_linkFail p reasonMark).halts up' (.inr halted)
    | some m => exact (t.marker_fields p m arrival).1.halts up' (.inr halted)
  case marker =>
    intro lanes arrival i h bs live trained low lane type before w skew run aligned sound
    obtain ⟨t, slot, step, ⟨bad, port⟩, -⟩ := s.markerSlot_lanes p lanes arrival live trained
    rw [markerOf_of_first low lane type before] at slot
    obtain ⟨detects, shown, credits⟩ := t.marker_fields p bs arrival
    obtain ⟨mem, host, fns, state, turn, sched⟩ := step.frame
    obtain ⟨mem', host', fns', state', turn', -⟩ := detects.frame
    have latency : (t.port p).latency = (s.port p).latency := by rw [port]
    have few : ¬s.lanesFail p lanes ↔ aligned ∧ ∀ j < 8, lanes.getD j none = none → x.bad.countP (· == j) < 4 := by
      have straight (j : Nat) (h : BitVec 20) := (not_congr (s.misaligned_iff j h)).trans not_not
      simp only [State.lanesFail, Port.fifth, not_or, not_exists, not_and, straight, Nat.not_le, Prod.forall]
      exact and_comm
    have marked : ¬t.markerFails p bs arrival ↔ (run → w.toNat / 2 ^ 14 % 4 ≠ 0 ∧ word64At bs 0 = l.turn) ∧
        word64At bs 8 = l.sched.tag ∧ w.toNat % 1024 = l.sched.peers.getD p 0 ∧ (run → skew.natAbs ≤ 480) ∧
        w.toNat / 2 ^ 16 % 1024 = l.sched.root := by
      rw [State.markerFails, state, turn, sched, latency]
      rw [fld_low]
      simp only [not_or, not_and, ne_eq, not_not, Nat.not_lt]
      rfl
    have fails : sound ↔ ¬(s.lanesFail p lanes ∨ t.markerFails p bs arrival) := by
      rw [not_or, few, marked, and_assoc]
    refine ⟨_, congrArg Host.Outcome.next slot, shown.trans (by rw [latency]), mem'.trans mem, host'.trans host, fns'.trans fns,
      state'.trans state, turn'.trans turn, fun up c inside => ?_, fun good plain => ?_, fun up bad => ?_⟩
    · obtain ⟨credit, tx⟩ := credits (step.linkUp.trans up) c inside
      exact ⟨credit, tx.trans (by rw [port]; rfl)⟩
    · obtain ⟨noLane, noMarker⟩ := not_or.mp (fails.mp good)
      obtain ⟨next, halt⟩ := step.kept noLane
      obtain ⟨next', halt'⟩ := detects.kept (not_or.mpr ⟨noMarker, plain⟩)
      exact ⟨next'.trans next, halt'.trans halt⟩
    · rcases not_not.mp (mt fails.mpr bad) with lanes | marker
      · exact detects.halts (step.linkUp.trans up) (.inr (step.halts up (.inl lanes)))
      · exact detects.halts (step.linkUp.trans up) (.inl (.inl marker))
  case flits =>
    intro lane slot h running trained data ty lo mine here
    have receives (payload : Option (List Byte)) : exec (.flitReceive p lane slot h payload) s =
        .next (match payload with | none => s.uncorrectable p lane slot | some bs => s.flit p lane slot h bs) := by
      refine congrArg Host.Outcome.next (if_neg ?_)
      rintro (off | untrained | marker)
      · exact off running
      · rw [show (s.port p).trained = true from trained] at untrained
        exact Bool.noConfusion untrained
      · exact data marker
    have up : s.linkUp = true := by
      show (l.state == .sync || l.state == .run) = true
      rw [running]; rfl
    refine ⟨fun bs low one there => ?_, fun bs idle there => ?_, fun bs plain away => ?_, fun bs replay bad => ?_,
      ?replay, ?lost⟩
    · obtain ⟨here, own, now⟩ := there
      rw [receives]
      refine congrArg Host.Outcome.next ((State.flit_in_place bs (by omega) here own now).trans ?_)
      rw [if_neg (by omega), if_pos ⟨one, by omega⟩]
    · obtain ⟨here, own, now⟩ := there
      rw [receives]
      exact congrArg Host.Outcome.next ((State.flit_in_place bs (by omega) here own now).trans (if_pos idle))
    · rw [receives]
      exact congrArg Host.Outcome.next (State.flit_elsewhere bs plain away)
    · rw [receives]
      exact congrArg Host.Outcome.next (State.flit_bad_replay bs replay bad)
    case replay =>
      intro bs late replay slots own turn orig asked fill
      have taken : exec (.flitReceive p lane slot h (some bs)) s = .next (s.takeReplay p lane slot orig late bs) := by
        rw [receives]
        exact congrArg Host.Outcome.next (State.flit_replay bs replay slots own late turn)
      exact ⟨fun some_ hit => taken.trans (congrArg Host.Outcome.next (State.takeReplay_of_asked bs some_ hit)),
        fun miss => taken.trans (congrArg Host.Outcome.next (State.takeReplay_of_not_asked bs miss))⟩
    case lost =>
      intro t y n fifth
      refine ⟨fun five => ⟨_, receives none, State.halts_uncorrectable up (.inl five)⟩, fun few low room => ?_,
        fun low full => ⟨_, receives none, State.halts_uncorrectable up (.inr ⟨low, full⟩)⟩, fun few replay => ?_⟩
      · rw [receives]
        exact congrArg Host.Outcome.next (State.uncorrectable_data few low room)
      · rw [receives]
        refine congrArg Host.Outcome.next ((State.uncorrectable_replay few replay).trans ?_)
        simp only [State.failIf, decide_eq_true_eq]
        rfl

end Sys2Proof.Machine
end

section
/-! PROOFS. Writes to device memory in whatever pages the bytes lie (R158 to R160): a translation sees page tables, carves and pools, so
it leads to the same bytes while no page table that it reads is written. -/
namespace Sys2Proof.Machine

/-! ## What a translation sees -/

/-- `t` translates as `s` does: the same page tables, bindings, carves, pools and Grist entries. -/
structure State.SameWalks (s t : State) : Prop where
  mem   : t.mem = s.mem
  shape : t.shape = s.shape
  binds : t.binds = s.binds
  grist : t.grist = s.grist
  part  : ∀ p, (t.part p).poolBase = (s.part p).poolBase ∧ (t.part p).slotSize = (s.part p).slotSize ∧
    (t.part p).latentSlots = (s.part p).latentSlots ∧ (t.part p).gristCount = (s.part p).gristCount
  house : ∀ h, (t.house h).scratchOn = (s.house h).scratchOn ∧ (t.house h).poolBaseOn = (s.house h).poolBaseOn ∧
    (t.house h).bufMibOn = (s.house h).bufMibOn

theorem State.SameWalks.refl (s : State) : s.SameWalks s :=
  ⟨rfl, rfl, rfl, rfl, fun _ => ⟨rfl, rfl, rfl, rfl⟩, fun _ => ⟨rfl, rfl, rfl⟩⟩

theorem State.SameWalks.trans {s t u : State} (first : s.SameWalks t) (next : t.SameWalks u) : s.SameWalks u where
  mem := next.mem.trans first.mem
  shape := next.shape.trans first.shape
  binds := next.binds.trans first.binds
  grist := next.grist.trans first.grist
  part p := by
    obtain ⟨a, b, c, d⟩ := first.part p
    obtain ⟨a', b', c', d'⟩ := next.part p
    exact ⟨a'.trans a, b'.trans b, c'.trans c, d'.trans d⟩
  house h := by
    obtain ⟨a, b, c⟩ := first.house h
    obtain ⟨a', b', c'⟩ := next.house h
    exact ⟨a'.trans a, b'.trans b, c'.trans c⟩

/-- Tables of bindings, partitions, houses and Grist entries that stand. -/
theorem State.SameWalks.of_tables {s t : State} (mem : t.mem = s.mem) (shape : t.shape = s.shape) (binds : t.binds = s.binds)
    (grist : t.grist = s.grist) (parts : t.parts = s.parts) (houses : t.houses = s.houses) : s.SameWalks t :=
  ⟨mem, shape, binds, grist, fun p => by rw [State.part, State.part, parts]; exact ⟨rfl, rfl, rfl, rfl⟩,
    fun h => by rw [State.house, State.house, houses]; exact ⟨rfl, rfl, rfl⟩⟩

/-- What memory engines leave, once the memory is the same. -/
theorem State.ByMemory.sameWalks {kept : Bool} {s t : State} (by_ : State.ByMemory kept s t) : State.SameWalks { s with mem := t.mem } t where
  mem := rfl
  shape := (congrArg State.shape by_.rest :)
  binds := (congrArg State.binds by_.rest :)
  grist := (congrArg State.grist by_.rest :)
  part p := by
    rw [State.part, State.part, by_.parts]
    exact ⟨rfl, rfl, rfl, rfl⟩
  house h := by
    obtain ⟨w, house⟩ := by_.house h
    rw [house]
    exact ⟨rfl, rfl, rfl⟩

section
variable {s t : State} (same : s.SameWalks t)
include same

theorem State.SameWalks.bind (f : Nat) : t.bind f = s.bind f := by rw [State.bind, State.bind, same.binds]
theorem State.SameWalks.partOf (f : Nat) : t.partOf f = s.partOf f := by rw [State.partOf, State.partOf, same.bind]
theorem State.SameWalks.owns (p h : Nat) : t.owns p h = s.owns p h := by rw [State.owns, State.owns, same.shape]

theorem State.SameWalks.inRacePool (pa : Nat) : t.inRacePool pa = s.inRacePool pa := by
  have base (h : Nat) : (t.house h).poolBaseOn = (s.house h).poolBaseOn := (same.house h).2.1
  have size (h : Nat) : (t.house h).bufMibOn = (s.house h).bufMibOn := (same.house h).2.2
  simp only [State.inRacePool, base, size]

theorem State.SameWalks.inDram (p pa : Nat) : t.inDram p pa = s.inDram p pa := by
  unfold State.inDram
  split
  · exact same.owns p _
  · exact same.owns p _
  · rfl

theorem State.SameWalks.mapped (pa : Nat) : t.mapped pa = s.mapped pa := by
  unfold State.mapped
  split
  next h o _ => obtain ⟨scratch, -, -⟩ := same.house h; rw [scratch]
  · rfl
  · rfl

theorem State.SameWalks.reaches (p pa : Nat) : t.reaches p pa = s.reaches p pa := by
  unfold State.reaches
  split
  · rw [same.owns, same.mapped]
  · rfl

theorem State.SameWalks.poolSlot (p pa : Nat) : t.poolSlot p pa = s.poolSlot p pa := by
  obtain ⟨base, size, slots, -⟩ := same.part p
  unfold State.poolSlot
  dsimp only
  rw [base, size, slots]

theorem State.SameWalks.gristCarve (p : Nat) : t.gristCarve p = s.gristCarve p := by
  have count (q : Nat) : (t.part q).gristCount = (s.part q).gristCount := (same.part q).2.2.2
  simp only [State.gristCarve, count]

theorem State.SameWalks.holdsSlot (f p n : Nat) : t.holdsSlot f p n = s.holdsSlot f p n := by
  rw [State.holdsSlot, State.holdsSlot, State.entriesOf, State.entriesOf, same.gristCarve, same.grist]

end

/-! ## Work that answers alike -/

/-- In modules without stored errors that translate alike, the two pieces of work answer alike and change nothing. -/
def Run.Alike {α : Type} (m m' : Run α) : Prop := ∀ e e' : Eng, e.s.SameWalks e'.s → e.s.ecc = [] → e'.s.ecc = [] →
  ∃ y, m.run.run e = (y, e) ∧ m'.run.run e' = (y, e')

section
variable {α β : Type}

theorem Run.alike_of_const {m : Run α} {y : Memory → Except Stop α} (const : ∀ e : Eng, e.s.ecc = [] → m.run.run e = (y e.s.mem, e)) :
    Run.Alike m m := fun e e' same clean clean' => ⟨y e.s.mem, const e clean, by rw [const e' clean', same.mem]⟩

theorem Run.alike_pure (x : α) : Run.Alike (pure x : Run α) (pure x) := fun _ _ _ _ _ => ⟨_, rfl, rfl⟩
theorem Run.alike_throw (x : Stop) : Run.Alike (throw x : Run α) (throw x) := fun _ _ _ _ _ => ⟨_, rfl, rfl⟩

theorem Run.alike_bind {m m' : Run α} {k k' : α → Run β} (first : Run.Alike m m') (rest : ∀ x, Run.Alike (k x) (k' x)) :
    Run.Alike (m >>= k) (m' >>= k') := by
  intro e e' same clean clean'
  obtain ⟨y, here, there⟩ := first e e' same clean clean'
  cases y with
  | ok x => rw [Run.bind_of_ok here, Run.bind_of_ok there]; exact rest x e e' same clean clean'
  | error x => exact ⟨_, Run.bind_of_error here k, Run.bind_of_error there k'⟩

/-- Work on the state, where the states translate alike. -/
theorem Run.alike_getS {k : State → Run β} (rest : ∀ s t : State, s.SameWalks t → Run.Alike (k s) (k t)) :
    Run.Alike (getS >>= k) (getS >>= k) := by
  intro e e' same clean clean'
  have here : getS.run.run e = (.ok e.s, e) := rfl
  have there : getS.run.run e' = (.ok e'.s, e') := rfl
  rw [Run.bind_of_ok here, Run.bind_of_ok there]
  exact rest e.s e'.s same e e' same clean clean'

theorem Run.alike_ite {c : Prop} [Decidable c] {x x' y y' : Run α} (yes : Run.Alike x x') (no : Run.Alike y y') :
    Run.Alike (if c then x else y) (if c then x' else y') := by
  split
  · exact yes
  · exact no

theorem Run.alike_check {c : Prop} [Decidable c] (x : Stop) {k k' : PUnit → Run α} (rest : Run.Alike (k ⟨⟩) (k' ⟨⟩)) :
    Run.Alike (if c then (throw x : Run PUnit) >>= k else k ⟨⟩) (if c then (throw x : Run PUnit) >>= k' else k' ⟨⟩) :=
  Run.alike_ite (fun _ _ _ _ _ => ⟨.error x, rfl, rfl⟩) rest

end

/-! ## Translations -/

theorem mmuBuf_alike (a : Acc) : Run.Alike (mmuBuf a) (mmuBuf a) :=
  Run.alike_of_const (y := fun _ => .ok ()) fun e clean => mmuBuf_of_clean a e clean

theorem readStruct_alike (a : Acc) (va pa n : Nat) : Run.Alike (readStruct a va pa n) (readStruct a va pa n) :=
  Run.alike_of_const (y := fun mem => .ok (mem.readN pa n)) fun e clean => readStruct_of_clean a va pa n e clean

theorem walk_leaf_alike (e : Word64) (bits : Nat) (x : Stop) : Run.Alike (walk.leaf e bits (throw x)) (walk.leaf e bits (throw x)) :=
  Run.alike_ite (Run.alike_throw _) (Run.alike_ite (Run.alike_throw _) (Run.alike_pure _))

theorem walk_alike (a : Acc) (va level table : Nat) : Run.Alike (walk a va level table) (walk a va level table) := by
  induction level generalizing table with
  | zero =>
    unfold walk
    refine Run.alike_getS fun s t same => ?_
    dsimp only
    rw [same.partOf, same.inDram, same.inRacePool]
    refine Run.alike_check _ (Run.alike_bind (readStruct_alike a va _ 8) fun bs => ?_)
    exact Run.alike_ite (Run.alike_throw _) (walk_leaf_alike _ _ _)
  | succ l ih =>
    unfold walk
    refine Run.alike_getS fun s t same => ?_
    dsimp only
    rw [same.partOf, same.inDram, same.inRacePool]
    refine Run.alike_check _ (Run.alike_bind (readStruct_alike a va _ 8) fun bs => ?_)
    refine Run.alike_ite (Run.alike_throw _) (Run.alike_ite ?largePage ?nextLevel)
    case largePage => exact Run.alike_ite (Run.alike_throw _) (walk_leaf_alike _ _ _)
    case nextLevel => exact Run.alike_ite (Run.alike_throw _) (ih _)

theorem translate_alike (a : Acc) (write : Bool) (va : Nat) : Run.Alike (translate a write va) (translate a write va) := by
  unfold translate
  refine Run.alike_bind (mmuBuf_alike a) fun _ => Run.alike_getS fun s t same => ?_
  dsimp only
  rw [same.bind]
  refine Run.alike_check _ (Run.alike_bind (walk_alike a va 3 _) fun leaf => Run.alike_getS fun s t same => ?_)
  rw [same.partOf, same.shape, same.reaches, same.inRacePool, same.poolSlot]
  simp only [same.holdsSlot]
  refine Run.alike_check _ (Run.alike_ite ?host (Run.alike_ite ?remote ?device))
  case host => exact Run.alike_check _ (Run.alike_pure _)
  case remote => exact Run.alike_check _ (Run.alike_pure _)
  case device =>
    refine Run.alike_check _ ?_
    split
    · exact Run.alike_ite (Run.alike_pure _) (Run.alike_throw _)
    · exact Run.alike_pure _

/-- Where one of two modules that translate alike leads to a byte, the other does. -/
theorem State.Reaches.of_sameWalks {s t : State} {a : Acc} {write : Bool} {va n pa : Nat} (reach : s.Reaches a write va n pa)
    (same : s.SameWalks t) (clean : s.ecc = []) (clean' : t.ecc = []) : t.Reaches a write va n pa := fun i low => by
  obtain ⟨nc, e, run⟩ := reach i low
  obtain ⟨y, here, there⟩ := translate_alike a write ((va + i) % 2 ^ 48) { s := s } { s := t } same clean clean'
  have answer : y = .ok (.dev (pa + i), nc) := by
    rw [Run.exec, here] at run
    exact congrArg Prod.fst run
  rw [answer] at there
  exact ⟨nc, _, by rw [Run.exec, there]⟩

/-! ## Writes apart from the page tables -/

/-- `t` translates as `s` does but for device bytes of the runs, in which no page table need lie. -/
structure State.ApartFrom (runs : List (Nat × Nat)) (s t : State) : Prop where
  walks   : State.SameWalks { s with mem := t.mem } t
  outside : ∀ b, (∀ x ∈ runs, b < x.1 ∨ x.1 + x.2 ≤ b) → t.mem.read b = s.mem.read b
  before  : s.ecc = []
  clean   : t.ecc = []

theorem State.ReachesApart.reaches {s t : State} {runs : List (Nat × Nat)} {a : Acc} {write : Bool} {va n pa : Nat}
    (reach : s.ReachesApart runs a write va n pa) (apart : State.ApartFrom runs s t) : t.Reaches a write va n pa :=
  (reach t.mem apart.outside).of_sameWalks apart.walks apart.before apart.clean

theorem State.ApartFrom.refl {runs : List (Nat × Nat)} {s : State} (clean : s.ecc = []) : State.ApartFrom runs s s :=
  ⟨.of_tables rfl rfl rfl rfl rfl rfl, fun _ _ => rfl, clean, clean⟩

/-- What a write stores, byte after byte. -/
theorem State.Stored.append {s t u : State} {pa : Nat} {bs cs : List Byte} (first : s.Stored t pa bs)
    (next : t.Stored u (pa + bs.length) cs) : s.Stored u pa (bs ++ cs) where
  bytes := by
    have kept : u.mem.readN pa bs.length = bs := by
      refine Eq.trans ?_ first.bytes
      rw [Memory.readN_eq, Memory.readN_eq]
      exact List.map_congr_left fun i mem => next.others _ (.inl (by have := List.mem_range.mp mem; omega))
    rw [List.length_append, ← Memory.readN_append, kept, next.bytes]
  others b out := by
    rw [List.length_append] at out
    rw [next.others b (by omega), first.others b (by omega)]
  host := next.host.trans first.host
  ecc := next.ecc
  engine := first.engine.trans next.engine

theorem State.Stored.nil {s : State} (clean : s.ecc = []) (pa : Nat) : s.Stored s pa [] :=
  ⟨by rw [Memory.readN_eq]; rfl, fun _ _ => rfl, rfl, clean, .refl s⟩

/-- Bytes stored inside a run leave every translation apart from it. -/
theorem State.Stored.apartFrom {runs : List (Nat × Nat)} {s t : State} {pa : Nat} {bs : List Byte} (stored : s.Stored t pa bs)
    (clean : s.ecc = []) (inside : ∃ x ∈ runs, x.1 ≤ pa ∧ pa + bs.length ≤ x.1 + x.2) : State.ApartFrom runs s t where
  walks := stored.engine.sameWalks
  outside b out := by
    obtain ⟨x, mem, low, high⟩ := inside
    exact stored.others b (by have := out x mem; omega)
  before := clean
  clean := stored.ecc

/-- What holds of no piece, and with each further piece, holds of the pieces of a run. -/
theorem pieces_prefixes {P : List (Nat × Nat × Nat) → Nat → Prop} (va n : Nat) (start : P [] 0)
    (next : ∀ l o m, P l o → 0 < m → o + m ≤ n → P (l ++ [((va + o) % 2 ^ 48, o, m)]) (o + m)) : P (pieces va n) n := by
  unfold pieces
  split
  next empty => rw [empty]; exact start
  next some =>
    extract_lets first
    have low : first * 4096 ≤ va := Nat.div_mul_le_self va 4096
    have high : va < (first + 1) * 4096 := by omega
    have upTo (k : Nat) (few : k ≤ (va + n - 1) / 4096 + 1 - first) :
        P ((List.range k).map (fun i =>
          (max va ((first + i) * 4096) % 2 ^ 48, max va ((first + i) * 4096) - va,
            min (va + n) ((first + i + 1) * 4096) - max va ((first + i) * 4096))))
          (min (va + n) ((first + k) * 4096) - va) := by
      induction k with
      | zero =>
        have empty : min (va + n) ((first + 0) * 4096) - va = 0 := by omega
        rw [empty]
        exact start
      | succ k ih =>
        let o := min (va + n) ((first + k) * 4096) - va
        let m := min (va + n) ((first + k + 1) * 4096) - max va ((first + k) * 4096)
        have begun : max va ((first + k) * 4096) - va = o := by omega
        have place : max va ((first + k) * 4096) = va + o := by omega
        have length : o + m = min (va + n) ((first + (k + 1)) * 4096) - va := by omega
        rw [List.range_succ, List.map_append, List.map_singleton, ← length, begun]
        have step := next _ o m (ih (by omega)) (by omega) (by omega)
        rw [← place] at step
        exact step
    have all : min (va + n) ((first + ((va + n - 1) / 4096 + 1 - first)) * 4096) - va = n := by omega
    have whole := upTo _ (Nat.le_refl _)
    rw [all] at whole
    exact whole

/-- The write of one piece of a run. -/
def storePiece (a : Acc) (bs : List Byte) (remote : Nat → Nat → List Byte → State → State) (x : Nat × Nat × Nat) : Run Unit := do
  let t ← translate a true x.1
  let d := (bs.drop x.2.1).take x.2.2
  match t.1 with
  | .dev pa => modify (fun e => { e with s := e.s.devStore t.2 pa d, wrote := e.wrote ++ [(pa, d.length)] })
  | .host ha => modS (fun s => ({ s with hostMem := s.hostMem.write ha d }).hostIssue
      { f := a.f, addr := ha, n := d.length, write := true, strict := a.strict })
  | .remote m pa => modS (remote m pa d)

theorem writeV_eq (a : Acc) (va : Nat) (bs : List Byte) (remote : Nat → Nat → List Byte → State → State) :
    writeV a va bs remote = (pieces va bs.length).forM (storePiece a bs remote) := rfl

theorem storePiece_of_dev {a : Acc} {bs : List Byte} {remote : Nat → Nat → List Byte → State → State} {x : Nat × Nat × Nat} {pa : Nat}
    {nc : Bool} {e : Eng} (leads : (translate a true x.1).run.run e = (.ok (.dev pa, nc), e)) :
    (storePiece a bs remote x).run.run e = (.ok (), { e with
      s := e.s.devStore nc pa ((bs.drop x.2.1).take x.2.2), wrote := e.wrote ++ [(pa, ((bs.drop x.2.1).take x.2.2).length)] }) := by
  rw [storePiece, Run.bind_of_ok leads]
  rfl

/-- A write to bytes that lie in device memory, apart from the page tables that lead there, stores its bytes there. -/
theorem writeV_of_apart {runs : List (Nat × Nat)} {e : Eng} {a : Acc} {va pa : Nat} {bs : List Byte} (clean : e.s.ecc = [])
    (reach : e.s.ReachesApart runs a true va bs.length pa) (inside : ∃ x ∈ runs, x.1 ≤ pa ∧ pa + bs.length ≤ x.1 + x.2)
    (remote : Nat → Nat → List Byte → State → State := fun _ _ _ s => s) : ∃ t w,
    (writeV a va bs remote).run.run e = (.ok (), { e with s := t, wrote := w }) ∧ e.s.Stored t pa bs := by
  have prefixes := pieces_prefixes (P := fun l o => o ≤ bs.length → ∃ t w,
    (l.forM (storePiece a bs remote)).run.run e = (.ok (), { e with s := t, wrote := w }) ∧ e.s.Stored t pa (bs.take o)) va bs.length
    (fun _ => ⟨e.s, e.wrote, rfl, .nil clean pa⟩) ?next
  case next =>
    intro l o m known some low _
    obtain ⟨t, w, run, stored⟩ := known (by omega)
    have done : (bs.take o).length = o := by rw [List.length_take]; omega
    obtain ⟨x, mem, start, stop⟩ := inside
    have reached := reach.reaches (stored.apartFrom clean ⟨x, mem, start, by omega⟩)
    obtain ⟨nc, leads⟩ := reached.leads stored.ecc (i := o) (by omega) (e := { e with s := t, wrote := w }) rfl
    have next : t.Stored (t.devStore nc (pa + o) ((bs.drop o).take m)) (pa + (bs.take o).length) ((bs.drop o).take m) := by
      rw [done]
      exact State.stored_devStore stored.ecc nc (pa + o) _
    refine ⟨t.devStore nc (pa + o) ((bs.drop o).take m), w ++ [(pa + o, ((bs.drop o).take m).length)], ?_, ?_⟩
    · have parts : (l ++ [((va + o) % 2 ^ 48, o, m)]).forM (storePiece a bs remote) =
          l.forM (storePiece a bs remote) >>= fun _ => [((va + o) % 2 ^ 48, o, m)].forM (storePiece a bs remote) := List.forM_append
      rw [parts, Run.bind_of_ok run, Run.forM_singleton]
      exact storePiece_of_dev leads
    · rw [List.take_add]
      exact stored.append next
  obtain ⟨t, w, run, stored⟩ := prefixes (Nat.le_refl _)
  rw [List.take_length] at stored
  exact ⟨t, w, run, stored⟩

/-- The same of a write that is the whole of an engine's work. -/
theorem writeV_apart_exec {s : State} {a : Acc} {va pa : Nat} {bs : List Byte} (clean : s.ecc = [])
    (reach : s.ReachesApart [(pa, bs.length)] a true va bs.length pa) (fl : Flags := {}) : ∃ e,
    (writeV a va bs).exec s fl = (.ok (), e) ∧ s.Stored e.s pa bs ∧ e.flags = fl ∧ e.device = false := by
  obtain ⟨t, w, run, stored⟩ := writeV_of_apart (e := { s := s, flags := fl }) clean reach ⟨_, .head _, Nat.le_refl _, Nat.le_refl _⟩
  refine ⟨{ s := t, flags := fl, wrote := w }, ?_, stored, rfl, rfl⟩
  rw [Run.exec, run]
  exact congrArg (Prod.mk _) (Eng.clearWritten_of_clean stored.ecc)

end Sys2Proof.Machine
end

section
/-! PROOFS. The Grist unit (R263 to R269): GRIST_JOIN, GRIST_LEAVE and GRIST_STEP. -/
namespace Sys2Proof.Machine

/-! ## Entries -/

/-- A mark evaluated leaves the entries. -/
theorem State.MarksOnly.grist {s t : State} (marked : s.MarksOnly t) : t.grist = s.grist := by
  obtain ⟨fns, msgs, houses, parts, rfl⟩ := marked.rest
  rfl

theorem State.entry_of_grist {s t : State} (same : t.grist = s.grist) (e : Nat) : t.entry e = s.entry e := by
  rw [State.entry, State.entry, same]

/-- A QUEUED entry becomes FREE; it holds no slot. -/
theorem State.freeEntry_of_queued {s : State} {e : Nat} (queued : (s.entry e).state = .queued) (p : Nat) : ∃ v,
    s.freeEntry p e = ((s.setPart p v).setEntry e {}).evalWeir (.gristTable (houseIx p)) := by
  unfold State.freeEntry
  dsimp only
  rw [queued]
  exact ⟨_, rfl⟩

/-- The state of a partition and an entry changed, then a mark evaluated: what the end of a command leaves. -/
theorem State.finish_of_entry {s : State} {f r : Nat} {c : Running} (runs : s.running f r = some c) (waits : c.wait = .none)
    (going : c.done = none) (p e : Nat) (v : Partition) (x : GristEntry) (id : WeirId) (res : Word32) :
    let t := ((s.setPart p v).setEntry e x).evalWeir id
    let u := t.finish f r .ok res
    u.entry e = x ∧ (∀ k, k ≠ e → u.entry k = s.entry k) ∧ (u.part p).joinSeq = v.joinSeq ∧
    (u.sq f r).running = some { c with done := some (c.statusOf .ok, res), doneAt := s.ends } ∧ u.mem = s.mem ∧ u.hostMem = s.hostMem := by
  intro t u
  have marked : ((s.setPart p v).setEntry e x).MarksOnly t := State.marksOnly_evalWeir _ id
  have same := marked.sameContents
  have ends : u = t.endedWith f r c .ok res := t.finish_of_running f r c .ok res ((marked.running f r).trans runs)
  have entries (k : Nat) : u.entry k = ((s.setPart p v).setEntry e x).entry k := by
    rw [ends]
    exact State.entry_of_grist marked.grist k
  refine ⟨(entries e).trans (State.entry_setEntry _ e x), fun k other => (entries k).trans (State.entry_setEntry_ne _ e k x other), ?_,
    ?_, by rw [ends]; exact same.mem, by rw [ends]; exact same.hostMem⟩
  · obtain ⟨pool, table, part⟩ := marked.part p
    rw [ends]
    show (t.part p).joinSeq = _
    rw [part]
    show ((s.setPart p v).part p).joinSeq = _
    rw [s.part_setPart]
  · rw [ends]
    refine (State.running_setRunning t.ended f r _).trans ?_
    rw [going, same.ends, ← waits]
    rfl

/-! ## Joining and leaving -/

/-- The entry that a join takes (R267). -/
def State.joined (s : State) (f : Nat) (d : Desc) : GristEntry where
  state := .queued
  total := BitVec.ofNat 16 (d.op0 15 0)
  overshot := d.op0 31 31 == 1
  seed := wordAt d 2
  owner := BitVec.ofNat 8 f
  cond0 := BitVec.ofNat 48 (d.addr 0x18)
  cond1 := BitVec.ofNat 48 (d.addr 0x20)
  user := wordAt d 5
  joinSeq := (s.part (s.partOf f)).joinSeq

/-- A join for which an entry, a slot and a share are there. -/
theorem State.gristJoin_of_room {s : State} {f : Nat} (r : Nat) {c : Running} {e : Nat}
    (allowed : ¬(c.desc.op0 31 31 = 1 ∧ (!(s.bind f).overOk) = true)) (some_ : c.desc.op0 15 0 ≠ 0)
    (free : s.lowestFree (s.partOf f) = some e)
    (room : ¬((s.part (s.partOf f)).latentSlots = 0 ∨ (s.heldBy f).length ≥ (s.bind f).gristMax.toNat)) : s.gristJoin f r c =
      (((s.setPart (s.partOf f) { s.part (s.partOf f) with joinSeq := (s.part (s.partOf f)).joinSeq + 1 }).setEntry e
        (s.joined f c.desc)).evalWeir (.gristTable (houseIx (s.partOf f)))).finish f r .ok (BitVec.ofNat 32 e) := by
  unfold State.gristJoin
  extract_lets d p
  rw [if_neg allowed, if_neg some_, show s.lowestFree p = _ from free]
  dsimp only
  rw [if_neg room]
  rfl

/-! ## The step (R269) -/

/-- What the Grist unit leaves while it commits leaves and admits joins. -/
structure State.GristWork (s t : State) : Prop where
  running : ∀ f r, t.running f r = s.running f r
  ends    : t.ends = s.ends
  host    : t.hostMem = s.hostMem
  clean   : s.ecc = [] → t.ecc = []
  serial  : ∀ p, (t.part p).serial = (s.part p).serial

theorem State.GristWork.refl (s : State) : s.GristWork s := ⟨fun _ _ => rfl, rfl, rfl, id, fun _ => rfl⟩

theorem State.GristWork.trans {s t u : State} (first : s.GristWork t) (next : t.GristWork u) : s.GristWork u :=
  ⟨fun f r => (next.running f r).trans (first.running f r), next.ends.trans first.ends, next.host.trans first.host,
    fun clean => next.clean (first.clean clean), fun p => (next.serial p).trans (first.serial p)⟩

theorem State.GristWork.of_foldl {α : Type} {g : State → α → State} (each : ∀ (u : State) x, u.GristWork (g u x)) (l : List α) (s : State) :
    s.GristWork (l.foldl g s) :=
  List.foldlRecOn (motive := fun u : State => s.GristWork u) l g (.refl s) fun u known x _ => known.trans (each u x)

theorem State.MarksOnly.gristWork {s t : State} (marked : s.MarksOnly t) : s.GristWork t where
  running := marked.running
  ends := marked.sameContents.ends
  host := marked.sameContents.hostMem
  clean clean := marked.sameContents.ecc.trans clean
  serial p := by
    obtain ⟨pool, table, part⟩ := marked.part p
    rw [part]

section
variable (s : State)

theorem State.gristWork_setEntry (e : Nat) (x : GristEntry) : s.GristWork (s.setEntry e x) := ⟨fun _ _ => rfl, rfl, rfl, id, fun _ => rfl⟩

theorem State.gristWork_evalWeir (id : WeirId) : s.GristWork (s.evalWeir id) := (s.marksOnly_evalWeir id).gristWork

theorem State.gristWork_setPart (p : Nat) {v : Partition} (same : v.serial = (s.part p).serial) : s.GristWork (s.setPart p v) := by
  refine ⟨fun _ _ => rfl, rfl, rfl, id, fun q => ?_⟩
  by_cases here : q = p
  · rw [here, s.part_setPart, same]
  · rw [s.part_setPart_ne p q v here]

theorem State.gristWork_devZero (pa n : Nat) : s.GristWork (s.devZero pa n) :=
  ⟨fun _ _ => rfl, rfl, rfl, fun clean => by rw [State.devZero, clean]; rfl, fun _ => rfl⟩

theorem State.gristWork_freeEntry (p e : Nat) : s.GristWork (s.freeEntry p e) := by
  unfold State.freeEntry
  extract_lets x z zeroed held _ listed freed
  have first : s.GristWork zeroed := by
    simp only [zeroed]
    split
    · exact s.gristWork_devZero _ _
    · exact .refl s
  have unlisted : zeroed.GristWork listed := zeroed.gristWork_setPart p rfl
  have second : zeroed.GristWork freed := (unlisted.trans (listed.gristWork_setEntry e {})).trans (State.gristWork_evalWeir _ _)
  split
  · exact (first.trans second).trans (freed.gristWork_evalWeir _)
  · exact first.trans second

theorem State.gristWork_advanceListed (l : List Nat) : s.GristWork (s.advanceListed l) := by
  refine .of_foldl (fun u e => ?_) l s
  split
  · exact u.gristWork_setEntry e _
  · exact .refl u

theorem State.gristWork_commitLeaves (f p : Nat) : s.GristWork (s.commitLeaves f p) := by
  refine .of_foldl (fun u e => ?_) _ s
  split
  · exact u.gristWork_freeEntry p e.1
  · exact .refl u

theorem State.gristWork_admitJoins (p : Nat) (serial : Word32) : s.GristWork (s.admitJoins p serial) := by
  refine .of_foldl (fun u e => ?_) _ s
  dsimp only
  split
  · exact .refl u
  · exact (u.gristWork_setEntry e.1 _).trans (State.gristWork_evalWeir _ _)

end

/-! ## The records of a work list -/

theorem GristEntry.length_bytes (x : GristEntry) (n : Nat) : (x.bytes n).length = 64 := by
  simp only [GristEntry.bytes, List.length_append, length_natLe]

theorem writeRecords_byMemory (a : Acc) (va : Nat) (l : List (Nat × GristEntry)) : Run.ByMemory false (writeRecords a va l) := by
  induction l generalizing va with
  | nil => exact Run.byMemory_pure _
  | cons e es ih => exact Run.byMemory_bind (writeV_local_byMemory a va _) fun _ => ih (va + 64)

/-- The bytes of a work list, record after record. -/
def recordBytes (l : List (Nat × GristEntry)) : List Byte := (l.map (fun x => x.2.bytes x.1)).flatten

theorem length_recordBytes (l : List (Nat × GristEntry)) : (recordBytes l).length = 64 * l.length := by
  induction l with
  | nil => rfl
  | cons x l ih =>
    rw [recordBytes, List.map_cons, List.flatten_cons, List.length_append, GristEntry.length_bytes]
    rw [recordBytes] at ih
    rw [ih, List.length_cons]
    omega

theorem State.ReachesApart.sub {s : State} {runs : List (Nat × Nat)} {a : Acc} {write : Bool} {va n pa o m : Nat}
    (reach : s.ReachesApart runs a write va n pa) (inside : o + m ≤ n) : s.ReachesApart runs a write (va + o) m (pa + o) :=
  fun mem out => (reach mem out).sub inside

/-- Translations apart from some runs stand when only their bytes change. -/
theorem State.ReachesApart.of_apart {s t : State} {runs : List (Nat × Nat)} {a : Acc} {write : Bool} {va n pa : Nat}
    (reach : s.ReachesApart runs a write va n pa) (apart : State.ApartFrom runs s t) : t.ReachesApart runs a write va n pa := by
  intro mem out
  refine (reach mem fun b outside => (out b outside).trans (apart.outside b outside)).of_sameWalks ?_ apart.before apart.clean
  obtain ⟨-, shape, binds, grist, part, house⟩ := apart.walks
  exact ⟨rfl, shape, binds, grist, part, house⟩

/-- Records that lie in device memory, apart from the page tables that lead there, are written one after another. -/
theorem writeRecords_of_apart {runs : List (Nat × Nat)} {a : Acc} (l : List (Nat × GristEntry)) {va pa : Nat} {e : Eng} (clean : e.s.ecc = [])
    (reach : e.s.ReachesApart runs a true va (64 * l.length) pa) (inside : ∃ x ∈ runs, x.1 ≤ pa ∧ pa + 64 * l.length ≤ x.1 + x.2) :
    ∃ t w, (writeRecords a va l).run.run e = (.ok (), { e with s := t, wrote := w }) ∧ e.s.Stored t pa (recordBytes l) := by
  induction l generalizing va pa e with
  | nil => exact ⟨e.s, e.wrote, rfl, .nil clean pa⟩
  | cons x l ih =>
    obtain ⟨y, mem, low, high⟩ := inside
    rw [List.length_cons] at reach high
    have long := x.2.length_bytes x.1
    have here : e.s.ReachesApart runs a true va (x.2.bytes x.1).length pa := by
      rw [long]
      exact reach.sub (o := 0) (by omega)
    obtain ⟨t, w, run, stored⟩ := writeV_of_apart clean here ⟨y, mem, low, by omega⟩
    have apart := stored.apartFrom (runs := runs) clean ⟨y, mem, low, by omega⟩
    have rest : t.ReachesApart runs a true (va + 64) (64 * l.length) (pa + 64) := (reach.of_apart apart).sub (by omega)
    obtain ⟨t', w', run', stored'⟩ := ih (e := { e with s := t, wrote := w }) stored.ecc rest ⟨y, mem, by omega, by omega⟩
    refine ⟨t', w', ?_, ?_⟩
    · rw [writeRecords, Run.bind_of_ok run]
      exact run'
    · rw [recordBytes, List.map_cons, List.flatten_cons]
      exact stored.append (by rw [long]; exact stored')

/-- Each of those records can be written by itself. -/
theorem State.writable_of_apart {s : State} {a : Acc} {va pa : Nat} (l : List (Nat × GristEntry)) (clean : s.ecc = [])
    (reach : s.ReachesApart [(pa, 64 * l.length)] a true va (64 * l.length) pa) : s.writable a va l = l.length := by
  unfold State.writable
  rw [List.takeWhile_eq_self_iff.mpr, List.length_range]
  intro i mem
  have low := List.mem_range.mp mem
  obtain ⟨t, w, run, -⟩ := writeRecords_of_apart [l.getD i (0, {})] (e := { s := s }) clean (reach.sub (o := 64 * i) (m := 64 * 1) (by omega))
    ⟨_, .head _, by omega, by simp; omega⟩
  rw [Run.exec, run]

/-- The entries of a work list once they have been listed. -/
theorem State.entry_foldl_setEntry {P : GristEntry → Prop} (l : List (Nat × GristEntry)) (v : Nat × GristEntry → GristEntry)
    (each : ∀ x ∈ l, P (v x)) (s : State) (k : Nat) (known : k ∈ l.map (·.1) ∨ P (s.entry k)) :
    P ((l.foldl (fun s x => s.setEntry x.1 (v x)) s).entry k) := by
  induction l generalizing s with
  | nil => exact known.resolve_left List.not_mem_nil
  | cons y l ih =>
    refine ih (fun x mem => each x (List.mem_cons_of_mem y mem)) (s.setEntry y.1 (v y)) ?_
    by_cases here : k = y.1
    · rw [here, s.entry_setEntry]
      exact .inr (each y List.mem_cons_self)
    · rw [s.entry_setEntry_ne y.1 k _ here]
      rw [List.map_cons, List.mem_cons] at known
      exact known.imp_left fun mem => mem.resolve_left here

/-- What the end of a step does to the partition and its entries. -/
def State.listed (s : State) (f p : Nat) (l : List (Nat × GristEntry)) : State :=
  let t := l.foldl (fun s e => s.setEntry e.1 { e.2 with first := false }) s
  t.setPart p { t.part p with prevList := Table.put [] (t.part p).prevList f (l.map (·.1)) }

theorem State.listed_fields (s : State) (f p : Nat) (l : List (Nat × GristEntry)) {serial : Word32} (each : ∀ x ∈ l, x.2.listed = serial) :
    s.GristWork (s.listed f p l) ∧ (s.listed f p l).mem = s.mem ∧
    ∀ x ∈ l, ((s.listed f p l).entry x.1).listed = serial ∧ ((s.listed f p l).entry x.1).first = false := by
  let t := l.foldl (fun s e => s.setEntry e.1 { e.2 with first := false }) s
  have entries : s.GristWork t := .of_foldl (fun u e => u.gristWork_setEntry e.1 _) l s
  have mem : t.mem = s.mem := List.foldlRecOn (motive := fun u : State => u.mem = s.mem) l _ rfl fun u known _ _ => known
  refine ⟨entries.trans (t.gristWork_setPart p rfl), mem, fun x inside => ?_⟩
  exact State.entry_foldl_setEntry (P := fun y => y.listed = serial ∧ y.first = false) l (fun e => { e.2 with first := false })
    (fun x mem => ⟨each x mem, rfl⟩) s x.1 (.inl (List.mem_map_of_mem inside))

/-- The module once a step has committed leaves and admitted joins. -/
def State.stepReady (s : State) (f : Nat) (d : Desc) : State :=
  let p := s.partOf f
  let serial := (s.part p).serial + 1
  let s := s.setPart p { s.part p with serial := serial }
  let s := if d.op0 31 31 = 1 then s.advanceListed (Table.get [] (s.part p).prevList f) else s
  (s.commitLeaves f p).admitJoins p serial

/-- The work list of a step, as its records say it. -/
def State.stepList (t : State) (f p n : Nat) (serial : Word32) : List (Nat × GristEntry) :=
  (t.workList f p n serial).map (fun e => (e.1, { e.2 with listed := serial, last := e.2.step.toNat + 1 == e.2.total.toNat }))

/-- The rest of a step: its records and its end. -/
def State.stepEnds (t : State) (f r p : Nat) (d : Desc) (serial : Word32) : State :=
  let lst := t.stepList f p (d.op0 8 0) serial
  let u := t.tick.tick
  let n := u.writable (t.unnamedAcc f) (d.addr 0x10) lst
  let x := (writeRecords (t.unnamedAcc f) (d.addr 0x10) lst).exec u
  let v := x.2.s.listed f p (lst.take n)
  match x.1 with
  | .ok _ => v.finish f r .ok (BitVec.ofNat 32 n)
  | .error e => v.finishWith f r e.status (BitVec.ofNat 32 n) [] e.report

theorem State.gristStep_eq (s : State) (f r : Nat) (c : Running) :
    s.gristStep f r c = (s.stepReady f c.desc).stepEnds f r (s.partOf f) c.desc ((s.part (s.partOf f)).serial + 1) := rfl

theorem State.stepReady_fields (s : State) (f : Nat) (d : Desc) :
    (s.setPart (s.partOf f) { s.part (s.partOf f) with serial := (s.part (s.partOf f)).serial + 1 }).GristWork (s.stepReady f d) := by
  unfold State.stepReady
  extract_lets _ p serial _ s1 s2
  have advanced : s1.GristWork s2 := by
    simp only [s2]
    split
    · exact s1.gristWork_advanceListed _
    · exact .refl s1
  exact (advanced.trans (s2.gristWork_commitLeaves f p)).trans ((s2.commitLeaves f p).gristWork_admitJoins p serial)

section
variable {t : State} {f r p : Nat} {c : Running} {serial : Word32} (runs : t.running f r = some c)
  (all : t.tick.tick.writable (t.unnamedAcc f) (c.desc.addr 0x10) (t.stepList f p (c.desc.op0 8 0) serial) =
    (t.stepList f p (c.desc.op0 8 0) serial).length) {e : Eng}
  (run : (writeRecords (t.unnamedAcc f) (c.desc.addr 0x10) (t.stepList f p (c.desc.op0 8 0) serial)).exec t.tick.tick = (.ok (), e))
include runs all run

/-- A step whose records can all be written. -/
theorem State.stepEnds_of_written (going : c.done = none) (waits : c.wait = .none) :
    let v := t.stepEnds f r p c.desc serial
    let lst := t.stepList f p (c.desc.op0 8 0) serial
    (v.sq f r).running = some { c with done := some (c.statusOf .ok, BitVec.ofNat 32 lst.length), doneAt := t.ends } ∧
    (v.part p).serial = (t.part p).serial ∧ v.mem = e.s.mem ∧ v.hostMem = e.s.hostMem ∧
    ∀ x ∈ lst, (v.entry x.1).listed = serial ∧ (v.entry x.1).first = false := by
  have each : ∀ x ∈ t.stepList f p (c.desc.op0 8 0) serial, x.2.listed = serial := fun x mem => by
    obtain ⟨y, -, rfl⟩ := List.mem_map.mp mem
    rfl
  have written := Run.ByMemory.exec (writeRecords_byMemory (t.unnamedAcc f) (c.desc.addr 0x10) (t.stepList f p (c.desc.op0 8 0) serial))
    t.tick.tick
  rw [run] at written
  unfold State.stepEnds
  generalize t.stepList f p (c.desc.op0 8 0) serial = lst at all run each ⊢
  obtain ⟨listed, mem, entries⟩ := e.s.listed_fields f p lst each
  dsimp only
  rw [all, run, List.take_length]
  dsimp only
  generalize e.s.listed f p lst = u at listed mem entries ⊢
  rw [State.finish_of_running u f r c .ok _ ((listed.running f r).trans ((written.running f r).trans runs))]
  refine ⟨(State.running_setRunning _ f r _).trans ?_, ?_, mem, listed.host, entries⟩
  · rw [going, listed.ends, written.ends, ← waits]
    rfl
  · refine (listed.serial p).trans ?_
    rw [State.part, written.parts]
    rfl

end

/-- Settles O49. -/
theorem gristCommandsFollowTheirRules : Obligations.GristCommandsFollowTheirRules := by
  intro s f r c d p away
  refine ⟨fun fresh => ?_, fun fresh => ?_, fun fresh => ?_⟩
  · obtain ⟨runs, waits, going, op, -⟩ := (s.fresh_iff f r _ c).1 fresh
    intro high
    have goes : exec (.gristJoin f r) s = .next (s.gristJoin f r c) :=
      congrArg Host.Outcome.next (State.runCmd_of_fresh s f r _ _ c fresh)
    have drawn : s.failResult c.desc = s.freeWord := by rw [State.failResult, op]
    have turns (st : Status) (known : s.gristJoin f r c = s.fail f r st) : away st (.gristJoin f r) :=
      ⟨s.freeWord.1, by rw [goes, known, State.fail_of_freeWord runs drawn]⟩
    have allowed (right : high → (s.bind f).overOk = true) : ¬(c.desc.op0 31 31 = 1 ∧ (!(s.bind f).overOk) = true) := fun both => by
      rw [right both.1] at both
      exact Bool.noConfusion both.2
    refine ⟨fun isHigh wrong => turns .access (if_pos ⟨isHigh, by rw [wrong]; rfl⟩), fun right =>
      ⟨fun zero => turns .malformed ((if_neg (allowed right)).trans (if_pos zero)), fun some_ none => turns .capacity ?_,
        fun e some_ free => ⟨fun full => turns .capacity ?_, fun slots share => ?_⟩⟩⟩
    · unfold State.gristJoin
      extract_lets
      rw [if_neg (allowed right), if_neg some_, show s.lowestFree p = _ from none]
    · unfold State.gristJoin
      extract_lets
      rw [if_neg (allowed right), if_neg some_, show s.lowestFree p = _ from free]
      exact if_pos full
    · have joins := State.gristJoin_of_room r (allowed right) some_ free (not_or.mpr ⟨slots, Nat.not_le.mpr share⟩)
      obtain ⟨entry, others, seq, ring, mem, host⟩ := State.finish_of_entry runs waits going (s.partOf f) e
        { s.part (s.partOf f) with joinSeq := (s.part (s.partOf f)).joinSeq + 1 } (s.joined f c.desc)
        (.gristTable (houseIx (s.partOf f))) (BitVec.ofNat 32 e)
      exact ⟨_, goes.trans (congrArg Host.Outcome.next joins), entry, others, seq, ring, mem, host⟩
  · obtain ⟨runs, waits, going, op, -⟩ := (s.fresh_iff f r _ c).1 fresh
    intro e x mine
    have goes : exec (.gristLeave f r) s = .next (s.gristLeave f r c) :=
      congrArg Host.Outcome.next (State.runCmd_of_fresh s f r _ _ c fresh)
    have known : s.failResult c.desc = (0, s) := by rw [State.failResult, op]
    have check : (!inCarve (s.gristCarve p) e || (x.state != .free && x.owner.toNat != f)) = true ↔ ¬mine := by
      simp only [mine, Bool.or_eq_true, Bool.not_eq_true', Bool.and_eq_true, bne_iff_ne, not_and_or, not_or, Bool.not_eq_true, ne_eq]
    have leaves (own : mine) : s.gristLeave f r c = match x.state with
        | .free => s.fail f r .state
        | .leaving => s.fail f r .state
        | .queued => (s.freeEntry p e).finish f r .ok 0
        | .admitted => (s.setEntry e { x with state := .leaving }).finish f r .ok 0 :=
      if_neg fun bad => check.mp bad own
    refine ⟨fun other => ?_, fun own idle => ?_, fun own queued => ?_, fun own admitted => ?_⟩
    · rw [goes, ← s.fail_of_running f r .access 0 runs known]
      exact congrArg Host.Outcome.next (if_pos (check.mpr other))
    · rw [goes, ← s.fail_of_running f r .state 0 runs known, leaves own]
      rcases idle with free | leaving
      · rw [free]
      · rw [leaving]
    · obtain ⟨v, free⟩ := State.freeEntry_of_queued queued p
      obtain ⟨entry, others, -, ring, mem, -⟩ := State.finish_of_entry runs waits going p e v {} (.gristTable (houseIx p)) 0
      rw [goes, leaves own, queued]
      dsimp only
      rw [free]
      exact ⟨_, rfl, entry, others, mem, ring⟩
    · rw [goes, leaves own, admitted]
      exact congrArg Host.Outcome.next (State.finish_of_running (s.setEntry e { x with state := .leaving }) f r c .ok 0 runs)
  · obtain ⟨runs, waits, going, op, -⟩ := (s.fresh_iff f r _ c).1 fresh
    intro serial s1 s2 s3 lst a s4
    have ready : s3 = s.stepReady f d := rfl
    have drawn : s4 = s3.tick.tick := rfl
    have listing : lst = s3.stepList f p (d.op0 8 0) serial := rfl
    have access : a = s3.unnamedAcc f := rfl
    have numbered : s1.GristWork s3 := ready ▸ s.stepReady_fields f d
    have serials : (s3.part p).serial = serial := (numbered.serial p).trans (by rw [s.part_setPart])
    have runs' : s3.running f r = some c := (numbered.running f r).trans runs
    have goes : exec (.gristStep f r) s = .next (s3.stepEnds f r p d serial).settle :=
      congrArg (fun u => Host.Outcome.next (State.settle u)) ((State.runCmd_of_fresh s f r _ _ c fresh).trans (by rw [ready]; exact s.gristStep_eq f r c))
    have short : lst.length ≤ d.op0 8 0 := by
      rw [List.length_map, State.workList]
      exact List.length_take_le _ _
    clear_value a s4 lst s3
    subst drawn listing access
    refine ⟨short, ?any, ?device⟩
    case any =>
      intro e all run
      obtain ⟨running, number, mem, host, entries⟩ := State.stepEnds_of_written runs' all run going waits
      exact ⟨_, _, goes, running, rfl, number.trans serials, entries, mem, host⟩
    case device =>
      intro pb clean reach
      have clean4 : s3.tick.tick.ecc = [] := numbered.clean clean
      have all := State.writable_of_apart (s3.stepList f p (d.op0 8 0) serial) clean4 reach
      obtain ⟨t, w, run, stored⟩ := writeRecords_of_apart (s3.stepList f p (d.op0 8 0) serial) (e := { s := s3.tick.tick }) clean4 reach
        ⟨_, .head _, Nat.le_refl _, Nat.le_refl _⟩
      have run' : (writeRecords (s3.unnamedAcc f) (d.addr 0x10) (s3.stepList f p (d.op0 8 0) serial)).exec s3.tick.tick = (.ok (), { s := t, wrote := w }) := by
        rw [Run.exec, run]
        exact congrArg (Prod.mk _) (Eng.clearWritten_of_clean stored.ecc)
      obtain ⟨running, number, mem, host, entries⟩ := State.stepEnds_of_written runs' all run' going waits
      have bytes := stored.bytes
      have others := stored.others
      rw [length_recordBytes] at bytes others
      exact ⟨_, goes, number.trans serials, entries,
        (congrArg (fun m : Memory => m.readN pb (64 * (s3.stepList f p (d.op0 8 0) serial).length)) mem).trans bytes,
        fun b out => (congrArg (fun m : Memory => m.read b) mem).trans (others b out), host.trans (stored.host.trans numbered.host),
        running.trans (by rw [numbered.ends]; rfl)⟩

end Sys2Proof.Machine
end

section
/-! PROOFS. The sets of a stone (R90, R96 to R99): reading a set after a write, and the runner's switches (R97, R255, R256). -/
namespace Sys2Proof.Machine

/-! ## Reading a set and a stone -/

theorem Stone.set_setSet (x : Stone) (i : Nat) (v : SetCtx) : (x.setSet i v).set i = v := Table.get_put ..

theorem Stone.set_setSet_ne (x : Stone) (i j : Nat) (v : SetCtx) (other : j ≠ i) : (x.setSet i v).set j = x.set j :=
  Table.get_put_ne _ _ _ _ _ _ other

theorem State.stone_putCtx (s : State) (p i : Nat) (v : SetCtx) : (s.putCtx p i v).stone p = (s.stone p).setSet i v :=
  s.stone_setStone p _

theorem State.stone_modStone (s : State) (p : Nat) (g : Stone → Stone) : (s.modStone p g).stone p = g (s.stone p) := s.stone_setStone p _

theorem State.setCtx_putCtx_ne (s : State) (p i j : Nat) (v : SetCtx) (other : j ≠ i) : (s.putCtx p i v).setCtx p j = s.setCtx p j := by
  rw [State.setCtx, State.stone_putCtx, Stone.set_setSet_ne _ _ _ _ other]
  rfl

theorem State.stone_nextOrder (s : State) (p : Nat) :
    (s.nextOrder p).2.stone p = { s.stone p with order := (s.stone p).order + 1 } := s.stone_modStone p _

theorem State.setCtx_nextOrder (s : State) (p i : Nat) : (s.nextOrder p).2.setCtx p i = s.setCtx p i := by
  rw [State.setCtx, State.stone_nextOrder]
  rfl

/-! ## Snapshots (R100) -/

/-- No command of a function waits as a SNAPSHOT. -/
def State.NoSnapshot (s : State) (f : Nat) : Prop := ∀ r k sq seq, s.running f r = some k → k.wait ≠ .snapshot sq seq

section
variable {s : State} {f : Nat} (still : s.NoSnapshot f)
include still

theorem State.NoSnapshot.snapOn {c : SetCtx} (mine : c.f = f) : s.snapOn c = false := by
  refine Bool.eq_false_iff.mpr fun on => ?_
  obtain ⟨q, -, asked⟩ := List.any_eq_true.mp on
  obtain ⟨k, runs, waits⟩ := Option.any_eq_true _ _ |>.mp asked
  rw [mine] at runs
  exact still _ _ _ _ runs (of_decide_eq_true waits)

theorem State.NoSnapshot.imageDue (r : Nat) : s.imageDue f r = s := by
  unfold State.imageDue
  split
  next => rfl
  next c runs =>
    split
    next sq seq waits => exact absurd waits (still r c sq seq runs)
    next => rfl

theorem State.NoSnapshot.imagesOf : s.imagesOf f = s := List.foldl_fixed' (fun r => still.imageDue r) _

theorem State.NoSnapshot.of_running {t : State} (same : ∀ r, t.running f r = s.running f r) : t.NoSnapshot f :=
  fun r k sq seq runs => still r k sq seq ((same r).symm.trans runs)

theorem State.NoSnapshot.stopIdle {p i : Nat} (mine : (s.setCtx p i).f = f) : s.stopIdle p i = s := by
  unfold State.stopIdle
  extract_lets c
  rw [still.snapOn mine, Bool.and_false, if_neg Bool.false_ne_true]

end

theorem State.stopDue_of_noSnapshot {s : State} (still : ∀ f, s.NoSnapshot f) (p : Nat) : s.stopDue p = s := by
  unfold State.stopDue
  extract_lets x
  split
  next => rfl
  next i _ =>
    extract_lets c
    rw [(still c.f).snapOn rfl, Bool.and_false, if_neg Bool.false_ne_true]

/-! ## A set takes the runner (R97) -/

/-- The state in which set `j` has taken the runner. -/
def State.taken (s : State) (p j : Nat) : State :=
  (s.modCtx p j (fun c => { c with state := .running })).modStone p (fun x =>
    { x with loaded := some j, switching := x.loaded != some j, atBoundary := false, expired := false })

section
variable (s : State) (p j : Nat)

theorem State.stone_taken : (s.taken p j).stone p =
    { (s.stone p).setSet j { s.setCtx p j with state := .running } with
      loaded := some j, switching := (s.stone p).loaded != some j, atBoundary := false, expired := false } := by
  rw [State.taken, State.stone_modStone, State.modCtx, State.stone_putCtx]
  rfl

theorem State.setCtx_taken : (s.taken p j).setCtx p j = { s.setCtx p j with state := .running } := by
  rw [State.setCtx, State.stone_taken]
  exact Stone.set_setSet ..

theorem State.setCtx_taken_ne {k : Nat} (other : k ≠ j) : (s.taken p j).setCtx p k = s.setCtx p k := by
  rw [State.setCtx, State.stone_taken]
  exact Stone.set_setSet_ne _ _ _ _ other

theorem State.switchSet_idle (still : ∀ f, s.NoSnapshot f) (none_ : (s.stone p).readySets = [] ∨
    ¬∀ k, (s.stone p).loaded = some k → ((s.stone p).set k).state = .running →
      (s.stone p).atBoundary = true ∧ (s.stone p).switching = false ∧ (s.stone p).mustSwitch ((s.stone p).set k) = true) :
    s.switchSet p = s := by
  unfold State.switchSet
  rw [State.stopDue_of_noSnapshot still p]
  extract_lets u x
  split
  next => rfl
  next i c rest ready =>
    extract_lets take
    have keeps := none_.resolve_left (by rw [show (s.stone p).readySets = _ from ready]; exact List.cons_ne_nil _ _)
    split
    next empty => exact absurd (fun k known => absurd (known.symm.trans empty) (Option.some_ne_none k)) keeps
    next k known =>
      by_cases runs : (x.set k).state = .running
      · rw [if_neg (not_not.mpr runs), if_neg]
        intro gives
        simp only [Bool.and_eq_true, Bool.not_eq_true'] at gives
        refine keeps fun k' known' _ => ?_
        obtain rfl : k = k' := Option.some.inj (known.symm.trans known')
        exact ⟨gives.1.1, gives.1.2, gives.2⟩
      · exact absurd (fun k' known' runs' => absurd runs' (by
          obtain rfl : k = k' := Option.some.inj (known.symm.trans known')
          exact runs)) keeps

theorem State.running_taken (f r : Nat) : (s.taken p j).running f r = s.running f r := rfl

/-- The state in which set `i` has left the runner and keeps its place in the order. -/
def State.rested (i : Nat) : State := (s.nextOrder p).2.putCtx p i (((s.stone p).set i).rest (s.nextOrder p).1)

theorem State.stone_rested (i : Nat) : (s.rested p i).stone p =
    ({ s.stone p with order := (s.stone p).order + 1 } : Stone).setSet i (((s.stone p).set i).rest ((s.stone p).order + 1)) := by
  rw [State.rested, State.stone_putCtx, State.nextOrder, State.stone_modStone]

theorem State.running_rested (i f r : Nat) : (s.rested p i).running f r = s.running f r := rfl

theorem State.switchSet_takes (still : ∀ f, s.NoSnapshot f) {c : SetCtx} {rest : List (Nat × SetCtx)} (ready : (s.stone p).readySets = (j, c) :: rest)
    (gives : ∀ k, (s.stone p).loaded = some k → ((s.stone p).set k).state = .running →
      (s.stone p).atBoundary = true ∧ (s.stone p).switching = false ∧ (s.stone p).mustSwitch ((s.stone p).set k) = true) :
    s.switchSet p = match (s.stone p).loaded with
      | none => s.taken p j
      | some i => if ((s.stone p).set i).state = .running then (s.rested p i).taken p j else s.taken p j := by
  unfold State.switchSet
  rw [State.stopDue_of_noSnapshot still p]
  extract_lets u x
  rw [show x.readySets = _ from ready]
  dsimp only
  cases known : x.loaded with
  | none => rfl
  | some i =>
    dsimp only
    by_cases runs : (x.set i).state = .running
    · obtain ⟨at_, quiet, must⟩ := gives i known runs
      rw [if_neg (not_not.mpr runs), if_pos (show ((s.stone p).set i).state = _ from runs),
        if_pos (show (x.atBoundary && !x.switching && x.mustSwitch (x.set i)) = true by
          rw [show x.atBoundary = _ from at_, show x.switching = _ from quiet, show x.mustSwitch (x.set i) = _ from must]; rfl)]
      rfl
    · rw [if_pos runs, if_neg (show ¬((s.stone p).set i).state = _ from runs)]
      rfl

theorem State.taken_fields (t : State) : ((t.taken p j).stone p).loaded = some j ∧ ((t.taken p j).setCtx p j).state = .running ∧
    ((t.taken p j).stone p).atBoundary = false ∧ ((t.taken p j).stone p).expired = false ∧
    (((t.taken p j).stone p).switching = true ↔ (t.stone p).loaded ≠ some j) ∧ ((t.taken p j).stone p).bin = (t.stone p).bin ∧
    ((t.taken p j).stone p).acc = (t.stone p).acc ∧ (t.taken p j).mem = t.mem ∧ (t.taken p j).fns = t.fns := by
  rw [t.stone_taken p j, t.setCtx_taken p j]
  exact ⟨rfl, rfl, rfl, rfl, bne_iff_ne, rfl, rfl, rfl, rfl⟩

end

/-! ## Work on a stone without stored errors (R390) -/

theorem eccSpan_succ {k g z : Nat} (spans : eccSpan k = some (g, z)) : ∃ n, z = n + 1 := by
  unfold eccSpan at spans
  split at spans
  next =>
    obtain ⟨-, rfl⟩ := Prod.mk.inj (Option.some.inj spans)
    unfold granuleBytes
    split <;> exact ⟨_, rfl⟩
  next =>
    split at spans
    next =>
      obtain ⟨-, rfl⟩ := Prod.mk.inj (Option.some.inj spans)
      exact ⟨_, rfl⟩
    next => exact absurd spans (Option.some_ne_none _).symm

theorem Eng.clearWritten_of_unwritten {e : Eng} (none_ : e.wrote = []) : e.clearWritten = e := by
  obtain ⟨s, flags, device, wrote⟩ := e
  have drop : Table.drop s.ecc (eccWritten wrote) = s.ecc := by
    refine List.filter_eq_self.mpr fun c _ => ?_
    rw [show wrote = [] from none_, Bool.not_eq_true', eccWritten]
    split
    next g z spans =>
      obtain ⟨n, rfl⟩ := eccSpan_succ spans
      exact List.all_eq_false.mpr ⟨0, List.mem_range.mpr n.succ_pos, Bool.false_ne_true⟩
    next => rfl
  simp only [Eng.clearWritten, drop]

theorem meetRead_of_clean (p base a n : Nat) {e : Eng} (clean : (e.s.stone p).ecc = []) :
    (meetRead p base a n).run.run e = (.ok (), e) := by
  have here : getS.run.run e = (.ok e.s, e) := rfl
  have listed : ((granules8 a n).map (base + ·)).filter (fun g => (e.s.stone p).ecc.any (fun c => c.1 == g)) = [] := by
    rw [clean]
    exact List.filter_false _
  rw [meetRead, Run.bind_of_ok here]
  dsimp only
  rw [listed]
  obtain ⟨s, flags, device, wrote⟩ := e
  cases device <;> rfl

/-! ## Windows and allotments (R255, R256) -/

theorem Stone.spend_fields (x : Stone) (n : Nat) : (x.spend n).sets = x.sets ∧ (x.spend n).switching = x.switching ∧
    (x.spend n).ecc = x.ecc ∧ (x.spend n).loaded = x.loaded ∧
    (x.spend n).overCount = x.overCount + (match x.loaded with
      | some k => if (x.set k).state = .running ∧ (x.set k).overshot = true then n else 0
      | none => 0) := by
  unfold Stone.spend
  cases known : x.loaded with
  | none => exact ⟨rfl, rfl, rfl, known, rfl⟩
  | some k =>
    dsimp only
    by_cases counts : (x.set k).state = .running ∧ (x.set k).overshot = true
    · rw [if_pos (show ((x.set k).state = .running && (x.set k).overshot) = true by simp only [counts, decide_true, Bool.and_self])]
      exact ⟨rfl, rfl, rfl, rfl, congrArg (x.overCount + ·) (if_pos counts).symm⟩
    · rw [if_neg (show ¬((x.set k).state = .running && (x.set k).overshot) = true by simpa only [Bool.and_eq_true, decide_eq_true_eq] using counts)]
      exact ⟨rfl, rfl, rfl, known, (Nat.add_zero _).symm.trans (congrArg (x.overCount + ·) (if_neg counts).symm)⟩

/-- Set `j` has taken the runner of a stone from the one that stood there. -/
structure State.SwitchedTo (s : State) (p j : Nat) (u : State) : Prop where
  loaded    : (u.stone p).loaded = some j
  running   : (u.setCtx p j).state = .running
  boundary  : (u.stone p).atBoundary = false
  expired   : (u.stone p).expired = false
  switching : (u.stone p).switching = true ↔ (s.stone p).loaded ≠ some j
  bin       : (u.stone p).bin = (s.stone p).bin
  acc       : (u.stone p).acc = (s.stone p).acc
  mem       : u.mem = s.mem
  fns       : u.fns = s.fns
  others    : ∀ k, k ≠ j → (s.stone p).loaded ≠ some k → u.setCtx p k = s.setCtx p k
  left      : ∀ k, (s.stone p).loaded = some k → k ≠ j → (s.setCtx p k).state = .running →
    (u.setCtx p k).state = (if (s.setCtx p k).tileReady = true then .ready else .waiting)

section
variable {s : State} {p : Nat} (j : Nat)

theorem State.switchedTo_taken (idle : ∀ k, (s.stone p).loaded = some k → (s.setCtx p k).state ≠ .running) :
    s.SwitchedTo p j (s.taken p j) := by
  obtain ⟨loaded, running, boundary, expired, switching, bin, acc, mem, fns⟩ := State.taken_fields p j s
  exact ⟨loaded, running, boundary, expired, switching, bin, acc, mem, fns, fun k other _ => s.setCtx_taken_ne p j other,
    fun k known _ runs => absurd runs (idle k known)⟩

theorem State.switchedTo_rested {i : Nat} (known : (s.stone p).loaded = some i) : s.SwitchedTo p j ((s.rested p i).taken p j) := by
  have stone := s.stone_rested p i
  obtain ⟨loaded, running, boundary, expired, switching, bin, acc, mem, fns⟩ := State.taken_fields p j (s.rested p i)
  rw [stone] at switching bin acc
  refine ⟨loaded, running, boundary, expired, switching, bin, acc, mem, fns, fun k other notLoaded => ?_, fun k here other _ => ?_⟩
  · rw [State.setCtx_taken_ne _ p j other, State.setCtx, stone, Stone.set_setSet_ne _ _ _ _ fun same => notLoaded (known.trans (congrArg some same.symm))]
    rfl
  · obtain rfl : i = k := Option.some.inj (known.symm.trans here)
    rw [State.setCtx_taken_ne _ p j other, State.setCtx, stone, Stone.set_setSet, SetCtx.rest]
    exact apply_ite SetCtx.state ..

theorem State.switchSet_switchedTo {c : SetCtx} {rest : List (Nat × SetCtx)} (still : ∀ f, s.NoSnapshot f)
    (ready : (s.stone p).readySets = (j, c) :: rest)
    (gives : ∀ k, (s.stone p).loaded = some k → ((s.stone p).set k).state = .running →
      (s.stone p).atBoundary = true ∧ (s.stone p).switching = false ∧ (s.stone p).mustSwitch ((s.stone p).set k) = true) :
    s.SwitchedTo p j (s.switchSet p) ∧ ∀ f r, (s.switchSet p).running f r = s.running f r := by
  have eq := s.switchSet_takes p j still ready gives
  cases known : (s.stone p).loaded with
  | none =>
    rw [eq, known]
    exact ⟨State.switchedTo_taken j fun k here => absurd (known.symm.trans here).symm (Option.some_ne_none k), s.running_taken p j⟩
  | some i =>
    rw [known] at eq
    by_cases runs : ((s.stone p).set i).state = .running
    · rw [eq.trans (if_pos runs)]
      exact ⟨State.switchedTo_rested j known, fun f r => (State.running_taken _ p j f r).trans (s.running_rested p i f r)⟩
    · rw [eq.trans (if_neg runs)]
      refine ⟨State.switchedTo_taken j fun k here => ?_, s.running_taken p j⟩
      obtain rfl : i = k := Option.some.inj (known.symm.trans here)
      exact runs

end

/-! ## The end of a switch (R99) -/

theorem State.work_of_clean {α : Type} {s : State} {p i : Nat} {m : Run α} {v : α} {e : Eng} (run : m.exec s = (.ok v, e))
    (sound : e.device = false) (k : α → Flags → State → State) :
    s.work p i m k = k v e.flags (e.s.modCtx p i (fun c => { c with flags := c.flags.or e.flags })) := by
  unfold State.work
  rw [run]
  dsimp only
  rw [sound, if_neg Bool.false_ne_true]

theorem State.work_of_lost {α : Type} {s : State} {p i : Nat} {m : Run α} {v : α} {e : Eng} (run : m.exec s = (.ok v, e))
    (lost : e.device = true) (k : α → Flags → State → State) :
    s.work p i m k = (e.s.modCtx p i (fun c => { c with flags := c.flags.or e.flags })).stopSet p i { status := .deviceError } := by
  unfold State.work
  rw [run]
  dsimp only
  rw [lost, if_pos rfl]

theorem meetCtx_of_clean (p i : Nat) {s : State} (clean : (s.stone p).ecc = []) : (meetCtx p i).exec s = (.ok (), { s := s }) := by
  rw [Run.exec, meetCtx, meetRead_of_clean p _ _ _ (e := { s := s }) clean]
  exact congrArg (Prod.mk _) (Eng.clearWritten_of_unwritten rfl)

theorem Flags.or_none (a : Flags) : a.or {} = a := by
  simp only [Flags.or, Bool.or_false]

theorem State.setCtx_modCtx (s : State) (p i : Nat) (g : SetCtx → SetCtx) : (s.modCtx p i g).setCtx p i = g (s.setCtx p i) :=
  State.setCtx_putCtx ..

/-- The state in which the clocks of a switch have been counted. -/
def State.switchedIn (s : State) (p : Nat) : State := s.setStone p ({ s.stone p with switching := false }.spend 64)

section
variable (s : State) (p : Nat)

theorem State.switchInDone_eq (busy : (s.stone p).switching = true) : s.switchInDone p = match (s.stone p).loaded with
    | some i => (s.switchedIn p).work p i (meetCtx p i) (fun _ _ s => s.walkOn p)
    | none => (s.switchedIn p).walkOn p := by
  unfold State.switchInDone
  extract_lets
  rw [if_neg (by rw [busy]; exact Bool.false_ne_true)]
  rfl

/-- What the end of a switch leaves. -/
structure State.SwitchedIn (s : State) (p : Nat) (u : State) : Prop where
  done  : (u.stone p).switching = false
  sets  : ∀ j, u.setCtx p j = s.setCtx p j
  mem   : u.mem = s.mem
  count : (u.stone p).overCount = (s.stone p).overCount + (match (s.stone p).loaded with
    | some k => if ((s.stone p).set k).state = .running ∧ ((s.stone p).set k).overshot = true then 64 else 0
    | none => 0)

theorem State.switchedIn_fields : s.SwitchedIn p (s.switchedIn p) ∧ ((s.switchedIn p).stone p).ecc = (s.stone p).ecc := by
  obtain ⟨sets, switching, ecc, loaded, count⟩ := Stone.spend_fields { s.stone p with switching := false } 64
  have stone : (s.switchedIn p).stone p = _ := s.stone_setStone p _
  refine ⟨⟨by rw [stone, switching], fun j => ?_, rfl, by rw [stone]; exact count⟩, by rw [stone, ecc]⟩
  rw [State.setCtx, stone, Stone.set, sets]
  rfl

theorem State.switchInDone_of_clean (busy : (s.stone p).switching = true) (clean : (s.stone p).ecc = []) :
    ∃ u, s.switchInDone p = u.walkOn p ∧ s.SwitchedIn p u := by
  rw [s.switchInDone_eq p busy]
  obtain ⟨ends, ecc⟩ := s.switchedIn_fields p
  cases known : (s.stone p).loaded with
  | none => exact ⟨_, rfl, ends⟩
  | some i =>
    refine ⟨_, State.work_of_clean (meetCtx_of_clean p i (ecc.trans clean)) rfl _, ?_⟩
    have same : (fun c : SetCtx => { c with flags := c.flags.or {} }) = id := funext fun c => by rw [Flags.or_none]; rfl
    dsimp only
    rw [same, State.modCtx]
    refine ⟨by rw [State.stone_putCtx]; exact ends.done, fun j => ?_, ends.mem, by rw [State.stone_putCtx]; exact ends.count⟩
    by_cases here : j = i
    · subst here
      rw [State.setCtx_putCtx]
      exact ends.sets j
    · rw [State.setCtx_putCtx_ne _ _ _ _ _ here]
      exact ends.sets j

end

/-- Settles O58. -/
theorem runnerSwitchesSets : Obligations.RunnerSwitchesSets := by
  intro s p i x c
  refine ⟨fun waits ready => ?_, fun none_ idle => ?_, fun still => ?_, fun quiet => ?_, fun busy clean => ?_, fun k e busy known meets lost => ?_,
    fun off => ?_, fun on => ?_, ?_⟩
  · refine ⟨(s.nextOrder p).2.putCtx p i { c with state := .ready, readyAt := x.order + 1 }, congrArg (fun u => Host.Outcome.next (State.settle u)) ?_,
      State.setCtx_putCtx .., ?_, fun j other => ?_, rfl, rfl⟩
    · unfold State.nextTile
      extract_lets d o
      rw [if_pos (by rw [show d.state = _ from waits, show d.tileReady = _ from ready]; rfl)]
      refine congrArg (State.putCtx _ p i) ?_
      rw [show o.2.setCtx p i = c from s.setCtx_nextOrder p i]
      rfl
    · rw [State.stone_putCtx, State.stone_nextOrder]
      rfl
    · rw [State.setCtx_putCtx_ne _ _ _ _ _ other, State.setCtx_nextOrder]
      rfl
  · refine congrArg (fun u => Host.Outcome.next (State.settle u)) ?_
    unfold State.nextTile
    extract_lets d
    rw [if_neg (fun both => ?_), if_neg (show ¬d.state = _ from idle)]
    simp only [Bool.and_eq_true, decide_eq_true_eq] at both
    exact none_.elim (fun bad => bad both.1) fun bad => Bool.noConfusion (bad.symm.trans both.2)
  · intro gives
    have still' : ∀ f, s.NoSnapshot f := still
    refine ⟨fun none_ => ?_, fun j d rest ready leaves => ?_⟩
    · refine congrArg (fun u => Host.Outcome.next (State.settle u)) ?_
      rw [s.switchSet_idle p still' none_]
      exact (still' _).imagesOf
    · obtain ⟨to_, same⟩ := State.switchSet_switchedTo j still' ready leaves
      exact ⟨_, congrArg (fun u => Host.Outcome.next (State.settle u)) ((still' _).of_running (same _)).imagesOf, to_.loaded,
        to_.running, to_.boundary, to_.expired, to_.switching, to_.bin, to_.acc, to_.mem, to_.fns, to_.others, to_.left⟩
  · refine congrArg (fun u => Host.Outcome.next (State.settle u)) (if_pos ?_)
    rw [show (s.stone p).switching = _ from quiet]
    rfl
  · obtain ⟨u, eq, ends⟩ := s.switchInDone_of_clean p busy clean
    exact ⟨u, congrArg (fun u => Host.Outcome.next (State.settle u)) eq, ends.done, ends.sets, ends.mem, ends.count⟩
  · have eq := s.switchInDone_eq p busy
    rw [show (s.stone p).loaded = _ from known] at eq
    exact ⟨_, congrArg (fun u => Host.Outcome.next (State.settle u)) (eq.trans (State.work_of_lost meets lost _))⟩
  · exact congrArg Host.Outcome.next (if_pos (by rw [off]; rfl))
  · refine ⟨_, congrArg Host.Outcome.next (if_neg (by rw [on]; exact Bool.false_ne_true)), ?_⟩
    rw [State.stone_modStone]
    exact ⟨rfl, rfl, rfl, fun q other => s.stone_setStone_ne p q _ other, rfl, rfl⟩
  · intro idle
    refine ⟨fun none_ => congrArg Host.Outcome.next ?_, ?rank⟩
    · unfold State.allotmentEnds
      extract_lets
      split
      next => rfl
      next k known =>
        exact if_pos (none_ k known)
    case rank =>
      intro k known runs d peer
      have ends : s.allotmentEnds p = if (s.stone p).readySets.any (fun y => (s.stone p).high y.2 || !(s.stone p).high d) then
          s.setStone p { s.stone p with expired := true }
        else if (s.stone p).high d && (s.stone p).reserve.toNat < 64 then
          s.setStone p { s.stone p with expired := true, overCount := (s.stone p).reserve.toNat * 1024 }
        else s := by
        unfold State.allotmentEnds
        extract_lets
        rw [show x.loaded = some k from known]
        exact if_neg (not_not.mpr runs)
      have peers : (s.stone p).readySets.any (fun y => (s.stone p).high y.2 || !(s.stone p).high d) = true ↔ peer := by
        simp only [List.any_eq_true, Bool.or_eq_true, Bool.not_eq_true', peer, x, Prod.exists]
      refine ⟨fun some_ => congrArg Host.Outcome.next (ends.trans (if_pos (peers.mpr some_))), fun lone high below => ?_, fun lone past => ?_⟩
      · refine ⟨_, congrArg Host.Outcome.next ((ends.trans (if_neg (lone ∘ peers.mp))).trans (if_pos ?_)), ?_⟩
        · rw [show (s.stone p).high d = true from high, show decide ((s.stone p).reserve.toNat < 64) = true from decide_eq_true below]
          rfl
        · rw [State.stone_setStone]
          refine ⟨?_, rfl, rfl, rfl⟩
          rw [Stone.high, decide_eq_false (Nat.lt_irrefl _), Bool.and_false]
      · refine congrArg Host.Outcome.next ((ends.trans (if_neg (lone ∘ peers.mp))).trans (if_neg fun both => ?_))
        rw [Bool.and_eq_true, decide_eq_true_eq] at both
        exact past.elim (fun low => Bool.noConfusion (low.symm.trans both.1)) fun big => absurd both.2 (Nat.not_lt.mpr big)

end Sys2Proof.Machine
end

section
/-! PROOFS. The life of a plan (R88, R91, R192, R195, R209, R213, R215): a binding reads memory and changes stones; ends of stages. -/
namespace Sys2Proof.Machine

/-! ## What a binding changes -/

/-- `t` is `s` but for the stones and what readers of memory change. -/
def State.Binds (s t : State) : Prop := State.ByMemory true { s with stones := [] } { t with stones := [] }

theorem State.Binds.refl (s : State) : s.Binds s := State.ByMemory.refl _

theorem State.Binds.trans {s t u : State} (first : s.Binds t) (next : t.Binds u) : s.Binds u := State.ByMemory.trans first next

theorem State.ByMemory.binds {s t : State} (by_ : State.ByMemory true s t) : s.Binds t :=
  ⟨by_.memories, congrArg (fun u : State => { u with stones := [] }) by_.rest, by_.fn, by_.house⟩

theorem State.binds_stones (s : State) (l : Table Stone) : s.Binds { s with stones := l } := .refl s

theorem State.Binds.running {s t : State} (binds : s.Binds t) (f r : Nat) : t.running f r = s.running f r :=
  State.ByMemory.running binds f r

theorem State.Binds.mem {s t : State} (binds : s.Binds t) : t.mem = s.mem := (State.ByMemory.memories binds rfl).1

/-- Work that reads memory and binds sets. -/
def Run.Binds {α : Type} (m : Run α) : Prop := ∀ e : Eng, e.s.Binds (m.run.run e).2.s

/-- Such work over the bytes that a plan's check value covers. -/
def Bind.Binds {α : Type} (m : Bind α) : Prop := ∀ l, Run.Binds (m.run l)

section
variable {α β : Type}

theorem Run.ByMemory.binds {m : Run α} (by_ : Run.ByMemory true m) : Run.Binds m := fun e => (by_ e).binds

theorem Run.binds_bind {m : Run α} {k : α → Run β} (first : Run.Binds m) (rest : ∀ x, Run.Binds (k x)) : Run.Binds (m >>= k) := fun e => by
  have here := first e
  rw [Run.bind_run_state]
  generalize m.run.run e = answer at here
  obtain ⟨x | x, e'⟩ := answer
  · exact here
  · exact here.trans (rest x e')

theorem Bind.binds_pure (x : α) : Bind.Binds (pure x) := fun _ e => .refl e.s

theorem Bind.binds_bind {m : Bind α} {k : α → Bind β} (first : Bind.Binds m) (rest : ∀ x, Bind.Binds (k x)) : Bind.Binds (m >>= k) := fun l => by
  rw [StateT.run_bind]
  exact Run.binds_bind (first l) fun x => rest x.1 x.2

theorem Bind.binds_lift {m : Run α} (work : Run.Binds m) : Bind.Binds (liftM m) := fun _ =>
  Run.binds_bind work fun _ e => .refl e.s

theorem Bind.binds_lift_by {m : Run α} (work : Run.ByMemory true m) : Bind.Binds (liftM m) := Bind.binds_lift work.binds

theorem Bind.binds_mapM {g : α → Bind β} (each : ∀ x, Bind.Binds (g x)) (l : List α) : Bind.Binds (l.mapM g) := by
  induction l with
  | nil => exact Bind.binds_pure _
  | cons x l ih =>
    rw [List.mapM_cons]
    exact Bind.binds_bind (each x) fun _ => Bind.binds_bind ih fun _ => Bind.binds_pure _

end

/-! ## The parts of a binding (R193 to R195) -/

theorem fetchBytes_binds (a : Acc) (va n : Nat) : Bind.Binds (fetchBytes a va n) :=
  Bind.binds_bind (Bind.binds_lift_by (readSV_byMemory a va n)) fun _ => Bind.binds_bind (fun _ e => .refl e.s) fun _ => Bind.binds_pure _

theorem need_binds (ok : Bool) (st : Status) : Bind.Binds (need ok st) := by
  unfold need
  split
  · exact Bind.binds_pure _
  · exact Bind.binds_lift_by (Run.byMemory_halt st)

theorem must_binds {α : Type} (o : Option α) : Bind.Binds (must o) := by
  cases o with
  | some x => exact Bind.binds_pure x
  | none => exact Bind.binds_lift_by (Run.byMemory_halt .malformed)

/-- A check, then the rest. -/
theorem Bind.binds_need {α : Type} {ok : Bool} {st : Status} {k : Unit → Bind α} (rest : ∀ u, Bind.Binds (k u)) : Bind.Binds (need ok st >>= k) :=
  Bind.binds_bind (need_binds ok st) rest

/-- A structure is read, then the rest. -/
theorem Bind.binds_fetch {α : Type} {a : Acc} {va n : Nat} {k : List Byte → Bind α} (rest : ∀ bs, Bind.Binds (k bs)) :
    Bind.Binds (fetchBytes a va n >>= k) := Bind.binds_bind (fetchBytes_binds a va n) rest

theorem fetchBody_binds (a : Acc) (vane : Bool) (va : Nat) : Bind.Binds (fetchBody a vane va) := by
  unfold fetchBody
  split
  · exact Bind.binds_fetch fun _ => Bind.binds_bind (must_binds _) fun _ => Bind.binds_pure _
  · exact Bind.binds_fetch fun _ => Bind.binds_fetch fun _ => Bind.binds_bind (must_binds _) fun _ => Bind.binds_pure _

theorem fetchPhase_binds (a : Acc) (bin : Nat) (bs : List Byte) : Bind.Binds (fetchPhase a bin bs) :=
  Bind.binds_need fun _ => Bind.binds_fetch fun _ => Bind.binds_bind (must_binds _) fun _ => Bind.binds_need fun _ => Bind.binds_pure _

theorem checkRecord_binds (f : Nat) (survey : Bool) (stages : Nat) (ws : List Word64) : Bind.Binds (checkRecord f survey stages ws) :=
  Bind.binds_bind (Bind.binds_lift_by Run.byMemory_getS) fun _ => Bind.binds_bind (must_binds _) fun _ => Bind.binds_need fun _ =>
    Bind.binds_need fun _ => Bind.binds_fetch fun _ => Bind.binds_bind (Bind.binds_mapM (fun _ => fetchPhase_binds _ _ _) _) fun _ =>
    Bind.binds_bind (Bind.binds_mapM (fun _ => fetchBody_binds _ _ _) _) fun _ => Bind.binds_need fun _ => Bind.binds_fetch fun _ =>
    Bind.binds_bind (must_binds _) fun _ => Bind.binds_need fun _ => Bind.binds_need fun _ => Bind.binds_pure _

theorem fetchReadouts_binds (a : Acc) (ws : List Word64) : Bind.Binds (fetchReadouts a ws) := Bind.binds_fetch fun _ => must_binds _

theorem checkBodies_binds (a : Acc) (ws : List Word64) (x : StagePlan) (sh : Shape) (l : List Phase) (recs : Option (List ReadoutRec)) :
    Bind.Binds (checkBodies a ws x sh l recs) := by
  induction l generalizing recs with
  | nil => exact Bind.binds_pure _
  | cons q qs ih =>
    rw [checkBodies]
    split
    · exact Bind.binds_need fun _ => ih recs
    · refine Bind.binds_need fun _ => ?_
      extract_lets goOn
      have rest (known : Option (List ReadoutRec)) : Bind.Binds (goOn known) := Bind.binds_need fun _ => ih _
      split
      · exact Bind.binds_bind (fetchReadouts_binds _ _) fun _ => rest _
      · exact rest _

theorem checkLists_binds (f : Nat) (ws : List Word64) (x : StagePlan) : Bind.Binds (checkLists f ws x) := by
  refine Bind.binds_bind (Bind.binds_lift_by Run.byMemory_getS) fun _ => Bind.binds_bind (checkBodies_binds _ _ _ _ _ _) fun recs => ?_
  extract_lets goOn
  have rest (l : List ReadoutRec) : Bind.Binds (goOn l) :=
    Bind.binds_need fun _ => Bind.binds_need fun _ => Bind.binds_need fun _ => Bind.binds_fetch fun _ =>
      Bind.binds_bind (must_binds _) fun _ => Bind.binds_pure _
  cases recs with
  | some l => exact rest l
  | none => exact Bind.binds_bind (fetchReadouts_binds _ _) rest

theorem bindStage_binds (b : Binder) (stage rounds : Nat) (sp : StagePlan) (tabs : List GovTable) (small : Bool) (want : Want) :
    Bind.Binds (bindStage b stage rounds sp tabs small want) := by
  unfold bindStage
  split
  · exact Bind.binds_pure _
  · refine Bind.binds_bind (Bind.binds_lift_by Run.byMemory_getS) fun s => ?_
    split
    · exact Bind.binds_lift_by (Run.byMemory_halt _)
    · split
      · exact Bind.binds_lift_by (Run.byMemory_halt _)
      · exact Bind.binds_bind (Bind.binds_lift fun e => e.s.binds_stones _) fun _ => Bind.binds_pure _

theorem bindStages_binds (b : Binder) (rounds stages : Nat) (want : Nat → Want) (n : Nat) (l : List (List Word64)) :
    Bind.Binds (bindStages b rounds stages want n l) := by
  induction l generalizing n with
  | nil => exact Bind.binds_pure _
  | cons ws rest ih =>
    exact Bind.binds_bind (checkRecord_binds _ _ _ _) fun _ => Bind.binds_bind (checkLists_binds _ _ _) fun _ =>
      Bind.binds_bind (bindStage_binds _ _ _ _ _ _ _) fun _ => Bind.binds_bind (ih _) fun _ => Bind.binds_pure _

theorem bindPlan_binds (b : Binder) (va : Nat) (want : Nat → Want) : Bind.Binds (bindPlan b va want) :=
  Bind.binds_fetch fun _ => Bind.binds_need fun _ => Bind.binds_fetch fun _ => Bind.binds_bind (bindStages_binds _ _ _ _ _ _) fun _ =>
    Bind.binds_need fun _ => Bind.binds_pure _

theorem State.binds_tryBind (s : State) {m : Bind PlanRun} (work : Bind.Binds m) : s.Binds (s.tryBind m).2 := by
  have known : s.Binds ((m.run []).exec s).2.s := ((work []) { s := s }).trans (State.ByMemory.binds (.of_rest rfl rfl rfl rfl rfl))
  unfold State.tryBind
  extract_lets x
  split
  · exact known
  · exact known

/-! ## RUN_PLAN (R192, R195) -/

/-- A binding that fails binds no set. -/
theorem State.stones_tryBind (s : State) {m : Bind PlanRun} {e : Stop} (fails : (s.tryBind m).1 = .error e) : (s.tryBind m).2.stones = s.stones := by
  unfold State.tryBind at fails ⊢
  cases known : ((m.run []).exec s).1 with
  | error e => simp only [known]
  | ok y => simp only [known, reduceCtorEq] at fails

/-- A command whose reads stop it and that has no side buffer ends, its flags dropped. -/
theorem State.failRead_of_no_buffer {t : State} {f r : Nat} {c : Running} (runs : t.running f r = some c) (waits : c.wait = .none)
    (going : c.done = none) (unbuffered : c.desc.sideLen = 0) (e : Stop) : ∃ (u : State) (res : Word32), t.failRead f r e = u ∧
      u.stones = t.stones ∧ (u.sq f r).running = some { c with
        done := some (c.statusOf e.status, res), flags := {}, sideOvf := c.sideOvf || e.report.isSome, doneAt := t.ends } := by
  have drawn := t.failResult_eq c.desc
  have runs' : (t.failResult c.desc).2.running f r = some c := by rcases drawn with same | same <;> rw [same] <;> exact runs
  have ends : (t.failResult c.desc).2.ends = t.ends := by rcases drawn with same | same <;> rw [same]; rfl
  have stones : (t.failResult c.desc).2.stones = t.stones := by rcases drawn with same | same <;> rw [same]; rfl
  unfold State.failRead
  rw [runs]
  dsimp only
  generalize t.failResult c.desc = x at runs' ends stones
  cases reported : e.report with
  | none =>
    have eq : x.2.sides f r [] none = x.2 := rfl
    rw [eq, State.modRunning, show x.2.ended.running f r = some c from runs']
    refine ⟨_, x.1, rfl, stones, (State.running_setRunning _ f r _).trans ?_⟩
    rw [going, ends, Option.isSome_none, Bool.or_false, ← waits]
    rfl
  | some q =>
    have eq : x.2.sides f r [] (some q) = x.2.setRunning f r (some { c with sideOvf := true }) :=
      State.side_of_no_buffer runs' 0x03 q.body unbuffered
    have runs2 : (x.2.setRunning f r (some { c with sideOvf := true })).ended.running f r = some { c with sideOvf := true } :=
      State.running_setRunning _ f r _
    rw [eq, State.modRunning, runs2]
    refine ⟨_, x.1, rfl, stones, (State.running_setRunning _ f r _).trans ?_⟩
    rw [going, show (x.2.setRunning f r _).ends = t.ends from ends, Option.isSome_some, Bool.or_true, ← waits]
    rfl

/-! ## Leaving BINDING (R91, R96, R213, R215) -/

theorem Memory.clear_eq (m : Memory) (a n : Nat) : m.clear a n = m.write a (List.replicate n 0) := by
  have zeros (a n : Nat) : Memory.cells a (List.replicate n 0) = [] := by
    induction n generalizing a with
    | zero => rfl
    | succ n ih => exact (if_pos rfl).trans (ih (a + 1))
  rw [Memory.clear, Memory.write, zeros, List.append_nil, List.length_replicate]

theorem Memory.read_clear (m : Memory) (a n b : Nat) : (m.clear a n).read b = if a ≤ b ∧ b < a + n then 0 else m.read b := by
  rw [Memory.clear_eq]
  split
  next inside =>
    obtain ⟨k, rfl⟩ := Nat.exists_eq_add_of_le inside.1
    have lt : k < n := by omega
    rw [Memory.read_write_in _ _ _ _ (lt_of_lt_of_eq lt List.length_replicate.symm),
      List.getD_eq_getElem _ _ (lt_of_lt_of_eq lt List.length_replicate.symm), List.getElem_replicate]
  next outside =>
    refine Memory.read_write_out _ _ _ _ ?_
    rw [List.length_replicate]
    omega

/-- What zeroing a set's windows leaves. -/
theorem Stone.zeroWindows_fields (x : Stone) (c : SetCtx) : (x.zeroWindows c).sets = x.sets ∧ (x.zeroWindows c).order = x.order ∧
    (x.zeroWindows c).state = x.state ∧ (x.zeroWindows c).logical = x.logical ∧ (x.zeroWindows c).epoch = x.epoch ∧
    (x.zeroWindows c).bin = (x.bin.clear c.binOff c.plan.bin).clear (halfBytes + c.binOff) c.plan.bin :=
  ⟨rfl, rfl, rfl, rfl, rfl, rfl⟩

/-- The state in which a set has left BINDING, before it asks for its pawl. -/
def State.unbound (s : State) (p i : Nat) : State :=
  let s := s.modStone p (fun x => x.zeroWindows (s.setCtx p i))
  let o := s.nextOrder p
  o.2.modCtx p i (fun c => { c with state := .waiting, fillDue := o.1 })

theorem State.bindingDone_eq (s : State) (p i : Nat) (binds : (s.setCtx p i).state = .binding) :
    s.bindingDone p i = (((s.unbound p i).takeStagePawl p i).stopIdle p i).imagesOf (s.setCtx p i).f := by
  unfold State.bindingDone
  extract_lets c
  exact if_neg (not_not.mpr binds)

theorem State.stone_unbound (s : State) (p i : Nat) : (s.unbound p i).stone p =
    { (s.stone p).zeroWindows (s.setCtx p i) with order := (s.stone p).order + 1 }.setSet i
      { s.setCtx p i with state := .waiting, fillDue := (s.stone p).order + 1 } := by
  unfold State.unbound
  extract_lets u o
  have stone : u.stone p = (s.stone p).zeroWindows (s.setCtx p i) := s.stone_modStone p _
  have next : o.2.stone p = { u.stone p with order := (u.stone p).order + 1 } := u.stone_nextOrder p
  have count : o.1 = (u.stone p).order + 1 := rfl
  rw [State.modCtx, State.stone_putCtx, State.setCtx, next, count, stone]
  rfl

theorem State.speaks_congr {s t : State} {p : Nat} (state : (t.stone p).state = (s.stone p).state)
    (logical : (t.stone p).logical = (s.stone p).logical) (epoch : (t.stone p).epoch = (s.stone p).epoch) (epochs : t.epochs = s.epochs) :
    t.speaks p = s.speaks p := by
  unfold State.speaks State.epoch
  dsimp only
  rw [state, logical, epoch, epochs]

/-- What a set that asks for its pawl leaves. -/
structure State.PawlAsked (s : State) (p i : Nat) (u : State) : Prop where
  bin  : (u.stone p).bin = (s.stone p).bin
  ctx  : ∃ w, u.setCtx p i = { s.setCtx p i with pawl := w }
  mem  : u.mem = s.mem
  host : u.hostMem = s.hostMem
  snap : ∀ f, s.NoSnapshot f → u.NoSnapshot f

theorem State.NoSnapshot.markPlanBroken {s : State} {f : Nat} (still : s.NoSnapshot f) (g q : Nat) : (s.markPlanBroken g q).NoSnapshot f := by
  intro r k sq seq runs
  rcases s.running_modRunning g q f r _ k runs with same | ⟨k0, was, rfl⟩
  · exact still r k sq seq same
  · split
    · exact nofun
    · exact still r k0 sq seq was

section
variable (s : State) (p i : Nat)

theorem State.stones_markPlanBroken (f r : Nat) : (s.markPlanBroken f r).stones = s.stones ∧ (s.markPlanBroken f r).mem = s.mem ∧
    (s.markPlanBroken f r).hostMem = s.hostMem ∧ (s.markPlanBroken f r).pawls = s.pawls := by
  unfold State.markPlanBroken State.modRunning
  split <;> exact ⟨rfl, rfl, rfl, rfl⟩

theorem State.pawlAsked_putCtx (w : StagePawl) : s.PawlAsked p i (s.putCtx p i { s.setCtx p i with pawl := w }) :=
  ⟨by rw [State.stone_putCtx]; rfl, ⟨w, State.setCtx_putCtx ..⟩, rfl, rfl, fun f still => still.of_running fun _ => rfl⟩

theorem State.pawlAsked_grantPawl (broken : Bool) : s.PawlAsked p i (s.grantPawl (.set p i) broken) ∧
    (s.grantPawl (.set p i) broken).pawls = s.pawls ∧ ((s.grantPawl (.set p i) broken).setCtx p i).pawl = .held := by
  have asked := s.pawlAsked_putCtx p i .held
  cases broken with
  | false => exact ⟨asked, rfl, by rw [State.grantPawl]; exact congrArg SetCtx.pawl (State.setCtx_putCtx ..)⟩
  | true =>
    obtain ⟨stones, mem, host, pawls⟩ := (s.putCtx p i { s.setCtx p i with pawl := .held }).stones_markPlanBroken (s.setCtx p i).f (s.setCtx p i).r
    have eq : s.grantPawl (.set p i) true = (s.putCtx p i { s.setCtx p i with pawl := .held }).markPlanBroken (s.setCtx p i).f (s.setCtx p i).r := rfl
    rw [eq]
    have ctx : ((s.putCtx p i { s.setCtx p i with pawl := .held }).markPlanBroken (s.setCtx p i).f (s.setCtx p i).r).setCtx p i =
        { s.setCtx p i with pawl := .held } := by
      rw [State.setCtx, State.stone, stones]
      exact State.setCtx_putCtx ..
    refine ⟨⟨?_, ⟨.held, ctx⟩, mem.trans asked.mem, host.trans asked.host, fun f still => (asked.snap f still).markPlanBroken _ _⟩,
      pawls, congrArg SetCtx.pawl ctx⟩
    rw [State.stone, stones]
    exact asked.bin

/-- A set without a stage pawl asks for none. -/
theorem State.takeStagePawl_of_none (none_ : (s.setCtx p i).plan.pawlEn = false) : s.takeStagePawl p i = s := by
  unfold State.takeStagePawl
  extract_lets c
  exact if_pos (by rw [show c.plan.pawlEn = false from none_]; rfl)

section
variable (en : (s.setCtx p i).plan.pawlEn = true)
include en

/-- The fabric drops what a fenced stone asks. -/
theorem State.takeStagePawl_of_fenced (fenced : s.speaks p = false) : s.takeStagePawl p i = s.staleWrite p := by
  unfold State.takeStagePawl
  extract_lets c
  rw [if_neg (by rw [show c.plan.pawlEn = true from en]; exact Bool.false_ne_true), if_pos (by rw [fenced]; rfl)]

variable (speaks : s.speaks p = true)
include speaks

theorem State.takeStagePawl_of_free (free : (s.pawl (s.setCtx p i).plan.pawl).holder = none) : s.takeStagePawl p i =
    (s.setPawl (s.setCtx p i).plan.pawl { s.pawl (s.setCtx p i).plan.pawl with holder := some (.set p i), broken := false }).grantPawl
      (.set p i) (s.pawl (s.setCtx p i).plan.pawl).broken := by
  unfold State.takeStagePawl
  extract_lets c n x
  rw [if_neg (by rw [show c.plan.pawlEn = true from en]; exact Bool.false_ne_true), if_neg (by rw [speaks]; exact Bool.false_ne_true),
    show x.holder = none from free]

theorem State.takeStagePawl_of_held (held : (s.pawl (s.setCtx p i).plan.pawl).holder.isSome = true) : s.takeStagePawl p i =
    (s.setPawl (s.setCtx p i).plan.pawl { s.pawl (s.setCtx p i).plan.pawl with
      queue := (s.pawl (s.setCtx p i).plan.pawl).queue ++ [.set p i] }).modCtx p i (fun c => { c with pawl := .queued }) := by
  obtain ⟨t, known⟩ := Option.isSome_iff_exists.mp held
  unfold State.takeStagePawl
  extract_lets c n x
  rw [if_neg (by rw [show c.plan.pawlEn = true from en]; exact Bool.false_ne_true), if_neg (by rw [speaks]; exact Bool.false_ne_true),
    show x.holder = some t from known]

end

theorem State.PawlAsked.of_setPawl {n : Nat} {v : Pawl} {u : State} (asked : (s.setPawl n v).PawlAsked p i u) : s.PawlAsked p i u :=
  ⟨asked.bin, asked.ctx, asked.mem, asked.host, fun f still => asked.snap f (still.of_running fun _ => rfl)⟩

theorem State.pawlAsked_takeStagePawl : s.PawlAsked p i (s.takeStagePawl p i) := by
  cases en : (s.setCtx p i).plan.pawlEn with
  | false =>
    rw [s.takeStagePawl_of_none p i en]
    exact ⟨rfl, ⟨_, rfl⟩, rfl, rfl, fun _ still => still⟩
  | true =>
    cases speaks : s.speaks p with
    | false =>
      rw [s.takeStagePawl_of_fenced p i en speaks]
      exact ⟨rfl, ⟨_, rfl⟩, rfl, rfl, fun _ still => still.of_running fun _ => rfl⟩
    | true =>
      cases held : (s.pawl (s.setCtx p i).plan.pawl).holder with
      | none =>
        rw [s.takeStagePawl_of_free p i en speaks held]
        exact State.PawlAsked.of_setPawl _ p i (State.pawlAsked_grantPawl _ p i _).1
      | some t =>
        rw [s.takeStagePawl_of_held p i en speaks (by rw [held]; rfl)]
        exact State.PawlAsked.of_setPawl _ p i (State.pawlAsked_putCtx _ p i .queued)

end

/-- What BINDING_DONE leaves of a set, its stone and the pawls. -/
structure State.LeftBinding (s : State) (p i : Nat) (u : State) : Prop where
  state   : (u.setCtx p i).state = .waiting
  due     : (u.setCtx p i).fillDue = (s.stone p).order + 1
  bin     : (u.stone p).bin = ((s.stone p).bin.clear (s.setCtx p i).binOff (s.setCtx p i).plan.bin).clear
    (halfBytes + (s.setCtx p i).binOff) (s.setCtx p i).plan.bin
  mem     : u.mem = s.mem
  host    : u.hostMem = s.hostMem
  none_   : (s.setCtx p i).plan.pawlEn = false → u.pawls = s.pawls ∧ u.fns = s.fns
  fenced  : (s.setCtx p i).plan.pawlEn = true → s.speaks p = false → u.pawls = s.pawls ∧ u.fns = s.fns ∧
    (u.unit 0 p).stale = sat32 (s.unit 0 p).stale 1
  free    : (s.setCtx p i).plan.pawlEn = true → s.speaks p = true → (s.pawl (s.setCtx p i).plan.pawl).holder = none →
    (u.pawl (s.setCtx p i).plan.pawl).holder = some (.set p i) ∧ (u.setCtx p i).pawl = .held
  held    : (s.setCtx p i).plan.pawlEn = true → s.speaks p = true → (s.pawl (s.setCtx p i).plan.pawl).holder.isSome = true →
    u.pawl (s.setCtx p i).plan.pawl = { s.pawl (s.setCtx p i).plan.pawl with
      queue := (s.pawl (s.setCtx p i).plan.pawl).queue ++ [.set p i] } ∧ (u.setCtx p i).pawl = .queued

theorem State.unit_staleWrite (s : State) (p : Nat) : ((s.staleWrite p).unit 0 p).stale = sat32 (s.unit 0 p).stale 1 :=
  congrArg UnitCount.stale (Table.get_put ..)

/-- The state of a set that asks for its pawl, against the one in which it was BINDING. -/
structure State.Unbound (s : State) (p i : Nat) (t : State) : Prop where
  ctx    : t.setCtx p i = { s.setCtx p i with state := .waiting, fillDue := (s.stone p).order + 1 }
  bin    : (t.stone p).bin = ((s.stone p).bin.clear (s.setCtx p i).binOff (s.setCtx p i).plan.bin).clear
    (halfBytes + (s.setCtx p i).binOff) (s.setCtx p i).plan.bin
  speaks : t.speaks p = s.speaks p
  snap   : ∀ f, s.NoSnapshot f → t.NoSnapshot f
  mem    : t.mem = s.mem
  host   : t.hostMem = s.hostMem
  pawls  : t.pawls = s.pawls
  fns    : t.fns = s.fns
  units  : t.units = s.units

theorem State.unbound_eq (s : State) (p i : Nat) : ∃ l, s.unbound p i = { s with stones := l } := by
  unfold State.unbound
  extract_lets u o
  have order : ∃ l, o.2 = { u with stones := l } := ⟨_, rfl⟩
  obtain ⟨l, eq⟩ := order
  rw [eq]
  exact ⟨_, rfl⟩

theorem State.unbound_fields (s : State) (p i : Nat) : s.Unbound p i (s.unbound p i) := by
  have stone := s.stone_unbound p i
  have same : (s.unbound p i).mem = s.mem ∧ (s.unbound p i).hostMem = s.hostMem ∧ (s.unbound p i).pawls = s.pawls ∧
    (s.unbound p i).fns = s.fns ∧ (s.unbound p i).units = s.units ∧ (s.unbound p i).epochs = s.epochs := by
    obtain ⟨l, eq⟩ := s.unbound_eq p i
    rw [eq]
    exact ⟨rfl, rfl, rfl, rfl, rfl, rfl⟩
  obtain ⟨-, -, state, logical, epoch, bin⟩ := (s.stone p).zeroWindows_fields (s.setCtx p i)
  generalize (s.stone p).zeroWindows (s.setCtx p i) = z at *
  generalize s.unbound p i = t at *
  obtain ⟨mem, host, pawls, fns, units, epochs⟩ := same
  refine ⟨?_, by rw [stone, ← bin]; rfl, ?_, fun f still => still.of_running fun r => ?_, mem, host, pawls, fns, units⟩
  · rw [State.setCtx, stone, Stone.set_setSet]
  · exact State.speaks_congr (by rw [stone, ← state]; rfl) (by rw [stone, ← logical]; rfl) (by rw [stone, ← epoch]; rfl) epochs
  · rw [State.running, State.sq, State.fn, fns]
    rfl

theorem State.Unbound.leftBinding {s t : State} {p i : Nat} (left : s.Unbound p i t) (still : s.NoSnapshot (s.setCtx p i).f) :
    s.LeftBinding p i (((t.takeStagePawl p i).stopIdle p i).imagesOf (s.setCtx p i).f) := by
  obtain ⟨ctx, bin, speaks, snap, mem, host, pawls, fns, units⟩ := left
  have plan : (t.setCtx p i).plan = (s.setCtx p i).plan := by rw [ctx]
  have pawl (n : Nat) : t.pawl n = s.pawl n := by rw [State.pawl, pawls]; rfl
  have asked := t.pawlAsked_takeStagePawl p i
  obtain ⟨w, taken⟩ := asked.ctx
  have still2 := asked.snap _ (snap _ still)
  rw [still2.stopIdle (by rw [taken, ctx]), still2.imagesOf]
  refine ⟨by rw [taken, ctx], by rw [taken, ctx], asked.bin.trans bin, asked.mem.trans mem, asked.host.trans host, fun none_ => ?_,
    fun en fenced => ?_, fun en speak free => ?_, fun en speak held => ?_⟩
  · rw [t.takeStagePawl_of_none p i (by rw [plan]; exact none_)]
    exact ⟨pawls, fns⟩
  · rw [t.takeStagePawl_of_fenced p i (by rw [plan]; exact en) (speaks.trans fenced)]
    exact ⟨pawls, fns, (t.unit_staleWrite p).trans (by rw [State.unit, units]; rfl)⟩
  · rw [t.takeStagePawl_of_free p i (by rw [plan]; exact en) (speaks.trans speak) (by rw [plan, pawl]; exact free), plan]
    obtain ⟨-, same, got⟩ := (t.setPawl (s.setCtx p i).plan.pawl { t.pawl (s.setCtx p i).plan.pawl with
      holder := some (.set p i), broken := false }).pawlAsked_grantPawl p i (t.pawl (s.setCtx p i).plan.pawl).broken
    refine ⟨?_, got⟩
    rw [State.pawl, same]
    exact congrArg Pawl.holder (State.pawl_setPawl ..)
  · rw [t.takeStagePawl_of_held p i (by rw [plan]; exact en) (speaks.trans speak) (by rw [plan, pawl]; exact held), plan, pawl]
    exact ⟨State.pawl_setPawl .., congrArg SetCtx.pawl (State.setCtx_putCtx ..)⟩

theorem State.bindingDone_fields (s : State) (p i : Nat) (binds : (s.setCtx p i).state = .binding)
    (still : s.NoSnapshot (s.setCtx p i).f) : s.LeftBinding p i (s.bindingDone p i) := by
  rw [s.bindingDone_eq p i binds]
  exact (s.unbound_fields p i).leftBinding still

/-! ## Ends of stages and of plans (R96, R209, R215) -/

theorem Stone.set_empty (x : Stone) (i : Nat) : (x.empty i).set i = {} := by
  have same : ((x.freeTables (x.set i).tables).setSet i {}).set i = {} := Stone.set_setSet ..
  unfold Stone.empty
  extract_lets c y
  split
  · exact same
  · exact same

theorem State.setOver_of_over (s : State) (p i : Nat) (ends : (s.setCtx p i).over = true) (goes : (s.setCtx p i).state ≠ .stopping)
    (owns : s.ownsSet p i = true) : s.setOver p i =
      (s.modRunning (s.setCtx p i).f (s.setCtx p i).r (fun k => match k.wait with
        | .plan x => { k with wait := .plan { x with flags := x.flags.or (s.setCtx p i).flags, finished := x.finished ++ [(s.setCtx p i).stage],
                                                     hists := x.hists ++ (s.setCtx p i).records } }
        | _ => k)).setStone p ((s.stone p).empty i) := by
  unfold State.setOver
  extract_lets c
  refine if_pos ?_
  rw [show c.over = true from ends, show (c.state != .stopping) = true from bne_iff_ne.mpr goes, owns]
  rfl

theorem State.modRunning_of_running (s : State) {f r : Nat} {k : Running} (runs : s.running f r = some k) (g : Running → Running) :
    s.modRunning f r g = s.setRunning f r (some (g k)) := by
  rw [State.modRunning, runs]

theorem State.modRunning_fields (s : State) (f r : Nat) (g : Running → Running) : (s.modRunning f r g).mem = s.mem ∧
    (s.modRunning f r g).hostMem = s.hostMem ∧ (s.modRunning f r g).stones = s.stones ∧ (s.modRunning f r g).ends = s.ends := by
  unfold State.modRunning
  split <;> exact ⟨rfl, rfl, rfl, rfl⟩

theorem State.setCtx_grantPawl_ne (s : State) {t : Taker} {p i : Nat} (other : t ≠ .set p i) : (s.grantPawl t false).setCtx p i = s.setCtx p i := by
  cases t with
  | ring g q =>
    obtain ⟨-, -, stones, -⟩ := s.ended.modRunning_fields g q (fun c => { c with done := mergeEnd c.done (c.statusOf .ok) 0, wait := .none, doneAt := s.ends })
    rw [State.setCtx, State.stone]
    exact congrArg (fun l : Table Stone => (Table.get (stoneShipped p) l p).set i) stones
  | set q j =>
    by_cases here : p = q
    · subst here
      have apart : i ≠ j := fun same => other (by rw [same])
      exact State.setCtx_putCtx_ne _ _ _ _ _ apart
    · rw [State.setCtx, State.grantPawl]
      exact congrArg (fun x : Stone => x.set i) (State.stone_setStone_ne _ _ _ _ here)

/-- The state in which a set has sent its pawl away. -/
def State.given (s : State) (p i : Nat) : State := s.modCtx p i (fun c => { c with pawl := .given })

section
variable (s : State) (p i : Nat)

theorem State.given_fields : ((s.given p i).setCtx p i).pawl = .given ∧ (s.given p i).pawls = s.pawls ∧ (s.given p i).fns = s.fns ∧
    (s.given p i).mem = s.mem ∧ (s.given p i).units = s.units :=
  ⟨congrArg SetCtx.pawl (s.setCtx_modCtx p i _), rfl, rfl, rfl, rfl⟩

theorem State.givePawl_idle (none_ : (s.setCtx p i).finished = false ∨ (s.setCtx p i).pawl ≠ .held) : s.givePawl p i = s := by
  have idle : ((s.setCtx p i).finished && (s.setCtx p i).pawl == .held) = false := by
    rcases none_ with going | other
    · rw [going]; rfl
    · rw [beq_eq_false_iff_ne.mpr other, Bool.and_false]
  unfold State.givePawl
  extract_lets c
  rw [show (c.finished && c.pawl == .held) = false from idle]
  rfl

theorem State.givePawl_of_finished (ends : (s.setCtx p i).finished = true) (held : (s.setCtx p i).pawl = .held) : s.givePawl p i =
    if s.speaks p then (s.given p i).passPawl (s.setCtx p i).plan.pawl false else (s.given p i).staleWrite p := by
  have due : ((s.setCtx p i).finished && (s.setCtx p i).pawl == .held) = true := by rw [ends, held]; rfl
  unfold State.givePawl
  extract_lets c
  rw [show (c.finished && c.pawl == .held) = true from due]
  cases s.speaks p <;> rfl

end

theorem State.planOver_of_plan {s : State} {f r : Nat} {c : Running} {x : PlanRun} (runs : s.running f r = some c) (plan : c.wait = .plan x) :
    s.planOver f r = if x.finished.length = x.stages.length then
        (s.addFlags f r x.flags).finishWith f r (planStatus x.broken (c.flags.or x.flags)) (BitVec.ofNat 32 x.rounds) (planRecords x.hists)
      else s := by
  rw [State.planOver, runs]
  dsimp only
  rw [plan]

/-- A plan without histogram records that is over. -/
theorem State.planOver_of_over {s : State} {f r : Nat} {c : Running} {x : PlanRun} (runs : s.running f r = some c) (plan : c.wait = .plan x)
    (full : x.finished.length = x.stages.length) (bare : x.hists = []) : s.planOver f r =
      (s.setRunning f r (some { c with flags := c.flags.or x.flags })).endedWith f r { c with flags := c.flags.or x.flags }
        (planStatus x.broken (c.flags.or x.flags)) (BitVec.ofNat 32 x.rounds) := by
  rw [State.planOver_of_plan runs plan, if_pos full, State.addFlags, s.modRunning_of_running runs, bare]
  exact State.finish_of_running _ f r _ _ _ (State.running_setRunning _ f r _)

/-- Settles O57. -/
theorem plansBindAndEnd : Obligations.PlansBindAndEnd := by
  refine ⟨fun s f r c fresh => ?bind, fun s p i => ?sets, fun s f r c x runs waits => ?plan⟩
  case bind =>
    obtain ⟨runs, waits, going, -, -⟩ := (s.fresh_iff f r _ c).1 fresh
    intro x
    have goes : exec (.runPlan f r) s = .next (s.runPlan f r c).settle :=
      congrArg (fun u => Host.Outcome.next (State.settle u)) (State.runCmd_of_fresh s f r _ _ c fresh)
    have binds : s.Binds x.2 := s.binds_tryBind (bindPlan_binds _ _ _)
    refine ⟨fun run t known => ?_, fun e t known unbuffered => ?_⟩
    · rw [goes, State.runPlan]
      exact congrArg (fun y : Except Stop PlanRun × State => Host.Outcome.next (State.settle (match y.1 with
        | .error e => y.2.failRead f r e
        | .ok run => y.2.setRunning f r (some { c with wait := .plan run })))) known
    · have same : t = x.2 := (congrArg Prod.snd known).symm
      have stones : t.stones = s.stones := by
        rw [same]
        exact s.stones_tryBind (congrArg Prod.fst known)
      obtain ⟨u, res, eq, stones', running⟩ := State.failRead_of_no_buffer (t := t) (by rw [same]; exact (binds.running f r).trans runs)
        waits going unbuffered e
      refine ⟨u, res, ?_, stones'.trans stones, running⟩
      rw [goes, ← eq, State.runPlan]
      exact congrArg (fun y : Except Stop PlanRun × State => Host.Outcome.next (State.settle (match y.1 with
        | .error e => y.2.failRead f r e
        | .ok run => y.2.setRunning f r (some { c with wait := .plan run })))) known
  case plan =>
    refine ⟨fun going => ?_, fun full bare undone => ?_⟩
    · exact congrArg (fun u => Host.Outcome.next (State.settle u)) ((State.planOver_of_plan runs waits).trans (if_neg going))
    · refine ⟨_, congrArg (fun u => Host.Outcome.next (State.settle u)) (State.planOver_of_over runs waits full bare), rfl, rfl, rfl, ?_⟩
      refine (State.running_setRunning _ f r _).trans ?_
      rw [undone]
      rfl
  case sets =>
    intro c y
    refine ⟨fun other => ?_, fun binds still => ?_, fun ends goes owns => ?_, fun none_ => ?_, fun ends held fenced => ?_,
      fun ends held speaks => ⟨fun empty => ?_, fun t ts queued other => ?_⟩, fun none_ => ?_⟩
    · exact congrArg (fun u => Host.Outcome.next (State.settle u)) (if_pos other)
    · obtain ⟨state, due, bin, mem, host, plain, fenced, free, held⟩ := s.bindingDone_fields p i binds still
      refine ⟨_, rfl, state, due, fun k inside => ?_, fun a outside => ?_, mem, host, plain, fenced, free, held⟩
      · have first : c.binOff ≤ c.binOff + k ∧ c.binOff + k < c.binOff + c.plan.bin := by omega
        have second : halfBytes + c.binOff ≤ halfBytes + c.binOff + k ∧ halfBytes + c.binOff + k < halfBytes + c.binOff + c.plan.bin := by omega
        rw [bin]
        refine ⟨?_, (Memory.read_clear ..).trans (if_pos second)⟩
        rw [Memory.read_clear]
        split
        · rfl
        · exact (Memory.read_clear ..).trans (if_pos first)
      · rw [bin, Memory.read_clear, Memory.read_clear]
        have first : ¬(c.binOff ≤ a ∧ a < c.binOff + c.plan.bin) := fun bad => by
          have known := (outside (a - c.binOff) (by omega)).1
          omega
        have second : ¬(halfBytes + c.binOff ≤ a ∧ a < halfBytes + c.binOff + c.plan.bin) := fun bad => by
          have known := (outside (a - (halfBytes + c.binOff)) (by omega)).2
          omega
        rw [if_neg second, if_neg first]
    · obtain ⟨mem, host, stones, -⟩ := s.modRunning_fields c.f c.r (fun k => match k.wait with
        | .plan x => { k with wait := .plan { x with flags := x.flags.or c.flags, finished := x.finished ++ [c.stage], hists := x.hists ++ c.records } }
        | _ => k)
      refine ⟨_, congrArg (fun u => Host.Outcome.next (State.settle u)) (s.setOver_of_over p i ends goes owns), ?_, mem, host, fun q other => ?_,
        fun k x runs plan => ?_⟩
      · rw [State.setCtx, State.stone_setStone]
        exact Stone.set_empty _ _
      · rw [State.stone_setStone_ne _ _ _ _ other, State.stone, stones]
        rfl
      · rw [s.modRunning_of_running runs]
        refine (State.running_setRunning _ c.f c.r _).trans ?_
        rw [plan]
    · refine congrArg (fun u => Host.Outcome.next (State.settle u)) (if_neg fun due => ?_)
      simp only [Bool.and_eq_true, bne_iff_ne] at due
      rcases none_ with going | stops | gone
      · exact Bool.noConfusion (going.symm.trans due.1.1)
      · exact due.1.2 stops
      · exact Bool.noConfusion (gone.symm.trans due.2)
    · have eq := (s.givePawl_of_finished p i ends held).trans (if_neg (by rw [fenced]; exact Bool.false_ne_true))
      obtain ⟨given, pawls, fns, mem, units⟩ := s.given_fields p i
      refine ⟨_, congrArg (fun u => Host.Outcome.next (State.settle u)) eq, ?_⟩
      generalize s.given p i = t at *
      exact ⟨given, pawls, fns, mem, (t.unit_staleWrite p).trans (by rw [State.unit, units]; rfl)⟩
    · obtain ⟨given, pawls, fns, mem, units⟩ := s.given_fields p i
      have same : (s.given p i).pawl c.plan.pawl = y := by rw [State.pawl, pawls]; rfl
      have eq := (s.givePawl_of_finished p i ends held).trans (if_pos speaks)
      refine ⟨_, congrArg (fun u => Host.Outcome.next (State.settle u)) eq, ?_⟩
      generalize s.given p i = t at *
      rw [t.passPawl_of_nil c.plan.pawl false (by rw [same]; exact empty), same]
      exact ⟨given, State.pawl_setPawl .., fns, mem⟩
    · obtain ⟨given, pawls, fns, mem, units⟩ := s.given_fields p i
      have same : (s.given p i).pawl c.plan.pawl = y := by rw [State.pawl, pawls]; rfl
      have eq := (s.givePawl_of_finished p i ends held).trans (if_pos speaks)
      refine ⟨_, congrArg (fun u => Host.Outcome.next (State.settle u)) eq, ?_⟩
      generalize s.given p i = u at *
      obtain ⟨mem', -, pawls'⟩ := (u.setPawl c.plan.pawl { y with holder := some t, broken := false, queue := ts }).grantPawl_leaves t
      rw [u.passPawl_of_cons c.plan.pawl t false ts (by rw [same]; exact queued), State.setCtx_grantPawl_ne _ other]
      exact ⟨given, (pawls' _).trans (State.pawl_setPawl ..), mem'.trans mem⟩
    · exact congrArg (fun u => Host.Outcome.next (State.settle u)) (s.givePawl_idle p i none_)

end Sys2Proof.Machine
end

section
/-! PROOFS. Work on the stores of a stone (R84, R89, R92, R388 to R390): what it leaves, and that it completes where the stone holds no
stored error and every access lies in the set's windows. -/
namespace Sys2Proof.Machine

/-! ## What work on stores leaves -/

/-- `t` is `s` but for the stores of stones, their stored errors and what readers of memory change. -/
structure State.StoreWork (s t : State) : Prop where
  binds : s.Binds t
  stone : ∀ q, ∃ bin acc flushed ecc last, t.stone q =
    { s.stone q with bin := bin, acc := acc, flushed := flushed, ecc := ecc, lastSlot := last }

section
variable {s t : State}

theorem State.StoreWork.refl (s : State) : s.StoreWork s := ⟨.refl s, fun _ => ⟨_, _, _, _, _, rfl⟩⟩

theorem State.StoreWork.trans {u : State} (first : s.StoreWork t) (next : t.StoreWork u) : s.StoreWork u where
  binds := first.binds.trans next.binds
  stone q := by
    obtain ⟨_, _, _, _, _, here⟩ := first.stone q
    obtain ⟨_, _, _, _, _, there⟩ := next.stone q
    exact ⟨_, _, _, _, _, by rw [there, here]⟩

theorem State.ByMemory.storeWork (by_ : State.ByMemory true s t) : s.StoreWork t :=
  ⟨by_.binds, fun q => ⟨_, _, _, _, _, by rw [State.stone, by_.stones]; rfl⟩⟩

theorem State.storeWork_setStone (s : State) (p : Nat) {v : Stone}
    (same : ∃ bin acc flushed ecc last, v = { s.stone p with bin := bin, acc := acc, flushed := flushed, ecc := ecc, lastSlot := last }) :
    s.StoreWork (s.setStone p v) := by
  refine ⟨s.binds_stones _, fun q => ?_⟩
  by_cases here : q = p
  · rw [here, s.stone_setStone p v]
    exact same
  · exact ⟨_, _, _, _, _, s.stone_setStone_ne p q v here⟩

variable (work : s.StoreWork t)
include work

theorem State.StoreWork.running (f r : Nat) : t.running f r = s.running f r := work.binds.running f r
theorem State.StoreWork.mem : t.mem = s.mem := work.binds.mem
theorem State.StoreWork.host : t.hostMem = s.hostMem := (State.ByMemory.memories work.binds rfl).2
theorem State.StoreWork.epochs : t.epochs = s.epochs := State.ByMemory.epochs (kept := true) (s := { s with stones := [] }) (t := { t with stones := [] }) work.binds

theorem State.StoreWork.setCtx (p i : Nat) : t.setCtx p i = s.setCtx p i := by
  obtain ⟨_, _, _, _, _, same⟩ := work.stone p
  rw [State.setCtx, same]
  rfl

end

/-- Work that leaves everything but stores. -/
def Run.StoreWork {α : Type} (m : Run α) : Prop := ∀ e : Eng, e.s.StoreWork (m.run.run e).2.s

section
variable {α β : Type}

theorem Run.ByMemory.storeWork {m : Run α} (by_ : Run.ByMemory true m) : Run.StoreWork m := fun e => (by_ e).storeWork

theorem Run.storeWork_pure (x : α) : Run.StoreWork (pure x : Run α) := fun e => .refl e.s
theorem Run.storeWork_getS : Run.StoreWork getS := fun e => .refl e.s
theorem Run.storeWork_halt (st : Status) : Run.StoreWork (halt st : Run α) := fun e => .refl e.s
theorem Run.storeWork_withFlags (m : FM α) : Run.StoreWork (withFlags m) := fun e => .refl e.s
theorem Run.storeWork_modS {g : State → State} (each : ∀ u : State, u.StoreWork (g u)) : Run.StoreWork (modS g) := fun e => each e.s
theorem Run.storeWork_modify {g : Eng → Eng} (each : ∀ e : Eng, e.s.StoreWork (g e).s) : Run.StoreWork (modify g : Run Unit) := each

theorem Run.storeWork_bind {m : Run α} {k : α → Run β} (first : Run.StoreWork m) (rest : ∀ x, Run.StoreWork (k x)) :
    Run.StoreWork (m >>= k) := fun e => by
  have here := first e
  rw [Run.bind_run_state]
  generalize m.run.run e = answer at here
  obtain ⟨x | x, e'⟩ := answer
  · exact here
  · exact here.trans (rest x e')

theorem Run.storeWork_ite {c : Prop} [Decidable c] {x y : Run α} (yes : Run.StoreWork x) (no : Run.StoreWork y) :
    Run.StoreWork (if c then x else y) := by
  split
  · exact yes
  · exact no

theorem Run.storeWork_forM {f : α → Run PUnit} (each : ∀ x, Run.StoreWork (f x)) (l : List α) : Run.StoreWork (l.forM f) := by
  induction l with
  | nil => exact Run.storeWork_pure _
  | cons x l ih => exact Run.storeWork_bind (each x) fun _ => ih

theorem Run.storeWork_mapM {f : α → Run β} (each : ∀ x, Run.StoreWork (f x)) (l : List α) : Run.StoreWork (l.mapM f) := by
  induction l with
  | nil => exact Run.storeWork_pure _
  | cons x l ih =>
    rw [List.mapM_cons]
    exact Run.storeWork_bind (each x) fun _ => Run.storeWork_bind ih fun _ => Run.storeWork_pure _

theorem Run.StoreWork.exec {m : Run α} (work : Run.StoreWork m) (s : State) (fl : Flags := {}) : s.StoreWork (m.exec s fl).2.s :=
  (work { s := s, flags := fl }).trans (State.ByMemory.storeWork (.of_rest rfl rfl rfl rfl rfl))

end

/-! ## Accesses to stores -/

theorem meetStone_storeWork (p : Nat) (l : List Nat) (s : State) : s.StoreWork (meetStone p l s).2 := by
  induction l generalizing s with
  | nil => exact .refl s
  | cons g gs ih =>
    unfold meetStone
    extract_lets x info hit s' bad r
    have step : s.StoreWork s' := by
      simp only [s']
      generalize hit = found
      split
      · exact (s.storeWork_setStone p ⟨_, _, _, _, _, rfl⟩).trans (State.byMemory_event _ _ _ _ _ _).storeWork
      · exact (s.storeWork_setStone p ⟨_, _, _, _, _, rfl⟩).trans (State.byMemory_event _ _ _ _ _ _).storeWork
      · exact .refl s
    exact step.trans (ih s')

theorem meetRead_storeWork (p base a n : Nat) : Run.StoreWork (meetRead p base a n) := fun e => by
  have here : getS.run.run e = (.ok e.s, e) := rfl
  rw [meetRead, Run.bind_of_ok here]
  exact meetStone_storeWork p _ e.s

theorem binPlace_storeWork (p i : Nat) (half : Bool) (off n : Nat) : Run.StoreWork (binPlace p i half off n) :=
  Run.storeWork_bind Run.storeWork_getS fun s => by
    dsimp only
    split
    · exact fun e => .refl e.s
    · exact Run.storeWork_pure _

theorem binRead_storeWork (p i : Nat) (half : Bool) (off n : Nat) : Run.StoreWork (binRead p i half off n) :=
  Run.storeWork_bind (binPlace_storeWork _ _ _ _ _) fun _ => Run.storeWork_bind (meetRead_storeWork _ _ _ _) fun _ =>
    Run.storeWork_bind Run.storeWork_getS fun _ => Run.storeWork_pure _

theorem binWrite_storeWork (p i : Nat) (half : Bool) (off : Nat) (bs : List Byte) : Run.StoreWork (binWrite p i half off bs) :=
  Run.storeWork_bind (binPlace_storeWork _ _ _ _ _) fun _ => Run.storeWork_modS fun u => u.storeWork_setStone p ⟨_, _, _, _, _, rfl⟩

theorem accRead_storeWork (p a : Nat) : Run.StoreWork (accRead p a) :=
  Run.storeWork_bind (meetRead_storeWork _ _ _ _) fun _ => Run.storeWork_bind Run.storeWork_getS fun _ => Run.storeWork_pure _

theorem accForward_storeWork (p a : Nat) : Run.StoreWork (accForward p a) := Run.storeWork_bind Run.storeWork_getS fun _ => Run.storeWork_pure _

theorem accWrite_storeWork (p a : Nat) (w : Word32) (flushed : Bool) : Run.StoreWork (accWrite p a w flushed) :=
  Run.storeWork_modS fun u => u.storeWork_setStone p ⟨_, _, _, _, _, rfl⟩

theorem accSlot_storeWork (p i slot w : Nat) : Run.StoreWork (accSlot p i slot w) :=
  Run.storeWork_bind Run.storeWork_getS fun s => by
    dsimp only
    split
    · exact fun e => .refl e.s
    · exact Run.storeWork_pure _

theorem binElem_storeWork (p i : Nat) (half : Bool) (e : Elem) : Run.StoreWork (binElem p i half e) :=
  Run.storeWork_bind (binRead_storeWork _ _ _ _ _) fun _ => Run.storeWork_pure _

theorem binPutElem_storeWork (p i : Nat) (half : Bool) (e : Elem) (code : Nat) : Run.StoreWork (binPutElem p i half e code) := by
  unfold binPutElem
  split
  · exact Run.storeWork_bind (binRead_storeWork _ _ _ _ _) fun _ => binWrite_storeWork _ _ _ _ _
  · exact binWrite_storeWork _ _ _ _ _

/-! ## Work that completes -/

/-- The stone of set `i` of stone `p` holds no stored error, and the set is `c`. -/
structure Eng.Ready (p i : Nat) (c : SetCtx) (e : Eng) : Prop where
  clean : (e.s.stone p).ecc = []
  ctx   : e.s.setCtx p i = c

/-- Work has led from such a state to such a state and met no destroyed data. -/
structure Eng.Goes (p i : Nat) (c : SetCtx) (e e' : Eng) : Prop where
  ready  : e'.Ready p i c
  device : e'.device = e.device
  wrote  : e'.wrote = e.wrote
  work   : e.s.StoreWork e'.s

theorem Eng.Goes.refl {p i : Nat} {c : SetCtx} {e : Eng} (ready : e.Ready p i c) : e.Goes p i c e := ⟨ready, rfl, rfl, .refl e.s⟩

theorem Eng.Goes.trans {p i : Nat} {c : SetCtx} {e e1 e2 : Eng} (first : e.Goes p i c e1) (next : e1.Goes p i c e2) : e.Goes p i c e2 :=
  ⟨next.ready, next.device.trans first.device, next.wrote.trans first.wrote, first.work.trans next.work⟩

/-- From such a state work answers a value with a property, in such a state. -/
def Run.Yields {α : Type} (p i : Nat) (c : SetCtx) (m : Run α) (post : α → Prop) : Prop := ∀ e : Eng, e.Ready p i c →
  ∃ v e', m.run.run e = (.ok v, e') ∧ e.Goes p i c e' ∧ post v

/-- From such a state work answers. -/
def Run.Completes {α : Type} (p i : Nat) (c : SetCtx) (m : Run α) : Prop := Run.Yields p i c m fun _ => True

section
variable {α β : Type} {p i : Nat} {c : SetCtx}

theorem Run.Yields.completes {m : Run α} {post : α → Prop} (yields : Run.Yields p i c m post) : Run.Completes p i c m := fun e ready => by
  obtain ⟨v, e', run, goes, -⟩ := yields e ready
  exact ⟨v, e', run, goes, trivial⟩

theorem Run.yields_pure (x : α) : Run.Yields p i c (pure x : Run α) (· = x) := fun e ready => ⟨x, e, rfl, .refl ready, rfl⟩
theorem Run.completes_pure (x : α) : Run.Completes p i c (pure x : Run α) := (Run.yields_pure x).completes

theorem Run.yields_withFlags (m : FM α) : Run.Yields p i c (withFlags m) fun x => ∃ fl, x = (m.run fl).1 := fun _ ready =>
  ⟨_, _, rfl, ⟨⟨ready.clean, ready.ctx⟩, rfl, rfl, .refl _⟩, _, rfl⟩
theorem Run.completes_withFlags (m : FM α) : Run.Completes p i c (withFlags m) := (Run.yields_withFlags m).completes

theorem Run.yields_bind {m : Run α} {k : α → Run β} {mid : α → Prop} {post : β → Prop} (first : Run.Yields p i c m mid)
    (rest : ∀ x, mid x → Run.Yields p i c (k x) post) : Run.Yields p i c (m >>= k) post := fun e ready => by
  obtain ⟨v, e1, run, goes, known⟩ := first e ready
  obtain ⟨w, e2, run2, goes2, known2⟩ := rest v known e1 goes.ready
  exact ⟨w, e2, (Run.bind_of_ok run k).trans run2, goes.trans goes2, known2⟩

theorem Run.completes_bind {m : Run α} {k : α → Run β} (first : Run.Completes p i c m) (rest : ∀ x, Run.Completes p i c (k x)) :
    Run.Completes p i c (m >>= k) := Run.yields_bind first fun x _ => rest x

/-- The rest sees the state it starts in. -/
theorem Run.completes_getS {k : State → Run β} (rest : ∀ e : Eng, e.Ready p i c → ∃ v e', (k e.s).run.run e = (.ok v, e') ∧ e.Goes p i c e') :
    Run.Completes p i c (getS >>= k) := fun e ready => by
  have here : getS.run.run e = (.ok e.s, e) := rfl
  rw [Run.bind_of_ok here]
  obtain ⟨v, e', run, goes⟩ := rest e ready
  exact ⟨v, e', run, goes, trivial⟩

theorem Run.completes_forM {f : α → Run PUnit} {l : List α} (each : ∀ x ∈ l, Run.Completes p i c (f x)) : Run.Completes p i c (l.forM f) := by
  induction l with
  | nil => exact Run.completes_pure _
  | cons x l ih => exact Run.completes_bind (each x (List.mem_cons_self ..)) fun _ => ih fun y mem => each y (List.mem_cons_of_mem _ mem)

theorem Run.yields_mapM {f : α → Run β} {l : List α} (each : ∀ x ∈ l, Run.Completes p i c (f x)) :
    Run.Yields p i c (l.mapM f) fun ys => ys.length = l.length := by
  induction l with
  | nil => exact fun e ready => ⟨[], e, rfl, .refl ready, rfl⟩
  | cons x l ih =>
    rw [List.mapM_cons]
    refine Run.yields_bind (each x (List.mem_cons_self ..)) fun _ _ =>
      Run.yields_bind (ih fun y mem => each y (List.mem_cons_of_mem _ mem)) fun ys known => ?_
    exact fun e ready => ⟨_, e, rfl, .refl ready, by rw [List.length_cons, known, List.length_cons]⟩

theorem Run.completes_mapM {f : α → Run β} {l : List α} (each : ∀ x ∈ l, Run.Completes p i c (f x)) : Run.Completes p i c (l.mapM f) :=
  (Run.yields_mapM each).completes

theorem Run.Completes.exec {m : Run α} (work : Run.Completes p i c m) {s : State} (clean : (s.stone p).ecc = []) (ctx : s.setCtx p i = c)
    (fl : Flags := {}) : ∃ v e, m.exec s fl = (.ok v, e) ∧ e.device = false ∧ s.StoreWork e.s := by
  obtain ⟨v, e, run, goes, -⟩ := work { s := s, flags := fl } ⟨clean, ctx⟩
  refine ⟨v, e, ?_, goes.device, goes.work⟩
  rw [Run.exec, run]
  exact congrArg (Prod.mk _) (Eng.clearWritten_of_unwritten goes.wrote)

variable (p i c)

/-- A write of the stone's stores that adds no stored error. -/
theorem Run.completes_modStone {g : Stone → Stone} (clean : ∀ x, x.ecc = [] → (g x).ecc = [])
    (same : ∀ x, ∃ bin acc flushed ecc last, g x = { x with bin := bin, acc := acc, flushed := flushed, ecc := ecc, lastSlot := last }) :
    Run.Completes p i c (modS (fun s => s.modStone p g)) := fun e ready => by
  have work : e.s.StoreWork (e.s.modStone p g) := e.s.storeWork_setStone p (same _)
  exact ⟨⟨⟩, _, rfl, ⟨⟨(congrArg Stone.ecc (e.s.stone_modStone p g)).trans (clean _ ready.clean), (work.setCtx p i).trans ready.ctx⟩,
    rfl, rfl, work⟩, trivial⟩

theorem meetRead_completes (base a n : Nat) : Run.Completes p i c (meetRead p base a n) := fun e ready =>
  ⟨⟨⟩, e, meetRead_of_clean p base a n ready.clean, .refl ready, trivial⟩

variable (half : Bool)

theorem binPlace_of_inside {off n : Nat} (inside : off + n ≤ c.plan.bin) {e : Eng} (ctx : e.s.setCtx p i = c) :
    (binPlace p i half off n).run.run e = (.ok ((if half then halfBytes else 0) + c.binOff + off), e) := by
  have here : getS.run.run e = (.ok e.s, e) := rfl
  rw [binPlace, Run.bind_of_ok here]
  dsimp only
  rw [ctx, if_neg (Nat.not_lt.mpr inside)]
  rfl

theorem binPlace_completes {off n : Nat} (inside : off + n ≤ c.plan.bin) : Run.Completes p i c (binPlace p i half off n) := fun e ready =>
  ⟨_, e, binPlace_of_inside p i c half inside ready.ctx, .refl ready, trivial⟩

theorem binRead_completes {off n : Nat} (inside : off + n ≤ c.plan.bin) : Run.Completes p i c (binRead p i half off n) :=
  Run.completes_bind (binPlace_completes p i c half inside) fun _ => Run.completes_bind (meetRead_completes p i c _ _ _) fun _ =>
    Run.completes_getS fun e ready => ⟨_, e, rfl, .refl ready⟩

theorem binWrite_completes {off : Nat} {bs : List Byte} (inside : off + bs.length ≤ c.plan.bin) :
    Run.Completes p i c (binWrite p i half off bs) :=
  Run.completes_bind (binPlace_completes p i c half inside) fun _ =>
    Run.completes_modStone p i c (fun x clean => by rw [clean]; rfl) fun _ => ⟨_, _, _, _, _, rfl⟩

theorem accRead_completes (a : Nat) : Run.Completes p i c (accRead p a) :=
  Run.completes_bind (meetRead_completes p i c _ _ _) fun _ => Run.completes_getS fun e ready => ⟨_, e, rfl, .refl ready⟩

theorem accForward_completes (a : Nat) : Run.Completes p i c (accForward p a) :=
  Run.completes_getS fun e ready => ⟨_, e, rfl, .refl ready⟩

theorem accWrite_completes (a : Nat) (w : Word32) (flushed : Bool) : Run.Completes p i c (accWrite p a w flushed) :=
  Run.completes_modStone p i c (fun _ clean => clean) fun _ => ⟨_, _, _, _, _, rfl⟩

theorem accSlot_completes {slot w : Nat} (inside : slot + w ≤ c.plan.accSlots) : Run.Completes p i c (accSlot p i slot w) :=
  Run.completes_getS fun e ready => by
    dsimp only
    rw [ready.ctx, if_neg (Nat.not_lt.mpr inside)]
    exact ⟨_, e, rfl, .refl ready⟩

theorem binElem_completes {e : Elem} (inside : e.off + groupBytes e.bits ≤ c.plan.bin) : Run.Completes p i c (binElem p i half e) :=
  Run.completes_bind (binRead_completes p i c half inside) fun _ => Run.completes_pure _

theorem binPutElem_completes {e : Elem} (inside : e.off + groupBytes e.bits ≤ c.plan.bin) (code : Nat) :
    Run.Completes p i c (binPutElem p i half e code) := by
  unfold binPutElem
  split
  next =>
    refine Run.completes_bind (binRead_completes p i c half inside) fun _ => binWrite_completes p i c half ?_
    rw [length_natLe]
    exact inside
  next wide =>
    refine binWrite_completes p i c half ?_
    have eight : ¬e.bits = 4 ∧ ¬e.bits = 6 := by omega
    rw [groupBytes, if_neg eight.1, if_neg eight.2] at inside
    rw [length_natLe]
    exact inside

end

end Sys2Proof.Machine
end

section
/-! PROOFS. Stage pipelines (R196 to R198, R201 to R206, R401): fills, phase starts, segments and inlets. -/
namespace Sys2Proof.Machine

/-! ## Runs of writes to a bin window (R92) -/

section
variable (p i : Nat) (half : Bool) {c : SetCtx}

/-- A write inside the window changes the bytes that it names, of the half that it names. -/
theorem binWrite_run {e : Eng} (ctx : e.s.setCtx p i = c) {off : Nat} {bs : List Byte} (inside : off + bs.length ≤ c.plan.bin) :
    ∃ e', (binWrite p i half off bs).run.run e = (.ok (), e') ∧ e.s.StoreWork e'.s ∧ e'.device = e.device ∧ e'.wrote = e.wrote ∧
      (e'.s.stone p).bin = (e.s.stone p).bin.write ((if half then halfBytes else 0) + c.binOff + off) bs := by
  have work := binWrite_storeWork p i half off bs e
  have run := Run.bind_of_ok (binPlace_of_inside p i c half inside ctx) fun a => modS (fun s => s.modStone p (fun x => { x with
    bin := x.bin.write a bs, ecc := Table.drop x.ecc (fun g => a ≤ g * 8 && g * 8 + 8 ≤ a + bs.length) }))
  have same : (binWrite p i half off bs).run.run e = _ := run
  rw [same] at work
  exact ⟨_, same, work, rfl, rfl, congrArg Stone.bin (e.s.stone_modStone p _)⟩

/-- Writes inside the window, in order. -/
theorem binWrites_run {α : Type} {place : α → Nat} {bytes : α → List Byte} (l : List α) {e : Eng} (ctx : e.s.setCtx p i = c)
    (inside : ∀ y ∈ l, place y + (bytes y).length ≤ c.plan.bin) :
    ∃ e', (l.forM (fun y => binWrite p i half (place y) (bytes y))).run.run e = (.ok ⟨⟩, e') ∧ e.s.StoreWork e'.s ∧ e'.device = e.device ∧
      e'.wrote = e.wrote ∧
      (e'.s.stone p).bin = l.foldl (fun m y => m.write ((if half then halfBytes else 0) + c.binOff + place y) (bytes y)) (e.s.stone p).bin := by
  induction l generalizing e with
  | nil => exact ⟨e, rfl, .refl e.s, rfl, rfl, rfl⟩
  | cons y l ih =>
    obtain ⟨e1, run1, work1, device1, wrote1, bin1⟩ := binWrite_run p i half ctx (inside y (List.mem_cons_self ..))
    obtain ⟨e2, run2, work2, device2, wrote2, bin2⟩ := ih ((work1.setCtx p i).trans ctx) fun z mem => inside z (List.mem_cons_of_mem _ mem)
    refine ⟨e2, (Run.bind_of_ok run1 _).trans run2, work1.trans work2, device2.trans device1, wrote2.trans wrote1, ?_⟩
    rw [bin2, bin1]
    rfl

end

theorem Memory.length_readN (m : Memory) (a n : Nat) : (m.readN a n).length = n := by
  rw [Memory.readN_eq, List.length_map, List.length_range]

/-- Rows written at a pitch no smaller than they are leave each row whole; below the first of them nothing changes. -/
theorem Memory.read_rows (base pitch w : Nat) (narrow : w ≤ pitch) (l : List (Nat × List Byte)) (size : ∀ y ∈ l, y.2.length = w)
    (order : l.Pairwise (fun x y => x.1 < y.1)) (m : Memory) :
    (∀ y ∈ l, (l.foldl (fun m y => m.write (base + y.1 * pitch) y.2) m).readN (base + y.1 * pitch) w = y.2) ∧
    ∀ b k, (∀ y ∈ l, k ≤ y.1) → b < base + k * pitch → (l.foldl (fun m y => m.write (base + y.1 * pitch) y.2) m).read b = m.read b := by
  induction l generalizing m with
  | nil => exact ⟨fun y mem => absurd mem List.not_mem_nil, fun _ _ _ _ => rfl⟩
  | cons x l ih =>
    rw [List.pairwise_cons] at order
    obtain ⟨rows, below⟩ := ih (fun y mem => size y (List.mem_cons_of_mem _ mem)) order.2 (m.write (base + x.1 * pitch) x.2)
    have wide := size x (List.mem_cons_self ..)
    refine ⟨fun y mem => ?_, fun b k first lt => ?_⟩
    · rcases List.mem_cons.mp mem with rfl | later
      · have written := m.readN_write (base + y.1 * pitch) y.2
        rw [wide] at written
        refine Eq.trans ?_ written
        rw [List.foldl_cons, Memory.readN_eq, Memory.readN_eq]
        refine List.map_congr_left fun n mem => below _ (y.1 + 1) (fun z mem => order.1 z mem) ?_
        have lt := List.mem_range.mp mem
        rw [Nat.add_mul]
        omega
      · exact rows y later
    · have here : x.1 * pitch ≥ k * pitch := Nat.mul_le_mul_right _ (first x (List.mem_cons_self ..))
      rw [List.foldl_cons, below b k (fun y mem => first y (List.mem_cons_of_mem _ mem)) lt,
        Memory.read_write_out _ _ _ _ (.inl (by omega))]

/-! ## Reads of a chute (R197, R199) -/

theorem chuteRead_plain (a : Acc) (va n : Nat) : chuteRead a false va n = readV a va n := rfl

theorem pairwise_zip_range {α : Type} (l : List α) : ((List.range l.length).zip l).Pairwise (fun x y => x.1 < y.1) := by
  have names : ((List.range l.length).zip l).map Prod.fst = List.range l.length := List.map_fst_zip (by rw [List.length_range])
  refine List.Pairwise.of_map Prod.fst (fun _ _ lt => lt) ?_
  rw [names]
  exact List.pairwise_lt_range

section
variable {s : State} {a : Acc} {rows size : Nat} {src pa : Nat → Nat} (clean : s.ecc = [])
  (reach : ∀ n < rows, s.Reaches a false (src n) size (pa n)) {e : Eng} (here : e.s = s)
include clean reach here

/-- Rows that lie in device memory are read as they stand there. -/
theorem chuteRows_of_reaches : ((List.range rows).mapM (fun n => chuteRead a false (src n) size)).run.run e =
    (.ok ((List.range rows).map fun n => s.mem.readN (pa n) size), e) :=
  Run.mapM_of_ok _ fun n mem => by
    rw [chuteRead_plain]
    exact readV_of_reaches clean (reach n (List.mem_range.mp mem)) here

end

/-- A row's number and its bytes, of rows that lie in device memory. -/
theorem mem_numbered_rows {rows size : Nat} {m : Memory} {pa : Nat → Nat} {y : Nat × List Byte}
    (mem : y ∈ (List.range ((List.range rows).map fun n => m.readN (pa n) size).length).zip ((List.range rows).map fun n => m.readN (pa n) size)) :
    y.1 < rows ∧ y.2 = m.readN (pa y.1) size := by
  obtain ⟨k, lt, rfl⟩ := List.getElem_of_mem mem
  simp only [List.length_zip, List.length_range, List.length_map] at lt
  simp only [List.getElem_zip, List.getElem_range, List.getElem_map, and_true]
  omega

/-- A fill of rows from device memory: what the half then holds. -/
theorem FillRec.fetch_of_reaches {x : FillRec} {a : Acc} {p i : Nat} {half : Bool} {s : State} {pa : Nat → Nat} (clean : s.ecc = [])
    (plain : x.transpose = false) (narrow : x.rowBytes ≤ x.dstPitch)
    (rows : ∀ n < x.rows, s.Reaches a false (x.src + n * x.srcPitch) x.rowBytes (pa n) ∧
      x.dst + n * x.dstPitch + x.rowBytes ≤ (s.setCtx p i).plan.bin) :
    ∃ e, ([x].forM (fun y => y.fetch a p i half)).exec s = (.ok ⟨⟩, e) ∧ e.device = false ∧ s.StoreWork e.s ∧
      ∀ n < x.rows, (e.s.stone p).bin.readN ((if half then halfBytes else 0) + (s.setCtx p i).binOff + (x.dst + n * x.dstPitch)) x.rowBytes =
        s.mem.readN (pa n) x.rowBytes := by
  let out := (List.range x.rows).map fun n => s.mem.readN (pa n) x.rowBytes
  have read := chuteRows_of_reaches (e := { s := s }) clean (fun n lt => (rows n lt).1) rfl
  have listed (y : Nat × List Byte) (mem : y ∈ (List.range out.length).zip out) : y.1 < x.rows ∧ y.2 = s.mem.readN (pa y.1) x.rowBytes :=
    mem_numbered_rows mem
  obtain ⟨e', run, work, device, wrote, bin⟩ := binWrites_run p i half ((List.range out.length).zip out) (e := { s := s }) rfl
    (place := fun y => x.dst + y.1 * x.dstPitch) (bytes := Prod.snd) fun y mem => by
      obtain ⟨lt, eq⟩ := listed y mem
      rw [eq, Memory.length_readN]
      exact (rows y.1 lt).2
  have fetched : (x.fetch a p i half).run.run { s := s } = (.ok ⟨⟩, e') := by
    rw [FillRec.fetch, plain, Run.bind_of_ok read]
    exact run
  refine ⟨e', ?_, device, work, fun n lt => ?_⟩
  · rw [Run.forM_singleton, Run.exec, fetched]
    exact congrArg (Prod.mk _) (Eng.clearWritten_of_unwritten wrote)
  · have size (y : Nat × List Byte) (mem : y ∈ (List.range out.length).zip out) : y.2.length = x.rowBytes := by
      rw [(listed y mem).2, Memory.length_readN]
    have here : (n, s.mem.readN (pa n) x.rowBytes) ∈ (List.range out.length).zip out := by
      refine List.mem_iff_getElem.mpr ⟨n, ?_, ?_⟩
      · simp only [out, List.length_zip, List.length_range, List.length_map, Nat.min_self]
        exact lt
      · simp only [out, List.getElem_zip, List.getElem_range, List.getElem_map]
    have stored := (Memory.read_rows ((if half then halfBytes else 0) + (s.setCtx p i).binOff + x.dst) x.dstPitch x.rowBytes narrow _ size
      (pairwise_zip_range out) (s.stone p).bin).1 _ here
    simp only [Nat.add_assoc] at stored bin ⊢
    rw [bin]
    exact stored

/-! ## Phase starts (R115, R196, R198) -/

theorem SetCtx.openHists_eq (c : SetCtx) : ∃ h, c.openHists = { c with hists := h } := by
  unfold SetCtx.openHists
  refine List.foldlRecOn (motive := fun d : SetCtx => ∃ h : Table Hist, d = { c with hists := h }) _ _ ⟨c.hists, rfl⟩ fun d known x _ => ?_
  obtain ⟨h, rfl⟩ := known
  split
  · exact ⟨_, rfl⟩
  · exact ⟨_, rfl⟩

/-- What the start of a phase leaves of a set. -/
structure SetCtx.Started (c d : SetCtx) : Prop where
  started : d.started = true
  filled  : d.filled = false
  unit    : d.unit = 0
  phase   : d.phase = c.phase
  round   : d.round = c.round
  plan    : d.plan = c.plan
  half    : d.half = if c.phaseCount = 1 ∧ c.round ≠ 0 then c.half else !c.half
  counts  : d.pos.counts = ({} : LoopPos).counts
  layer   : d.pos.layer = 0
  ended   : d.pos.ended = false

theorem SetCtx.start_fields (c : SetCtx) : c.Started c.start ∧ c.start.fillDue = c.fillDue := by
  have half : (if c.phaseCount ≠ 1 || c.round = 0 then !c.half else c.half) = if c.phaseCount = 1 ∧ c.round ≠ 0 then c.half else !c.half := by
    have turn : (c.phaseCount ≠ 1 || c.round = 0) = true ↔ ¬(c.phaseCount = 1 ∧ c.round ≠ 0) := by
      rw [Bool.or_eq_true, decide_eq_true_eq, decide_eq_true_eq, not_and_or, not_not]
    by_cases again : c.phaseCount = 1 ∧ c.round ≠ 0
    · rw [if_pos again, if_neg fun bad => turn.mp bad again]
    · rw [if_neg again, if_pos (turn.mpr again)]
  unfold SetCtx.start
  extract_lets d
  obtain ⟨h, eq⟩ := d.openHists_eq
  rw [eq]
  exact ⟨⟨rfl, rfl, rfl, rfl, rfl, rfl, half, rfl, rfl, rfl⟩, rfl⟩

/-- The state in which a phase has started and the next fill is due. -/
def State.startedPhase (s : State) (p i : Nat) : State :=
  let c := s.setCtx p i
  let s := s.putCtx p i c.start
  if c.phaseCount ≠ 1 && c.hasNext then
    let o := s.nextOrder p
    o.2.modCtx p i (fun c => { c with fillDue := o.1 })
  else s

theorem State.phaseStart_eq (s : State) (p i : Nat) (may : (s.setCtx p i).canStart = true) :
    s.phaseStart p i = ((s.startedPhase p i).settlePhase p i).walkOn p := by
  unfold State.phaseStart
  extract_lets c
  exact if_neg (by rw [show c.canStart = true from may]; exact Bool.false_ne_true)

theorem State.startedPhase_fields (s : State) (p i : Nat) : (s.setCtx p i).Started ((s.startedPhase p i).setCtx p i) ∧
    ((s.startedPhase p i).setCtx p i).fillDue =
      (if (s.setCtx p i).phaseCount ≠ 1 ∧ (s.setCtx p i).hasNext = true then (s.stone p).order + 1 else (s.setCtx p i).fillDue) ∧
    ((s.startedPhase p i).stone p).bin = (s.stone p).bin ∧ ((s.startedPhase p i).stone p).acc = (s.stone p).acc ∧
    (s.startedPhase p i).mem = s.mem ∧ (s.startedPhase p i).fns = s.fns := by
  obtain ⟨starts, due⟩ := (s.setCtx p i).start_fields
  unfold State.startedPhase
  extract_lets c t o
  have ctx : t.setCtx p i = c.start := State.setCtx_putCtx ..
  have stone : t.stone p = (s.stone p).setSet i c.start := State.stone_putCtx ..
  have same : t.mem = s.mem ∧ t.fns = s.fns := ⟨rfl, rfl⟩
  have next : o.2.setCtx p i = c.start := (t.setCtx_nextOrder p i).trans ctx
  have nextStone : o.2.stone p = { t.stone p with order := (t.stone p).order + 1 } := t.stone_nextOrder p
  have rest : o.1 = (t.stone p).order + 1 ∧ o.2.mem = t.mem ∧ o.2.fns = t.fns := ⟨rfl, rfl, rfl⟩
  clear_value t o
  obtain ⟨mem, fns⟩ := same
  obtain ⟨number, mem', fns'⟩ := rest
  by_cases more : c.phaseCount ≠ 1 ∧ c.hasNext = true
  · rw [if_pos (by simpa only [Bool.and_eq_true, decide_eq_true_eq] using more), if_pos more, State.setCtx_modCtx, next, State.modCtx,
      State.stone_putCtx, nextStone, number, stone]
    obtain ⟨a, b, c, d, e, f, g, h, j, k⟩ := starts
    exact ⟨⟨a, b, c, d, e, f, g, h, j, k⟩, rfl, rfl, rfl, mem'.trans mem, fns'.trans fns⟩
  · rw [if_neg (by simpa only [Bool.and_eq_true, decide_eq_true_eq] using more), if_neg more, ctx, stone]
    exact ⟨starts, due, rfl, rfl, mem, fns⟩

/-! ## Landings (R201, R202, R204) -/

theorem SetCtx.landed_fields (c : SetCtx) (n : Nat) : (c.landed n).rings = c.rings ∧ (c.landed n).plan = c.plan ∧
    ((c.landed n).port n).landed = (if (c.port n).landed + 1 = (c.plan.ports.getD n {}).segs then 0 else (c.port n).landed + 1) := by
  refine ⟨rfl, rfl, ?_⟩
  rw [SetCtx.landed, SetCtx.port, SetCtx.setPort, Table.get_put]
  exact apply_ite PortState.landed ..

/-- The state in which a segment has landed in a port of a set, whose work set flags. -/
def State.landedIn (t : State) (p i : Nat) (fl : Flags) (n : Nat) : State :=
  (t.modCtx p i (fun c => { c with flags := c.flags.or fl })).modCtx p i (fun c => c.landed n)

theorem State.landedIn_fields (t : State) (p i : Nat) (fl : Flags) (n : Nat) :
    ((t.landedIn p i fl n).stone p).bin = (t.stone p).bin ∧ (t.landedIn p i fl n).mem = t.mem ∧ (t.landedIn p i fl n).hostMem = t.hostMem ∧
    (t.landedIn p i fl n).setCtx p i = { t.setCtx p i with flags := (t.setCtx p i).flags.or fl }.landed n ∧
    ∀ q j, (q ≠ p ∨ j ≠ i) → (t.landedIn p i fl n).setCtx q j = t.setCtx q j := by
  have other (s : State) (v : SetCtx) (q j : Nat) (apart : q ≠ p ∨ j ≠ i) : (s.putCtx p i v).setCtx q j = s.setCtx q j := by
    by_cases here : q = p
    · subst here
      exact State.setCtx_putCtx_ne _ _ _ _ _ (apart.resolve_left fun bad => bad rfl)
    · exact congrArg (fun x : Stone => x.set j) (State.stone_setStone_ne _ _ _ _ here)
  refine ⟨?_, rfl, rfl, ?_, fun q j apart => (other _ _ q j apart).trans (other _ _ q j apart)⟩
  · rw [State.landedIn, State.modCtx, State.stone_putCtx, State.modCtx, State.stone_putCtx]
    rfl
  · rw [State.landedIn, State.setCtx_modCtx, State.setCtx_modCtx]

theorem meetSegment_storeWork (h : Nat) (seg : Segment) : Run.StoreWork (meetSegment h seg) := by
  unfold meetSegment
  extract_lets last next
  have event (k : Event) : Run.StoreWork (modS fun s => s.event 4 h k 0 {}) :=
    Run.storeWork_modS fun u => (u.byMemory_event 4 h k 0 {}).storeWork
  have ends : Run.StoreWork (last ()) := Run.storeWork_modify fun e => .refl e.s
  have goesOn : Run.StoreWork (next ()) := by
    simp only [next]
    split
    · exact Run.storeWork_bind (event _) fun _ => ends
    · exact ends
  split
  · exact Run.storeWork_bind (event _) fun _ => goesOn
  · exact goesOn

theorem Landing.land_storeWork (x : Landing) (p i : Nat) (seg : Segment) : Run.StoreWork (x.land p i seg) := by
  refine Run.storeWork_bind (Run.storeWork_forM (fun e => ?_) _) fun _ => Run.storeWork_forM (fun y => ?_) _
  · split
    · exact binPutElem_storeWork _ _ _ _ _
    · exact Run.storeWork_halt _
  · split
    · split
      · exact binWrite_storeWork _ _ _ _ _
      · exact Run.storeWork_pure _
    · exact Run.storeWork_halt _

theorem meetSegment_of_sound (h : Nat) {seg : Segment} (sound : seg.ecc = none) (e : Eng) : (meetSegment h seg).run.run e = (.ok (), e) := by
  unfold meetSegment
  rw [sound]
  obtain ⟨s, flags, device, wrote⟩ := e
  cases device <;> rfl

/-- A segment whose elements all have their places in the window lands. -/
theorem Landing.land_completes {x : Landing} {p i : Nat} {c : SetCtx} {seg : Segment}
    (elems : ∀ e ∈ seg.elems, ∃ k, x.elem e.at_ = some k ∧ k.off + groupBytes k.bits ≤ c.plan.bin)
    (scales : ∀ y ∈ seg.scales, ∃ k, x.elem { m := y.1, n := y.2.1 * 32, g := x.b.o.g } = some k ∧ ∀ o, k.scale = some o → o + 1 ≤ c.plan.bin) :
    Run.Completes p i c (x.land p i seg) := by
  refine Run.completes_bind (Run.completes_forM fun e mem => ?_) fun _ => Run.completes_forM fun y mem => ?_
  · obtain ⟨k, known, inside⟩ := elems e mem
    rw [known]
    exact binPutElem_completes p i c _ inside _
  · obtain ⟨k, known, inside⟩ := scales y mem
    rw [known]
    dsimp only
    split
    next o scale => exact binWrite_completes p i c _ (inside o scale)
    next => exact Run.completes_pure _

/-! ## Segments (R204, R401) -/

/-- The state in which the oldest segment has left a spout's ring. -/
def State.popped (s : State) (p i n : Nat) (rest : List Segment) : State := s.modCtx p i (fun c => c.setSpoutRing n rest)

section
variable (s : State) (p i n : Nat)

theorem State.moveSegment_of_empty (empty : (s.setCtx p i).spoutRing n = []) : s.moveSegment p i n = s := by
  unfold State.moveSegment
  extract_lets c
  rw [show c.spoutRing n = [] from empty]

variable {seg : Segment} {rest : List Segment} (queued : (s.setCtx p i).spoutRing n = seg :: rest)
include queued

theorem State.moveSegment_of_fenced (fenced : s.speaks p = false) : s.moveSegment p i n = (s.popped p i n rest).staleWrite p := by
  unfold State.moveSegment
  extract_lets c
  rw [show c.spoutRing n = seg :: rest from queued]
  dsimp only
  rw [fenced]
  rfl

theorem State.moveSegment_of_speaking {ref : StageRef} (speaks : s.speaks p = true)
    (known : (s.planOf (s.setCtx p i)).bind (fun x => x.at_ ((s.setCtx p i).plan.targets.getD n {}).stage) = some ref) :
    s.moveSegment p i n =
      let d := s.setCtx ref.stone ref.set
      let port := ((s.setCtx p i).plan.targets.getD n {}).port
      if d.takes port then
        (s.popped p i n rest).work ref.stone ref.set
          (do meetSegment (p / 25) seg; (d.landing port (d.plan.ports.getD port {})).land ref.stone ref.set seg)
          (fun _ _ s => (s.modCtx ref.stone ref.set (fun c => c.landed port)).walkOn ref.stone)
      else s := by
  unfold State.moveSegment
  extract_lets c d port
  rw [show c.spoutRing n = seg :: rest from queued]
  dsimp only
  rw [speaks, show (s.planOf c).bind _ = some ref from known]
  rfl

end

theorem State.popped_fields (s : State) (p i n : Nat) (rest : List Segment) : ((s.popped p i n rest).setCtx p i).spoutRing n = rest ∧
    (s.popped p i n rest).mem = s.mem ∧ (s.popped p i n rest).hostMem = s.hostMem ∧ (s.popped p i n rest).fns = s.fns ∧
    (s.popped p i n rest).units = s.units ∧ (∀ q, ((s.popped p i n rest).stone q).ecc = (s.stone q).ecc) ∧
    ∀ q j, ∃ rings, (s.popped p i n rest).setCtx q j = { s.setCtx q j with rings := rings } := by
  refine ⟨?_, rfl, rfl, rfl, rfl, fun q => ?_, fun q j => ?_⟩
  · rw [State.popped, State.setCtx_modCtx]
    exact Table.get_put ..
  · by_cases here : q = p
    · rw [here, State.popped, State.modCtx, State.stone_putCtx]
      rfl
    · exact congrArg Stone.ecc (State.stone_setStone_ne _ _ _ _ here)
  · by_cases here : q = p
    · subst here
      by_cases same : j = i
      · subst same
        exact ⟨_, State.setCtx_modCtx ..⟩
      · exact ⟨_, State.setCtx_putCtx_ne _ _ _ _ _ same⟩
    · exact ⟨_, congrArg (fun x : Stone => x.set j) (State.stone_setStone_ne _ _ _ _ here)⟩

/-- What the landing of a segment leaves of both sets. -/
theorem State.landedIn_popped {s t : State} {p i n : Nat} {rest : List Segment} (work : (s.popped p i n rest).StoreWork t) (q j : Nat)
    (fl : Flags) (port : Nat) : ((t.landedIn q j fl port).setCtx p i).spoutRing n = rest ∧
      (((t.landedIn q j fl port).setCtx q j).port port).landed =
        (if ((s.setCtx q j).port port).landed + 1 = ((s.setCtx q j).plan.ports.getD port {}).segs then 0
         else ((s.setCtx q j).port port).landed + 1) ∧
      ((t.landedIn q j fl port).stone q).bin = (t.stone q).bin ∧
      (t.landedIn q j fl port).mem = s.mem ∧ (t.landedIn q j fl port).hostMem = s.hostMem := by
  obtain ⟨ring, mem, host, -, -, -, ctx⟩ := s.popped_fields p i n rest
  obtain ⟨bin, mem', host', here, other⟩ := t.landedIn_fields q j fl port
  obtain ⟨rings, was⟩ := ctx q j
  refine ⟨?_, ?_, bin, mem'.trans (work.mem.trans mem), host'.trans (work.host.trans host)⟩
  · rw [← work.setCtx p i] at ring
    by_cases same : p = q ∧ i = j
    · obtain ⟨rfl, rfl⟩ := same
      rw [here]
      exact ring
    · rw [other p i (not_and_or.mp same)]
      exact ring
  · rw [here, work.setCtx q j, was]
    exact (SetCtx.landed_fields _ port).2.2

/-! ## Inlets (R205, R206) -/

theorem chuteRead_byMemory {kept : Bool} (a : Acc) (transposed : Bool) (va n : Nat) : Run.ByMemory kept (chuteRead a transposed va n) := by
  refine Run.byMemory_bind (Run.byMemory_mapM (fun x => ?_) _) fun _ => Run.byMemory_pure _
  split
  · refine Run.byMemory_bind (translate_byMemory _ _ _) fun t => ?_
    split
    · exact Run.byMemory_bind (Run.byMemory_halt _) fun _ => readPiece_byMemory _ _
    · exact readPiece_byMemory _ _
  · exact readPiece_byMemory _ _

theorem Inlet.fetch_storeWork (q : Inlet) (c : SetCtx) (a : Acc) (p i : Nat) : Run.StoreWork (q.fetch c a p i) :=
  Run.storeWork_bind (Run.storeWork_mapM (fun _ => (chuteRead_byMemory _ _ _ _).storeWork) _) fun _ =>
    Run.storeWork_forM (fun _ => binWrite_storeWork _ _ _ _ _) _

/-- An inlet whose rows lie in device memory, and land in the window, reads them. -/
theorem Inlet.fetch_of_reaches {q : Inlet} {c : SetCtx} {a : Acc} {p i : Nat} {s : State} {pa : Nat → Nat} (clean : s.ecc = [])
    (plain : q.transpose = false) (ctx : s.setCtx p i = c)
    (rows : ∀ n < q.rows, s.Reaches a false (q.src + (if q.roundWrap = 0 then (c.awaits q.port).1 else (c.awaits q.port).1 % q.roundWrap) * q.roundPitch +
        (c.awaits q.port).2 * q.segPitch + n * q.srcPitch) q.rowBytes (pa n) ∧
      (c.landing q.port (c.plan.ports.getD q.port {})).row ((c.port q.port).landed * q.rows + n) + q.rowBytes ≤ c.plan.bin) :
    ∃ e, (q.fetch c a p i).exec s = (.ok ⟨⟩, e) ∧ e.device = false := by
  have read := chuteRows_of_reaches (e := { s := s }) clean (fun n lt => (rows n lt).1) rfl
  obtain ⟨e', run, -, device, wrote, -⟩ := binWrites_run p i (c.landing q.port (c.plan.ports.getD q.port {})).half
    ((List.range ((List.range q.rows).map fun n => s.mem.readN (pa n) q.rowBytes).length).zip
      ((List.range q.rows).map fun n => s.mem.readN (pa n) q.rowBytes)) (e := { s := s }) ctx
    (place := fun y => (c.landing q.port (c.plan.ports.getD q.port {})).row ((c.port q.port).landed * q.rows + y.1)) (bytes := Prod.snd)
    fun y mem => by
      obtain ⟨lt, eq⟩ := mem_numbered_rows mem
      rw [eq, Memory.length_readN]
      exact (rows y.1 lt).2
  have fetched : (q.fetch c a p i).run.run { s := s } = (.ok ⟨⟩, e') := by
    rw [Inlet.fetch, plain, Run.bind_of_ok read]
    exact run
  refine ⟨e', ?_, device⟩
  rw [Run.exec, fetched]
  exact congrArg (Prod.mk _) (Eng.clearWritten_of_unwritten wrote)

section
variable {s : State} {p i n : Nat}

theorem State.inletRead_of_none (none_ : (s.setCtx p i).plan.inlets[n]? = none) : s.inletRead p i n = s := by
  unfold State.inletRead
  extract_lets c
  rw [show c.plan.inlets[n]? = none from none_]

variable {q : Inlet} (known : (s.setCtx p i).plan.inlets[n]? = some q)
include known

theorem State.inletRead_idle (idle : s.speaks p = false ∨ s.inletReady (s.setCtx p i) q = false) : s.inletRead p i n = s := by
  unfold State.inletRead
  extract_lets c
  rw [show c.plan.inlets[n]? = some q from known]
  refine if_neg fun both => ?_
  rw [Bool.and_eq_true] at both
  exact idle.elim (fun bad => Bool.noConfusion (bad.symm.trans both.1)) fun bad => Bool.noConfusion (bad.symm.trans both.2)

/-- An inlet that may read lands one segment. -/
theorem State.inletRead_of_ready (speaks : s.speaks p = true) (ready : s.inletReady (s.setCtx p i) q = true) {e : Eng}
    (run : (q.fetch (s.setCtx p i) (chuteAcc (s.setCtx p i).f (s.stoneUnit p)) p i).exec s = (.ok (), e)) (sound : e.device = false) :
    s.inletRead p i n = (e.s.landedIn p i e.flags q.port).walkOn p := by
  unfold State.inletRead
  extract_lets c
  rw [show c.plan.inlets[n]? = some q from known]
  dsimp only
  rw [if_pos (by rw [speaks, show s.inletReady c q = true from ready]; rfl)]
  exact State.work_of_clean run sound _

end

/-- What the landing of an inlet's segment leaves. -/
theorem State.inletRead_fields {s : State} {p i : Nat} {q : Inlet} {a : Acc} {e : Eng} (run : (q.fetch (s.setCtx p i) a p i).exec s = (.ok (), e)) :
    ((e.s.landedIn p i e.flags q.port).stone p).bin = (e.s.stone p).bin ∧
    (((e.s.landedIn p i e.flags q.port).setCtx p i).port q.port).landed =
      (if ((s.setCtx p i).port q.port).landed + 1 = ((s.setCtx p i).plan.ports.getD q.port {}).segs then 0
       else ((s.setCtx p i).port q.port).landed + 1) ∧
    (e.s.landedIn p i e.flags q.port).mem = e.s.mem ∧ (e.s.landedIn p i e.flags q.port).hostMem = e.s.hostMem ∧ s.StoreWork e.s := by
  have work := (Inlet.fetch_storeWork q (s.setCtx p i) a p i).exec s
  rw [run] at work
  obtain ⟨bin, mem, host, here, -⟩ := e.s.landedIn_fields p i e.flags q.port
  refine ⟨bin, ?_, mem, host, work⟩
  rw [here, work.setCtx p i]
  exact (SetCtx.landed_fields _ q.port).2.2

/-! ## Fills (R198) -/

/-- The state in which a set's fill has ended, whose work set flags. -/
def State.filledIn (t : State) (p i : Nat) (fl : Flags) : State :=
  (t.modCtx p i (fun c => { c with flags := c.flags.or fl })).modCtx p i (fun c => { c with filled := true, fillDue := 0 })

theorem State.filledIn_fields (t : State) (p i : Nat) (fl : Flags) : ((t.filledIn p i fl).setCtx p i).filled = true ∧
    ((t.filledIn p i fl).setCtx p i).fillDue = 0 ∧ ((t.filledIn p i fl).stone p).bin = (t.stone p).bin ∧
    (t.filledIn p i fl).mem = t.mem ∧ (t.filledIn p i fl).hostMem = t.hostMem := by
  have ctx : (t.filledIn p i fl).setCtx p i = _ := State.setCtx_modCtx _ p i _
  rw [ctx]
  refine ⟨rfl, rfl, ?_, rfl, rfl⟩
  rw [State.filledIn, State.modCtx, State.stone_putCtx, State.modCtx, State.stone_putCtx]
  rfl

theorem State.chuteFill_of_first {s : State} {p i : Nat} (speaks : s.speaks p = true) (first : (s.stone p).fillsFirst (s.setCtx p i) = true) {e : Eng}
    (run : (((s.setCtx p i).plan.phase (s.setCtx p i).fillPhase).fills.forM fun x =>
      x.fetch (chuteAcc (s.setCtx p i).f (s.stoneUnit p)) p i (!(s.setCtx p i).half)).exec s = (.ok (), e)) (sound : e.device = false) :
    s.chuteFill p i = e.s.filledIn p i e.flags := by
  unfold State.chuteFill
  extract_lets c
  rw [if_pos (by rw [speaks, show (s.stone p).fillsFirst c = true from first]; rfl)]
  exact State.work_of_clean run sound _

/-- Settles O60. -/
theorem streamsAndFills : Obligations.StreamsAndFills := by
  intro s p i c a
  refine ⟨fun idle => ?fillIdle, fun e speaks first run sound => ?fill, fun x pa speaks first clean one plain narrow rows => ?fillBytes,
    fun not => ?startIdle, fun may => ?start, fun n => ⟨fun empty => ?noSegment, fun seg rest queued => ⟨fun fenced => ?fenced, ?segment⟩⟩,
    fun n => ⟨fun none_ => ?noInlet, fun q known => ⟨fun idle => ?inletIdle, fun e speaks ready run sound => ?inlet,
      fun pa speaks ready clean plain rows => ?inletBytes⟩⟩⟩
  case fillIdle =>
    refine congrArg (fun u => Host.Outcome.next (State.settle u)) (if_neg fun both => ?_)
    rw [Bool.and_eq_true] at both
    exact idle.elim (fun bad => Bool.noConfusion (bad.symm.trans both.1)) fun bad => Bool.noConfusion (bad.symm.trans both.2)
  case fill =>
    obtain ⟨filled, due, bin, mem, host⟩ := e.s.filledIn_fields p i e.flags
    exact ⟨_, congrArg (fun u => Host.Outcome.next (State.settle u)) (State.chuteFill_of_first speaks first run sound), filled, due, bin, mem, host⟩
  case fillBytes =>
    obtain ⟨e, run, sound, work, bytes⟩ := FillRec.fetch_of_reaches (half := !c.half) clean plain narrow rows
    rw [← one] at run
    obtain ⟨filled, due, bin, mem, host⟩ := e.s.filledIn_fields p i e.flags
    refine ⟨_, congrArg (fun u => Host.Outcome.next (State.settle u)) (State.chuteFill_of_first speaks first run sound), filled, due,
      mem.trans work.mem, host.trans work.host, fun n lt => ?_⟩
    have row := bytes n lt
    rw [bin]
    cases half : c.half <;> rw [half] at row <;> exact row
  case startIdle => exact congrArg (fun u => Host.Outcome.next (State.settle u)) (if_pos (by rw [show (s.setCtx p i).canStart = false from not]; rfl))
  case start =>
    obtain ⟨st, due, bin, acc, mem, fns⟩ := s.startedPhase_fields p i
    exact ⟨_, congrArg (fun u => Host.Outcome.next (State.settle u)) (s.phaseStart_eq p i may), ⟨st.started, st.filled, st.unit, st.phase, st.round,
      st.plan, st.half, st.counts, st.layer, st.ended, due⟩, bin, acc, mem, fns⟩
  case noSegment => exact congrArg (fun u => Host.Outcome.next (State.settle u)) (s.moveSegment_of_empty p i n empty)
  case fenced =>
    obtain ⟨ring, mem, -, fns, units, -, -⟩ := s.popped_fields p i n rest
    have eq := s.moveSegment_of_fenced p i n queued fenced
    refine ⟨_, congrArg (fun u => Host.Outcome.next (State.settle u)) eq, ?_⟩
    generalize s.popped p i n rest = t at *
    exact ⟨ring, (t.unit_staleWrite p).trans (by rw [State.unit, units]; rfl), mem, fns⟩
  case segment =>
    intro t
    refine ⟨fun ref e speaks known => ?_, fun ref speaks known => ?_⟩
    · intro d s1
      have moves := s.moveSegment_of_speaking p i n queued speaks known
      refine ⟨fun refuses => ?_, fun takes run sound => ?_⟩
      · exact congrArg (fun u => Host.Outcome.next (State.settle u)) (moves.trans (if_neg (by
          rw [show (s.setCtx ref.stone ref.set).takes _ = false from refuses]; exact Bool.false_ne_true)))
      · have work : s1.StoreWork e.s := by
          have known := Run.StoreWork.exec (Run.storeWork_bind (meetSegment_storeWork (p.val / 25) seg) fun _ =>
            Landing.land_storeWork (d.landing t.port (d.plan.ports.getD t.port {})) ref.stone ref.set seg) s1
          rw [run] at known
          exact known
        obtain ⟨ring, landed, bin, mem, host⟩ := State.landedIn_popped (n := n) work ref.stone ref.set e.flags t.port
        exact ⟨_, congrArg (fun u => Host.Outcome.next (State.settle u)) ((moves.trans (if_pos takes)).trans (State.work_of_clean run sound _)),
          bin, ring, landed, mem, host⟩
    · intro d x takes whole clean elems scales
      have moves := s.moveSegment_of_speaking p i n queued speaks known
      obtain ⟨-, -, -, -, -, ecc, ctx⟩ := s.popped_fields p i n rest
      obtain ⟨rings, was⟩ := ctx ref.stone ref.set
      have plan : ((s.popped p i n rest).setCtx ref.stone ref.set).plan = d.plan := by rw [was]
      have lands : Run.Completes ref.stone ref.set ((s.popped p i n rest).setCtx ref.stone ref.set)
          (do meetSegment (p.val / 25) seg; x.land ref.stone ref.set seg) :=
        Run.completes_bind (fun e ready => ⟨(), e, meetSegment_of_sound _ whole e, .refl ready, trivial⟩) fun _ =>
          Landing.land_completes (by rw [plan]; exact elems) (by rw [plan]; exact scales)
      obtain ⟨⟨⟩, e, run, sound, work⟩ := lands.exec ((ecc _).trans clean) rfl
      obtain ⟨ring, -, -, mem, host⟩ := State.landedIn_popped (n := n) work ref.stone ref.set e.flags t.port
      exact ⟨_, congrArg (fun u => Host.Outcome.next (State.settle u)) ((moves.trans (if_pos takes)).trans (State.work_of_clean run sound _)),
        ring, mem, host⟩
  case noInlet => exact congrArg (fun u => Host.Outcome.next (State.settle u)) (State.inletRead_of_none none_)
  case inletIdle => exact congrArg (fun u => Host.Outcome.next (State.settle u)) (State.inletRead_idle known idle)
  case inlet =>
    obtain ⟨bin, landed, mem, host, -⟩ := State.inletRead_fields run
    exact ⟨_, congrArg (fun u => Host.Outcome.next (State.settle u)) (State.inletRead_of_ready known speaks ready run sound), bin, landed, mem, host⟩
  case inletBytes =>
    obtain ⟨e, run, sound⟩ := Inlet.fetch_of_reaches clean plain rfl rows
    obtain ⟨-, landed, mem, host, work⟩ := State.inletRead_fields run
    exact ⟨_, congrArg (fun u => Host.Outcome.next (State.settle u)) (State.inletRead_of_ready known speaks ready run sound), landed,
      mem.trans work.mem, host.trans work.host⟩

end Sys2Proof.Machine
end

section
/-! PROOFS. Passes, readouts and vane operations (R80, R93, R95, R103, R113, R131, R144): what the walk and the clocks leave, and that
the work completes in the set's windows. -/
namespace Sys2Proof.Machine

/-! ## The walk (R93, R106, R113) -/

/-- `t` is `s` but for the sets of stones, their order and the boundary where they stand. -/
structure State.Walked (s t : State) : Prop where
  rest  : ∃ l, t = { s with stones := l }
  stone : ∀ q, ∃ sets order at_, t.stone q = { s.stone q with sets := sets, order := order, atBoundary := at_ }

theorem State.Walked.refl (s : State) : s.Walked s := ⟨⟨_, rfl⟩, fun _ => ⟨_, _, _, rfl⟩⟩

theorem State.Walked.trans {s t u : State} (first : s.Walked t) (next : t.Walked u) : s.Walked u where
  rest := by
    obtain ⟨l, rfl⟩ := first.rest
    exact next.rest
  stone q := by
    obtain ⟨_, _, _, here⟩ := first.stone q
    obtain ⟨_, _, _, there⟩ := next.stone q
    exact ⟨_, _, _, by rw [there, here]⟩

theorem State.Walked.mem {s t : State} (walked : s.Walked t) : t.mem = s.mem ∧ t.hostMem = s.hostMem ∧ t.fns = s.fns := by
  obtain ⟨l, rfl⟩ := walked.rest
  exact ⟨rfl, rfl, rfl⟩

section
variable (s : State) (p i : Nat)

theorem State.walked_setStone {v : Stone} (same : ∃ sets order at_, v = { s.stone p with sets := sets, order := order, atBoundary := at_ }) :
    s.Walked (s.setStone p v) := by
  refine ⟨⟨_, rfl⟩, fun q => ?_⟩
  by_cases here : q = p
  · rw [here, s.stone_setStone p v]
    exact same
  · exact ⟨_, _, _, s.stone_setStone_ne p q v here⟩

theorem State.walked_putCtx (v : SetCtx) : s.Walked (s.putCtx p i v) := s.walked_setStone p ⟨_, _, _, rfl⟩
theorem State.walked_atBoundary (b : Bool) : s.Walked (s.modStone p (fun y => { y with atBoundary := b })) := s.walked_setStone p ⟨_, _, _, rfl⟩
theorem State.walked_nextOrder : s.Walked (s.nextOrder p).2 := s.walked_setStone p ⟨_, _, _, rfl⟩

theorem State.walked_advance (n : Nat) : s.Walked (s.advance p n) := by
  induction n generalizing s with
  | zero => exact .refl s
  | succ n ih =>
    unfold State.advance
    split
    · exact .refl s
    · extract_lets c o
      split
      · exact .refl s
      · exact (((s.walked_nextOrder p).trans (State.walked_putCtx _ p _ _)).trans (State.walked_atBoundary _ p true)).trans (ih _)

theorem State.walked_walkOn : s.Walked (s.walkOn p) := s.walked_advance p 64

theorem State.walked_beginNext : s.Walked (s.beginNext p) := by
  unfold State.beginNext
  split
  · exact .refl s
  · extract_lets c
    split
    · exact .refl s
    · exact (s.walked_putCtx p _ _).trans (State.walked_atBoundary _ p false)

end

/-! ## The clocks of a runner (R103, R104, R255) -/

/-- `y` is `x` but for its activity level and its Overshot count. -/
def Stone.Clocked (x y : Stone) : Prop := ∃ level credit gap over_, y = { x with level := level, credit := credit, gap := gap, overCount := over_ }

theorem Stone.Clocked.trans {x y z : Stone} (first : x.Clocked y) (next : y.Clocked z) : x.Clocked z := by
  obtain ⟨_, _, _, _, rfl⟩ := first
  obtain ⟨_, _, _, _, rfl⟩ := next
  exact ⟨_, _, _, _, rfl⟩

section
variable (x : Stone) (n : Nat)

theorem Stone.clocked_spend : x.Clocked (x.spend n) := by
  unfold Stone.spend
  split
  · split
    · exact ⟨_, _, _, _, rfl⟩
    · exact ⟨_, _, _, _, rfl⟩
  · exact ⟨_, _, _, _, rfl⟩

theorem clocked_rampUp : x.Clocked (rampUp n x).1 := by
  induction n generalizing x with
  | zero => exact ⟨_, _, _, _, rfl⟩
  | succ n ih =>
    unfold rampUp
    extract_lets level credit y
    split
    · exact ⟨_, _, _, _, rfl⟩
    · exact Stone.Clocked.trans ⟨_, _, _, _, rfl⟩ (ih _)

theorem clocked_gapClocks : x.Clocked (gapClocks n x) := by
  induction n generalizing x with
  | zero => exact ⟨_, _, _, _, rfl⟩
  | succ n ih =>
    unfold gapClocks
    extract_lets gap level credit
    split
    · exact ⟨_, _, _, _, rfl⟩
    · exact Stone.Clocked.trans ⟨_, _, _, _, rfl⟩ (ih _)

/-- Gap clocks never raise the level. -/
theorem clocked_rampDown : x.Clocked (rampDown n x).1 ∧ (rampDown n x).1.level ≤ x.level := by
  induction n generalizing x with
  | zero => exact ⟨⟨_, _, _, _, rfl⟩, Nat.le_refl _⟩
  | succ n ih =>
    unfold rampDown
    extract_lets gap level credit y z
    have lower : level ≤ x.level := by
      simp only [level]
      split
      · exact Nat.sub_le ..
      · exact Nat.le_refl _
    split
    · exact ⟨⟨_, _, _, _, rfl⟩, lower⟩
    · split
      · exact ⟨⟨_, _, _, _, rfl⟩, lower⟩
      · obtain ⟨rest, less⟩ := ih y
        exact ⟨Stone.Clocked.trans ⟨_, _, _, _, rfl⟩ rest, Nat.le_trans less lower⟩

end

/-! ## The work of a pass (R49 to R55, R113) -/

/-- An element, and its scale, in the window of a set. -/
def SetCtx.InBin (c : SetCtx) (e : Elem) : Prop := e.off + groupBytes e.bits ≤ c.plan.bin ∧ ∀ o, e.scale = some o → o + 1 ≤ c.plan.bin

theorem Site.operand_storeWork (x : Site) (fmt : BitVec 8) (e : Elem) : Run.StoreWork (x.operand fmt e) := by
  refine Run.storeWork_bind (binElem_storeWork _ _ _ _) fun _ => ?_
  extract_lets goOn
  have rest (scale : Option Byte) : Run.StoreWork (goOn scale) := Run.storeWork_withFlags _
  split
  · exact Run.storeWork_bind (binRead_storeWork _ _ _ _ _) fun _ => rest _
  · exact rest _

theorem Site.operand_completes {x : Site} {c : SetCtx} (fmt : BitVec 8) {e : Elem} (inside : c.InBin e) :
    Run.Completes x.p x.i c (x.operand fmt e) := by
  refine Run.completes_bind (binElem_completes _ _ c _ inside.1) fun _ => ?_
  extract_lets goOn
  have rest (scale : Option Byte) : Run.Completes x.p x.i c (goOn scale) := Run.completes_withFlags _
  split
  next o scaled => exact Run.completes_bind (binRead_completes _ _ c _ (inside.2 o scaled)) fun _ => rest _
  next => exact rest _

section
variable (x : Site) (l : Layer)

theorem Site.rowA_storeWork (b : Body) (buf : Nat) (ks : List Nat) (r : Nat) : Run.StoreWork (x.rowA l b buf ks r) := by
  refine Run.storeWork_mapM (fun k => ?_) ks
  split
  · split
    · exact x.operand_storeWork _ _
    · exact Run.storeWork_withFlags _
  · exact x.operand_storeWork _ _

theorem Site.colB_storeWork (buf : Nat) (ks : List Nat) (n : Nat) : Run.StoreWork (x.colB l buf ks n) :=
  Run.storeWork_mapM (fun _ => x.operand_storeWork _ _) ks

theorem Site.initial_storeWork (buf m n : Nat) : Run.StoreWork (x.initial l buf m n) := by
  unfold Site.initial
  split
  · exact Run.storeWork_pure _
  · refine Run.storeWork_bind (binElem_storeWork _ _ _ _) fun _ => ?_
    split
    · exact Run.storeWork_bind (Run.storeWork_withFlags _) fun _ => Run.storeWork_pure _
    · exact Run.storeWork_withFlags _

variable (g : Group) {rd : Nat → Nat → Run Word32} (reads : ∀ a, Run.StoreWork (rd x.p a)) (slot abs m n : Nat)
include reads

theorem Site.entry_storeWork : Run.StoreWork (x.entry rd l g slot abs m n) := by
  unfold Site.entry
  split
  · exact Run.storeWork_bind (x.initial_storeWork l _ _ _) fun _ => Run.storeWork_pure _
  · refine Run.storeWork_bind (reads _) fun _ => ?_
    split
    · exact Run.storeWork_bind (reads _) fun _ => Run.storeWork_pure _
    · exact Run.storeWork_pure _

theorem Site.enter_storeWork (as bs : List Num) : Run.StoreWork (x.enter rd l g slot abs m n as bs) := by
  refine Run.storeWork_bind (x.entry_storeWork l g reads slot abs m n) fun _ => ?_
  extract_lets a
  split
  · exact Run.storeWork_bind (Run.storeWork_withFlags _) fun _ => accWrite_storeWork _ _ _ _
  · refine Run.storeWork_bind (Run.storeWork_withFlags _) fun _ => Run.storeWork_bind (Run.storeWork_withFlags _) fun _ => ?_
    split
    · exact Run.storeWork_bind (Run.storeWork_withFlags _) fun _ => Run.storeWork_bind (accWrite_storeWork _ _ _ _) fun _ =>
        accWrite_storeWork _ _ _ _
    · exact Run.storeWork_bind (Run.storeWork_withFlags _) fun _ => accWrite_storeWork _ _ _ _

end

theorem Site.pass_storeWork (x : Site) (c : SetCtx) (l : Layer) (b : Body) (g : Group) (rows cols : List Nat) :
    Run.StoreWork (x.pass c l b g rows cols) := by
  refine Run.storeWork_bind (accSlot_storeWork _ _ _ _) fun abs => Run.storeWork_bind Run.storeWork_getS fun s => ?_
  extract_lets rd
  have reads (a : Nat) : Run.StoreWork (rd x.p a) := by
    simp only [rd]
    split
    · exact accForward_storeWork _ _
    · exact accRead_storeWork _ _
  exact Run.storeWork_bind (Run.storeWork_mapM (fun r => x.rowA_storeWork l b _ _ r) _) fun _ =>
    Run.storeWork_bind (Run.storeWork_mapM (fun n => x.colB_storeWork l _ _ n) _) fun _ =>
    Run.storeWork_bind (Run.storeWork_forM (fun _ => Run.storeWork_forM (fun _ => x.enter_storeWork l g reads _ _ _ _ _ _) _) _) fun _ =>
    Run.storeWork_modS fun u => u.storeWork_setStone _ ⟨_, _, _, _, _, rfl⟩

section
variable {x : Site} {c : SetCtx} {l : Layer}

theorem Site.rowA_completes {b : Body} {buf : Nat} {ks : List Nat} {r : Nat}
    (inside : ∀ k ∈ ks, ∀ e, (if l.conv then convElem l b buf r k else some (matElem l.fmtA l.a buf l.tm l.tk r k)) = some e → c.InBin e) :
    Run.Completes x.p x.i c (x.rowA l b buf ks r) := by
  refine Run.completes_mapM fun k mem => ?_
  split
  next conv =>
    split
    next e known => exact Site.operand_completes _ (inside k mem e ((if_pos conv).trans known))
    next => exact Run.completes_withFlags _
  next plain => exact Site.operand_completes _ (inside k mem _ (if_neg plain))

theorem Site.colB_completes {buf : Nat} {ks : List Nat} {n : Nat} (inside : ∀ k ∈ ks, c.InBin (matElem l.fmtB l.b buf l.tn l.tk n k)) :
    Run.Completes x.p x.i c (x.colB l buf ks n) :=
  Run.completes_mapM fun k mem => Site.operand_completes _ (inside k mem)

theorem Site.initial_completes {buf m n : Nat} (inside : l.fmtBias = 0 ∨ c.InBin (biasElem l buf m n)) :
    Run.Completes x.p x.i c (x.initial l buf m n) := by
  unfold Site.initial
  split
  next => exact Run.completes_pure _
  next some_ =>
    refine Run.completes_bind (binElem_completes _ _ c _ (inside.resolve_left some_).1) fun _ => ?_
    split
    · exact Run.completes_bind (Run.completes_withFlags _) fun _ => Run.completes_pure _
    · exact Run.completes_withFlags _

variable {g : Group} {rd : Nat → Nat → Run Word32} (reads : ∀ a, Run.Completes x.p x.i c (rd x.p a)) (slot abs : Nat) {m n : Nat}
  (inside : l.fmtBias = 0 ∨ c.InBin (biasElem l g.biasBuf m n))
include reads inside

theorem Site.entry_completes : Run.Completes x.p x.i c (x.entry rd l g slot abs m n) := by
  unfold Site.entry
  split
  · exact Run.completes_bind (Site.initial_completes inside) fun _ => Run.completes_pure _
  · refine Run.completes_bind (reads _) fun _ => ?_
    split
    · exact Run.completes_bind (reads _) fun _ => Run.completes_pure _
    · exact Run.completes_pure _

theorem Site.enter_completes (as bs : List Num) : Run.Completes x.p x.i c (x.enter rd l g slot abs m n as bs) := by
  refine Run.completes_bind (Site.entry_completes reads slot abs inside) fun _ => ?_
  extract_lets a
  split
  · exact Run.completes_bind (Run.completes_withFlags _) fun _ => accWrite_completes _ _ c _ _ _
  · refine Run.completes_bind (Run.completes_withFlags _) fun _ => Run.completes_bind (Run.completes_withFlags _) fun _ => ?_
    split
    · exact Run.completes_bind (Run.completes_withFlags _) fun _ => Run.completes_bind (accWrite_completes _ _ c _ _ _) fun _ =>
        accWrite_completes _ _ c _ _ _
    · exact Run.completes_bind (Run.completes_withFlags _) fun _ => accWrite_completes _ _ c _ _ _

end

/-- A pass whose elements and slots lie in the set's windows completes. -/
theorem Site.pass_completes {x : Site} {c : SetCtx} {l : Layer} {b : Body} {g : Group} {rows cols : List Nat}
    (slots : g.base + (c.pos.ms * l.subCols + c.pos.ns) * (if g.comp then 2 else 1) + (if g.comp then 2 else 1) ≤ c.plan.accSlots)
    (as : ∀ r ∈ rows, ∀ k ∈ upFrom (passSpan l b c.pos.j).1 (passSpan l b c.pos.j).2, ∀ e,
      (if l.conv then convElem l b (c.flip c.pos.layer 1).buf r k
        else some (matElem l.fmtA l.a (c.flip c.pos.layer 1).buf l.tm l.tk r k)) = some e → c.InBin e)
    (bs : ∀ n ∈ cols, ∀ k ∈ upFrom (passSpan l b c.pos.j).1 (passSpan l b c.pos.j).2,
      c.InBin (matElem l.fmtB l.b (c.flip c.pos.layer 2).buf l.tn l.tk n k))
    (bias : l.fmtBias = 0 ∨ ∀ r ∈ rows, ∀ n ∈ cols, c.InBin (biasElem l g.biasBuf r n)) :
    Run.Completes x.p x.i c (x.pass c l b g rows cols) := by
  refine Run.completes_bind (accSlot_completes _ _ c slots) fun abs => Run.yields_bind (mid := fun _ => True)
    (fun e ready => ⟨e.s, e, rfl, .refl ready, trivial⟩) fun s _ => ?_
  extract_lets rd
  have reads (a : Nat) : Run.Completes x.p x.i c (rd x.p a) := by
    simp only [rd]
    split
    · exact accForward_completes _ _ c _
    · exact accRead_completes _ _ c _
  have each (ra : Nat) (row : ra ∈ rows) (cb : Nat) (col : cb ∈ cols) : l.fmtBias = 0 ∨ c.InBin (biasElem l g.biasBuf ra cb) :=
    bias.imp_right fun all => all ra row cb col
  exact Run.completes_bind (Run.completes_mapM fun r mem => Site.rowA_completes (as r mem)) fun la =>
    Run.completes_bind (Run.completes_mapM fun n mem => Site.colB_completes (bs n mem)) fun lb =>
    Run.completes_bind (Run.completes_forM fun ra rowMem => Run.completes_forM fun cb colMem =>
      Site.enter_completes reads _ _ (each ra.1 (List.of_mem_zip rowMem).1 cb.1 (List.of_mem_zip colMem).1) _ _) fun _ =>
    Run.completes_modStone _ _ c (fun y clean => by rw [Stone.entered, clean]; rfl) fun _ => ⟨_, _, _, _, _, rfl⟩

/-! ## PASS_ISSUE and DUMMY_PASS (R80, R103, R104) -/

/-- A stone whose gap clocks before a pass and clocks up to it have gone. -/
def Stone.ramp (n : Nat) (x : Stone) : Stone := let y := rampUp 4000 (gapClocks n x); y.1.spend y.2

theorem Stone.clocked_ramp (n : Nat) (x : Stone) : x.Clocked (x.ramp n) :=
  ((clocked_gapClocks x n).trans (clocked_rampUp _ 4000)).trans (Stone.clocked_spend _ _)

/-- The state in which these clocks have gone. -/
def State.ramped (s : State) (p n : Nat) : State := (s.modStone p (Stone.ramp n)).tick

theorem State.ramped_fields (s : State) (p n : Nat) : (∀ i, (s.ramped p n).setCtx p i = s.setCtx p i) ∧
    ((s.ramped p n).stone p).ecc = (s.stone p).ecc ∧ (s.ramped p n).mem = s.mem ∧ (s.ramped p n).hostMem = s.hostMem := by
  have stone : (s.ramped p n).stone p = (s.stone p).ramp n := s.stone_modStone p _
  obtain ⟨_, _, _, _, eq⟩ := (s.stone p).clocked_ramp n
  rw [eq] at stone
  refine ⟨fun i => ?_, by rw [stone], rfl, rfl⟩
  rw [State.setCtx, stone]
  rfl

section
variable (s : State) (p i : Nat) {t : LoopTable}

theorem State.passIssue_of_none (mismatch : Bool) (none_ : ((s.walkOn p).beginNext p).passReady p = none) :
    s.passIssue p mismatch = s.walkOn p := by
  unfold State.passIssue
  extract_lets u
  rw [show (u.beginNext p).passReady p = none from none_]

theorem State.passIssue_of_ready (ready : ((s.walkOn p).beginNext p).passReady p = some (i, t)) : s.passIssue p false =
    (((s.walkOn p).beginNext p).ramped p (Config.gapsBefore (s.walkOn p).freeCount)).doPass p i t false := by
  unfold State.passIssue
  extract_lets u
  rw [show (u.beginNext p).passReady p = some (i, t) from ready]
  rfl

/-- The state in which the work of a pass has its flags and its slot is initial no more. -/
def State.entered (s : State) (p i g slot layer : Nat) (fl : Flags) : State :=
  (s.modCtx p i (fun c => { c with flags := c.flags.or fl })).modCtx p i (fun c =>
    (c.setGroup g { c.group g with initial := (c.group g).initial.filter (fun n => n != slot) }).tensorFlags layer fl)

variable (t)

/-- A pass that is not empty and whose work goes well enters its sums. -/
theorem State.doPass_of_work {e : Eng} {l : Layer} {b : Body} {rows cols : List Nat} {c : SetCtx} (ctx : s.setCtx p i = c)
    (layer : t.layer c.pos.layer = l) (body : t.body c.pos.layer c.pos.counts = b) (rowsEq : subRowsValid l b c.pos.ms = rows)
    (colsEq : subColsValid l b c.pos.ns = cols) (some_ : rows ≠ []) (cols_ : cols ≠ []) (deep : (passSpan l b c.pos.j).2 ≠ 0)
    (run : (Site.pass { p := p, i := i, half := c.half } c l b (c.group (c.ringEntry t c.pos.layer).group) rows cols).exec s = (.ok (), e))
    (sound : e.device = false) : s.doPass p i t false =
      (e.s.entered p i (c.ringEntry t c.pos.layer).group
        ((c.group (c.ringEntry t c.pos.layer).group).base + (c.pos.ms * l.subCols + c.pos.ns) * (c.ringEntry t c.pos.layer).w)
        c.pos.layer e.flags).afterPass p i t := by
  subst ctx layer body rowsEq colsEq
  unfold State.doPass
  extract_lets c k l b rows cols en g x slot
  rw [if_neg (by
    simp only [Bool.or_eq_true, decide_eq_true_eq]
    exact fun bad => bad.elim (fun bad => bad.elim some_ cols_) deep)]
  rw [State.work_of_clean run sound]
  rfl

theorem State.afterPass_of_next {pos : LoopPos} (next : (s.setCtx p i).pos.nextPass (bodyShape t (t.layer (s.setCtx p i).pos.layer)
    (t.body (s.setCtx p i).pos.layer (s.setCtx p i).pos.counts)) = some pos) :
    s.afterPass p i t = s.putCtx p i { s.setCtx p i with pos := pos } := by
  unfold State.afterPass
  extract_lets c sh
  rw [show c.pos.nextPass sh = some pos from next]

/-- What follows a pass leaves memories and accumulators. -/
theorem State.walked_afterPass : s.Walked (s.afterPass p i t) := by
  unfold State.afterPass
  extract_lets c sh o
  split
  · exact s.walked_putCtx p i _
  · exact (((s.walked_nextOrder p).trans (State.walked_putCtx _ p i _)).trans (State.walked_atBoundary _ p true)).trans (State.walked_walkOn _ p)

end

theorem State.entered_fields (s : State) (p i g slot layer : Nat) (fl : Flags) : s.Walked (s.entered p i g slot layer fl) ∧
    ((s.entered p i g slot layer fl).setCtx p i).pos = (s.setCtx p i).pos ∧
    (g < (s.setCtx p i).groups.length → slot ∉ (((s.entered p i g slot layer fl).setCtx p i).group g).initial) := by
  refine ⟨(s.walked_putCtx p i _).trans (State.walked_putCtx _ p i _), ?_, fun lt => ?_⟩
  · rw [State.entered, State.setCtx_modCtx, State.setCtx_modCtx]
    rfl
  · rw [State.entered, State.setCtx_modCtx, State.setCtx_modCtx]
    intro mem
    have mem' : slot ∈ (((s.setCtx p i).groups.set g { (s.setCtx p i).group g with
        initial := ((s.setCtx p i).group g).initial.filter (fun n => n != slot) }).getD g {}).initial := mem
    rw [List.getD_eq_getElem?_getD, List.getElem?_set_self lt, Option.getD_some, List.mem_filter] at mem'
    exact (bne_iff_ne.mp mem'.2) rfl

/-- What a pass leaves: accumulators and memories as its work left them, the sequencer at the next pass, its slot initial no more. -/
theorem State.passed_fields {s : State} {p i : Nat} {c : SetCtx} (ctx : s.setCtx p i = c) (t : LoopTable) (g slot layer : Nat) (fl : Flags) :
    (((s.entered p i g slot layer fl).afterPass p i t).stone p).acc = (s.stone p).acc ∧
    ((s.entered p i g slot layer fl).afterPass p i t).mem = s.mem ∧ ((s.entered p i g slot layer fl).afterPass p i t).hostMem = s.hostMem ∧
    ∀ pos, c.pos.nextPass (bodyShape t (t.layer c.pos.layer) (t.body c.pos.layer c.pos.counts)) = some pos →
      (((s.entered p i g slot layer fl).afterPass p i t).setCtx p i).pos = pos ∧
      (g < c.groups.length → slot ∉ ((((s.entered p i g slot layer fl).afterPass p i t).setCtx p i).group g).initial) := by
  subst ctx
  obtain ⟨walked, place, done⟩ := s.entered_fields p i g slot layer fl
  have all := walked.trans (State.walked_afterPass _ p i t)
  obtain ⟨mem, host, -⟩ := all.mem
  obtain ⟨_, _, _, stone⟩ := all.stone p
  refine ⟨by rw [stone], mem, host, fun pos next => ?_⟩
  rw [← place] at next
  rw [State.afterPass_of_next _ p i t next, State.setCtx_putCtx]
  exact ⟨rfl, done⟩

theorem State.dummyPass_idle (s : State) (p : Nat) (mismatch : Bool)
    (idle : (((s.walkOn p).beginNext p).passReady p).isSome = true ∨ (s.walkOn p).clocked p = false) : s.dummyPass p mismatch = s.walkOn p := by
  unfold State.dummyPass
  extract_lets u
  refine if_pos ?_
  rcases idle with ready | off
  · rw [show ((u.beginNext p).passReady p).isSome = true from ready, Bool.or_true]
  · rw [show u.clocked p = false from off]
    rfl

/-- The stone after the gap clocks up to a dummy pass. -/
def Stone.freewheel (x : Stone) : Stone :=
  let y := rampDown 8000 x
  if y.1.switching then y.1 else y.1.spend y.2.2

theorem Stone.freewheel_fields (x : Stone) : x.Clocked x.freewheel ∧ x.freewheel.level ≤ x.level := by
  obtain ⟨clocks, lower⟩ := clocked_rampDown x 8000
  unfold Stone.freewheel
  generalize rampDown 8000 x = y at clocks lower
  dsimp only
  split
  · exact ⟨clocks, lower⟩
  · have same : (y.1.spend y.2.2).level = y.1.level := by
      unfold Stone.spend
      split
      · split <;> rfl
      · rfl
    exact ⟨clocks.trans (y.1.clocked_spend _), by rw [same]; exact lower⟩

theorem State.dummyPass_of_gap (s : State) (p : Nat) (none_ : ((s.walkOn p).beginNext p).passReady p = none)
    (on : (s.walkOn p).clocked p = true) : s.dummyPass p false = (s.walkOn p).setStone p ((s.walkOn p).stone p).freewheel := by
  unfold State.dummyPass
  extract_lets u y
  rw [if_neg (by rw [show u.clocked p = true from on, show (u.beginNext p).passReady p = none from none_]; exact Bool.false_ne_true),
    Bool.and_false]
  rfl

/-! ## VANE_READOUT (R95, R131) -/

theorem SetCtx.group_setGroup (c : SetCtx) (n : Nat) : (c.setGroup n {}).group n = {} ∧ ∀ m, m ≠ n → (c.setGroup n {}).group m = c.group m := by
  refine ⟨?_, fun m other => ?_⟩
  · rw [SetCtx.group, SetCtx.setGroup, List.getD_eq_getElem?_getD, List.getElem?_set]
    split
    · split <;> rfl
    · exact absurd rfl ‹_›
  · rw [SetCtx.group, SetCtx.setGroup, List.getD_eq_getElem?_getD, List.getElem?_set_ne (Ne.symm other), ← List.getD_eq_getElem?_getD]
    rfl

/-- The state in which a group has been read out. -/
def State.readOut (s : State) (p i n : Nat) (d : Drain) (y : Yield) (fl : Flags) : State :=
  (s.modCtx p i (fun c => { c with flags := c.flags.or fl })).modCtx p i (fun c =>
    let c := c.count d.g.layer d.l.fmtOut y.values fl
    let c := if d.l.outDest = 1 then
        c.pushSegment d.l.spout { elems := y.elems, scales := y.scales, bytes := d.bytes, conv := d.l.conv } else c
    c.setGroup n {})

theorem State.readOut_fields (s : State) (p i n : Nat) (d : Drain) (y : Yield) (fl : Flags) :
    ((s.readOut p i n d y fl).setCtx p i).group n = {} ∧
    (∀ m, m ≠ n → ((s.readOut p i n d y fl).setCtx p i).group m = (s.setCtx p i).group m) ∧
    (s.readOut p i n d y fl).mem = s.mem ∧ (s.readOut p i n d y fl).hostMem = s.hostMem ∧
    ((s.readOut p i n d y fl).stone p).bin = (s.stone p).bin := by
  have walked : s.Walked (s.readOut p i n d y fl) := (s.walked_putCtx p i _).trans (State.walked_putCtx _ p i _)
  obtain ⟨mem, host, -⟩ := walked.mem
  obtain ⟨_, _, _, stone⟩ := walked.stone p
  have ctx : (s.readOut p i n d y fl).setCtx p i = _ := State.setCtx_modCtx _ p i _
  rw [ctx, State.setCtx_modCtx]
  extract_lets c c'
  obtain ⟨own, others⟩ := c'.group_setGroup n
  refine ⟨own, fun m other => (others m other).trans ?_, mem, host, by rw [stone]⟩
  simp only [c']
  split <;> rfl

theorem State.readout_of_none {s : State} {p : Nat} (none_ : (s.stone p).draining.find? (fun y => s.canDrain p y.1 y.2) = none) : s.readout p = s := by
  rw [State.readout, none_]

theorem State.readout_of_work {s : State} {p i n : Nat} {t : LoopTable} {y : Yield} {e : Eng}
    (pick : (s.stone p).draining.find? (fun y => s.canDrain p y.1 y.2) = some (i, n)) (table : (s.setCtx p i).table = some t)
    (run : (do meetTable p (s.drain p i n t).c (s.drain p i n t).record; (s.drain p i n t).all : Run Yield).exec s = (.ok y, e))
    (sound : e.device = false) :
    s.readout p = ((e.s.readOut p i n (s.drain p i n t) y e.flags).settlePhase p i).walkOn p := by
  rw [State.readout, pick]
  dsimp only
  rw [table]
  exact State.work_of_clean run sound _

/-! ## Runs of a packed row (R32, R33) -/

theorem groupElems_pos (bits : Nat) : 0 < groupElems bits := by
  unfold groupElems
  split
  · exact Nat.two_pos
  · split
    · exact Nat.succ_pos 3
    · exact Nat.one_pos

theorem ceilDiv_mul (k : Nat) {e : Nat} (pos : 0 < e) : ceilDiv (k * e) e = k := by
  rw [ceilDiv, Nat.add_sub_assoc pos, Nat.add_comm, Nat.add_mul_div_right _ _ pos, Nat.div_eq_of_lt (Nat.sub_one_lt_of_lt pos), Nat.zero_add]

theorem length_packRow (bits : Nat) (codes : List Nat) : (packRow bits codes).length = rowBytes bits codes.length := by
  rw [packRow, List.length_flatMap, rowBytes]
  simp only [packGroup, length_natLe, List.map_const', List.length_range, List.sum_replicate, smul_eq_mul]

/-- The bytes of a run lie in the groups that it touches. -/
theorem RowRun.length_bytes (x : RowRun) (bits : Nat) (old : List Byte) : (x.bytes bits old).length ≤ (groupSpan bits x.j x.codes.length).2 := by
  unfold RowRun.bytes
  extract_lets e first n keep
  rw [length_packRow, List.length_map, List.length_range, rowBytes, ceilDiv_mul _ (groupElems_pos bits)]
  exact Nat.div_mul_le_self ..

section
variable {x : Site} {c : SetCtx} {bits : Nat} {r : RowRun}

theorem Site.binRun_completes (inside : r.row + (groupSpan bits r.j r.codes.length).1 + (groupSpan bits r.j r.codes.length).2 ≤ c.plan.bin) :
    Run.Completes x.p x.i c (x.binRun bits r) := by
  unfold Site.binRun putRun
  extract_lets g goOn
  have rest (old : List Byte) : Run.Completes x.p x.i c (goOn old) :=
    binWrite_completes _ _ c _ (Nat.le_trans (Nat.add_le_add_left (r.length_bytes bits old) _) inside)
  split
  · exact rest _
  · exact Run.completes_bind (binRead_completes _ _ c _ inside) rest

end

/-! ## The work of a readout without record, blend and scales (R56, R64, R74, R118) -/

section
variable {d : Drain} {p i : Nat} (site : d.x.p = p) (set : d.x.i = i) (bare : d.record = none) (sharp : d.clip = none)
  (plain : fwMx d.l.fmtOut = false) (near : d.l.outDest ≠ 2)

include site set in
theorem Drain.entry_completes {r n : Nat} (slot : d.slot r n + (if d.g.comp then 2 else 1) ≤ d.c.plan.accSlots)
    (bias : d.l.fmtBias = 0 ∨ d.c.InBin (biasElem d.l d.g.biasBuf r n)) : Run.Completes p i d.c (d.entry r n) := by
  subst site set
  exact Run.completes_bind (accSlot_completes _ _ d.c slot) fun abs =>
    Run.completes_bind (Site.entry_completes (fun a => accRead_completes _ _ d.c a) _ _ bias) fun e =>
      Run.completes_getS fun e ready => ⟨_, e, rfl, .refl ready⟩

include site set bare sharp plain in
theorem Drain.value_completes {r n : Nat} (old : Nat) (slot : d.slot r n + (if d.g.comp then 2 else 1) ≤ d.c.plan.accSlots)
    (bias : d.l.fmtBias = 0 ∨ d.c.InBin (biasElem d.l d.g.biasBuf r n)) : Run.Completes p i d.c (d.value r n old) := by
  refine Run.completes_bind (Drain.entry_completes site set slot bias) fun x => ?_
  rw [bare, sharp, plain]
  exact Run.completes_pure _

include site set near in
theorem Drain.write_completes {x : RowRun} (inside : d.l.outDest = 0 → x.row + (groupSpan (bitsOfFmt d.l.fmtOut) x.j x.codes.length).1 +
    (groupSpan (bitsOfFmt d.l.fmtOut) x.j x.codes.length).2 ≤ d.c.plan.bin) : Run.Completes p i d.c (d.write x) := by
  subst site set
  unfold Drain.write
  rw [if_neg near]
  split
  next bin => exact Site.binRun_completes (inside bin)
  next => exact Run.completes_pure _

include site set bare sharp plain near in
theorem Drain.run_completes {l : List (Nat × Nat)}
    (each : ∀ e ∈ l, d.slot e.1 e.2 + (if d.g.comp then 2 else 1) ≤ d.c.plan.accSlots ∧
      (d.l.fmtBias = 0 ∨ d.c.InBin (biasElem d.l d.g.biasBuf e.1 e.2)))
    (lands : ∀ e, d.l.outDest = 0 → l.head? = some e → (d.place e.1 e.2).1 +
      (groupSpan (bitsOfFmt d.l.fmtOut) (d.place e.1 e.2).2.1 l.length).1 +
      (groupSpan (bitsOfFmt d.l.fmtOut) (d.place e.1 e.2).2.1 l.length).2 ≤ d.c.plan.bin) : Run.Completes p i d.c (d.run l) := by
  cases l with
  | nil => exact Run.completes_pure _
  | cons x l =>
    obtain ⟨r, n⟩ := x
    have olds (row j k : Nat) : Run.Completes p i d.c (d.olds row j k) := by
      unfold Drain.olds
      rw [if_pos sharp]
      exact Run.completes_pure _
    refine Run.completes_bind (olds _ _ _) fun old => ?_
    refine Run.yields_bind (Run.yields_mapM fun e mem => ?_) fun vs count => ?_
    · obtain ⟨slot, bias⟩ := each e.2 (List.of_mem_zip mem).2
      exact Drain.value_completes site set bare sharp plain _ slot bias
    · rw [plain]
      refine Run.yields_bind (Run.yields_mapM fun v _ => Run.completes_withFlags _) fun codes same => ?_
      refine Run.completes_bind (Drain.write_completes site set near fun bin => ?_) fun _ => Run.completes_pure _
      have total : codes.length = ((r, n) :: l).length := by
        rw [same, count, List.length_zip, List.length_range, Nat.min_self]
      rw [total]
      exact lands (r, n) bin rfl

include site set bare sharp plain near in
/-- A readout whose entries, and whose places in the bin window, lie in the set's windows completes. -/
theorem Drain.all_completes (each : ∀ x ∈ d.slots, ∀ l ∈ d.runs x.1 x.2,
      (∀ e ∈ l, d.slot e.1 e.2 + (if d.g.comp then 2 else 1) ≤ d.c.plan.accSlots ∧
        (d.l.fmtBias = 0 ∨ d.c.InBin (biasElem d.l d.g.biasBuf e.1 e.2))) ∧
      ∀ e, d.l.outDest = 0 → l.head? = some e → (d.place e.1 e.2).1 +
        (groupSpan (bitsOfFmt d.l.fmtOut) (d.place e.1 e.2).2.1 l.length).1 +
        (groupSpan (bitsOfFmt d.l.fmtOut) (d.place e.1 e.2).2.1 l.length).2 ≤ d.c.plan.bin) : Run.Completes p i d.c d.all :=
  Run.completes_bind (Run.completes_mapM fun x memX => Run.completes_bind (Run.completes_mapM fun l memL =>
      Drain.run_completes site set bare sharp plain near (each x memX l memL).1 (each x memX l memL).2) fun _ => Run.completes_pure _)
    fun _ => Run.completes_pure _

end

/-! ## SOFTMAX rows (R149) -/

theorem FM.length_mapM {α β : Type} (f : α → FM β) (l : List α) (fl : Flags) : ((l.mapM f).run fl).1.length = l.length := by
  induction l generalizing fl with
  | nil => rfl
  | cons x l ih =>
    rw [List.mapM_cons, StateT.run_bind, List.length_cons, ← ih ((f x).run fl).2]
    rfl

theorem FM.bind_run {α β : Type} (m : FM α) (k : α → FM β) (fl : Flags) : (m >>= k).run fl = (k (m.run fl).1).run (m.run fl).2 := rfl

theorem length_softMaxRow (row : List Word32) (fl : Flags) : ((softMaxRow row).run fl).1.1.length = row.length := by
  unfold softMaxRow
  split
  · exact List.length_map _
  · extract_lets c
    have terms := FM.length_mapM (softTerm c) row fl
    rw [FM.bind_run]
    generalize (row.mapM (softTerm c)).run fl = a at terms ⊢
    extract_lets sats
    rw [FM.bind_run]
    generalize (treeSum c (a.1.map (·.1))).run a.2 = b
    split
    · exact List.length_map _
    · rw [FM.bind_run]
      have out := FM.length_mapM (fun t => laneRound (t.div b.1)) (a.1.map (·.1)) b.2
      rw [List.length_map, terms] at out
      exact out

/-! ## VANE_OP_UNIT (R144) -/

theorem VaneBlock.length_put_span (bits n : Nat) : groupSpan bits 0 n = (0, rowBytes bits n) := by
  rw [groupSpan, rowBytes, ceilDiv, packedOff]
  simp only [Nat.zero_div, Nat.zero_mul, Nat.zero_add, Nat.sub_zero]

/-- A row operation whose source and results lie in the set's window completes. -/
theorem VaneJob.soft_completes {v : VaneJob} {c : SetCtx} (u : Nat) (local_ : v.b.inMem = false) (near : v.b.outDest ≠ 2)
    (source : v.b.inBase % 2 ^ 22 + u * v.b.inPitch + elemBytes v.b.fmtIn * v.b.rowLen ≤ c.plan.bin)
    (target : v.b.outBase % 2 ^ 22 + u * v.b.outPitch + rowBytes (bitsOfFmt v.b.fmtOut) v.b.rowLen ≤ c.plan.bin ∨ v.b.outDest ≠ 0) :
    Run.Completes v.x.p v.x.i c (v.soft u) := by
  have read : Run.Yields v.x.p v.x.i c (v.elems (u * v.b.inPitch) v.b.rowLen) fun row => row.length = v.b.rowLen := by
    refine Run.yields_bind (mid := fun _ => True) ?_ fun bs _ => ?_
    · rw [VaneJob.src, local_]
      exact binRead_completes _ _ c _ source
    · intro e ready
      obtain ⟨ys, e', run, goes, same⟩ := Run.yields_mapM (fun k _ => Run.completes_withFlags _) (l := List.range v.b.rowLen) e ready
      exact ⟨ys, e', run, goes, same.trans List.length_range⟩
  unfold VaneJob.soft
  extract_lets b
  split
  · exact Run.completes_pure _
  · refine Run.yields_bind read fun row count => Run.yields_bind (Run.yields_withFlags (softMaxRow row)) fun r known => ?_
    obtain ⟨fl, rfl⟩ := known
    have length := (length_softMaxRow row fl).trans count
    generalize ((softMaxRow row).run fl).1 = r at length ⊢
    refine Run.completes_bind ?_ fun _ => Run.completes_pure _
    refine Run.yields_bind (Run.yields_mapM fun y _ => Run.completes_withFlags _) fun codes same => ?_
    extract_lets bits run goOn
    have ends (w : Unit) : Run.Completes v.x.p v.x.i c (goOn w) := Run.completes_pure _
    rw [if_neg near]
    split
    next bin =>
      refine Run.completes_bind (Site.binRun_completes ?_) ends
      rw [show run.codes.length = v.b.rowLen from same.trans length, show run.j = 0 from rfl, VaneBlock.length_put_span, Nat.add_zero,
        show run.row = v.b.outBase % 2 ^ 22 + u * v.b.outPitch from if_neg near]
      exact target.resolve_right (not_not.mpr bin)
    next => exact ends ()

/-- The job of a stone is its loaded set's. -/
theorem State.vaneJob_fields {s : State} {p i : Nat} {v : VaneJob} (known : s.vaneJob p = some (i, v)) :
    v.x.p = p ∧ v.x.i = i ∧ v.c = s.setCtx p i := by
  unfold State.vaneJob at known
  extract_lets x at known
  split at known
  next => exact absurd known.symm (Option.some_ne_none _)
  next k _ =>
    extract_lets c at known
    split at known
    next => exact absurd known.symm (Option.some_ne_none _)
    next b _ =>
      split at known
      next =>
        obtain ⟨rfl, rfl⟩ := Prod.mk.inj (Option.some.inj known)
        exact ⟨rfl, rfl, rfl⟩
      next => exact absurd known.symm (Option.some_ne_none _)

/-- A set whose vane operation begins reads the fills of its ports. -/
def SetCtx.begun (c : SetCtx) : SetCtx :=
  if c.unit = 0 then c.phasePorts.foldl (fun d x => d.setPort x.1 { d.port x.1 with begun := (d.port x.1).begun + 1 }) c else c

theorem SetCtx.begun_fields (c : SetCtx) : c.begun.unit = c.unit ∧ c.begun.plan = c.plan := by
  unfold SetCtx.begun
  split
  · exact List.foldlRecOn (motive := fun d : SetCtx => d.unit = c.unit ∧ d.plan = c.plan) _ _ ⟨rfl, rfl⟩ fun _ known _ _ => known
  · exact ⟨rfl, rfl⟩

/-- The state in which a unit of a vane operation has ended. -/
def State.unitEnded (s : State) (p i : Nat) (b : VaneBlock) (y : Yield × Nat × Bool) (fl : Flags) : State :=
  ((s.modCtx p i (fun c => { c with flags := c.flags.or fl })).modCtx p i (fun c => c.afterUnit b y fl)).modStone p (fun x => { x with atBoundary := true })

theorem SetCtx.unit_afterUnit (c : SetCtx) (b : VaneBlock) (y : Yield × Nat × Bool) (fl : Flags) : (c.afterUnit b y fl).unit = c.unit + 1 := by
  unfold SetCtx.afterUnit
  extract_lets c1 c2 c3
  have first : c1.unit = c.unit := by
    simp only [c1]
    split <;> rfl
  have second : c2.unit = c1.unit := by
    simp only [c2]
    split <;> rfl
  have third : c3.unit = c2.unit := by
    simp only [c3]
    split <;> rfl
  exact congrArg (· + 1) (third.trans (second.trans first))

theorem State.unitEnded_fields (s : State) (p i : Nat) (b : VaneBlock) (y : Yield × Nat × Bool) (fl : Flags) :
    ((s.unitEnded p i b y fl).setCtx p i).unit = (s.setCtx p i).unit + 1 ∧ ((s.unitEnded p i b y fl).stone p).atBoundary = true ∧
    (s.unitEnded p i b y fl).mem = s.mem ∧ (s.unitEnded p i b y fl).hostMem = s.hostMem ∧
    ((s.unitEnded p i b y fl).stone p).bin = (s.stone p).bin := by
  have walked : s.Walked (s.unitEnded p i b y fl) :=
    ((s.walked_putCtx p i _).trans (State.walked_putCtx _ p i _)).trans (State.walked_atBoundary _ p true)
  obtain ⟨mem, host, -⟩ := walked.mem
  obtain ⟨_, _, _, bin⟩ := walked.stone p
  have stone : (s.unitEnded p i b y fl).stone p = { ((s.modCtx p i (fun c => { c with flags := c.flags.or fl })).modCtx p i
    (fun c => c.afterUnit b y fl)).stone p with atBoundary := true } := State.stone_modStone _ p _
  have ctx : (s.unitEnded p i b y fl).setCtx p i = ((s.modCtx p i (fun c => { c with flags := c.flags.or fl })).modCtx p i
    (fun c => c.afterUnit b y fl)).setCtx p i := by
    rw [State.setCtx, stone]
    rfl
  refine ⟨?_, by rw [stone], mem, host, by rw [bin]⟩
  rw [ctx, State.setCtx_modCtx, SetCtx.unit_afterUnit, State.setCtx_modCtx]

theorem State.vaneUnit_of_none {s : State} {p : Nat} (none_ : s.vaneJob p = none) : s.vaneUnit p = s := by
  rw [State.vaneUnit, none_]

theorem State.vaneUnit_of_work {s : State} {p i : Nat} {v : VaneJob} {y : Yield × Nat × Bool} {e : Eng} (job : s.vaneJob p = some (i, v))
    (run : (do meetTable p v.c v.record; v.unit v.c.unit : Run (Yield × Nat × Bool)).exec (s.modCtx p i SetCtx.begun) = (.ok y, e))
    (sound : e.device = false) : s.vaneUnit p = (e.s.unitEnded p i v.b y e.flags).settlePhase p i := by
  rw [State.vaneUnit, job]
  exact State.work_of_clean run sound _

/-- Settles O59. -/
theorem passesAndReadouts : Obligations.PassesAndReadouts := by
  intro s p s1 s2 inBin
  refine ⟨fun m none_ => ?passNone, ?pass, fun idle m => ?dummyIdle, fun none_ on => ?dummy, ?readout, fun none_ => ?vaneNone, ?vane⟩
  case passNone =>
    exact congrArg (fun u : State => Host.Outcome.next (State.settle (u.stopRunner p))) (s.passIssue_of_none p m none_)
  case pass =>
    intro i t ready c l b rows cols ks en g slot s3 moved some_ cols_ deep
    have passes : s.passIssue p false = s3.doPass p i t false := s.passIssue_of_ready p i ready
    obtain ⟨ctx, ecc, mem, host⟩ := s2.ramped_fields p (Config.gapsBefore s1.freeCount)
    have walked : s.Walked s2 := (s.walked_walkOn p).trans (s1.walked_beginNext p)
    have goes (e : Eng) (run : (Site.pass { p := p, i := i, half := c.half } c l b g rows cols).exec s3 = (.ok (), e)) (sound : e.device = false) :
        ∃ u : State, exec (.passIssue p false) s = .next (u.stopRunner p).settle ∧ (u.stone p).acc = (e.s.stone p).acc ∧
          u.mem = e.s.mem ∧ u.hostMem = e.s.hostMem ∧ moved u := by
      have work := (Site.pass_storeWork { p := p, i := i, half := c.half } c l b g rows cols).exec s3
      rw [run] at work
      have kept : e.s.setCtx p i = c := (work.setCtx p i).trans (ctx i)
      obtain ⟨acc, mem', host', next⟩ := State.passed_fields kept t en.group slot c.pos.layer e.flags
      exact ⟨_, congrArg (fun u : State => Host.Outcome.next (State.settle (u.stopRunner p)))
        (passes.trans (s3.doPass_of_work p i t (ctx i) rfl rfl rfl rfl some_ cols_ deep run sound)), acc, mem', host', next⟩
    refine ⟨goes, fun clean slots as bs bias => ?_⟩
    obtain ⟨_, _, _, stone⟩ := walked.stone p
    have sound2 : (s3.stone p).ecc = [] := ecc.trans (by rw [stone]; exact clean)
    obtain ⟨⟨⟩, e, run, sound, work⟩ := (Site.pass_completes (x := { p := p, i := i, half := c.half }) slots as bs bias).exec sound2 (ctx i)
    obtain ⟨u, eq, -, mem', host', next⟩ := goes e run sound
    exact ⟨u, eq, (mem'.trans work.mem).trans (mem.trans walked.mem.1), (host'.trans work.host).trans (host.trans walked.mem.2.1), next⟩
  case dummyIdle => exact congrArg (fun u : State => Host.Outcome.next u.settle) (s.dummyPass_idle p m idle)
  case dummy =>
    obtain ⟨⟨_, _, _, _, clocked⟩, lower⟩ := (s1.stone p).freewheel_fields
    obtain ⟨mem, -, fns⟩ := (s.walked_walkOn p).mem
    refine ⟨_, congrArg (fun u : State => Host.Outcome.next u.settle) (s.dummyPass_of_gap p none_ on), ?_⟩
    rw [State.stone_setStone]
    exact ⟨by rw [clocked], by rw [clocked], by rw [clocked], lower, mem, fns⟩
  case readout =>
    intro pick
    refine ⟨fun none_ => congrArg (fun u : State => Host.Outcome.next u.settle) (State.readout_of_none none_), ?_⟩
    intro i n t picked table d
    have goes (y : Yield) (e : Eng) (run : (do meetTable p d.c d.record; d.all : Run Yield).exec s = (.ok y, e)) (sound : e.device = false) :
        exec (.vaneReadout p) s = .next (((e.s.readOut p i n d y e.flags).settlePhase p i).walkOn p).settle :=
      congrArg (fun u : State => Host.Outcome.next u.settle) (State.readout_of_work picked table run sound)
    refine ⟨fun y e run sound => ?_, fun clean bare sharp plain near each => ?_⟩
    · obtain ⟨own, others, mem, host, bin⟩ := e.s.readOut_fields p i n d y e.flags
      exact ⟨_, goes y e run sound, own, others, mem, host, bin⟩
    · have whole : Run.Completes p i d.c (do meetTable p d.c d.record; d.all : Run Yield) :=
        Run.completes_bind (by rw [bare]; exact Run.completes_pure _) fun _ => Drain.all_completes rfl rfl bare sharp plain near each
      obtain ⟨y, e, run, sound, work⟩ := whole.exec clean rfl
      obtain ⟨own, -, mem, host, -⟩ := e.s.readOut_fields p i n d y e.flags
      exact ⟨_, goes y e run sound, own, mem.trans work.mem, host.trans work.host⟩
  case vaneNone =>
    exact congrArg (fun u : State => Host.Outcome.next (State.settle (u.stopRunner p))) (State.vaneUnit_of_none none_)
  case vane =>
    intro i v job
    obtain ⟨site, set, own⟩ := State.vaneJob_fields job
    have goes (y : Yield × Nat × Bool) (e : Eng) (run : (do meetTable p v.c v.record; v.unit v.c.unit : Run (Yield × Nat × Bool)).exec
        (s.modCtx p i SetCtx.begun) = (.ok y, e)) (sound : e.device = false) :
        exec (.vaneOpUnit p) s = .next (((e.s.unitEnded p i v.b y e.flags).settlePhase p i).stopRunner p).settle :=
      congrArg (fun u : State => Host.Outcome.next (State.settle (u.stopRunner p))) (State.vaneUnit_of_work job run sound)
    refine ⟨fun y e run sound => ?_, fun clean soft local_ near source target => ?_⟩
    · obtain ⟨unit, at_, mem, host, bin⟩ := e.s.unitEnded_fields p i v.b y e.flags
      exact ⟨_, goes y e run sound, unit, at_, mem, host, bin⟩
    · obtain ⟨unit, plan⟩ := v.c.begun_fields
      have ctx : (s.modCtx p i SetCtx.begun).setCtx p i = v.c.begun := by rw [State.setCtx_modCtx, ← own]
      have ecc : ((s.modCtx p i SetCtx.begun).stone p).ecc = [] := by
        rw [State.modCtx, State.stone_putCtx]
        exact clean
      have whole : Run.Completes p i v.c.begun (do meetTable p v.c v.record; v.unit v.c.unit : Run (Yield × Nat × Bool)) := by
        refine Run.completes_bind ?_ fun _ => ?_
        · unfold meetTable
          split
          · exact meetRead_completes p i _ _ _ _
          · exact Run.completes_pure _
        · rw [VaneJob.unit, soft]
          have row := VaneJob.soft_completes (c := v.c.begun) v.c.unit local_ near (by rw [plan]; exact source) (by rw [plan]; exact target)
          rw [site, set] at row
          exact row
      obtain ⟨y, e, run, sound, work⟩ := whole.exec ecc ctx
      obtain ⟨count, at_, mem, host, -⟩ := e.s.unitEnded_fields p i v.b y e.flags
      refine ⟨_, goes y e run sound, ?_, at_, mem.trans work.mem, host.trans work.host⟩
      rw [count, work.setCtx p i, ctx, unit]

end Sys2Proof.Machine
end

section
/-! PROOFS. Numbers (R15 to R21, R35 to R41, R50, R54, R74): formats encode what they decode, special products, FP32 entries, counts. -/
namespace Sys2Proof.Machine

/-! ## Comparison and rounding in units -/

theorem shl_zero (n : Nat) : shl n 0 = n := Nat.mul_one n

theorem rneDiv_one (n : Nat) : rneDiv n 1 = (n, false) := by
  rw [rneDiv, Nat.div_one, Nat.mod_one]
  rfl

/-- A value in its own unit is exact. -/
theorem toUnits_self (n : Nat) (e : Int) : toUnits n 1 e e = (n, false) := by
  rw [toUnits, if_pos (Int.le_refl e), Int.sub_self, shl_zero, rneDiv_one]

theorem floorLog2_one {n : Nat} (pos : n ≠ 0) (e : Int) : floorLog2 n 1 e = (Nat.log2 n : Int) + e := by
  have one : Nat.log2 1 = 0 := by decide
  have fits : ¬n < 1 * 2 ^ (Nat.log2 n) := by
    rw [Nat.one_mul, Nat.not_lt]
    exact Nat.log2_self_le pos
  unfold floorLog2
  extract_lets a under
  have eq : a = (Nat.log2 n : Int) := by
    simp only [a, one]
    exact Int.sub_zero _
  have not : ¬under := by
    simp only [under, eq]
    rw [if_pos (Int.natCast_nonneg _), Int.toNat_natCast]
    exact fits
  rw [if_neg not, eq]

/-- A magnitude is not above a larger one in a unit no smaller. -/
theorem unitsGt_of_le {k m : Nat} {u v : Int} (le : k ≤ m) (unit : u ≤ v) : unitsGt k u m v = false := by
  rw [unitsGt, if_pos unit]
  refine decide_eq_false (Nat.not_lt.mpr (Nat.le_trans le ?_))
  exact Nat.le_mul_of_pos_right m (Nat.two_pow_pos _)

/-- A magnitude that is not below 2^v has its exponent at v or above. -/
theorem le_log2_of_not_unitsGt {k : Nat} {u v : Int} (pos : k ≠ 0) (notLess : unitsGt 1 v k u = false) : v ≤ (Nat.log2 k : Int) + u := by
  rw [unitsGt] at notLess
  split at notLess
  next above => omega
  next below =>
    have le : shl 1 (v - u) ≤ k := Nat.not_lt.mp (of_decide_eq_false notLess)
    rw [shl, Nat.one_mul] at le
    have log := (Nat.le_log2 pos).mpr le
    omega

/-- A magnitude that is not above one of `p` bits has its exponent no higher. -/
theorem log2_lt_of_not_unitsGt {k m p : Nat} {u v : Int} (pos : k ≠ 0) (small : m < 2 ^ p) (notMore : unitsGt k u m v = false) :
    (Nat.log2 k : Int) + u < p + v := by
  rw [unitsGt] at notMore
  split at notMore
  next below =>
    have le : k ≤ shl m (v - u) := Nat.not_lt.mp (of_decide_eq_false notMore)
    have lt : k < 2 ^ (p + (v - u).toNat) := by
      rw [Nat.pow_add]
      exact lt_of_le_of_lt le (Nat.mul_lt_mul_of_pos_right small (Nat.two_pow_pos _))
    have log := (Nat.log2_lt pos).mpr lt
    omega
  next above =>
    have le : shl k (u - v) ≤ m := Nat.not_lt.mp (of_decide_eq_false notMore)
    have self := Nat.mul_le_mul_right (2 ^ (u - v).toNat) (Nat.log2_self_le pos)
    rw [← Nat.pow_add] at self
    have lt := (Nat.pow_lt_pow_iff_right Nat.one_lt_two).mp (lt_of_le_of_lt (Nat.le_trans self le) small)
    omega

/-! ## Fields of a pattern (R16) -/

/-- A pattern of sign, exponent and fraction. -/
theorem pattern_split (F E b : Nat) (lt : b < 2 ^ (F + E + 1)) :
    b = b2n ((b / 2 ^ (F + E)) % 2 == 1) * 2 ^ (F + E) + b / 2 ^ F % 2 ^ E * 2 ^ F + b % 2 ^ F := by
  have top : b / 2 ^ (F + E) < 2 := by
    rw [Nat.div_lt_iff_lt_mul (Nat.two_pow_pos _), ← Nat.pow_succ']
    exact lt
  have sign : b2n ((b / 2 ^ (F + E)) % 2 == 1) = b / 2 ^ (F + E) := by
    rcases Nat.lt_succ_iff_lt_or_eq.mp top with zero | one
    · rw [Nat.lt_one_iff.mp zero]; rfl
    · rw [one]; rfl
  have high : b / 2 ^ F = b / 2 ^ (F + E) * 2 ^ E + b / 2 ^ F % 2 ^ E := by
    rw [Nat.pow_add, ← Nat.div_div_eq_div_mul]
    exact (Nat.div_add_mod' ..).symm
  have low := (Nat.div_add_mod' b (2 ^ F)).symm
  rw [sign]
  calc b = b / 2 ^ F * 2 ^ F + b % 2 ^ F := low
    _ = (b / 2 ^ (F + E) * 2 ^ E + b / 2 ^ F % 2 ^ E) * 2 ^ F + b % 2 ^ F := by rw [← high]
    _ = _ := by rw [Nat.add_mul, Nat.mul_assoc, ← Nat.pow_add, Nat.add_comm E F]

/-! ## A format encodes what it decodes (R16, R17, R35, R36) -/

/-- A pattern without exponent packs as its fraction, in the unit of the subnormals. -/
theorem packFloat_subnormal {f : FloatFmt} {s : Bool} {n : Nat} (pos : n ≠ 0) (lt : n < 2 ^ f.frac) :
    packFloat f s n (1 - (f.bias : Int) - f.frac) = b2n s * 2 ^ (f.frac + f.ebits) + n := by
  have log := (Nat.log2_lt pos).mpr lt
  unfold packFloat
  extract_lets sgn lg ex
  have low : ex ≤ 0 := by simp only [ex, lg]; omega
  rw [if_neg pos, if_pos low, Int.sub_self, shl_zero]

theorem log2_normal {F fr : Nat} (lt : fr < 2 ^ F) : Nat.log2 (2 ^ F + fr) = F := by
  rw [Nat.log2_eq_iff (by have := Nat.two_pow_pos F; omega), Nat.pow_succ]
  omega

/-- A pattern with an exponent packs as its fields. -/
theorem packFloat_normal {f : FloatFmt} {s : Bool} {fr ex : Nat} (lt : fr < 2 ^ f.frac) (pos : ex ≠ 0) :
    packFloat f s (2 ^ f.frac + fr) ((ex : Int) - f.bias - f.frac) = b2n s * 2 ^ (f.frac + f.ebits) + ex * 2 ^ f.frac + fr := by
  have nonzero : 2 ^ f.frac + fr ≠ 0 := by have := Nat.two_pow_pos f.frac; omega
  unfold packFloat
  extract_lets sgn lg e
  have log : lg = f.frac := by simp only [lg]; rw [log2_normal lt]
  have exp : e = ex := by simp only [e, log]; omega
  rw [if_neg nonzero, exp, if_neg (by omega), log, if_pos (Int.le_refl _), Int.toNat_natCast, Int.toNat_natCast, Nat.sub_self, Nat.pow_zero,
    Nat.mul_one, Nat.add_mod_left, Nat.mod_eq_of_lt lt]

/-- What the largest finite magnitude of a format is to hold: every pattern that decodes to a finite value. -/
def FloatFmt.Tops (code : Nat) (f : FloatFmt) : Prop :=
  (∀ n, n < 2 ^ f.frac → unitsGt n (1 - (f.bias : Int) - f.frac) (maxFinite code f).1 (maxFinite code f).2 = false) ∧
  ∀ ex fr : Nat, ex < 2 ^ f.ebits → fr < 2 ^ f.frac → (code ≤ 5 → ex ≠ 2 ^ f.ebits - 1) → (code = 6 → ex = 2 ^ f.ebits - 1 → fr ≠ 7) →
    unitsGt (2 ^ f.frac + fr) ((ex : Int) - f.bias - f.frac) (maxFinite code f).1 (maxFinite code f).2 = false

/-- What a pattern of sign `s`, exponent `ex` and fraction `fr` decodes to, and its flags. -/
def decodedFloat (code : Nat) (f : FloatFmt) (s : Bool) (ex fr : Nat) : Num × Flags :=
  if ex = 2 ^ f.ebits - 1 ∧ code ≤ 5 then (if fr = 0 then .inf s else .nan, {})
  else if code = 6 ∧ ex = 2 ^ f.ebits - 1 ∧ fr = 7 then (.nan, {})
  else if ex = 0 then
    if fr ≠ 0 ∧ flushes code = true then (.fin s 0 1 0, { ufl := true }) else (.fin s fr 1 (1 - (f.bias : Int) - f.frac), {})
  else (.fin s (2 ^ f.frac + fr) 1 ((ex : Int) - f.bias - f.frac), {})

theorem decodeFloat_run (code : Nat) (f : FloatFmt) (b : Nat) : (decodeFloat code f b).run {} =
    decodedFloat code f ((b / 2 ^ (f.frac + f.ebits)) % 2 == 1) (b / 2 ^ f.frac % 2 ^ f.ebits) (b % 2 ^ f.frac) := by
  unfold decodeFloat decodedFloat
  extract_lets fr ex s top
  simp only [Bool.and_eq_true, decide_eq_true_eq, and_assoc]
  split
  · rfl
  · split
    · rfl
    · split
      · split <;> rfl
      · rfl

section
variable {code : Nat} {f : FloatFmt} {s : Bool} {fr : Nat}

theorem encodeFloat_inf (low : code ≤ 5) :
    (encodeFloat code f false (.inf s)).run {} = (b2n s * 2 ^ (f.frac + f.ebits) + (2 ^ f.ebits - 1) * 2 ^ f.frac, {}) := by
  rw [encodeFloat, overflowBits]
  dsimp only
  rw [if_pos low]
  rfl

theorem encodeFloat_zero (d : Nat) (e : Int) : (encodeFloat code f false (.fin s 0 d e)).run {} = (b2n s * 2 ^ (f.frac + f.ebits), {}) := rfl

/-- A finite value whose rounding is exact and in range is packed. -/
theorem encodeFloat_exact {n k : Nat} {d : Nat} {e u : Int} (pos : n ≠ 0)
    (rounds : (if flushes code || (1 - (f.bias : Int)) ≤ floorLog2 n d e then roundUnbounded (f.frac + 1) n d e
      else ((toUnits n d e (1 - (f.bias : Int) - f.frac)).1, 1 - (f.bias : Int) - f.frac, (toUnits n d e (1 - (f.bias : Int) - f.frac)).2)) = (k, u, false))
    (range : unitsGt k u (maxFinite code f).1 (maxFinite code f).2 = false)
    (normal : (flushes code && unitsGt 1 (1 - (f.bias : Int)) k u) = false) :
    (encodeFloat code f false (.fin s n d e)).run {} = (packFloat f s k u, {}) := by
  unfold encodeFloat
  dsimp -zeta only
  extract_lets sgn emin r0 q r m goOn
  have eq : r = (k, u, false) := rounds
  rw [if_neg pos, eq]
  dsimp only
  rw [if_neg (by rw [show unitsGt k u m.1 m.2 = false from range]; exact Bool.false_ne_true),
    if_neg (by rw [show (flushes code && unitsGt 1 emin k u) = false from normal]; exact Bool.false_ne_true), if_neg Bool.false_ne_true]
  simp only [goOn, eq]
  rfl

end

/-- A pattern that is no NaN and no flushed subnormal is encoded from the value it decodes to. -/
theorem encodeFloat_decoded {code : Nat} {f : FloatFmt} (tops : f.Tops code) {s : Bool} {ex fr : Nat} (exLt : ex < 2 ^ f.ebits)
    (frLt : fr < 2 ^ f.frac) (number : (decodedFloat code f s ex fr).1.isNan = false) (quiet : (decodedFloat code f s ex fr).2 = {}) :
    (encodeFloat code f false (decodedFloat code f s ex fr).1).run {} = (b2n s * 2 ^ (f.frac + f.ebits) + ex * 2 ^ f.frac + fr, {}) := by
  unfold decodedFloat at number quiet ⊢
  split at number
  next special =>
    rw [if_pos special]
    by_cases none_ : fr = 0
    · dsimp only
      rw [if_pos none_, encodeFloat_inf special.2, none_, special.1]
      rfl
    · dsimp only at number
      rw [if_neg none_] at number
      exact absurd number Bool.noConfusion
  next finite =>
    rw [if_neg finite] at quiet ⊢
    split at number
    next => exact absurd number Bool.noConfusion
    next real =>
      rw [if_neg real] at quiet ⊢
      split at number
      next low =>
        rw [if_pos low] at quiet ⊢
        split at number
        next flush =>
          rw [if_pos flush] at quiet
          exact absurd (congrArg Flags.ufl quiet) Bool.noConfusion
        next kept =>
          rw [if_neg kept, low]
          by_cases none_ : fr = 0
          · rw [none_, encodeFloat_zero, Nat.zero_mul]
            rfl
          · have sub : flushes code = false := Bool.eq_false_iff.mpr fun on => kept ⟨none_, on⟩
            have log := (Nat.log2_lt none_).mpr frLt
            rw [encodeFloat_exact none_ (k := fr) (u := 1 - (f.bias : Int) - f.frac) _ (tops.1 fr frLt) (by rw [sub]; rfl),
              packFloat_subnormal none_ frLt, Nat.zero_mul]
            · rfl
            · rw [sub, Bool.false_or, floorLog2_one none_, if_neg (by simp only [decide_eq_true_eq]; omega), toUnits_self]
      next high =>
        rw [if_neg high]
        have nonzero : 2 ^ f.frac + fr ≠ 0 := by have := Nat.two_pow_pos f.frac; omega
        have log := log2_normal frLt
        rw [encodeFloat_exact nonzero (k := 2 ^ f.frac + fr) (u := (ex : Int) - f.bias - f.frac) _
          (tops.2 ex fr exLt frLt (fun five same => finite ⟨same, five⟩) fun six same seven => real ⟨six, same, seven⟩) _,
          packFloat_normal frLt high]
        · rw [if_pos]
          · rw [roundUnbounded, floorLog2_one nonzero, log]
            have unit : (f.frac : Int) + ((ex : Int) - f.bias - f.frac) - ((f.frac + 1 : Nat) - 1 : Int) = (ex : Int) - f.bias - f.frac := by omega
            rw [unit, toUnits_self]
          · rw [floorLog2_one nonzero, log, Bool.or_eq_true, decide_eq_true_eq]
            right
            omega
        · rw [Bool.and_eq_false_iff]
          right
          rw [unitsGt]
          split
          next up =>
            refine decide_eq_false (Nat.not_lt.mpr ?_)
            exact Nat.le_trans (Nat.one_le_iff_ne_zero.mpr nonzero) (Nat.le_mul_of_pos_right _ (Nat.two_pow_pos _))
          next down =>
            refine decide_eq_false (Nat.not_lt.mpr ?_)
            have small : 2 ^ (1 - (f.bias : Int) - ((ex : Int) - f.bias - f.frac)).toNat ≤ 2 ^ f.frac :=
              Nat.pow_le_pow_right Nat.two_pos (by omega)
            rw [shl, Nat.one_mul]
            omega

/-! ## The formats (R15 to R21) -/

/-- In a format with infinities the exponent below the top is the largest of finite values. -/
theorem FloatFmt.tops_of_low {code : Nat} {f : FloatFmt} (low : code ≤ 5) (wide : 2 ≤ f.ebits) : f.Tops code := by
  have four : 2 ^ 2 ≤ 2 ^ f.ebits := Nat.pow_le_pow_right Nat.two_pos wide
  have pow := Nat.two_pow_pos f.frac
  refine ⟨fun n lt => ?_, fun ex fr exLt frLt notTop _ => ?_⟩
  · rw [maxFinite, if_pos low, Nat.pow_succ]
    exact unitsGt_of_le (by omega) (by omega)
  · have below := notTop low
    rw [maxFinite, if_pos low, Nat.pow_succ]
    exact unitsGt_of_le (by omega) (by omega)

/-- In a format without special values every exponent is one of finite values. -/
theorem FloatFmt.tops_of_high {code : Nat} {f : FloatFmt} (high : 7 ≤ code) (wide : 1 ≤ f.ebits) : f.Tops code := by
  have two : 2 ^ 1 ≤ 2 ^ f.ebits := Nat.pow_le_pow_right Nat.two_pos wide
  have pow := Nat.two_pow_pos f.frac
  refine ⟨fun n lt => ?_, fun ex fr exLt frLt _ _ => ?_⟩
  · rw [maxFinite, if_neg (by omega), if_neg (by omega), Nat.pow_succ]
    exact unitsGt_of_le (by omega) (by omega)
  · rw [maxFinite, if_neg (by omega), if_neg (by omega), Nat.pow_succ]
    exact unitsGt_of_le (by omega) (by omega)

/-- In E4M3 the top exponent has one NaN. -/
theorem FloatFmt.tops_e4m3 : FloatFmt.Tops 6 ⟨3, 4, 7⟩ := by
  constructor
  · intro n lt
    have small : n < 8 := lt
    have unit : (1 : Int) - 7 - 3 ≤ 5 := by omega
    have up : 14 * 1 ≤ shl 14 (5 - (1 - 7 - 3)) := Nat.mul_le_mul_left 14 (Nat.two_pow_pos _)
    exact (if_pos unit).trans (decide_eq_false (Nat.not_lt.mpr (Nat.le_trans (by omega) up)))
  · intro ex fr exLt frLt _ notNan
    have exSmall : ex < 16 := exLt
    have frSmall : fr < 8 := frLt
    show unitsGt (8 + fr) ((ex : Int) - 7 - 3) 14 5 = false
    have unit : (ex : Int) - 7 - 3 ≤ 5 := by omega
    by_cases last : ex = 15
    · have fewer := notNan rfl last
      exact unitsGt_of_le (by omega) unit
    · have up : 14 * 2 ^ 1 ≤ shl 14 (5 - ((ex : Int) - 7 - 3)) := Nat.mul_le_mul_left 14 (Nat.pow_le_pow_right Nat.two_pos (by omega))
      exact (if_pos unit).trans (decide_eq_false (by omega))

theorem fwCode_ofNat {code : Nat} (small : code < 16) : fwCode (BitVec.ofNat 8 code) = code := by
  rw [fwCode, BitVec.toNat_ofNat]
  omega

theorem fwE4nan_ofNat {code : Nat} (small : code < 16) : fwE4nan (BitVec.ofNat 8 code) = false := by
  rw [fwE4nan, BitVec.toNat_ofNat, Nat.mod_eq_of_lt (by omega)]
  exact Nat.testBit_lt_two_pow (by omega)

/-- A code of an unscaled format is encoded back, without a flag, from the value it decodes to. -/
def RoundTrips (code bits : Nat) : Prop :=
  ((decodeElem code bits).run {}).1.isNan = false → ((decodeElem code bits).run {}).2 = {} →
    (encodeElem (BitVec.ofNat 8 code) ((decodeElem code bits).run {}).1).run {} = (bits, {})

section
variable {code : Nat} {f : FloatFmt} (small : code < 16) (known : floatFmt code = some f) (tops : f.Tops code)
include small known tops

theorem roundTrips_float {bits b : Nat} (lt : b < 2 ^ (f.frac + f.ebits + 1)) (stored : (if code = 2 then bits / 2 ^ 13 else bits) = b)
    (back : (if code = 2 then b * 2 ^ 13 else b) = bits) : RoundTrips code bits := by
  have reads : decodeElem code bits = decodeFloat code f b := by
    rw [decodeElem, known]
    dsimp only
    rw [stored]
  have split := pattern_split f.frac f.ebits b lt
  intro number quiet
  rw [reads, decodeFloat_run] at number quiet ⊢
  have encodes := encodeFloat_decoded tops (Nat.mod_lt _ (Nat.two_pow_pos _)) (Nat.mod_lt _ (Nat.two_pow_pos _)) number quiet
  rw [← split] at encodes
  unfold encodeElem
  extract_lets code'
  have same : code' = code := fwCode_ofNat small
  rw [same, known]
  dsimp only
  rw [fwE4nan_ofNat small, FM.bind_run, encodes, back]
  rfl

end

theorem encodeInt_inside {sg : Bool} {w : Nat} {v : Int} (above : (if sg then -(2 ^ (w - 1)) else 0) ≤ v)
    (below : v ≤ if sg then 2 ^ (w - 1) - 1 else 2 ^ w - 1) : (encodeInt sg w (numOfInt v)).run {} = (toTwos w v, {}) := by
  have value : (if decide (v < 0) then -((toUnits v.natAbs 1 0 0).1 : Int) else (toUnits v.natAbs 1 0 0).1) = v := by
    rw [toUnits_self]
    by_cases neg : v < 0
    · rw [if_pos (decide_eq_true neg)]
      dsimp only
      omega
    · rw [if_neg (by simpa only [decide_eq_true_eq] using neg)]
      dsimp only
      omega
  unfold encodeInt numOfInt
  extract_lets hi lo
  dsimp -zeta only
  extract_lets q i goOn
  have eq : i = v := value
  rw [if_neg (by rw [eq]; exact Int.not_lt.mpr below), if_neg (by rw [eq]; exact Int.not_lt.mpr above), if_neg (by
    simp only [q, toUnits_self]; exact Bool.false_ne_true)]
  simp only [goOn, eq]
  rfl

theorem toTwos_signed {w bits : Nat} (lt : bits < 2 ^ w) : toTwos w (signed w bits) = bits := by
  rw [toTwos, signed, Nat.mod_eq_of_lt lt]
  split
  · rw [Int.emod_eq_of_lt (Int.natCast_nonneg _) (by exact_mod_cast lt), Int.toNat_natCast]
  · rw [Int.sub_emod_right, Int.emod_eq_of_lt (Int.natCast_nonneg _) (by exact_mod_cast lt), Int.toNat_natCast]

theorem signed_range {w : Nat} (pos : 0 < w) (bits : Nat) : -(2 ^ (w - 1)) ≤ signed w bits ∧ signed w bits ≤ 2 ^ (w - 1) - 1 := by
  have twice : 2 ^ w = 2 ^ (w - 1) * 2 := by rw [← Nat.pow_succ, Nat.succ_eq_add_one, Nat.sub_add_cancel pos]
  have lt := Nat.mod_lt bits (Nat.two_pow_pos w)
  have cast : ((2 ^ (w - 1) : Nat) : Int) = 2 ^ (w - 1) := by norm_cast
  rw [← cast, signed]
  split <;> omega

theorem roundTrips_int {code bits w : Nat} {sg : Bool} (small : code < 16) (plain : floatFmt code = none) (known : intFmt code = some (sg, w))
    (pos : 0 < w) (lt : bits < 2 ^ w) : RoundTrips code bits := by
  have reads : decodeElem code bits = pure (numOfInt (if sg then signed w bits else ((bits % 2 ^ w : Nat) : Int))) := by
    rw [decodeElem, plain, known]
  intro _ _
  rw [reads]
  unfold encodeElem
  extract_lets code'
  have same : code' = code := fwCode_ofNat small
  rw [same, plain, known]
  obtain ⟨above, below⟩ := signed_range pos bits
  have cast : ((2 ^ w : Nat) : Int) = 2 ^ w := by norm_cast
  cases sg with
  | true =>
    rw [if_pos rfl]
    exact (encodeInt_inside (sg := true) above below).trans (congrArg (fun n => (n, ({} : Flags))) (toTwos_signed lt))
  | false =>
    rw [if_neg Bool.false_ne_true]
    have fits : ((bits % 2 ^ w : Nat) : Int) ≤ 2 ^ w - 1 := by
      have less := Nat.mod_lt bits (Nat.two_pow_pos w)
      rw [← cast]
      omega
    refine (encodeInt_inside (sg := false) (Int.natCast_nonneg _) fits).trans (congrArg (fun n => (n, ({} : Flags))) ?_)
    rw [toTwos, Nat.mod_eq_of_lt lt, Int.emod_eq_of_lt (Int.natCast_nonneg _) (by exact_mod_cast lt), Int.toNat_natCast]

theorem rneDiv_mul {n d : Nat} (pos : 0 < d) : rneDiv (n * d) d = (n, false) := by
  rw [rneDiv, Nat.mul_div_cancel n pos, Nat.mul_mod_left]
  exact if_pos pos

/-- Encoding a value of UN16 that is at most 1. -/
theorem encodeUn16_inside {n : Nat} (lt : n < 65536) : (encodeUn16 (.fin false n 65535 0)).run {} = (n, {}) := by
  unfold encodeUn16
  dsimp -zeta only
  extract_lets c q whole
  have exact_ : q = (n, false) := by
    simp only [q]
    rw [toUnits, if_pos (Int.le_refl _), Int.sub_self, shl_zero, rneDiv_mul (by omega)]
  have notAbove : c ≠ 1 := by
    have units : c = if (n : Int) - 65535 < 0 then -1 else if (n : Int) - 65535 = 0 then 0 else 1 := by
      simp only [c, Num.cmp, scaledInt, min_self, Int.sub_self, shl_zero, Bool.false_eq_true, if_false, Nat.mul_one, Nat.one_mul]
      rfl
    rw [units]
    split
    · decide
    · rw [if_pos (by omega)]
      decide
  by_cases zero : n = 0
  · rw [if_pos zero, zero]
    rfl
  · rw [if_neg zero, if_neg Bool.false_ne_true, if_neg notAbove, exact_, if_neg Bool.false_ne_true]
    simp only [whole, exact_]
    rfl

theorem roundTrips_un16 {bits : Nat} (lt : bits < 65536) : RoundTrips 0xE bits := by
  intro _ _
  have value : ((decodeElem 0xE bits).run {}).1 = .fin false bits 65535 0 := congrArg (Num.fin false · 65535 0) (Nat.mod_eq_of_lt lt)
  rw [value]
  exact encodeUn16_inside lt

/-- Every unscaled format but the scale byte's (R15 to R21, R35 to R41). -/
theorem roundTrips {code bits : Nat} (pos : 1 ≤ code) (le : code ≤ 0xE) (lt : bits < 2 ^ storageBits code)
    (container : code = 2 → bits < 2 ^ 32 ∧ bits % 2 ^ 13 = 0) : RoundTrips code bits := by
  match code, pos, le, lt, container with
  | 1, _, _, lt, _ => exact roundTrips_float (by decide) rfl (FloatFmt.tops_of_low (by decide) (by decide)) lt rfl rfl
  | 2, _, _, _, container =>
    obtain ⟨small, zeros⟩ := container rfl
    refine roundTrips_float (b := bits / 2 ^ 13) (by decide) rfl (FloatFmt.tops_of_low (by decide) (by decide)) ?_ rfl ?_
    · show bits / 2 ^ 13 < 2 ^ 19
      omega
    · show bits / 2 ^ 13 * 2 ^ 13 = bits
      omega
  | 3, _, _, lt, _ => exact roundTrips_float (by decide) rfl (FloatFmt.tops_of_low (by decide) (by decide)) lt rfl rfl
  | 4, _, _, lt, _ => exact roundTrips_float (by decide) rfl (FloatFmt.tops_of_low (by decide) (by decide)) lt rfl rfl
  | 5, _, _, lt, _ => exact roundTrips_float (by decide) rfl (FloatFmt.tops_of_low (by decide) (by decide)) lt rfl rfl
  | 6, _, _, lt, _ => exact roundTrips_float (by decide) rfl FloatFmt.tops_e4m3 lt rfl rfl
  | 7, _, _, lt, _ => exact roundTrips_float (by decide) rfl (FloatFmt.tops_of_high (by decide) (by decide)) lt rfl rfl
  | 8, _, _, lt, _ => exact roundTrips_float (by decide) rfl (FloatFmt.tops_of_high (by decide) (by decide)) lt rfl rfl
  | 9, _, _, lt, _ => exact roundTrips_float (by decide) rfl (FloatFmt.tops_of_high (by decide) (by decide)) lt rfl rfl
  | 10, _, _, lt, _ => exact roundTrips_int (by decide) rfl rfl (by decide) lt
  | 11, _, _, lt, _ => exact roundTrips_int (by decide) rfl rfl (by decide) lt
  | 12, _, _, lt, _ => exact roundTrips_int (by decide) rfl rfl (by decide) lt
  | 13, _, _, lt, _ => exact roundTrips_int (by decide) rfl rfl (by decide) lt
  | 14, _, _, lt, _ => exact roundTrips_un16 lt

/-! ## Special products (R50) -/

theorem product_of_nan {a b : Num} (nan : a.isNan = true ∨ b.isNan = true) (fl : Flags) : (product a b).run fl = (.nan, { fl with inv := true }) := by
  rw [product, if_pos ((Bool.or_eq_true ..).mpr nan)]
  rfl

theorem product_of_mul_nan {a b : Num} (first : a.isNan = false) (second : b.isNan = false) (nan : (a.mul b).isNan = true) (fl : Flags) :
    (product a b).run fl = (.nan, { fl with inv := true }) := by
  rw [product, first, second]
  exact congrArg (fun x : FM Num => x.run fl) (if_pos nan)

theorem Num.mul_inf_zero {a b : Num} (inf : a.isInf = true) (zero : b.isZero = true) : a.mul b = .nan ∧ b.mul a = .nan := by
  cases a with
  | nan | fin => cases inf
  | inf s =>
    cases b with
    | nan | inf => cases zero
    | fin t m c g =>
      have none_ : m = 0 := beq_iff_eq.mp zero
      exact ⟨if_pos none_, if_pos none_⟩

theorem Num.isNan_of_isInf {a : Num} (inf : a.isInf = true) : a.isNan = false := by
  cases a with
  | nan | fin => cases inf
  | inf => rfl

theorem Num.isNan_of_isZero {a : Num} (zero : a.isZero = true) : a.isNan = false := by
  cases a with
  | nan | inf => cases zero
  | fin => rfl

theorem product_special {a b : Num} (fl : Flags) (special : a.isNan = true ∨ b.isNan = true ∨
    (a.isInf = true ∧ b.isZero = true) ∨ (a.isZero = true ∧ b.isInf = true)) : (product a b).run fl = (.nan, { fl with inv := true }) := by
  rcases special with nan | nan | ⟨inf, zero⟩ | ⟨zero, inf⟩
  · exact product_of_nan (.inl nan) fl
  · exact product_of_nan (.inr nan) fl
  · exact product_of_mul_nan (Num.isNan_of_isInf inf) (Num.isNan_of_isZero zero) (congrArg Num.isNan (Num.mul_inf_zero inf zero).1) fl
  · exact product_of_mul_nan (Num.isNan_of_isZero zero) (Num.isNan_of_isInf inf) (congrArg Num.isNan (Num.mul_inf_zero inf zero).2) fl

/-! ## FP32 entries (R54, R62) -/

/-- A pattern of FP32 that is a zero or has an exponent. -/
def Normal32 (w : Nat) : Prop := w / 2 ^ 23 % 256 = 0 → w % 2 ^ 23 = 0

theorem normal32_fields {s : Bool} {ex fr : Nat} (pos : 0 < ex) (lt : ex < 256) (frLt : fr < 2 ^ 23) :
    Normal32 ((b2n s * 2 ^ (23 + 8) + ex * 2 ^ 23 + fr) % 2 ^ 32) := by
  intro none_
  have bit : b2n s ≤ 1 := by cases s <;> decide
  omega

theorem normal32_nan : Normal32 0x7FC0_0000 := fun none_ => absurd none_ (by decide)

theorem normal32_zero (s : Bool) : Normal32 (b2n s * 2 ^ (23 + 8) % 2 ^ 32) := by
  intro _
  have bit : b2n s ≤ 1 := by cases s <;> decide
  omega

/-- A magnitude from the least normal to the largest finite one packs with an exponent. -/
theorem normal32_packFloat {s : Bool} {k : Nat} {u : Int} (notLess : unitsGt 1 (-126) k u = false)
    (notMore : unitsGt k u (2 ^ 24 - 1) 104 = false) : Normal32 (packFloat ⟨23, 8, 127⟩ s k u % 2 ^ 32) := by
  by_cases none_ : k = 0
  · rw [none_]
    exact normal32_zero s
  · have above := le_log2_of_not_unitsGt none_ notLess
    have below := log2_lt_of_not_unitsGt (p := 24) none_ (by decide) notMore
    unfold packFloat
    extract_lets sgn lg ex
    have eq : ex = (Nat.log2 k : Int) + u + 127 := rfl
    rw [if_neg none_, if_neg (by rw [eq]; omega)]
    exact normal32_fields (by rw [eq]; omega) (by rw [eq]; omega) (Nat.mod_lt _ (by decide))

theorem overflowBits_value {code : Nat} (low : code ≤ 5) (f : FloatFmt) (nan s inf : Bool) (fl : Flags) :
    ((overflowBits code f nan s inf).run fl).1 = b2n s * 2 ^ (f.frac + f.ebits) + (2 ^ f.ebits - 1) * 2 ^ f.frac := by
  rw [overflowBits, if_pos low]
  cases inf <;> rfl

theorem normal32_overflow (s inf : Bool) (fl : Flags) :
    Normal32 (((overflowBits 1 ⟨23, 8, 127⟩ false s inf).run fl).1 % 2 ^ 32) := by
  have value : ((overflowBits 1 ⟨23, 8, 127⟩ false s inf).run fl).1 = b2n s * 2 ^ (23 + 8) + (2 ^ 8 - 1) * 2 ^ 23 :=
    overflowBits_value (by decide) ..
  have fields := normal32_fields (s := s) (ex := 2 ^ 8 - 1) (fr := 0) (by decide) (by decide) (by decide)
  rwa [Nat.add_zero, ← value] at fields

/-- Rounding to FP32 makes no subnormal (R38). -/
theorem normal32_toFp32 {v : Num} (number : v.isNan = false) (fl : Flags) : Normal32 ((toFp32 v).run fl).1.toNat := by
  have bits (b : FM Nat) : ((do let n ← b; return BitVec.ofNat 32 n : FM Word32).run fl).1.toNat = (b.run fl).1 % 2 ^ 32 :=
    BitVec.toNat_ofNat ..
  rw [toFp32, bits]
  cases v with
  | nan => cases number
  | inf s =>
    rw [encodeFloat]
    exact normal32_overflow s true fl
  | fin s n d e =>
    unfold encodeFloat
    dsimp -zeta only
    extract_lets sgn emin r0 q r m goOn
    by_cases none_ : n = 0
    · rw [if_pos none_]
      exact normal32_zero s
    · rw [if_neg none_]
      split
      next => exact normal32_overflow s false fl
      next inside =>
        split
        next => exact normal32_zero s
        next normal =>
          have packs : Normal32 (packFloat ⟨23, 8, 127⟩ s r.1 r.2.1 % 2 ^ 32) :=
            normal32_packFloat (Bool.eq_false_iff.mpr fun less => normal less) (Bool.eq_false_iff.mpr inside)
          split
          next => exact packs
          next => exact packs

section
variable {a : Word32} {t : Num} (fl : Flags)

theorem accEnter_nan (nan : (fp32 a).isNan = true ∨ t.isNan = true) : (accEnter a t).run fl = ((0x7FC0_0000, false), fl) := by
  unfold accEnter
  extract_lets x
  rw [if_pos ((Bool.or_eq_true ..).mpr nan)]
  rfl

theorem accEnter_inf (inf : (fp32 a).isInf = true) (number : t.isNan = false) (same : t.isInf = true → t.neg? = (fp32 a).neg?) :
    (accEnter a t).run fl = ((a, false), fl) := by
  have agree : ((fp32 a).isInf && t.isInf && (fp32 a).neg? != t.neg?) = false := by
    cases other : t.isInf with
    | false => rw [Bool.and_false, Bool.false_and]
    | true => rw [same other, bne_self_eq_false, Bool.and_false]
  unfold accEnter
  extract_lets x y
  rw [if_neg (by rw [Num.isNan_of_isInf inf, number]; exact Bool.false_ne_true), if_neg (by rw [agree]; exact Bool.false_ne_true), if_pos inf]
  rfl

theorem accEnter_inf_opposite (inf : (fp32 a).isInf = true) (other : t.isInf = true) (differ : t.neg? ≠ (fp32 a).neg?) :
    (accEnter a t).run fl = ((0x7FC0_0000, false), { fl with inv := true }) := by
  have clash : ((fp32 a).isInf && t.isInf && (fp32 a).neg? != t.neg?) = true := by
    rw [inf, other]
    exact bne_iff_ne.mpr differ.symm
  unfold accEnter
  extract_lets x y
  rw [if_neg (by rw [Num.isNan_of_isInf inf, Num.isNan_of_isInf other]; exact Bool.false_ne_true), if_pos clash]
  rfl

theorem Num.add_number {x t : Num} (first : x.isNan = false) (inf : x.isInf = false) (second : t.isNan = false) : (x.add t).isNan = false := by
  cases x with
  | nan => cases first
  | inf => cases inf
  | fin s n d e =>
    cases t with
    | nan => cases second
    | inf => rfl
    | fin u m c g =>
      rw [Num.add]
      split <;> rfl

/-- An infinite entry has the top exponent. -/
theorem normal32_of_inf (inf : (fp32 a).isInf = true) : Normal32 a.toNat := by
  intro none_
  have value : fp32 a = (decodedFloat 1 ⟨23, 8, 127⟩ ((a.toNat / 2 ^ (23 + 8)) % 2 == 1) (a.toNat / 2 ^ 23 % 2 ^ 8) (a.toNat % 2 ^ 23)).1 :=
    congrArg Prod.fst (decodeFloat_run 1 ⟨23, 8, 127⟩ a.toNat)
  have zero : a.toNat / 2 ^ 23 % 2 ^ 8 = 0 := none_
  rw [value, zero, decodedFloat, if_neg (by decide), if_neg fun six => absurd six.1 (by decide), if_pos rfl] at inf
  split at inf <;> cases inf

/-- No entry becomes a subnormal (R54). -/
theorem normal32_accEnter : Normal32 ((accEnter a t).run fl).1.1.toNat := by
  unfold accEnter
  extract_lets x y
  split
  next => exact normal32_nan
  next numbers =>
    obtain ⟨first, second⟩ := Bool.or_eq_false_iff.mp (Bool.eq_false_iff.mpr numbers)
    split
    next => exact normal32_nan
    next =>
      split
      next inf => exact normal32_of_inf inf
      next finite => exact normal32_toFp32 (Num.add_number first (Bool.eq_false_iff.mpr finite) second) fl

end

/-! ## Counts of the histogram (R74 to R77) -/

/-- The five places where an element is counted, as those that differ. -/
def Hist.changed (g h : Hist) : List Bool :=
  [decide (g.zero ≠ h.zero), decide (g.flushed ≠ h.flushed), decide (g.infs ≠ h.infs), decide (g.nans ≠ h.nans), decide (g.bins ≠ h.bins)]

/-- What counting one element leaves. -/
structure Hist.Counts (h g : Hist) : Prop where
  elements : g.elements = h.elements + 1
  one : (g.changed h |>.filter id).length ≤ 1
  tensor : g.tensor = h.tensor
  format : g.format = h.format
  flags : g.flags = h.flags

theorem Hist.counts_of {h g : Hist} {i : Nat} (changed : g.changed h = (List.replicate 5 false).set i ((g.changed h).getD i false)) (elements : g.elements = h.elements + 1)
    (tensor : g.tensor = h.tensor) (format : g.format = h.format) (flags : g.flags = h.flags) : h.Counts g := by
  refine ⟨elements, ?_, tensor, format, flags⟩
  rw [changed]
  generalize (g.changed h).getD i false = b
  match i with
  | 0 | 1 | 2 | 3 | 4 => cases b <;> decide
  | i + 5 => simp

theorem Hist.add_counts (h : Hist) (v : Num) (was : Bool) (code : Nat) : h.Counts (h.add v was code) := by
  unfold Hist.add
  extract_lets h'
  cases v with
  | nan => exact Hist.counts_of (i := 3) (by simp [Hist.changed, h']) rfl rfl rfl rfl
  | inf => exact Hist.counts_of (i := 2) (by simp [Hist.changed, h']) rfl rfl rfl rfl
  | fin s n d e =>
    dsimp -zeta only
    split
    next =>
      split
      next => exact Hist.counts_of (i := 1) (by simp [Hist.changed, h']) rfl rfl rfl rfl
      next => exact Hist.counts_of (i := 0) (by simp [Hist.changed, h']) rfl rfl rfl rfl
    next =>
      extract_lets _ r
      split
      next => exact Hist.counts_of (i := 1) (by simp [Hist.changed, h']) rfl rfl rfl rfl
      next => exact Hist.counts_of (i := 4) (by simp [Hist.changed, h']) rfl rfl rfl rfl

/-- Settles O56: a pattern that decodes without a flag is exact in its own unit and in range, so its encoding packs the same fields;
the products, the entries and the counts go by their cases. -/
theorem floatNumbersFollowTheirRules : Obligations.FloatNumbersFollowTheirRules := by
  refine ⟨fun code bits pos le lt container => ?formats, fun a b fl special => product_special fl special, fun a t fl => ?entries, fun h v was code => ?counts⟩
  case formats => exact roundTrips pos le lt container
  case entries => exact ⟨accEnter_nan fl, accEnter_inf fl, accEnter_inf_opposite fl, normal32_accEnter fl⟩
  case counts =>
    obtain ⟨elements, one, tensor, format, flags⟩ := h.add_counts v was code
    exact ⟨elements, one, tensor, format, flags⟩

end Sys2Proof.Machine
end

section
/-! PROOFS. The halt boundary (R243, R386): a command that waits for the halt, on a ring that a tag still names. -/
namespace Sys2Proof.Machine

/-! ## Declarations at a step's end -/

/-- A retired stone stays retired while another is retired. -/
theorem State.retireStone_keeps_retired {s : State} {q : Nat} (retired : (s.stone q).state = .retired) (p : Nat) :
    ((s.retireStone p).stone q).state = .retired := by
  by_cases same : q = p
  · rw [same]
    exact (s.stone_retireStone p).1
  · have images : State.Beside false s (s.abortImages p) := State.EndSteps.beside (fair := false) (s.endSteps_abortImages p)
    have ended : State.Beside false s (((s.abortImages p).ownersOn p).foldl (fun s x => s.endCommand x.1 x.2 .aborted) (s.abortImages p)) :=
      List.foldlRecOn (motive := State.Beside false s) _ _ images fun u known x _ => known.trans (u.beside_endCommand x.1 x.2 .aborted)
    have eq : s.retireStone p = (((((s.abortImages p).ownersOn p).foldl (fun s x => s.endCommand x.1 x.2 .aborted) (s.abortImages p)).setStone p
        (freshStone .retired none 0)).moveOn (((((s.abortImages p).ownersOn p).foldl (fun s x => s.endCommand x.1 x.2 .aborted)
          (s.abortImages p)).stone p).logical)).keep.log _ := rfl
    have still := ended.state q
    generalize (((s.abortImages p).ownersOn p).foldl (fun s x => s.endCommand x.1 x.2 .aborted) (s.abortImages p)) = t at eq still
    have here : ((t.setStone p (freshStone .retired none 0)).stone q).state = .retired := by
      rw [t.stone_setStone_ne p q _ same, still, retired]
    rw [eq, (State.recorded_keep_log _ _).stone q, State.stone_moveOn_of_other (by rw [here]; decide), here]

/-- Where a step ends without a retired stone, none has been retired at its end. -/
theorem State.settle_of_none_retired {s : State} (none_ : ∀ q, (s.settle.stone q).state ≠ .retired) : ∃ l, s.settle = { s with units := l } := by
  unfold State.settle at none_ ⊢
  extract_lets due t key at none_ ⊢
  generalize sortBy _ _ = l at none_ ⊢
  have keeps (l : List (Nat × UnitCount)) : ∀ u : State, (∃ q, (u.stone q).state = .retired) →
      ∃ q, ((l.foldl (fun s c => if (s.stone c.1).state = .active then s.retireStone c.1
        else if (s.stone c.1).state = .spare ∨ (s.stone c.1).state = .restorable then s.retireStone c.1 else s) u).stone q).state = .retired := by
    intro u ⟨q, retired⟩
    refine ⟨q, List.foldlRecOn (motive := fun u : State => (u.stone q).state = .retired) l _ retired fun u known c _ => ?_⟩
    split
    · exact State.retireStone_keeps_retired known c.1
    split
    · exact State.retireStone_keeps_retired known c.1
    · exact known
  refine ⟨t.units, ?_⟩
  show _ = t
  induction l with
  | nil => rfl
  | cons c l ih =>
    rw [List.foldl_cons] at none_ ⊢
    have stays (same : (if (t.stone c.1).state = .active then t.retireStone c.1
        else if (t.stone c.1).state = .spare ∨ (t.stone c.1).state = .restorable then t.retireStone c.1 else t) = t.retireStone c.1) : False := by
      rw [same] at none_
      obtain ⟨q, retired⟩ := keeps l (t.retireStone c.1) ⟨c.1, (t.stone_retireStone c.1).1⟩
      exact none_ q retired
    split at none_
    next active => exact (stays (if_pos active)).elim
    next other =>
      split at none_
      next spare => exact (stays ((if_neg other).trans (if_pos spare))).elim
      next neither =>
        rw [if_neg other, if_neg neither]
        exact ih none_

/-! ## The halt boundary -/

theorem State.sendTurn_of_no_ports {s : State} (none_ : s.leat.ports = []) : s.sendTurn = { s with leat := { s.leat with out := [] } } := by
  unfold State.sendTurn State.livePorts
  rw [none_]
  rfl

/-- A module in RUN that is to halt: ring 0 waits for the halt, and an unfinished contributor of a tag, to which another module
contributes, still names that ring. -/
def haltingState : State :=
  { leat := { state := .run, haltNext := true }
    fns := [(0, { sqs := [(0, { running := some { wait := .linkHalt } })] })]
    tags := [(0, { count := 2, parts := [{ remote := some (1, 0) }, { index := 1 }] })] }

/-- The same at its halt boundary, its link work aborted. -/
def abortedState : State :=
  let t := haltingState.countEdge
  State.abortLinkWork { t with leat := { t.leat with turn := 1, pulse := some false, state := .halt, haltAt := 1, haltNext := false } }

/-- The break of the tag has ended the command with BROKEN, which goes before OK. -/
theorem abortedState_fields : (abortedState.running 0 0).map (·.done) = some (some (.broken, 0)) ∧ abortedState.leat.ports = [] ∧
    abortedState.stones = [] ∧ abortedState.units = [] := ⟨rfl, rfl, rfl, rfl⟩

theorem State.debugPulse_gpio (s : State) : ∃ pins, s.debugPulse = { s with gpio := pins } := by
  refine List.foldlRecOn (motive := fun t : State => ∃ pins, t = { s with gpio := pins }) _ _ ⟨s.gpio, rfl⟩ fun t ⟨pins, known⟩ g _ => ?_
  rw [known]
  split
  · exact ⟨_, rfl⟩
  · exact ⟨_, rfl⟩

/-- What the record, the notice and what is sent leave at the halt boundary. -/
theorem haltingState_boundary : ∃ v : State, exec .turnBoundary haltingState = .next v.settle ∧
    v.running 0 0 = abortedState.running 0 0 ∧ v.stones = [] ∧ v.units = [] := by
  obtain ⟨_, noPorts, noStones, noUnits⟩ := abortedState_fields
  have boundary : ∃ (l : Leat) (r : LogRec), l.ports = [] ∧ exec .turnBoundary haltingState = .next (State.settle (State.sendTurn
      (State.notice (State.debugPulse { State.log { abortedState with leat := l } r with alert := true }) 0 .link))) :=
    ⟨{ abortedState.leat with ports := [], awaited := [], queued := [], out := [] }, _, rfl, rfl⟩
  generalize abortedState = a at *
  obtain ⟨l, r, ports, boundary⟩ := boundary
  refine ⟨_, boundary, ?_⟩
  obtain ⟨_, _, _, _, logged⟩ := State.logOnly_log { a with leat := l } r
  obtain ⟨pins, pulsed⟩ := State.debugPulse_gpio { State.log { a with leat := l } r with alert := true }
  have noticed := State.noticed_notice (State.debugPulse { State.log { a with leat := l } r with alert := true }) 0 .link
  rw [pulsed, logged] at noticed
  rw [pulsed, logged]
  have ran := congrArg SubRing.running (noticed.sq 0 0)
  obtain ⟨fns, msgs, rest⟩ := noticed.rest
  rw [rest] at ran ⊢
  rw [State.sendTurn_of_no_ports ports]
  exact ⟨ran, noStones, noUnits⟩

/-- Refutes O45: the last clause but one, on a state in which a tag with a contributor of another module names the ring that waits for
the halt. Its break ends the command with BROKEN, which goes before OK. -/
theorem not_turnBoundaryAdvancesTheLinks : ¬ Obligations.TurnBoundaryAdvancesTheLinks := by
  unfold Obligations.TurnBoundaryAdvancesTheLinks
  intro claim
  obtain ⟨v, boundary, ran, stones, units⟩ := haltingState_boundary
  obtain ⟨_, _, _, _, _, _, halt, _⟩ := claim haltingState
  obtain ⟨u, next, _, _, _, _, _, _, _, _, _, _, ends⟩ := halt rfl rfl
  obtain ⟨c', halted, done⟩ := (ends 0 0 { wait := .linkHalt } (by decide) rfl rfl).2 rfl
  have settled : v.settle = v := State.settle_of_none_due v fun c known => by rw [units] at known; cases known
  have same : u.settle = v := by
    rw [boundary, settled] at next
    exact (Host.Outcome.next.inj next).symm
  have working (q : Nat) : (stoneShipped q).state ≠ .retired := by
    unfold stoneShipped
    intro same
    split at same <;> cases same
  obtain ⟨l, same'⟩ := State.settle_of_none_retired (s := u) fun q => by
    rw [same, State.stone, stones]
    exact working q
  have here : v.running 0 0 = some c' := by
    rw [← same, same']
    exact halted
  have broken := abortedState_fields.1
  rw [← ran, here] at broken
  rw [Option.map_some, done] at broken
  exact absurd broken (by decide)

end Sys2Proof.Machine
end

section
/-! PROOFS. Combine tags (R181 to R187, R234): a COMBINE at its tag, chunks in and out of turn, a tag's time-outs. -/
namespace Sys2Proof.Machine

/-! ## A COMBINE at its tag (R183, R185, R187) -/

section
variable {s : State} {f : FnId} {r : RingIx} {c : Running} {i : Instr}

/-- A COMBINE into this module's memory that is fetched, or whose house is ready for its tag, goes to its tag. -/
theorem exec_enterTag (start : (i = .combine f r ∧ s.fresh f r .combine = some c ∧ (s.combineLeaves f c.desc).1 = false) ∨
      (i = .combineTagGranted f r ∧ s.running f r = some c ∧ c.wait = .tag ∧ c.done = none ∧
        opcodeOf c.desc.opcode = some .combine)) (alone : c.desc.ringEn = false) :
    exec i s = .next (s.enterTag f r c).settle ∧ s.running f r = some c ∧ c.done = none ∧
      s.failResult c.desc = (BitVec.ofNat 32 (ceilDiv c.desc.len 1024), s) := by
  rcases start with ⟨rfl, fresh, stays⟩ | ⟨rfl, runs, waits, going, opcode⟩
  · obtain ⟨runs, -, going, opcode, -⟩ := (s.fresh_iff f r .combine c).mp fresh
    refine ⟨?_, runs, going, by rw [State.failResult, opcode]⟩
    have here : s.combine f r c = s.enterTag f r c := by
      unfold State.combine
      extract_lets l
      have none_ : l.1 = false := stays
      rw [none_]
      rfl
    have runs_ : s.runCmd f r .combine (fun c => if c.desc.ringEn then s else s.combine f r c) = s.enterTag f r c := by
      rw [s.runCmd_of_fresh f r .combine _ c fresh, alone, here]
      exact if_neg Bool.false_ne_true
    exact congrArg (fun u : State => Host.Outcome.next u.settle) runs_
  · refine ⟨?_, runs, going, by rw [State.failResult, opcode]⟩
    have granted : s.tagGranted f r = s.enterTag f r c := by
      unfold State.tagGranted
      rw [runs]
      dsimp only
      rw [if_pos waits, alone]
      exact if_neg Bool.false_ne_true
    exact congrArg (fun u : State => Host.Outcome.next u.settle) granted

end

/-- The houses that a COMBINE adds to its tag. -/
def State.newHouses (s : State) (f : Nat) (d : Desc) : List Nat :=
  (s.tagHouses f d.dst10 d.len).filter fun h => !(s.tag (s.partOf f) d.tag).houses.contains h

/-- The contributor that a COMBINE is. -/
def Running.contributor (c : Running) (f r : Nat) : Contributor := { f := f, r := r, seq := c.seq, index := c.desc.index }

section
variable {s : State} {f r : Nat} {c : Running}

theorem State.room_iff : (!(s.newHouses f c.desc).any fun h => s.openTags h ≥ 256) = true ↔
    ∀ h ∈ s.newHouses f c.desc, s.openTags h < 256 := by
  rw [Bool.not_eq_true', List.any_eq_false]
  simp only [decide_eq_true_eq, Nat.not_le]

/-- The first COMBINE opens its tag with its own parameters and its chunks' places. -/
theorem State.enterTag_opens (free : (s.tag (s.partOf f) c.desc.tag).count = 0) (room : ∀ h ∈ s.newHouses f c.desc, s.openTags h < 256) :
    s.enterTag f r c = (s.setTag (s.partOf f) c.desc.tag
      { fmt := BitVec.ofNat 8 (c.desc.field 0x10 63 56), count := c.desc.count, arrival := c.desc.arrival, init := c.desc.init
        pa := s.combineBase f c.desc.dst10, fn := f, dst := BitVec.ofNat 48 c.desc.dst10, len := c.desc.len
        places := s.fixPlaces f c.desc.dst10 c.desc.len, houses := s.newHouses f c.desc, parts := [c.contributor f r] }).setRunning f r
        (some { c with wait := .combine 0 }) := by
  unfold State.enterTag
  extract_lets d p x base hs fixed room' wait
  have open_ : room' = true := State.room_iff.mpr room
  rw [if_neg (not_not_intro free), if_pos open_]
  rfl

theorem State.enterTag_waits (open_ : (s.tag (s.partOf f) c.desc.tag).count = 0 ∨ ((s.tag (s.partOf f) c.desc.tag).broken = false ∧
      (s.tag (s.partOf f) c.desc.tag).agrees c.desc (s.combineBase f c.desc.dst10) = true ∧ (s.tag (s.partOf f) c.desc.tag).len = 0))
    (crowded : ¬∀ h ∈ s.newHouses f c.desc, s.openTags h < 256) :
    s.enterTag f r c = s.setRunning f r (some { c with wait := .tag }) := by
  unfold State.enterTag
  extract_lets d p x base hs fixed room' wait
  have full : ¬room' = true := fun room => crowded (State.room_iff.mp room)
  by_cases free : x.count = 0
  · rw [if_neg (not_not_intro free), if_neg full]
  · obtain ⟨whole, agrees, len⟩ := open_.resolve_left free
    have agrees' : (!x.agrees d base) = false := by rw [show x.agrees d base = true from agrees]; rfl
    rw [if_pos free, if_neg (by rw [show x.broken = false from whole]; exact Bool.false_ne_true), if_neg (by rw [agrees']; exact Bool.false_ne_true),
      if_neg (not_not_intro len), if_neg full]

section
variable (taken : (s.tag (s.partOf f) c.desc.tag).count ≠ 0)
include taken

theorem State.enterTag_broken (broken : (s.tag (s.partOf f) c.desc.tag).broken = true) (runs : s.running f r = some c) :
    s.enterTag f r c = s.endedWith f r c .broken (BitVec.ofNat 32 (ceilDiv c.desc.len 1024)) := by
  unfold State.enterTag
  extract_lets d p x base hs fixed room' wait
  rw [if_pos taken, if_pos broken]
  exact s.finish_of_running f r c _ _ runs

variable (whole : (s.tag (s.partOf f) c.desc.tag).broken = false)
include whole

theorem State.enterTag_disagrees (other : (s.tag (s.partOf f) c.desc.tag).agrees c.desc (s.combineBase f c.desc.dst10) = false) :
    s.enterTag f r c = s.fail f r .state := by
  unfold State.enterTag
  extract_lets d p x base hs fixed room' wait
  have other' : (!x.agrees d base) = true := by rw [show x.agrees d base = false from other]; rfl
  rw [if_pos taken, if_neg (by rw [show x.broken = false from whole]; exact Bool.false_ne_true), if_pos other']

theorem State.enterTag_joins (agrees : (s.tag (s.partOf f) c.desc.tag).agrees c.desc (s.combineBase f c.desc.dst10) = true)
    (len : (s.tag (s.partOf f) c.desc.tag).len ≠ 0) : s.enterTag f r c = (s.setTag (s.partOf f) c.desc.tag
      { s.tag (s.partOf f) c.desc.tag with parts := (s.tag (s.partOf f) c.desc.tag).parts ++ [c.contributor f r] }).setRunning f r
        (some { c with wait := .combine 0 }) := by
  unfold State.enterTag
  extract_lets d p x base hs fixed room' wait
  have agrees' : (!x.agrees d base) = false := by rw [show x.agrees d base = true from agrees]; rfl
  rw [if_pos taken, if_neg (by rw [show x.broken = false from whole]; exact Bool.false_ne_true), if_neg (by rw [agrees']; exact Bool.false_ne_true),
    if_pos len]
  rfl

end
end

/-! ## A chunk that arrives (R181, R182) -/

theorem State.ByMemory.tags {kept : Bool} {s t : State} (by_ : State.ByMemory kept s t) : t.tags = s.tags := (congrArg State.tags by_.rest :)
theorem State.ByMemory.shape {kept : Bool} {s t : State} (by_ : State.ByMemory kept s t) : t.shape = s.shape := (congrArg State.shape by_.rest :)
theorem State.ByMemory.leat {kept : Bool} {s t : State} (by_ : State.ByMemory kept s t) : t.leat = s.leat := (congrArg State.leat by_.rest :)

theorem State.ByMemory.tag {kept : Bool} {s t : State} (by_ : State.ByMemory kept s t) (p k : Nat) : t.tag p k = s.tag p k := by
  rw [State.tag, State.tag, by_.tags]

theorem State.ByMemory.chunkHome {kept : Bool} {s t : State} (by_ : State.ByMemory kept s t) (p q : Nat) (pa : Option Nat) :
    t.chunkHome p q pa = s.chunkHome p q pa := by
  rw [State.chunkHome, State.chunkHome, by_.shape]

theorem readSV_leaves {a : Acc} {va n : Nat} {s : State} {x : Except Stop (List Byte)} {e : Eng} (reads : (readSV a va n).exec s = (x, e)) :
    State.ByMemory true s e.s := by
  have work := Run.ByMemory.exec (readSV_byMemory (kept := true) a va n) s
  rwa [reads] at work

/-- Both ends of a chunk's read: the ring sends on, and the chunk arrives at its home unit, or waits. -/
theorem exec_chunkArrive {s : State} {f : FnId} {r : RingIx} {c : Running} {q : Nat} {bs : List Byte} {e : Eng}
    (runs : s.running f r = some c) (waits : c.wait = .combine q) (more : q < ceilDiv c.desc.len 1024)
    (byTag : (s.tag (s.partOf f) c.desc.tag).byPlace = false)
    (stays : ∀ m pa, (s.tag (s.partOf f) c.desc.tag).places.getD q none ≠ some (.away m pa))
    (reads : (readSV (combineAcc f (s.chunkHome (s.partOf f) q (s.tagPlace (s.tag (s.partOf f) c.desc.tag) q)))
      ((c.desc.src18 + q * 1024) % 2 ^ 48) (min 1024 (c.desc.len - q * 1024))).exec s = (.ok bs, e)) :
    let sent := e.s.setRunning f r (some { c with wait := .combine (q + 1) })
    exec (.chunkArrive f r) s = .next (((sent.arrive (s.partOf f) c.desc.tag q (s.tagPlace (s.tag (s.partOf f) c.desc.tag) q) c.desc.index
      (s.sq f r).overshot none bs).getD (sent.setRunning f r (some c))).settle) := by
  intro sent
  have by_ := readSV_leaves reads
  have class_ : (sent.sq f r).overshot = (s.sq f r).overshot := by
    simp only [sent, State.setRunning]
    rw [State.sq_setSq, by_.sq]
  have arrived : s.chunkArrive f r = (sent.arrive (s.partOf f) c.desc.tag q (s.tagPlace (s.tag (s.partOf f) c.desc.tag) q) c.desc.index
      (s.sq f r).overshot none bs).getD (sent.setRunning f r (some c)) := by
    unfold State.chunkArrive
    rw [runs]
    dsimp -zeta only
    rw [waits]
    dsimp -zeta only
    extract_lets d p x away place home va y sent'
    have byTag' : x.byPlace = false := byTag
    have here : away = none := by
      simp only [away, byTag']
      match known : x.places.getD q none with
      | none | some (.here _ _) => rfl
      | some (.away m pa) => exact absurd known (stays m pa)
    have read : y = (.ok bs, e) := by
      simp only [y, byTag', Bool.false_and, Bool.false_eq_true, if_false, bind_pure]
      exact reads
    have sent_ : sent' = sent := by simp only [sent', read, sent]
    rw [if_neg (show ¬q ≥ chunksOf d.len from Nat.not_le.mpr more), here, sent_, class_, read]
    dsimp only
    cases sent.arrive p c.desc.tag q place c.desc.index (s.sq f r).overshot none bs <;> rfl
  exact congrArg (fun u : State => Host.Outcome.next u.settle) arrived

/-! ## A chunk out of turn (R182) -/

section
variable {s : State} {p t q i : Nat} {place : Option Nat} {shot : Bool} {bs : List Byte} (byTag : (s.tag p t).byPlace = false)
  (ordered : (s.tag p t).arrival = false)
include byTag ordered

theorem State.arrive_out_of_turn (early : Table.get 0 (s.tag p t).expected q ≠ i) : s.arrive p t q place i shot none bs =
    if s.slotFree (s.chunkHome p q place) shot = true then
      some ((s.setTag p t { s.tag p t with held := (s.tag p t).held ++
        [{ chunk := q, index := i, house := s.chunkHome p q place, overshot := shot, data := bs }] }).takeSlot (s.chunkHome p q place) shot)
    else none := by
  unfold State.arrive
  extract_lets x pa key home y
  have own : key = q := by simp only [key, CombineTag.key, show x.byPlace = false from byTag, Bool.false_eq_true, if_false]
  rw [own, if_pos]
  rw [show x.arrival = false from ordered, show Table.get 0 x.expected q = Table.get 0 (s.tag p t).expected q from rfl]
  exact bne_iff_ne.mpr early

omit ordered in
theorem State.addOne_of_ok {pa home : Nat} {e : Eng}
    (adds : (addChunk (s.tag p t) q i home pa ((s.tag p t).uncached q) ((s.tag p t).path q) bs).exec s = (.ok (), e)) :
    s.addOne p t q pa home i bs = (true, e.s.chunkAdded p t i q e.flags) := by
  unfold State.addOne
  extract_lets x key y
  have own : key = q := by simp only [key, CombineTag.key, show x.byPlace = false from byTag, Bool.false_eq_true, if_false]
  have done : y = (.ok (), e) := by
    simp only [y, own]
    exact adds
  rw [done, own]

/-- A chunk in turn, where nothing is held, is added. -/
theorem State.arrive_in_turn (turn : Table.get 0 (s.tag p t).expected q = i) (none_ : (s.tag p t).held = []) {e : Eng}
    (adds : (addChunk (s.tag p t) q i (s.chunkHome p q place) (place.getD 0) ((s.tag p t).uncached q) ((s.tag p t).path q) bs).exec s = (.ok (), e)) :
    s.arrive p t q place i shot none bs = some (e.s.chunkAdded p t i q e.flags) := by
  unfold State.arrive
  extract_lets x pa key home y
  have own : key = q := by simp only [key, CombineTag.key, show x.byPlace = false from byTag, Bool.false_eq_true, if_false]
  have added : y = (true, e.s.chunkAdded p t i q e.flags) := State.addOne_of_ok byTag adds
  have inTurn : (!x.arrival && Table.get 0 x.expected key != i) = false := by
    rw [own, show Table.get 0 x.expected q = i from turn, bne_self_eq_false, Bool.and_false]
  rw [if_neg (by rw [inTurn]; exact Bool.false_ne_true), added, show x.arrival = false from ordered, show x.held = [] from none_]
  rfl

end

theorem State.takeSlot_fields (s : State) (h : Nat) (shot : Bool) : (∀ f r, (s.takeSlot h shot).running f r = s.running f r) ∧
    (s.takeSlot h shot).tags = s.tags ∧ (s.takeSlot h shot).mem = s.mem ∧
    ((s.takeSlot h shot).house h).slotsUsed = (s.house h).slotsUsed + 1 := by
  have marks := State.marksOnly_evalWeir (s.setHouse h { s.house h with
    slotsUsed := (s.house h).slotsUsed + 1, slotsOver := (s.house h).slotsOver + b2n shot }) (.combineSlots (houseIx h))
  obtain ⟨_, _, _, _, house⟩ := marks.house h
  refine ⟨fun f r => marks.running f r, ?_, marks.sameContents.mem, ?_⟩
  · obtain ⟨_, _, _, _, rest⟩ := marks.rest
    have same := congrArg State.tags rest
    exact same
  · refine (congrArg HouseRegs.slotsUsed house).trans ?_
    rw [State.house_setHouse]

/-! ## A chunk that is added (R181, R184) -/

theorem combineBytes_byMemory {kept : Bool} (m : FM (List Byte)) : Run.ByMemory kept (withFlags m) := fun e => .refl e.s

theorem addChunk_byMemory (x : CombineTag) (key i home pa : Nat) (nc : Bool) (va : Option (Nat × Nat)) (bs : List Byte) :
    Run.ByMemory false (addChunk x key i home pa nc va bs) := by
  unfold addChunk
  extract_lets first
  split
  next fn va =>
    extract_lets a
    refine Run.byMemory_ite (writeV_local_byMemory _ _ _) (Run.byMemory_bind (readSV_byMemory _ _ _) fun old =>
      Run.byMemory_bind (combineBytes_byMemory _) fun v => writeV_local_byMemory _ _ _)
  next =>
    exact Run.byMemory_ite (Run.byMemory_modS fun u => u.byMemory_devStore nc pa bs) (Run.byMemory_bind (readStruct_byMemory _ _ _ _) fun old =>
      Run.byMemory_bind (combineBytes_byMemory _) fun v => Run.byMemory_modS fun u => u.byMemory_devStore nc pa v)

/-- The contributors of a tag once a chunk of contributor `i` has been added. -/
def CombineTag.withAdded (x : CombineTag) (i : Nat) : List Contributor :=
  x.parts.map fun k => if k.index = i then { k with added := k.added + 1 } else k

/-- The tag once a chunk in turn has been added. -/
def CombineTag.added (x : CombineTag) (i q : Nat) : CombineTag :=
  { x with expected := Table.put 0 x.expected q (i + 1), parts := x.withAdded i }

theorem CombineTag.by_added {x : CombineTag} {i : Nat} {k : Contributor} (named : x.by_ i = some k) (q : Nat) :
    (x.added i q).by_ i = some { k with added := k.added + 1 } := by
  have own : k.index = i := by simpa using List.find?_some named
  have same (k : Contributor) : ((if k.index = i then { k with added := k.added + 1 } else k).index == i) = (k.index == i) := by
    split <;> rfl
  have found : x.parts.find? (fun k => k.index == i) = some k := named
  unfold CombineTag.by_ CombineTag.added CombineTag.withAdded
  dsimp only
  rw [List.find?_map]
  have : (fun k => k.index == i) ∘ (fun k : Contributor => if k.index = i then { k with added := k.added + 1 } else k) = fun k => k.index == i :=
    funext same
  rw [this, found, Option.map_some, if_pos own]

theorem State.tags_modRunning (s : State) (f r : Nat) (g : Running → Running) : (s.modRunning f r g).tags = s.tags := by
  unfold State.modRunning
  split <;> rfl

theorem CombineTag.full_of_len {x : CombineTag} (len : x.len ≠ 0) : x.full = (x.finished.length == x.count) := if_neg len

section
variable {s : State} {p t i q : Nat} {k : Contributor} (fl : Flags) (ordered : (s.tag p t).arrival = false)
  (named : (s.tag p t).by_ i = some k) (here : k.remote = none)

include ordered named here

/-- A chunk in turn of a contributor of this module: the tag, the flags, and after its last chunk the contributor's end. -/
theorem State.chunkAdded_in_turn :
    let x := (s.tag p t).added i q
    let last : Bool := x.len != 0 && k.added + 1 == chunksOf x.len
    let marked := (s.setTag p t (if last then { x with finished := x.finished ++ [i] } else x)).addFlags k.f k.r fl
    s.chunkAdded p t i q fl =
      (if last then marked.endPartial { k with added := k.added + 1 } (chunksOf x.len) else marked).freeIfFull p t := by
  intro _ last marked
  unfold State.chunkAdded
  extract_lets x x' n
  have added : x' = (s.tag p t).added i q := by
    have next : (if x.arrival then Table.get 0 x.expected q + 1 else i + 1) = i + 1 :=
      if_neg (by rw [show x.arrival = false from ordered]; exact Bool.false_ne_true)
    exact congrArg (fun n => { x with expected := Table.put 0 x.expected q n, parts := x.withAdded i }) next
  have chunks : n = chunksOf ((s.tag p t).added i q).len := rfl
  rw [added, CombineTag.by_added named, chunks]
  dsimp -zeta only
  extract_lets ends x2 s2 s3 s4
  have local_ : s4 = if ends = true then s3.endPartial { k with added := k.added + 1 } (chunksOf ((s.tag p t).added i q).len) else s3 :=
    if_neg (by rw [here]; exact Bool.false_ne_true)
  rw [local_]

/-- A chunk before the contributor's last. -/
theorem State.chunkAdded_before_last (more : k.added + 1 < ceilDiv (s.tag p t).len 1024) (others : (s.tag p t).finished.length < (s.tag p t).count) :
    s.chunkAdded p t i q fl = (s.setTag p t ((s.tag p t).added i q)).addFlags k.f k.r fl := by
  have long : (s.tag p t).len ≠ 0 := fun none_ => by rw [none_] at more; exact absurd more (Nat.not_lt_zero _)
  have notLast : (((s.tag p t).added i q).len != 0 && k.added + 1 == chunksOf ((s.tag p t).added i q).len) = false := by
    rw [Bool.and_eq_false_iff]
    exact .inr (beq_eq_false_iff_ne.mpr (Nat.ne_of_lt more))
  have tag : ((s.setTag p t ((s.tag p t).added i q)).addFlags k.f k.r fl).tag p t = (s.tag p t).added i q := by
    rw [State.tag, State.addFlags, State.tags_modRunning]
    exact s.tag_setTag p t _
  rw [State.chunkAdded_in_turn fl ordered named here, notLast]
  have open_ : ((s.tag p t).added i q).full = false :=
    (CombineTag.full_of_len (x := (s.tag p t).added i q) long).trans (beq_eq_false_iff_ne.mpr (Nat.ne_of_lt others))
  rw [if_neg Bool.false_ne_true, if_neg Bool.false_ne_true, State.freeIfFull, tag, open_]
  exact if_neg Bool.false_ne_true

/-- The last chunk of a tag's last contributor frees the tag; the contributor's command ends. -/
theorem State.chunkAdded_last (last : k.added + 1 = ceilDiv (s.tag p t).len 1024) (len : (s.tag p t).len ≠ 0)
    (alone : (s.tag p t).finished.length + 1 = (s.tag p t).count) :
    ∃ x, s.chunkAdded p t i q fl =
      ((((s.setTag p t x).addFlags k.f k.r fl).endPartial { k with added := k.added + 1 } (ceilDiv (s.tag p t).len 1024))).freeIfFull p t ∧
      x.full = true := by
  have isLast : (((s.tag p t).added i q).len != 0 && k.added + 1 == chunksOf ((s.tag p t).added i q).len) = true := by
    rw [Bool.and_eq_true]
    exact ⟨bne_iff_ne.mpr len, beq_iff_eq.mpr last⟩
  refine ⟨{ (s.tag p t).added i q with finished := (s.tag p t).finished ++ [i] }, ?_, ?_⟩
  · rw [State.chunkAdded_in_turn fl ordered named here, isLast]
    rfl
  · refine (CombineTag.full_of_len (x := { (s.tag p t).added i q with finished := (s.tag p t).finished ++ [i] }) len).trans (beq_iff_eq.mpr ?_)
    rw [List.length_append]
    exact alone

end

/-! ## The chunk of a tag of one contributor (R180, R181, R184) -/

theorem State.sendAll_of_none {s : State} (none_ : s.leat.queued = []) : s.sendAll = s := by
  rw [State.sendAll, none_]
  rfl

/-- A command that owes no acknowledgement. -/
def State.OwesNothing (s : State) (f r : Nat) (cmd : Word32) : Prop :=
  s.leat.queued = [] ∧ ∀ a ∈ s.leat.awaited, ¬(a.f = f ∧ a.r = r ∧ a.cmd = cmd)

theorem State.OwesNothing.owedAcks {s : State} {f r : Nat} {cmd : Word32} (owes : s.OwesNothing f r cmd) : s.owedAcks f r cmd = 0 := by
  have none_ : s.leat.awaited.filter (fun a => a.f == f && a.r == r && a.cmd == cmd) = [] := by
    refine List.filter_eq_nil_iff.mpr fun a mem known => owes.2 a mem ?_
    simpa only [Bool.and_eq_true, beq_iff_eq, and_assoc] using known
  rw [State.owedAcks, none_, owes.1]
  rfl

/-- A command that owes no acknowledgement completes at once. -/
theorem State.finishAcked_of_owesNothing {s : State} {f r : Nat} {c : Running} (runs : s.running f r = some c) (owes : s.OwesNothing f r c.seq)
    (st : Status) (res : Word32) (recs : List (Nat × List Byte)) : s.finishAcked f r st res recs = s.finishWith f r st res recs := by
  unfold State.finishAcked
  extract_lets u
  have same : u = s := State.sendAll_of_none owes.1
  rw [same, runs]
  dsimp only
  rw [if_pos owes.owedAcks]

theorem FM.forall_mapM {α β : Type} {P : β → Prop} (f : α → FM β) (each : ∀ a fl, P ((f a).run fl).1) (l : List α) :
    ∀ fl, ∀ x ∈ ((l.mapM f).run fl).1, P x := by
  induction l with
  | nil => exact fun _ _ mem => nomatch mem
  | cons a l ih =>
    intro fl x mem
    rw [List.mapM_cons, StateT.run_bind] at mem
    rcases List.mem_cons.mp mem with here | rest
    · exact here ▸ each a fl
    · exact ih _ x rest

theorem length_flatten_of_all {α : Type} {z : Nat} (l : List (List α)) (each : ∀ x ∈ l, x.length = z) : l.flatten.length = l.length * z := by
  rw [List.length_flatten, List.map_congr_left each, List.map_const', List.sum_replicate, smul_eq_mul]

/-- The sum of two runs of whole elements has as many bytes. -/
theorem length_combineBytes (fmt : BitVec 8) (old new : List Byte) (fl : Flags) (whole : new.length % combineSize fmt = 0) :
    ((combineBytes fmt old new).run fl).1.length = new.length := by
  unfold combineBytes
  extract_lets z
  rw [FM.bind_run]
  generalize known : StateT.run (List.mapM (m := FM) _ _) fl = parts
  have count : parts.1.length = new.length / z := by
    rw [← known, FM.length_mapM, List.length_range]
  have each : ∀ x ∈ parts.1, x.length = z := by
    rw [← known]
    exact FM.forall_mapM _ (fun i fl => length_natLe _ _) _ fl
  refine (length_flatten_of_all parts.1 each).trans ?_
  rw [count]
  exact Nat.div_mul_cancel (Nat.dvd_of_mod_eq_zero whole)

/-- A chunk that INIT says to write is its own; another is added to what stands in memory. -/
def CombineTag.combined (x : CombineTag) (old new : List Byte) : List Byte × Flags :=
  if x.init = true then (new, {}) else (combineBytes x.fmt old new).run {}

/-- The addition of the first contributor's chunk to its place in device memory. -/
theorem addChunk_placed {s : State} {x : CombineTag} {q home pa : Nat} {nc : Bool} {bs : List Byte} (clean : s.ecc = [])
    (ordered : x.arrival = false) : ∃ e, (addChunk x q 0 home pa nc none bs).exec s = (.ok (), e) ∧
      e.s = s.devStore nc pa (x.combined (s.mem.readN pa bs.length) bs).1 ∧ e.flags = (x.combined (s.mem.readN pa bs.length) bs).2 := by
  have stays (bs : List Byte) : (s.devStore nc pa bs).ecc = [] := (State.stored_devStore clean nc pa bs).ecc
  unfold addChunk CombineTag.combined
  extract_lets first
  have first_ : first = x.init := by
    simp only [first, ordered, Bool.false_eq_true, if_false, beq_self_eq_true, Bool.and_true]
  dsimp only
  rw [first_]
  cases init : x.init with
  | true =>
    rw [if_pos rfl, if_pos rfl]
    refine ⟨{ s := s.devStore nc pa bs }, ?_, rfl, rfl⟩
    exact congrArg (Prod.mk _) (Eng.clearWritten_of_clean (e := { s := s.devStore nc pa bs }) (stays bs))
  | false =>
    rw [if_neg Bool.false_ne_true, if_neg Bool.false_ne_true]
    generalize out : (combineBytes x.fmt (s.mem.readN pa bs.length) bs).run {} = y
    refine ⟨{ s := s.devStore nc pa y.1, flags := y.2 }, ?_, rfl, rfl⟩
    have sums : (withFlags (combineBytes x.fmt (s.mem.readN pa bs.length) bs)).run.run { s := s } = (.ok y.1, { s := s, flags := y.2 }) := by
      rw [← out]
      rfl
    rw [Run.exec, Run.bind_of_ok (readStruct_of_clean (combineAcc 0 home) 0 pa bs.length { s := s } clean), Run.bind_of_ok sums]
    exact congrArg (Prod.mk _) (Eng.clearWritten_of_clean (e := { s := s.devStore nc pa y.1, flags := y.2 }) (stays y.1))

/-! ## Time-outs of a tag (R185) -/

/-- A command that `n` chunks' time-out has ended, or that still runs. -/
def Running.TimedOut (c : Running) (n : Word32) (ended : Bool) : Prop :=
  c.sideEnd = none ∧ ((ended = false ∧ c.done = none) ∨ c.done = some (.timeout, n))

theorem Running.TimedOut.finish {c : Running} {n : Word32} {ended : Bool} (known : c.TimedOut n ended) (at_ : Nat) :
    Running.TimedOut { c with done := mergeEnd c.done (c.statusOf .timeout) n, wait := .none, doneAt := at_ } n true := by
  obtain ⟨good, state⟩ := known
  have status : c.statusOf .timeout = .timeout := by rw [Running.statusOf, good]
  refine ⟨good, .inr ?_⟩
  dsimp only
  rw [status]
  rcases state with ⟨-, going⟩ | ends
  · rw [going]
    rfl
  · rw [ends]
    rfl

theorem State.timedOut_finish {s : State} {f r : Nat} {c : Running} {n : Word32} {ended : Bool} (runs : s.running f r = some c)
    (known : c.TimedOut n ended) (g q : Nat) : ∃ c' e, (s.finish g q .timeout n).running f r = some c' ∧ c'.TimedOut n e ∧
      (ended = true → e = true) ∧ (g = f → q = r → e = true) := by
  by_cases here : g = f ∧ q = r
  · obtain ⟨rfl, rfl⟩ := here
    refine ⟨_, true, ?_, known.finish s.ends, fun _ => rfl, fun _ _ => rfl⟩
    rw [s.finish_of_running g q c _ _ runs]
    exact s.ended.running_setRunning g q _
  · refine ⟨c, ended, ?_, known, id, fun one two => absurd ⟨one, two⟩ here⟩
    rw [State.finish, State.modRunning]
    split
    · rw [State.running_setRunning_ne]
      · exact runs
      · exact (not_and_or.mp here).imp (fun other same => other same.symm) fun other same => other same.symm
    · exact runs

/-- The end of the contributors of a tag that breaks with TIMEOUT. -/
def State.timeOutParts (s : State) (x : CombineTag) (n : Word32) (l : List Contributor) : State :=
  l.foldl (fun s k => if k.remote.isSome || x.finished.contains k.index || (none : Option (Nat × Nat)) = some (k.f, k.r) then s
    else s.finish k.f k.r .timeout n) s

theorem State.timedOut_timeOutParts {f r : Nat} {n : Word32} (x : CombineTag) (l : List Contributor) : ∀ {s : State} {c : Running} {ended : Bool},
    s.running f r = some c → c.TimedOut n ended →
    ∃ c' e, (s.timeOutParts x n l).running f r = some c' ∧ c'.TimedOut n e ∧ (ended = true → e = true) ∧
      ((∃ k ∈ l, k.remote = none ∧ k.index ∉ x.finished ∧ k.f = f ∧ k.r = r) → e = true) := by
  induction l with
  | nil => exact fun {s c ended} runs known => ⟨c, ended, runs, known, id, fun ⟨k, mem, _⟩ => nomatch mem⟩
  | cons k l ih =>
    intro s c ended runs known
    rw [State.timeOutParts, List.foldl_cons]
    by_cases skipped : (k.remote.isSome || x.finished.contains k.index || decide ((none : Option (Nat × Nat)) = some (k.f, k.r))) = true
    · rw [if_pos skipped]
      obtain ⟨c', e, runs', known', stays, ends⟩ := ih runs known
      refine ⟨c', e, runs', known', stays, fun ⟨j, mem, own, open_, ring⟩ => ends ⟨j, ?_, own, open_, ring⟩⟩
      rcases List.mem_cons.mp mem with same | rest
      · rw [same] at own open_
        simp [own, open_] at skipped
      · exact rest
    · rw [if_neg skipped]
      obtain ⟨c1, e1, runs1, known1, stays1, ends1⟩ := State.timedOut_finish runs known k.f k.r
      obtain ⟨c', e, runs', known', stays, ends⟩ := ih runs1 known1
      refine ⟨c', e, runs', known', stays ∘ stays1, fun ⟨j, mem, own, open_, ringF, ringR⟩ => ?_⟩
      rcases List.mem_cons.mp mem with same | rest
      · rw [same] at ringF ringR
        exact stays (ends1 ringF ringR)
      · exact ends ⟨j, rest, own, open_, ringF, ringR⟩

/-- The break of a tag that waited past the time-out. -/
theorem State.breakTag_timeout {s : State} {p t : Nat} (taken : (s.tag p t).count ≠ 0) (whole : (s.tag p t).broken = false) :
    ∃ u : State, (∀ f r, u.running f r = s.running f r) ∧ s.breakTag p t .timeout none =
      (u.setTag p t { s.tag p t with broken := true, held := [] }).timeOutParts (s.tag p t) (BitVec.ofNat 32 (ceilDiv (s.tag p t).len 1024))
        (s.tag p t).parts := by
  have free : (decide ((s.tag p t).count = 0) || (s.tag p t).broken) = false := by rw [whole, Bool.or_false]; exact decide_eq_false taken
  unfold State.breakTag
  extract_lets x freed acked broken
  rw [if_neg (by rw [show (decide (x.count = 0) || x.broken) = false from free]; exact Bool.false_ne_true)]
  refine ⟨acked, fun f r => ?_, rfl⟩
  have freeing : ∀ f r, freed.running f r = s.running f r :=
    List.foldlRecOn (motive := fun u : State => ∀ f r, u.running f r = s.running f r) _ _ (fun _ _ => rfl) fun u known h _ f r =>
      ((State.marksOnly_evalWeir _ (.combineSlots (houseIx h.house))).running f r).trans (known f r)
  have acking : acked.fns = freed.fns :=
    List.foldlRecOn (motive := fun u : State => u.fns = freed.fns) _ _ rfl fun u known k _ =>
      (State.fns_of_pages (u.pushPacket_pages _)).trans known
  rw [← freeing f r, State.running, State.running, State.sq, State.sq, State.fn, State.fn, acking]

theorem State.tags_timeOutParts (s : State) (x : CombineTag) (n : Word32) (l : List Contributor) : (s.timeOutParts x n l).tags = s.tags := by
  refine List.foldlRecOn (motive := fun u : State => u.tags = s.tags) _ _ rfl fun u known k _ => ?_
  split
  · exact known
  · exact (State.tags_modRunning _ _ _ _).trans known

theorem State.running_addFlags {s : State} {f r : Nat} {c : Running} (runs : s.running f r = some c) (fl : Flags) :
    (s.addFlags f r fl).running f r = some { c with flags := c.flags.or fl } := by
  rw [State.addFlags, s.modRunning_of_running runs]
  exact s.running_setRunning f r _

/-- A contributor that owes no acknowledgement ends with its flags. -/
theorem State.endPartial_of_owesNothing {s : State} {k : Contributor} {c : Running} (runs : s.running k.f k.r = some c)
    (owes : s.OwesNothing k.f k.r c.seq) (n : Nat) : s.endPartial k n = s.endedWith k.f k.r c c.flags.status (BitVec.ofNat 32 n) := by
  rw [State.endPartial, runs]
  dsimp only
  rw [State.finishAcked_of_owesNothing runs owes]
  exact s.finish_of_running k.f k.r c _ _ runs

/-- The module once the only contributor of a tag has ended and the tag is free. -/
theorem State.freed_fields (s : State) (p k f r : Nat) (y : CombineTag) (c : Running) (st : Status) :
    let u := (((s.setTag p k y).setRunning f r (some c)).endedWith f r c st 1#32).setTag p k {}
    u.mem = s.mem ∧ u.hostMem = s.hostMem ∧ u.tag p k = {} ∧
      (u.sq f r).running = some { c with done := mergeEnd c.done (c.statusOf st) 1#32, wait := .none, doneAt := s.ends } := by
  have ended (t : State) : let u := t.endedWith f r c st 1#32
      u.mem = t.mem ∧ u.hostMem = t.hostMem ∧
        (u.sq f r).running = some { c with done := mergeEnd c.done (c.statusOf st) 1#32, wait := .none, doneAt := t.ends } :=
    ⟨rfl, rfl, t.ended.running_setRunning f r _⟩
  have freed (t : State) : (t.setTag p k {}).mem = t.mem ∧ (t.setTag p k {}).hostMem = t.hostMem ∧ (t.setTag p k {}).sq f r = t.sq f r :=
    ⟨rfl, rfl, rfl⟩
  intro u
  obtain ⟨mem, host, ring⟩ := freed (((s.setTag p k y).setRunning f r (some c)).endedWith f r c st 1#32)
  obtain ⟨mem', host', run⟩ := ended ((s.setTag p k y).setRunning f r (some c))
  exact ⟨mem.trans mem', host.trans host', State.tag_setTag _ p k {}, (congrArg SubRing.running ring).trans run⟩

/-- Settles O41: each step of a tag by the cases of its procedure. -/
theorem combineTagsFollowTheirRules : Obligations.CombineTagsFollowTheirRules := by
  refine ⟨fun s f r c i start alone => ?enters, fun s f r c q bs e runs waits more => ?arrives, fun s f r c x pa pb nc => ?only,
    fun s p t => ?expires⟩
  case enters =>
    obtain ⟨goes, runs, going, result⟩ := exec_enterTag start alone
    intro d p x n hs room me
    rw [goes]
    refine ⟨fun free rooms => ⟨_, congrArg (fun u : State => Host.Outcome.next u.settle) (State.enterTag_opens free rooms), ?_, rfl, ?_⟩,
      fun open_ crowded => congrArg (fun u : State => Host.Outcome.next u.settle) (State.enterTag_waits open_ crowded),
      fun taken broken => congrArg (fun u : State => Host.Outcome.next u.settle) (State.enterTag_broken taken broken runs),
      fun taken whole other => congrArg (fun u : State => Host.Outcome.next u.settle)
        ((State.enterTag_disagrees taken whole other).trans (s.fail_of_running f r .state _ runs result)),
      fun taken whole agrees len => congrArg (fun u : State => Host.Outcome.next u.settle) (State.enterTag_joins taken whole agrees len)⟩
    · exact State.running_setRunning _ f r _
    · intro y
      have tag : y = _ := s.tag_setTag p d.tag _
      rw [tag]
      exact ⟨rfl, rfl, rfl, rfl, rfl, rfl, rfl, rfl, rfl, rfl, rfl, rfl, rfl, rfl⟩
  case arrives =>
    intro d p x place home byTag taken ordered stays reads
    have by_ := readSV_leaves reads
    have goes := exec_chunkArrive runs waits more byTag stays reads
    dsimp only at goes
    have ring := e.s.running_setRunning f r (some { c with wait := .combine (q + 1) })
    have tag : (e.s.setRunning f r (some { c with wait := .combine (q + 1) })).tag p d.tag = x := by_.tag p d.tag
    have tags : (e.s.setRunning f r (some { c with wait := .combine (q + 1) })).tags = s.tags := by_.tags
    have mem : (e.s.setRunning f r (some { c with wait := .combine (q + 1) })).mem = s.mem := (by_.memories rfl).1
    have unit : (e.s.setRunning f r (some { c with wait := .combine (q + 1) })).chunkHome p q place = home := by_.chunkHome p q place
    have slots : (((e.s.setRunning f r (some { c with wait := .combine (q + 1) })).house home).slotsUsed) = (s.house home).slotsUsed := by
      obtain ⟨_, house⟩ := by_.house home
      have same : (e.s.house home).slotsUsed = (s.house home).slotsUsed := by rw [house]
      exact same
    generalize sent_ : e.s.setRunning f r (some { c with wait := .combine (q + 1) }) = sent at *
    refine ⟨fun early => ?_, fun k e' turn none_ named own more' others adds => ?_⟩
    · have arrives := State.arrive_out_of_turn (s := sent) (place := place) (shot := (s.sq f r).overshot) (bs := bs)
        (by rw [tag]; exact byTag) (by rw [tag]; exact ordered) (by rw [tag]; exact early)
      rw [unit, tag] at arrives
      refine ⟨fun free => ?_, fun full => ?_⟩
      · have free' : sent.slotFree home (s.sq f r).overshot = true := by rw [← sent_]; exact free
        rw [arrives, if_pos free', Option.getD_some] at goes
        obtain ⟨rings, tags', mem', used⟩ := State.takeSlot_fields (sent.setTag p d.tag { x with held := x.held ++
          [{ chunk := q, index := d.index, house := home, overshot := (s.sq f r).overshot, data := bs }] }) home (s.sq f r).overshot
        refine ⟨_, goes, (rings f r).trans ring, ?_, used.trans (congrArg (· + 1) slots), mem'.trans mem⟩
        rw [State.tag, tags']
        exact congrArg CombineTag.held (sent.tag_setTag p d.tag _)
      · have full' : ¬sent.slotFree home (s.sq f r).overshot = true := by rw [← sent_, Bool.not_eq_true]; exact full
        rw [arrives, if_neg full', Option.getD_none] at goes
        exact ⟨_, goes, sent.running_setRunning f r _, tags, mem⟩
    · have adds' : (addChunk (sent.tag p d.tag) q d.index (sent.chunkHome p q place) (place.getD 0) ((sent.tag p d.tag).uncached q)
          ((sent.tag p d.tag).path q) bs).exec sent = (.ok (), e') := by rw [tag, unit]; exact adds
      have arrives := State.arrive_in_turn (shot := (s.sq f r).overshot) (by rw [tag]; exact byTag) (by rw [tag]; exact ordered)
        (by rw [tag]; exact turn) (by rw [tag]; exact none_) adds'
      have work := (addChunk_byMemory x q d.index home (place.getD 0) (x.uncached q) (x.path q) bs).exec sent
      rw [adds] at work
      have tag' : e'.s.tag p d.tag = x := (work.tag p d.tag).trans tag
      have added := State.chunkAdded_before_last (s := e'.s) (p := p) (t := d.tag) (i := d.index) (q := q) e'.flags (by rw [tag']; exact ordered)
        (by rw [tag']; exact named) own (by rw [tag']; exact more') (by rw [tag']; exact others)
      rw [arrives, Option.getD_some] at goes
      refine ⟨_, goes, ?_, ?_, ?_⟩
      · rw [added, tag', State.tag, State.addFlags, State.tags_modRunning]
        refine (congrArg (fun x : CombineTag => Table.get 0 x.expected q) (e'.s.tag_setTag p d.tag _)).trans ?_
        exact Table.get_put _ _ _ _
      · rw [added]
        exact (State.modRunning_fields _ _ _ _).1
      · rw [added]
        exact (State.modRunning_fields _ _ _ _).2.1
  case only =>
    intro d p me runs waits going clean queued awaited tag count parts index finished held expected ordered byTag whole len places pos short whole_
      reach new out
    have one : ceilDiv d.len 1024 = 1 := by unfold ceilDiv; omega
    have lenX : x.len ≠ 0 := by rw [len]; omega
    have place : s.tagPlace x 0 = some pa := by rw [State.tagPlace, places]; rfl
    have piece : min 1024 (d.len - 0 * 1024) = d.len := by omega
    have reads : (readSV (combineAcc f (s.chunkHome p 0 (s.tagPlace x 0))) ((d.src18 + 0 * 1024) % 2 ^ 48) (min 1024 (d.len - 0 * 1024))).exec s =
        (.ok new, { s := s }) := by
      rw [place, piece, Nat.zero_mul, Nat.add_zero, Nat.mod_eq_of_lt (show d.src18 < 2 ^ 48 from Desc.addr_lt d 0x18)]
      exact Run.exec_of_run clean (readSV_of_reaches clean reach rfl)
    have goes := exec_chunkArrive runs waits (by rw [one]; exact Nat.one_pos) (by rw [tag]; exact byTag)
      (by rw [tag, places]; exact fun m pa known => nomatch Option.some.inj known) (by rw [tag]; exact reads)
    dsimp only at goes
    have tagSent : (s.setRunning f r (some { c with wait := .combine (0 + 1) })).tag p d.tag = x := tag
    have ringSent := s.running_setRunning f r (some { c with wait := .combine (0 + 1) })
    generalize sent_ : s.setRunning f r (some { c with wait := .combine (0 + 1) }) = sent at *
    have cleanSent : sent.ecc = [] := by rw [← sent_]; exact clean
    have lenNew : new.length = d.len := Memory.length_readN _ _ _
    obtain ⟨e, adds, at_, flags⟩ := addChunk_placed (s := sent) (x := x) (q := 0) (home := sent.chunkHome p 0 (some pa)) (pa := pa) (nc := nc)
      (bs := new) cleanSent ordered
    have out_ : x.combined (sent.mem.readN pa new.length) new = out := by
      rw [← sent_, lenNew]
      rfl
    rw [out_] at at_ flags
    have path : x.path 0 = none := by rw [CombineTag.path, byTag, places]; rfl
    have uncached : x.uncached 0 = nc := by rw [CombineTag.uncached, byTag, places]; rfl
    have arrives := State.arrive_in_turn (s := sent) (p := p) (t := d.tag) (q := 0) (i := 0) (place := some pa) (shot := (s.sq f r).overshot) (bs := new)
      (by rw [tagSent]; exact byTag) (by rw [tagSent]; exact ordered) (by rw [tagSent, expected]; rfl) (by rw [tagSent]; exact held)
      (by rw [tagSent, path, uncached]; exact adds)
    rw [tag, place, index, arrives, Option.getD_some] at goes
    have stored := State.stored_devStore cleanSent nc pa out.1
    rw [← at_] at stored
    have tagE : e.s.tag p d.tag = x := (stored.engine.tag p d.tag).trans tagSent
    have named : x.by_ 0 = some me := by rw [CombineTag.by_, parts]; rfl
    obtain ⟨y, added, full⟩ := State.chunkAdded_last (s := e.s) (p := p) (t := d.tag) (i := 0) (q := 0) e.flags (by rw [tagE]; exact ordered)
      (by rw [tagE]; exact named) rfl (by rw [tagE, len, one]) (by rw [tagE]; exact lenX) (by rw [tagE, finished, count]; rfl)
    rw [tagE, len, one, flags] at added
    have ringE := (stored.engine.running f r).trans ringSent
    have marked : (e.s.setTag p d.tag y).addFlags f r out.2 = (e.s.setTag p d.tag y).setRunning f r
        (some { c with wait := .combine (0 + 1), flags := c.flags.or out.2 }) := State.modRunning_of_running (e.s.setTag p d.tag y) ringE _
    have leat : e.s.leat = s.leat := stored.engine.leat.trans (by rw [← sent_]; rfl)
    have owes : ((e.s.setTag p d.tag y).setRunning f r (some { c with wait := .combine (0 + 1), flags := c.flags.or out.2 })).OwesNothing f r c.seq := by
      unfold State.OwesNothing
      show e.s.leat.queued = [] ∧ ∀ a ∈ e.s.leat.awaited, _
      rw [leat]
      exact ⟨queued, awaited⟩
    have ended := State.endPartial_of_owesNothing (k := { me with added := 0 + 1 }) (State.running_setRunning _ f r _) owes 1
    have ends : e.s.ends = s.ends := stored.engine.ends.trans (by rw [← sent_]; rfl)
    have host : e.s.hostMem = s.hostMem := stored.host.trans (by rw [← sent_]; rfl)
    have memSent : sent.mem = s.mem := by rw [← sent_]; rfl
    have lenOut : out.1.length = d.len := by
      simp only [out]
      split
      · exact lenNew
      · exact (length_combineBytes _ _ _ _ (by rw [lenNew]; exact whole_)).trans lenNew
    have bytes := stored.bytes
    have others := stored.others
    rw [lenOut] at bytes others
    rw [memSent] at others
    rw [marked] at added
    rw [flags, added, ended] at goes
    generalize (Flags.or c.flags out.2).status = st at *
    have freed (t : State) (k : Running) (known : t.tag p d.tag = y) : (t.endedWith f r k st 1#32).freeIfFull p d.tag =
        (t.endedWith f r k st 1#32).setTag p d.tag {} := by
      have known' : (t.endedWith f r k st 1#32).tag p d.tag = y := known
      rw [State.freeIfFull, known', if_pos full]
    have tagM (k : Option Running) : ((e.s.setTag p d.tag y).setRunning f r k).tag p d.tag = y := e.s.tag_setTag p d.tag y
    rw [freed _ _ (tagM _)] at goes
    obtain ⟨memU, hostU, tagU, runU⟩ := State.freed_fields e.s p d.tag f r y { c with wait := .combine (0 + 1), flags := c.flags.or out.2 } st
    generalize State.setTag _ p d.tag {} = u at goes memU hostU tagU runU
    rw [going, ends] at runU
    exact ⟨u, goes, by rw [memU]; exact bytes, by rw [memU]; exact others, hostU.trans host, tagU, runU⟩
  case expires =>
    intro x
    refine ⟨fun taken whole => ?_, fun over_ => ?_, rfl⟩
    · obtain ⟨u, same, breaks⟩ := State.breakTag_timeout taken whole
      have kept := State.tagsOnly_breakTag s p t.toNat
      rw [breaks] at kept
      have goes : exec (.combineTimeoutExpiry p t) s = .next (s.breakTag p t.toNat .timeout none) := rfl
      rw [breaks] at goes
      refine ⟨_, goes, ?_, ?_, kept.mem, kept.host, fun k mem own open_ c runs going good => ?_⟩
      · rw [State.tag, State.tags_timeOutParts]
        exact congrArg CombineTag.broken (u.tag_setTag p t.toNat _)
      · rw [State.tag, State.tags_timeOutParts]
        exact congrArg CombineTag.held (u.tag_setTag p t.toNat _)
      · obtain ⟨c', e, runs', ⟨_, state⟩, _, ends⟩ := State.timedOut_timeOutParts (n := BitVec.ofNat 32 (ceilDiv x.len 1024)) x x.parts
          (s := u.setTag p t.toNat { x with broken := true, held := [] }) (ended := false) ((same k.f k.r).trans runs) ⟨good, .inl ⟨rfl, going⟩⟩
        have ended := ends ⟨k, mem, own, open_, rfl, rfl⟩
        refine ⟨c', runs', ?_⟩
        rcases state with ⟨not_, -⟩ | done
        · rw [ended] at not_
          cases not_
        · exact done
    · refine congrArg Host.Outcome.next (if_pos ?_)
      rw [Bool.or_eq_true]
      exact over_.imp decide_eq_true id

end Sys2Proof.Machine
end

section
/-! PROOFS. Ring collectives (R187, R235 to R238): how a member starts, what its first part of work leaves, its time-out. -/
namespace Sys2Proof.Machine

/-! ## Translations apart from what engines write -/

/-- `t` leads every address where `s` does, and holds the same bytes: both memories, page tables, bindings, carves and pools stand. -/
structure State.SamePlaces (s t : State) : Prop where
  mem    : t.mem = s.mem
  host   : t.hostMem = s.hostMem
  ecc    : t.ecc = s.ecc
  shape  : t.shape = s.shape
  binds  : t.binds = s.binds
  grist  : t.grist = s.grist
  parts  : t.parts = s.parts
  houses : t.houses = s.houses

section
variable {s t : State} (same : s.SamePlaces t) {a : Acc} {write : Bool} {va n pa : Nat} (clean : s.ecc = [])
include same clean

theorem State.Reaches.of_samePlaces (reach : s.Reaches a write va n pa) : t.Reaches a write va n pa :=
  reach.of_sameWalks (.of_tables same.mem same.shape same.binds same.grist same.parts same.houses) clean (same.ecc.trans clean)

theorem State.ReachesApart.of_samePlaces {runs : List (Nat × Nat)} (reach : s.ReachesApart runs a write va n pa) :
    t.ReachesApart runs a write va n pa := fun mem out =>
  (reach mem (by rw [← same.mem]; exact out)).of_sameWalks
    (.of_tables rfl same.shape same.binds same.grist same.parts same.houses) clean (same.ecc.trans clean)

end

section
variable {s t : State} {runs : List (Nat × Nat)} {a : Acc} {write : Bool} {va n pa : Nat}

/-- Virtual addresses count modulo 2^48. -/
theorem State.Reaches.wrap (reach : s.Reaches a write va n pa) : s.Reaches a write (va % 2 ^ 48) n pa := fun i low => by
  obtain ⟨nc, e, run⟩ := reach i low
  exact ⟨nc, e, by rw [Nat.mod_add_mod]; exact run⟩

theorem State.Reaches.unwrap (reach : s.Reaches a write (va % 2 ^ 48) n pa) : s.Reaches a write va n pa := fun i low => by
  obtain ⟨nc, e, run⟩ := reach i low
  exact ⟨nc, e, by rw [Nat.mod_add_mod] at run; exact run⟩

theorem State.ReachesApart.wrap (reach : s.ReachesApart runs a write va n pa) : s.ReachesApart runs a write (va % 2 ^ 48) n pa :=
  fun mem out => (reach mem out).wrap

theorem State.ReachesApart.unwrap (reach : s.ReachesApart runs a write (va % 2 ^ 48) n pa) : s.ReachesApart runs a write va n pa :=
  fun mem out => (reach mem out).unwrap

theorem State.ReachesApart.now (reach : s.ReachesApart runs a write va n pa) (clean : s.ecc = []) : s.Reaches a write va n pa :=
  reach.reaches (.refl clean)

end

/-! ## Packets sent (R233, R236) -/

theorem Port.chan_setChan (x : Port) (c : Nat) (v : Chan) : (x.setChan c v).chan c = v := Table.get_put _ _ _ _

/-- What sending a packet changes: the links. -/
theorem State.emit_links (s : State) (p : Packet) : (∃ l, (s.emit p).1 = { s with leat := l }) ∧
    ∀ port ch, s.route p.dst = some (port, ch) → (((s.emit p).1.port port).chan ch).tx = ((s.port port).chan ch).tx ++
      ({ p with seq := Table.get 0 s.leat.seqs p.dst, src := s.moduleId.toNat } : Packet).bytes := by
  unfold State.emit
  extract_lets q _ t
  unfold State.pushPacket
  have route : t.route p.dst = s.route p.dst := rfl
  dsimp only
  rw [route]
  cases known : s.route p.dst with
  | none =>
    obtain ⟨l, failed⟩ := t.linkFail_port 0 reasonRoute
    exact ⟨⟨l, failed⟩, fun port ch none_ => nomatch none_⟩
  | some x =>
    refine ⟨⟨_, rfl⟩, fun port ch here => ?_⟩
    cases here
    dsimp only
    rw [State.port_setPort, Port.chan_setChan]
    rfl

theorem State.emitRing_links (s : State) (k : Collective) (op o : Nat) (bs : List Byte) : ∃ l, s.emitRing k op o bs = { s with leat := l } :=
  (s.emit_links _).1

/-! ## Writes of whole chunks (R237) -/

/-- Pieces of a chunk, each from where the one before it ends. -/
def Contiguous : Nat → List (Nat × List Byte) → Prop
  | _, [] => True
  | o, x :: xs => x.1 = o ∧ Contiguous (o + x.2.length) xs

/-- The bytes of the pieces of a chunk. -/
def pieceBytes (parts : List (Nat × List Byte)) : List Byte := parts.flatMap (·.2)

theorem contiguous_snoc {o : Nat} {parts : List (Nat × List Byte)} {x : Nat × List Byte} :
    Contiguous o (parts ++ [x]) ↔ Contiguous o parts ∧ x.1 = o + (pieceBytes parts).length := by
  induction parts generalizing o with
  | nil => simp [Contiguous, pieceBytes]
  | cons y ys ih =>
    have total : (pieceBytes (y :: ys)).length = y.2.length + (pieceBytes ys).length := List.length_append
    rw [List.cons_append, Contiguous, ih, Contiguous, and_assoc, total, ← Nat.add_assoc]

theorem pieceBytes_snoc (parts : List (Nat × List Byte)) (x : Nat × List Byte) : pieceBytes (parts ++ [x]) = pieceBytes parts ++ x.2 := by
  simp [pieceBytes]

/-- Each piece of a chunk lies in it. -/
theorem Contiguous.inside {o : Nat} {parts : List (Nat × List Byte)} (together : Contiguous o parts) : ∀ x ∈ parts,
    ∃ i, x.1 = o + i ∧ i + x.2.length ≤ (pieceBytes parts).length := by
  induction parts using List.reverseRecOn with
  | nil => exact fun x mem => nomatch mem
  | append_singleton ys y ih =>
    obtain ⟨before, here⟩ := contiguous_snoc.mp together
    intro x mem
    rw [pieceBytes_snoc, List.length_append]
    rcases List.mem_append.mp mem with early | last
    · obtain ⟨i, at_, low⟩ := ih before x early
      exact ⟨i, at_, by omega⟩
    · obtain rfl := List.mem_singleton.mp last
      exact ⟨_, here, Nat.le_refl _⟩

theorem Run.forM_of_ok {α : Type} {f : α → Run PUnit} {e : Eng} (l : List α) (each : ∀ x ∈ l, (f x).run.run e = (.ok (), e)) :
    (l.forM f).run.run e = (.ok (), e) := by
  induction l with
  | nil => rfl
  | cons x l ih =>
    have step : ((x :: l).forM f) = f x >>= fun _ => l.forM f := rfl
    rw [step, Run.bind_of_ok (each x (.head l))]
    exact ih fun y mem => each y (.tail x mem)

section
variable {k : Collective} {f o pb : Nat} {parts : List (Nat × List Byte)} {e : Eng} (clean : e.s.ecc = []) (together : Contiguous o parts)
  (reach : e.s.ReachesApart [(pb, (pieceBytes parts).length)] (k.acc f) true (k.dst.toNat + o) (pieceBytes parts).length pb)
include clean together reach

/-- Every page of the chunk is tried. -/
theorem Collective.tries_chunk : (parts.forM (fun x => (pieces ((k.dst.toNat + x.1) % 2 ^ 48) x.2.length).forM (fun y => do
    let _ ← translate (k.acc f) true y.1))).run.run e = (.ok (), e) := by
  refine Run.forM_of_ok parts fun x mem => Run.forM_of_ok _ fun y piece => ?_
  obtain ⟨i, at_, low⟩ := together.inside x mem
  obtain ⟨addr, some, inside⟩ := mem_pieces piece
  obtain ⟨nc, leads⟩ := (reach.now clean).leads clean (i := i + y.2.1) (by omega) (e := e) rfl
  have same : y.1 = (k.dst.toNat + o + (i + y.2.1)) % 2 ^ 48 := by
    rw [addr, at_, Nat.mod_add_mod]
    congr 1
    omega
  rw [Run.bind_of_ok (by rw [same]; exact leads)]
  rfl

/-- A chunk of the final result is written: its bytes stand at its place and nowhere else. -/
theorem Collective.put_of_apart : ∃ t w, (k.put f parts).run.run e = (.ok (), { e with s := t, wrote := w }) ∧
    e.s.Stored t pb (pieceBytes parts) := by
  have writes : ∀ l, Contiguous o l → (∃ r, parts = l ++ r) → ∃ t w,
      (l.forM (fun x => writeV (k.acc f) ((k.dst.toNat + x.1) % 2 ^ 48) x.2)).run.run e = (.ok (), { e with s := t, wrote := w }) ∧
      e.s.Stored t pb (pieceBytes l) := by
    intro l
    induction l using List.reverseRecOn with
    | nil => exact fun _ _ => ⟨e.s, e.wrote, rfl, .nil clean pb⟩
    | append_singleton ys y ih =>
      intro joined ⟨r, whole⟩
      obtain ⟨before, here⟩ := contiguous_snoc.mp joined
      obtain ⟨t, w, run, stored⟩ := ih before ⟨[y] ++ r, by rw [whole, List.append_assoc]⟩
      have size : (pieceBytes ys).length + y.2.length ≤ (pieceBytes parts).length := by
        have total : pieceBytes (ys ++ [y] ++ r) = pieceBytes (ys ++ [y]) ++ pieceBytes r := List.flatMap_append
        rw [whole, total, pieceBytes_snoc, List.length_append, List.length_append]
        omega
      have apart := stored.apartFrom (runs := [(pb, (pieceBytes parts).length)]) clean ⟨_, .head _, Nat.le_refl _, by omega⟩
      have next := ((reach.of_apart apart).sub (o := (pieceBytes ys).length) (m := y.2.length) size).wrap
      have addr : (k.dst.toNat + o + (pieceBytes ys).length) % 2 ^ 48 = (k.dst.toNat + y.1) % 2 ^ 48 := by rw [here, Nat.add_assoc]
      rw [addr] at next
      obtain ⟨u, v, last, stored'⟩ := writeV_of_apart (e := { e with s := t, wrote := w }) stored.ecc next
        ⟨_, .head _, Nat.le_add_right _ _, by omega⟩
      refine ⟨u, v, ?_, ?_⟩
      · have split : (ys ++ [y]).forM (fun x => writeV (k.acc f) ((k.dst.toNat + x.1) % 2 ^ 48) x.2) =
          ys.forM (fun x => writeV (k.acc f) ((k.dst.toNat + x.1) % 2 ^ 48) x.2) >>= fun _ =>
            [y].forM (fun x => writeV (k.acc f) ((k.dst.toNat + x.1) % 2 ^ 48) x.2) := List.forM_append
        rw [split, Run.bind_of_ok run, Run.forM_singleton]
        exact last
      · rw [pieceBytes_snoc]
        exact stored.append stored'
  obtain ⟨t, w, run, stored⟩ := writes parts together ⟨[], by rw [List.append_nil]⟩
  refine ⟨t, w, ?_, stored⟩
  rw [Collective.put, Run.bind_of_ok (Collective.tries_chunk clean together reach)]
  exact run

end

/-! ## Parts of a member's work (R235, R237) -/

theorem length_pieceBytes (parts : List (Nat × List Byte)) : (pieceBytes parts).length = (parts.map fun x => x.2.length).sum :=
  List.length_flatMap

section
variable {k : Collective} {f o : Nat} {e : Eng} {bs : List Byte}

theorem Collective.source_run {n pa : Nat} (clean : e.s.ecc = [])
    (reach : e.s.Reaches (k.acc f) false (k.src.toNat + if k.kind = 2 then o - k.pos * k.size else o) n pa) :
    (k.source f o n).run.run e = (.ok (e.s.mem.readN pa n), e) := readSV_of_reaches clean reach.wrap rfl

/-- A piece before the last of its chunk is kept. -/
theorem Collective.final_before_last (pre : List (Nat × List Byte)) (same : ∀ x ∈ pre ++ [(o, bs)], x.1 / k.size = o / k.size)
    (more : (pieceBytes (pre ++ [(o, bs)])).length < k.chunkLen (o / k.size)) :
    (({ k with parts := pre } : Collective).final f o bs).run.run e = (.ok { k with parts := pre ++ [(o, bs)] }, e) := by
  unfold Collective.final
  extract_lets c parts mine
  have all : mine = parts := List.filter_eq_self.mpr fun x mem => beq_iff_eq.mpr (same x mem)
  rw [if_pos (by rw [all, ← length_pieceBytes]; exact more)]
  rfl

/-- With its last piece a chunk is written. -/
theorem Collective.final_last (pre : List (Nat × List Byte)) {o0 pb : Nat} (clean : e.s.ecc = []) (same : ∀ x ∈ pre ++ [(o, bs)], x.1 / k.size = o / k.size)
    (full : (pieceBytes (pre ++ [(o, bs)])).length = k.chunkLen (o / k.size)) (together : Contiguous o0 (pre ++ [(o, bs)]))
    (reach : e.s.ReachesApart [(pb, (pieceBytes (pre ++ [(o, bs)])).length)] (k.acc f) true (k.dst.toNat + o0)
      (pieceBytes (pre ++ [(o, bs)])).length pb) :
    ∃ t w, (({ k with parts := pre } : Collective).final f o bs).run.run e = (.ok { k with parts := [], written := k.written + k.chunkLen (o / k.size) }, { e with s := t, wrote := w }) ∧
      e.s.Stored t pb (pieceBytes (pre ++ [(o, bs)])) := by
  obtain ⟨t, w, run, stored⟩ := Collective.put_of_apart clean together reach
  refine ⟨t, w, ?_, stored⟩
  unfold Collective.final
  extract_lets c parts mine
  have all : mine = parts := List.filter_eq_self.mpr fun x mem => beq_iff_eq.mpr (same x mem)
  have none_ : parts.filter (fun x => x.1 / k.size != c) = [] := List.filter_eq_nil_iff.mpr fun x mem known => bne_iff_ne.mp known (same x mem)
  rw [if_neg (by rw [all, ← length_pieceBytes]; exact Nat.not_lt.mpr (Nat.le_of_eq full.symm))]
  have puts : (({ k with parts := pre } : Collective).put f parts).run.run e = (.ok (), { e with s := t, wrote := w }) := run
  rw [all, Run.bind_of_ok puts]
  exact congrArg (fun l => ((.ok { k with parts := l, written := k.written + k.chunkLen c } : Except Stop Collective),
    ({ e with s := t, wrote := w } : Eng))) none_

end

/-! ## A ring of one member -/

/-- The pieces of a chunk with the bytes of the member's source. -/
def sourcePieces (m : Memory) (pa : Nat) (xs : List (Nat × Nat)) : List (Nat × List Byte) := xs.map fun x => (x.1, m.readN (pa + x.1) x.2)

section
variable {k : Collective} {f pa pb : Nat} {e : Eng} (clean : e.s.ecc = []) (one : k.n = 1)
include clean one

/-- The only member of a ring gathers its source, piece after piece, and writes it whole with the last one. -/
theorem Collective.begin_alone (xs : List (Nat × Nat)) : ∀ pre, xs ≠ [] → (∀ x ∈ xs, (k.source f x.1 x.2).run.run e = (.ok (e.s.mem.readN (pa + x.1) x.2), e)) →
    (∀ x ∈ xs, 0 < x.2) → (∀ x ∈ pre ++ sourcePieces e.s.mem pa xs, x.1 / k.size = 0) →
    (pieceBytes (pre ++ sourcePieces e.s.mem pa xs)).length = k.chunkLen 0 → Contiguous 0 (pre ++ sourcePieces e.s.mem pa xs) →
    e.s.ReachesApart [(pb, k.chunkLen 0)] (k.acc f) true k.dst.toNat (k.chunkLen 0) pb →
    ∃ t w, (({ k with parts := pre } : Collective).begin_ f xs).run.run e =
      (.ok { k with parts := [], written := k.written + k.chunkLen 0 }, { e with s := t, wrote := w }) ∧
      e.s.Stored t pb (pieceBytes (pre ++ sourcePieces e.s.mem pa xs)) := by
  induction xs with
  | nil => exact fun _ some => absurd rfl some
  | cons x rest ih =>
    intro pre _ reads nonempty same full together reach
    have read : (({ k with parts := pre } : Collective).source f x.1 x.2).run.run e = (.ok (e.s.mem.readN (pa + x.1) x.2), e) := reads x (.head rest)
    have goes : ({ k with parts := pre } : Collective).begin_ f (x :: rest) = ({ k with parts := pre } : Collective).source f x.1 x.2 >>= fun bs =>
        ({ k with parts := pre } : Collective).final f x.1 bs >>= fun k' => k'.begin_ f rest := by
      rw [Collective.begin_]
      refine congrArg _ (funext fun bs => ?_)
      have only : ¬k.n > 1 := by omega
      dsimp only
      rw [if_neg only, if_pos one]
      exact ite_self _
    have here (bs : List Byte) : ∀ y ∈ pre ++ [(x.1, bs)], y.1 / k.size = x.1 / k.size := fun y mem => by
      have first : x.1 / k.size = 0 := same (x.1, _) (List.mem_append_right pre (.head _))
      rw [first]
      rcases List.mem_append.mp mem with early | last
      · exact same y (List.mem_append_left _ early)
      · rw [List.mem_singleton.mp last]
        exact first
    have split : pre ++ sourcePieces e.s.mem pa (x :: rest) =
        (pre ++ [(x.1, e.s.mem.readN (pa + x.1) x.2)]) ++ sourcePieces e.s.mem pa rest := by
      rw [List.append_assoc]
      rfl
    rw [split] at same full together ⊢
    rw [goes, Run.bind_of_ok read]
    have zero : x.1 / k.size = 0 := same (x.1, _) (List.mem_append_left _ (List.mem_append_right pre (.head _)))
    cases rest with
    | nil =>
      rw [show sourcePieces e.s.mem pa [] = [] from rfl, List.append_nil] at full together ⊢
      rw [← full] at reach
      obtain ⟨t, w, run, stored⟩ := Collective.final_last pre (o0 := 0) clean (here _) (by rw [zero]; exact full) together reach
      refine ⟨t, w, ?_, stored⟩
      rw [zero] at run
      rw [Run.bind_of_ok run]
      rfl
    | cons y ys =>
      have more : (pieceBytes (pre ++ [(x.1, e.s.mem.readN (pa + x.1) x.2)])).length < k.chunkLen (x.1 / k.size) := by
        have later : 0 < y.2 := nonempty y (.tail x (.head ys))
        have total (front : List (Nat × List Byte)) : (pieceBytes (front ++ sourcePieces e.s.mem pa (y :: ys))).length =
            (pieceBytes front).length + (y.2 + (pieceBytes (sourcePieces e.s.mem pa ys)).length) := by
          rw [sourcePieces, List.map_cons, pieceBytes, List.flatMap_append, List.flatMap_cons, List.length_append, List.length_append,
            Memory.length_readN]
          rfl
        rw [zero, ← full, total]
        omega
      rw [Run.bind_of_ok (Collective.final_before_last pre (here _) more)]
      exact ih _ (List.cons_ne_nil y ys) (fun z mem => reads z (.tail x mem)) (fun z mem => nonempty z (.tail x mem)) same full together reach

end

/-- The pieces of the one chunk of a ring of one member. -/
theorem Collective.pieces_alone {k : Collective} (one : k.n = 1) : k.chunkLen 0 = k.len ∧
    (∀ x ∈ k.chunkPieces 0, 0 < x.2 ∧ x.1 + x.2 ≤ k.len ∧ x.1 / k.size = 0) ∧ (k.chunkPieces 0 = [] → k.len = 0) ∧
    ∀ (m : Memory) (pa : Nat), Contiguous 0 (sourcePieces m pa (k.chunkPieces 0)) ∧
      pieceBytes (sourcePieces m pa (k.chunkPieces 0)) = m.readN pa k.len := by
  have size : k.len ≤ k.size := by
    unfold Collective.size ceilDiv
    rw [one]
    omega
  have chunk : k.chunkLen 0 = k.len := by
    unfold Collective.chunkLen
    rw [Nat.zero_mul, Nat.sub_zero]
    exact Nat.min_eq_right size
  have list : k.chunkPieces 0 = (List.range (ceilDiv k.len 4096)).map fun i => (i * 4096, min 4096 (k.len - i * 4096)) := by
    unfold Collective.chunkPieces
    rw [chunk, Nat.zero_mul]
    simp only [Nat.zero_add]
  refine ⟨chunk, fun x mem => ?_, fun none_ => ?_, fun m pa => ?_⟩
  · rw [list] at mem
    obtain ⟨i, low, rfl⟩ := List.mem_map.mp mem
    have few := List.mem_range.mp low
    unfold ceilDiv at few
    refine ⟨by dsimp only; omega, by dsimp only; omega, Nat.div_eq_of_lt (by dsimp only; omega)⟩
  · rw [list, List.map_eq_nil_iff, List.range_eq_nil] at none_
    unfold ceilDiv at none_
    omega
  · have upTo (j : Nat) (few : j ≤ ceilDiv k.len 4096) :
        Contiguous 0 (sourcePieces m pa ((List.range j).map fun i => (i * 4096, min 4096 (k.len - i * 4096)))) ∧
        pieceBytes (sourcePieces m pa ((List.range j).map fun i => (i * 4096, min 4096 (k.len - i * 4096)))) = m.readN pa (min (j * 4096) k.len) := by
      induction j with
      | zero => exact ⟨trivial, by rw [Nat.zero_mul, Nat.zero_min, Memory.readN_eq]; rfl⟩
      | succ j ih =>
        obtain ⟨together, bytes⟩ := ih (by omega)
        have here : min (j * 4096) k.len = j * 4096 := by unfold ceilDiv at few; omega
        rw [here] at bytes
        rw [List.range_succ, List.map_append, sourcePieces, List.map_append]
        refine ⟨contiguous_snoc.mpr ⟨together, ?_⟩, ?_⟩
        · refine Eq.trans ?_ (congrArg (fun l => 0 + List.length l) bytes.symm)
          rw [Memory.length_readN, Nat.zero_add]
        · refine (pieceBytes_snoc _ _).trans ?_
          refine (congrArg (· ++ m.readN (pa + j * 4096) (min 4096 (k.len - j * 4096))) bytes).trans ?_
          rw [Memory.readN_append]
          congr 1
          omega
    rw [list]
    obtain ⟨together, bytes⟩ := upTo _ (Nat.le_refl _)
    refine ⟨together, bytes.trans (congrArg (m.readN pa) ?_)⟩
    unfold ceilDiv
    omega

/-! ## What a member's work leaves -/

/-- What a member's work leaves: the links may have sent packets, and a memory engine has worked. -/
def State.LinkWork (s t : State) : Prop := ∃ l, State.ByMemory false { s with leat := l } t

theorem State.ByMemory.with_leat {kept : Bool} {s t : State} (by_ : State.ByMemory kept s t) (l : Leat) :
    State.ByMemory kept { s with leat := l } { t with leat := l } :=
  ⟨by_.memories, congrArg (fun u : State => { u with leat := l }) by_.rest, by_.fn, by_.house⟩

theorem State.LinkWork.trans {s t u : State} (first : s.LinkWork t) (next : t.LinkWork u) : s.LinkWork u := by
  obtain ⟨l, here⟩ := first
  obtain ⟨l', there⟩ := next
  exact ⟨l', (here.with_leat l').trans there⟩

theorem State.ByMemory.linkWork {s t : State} (by_ : State.ByMemory false s t) : s.LinkWork t := ⟨s.leat, by_⟩

theorem State.linkWork_emitRing (s : State) (k : Collective) (op o : Nat) (bs : List Byte) : s.LinkWork (s.emitRing k op o bs) := by
  obtain ⟨l, sent⟩ := s.emitRing_links k op o bs
  rw [sent]
  exact ⟨l, .refl _⟩

section
variable {s t : State} (work : s.LinkWork t)
include work

theorem State.LinkWork.running (f r : Nat) : t.running f r = s.running f r := by
  obtain ⟨l, by_⟩ := work
  exact by_.running f r

end

/-- Work of a member. -/
def Run.LinkWork {α : Type} (m : Run α) : Prop := ∀ e : Eng, State.LinkWork e.s (m.run.run e).2.s

section
variable {α β : Type}

theorem Run.ByMemory.linkWork {m : Run α} (work : Run.ByMemory false m) : Run.LinkWork m := fun e => (work e).linkWork

theorem Run.linkWork_bind {m : Run α} {k : α → Run β} (first : Run.LinkWork m) (rest : ∀ x, Run.LinkWork (k x)) : Run.LinkWork (m >>= k) := fun e => by
  have here := first e
  rw [Run.bind_run_state]
  generalize m.run.run e = answer at here
  obtain ⟨x | x, e'⟩ := answer
  · exact here
  · exact here.trans (rest x e')

theorem Run.linkWork_ite {c : Prop} [Decidable c] {x y : Run α} (yes : Run.LinkWork x) (no : Run.LinkWork y) : Run.LinkWork (if c then x else y) := by
  split
  · exact yes
  · exact no

theorem Run.LinkWork.exec {m : Run α} (work : Run.LinkWork m) (s : State) : s.LinkWork (m.exec s).2.s :=
  (work { s := s }).trans (State.ByMemory.linkWork (.of_rest rfl rfl rfl rfl rfl))

end

namespace Collective

theorem source_linkWork (k : Collective) (f o n : Nat) : Run.LinkWork (k.source f o n) := (readSV_byMemory _ _ _).linkWork

theorem emits_linkWork (k : Collective) (op o : Nat) (bs : List Byte) : Run.LinkWork (modS fun s => s.emitRing k op o bs) := fun e =>
  e.s.linkWork_emitRing k op o bs

theorem put_linkWork (k : Collective) (f : Nat) (parts : List (Nat × List Byte)) : Run.LinkWork (k.put f parts) := by
  refine Run.ByMemory.linkWork (Run.byMemory_bind (Run.byMemory_forM (fun x => Run.byMemory_forM (fun y => ?_) _) _) fun _ =>
    Run.byMemory_forM (fun x => writeV_local_byMemory _ _ _) _)
  exact Run.byMemory_bind (translate_byMemory _ _ _) fun _ => Run.byMemory_pure _

theorem final_linkWork (k : Collective) (f o : Nat) (bs : List Byte) : Run.LinkWork (k.final f o bs) := by
  unfold final
  extract_lets c parts mine
  exact Run.linkWork_ite (Run.byMemory_pure _).linkWork (Run.linkWork_bind (put_linkWork _ _ _) fun _ => (Run.byMemory_pure _).linkWork)

theorem begin_linkWork (f : Nat) (xs : List (Nat × Nat)) : ∀ k : Collective, Run.LinkWork (k.begin_ f xs) := by
  induction xs with
  | nil => exact fun k => (Run.byMemory_pure k).linkWork
  | cons x xs ih =>
    intro k
    have finish (bs : List Byte) : Run.LinkWork (k.final f x.1 bs >>= fun k' => k'.begin_ f xs) :=
      Run.linkWork_bind (final_linkWork _ _ _ _) ih
    rw [begin_]
    refine Run.linkWork_bind (source_linkWork _ _ _ _) fun bs => Run.linkWork_ite (Run.linkWork_ite ?_ (finish bs))
      (Run.linkWork_ite (finish bs) (Run.linkWork_bind (emits_linkWork _ _ _ _) fun _ => ih _))
    exact Run.linkWork_bind (emits_linkWork _ _ _ _) fun _ => finish bs

/-! ## The outcome of a member's work -/

/-- The command of a member whose work has been done so far, or is done. -/
def outcome (k' : Collective) (c : Running) (fl : Flags) (res : Word32) (at_ : Nat) : Running :=
  if k'.ended = true
    then { c with wait := .none, flags := c.flags.or fl, done := some (c.statusOf (c.flags.or fl).status, res), doneAt := at_ }
    else { c with flags := c.flags.or fl, wait := .collective k' }

theorem collected_of_ok {k k' : Collective} {f r : Nat} {c : Running} {e : Eng} (runs : e.s.running f r = some c) (going : c.done = none) :
    (k.collected f r (.ok k', e)).mem = e.s.mem ∧ (k.collected f r (.ok k', e)).hostMem = e.s.hostMem ∧
    ((k.collected f r (.ok k', e)).sq f r).running = some (outcome k' c e.flags k.result e.s.ends) ∧
    (k.collected f r (.ok k', e)).leat = e.s.leat := by
  have flagged : e.s.addFlags f r e.flags = e.s.setRunning f r (some { c with flags := c.flags.or e.flags }) :=
    State.modRunning_of_running _ runs _
  unfold collected
  extract_lets t
  have here : t = e.s.setRunning f r (some { c with flags := c.flags.or e.flags }) := flagged
  have run : t.running f r = some { c with flags := c.flags.or e.flags } := by rw [here]; exact e.s.running_setRunning f r _
  rw [run]
  dsimp only
  unfold outcome
  split
  · rw [t.finish_of_running f r _ _ _ run, here]
    refine ⟨rfl, rfl, (State.running_setRunning _ f r _).trans (congrArg some ?_), rfl⟩
    dsimp only
    rw [going]
    rfl
  · rw [here]
    exact ⟨rfl, rfl, State.running_setRunning _ f r _, rfl⟩

end Collective

/-! ## Starting (R187, R235) -/

section
variable {s : State} {f : FnId} {r : RingIx} {c : Running} {i : Instr}

/-- A ring collective that is fetched, or whose house is ready for its tag. -/
theorem exec_startCollective (start : (i = .allGather f r ∧ s.fresh f r .copy = some c) ∨
      (i = .allReduce f r ∧ s.fresh f r .combine = some c ∧ c.desc.scatter = false) ∨
      (i = .reduceScatter f r ∧ s.fresh f r .combine = some c ∧ c.desc.scatter = true) ∨
      (i = .combineTagGranted f r ∧ s.running f r = some c ∧ c.wait = .tag ∧ c.done = none ∧ c.desc.ringEn = true ∧
        (opcodeOf c.desc.opcode = some .copy ∨ opcodeOf c.desc.opcode = some .combine))) :
    exec i s = .next (if c.desc.ringEn = true then s.startCollective f r c else s).settle ∧ s.running f r = some c ∧ c.done = none ∧
      (opcodeOf c.desc.opcode = some .copy ∨ opcodeOf c.desc.opcode = some .combine) := by
  have next {t u : State} (same : t = u) : (Host.Outcome.next t.settle : Out) = .next u.settle := by rw [same]
  rcases start with ⟨rfl, fresh⟩ | ⟨rfl, fresh, part⟩ | ⟨rfl, fresh, part⟩ | ⟨rfl, runs, waits, going, ring, opcode⟩
  · obtain ⟨runs, -, going, opcode, -⟩ := (s.fresh_iff f r .copy c).mp fresh
    exact ⟨next (s.runCmd_of_fresh f r .copy _ c fresh), runs, going, .inl opcode⟩
  · obtain ⟨runs, -, going, opcode, -⟩ := (s.fresh_iff f r .combine c).mp fresh
    refine ⟨next ((s.runCmd_of_fresh f r .combine _ c fresh).trans ?_), runs, going, .inr opcode⟩
    rw [part, Bool.not_false, Bool.and_true]
  · obtain ⟨runs, -, going, opcode, -⟩ := (s.fresh_iff f r .combine c).mp fresh
    refine ⟨next ((s.runCmd_of_fresh f r .combine _ c fresh).trans ?_), runs, going, .inr opcode⟩
    rw [part, Bool.and_true]
  · refine ⟨next ?_, runs, going, opcode⟩
    unfold State.tagGranted
    rw [runs]
    dsimp only
    rw [if_pos waits, if_pos ring, if_pos ring]

/-- The module as a ring collective begins: its tag is no longer dead, its command runs as a member. -/
def State.begun (s : State) (f r : Nat) (c : Running) (k : Collective) : State :=
  ({ s with leat := { s.leat with dead := s.leat.dead.filter (fun t => t != k.tag) } } : State).setRunning f r (some { c with wait := .collective k })

theorem State.samePlaces_begun (s : State) (f r : Nat) (c : Running) (k : Collective) : s.SamePlaces (s.begun f r c k) :=
  ⟨rfl, rfl, rfl, rfl, rfl, rfl, rfl, rfl⟩

section
variable {s : State} {f r : Nat} {c : Running}

theorem State.startCollective_turned_away (runs : s.running f r = some c)
    (opcode : opcodeOf c.desc.opcode = some .copy ∨ opcodeOf c.desc.opcode = some .combine)
    (cannot : s.leat.state ≠ .run ∨ ¬s.moduleId.toNat ∈ s.leat.sched.rings.getD (s.collectiveOf f c.desc).ring []) :
    s.startCollective f r c = s.turnedAway f r c .state (s.collectiveOf f c.desc).result := by
  have result : s.failResult c.desc = ((s.collectiveOf f c.desc).result, s) := by
    unfold State.failResult Collective.result State.collectiveOf
    rcases opcode with copy | combine
    · rw [copy]
      rfl
    · rw [combine]
      dsimp only
      rw [if_neg (by cases c.desc.scatter <;> decide)]
      rfl
  unfold State.startCollective
  extract_lets k
  rw [if_pos, s.fail_of_running f r .state _ runs result]
  exact cannot.imp id fun other => by
    rw [Bool.not_eq_true', List.contains_eq_mem]
    exact decide_eq_false other

section
variable (up : s.leat.state = .run) (member : s.moduleId.toNat ∈ s.leat.sched.rings.getD (s.collectiveOf f c.desc).ring [])
include up member

theorem State.may_start : ¬(s.leat.state ≠ .run ∨ (!(s.ringMembers (s.collectiveOf f c.desc).ring).contains s.moduleId.toNat) = true) := by
  rintro (down | other)
  · exact down up
  · rw [Bool.not_eq_true', List.contains_eq_mem] at other
    exact of_decide_eq_false other member

theorem State.startCollective_waits (crowded : 256 ≤ s.openTags (s.collectiveOf f c.desc).house) :
    s.startCollective f r c = s.setRunning f r (some { c with wait := .tag }) := by
  unfold State.startCollective
  extract_lets k
  rw [if_neg (State.may_start up member), if_pos crowded]

theorem State.startCollective_begins (room : s.openTags (s.collectiveOf f c.desc).house < 256) :
    let k := s.collectiveOf f c.desc
    s.startCollective f r c = k.collected f r ((k.begin_ f (k.chunkPieces k.first)).exec (s.begun f r c k)) := by
  unfold State.startCollective
  extract_lets k
  rw [if_neg (State.may_start up member), if_neg (Nat.not_le.mpr room)]
  rfl

end

/-- What a member that has begun leaves, where its first part of work succeeds. -/
theorem Collective.begun_fields {k k' : Collective} {e : Eng} (going : c.done = none)
    (begins : (k.begin_ f (k.chunkPieces k.first)).exec (s.begun f r c k) = (.ok k', e)) :
    let u := k.collected f r ((k.begin_ f (k.chunkPieces k.first)).exec (s.begun f r c k))
    u.mem = e.s.mem ∧ u.hostMem = e.s.hostMem ∧ (u.sq f r).running = some (outcome k' c e.flags k.result e.s.ends) ∧ u.leat = e.s.leat := by
  have work := (Collective.begin_linkWork f (k.chunkPieces k.first) k).exec (s.begun f r c k)
  rw [begins] at work
  have runs : e.s.running f r = some { c with wait := .collective k } := (work.running f r).trans (State.running_setRunning _ f r _)
  dsimp only
  rw [begins]
  exact Collective.collected_of_ok (c := { c with wait := .collective k }) runs going

end

/-! ## The first part of work -/

section
variable {k : Collective} {f o n : Nat} {e : Eng} {bs : List Byte} (read : (k.source f o n).run.run e = (.ok bs, e)) (more : 1 < k.n)
include read more

theorem Collective.begin_reduction (kind : k.kind ≠ 2) : (k.begin_ f [(o, n)]).run.run e =
    (.ok { k with summed := k.summed + n }, { e with s := e.s.emitRing k 0 o bs }) := by
  have sends : (modS fun s => s.emitRing k 0 o bs).run.run e = (.ok (), { e with s := e.s.emitRing k 0 o bs }) := rfl
  rw [Collective.begin_, Run.bind_of_ok read, if_neg kind, if_neg (Nat.ne_of_gt more), Run.bind_of_ok sends]
  rfl

theorem Collective.begin_gather (kind : k.kind = 2) {k' : Collective} {e' : Eng}
    (writes : (k.final f o bs).run.run { e with s := e.s.emitRing k 1 o bs } = (.ok k', e')) : (k.begin_ f [(o, n)]).run.run e = (.ok k', e') := by
  have sends : (modS fun s => s.emitRing k 1 o bs).run.run e = (.ok (), { e with s := e.s.emitRing k 1 o bs }) := rfl
  rw [Collective.begin_, Run.bind_of_ok read, if_pos kind, if_pos more, Run.bind_of_ok sends, Run.bind_of_ok writes]
  rfl

end

/-- A chunk of one packet. -/
theorem Collective.pieces_of_small {k : Collective} {c : Nat} (some_ : 0 < k.chunkLen c) (small : k.chunkLen c ≤ 4096) :
    k.chunkPieces c = [(c * k.size, k.chunkLen c)] ∧ c * k.size / k.size = c := by
  have one : ceilDiv (k.chunkLen c) 4096 = 1 := by unfold ceilDiv; omega
  have pos : 0 < k.size := Nat.lt_of_lt_of_le some_ (Nat.min_le_left _ _)
  refine ⟨?_, Nat.mul_div_cancel c pos⟩
  unfold Collective.chunkPieces
  rw [one]
  have all : min 4096 (k.chunkLen c - 0 * 4096) = k.chunkLen c := by omega
  exact congrArg (fun n => [(c * k.size + 0 * 4096, n)]) all

end

/-! ## Ring collectives, whole -/

section
variable {s : State} {f r : Nat} {c : Running}

/-- What a ring collective leaves whose first part of work succeeds without a flag. -/
theorem State.startCollective_of_run {k' : Collective} {t : State} {w : List (Nat × Nat)} (going : c.done = none) (up : s.leat.state = .run)
    (member : s.moduleId.toNat ∈ s.leat.sched.rings.getD (s.collectiveOf f c.desc).ring [])
    (room : s.openTags (s.collectiveOf f c.desc).house < 256)
    (begins : ((s.collectiveOf f c.desc).begin_ f ((s.collectiveOf f c.desc).chunkPieces (s.collectiveOf f c.desc).first)).run.run
      { s := s.begun f r c (s.collectiveOf f c.desc) } = (.ok k', { s := t, wrote := w })) (clean : t.ecc = []) (ends : t.ends = s.ends) :
    let u := s.startCollective f r c
    u.mem = t.mem ∧ u.hostMem = t.hostMem ∧
    (u.sq f r).running = some (Collective.outcome k' c {} (s.collectiveOf f c.desc).result s.ends) ∧ u.leat = t.leat := by
  dsimp only
  generalize known : s.collectiveOf f c.desc = k at member room begins ⊢
  subst known
  rw [State.startCollective_begins up member room, ← ends]
  refine Collective.begun_fields (e := { s := t, wrote := w }) going ?_
  rw [Run.exec, begins]
  exact congrArg (Prod.mk _) (Eng.clearWritten_of_clean clean)

theorem Collective.outcome_ended {k' : Collective} (whole : k'.ended = true) (res : Word32) (at_ : Nat) :
    k'.outcome c {} res at_ = { c with wait := .none, done := some (c.statusOf c.flags.status, res), doneAt := at_ } := by
  rw [Collective.outcome, if_pos whole, Flags.or_none]

theorem Collective.outcome_waits {k' : Collective} (more : k'.ended = false) (res : Word32) (at_ : Nat) :
    k'.outcome c {} res at_ = { c with wait := .collective k' } := by
  rw [Collective.outcome, if_neg (by rw [more]; exact Bool.false_ne_true), Flags.or_none]

end

section
variable {s : State} {f r : Nat} {c : Running} (going : c.done = none) (up : s.leat.state = .run)
  (member : s.moduleId.toNat ∈ s.leat.sched.rings.getD (s.collectiveOf f c.desc).ring [])
  (room : s.openTags (s.collectiveOf f c.desc).house < 256) (clean : s.ecc = [])
include going up member room clean

theorem State.startCollective_alone {pa pb : Nat} :
    let k := s.collectiveOf f c.desc
    s.leat.sched.rings.getD k.ring [] = [s.moduleId.toNat] → s.Reaches (k.acc f) false k.src.toNat k.len pa →
    s.ReachesApart [(pb, k.len)] (k.acc f) true k.dst.toNat k.len pb →
    let u := s.startCollective f r c
    u.mem.readN pb k.len = s.mem.readN pa k.len ∧ (∀ b, b < pb ∨ pb + k.len ≤ b → u.mem.read b = s.mem.read b) ∧ u.hostMem = s.hostMem ∧
      (u.sq f r).running = some { c with wait := .none, done := some (c.statusOf c.flags.status, k.result), doneAt := s.ends } := by
  intro k only source dest
  have members : s.ringMembers k.ring = [s.moduleId.toNat] := only
  have one : k.n = 1 := congrArg List.length members
  have pos : k.pos = 0 := (congrArg (List.idxOf s.moduleId.toNat) members).trans (List.idxOf_cons_self ..)
  have first : k.first = 0 := by
    unfold Collective.first
    split
    · exact pos
    · rw [one]
      exact Nat.mod_one _
  obtain ⟨chunk, inside, empty, bytes⟩ := Collective.pieces_alone one
  have same := s.samePlaces_begun f r c k
  have begun : (s.begun f r c k).ecc = [] := clean
  have ended : ({ k with parts := [], written := k.written + k.len } : Collective).ended = true := by
    have none_ : k.written + k.len = k.len ∧ k.summed = 0 := ⟨Nat.zero_add _, rfl⟩
    have whole : ({ k with parts := [], written := k.written + k.len } : Collective).chunkLen k.pos = k.len := by rw [pos]; exact chunk
    unfold Collective.ended
    rw [whole]
    dsimp only
    rw [none_.1, none_.2, Nat.sub_self]
    split
    · rw [beq_self_eq_true, beq_self_eq_true]
      rfl
    · exact beq_self_eq_true _
  have begins : ∃ t w, (k.begin_ f (k.chunkPieces k.first)).run.run { s := s.begun f r c k } =
      (.ok { k with parts := [], written := k.written + k.len }, { s := t, wrote := w }) ∧
      (s.begun f r c k).Stored t pb (s.mem.readN pa k.len) := by
    rw [first]
    by_cases none_ : k.chunkPieces 0 = []
    · have zero := empty none_
      refine ⟨s.begun f r c k, [], ?_, ?_⟩
      · have grown : k.written + k.len = k.written := by rw [zero, Nat.add_zero]
        rw [none_, grown]
        rfl
      · rw [zero, Memory.readN_eq]
        exact .nil begun pb
    · obtain ⟨together, all⟩ := bytes s.mem pa
      have total : (pieceBytes (sourcePieces s.mem pa (k.chunkPieces 0))).length = k.chunkLen 0 := by rw [all, chunk, Memory.length_readN]
      have reads (x : Nat × Nat) (mem : x ∈ k.chunkPieces 0) : (k.source f x.1 x.2).run.run { s := s.begun f r c k } =
          (.ok ((s.begun f r c k).mem.readN (pa + x.1) x.2), { s := s.begun f r c k }) := by
        obtain ⟨-, within, -⟩ := inside x mem
        refine Collective.source_run begun ?_
        rw [pos, Nat.zero_mul, Nat.sub_zero, ite_self]
        exact (source.of_samePlaces same clean).sub within
      have goes := Collective.begin_alone (k := k) (f := f) (pa := pa) (pb := pb) (e := { s := s.begun f r c k }) begun one (k.chunkPieces 0) [] none_ reads
        (fun x mem => (inside x mem).1) (fun x mem => ?zero) total together (by rw [chunk]; exact dest.of_samePlaces same clean)
      case zero =>
        obtain ⟨y, known, rfl⟩ := List.mem_map.mp mem
        exact (inside y known).2.2
      obtain ⟨t, w, run, stored⟩ := goes
      refine ⟨t, w, ?_, ?_⟩
      · rw [chunk] at run
        exact run
      · rw [← all]
        exact stored
  obtain ⟨t, w, run, stored⟩ := begins
  obtain ⟨mem, host, running, -⟩ := State.startCollective_of_run (r := r) going up member room run stored.ecc stored.engine.ends
  have bytes := stored.bytes
  have others := stored.others
  rw [Memory.length_readN] at bytes others
  dsimp only
  rw [mem, host]
  refine ⟨bytes, others, stored.host, running.trans (congrArg some ?_)⟩
  exact Collective.outcome_ended ended _ _

/-- The packet that a member sends to its successor. -/
def State.ringPacketOf (s : State) (k : Collective) (op o : Nat) (bs : List Byte) : Packet :=
  let next := (s.ringMembers k.ring).getD ((k.pos + 1) % k.n) 0
  { kind := 3, dst := next, src := s.moduleId.toNat, tag := k.tag, addr := o, index := k.pos, countM1 := k.n - 1, fmt := k.fmt,
    op := op, ring := k.ring, seq := Table.get 0 s.leat.seqs next, payload := bs }

omit going up member room clean in
theorem State.emitRing_sends (s : State) (k : Collective) (op o : Nat) (bs : List Byte) (port ch : Nat)
    (route : s.route ((s.ringMembers k.ring).getD ((k.pos + 1) % k.n) 0) = some (port, ch)) :
    (((s.emitRing k op o bs).port port).chan ch).tx = ((s.port port).chan ch).tx ++ (s.ringPacketOf k op o bs).bytes :=
  (s.emit_links _).2 port ch route

theorem State.startCollective_gather {pa pb : Nat} :
    let k := s.collectiveOf f c.desc
    let n := k.chunkLen k.pos
    k.kind = 2 → 1 < k.n → 0 < n → n ≤ 4096 → n < k.len → s.Reaches (k.acc f) false k.src.toNat n pa →
    s.ReachesApart [(pb, n)] (k.acc f) true ((k.dst.toNat + k.pos * k.size) % 2 ^ 48) n pb →
    let u := s.startCollective f r c
    u.mem.readN pb n = s.mem.readN pa n ∧ (∀ b, b < pb ∨ pb + n ≤ b → u.mem.read b = s.mem.read b) ∧ u.hostMem = s.hostMem ∧
      (∀ port ch, s.route ((s.ringMembers k.ring).getD ((k.pos + 1) % k.n) 0) = some (port, ch) →
        ((u.port port).chan ch).tx = ((s.port port).chan ch).tx ++ (s.ringPacketOf k 1 (k.pos * k.size) (s.mem.readN pa n)).bytes) ∧
      (u.sq f r).running = some { c with wait := .collective { k with written := n } } := by
  intro k n kind more some_ small short source dest
  have first : k.first = k.pos := if_pos kind
  obtain ⟨list, chunk⟩ := Collective.pieces_of_small some_ small
  have begun := s.samePlaces_begun f r c k
  have cleanB : (s.begun f r c k).ecc = [] := clean
  have read : (k.source f (k.pos * k.size) n).run.run { s := s.begun f r c k } = (.ok (s.mem.readN pa n), { s := s.begun f r c k }) := by
    refine Collective.source_run cleanB ?_
    rw [if_pos kind, Nat.sub_self]
    exact source.of_samePlaces begun clean
  have packet := State.emitRing_sends (s.begun f r c k) k 1 (k.pos * k.size) (s.mem.readN pa n)
  obtain ⟨l, sent⟩ := State.emitRing_links (s.begun f r c k) k 1 (k.pos * k.size) (s.mem.readN pa n)
  rw [sent] at packet
  have places : s.SamePlaces ({ s.begun f r c k with leat := l } : State) := ⟨rfl, rfl, rfl, rfl, rfl, rfl, rfl, rfl⟩
  have reach := (dest.of_samePlaces places clean).unwrap
  have all : pieceBytes ([] ++ [(k.pos * k.size, s.mem.readN pa n)]) = s.mem.readN pa n := by simp [pieceBytes]
  have length : (pieceBytes ([] ++ [(k.pos * k.size, s.mem.readN pa n)])).length = n := by rw [all, Memory.length_readN]
  have writes := Collective.final_last (k := k) (f := f) (e := { s := { s.begun f r c k with leat := l } }) (bs := s.mem.readN pa n) (o := k.pos * k.size)
    (pb := pb) [] (o0 := k.pos * k.size) cleanB (fun x mem => by rw [List.mem_singleton.mp mem]) (by rw [length, chunk]) ⟨rfl, trivial⟩
    (by rw [length]; exact reach)
  obtain ⟨t, w, run, stored⟩ := writes
  rw [chunk] at run
  have begins := Collective.begin_gather (e := { s := s.begun f r c k }) read more kind (by rw [sent]; exact run)
  rw [← list, ← first] at begins
  obtain ⟨mem, host, running, leat⟩ := State.startCollective_of_run (r := r) going up member room begins stored.ecc stored.engine.ends
  have bytes := stored.bytes
  have others := stored.others
  rw [all] at bytes others
  rw [Memory.length_readN] at bytes others
  have written : ({ k with parts := [], written := k.written + n } : Collective) = { k with written := n } := by
    have start : k.written = 0 ∧ k.parts = [] := ⟨rfl, rfl⟩
    rw [start.1, Nat.zero_add, ← start.2]
  have waits : ({ k with parts := [], written := k.written + n } : Collective).ended = false := by
    rw [written, Collective.ended, if_neg (show ¬k.kind = 1 by omega)]
    exact beq_eq_false_iff_ne.mpr (Nat.ne_of_lt short)
  dsimp only
  rw [mem, host]
  refine ⟨bytes, others, stored.host, fun port ch route => ?_, ?_⟩
  · refine Eq.trans ?_ (packet port ch route)
    rw [State.port, leat, stored.engine.leat]
    rfl
  · rw [← written]
    refine running.trans (congrArg some ?_)
    rw [first]
    exact Collective.outcome_waits waits _ _

theorem State.startCollective_reduction {pa : Nat} :
    let k := s.collectiveOf f c.desc
    let n := k.chunkLen k.first
    k.kind ≠ 2 → 1 < k.n → 0 < n → n ≤ 4096 → ({ k with summed := n } : Collective).ended = false →
    s.Reaches (k.acc f) false ((k.src.toNat + k.first * k.size) % 2 ^ 48) n pa →
    let u := s.startCollective f r c
    u.mem = s.mem ∧ u.hostMem = s.hostMem ∧
      (∀ port ch, s.route ((s.ringMembers k.ring).getD ((k.pos + 1) % k.n) 0) = some (port, ch) →
        ((u.port port).chan ch).tx = ((s.port port).chan ch).tx ++ (s.ringPacketOf k 0 (k.first * k.size) (s.mem.readN pa n)).bytes) ∧
      (u.sq f r).running = some { c with wait := .collective { k with summed := n } } := by
  intro k n kind more some_ small waits source
  obtain ⟨list, chunk⟩ := Collective.pieces_of_small some_ small
  have cleanB : (s.begun f r c k).ecc = [] := clean
  have read : (k.source f (k.first * k.size) n).run.run { s := s.begun f r c k } = (.ok (s.mem.readN pa n), { s := s.begun f r c k }) := by
    refine Collective.source_run cleanB ?_
    rw [if_neg kind]
    exact (source.of_samePlaces (s.samePlaces_begun f r c k) clean).unwrap
  have packet := State.emitRing_sends (s.begun f r c k) k 0 (k.first * k.size) (s.mem.readN pa n)
  obtain ⟨l, sent⟩ := State.emitRing_links (s.begun f r c k) k 0 (k.first * k.size) (s.mem.readN pa n)
  have begins := Collective.begin_reduction (e := { s := s.begun f r c k }) read more kind
  rw [sent] at packet
  dsimp only at begins
  rw [sent, ← list] at begins
  obtain ⟨mem, host, running, leat⟩ := State.startCollective_of_run (r := r) going up member room begins cleanB rfl
  have summed : ({ k with summed := k.summed + n } : Collective) = { k with summed := n } := by
    have start : k.summed = 0 := rfl
    rw [start, Nat.zero_add]
  dsimp only
  rw [mem, host]
  refine ⟨rfl, rfl, fun port ch route => ?_, ?_⟩
  · refine Eq.trans ?_ (packet port ch route)
    rw [State.port, leat]
    rfl
  · rw [← summed]
    refine running.trans (congrArg some ?_)
    exact Collective.outcome_waits (by rw [summed]; exact waits) _ _

end

/-- A member that waited past the combine time-out ends, and its tag is dead. -/
theorem exec_ringTimeout {s : State} {f : FnId} {r : RingIx} {c : Running} {k : Collective} (runs : s.running f r = some c)
    (waits : c.wait = .collective k) (going : c.done = none) : ∃ u, exec (.ringTimeout f r) s = .next u ∧
    (u.sq f r).running = some { c with wait := .none, done := some (c.statusOf .timeout, k.result), doneAt := s.ends } ∧
    k.tag ∈ u.leat.dead ∧ u.mem = s.mem ∧ u.hostMem = s.hostMem := by
  have goes : s.ringExpiry f r = (s.endedWith f r c .timeout k.result).deadTag k.tag := by
    rw [State.ringExpiry, runs]
    dsimp only
    rw [waits]
    dsimp only
    rw [s.finish_of_running f r c _ _ runs]
  refine ⟨_, congrArg Host.Outcome.next goes, ?_⟩
  have ends : (s.endedWith f r c .timeout k.result).running f r =
      some { c with wait := .none, done := some (c.statusOf .timeout, k.result), doneAt := s.ends } := by
    rw [State.endedWith, State.running_setRunning, going]
    rfl
  have mem : (s.endedWith f r c .timeout k.result).mem = s.mem ∧ (s.endedWith f r c .timeout k.result).hostMem = s.hostMem := ⟨rfl, rfl⟩
  generalize s.endedWith f r c .timeout k.result = t at ends mem
  unfold State.deadTag
  split
  next dead => exact ⟨ends, List.contains_iff_mem.mp dead, mem⟩
  · exact ⟨ends, List.mem_append_right _ (.head _), mem⟩

/-- Settles O42: a ring collective starts, waits or is turned away by its ring and its tag; its first part of work, followed piece by
piece, leaves memory and links as stated. -/
theorem ringCollectivesStartAndEnd : Obligations.RingCollectivesStartAndEnd := by
  unfold Obligations.RingCollectivesStartAndEnd
  refine ⟨fun s f r c i start => ?_, fun s f r c k runs waits going => exec_ringTimeout runs waits going⟩
  obtain ⟨goes, runs, going, opcode⟩ := exec_startCollective start
  refine ⟨fun plain => by rw [goes, if_neg (by rw [plain]; exact Bool.false_ne_true)], fun ring => ?_⟩
  rw [if_pos ring] at goes
  intro k members member res
  refine ⟨fun cannot => ?_, fun up within crowded => ?_, fun up within room => ⟨fun k' e begins => ?_, fun pa pb clean only source dest => ?_, ?_⟩⟩
  · rw [goes, State.startCollective_turned_away runs opcode cannot]
    rfl
  · rw [goes, State.startCollective_waits up within crowded]
  · have fields := Collective.begun_fields (s := s) (f := f) (r := r) going begins
    rw [← State.startCollective_begins up within room] at fields
    obtain ⟨mem, host, running, -⟩ := fields
    exact ⟨_, goes, mem, host, running⟩
  · exact ⟨_, goes, State.startCollective_alone going up within room clean only source dest⟩
  · intro next packet sent
    refine ⟨fun pa pb kind clean more some_ small short => ?_, fun pa kind clean more some_ small => ?_⟩
    · intro n source dest
      exact ⟨_, goes, State.startCollective_gather going up within room clean kind more some_ small short source dest⟩
    · intro n waits source
      exact ⟨_, goes, State.startCollective_reduction going up within room clean kind more some_ small waits source⟩

end Sys2Proof.Machine
end

section
/-! PROOFS. Packets at their module (R230, R234, R236): the effect of each kind, and the ACK that answers it. -/
namespace Sys2Proof.Machine

/-! ## Channels of ports -/

theorem State.chan_setPort_setChan (s : State) (p c p' c' : Nat) (v : Chan) :
    ((s.setPort p ((s.port p).setChan c v)).port p').chan c' = if p' = p ∧ c' = c then v else (s.port p').chan c' := by
  by_cases port : p' = p
  · rw [port, State.port_setPort]
    by_cases chan : c' = c
    · rw [if_pos ⟨rfl, chan⟩, chan]
      exact Port.chan_setChan _ _ _
    · rw [if_neg fun same => chan same.2]
      exact Table.get_put_ne _ _ _ _ _ _ chan
  · rw [if_neg fun same => port same.1, State.port_setPort_ne _ _ _ _ port]

/-- A packet sent changes the links: it waits in the channel of its route, behind what stands there. -/
theorem State.pushPacket_links (s : State) (q : Packet) : (∃ l, s.pushPacket q = { s with leat := l }) ∧
    (∀ port ch, (((s.pushPacket q).port port).chan ch).packets = ((s.port port).chan ch).packets) ∧
    ∀ port ch, s.route q.dst = some (port, ch) → (((s.pushPacket q).port port).chan ch).tx = ((s.port port).chan ch).tx ++ q.bytes := by
  unfold State.pushPacket
  cases known : s.route q.dst with
  | none =>
    refine ⟨s.linkFail_port 0 reasonRoute, fun port ch => ?_, fun port ch route => nomatch route⟩
    rw [State.port, State.ports_linkFail]
    rfl
  | some x =>
    obtain ⟨p, c⟩ := x
    refine ⟨⟨_, rfl⟩, fun port ch => ?_, fun port ch route => ?_⟩
    · dsimp only
      rw [State.chan_setPort_setChan]
      split
      next same => rw [same.1, same.2]
      · rfl
    · cases route
      dsimp only
      rw [State.chan_setPort_setChan, if_pos ⟨rfl, rfl⟩]

/-- A packet passed on leaves its channel; nothing else changes but what the links count. -/
theorem State.passPacket_links (s : State) (p c : Nat) : (∃ ports, s.passPacket p c = { s with leat := { s.leat with ports := ports } }) ∧
    (∀ k rest, ((s.port p).chan c).packets = k :: rest → (((s.passPacket p c).port p).chan c).packets = rest) ∧
    ∀ port ch, (((s.passPacket p c).port port).chan ch).tx = ((s.port port).chan ch).tx := by
  unfold State.passPacket
  extract_lets x y
  split
  next empty =>
    exact ⟨⟨_, rfl⟩, fun k rest head => absurd (empty.symm.trans head) (List.cons_ne_nil k rest).symm, fun _ _ => rfl⟩
  next h l head =>
    refine ⟨⟨_, rfl⟩, fun k rest known => ?_, fun port ch => ?_⟩
    · rw [State.chan_setPort_setChan, if_pos ⟨rfl, rfl⟩]
      rw [show y.packets = _ from known] at head
      exact (List.cons.inj head).2.symm
    · rw [State.chan_setPort_setChan]
      split
      next same => rw [same.1, same.2]
      · rfl

section
variable {s : State} {p c kind : Nat} {k : Packet} {rest : List Packet} (up : s.leat.state = .run)
  (head : ((s.port p).chan c).packets = k :: rest) (is : k.kind = kind)
include up head is

theorem State.runPacket_of_head (g : Packet → Option State) :
    s.runPacket p c kind g = match g k with | some t => t.passPacket p c | none => s := by
  have first : s.headPacket p c kind = some k := by
    unfold State.headPacket
    rw [head]
    exact if_pos ⟨is, up⟩
  unfold State.runPacket
  rewrite [first]
  show (match g k with | some t => t.passPacket p c | none => s) = _
  cases g k <;> rfl

theorem State.runPacket_of_some {g : Packet → Option State} {t : State} (effect : g k = some t) : s.runPacket p c kind g = t.passPacket p c := by
  rw [State.runPacket_of_head up head is, effect]

end

/-- The effect of a packet has its ACK: it waits in the channel towards the sender, and the packet has left its own. -/
theorem State.acked {s t : State} {p c : Nat} {k : Packet} {rest : List Packet} (head : ((s.port p).chan c).packets = k :: rest)
    (links : t.leat = s.leat) (id : t.moduleId = s.moduleId) :
    let u := (t.ack k).passPacket p c
    (((u.port p).chan c).packets = rest ∧ ∀ port ch, s.route k.src = some (port, ch) → ((u.port port).chan ch).tx =
      ((s.port port).chan ch).tx ++ ({ kind := 4, dst := k.src, src := s.moduleId.toNat, seq := k.seq } : Packet).bytes) ∧
      u.mem = t.mem ∧ u.hostMem = t.hostMem := by
  intro u
  have ports (port : Nat) : t.port port = s.port port := by rw [State.port, links]; rfl
  obtain ⟨⟨l, sent⟩, packets, tx⟩ : _ ∧ _ ∧ _ := State.pushPacket_links t { kind := 4, dst := k.src, src := t.moduleId.toNat, seq := k.seq }
  obtain ⟨⟨x, passed⟩, gone, kept⟩ := (t.ack k).passPacket_links p c
  refine ⟨⟨gone k rest ((packets p c).trans (by rw [ports]; exact head)), fun port ch route => ?_⟩, ?_, ?_⟩
  · refine (kept port ch).trans ((tx port ch ?_).trans ?_)
    · rw [State.route, links]
      exact route
    · rw [ports, id]
  · exact (congrArg State.mem passed).trans (congrArg State.mem sent :)
  · exact (congrArg State.hostMem passed).trans (congrArg State.hostMem sent :)

theorem State.ByMemory.moduleId {kept : Bool} {s t : State} (by_ : State.ByMemory kept s t) : t.moduleId = s.moduleId :=
  (congrArg State.moduleId by_.rest :)

/-! ## WRITE packets (R234) -/

section
variable {s : State} {p : PortIx} {c : Fin 16} {k : Packet} {rest : List Packet} (up : s.leat.state = .run)
  (head : ((s.port p).chan c).packets = k :: rest)
include up head

/-- A WRITE packet leaves what `t`, its effect on memory, leaves, and its ACK. -/
theorem exec_writePacket (is : k.kind = 1) : ∃ t u : State, exec (.writePacket p c) s = .next u.settle ∧
    (t = if s.packetReaches k.addr = true then s.devStore false k.addr k.payload else s) ∧ u.mem = t.mem ∧ u.hostMem = t.hostMem ∧
    ((u.port p).chan c).packets = rest ∧ ∀ port ch, s.route k.src = some (port, ch) → ((u.port port).chan ch).tx =
      ((s.port port).chan ch).tx ++ ({ kind := 4, dst := k.src, src := s.moduleId.toNat, seq := k.seq } : Packet).bytes := by
  generalize known : (if s.packetReaches k.addr = true then s.devStore false k.addr k.payload else s) = t
  have engine : State.ByMemory false s t := by
    rw [← known]
    split
    · exact s.byMemory_devStore false k.addr k.payload
    · exact .refl s
  obtain ⟨⟨packets, tx⟩, mem, host⟩ := State.acked head engine.leat engine.moduleId
  refine ⟨t, _, congrArg (fun u : State => Host.Outcome.next u.settle) (State.runPacket_of_some up head is ?_), rfl, mem, host, packets, tx⟩
  rw [State.writePacket, known]

end

/-! ## COMBINE packets that open their tag (R183, R186, R234) -/

/-- The tag that the first COMBINE packet opens. -/
def State.openedBy (s : State) (k : Packet) : CombineTag :=
  { fmt := k.fmt, count := k.countM1 + 1, arrival := k.op == 1, init := k.init, byPlace := true
    parts := [{ index := k.index, remote := some (k.src, k.seq) }], houses := [s.chunkHome 0 0 (some k.addr)] }

section
variable {s : State} {k : Packet}

theorem Packet.chunks_of_small (some_ : 0 < k.payload.length) (small : k.payload.length ≤ 1024) : k.chunks = [(k.addr, k.payload)] := by
  have one : ceilDiv k.payload.length 1024 = 1 := by unfold ceilDiv; omega
  unfold Packet.chunks
  rw [one]
  show [(k.addr + 0 * 1024, (k.payload.drop (0 * 1024)).take 1024)] = _
  rw [Nat.zero_mul, Nat.add_zero, List.drop_zero, List.take_of_length_le small]

theorem State.combinePacket_opens (free : (s.tag 0 k.tag.toNat).count = 0) (format : k.fmt = 1 ∨ k.fmt = 3)
    (index : k.index < k.countM1 + 1) (some_ : 0 < k.payload.length) (small : k.payload.length ≤ 1024) (reached : s.packetReaches k.addr = true)
    (room : ∀ h, s.openTags h < 256) : s.combinePacket k =
      match (s.setTag 0 k.tag.toNat (s.openedBy k)).arriveAll k.tag.toNat k.index (k.src, k.seq) [(k.addr, k.payload)] with
      | none => none
      | some (held, t) => some (if held then t else t.ack k) := by
  unfold State.combinePacket
  extract_lets t x hs opens x' x2 x3
  have opens_ : opens = true := beq_iff_eq.mpr free
  have house : hs = [s.chunkHome 0 0 (some k.addr)] := by
    simp only [hs, Packet.chunks_of_small some_ small, List.map_cons, List.map_nil]
    rfl
  have open_ : x' = { fmt := k.fmt, count := k.countM1 + 1, arrival := k.op == 1, init := k.init, byPlace := true } := if_pos opens_
  have takes : x'.takes k = true := by
    rw [open_]
    unfold CombineTag.takes
    simp only [CombineTag.by_, List.find?_nil, Bool.not_false, beq_self_eq_true, Bool.and_true, Bool.true_and, decide_eq_true_eq]
    exact index
  have joined : x3 = s.openedBy k := by
    simp only [x3, x2, open_, house]
    rfl
  have may : ¬((k.fmt ≠ 1 ∧ k.fmt ≠ 3) || !x'.takes k || k.chunks.any (fun c => !s.packetReaches c.1)) = true := by
    rw [takes, Packet.chunks_of_small some_ small, List.any_cons, List.any_nil, reached]
    simp only [Bool.not_true, Bool.or_false, decide_eq_true_eq]
    rintro ⟨other, other'⟩
    exact format.elim other other'
  have free_ : ¬((opens || x.byPlace) && hs.any (fun h => !x.houses.contains h && s.openTags h ≥ 256)) = true := by
    rw [Bool.and_eq_true, List.any_eq_true]
    rintro ⟨-, h, -, full⟩
    rw [Bool.and_eq_true, decide_eq_true_eq] at full
    exact Nat.not_le.mpr (room h) full.2
  rewrite [if_neg free_, if_neg may, Packet.chunks_of_small some_ small, joined]
  rfl

/-- The addition of the first chunk of a tag of arrivals at its place in device memory: written where INIT says so. -/
theorem addChunk_arrival {t : State} {x : CombineTag} {key i home pa : Nat} {bs : List Byte} (arrival : x.arrival = true)
    (first : Table.get 0 x.expected key = 0) (good : x.init = true ∨ t.ecc = []) :
    ∃ e, (addChunk x key i home pa false none bs).exec t = (.ok (), e) ∧ State.ByMemory false t e.s ∧
      e.s.mem = t.mem.write pa (x.combined (t.mem.readN pa bs.length) bs).1 ∧ e.s.hostMem = t.hostMem := by
  have work := Run.ByMemory.exec (addChunk_byMemory x key i home pa false none bs) t
  have isFirst : (x.init && (if x.arrival then Table.get 0 x.expected key == 0 else i == 0)) = x.init := by
    rw [arrival, if_pos rfl, first, beq_self_eq_true, Bool.and_true]
  have stores : ∃ fl, (addChunk x key i home pa false none bs).run.run { s := t } =
      (.ok (), { s := t.devStore false pa (x.combined (t.mem.readN pa bs.length) bs).1, flags := fl }) := by
    unfold addChunk CombineTag.combined
    extract_lets isFirst'
    dsimp only
    rw [show isFirst' = x.init from isFirst]
    cases init : x.init with
    | true => exact ⟨{}, rfl⟩
    | false =>
      have clean : t.ecc = [] := good.resolve_left (by rw [init]; exact Bool.false_ne_true)
      rw [if_neg Bool.false_ne_true, if_neg Bool.false_ne_true, Run.bind_of_ok (readStruct_of_clean (combineAcc 0 home) 0 pa bs.length { s := t } clean)]
      exact ⟨_, rfl⟩
  obtain ⟨fl, run⟩ := stores
  rw [Run.exec, run] at work ⊢
  obtain ⟨mem, host⟩ := t.devStore_memories false pa (x.combined (t.mem.readN pa bs.length) bs).1
  exact ⟨_, rfl, work, mem, host⟩

/-- The chunk of a packet that opens its tag has been added: only tags have changed besides. -/
theorem State.chunkAdded_remote {t : State} {p q i key : Nat} {fl : Flags} {y : Contributor} (none_ : (t.tag p q).len = 0) (named : (t.tag p q).by_ i = some y)
    (away : y.remote.isSome = true) (held : (t.tag p q).held = []) :
    ∃ l, t.chunkAdded p q i key fl = { t with tags := l } ∧ ((t.chunkAdded p q i key fl).tag p q).held = [] := by
  unfold State.chunkAdded
  extract_lets x x'
  have own : y.index = i := by simpa using List.find?_some named
  have by_ : x'.by_ i = some { y with added := y.added + 1 } := by
    have same (k : Contributor) : ((if k.index = i then { k with added := k.added + 1 } else k).index == i) = (k.index == i) := by
      split <;> rfl
    have found : x.parts.find? (fun k => k.index == i) = some y := named
    show (x.parts.map (fun (k : Contributor) => if k.index = i then { k with added := k.added + 1 } else k)).find? (fun k => k.index == i) = _
    rw [List.find?_map, show (fun k => k.index == i) ∘ (fun k : Contributor => if k.index = i then { k with added := k.added + 1 } else k) = fun k => k.index == i from
      funext same, found, Option.map_some, if_pos own]
  rw [by_]
  dsimp -zeta only
  extract_lets ends x2 s2 s3 s4
  have open_ : x2 = x' := if_neg (by rw [show ends = false from by simp only [ends, show x'.len = 0 from none_]; rfl]; exact Bool.false_ne_true)
  have stands : s4 = t.setTag p q x' := (if_pos away).trans (congrArg (t.setTag p q) open_)
  rw [stands, State.freeIfFull]
  split
  · exact ⟨_, rfl, congrArg CombineTag.held (State.tag_setTag _ p q {})⟩
  · exact ⟨_, rfl, (congrArg CombineTag.held (State.tag_setTag _ p q x')).trans held⟩

/-- The chunk of a packet that opens its tag of arrivals is added, and no chunk is held. -/
theorem State.arriveAll_opened (arrival : k.op = 1) (good : k.init = true ∨ s.ecc = []) :
    ∃ t, (s.setTag 0 k.tag.toNat (s.openedBy k)).arriveAll k.tag.toNat k.index (k.src, k.seq) [(k.addr, k.payload)] = some (false, t) ∧
      t.mem = s.mem.write k.addr ((s.openedBy k).combined (s.mem.readN k.addr k.payload.length) k.payload).1 ∧ t.hostMem = s.hostMem ∧
      t.leat = s.leat ∧ t.moduleId = s.moduleId := by
  generalize opened : s.setTag 0 k.tag.toNat (s.openedBy k) = w
  have tag : w.tag 0 k.tag.toNat = s.openedBy k := by rw [← opened]; exact State.tag_setTag _ _ _ _
  have fields : w.mem = s.mem ∧ w.hostMem = s.hostMem ∧ w.leat = s.leat ∧ w.moduleId = s.moduleId ∧ w.ecc = s.ecc := by
    rw [← opened]
    exact ⟨rfl, rfl, rfl, rfl, rfl⟩
  obtain ⟨mem, host, leat, id, ecc⟩ := fields
  have arrives : (s.openedBy k).arrival = true := beq_iff_eq.mpr arrival
  have good' : (s.openedBy k).init = true ∨ w.ecc = [] := by rw [ecc]; exact good
  obtain ⟨e, adds, engine, mem', host'⟩ := addChunk_arrival (t := w) (x := s.openedBy k) (key := k.addr / 1024) (i := k.index)
    (home := w.chunkHome 0 0 (some k.addr)) (pa := k.addr) (bs := k.payload) arrives rfl good'
  have tagE : e.s.tag 0 k.tag.toNat = s.openedBy k := (engine.tag 0 _).trans tag
  obtain ⟨l, counted, none_⟩ := State.chunkAdded_remote (t := e.s) (p := 0) (q := k.tag.toNat) (i := k.index) (key := k.addr / 1024) (fl := e.flags)
    (y := { index := k.index, remote := some (k.src, k.seq) }) (by rw [tagE]; rfl)
    (by rw [tagE]; exact List.find?_cons_of_pos (beq_self_eq_true k.index)) rfl (by rw [tagE]; rfl)
  have arrive : w.arrive 0 k.tag.toNat 0 (some k.addr) k.index false (some (k.src, k.seq)) k.payload =
      some (e.s.chunkAdded 0 k.tag.toNat k.index (k.addr / 1024) e.flags) := by
    have added : w.addOne 0 k.tag.toNat 0 k.addr (w.chunkHome 0 0 (some k.addr)) k.index k.payload =
        (true, e.s.chunkAdded 0 k.tag.toNat k.index (k.addr / 1024) e.flags) := by
      unfold State.addOne
      rw [tag]
      extract_lets x key y
      have done : y = (.ok (), e) := adds
      rewrite [done]
      rfl
    unfold State.arrive
    rw [tag]
    extract_lets x pa key home y
    have here : y = (true, e.s.chunkAdded 0 k.tag.toNat k.index (k.addr / 1024) e.flags) := added
    rewrite [here, show x.arrival = true from arrives]
    rfl
  refine ⟨e.s.chunkAdded 0 k.tag.toNat k.index (k.addr / 1024) e.flags, ?_, ?_⟩
  · unfold State.arriveAll
    extract_lets x
    have isTag : x = s.openedBy k := tag
    rw [isTag, show w.chunkAt (s.openedBy k) k.addr = some 0 from rfl, arrives]
    dsimp only
    rw [arrive]
    dsimp only [State.arriveAll]
    rw [none_]
    rfl
  · rw [counted]
    exact ⟨mem'.trans (by rw [mem]), host'.trans host, engine.leat.trans leat, engine.moduleId.trans id⟩

end

/-- A COMBINE packet that opens its tag of arrivals: its chunk stands at its place, or is added to what stood there. -/
theorem exec_combinePacket {s : State} {p : PortIx} {c : Fin 16} {k : Packet} {rest : List Packet} (up : s.leat.state = .run)
    (head : ((s.port p).chan c).packets = k :: rest) (is : k.kind = 2) (free : (s.tag 0 k.tag.toNat).count = 0) (format : k.fmt = 1 ∨ k.fmt = 3)
    (arrival : k.op = 1) (index : k.index < k.countM1 + 1) (some_ : 0 < k.payload.length) (small : k.payload.length ≤ 1024)
    (reached : s.packetReaches k.addr = true) (room : ∀ h, s.openTags h < 256) (good : k.init = true ∨ s.ecc = []) :
    ∃ u : State, exec (.combinePacket p c) s = .next u.settle ∧
      u.mem = s.mem.write k.addr ((s.openedBy k).combined (s.mem.readN k.addr k.payload.length) k.payload).1 ∧ u.hostMem = s.hostMem ∧
      ((u.port p).chan c).packets = rest ∧ ∀ port ch, s.route k.src = some (port, ch) → ((u.port port).chan ch).tx =
        ((s.port port).chan ch).tx ++ ({ kind := 4, dst := k.src, src := s.moduleId.toNat, seq := k.seq } : Packet).bytes := by
  obtain ⟨t, arrives, mem, host, links, id⟩ := State.arriveAll_opened (s := s) (k := k) arrival good
  obtain ⟨⟨packets, tx⟩, mem', host'⟩ := State.acked head links id
  refine ⟨_, congrArg (fun u : State => Host.Outcome.next u.settle) (State.runPacket_of_some up head is ?_), mem'.trans mem, host'.trans host,
    packets, tx⟩
  rewrite [State.combinePacket_opens free format index some_ small reached room, arrives]
  rfl

/-! ## RING packets (R236, R238) -/

section
variable {s : State} {k : Packet} {f r : Nat} {m : Collective} {n : Running}

/-- A member that takes a packet leaves the commands of the rings to what collects its work. -/
theorem Collective.take_linkWork (m : Collective) (f : Nat) (k : Packet) : Run.LinkWork (m.take f k) := by
  unfold Collective.take
  extract_lets size chunk
  refine Run.linkWork_ite ?_ ?_
  · refine Run.linkWork_bind (Collective.source_linkWork _ _ _ _) fun own => Run.linkWork_bind (combineBytes_byMemory _).linkWork fun acc => ?_
    refine Run.linkWork_ite ?_ (Run.linkWork_bind (Collective.emits_linkWork _ _ _ _) fun _ => (Run.byMemory_pure _).linkWork)
    exact Run.linkWork_ite (Run.linkWork_bind (Collective.emits_linkWork _ _ _ _) fun _ => Collective.final_linkWork _ _ _ _)
      (Collective.final_linkWork _ _ _ _)
  · exact Run.linkWork_ite (Run.linkWork_bind (Collective.emits_linkWork _ _ _ _) fun _ => Collective.final_linkWork _ _ _ _)
      (Collective.final_linkWork _ _ _ _)

theorem State.ringPacket_of_dead (none_ : s.memberOf k.tag = none) (dead : k.tag ∈ s.leat.dead) : s.ringPacket k = some s := by
  rewrite [State.ringPacket, none_]
  exact if_pos (List.contains_iff_mem.mpr dead)

theorem State.ringPacket_waits (none_ : s.memberOf k.tag = none) (alive : k.tag ∉ s.leat.dead) : s.ringPacket k = none := by
  rewrite [State.ringPacket, none_]
  exact if_neg fun dead => alive (List.contains_iff_mem.mp dead)

theorem State.ringPacket_disagrees (member : s.memberOf k.tag = some (f, r, m)) (other : m.agrees k = false) :
    s.ringPacket k = some ((s.finish f r .broken m.result).deadTag m.tag) := by
  rewrite [State.ringPacket, member]
  exact if_pos (by rw [other]; rfl)

theorem State.ringPacket_taken (member : s.memberOf k.tag = some (f, r, m)) (same : m.agrees k = true) :
    s.ringPacket k = some (m.collected f r ((m.take f k).exec s)) := by
  rewrite [State.ringPacket, member]
  exact if_neg (by rw [same]; exact Bool.false_ne_true)

/-- What a packet that its member takes leaves, where the work succeeds. -/
theorem Collective.taken_fields {m' : Collective} {e : Eng} (runs : s.running f r = some n) (going : n.done = none)
    (takes : (m.take f k).exec s = (.ok m', e)) :
    let u := m.collected f r ((m.take f k).exec s)
    u.mem = e.s.mem ∧ u.hostMem = e.s.hostMem ∧ (u.sq f r).running = some (Collective.outcome m' n e.flags m.result e.s.ends) ∧ u.leat = e.s.leat := by
  have work := (Collective.take_linkWork m f k).exec s
  rw [takes] at work
  have same : e.s.running f r = some n := (work.running f r).trans runs
  dsimp only
  rw [takes]
  exact Collective.collected_of_ok same going

/-- A final chunk of one packet that goes no further is written. -/
theorem Collective.take_final {pb : Nat} (clean : s.ecc = []) (op : k.op = 1) (last : (m.pos + 1) % m.n = k.addr / m.size) (none_ : m.parts = [])
    (whole : k.payload.length = m.chunkLen (k.addr / m.size))
    (reach : s.ReachesApart [(pb, k.payload.length)] (m.acc f) true ((m.dst.toNat + k.addr) % 2 ^ 48) k.payload.length pb) :
    ∃ t w, (m.take f k).exec s = (.ok { m with written := m.written + k.payload.length }, { s := t, wrote := w }) ∧ s.Stored t pb k.payload := by
  have all : pieceBytes ([] ++ [(k.addr, k.payload)]) = k.payload := List.append_nil _
  have length : (pieceBytes ([] ++ [(k.addr, k.payload)])).length = k.payload.length := congrArg List.length all
  obtain ⟨t, w, run, stored⟩ := Collective.final_last (k := m) (f := f) (e := { s := s }) (bs := k.payload) (o := k.addr) (pb := pb) [] (o0 := k.addr)
    clean (fun x mem => by rw [List.mem_singleton.mp mem]) (length.trans whole) ⟨rfl, trivial⟩ (by rw [length]; exact reach.unwrap)
  rw [all] at stored
  rw [← none_, ← whole] at run
  refine ⟨t, w, ?_, stored⟩
  have run' : (m.take f k).run.run { s := s } = (.ok { m with written := m.written + k.payload.length }, { s := t, wrote := w }) := by
    unfold Collective.take
    extract_lets size chunk
    rw [if_neg (by rw [op]; exact Nat.one_ne_zero), if_neg (not_not_intro last)]
    exact run
  rw [Run.exec, run']
  exact congrArg (Prod.mk _) (Eng.clearWritten_of_clean stored.ecc)

/-- A partial sum on its way: the member's source is added, and the sum goes on to its successor. -/
theorem Collective.take_partial {pa : Nat} (clean : s.ecc = []) (op : k.op = 0) (other : m.pos ≠ k.addr / m.size) (kind : m.kind ≠ 2)
    (reach : s.Reaches (m.acc f) false ((m.src.toNat + k.addr) % 2 ^ 48) k.payload.length pa) :
    let sum := (combineBytes m.fmt k.payload (s.mem.readN pa k.payload.length)).run {}
    (m.take f k).exec s = (.ok { m with summed := m.summed + k.payload.length }, { s := s.emitRing m 0 k.addr sum.1, flags := sum.2 }) := by
  intro sum
  have read : (m.source f k.addr k.payload.length).run.run { s := s } = (.ok (s.mem.readN pa k.payload.length), { s := s }) := by
    refine Collective.source_run clean ?_
    rw [if_neg kind]
    exact reach.unwrap
  have sums : (withFlags (combineBytes m.fmt k.payload (s.mem.readN pa k.payload.length))).run.run { s := s } = (.ok sum.1, { s := s, flags := sum.2 }) := rfl
  have sends : (modS fun s => s.emitRing m 0 k.addr sum.1).run.run { s := s, flags := sum.2 } =
      (.ok (), { s := s.emitRing m 0 k.addr sum.1, flags := sum.2 }) := rfl
  have run : (m.take f k).run.run { s := s } =
      (.ok { m with summed := m.summed + k.payload.length }, { s := s.emitRing m 0 k.addr sum.1, flags := sum.2 }) := by
    unfold Collective.take
    extract_lets size chunk
    rw [if_pos op, Run.bind_of_ok read, Run.bind_of_ok sums, if_neg (show ¬chunk = m.pos from other.symm), Run.bind_of_ok sends]
    rfl
  have still : (s.emitRing m 0 k.addr sum.1).ecc = [] := by
    obtain ⟨l, sent⟩ := s.emitRing_links m 0 k.addr sum.1
    rw [sent]
    exact clean
  rw [Run.exec, run]
  exact congrArg (Prod.mk _) (Eng.clearWritten_of_clean (e := { s := s.emitRing m 0 k.addr sum.1, flags := sum.2 }) still)

/-- A member that takes part in a reduction or a gather agrees with packets of its kind only. -/
theorem Collective.kind_of_agrees (same : m.agrees k = true) (op : k.op = 0) : m.kind ≠ 2 := by
  intro gather
  simp only [Collective.agrees, op, gather, Bool.and_eq_true] at same
  obtain ⟨⟨⟨-, kinds⟩, -⟩, -⟩ := same
  exact absurd kinds (by decide)

/-- Packets sent to the successor leave every channel's packets to come. -/
theorem State.emitRing_packets (s : State) (m : Collective) (op o : Nat) (bs : List Byte) (port ch : Nat) :
    (((s.emitRing m op o bs).port port).chan ch).packets = ((s.port port).chan ch).packets :=
  (State.pushPacket_links _ _).2.1 port ch

/-- A member that disagrees ends with BROKEN, and its tag is dead. -/
theorem State.finish_deadTag (runs : s.running f r = some n) (going : n.done = none) (st : Status) (res : Word32) (tag : BitVec 16) :
    let u := (s.finish f r st res).deadTag tag
    tag ∈ u.leat.dead ∧ u.mem = s.mem ∧ u.hostMem = s.hostMem ∧
      (u.sq f r).running = some { n with done := some (n.statusOf st, res), wait := .none, doneAt := s.ends } := by
  have ends : ((s.endedWith f r n st res).sq f r).running = some { n with done := some (n.statusOf st, res), wait := .none, doneAt := s.ends } := by
    refine (State.running_setRunning s.ended f r _).trans ?_
    rw [going]
    rfl
  have kept : (s.endedWith f r n st res).mem = s.mem ∧ (s.endedWith f r n st res).hostMem = s.hostMem := ⟨rfl, rfl⟩
  rw [s.finish_of_running f r n _ _ runs]
  generalize s.endedWith f r n st res = t at ends kept
  unfold State.deadTag
  split
  next dead => exact ⟨List.contains_iff_mem.mp dead, kept.1, kept.2, ends⟩
  · exact ⟨List.mem_append_right _ (.head _), kept.1, kept.2, ends⟩

end

/-! ## ACK packets (R234) -/

/-- The last ACK of a command that waits for its ACKs ends it. -/
theorem State.ackPacket_last {s : State} {k : Packet} {a : Awaited} {n : Running} {st : Status} (awaited : s.leat.awaited = [a])
    (none_ : s.leat.queued = []) (from_ : a.dst = k.src) (number : a.seq = k.seq) (runs : s.running a.f a.r = some n) (waits : n.wait = .acks st [])
    (own : n.seq = a.cmd) (going : n.done = none) :
    let u := s.ackPacket k
    u.leat.awaited = [] ∧ u.mem = s.mem ∧ (u.sq a.f a.r).running = some { n with
      done := some (n.statusOf st, if opcodeOf n.desc.opcode = some .combine then BitVec.ofNat 32 (chunksOf n.desc.len) else 0)
      wait := .none, doneAt := s.ends } := by
  intro u
  have found : s.leat.awaited.find? (fun a => a.dst == k.src && a.seq == k.seq) = some a := by
    rw [awaited]
    exact List.find?_cons_of_pos (by rw [from_, number, beq_self_eq_true, beq_self_eq_true]; rfl)
  generalize freed : ({ s with leat := { s.leat with awaited := s.leat.awaited.filter (fun b => b != a) } } : State) = t
  have empty : t.leat.awaited = [] := by
    rw [← freed]
    show s.leat.awaited.filter (fun b => b != a) = []
    rw [awaited]
    exact List.filter_eq_nil_iff.mpr fun b mem => by rw [List.mem_singleton.mp mem, bne_self_eq_false]; exact Bool.false_ne_true
  have still : t.leat.queued = [] ∧ t.mem = s.mem ∧ t.ends = s.ends := by rw [← freed]; exact ⟨none_, rfl, rfl⟩
  obtain ⟨still, mem, at_⟩ := still
  have run : t.running a.f a.r = some n := by rw [← freed]; exact runs
  have owes : t.owedAcks a.f a.r a.cmd = 0 := by rw [State.owedAcks, empty, still]; rfl
  have goes : u = t.endedWith a.f a.r n st (if opcodeOf n.desc.opcode = some .combine then BitVec.ofNat 32 (chunksOf n.desc.len) else 0) := by
    simp only [u]
    unfold State.ackPacket
    rw [found]
    dsimp only
    rw [freed, State.sendAll_of_none still, run]
    dsimp only
    rw [waits]
    dsimp only
    rw [if_pos ⟨own, owes⟩, State.finishWith, State.sides_nil, t.finish_of_running _ _ n _ _ run]
  rw [goes, ← mem, ← at_]
  refine ⟨empty, rfl, (State.running_setRunning t.ended a.f a.r _).trans ?_⟩
  rw [going]
  rfl

/-! ## Packets, whole -/

/-- Settles O47: the effect of each kind of packet on memory, on its tag, member or command, the ACK, and the packet passed on. -/
theorem packetsHaveTheirEffectAndAnAck : Obligations.PacketsHaveTheirEffectAndAnAck := by
  intro s p c k rest up head
  extract_lets ack acked stored size reached
  have reaches : reached ↔ s.packetReaches k.addr = true := by
    rw [State.packetReaches, Bool.and_eq_true, beq_iff_eq]
  have next {kind : Nat} {g : Packet → Option State} {t u : State} (is : k.kind = kind) (effect : g k = some t) (same : t.passPacket p c = u) :
      (Host.Outcome.next (s.runPacket p c kind g).settle : Out) = .next u.settle := by
    rw [State.runPacket_of_some up head is effect, same]
  have gone {t : State} (links : ((t.port p).chan c).packets = ((s.port p).chan c).packets) : (((t.passPacket p c).port p).chan c).packets = rest :=
    (t.passPacket_links p c).2.1 k rest (links.trans head)
  have kept (t : State) : (t.passPacket p c).mem = t.mem ∧ (t.passPacket p c).hostMem = t.hostMem ∧ (t.passPacket p c).fns = t.fns ∧
      (t.passPacket p c).leat.dead = t.leat.dead ∧ (t.passPacket p c).leat.awaited = t.leat.awaited := by
    obtain ⟨ports, passed⟩ := (t.passPacket_links p c).1
    rw [passed]
    exact ⟨rfl, rfl, rfl, rfl, rfl⟩
  have ring (t : State) (f r : Nat) : (t.passPacket p c).sq f r = t.sq f r := by rw [State.sq, State.sq, State.fn, State.fn, (kept t).2.2.1]
  refine ⟨fun is => ?_, fun is free format arrival index some_ small may room => ?_, fun is => ⟨fun none_ dead => ?_, fun none_ alive => ?_, ?_, ?_, ?_, ?_⟩, ?_⟩
  · obtain ⟨t, u, goes, effect, mem, host, done⟩ := exec_writePacket up head is
    refine ⟨fun may => ⟨u, goes, ?_, done, ?_⟩, fun cannot => ⟨u, goes, ?_, done⟩⟩
    · rw [if_pos (reaches.mp may)] at effect
      rw [effect, (s.devStore_memories false k.addr k.payload).1] at mem
      refine ⟨fun i low => ?_, fun b out => ?_⟩
      · rw [mem]
        exact Memory.read_write_in s.mem k.addr k.payload i low
      · rw [mem]
        exact Memory.read_write_out s.mem k.addr k.payload b out
    · rw [host, effect, if_pos (reaches.mp may)]
      exact (s.devStore_memories false k.addr k.payload).2
    · rw [mem, effect, if_neg fun may => cannot (reaches.mpr may)]
  · have goes := fun good => exec_combinePacket up head is free format arrival index some_ small (reaches.mp may) room good
    refine ⟨fun init => ?_, fun init clean whole => ?_⟩
    · obtain ⟨u, goes, mem, host, done⟩ := goes (.inl init)
      have bytes : ((s.openedBy k).combined (s.mem.readN k.addr k.payload.length) k.payload).1 = k.payload := congrArg Prod.fst (if_pos init)
      rw [bytes] at mem
      refine ⟨u, goes, ⟨fun i low => ?_, fun b out => ?_⟩, done, host⟩
      · rw [mem]
        exact Memory.read_write_in s.mem k.addr k.payload i low
      · rw [mem]
        exact Memory.read_write_out s.mem k.addr k.payload b out
    · obtain ⟨u, goes, mem, host, done⟩ := goes (.inr clean)
      have bytes : (s.openedBy k).combined (s.mem.readN k.addr k.payload.length) k.payload =
          (combineBytes k.fmt (s.mem.readN k.addr k.payload.length) k.payload).run {} :=
        if_neg (show ¬k.init = true by rw [init]; exact Bool.false_ne_true)
      have length := length_combineBytes k.fmt (s.mem.readN k.addr k.payload.length) k.payload {} whole
      rw [bytes] at mem
      refine ⟨u, goes, ?_, fun b out => ?_, done, host⟩
      · have stands := Memory.readN_write s.mem k.addr ((combineBytes k.fmt (s.mem.readN k.addr k.payload.length) k.payload).run {}).1
        rw [length] at stands
        rw [mem]
        exact stands
      · rw [mem]
        exact Memory.read_write_out s.mem k.addr _ b (by rw [length]; exact out)
  · exact ⟨_, next is (State.ringPacket_of_dead none_ dead) rfl, gone rfl, (kept s).1, (kept s).2.2.1⟩
  · have waits : s.runPacket p c 3 (fun p => s.ringPacket p) = s := by
      rw [State.runPacket_of_head up head is, State.ringPacket_waits none_ alive]
    exact congrArg (fun u : State => Host.Outcome.next u.settle) waits
  · intro f r m n member other runs going
    obtain ⟨dead, mem, -, ended⟩ := State.finish_deadTag runs going .broken m.result m.tag
    refine ⟨_, next is (State.ringPacket_disagrees member other) rfl, ?_, (kept _).1.trans mem, ?_⟩
    · rw [(kept _).2.2.2.1]
      exact dead
    · rw [ring]
      exact ended
  · intro f r m n m' e member same runs going takes
    obtain ⟨mem, host, running, -⟩ := Collective.taken_fields runs going takes
    refine ⟨_, next is (State.ringPacket_taken member same) rfl, (kept _).1.trans mem, (kept _).2.1.trans host, ?_⟩
    rw [ring]
    exact running
  · intro f r m n pb member same runs going clean op last none_ whole reach m'
    obtain ⟨t, w, takes, stored⟩ := Collective.take_final clean op last none_ whole reach
    obtain ⟨mem, host, running, links⟩ := Collective.taken_fields runs going takes
    refine ⟨_, next is (State.ringPacket_taken member same) rfl, gone ?_, ?_, fun b out => ?_, (kept _).2.1.trans (host.trans stored.host), ?_⟩
    · rw [State.port, links, stored.engine.leat]
      rfl
    · rw [(kept _).1, mem]
      exact stored.bytes
    · rw [(kept _).1, mem]
      exact stored.others b out
    · rw [ring, running, Collective.outcome, Flags.or_none, stored.engine.ends]
  · intro f r m n pa member same runs going clean op other reach m' sum next_ more
    have takes := Collective.take_partial clean op other (Collective.kind_of_agrees same op) reach
    obtain ⟨mem, host, running, links⟩ := Collective.taken_fields runs going takes
    have packet := State.emitRing_links s m 0 k.addr sum.1
    have sends := State.emitRing_sends s m 0 k.addr sum.1
    have stays := State.emitRing_packets s m 0 k.addr sum.1
    generalize known : s.emitRing m 0 k.addr sum.1 = t at packet sends stays
    dsimp only at mem host running links
    rw [show s.emitRing m 0 k.addr ((combineBytes m.fmt k.payload (s.mem.readN pa k.payload.length)).run {}).1 = t from known] at mem host running links
    obtain ⟨l, sent⟩ := packet
    have ports (u : State) (same : u.leat = t.leat) (port : Nat) : u.port port = t.port port := by rw [State.port, same]; rfl
    refine ⟨_, next is (State.ringPacket_taken member same) rfl, gone ?_, fun port ch route => ?_, ?_, ?_, ?_⟩
    · rw [ports _ links]
      exact stays p c
    · refine (((State.passPacket_links _ p c).2.2 port ch).trans ?_).trans (sends port ch route)
      rw [ports _ links]
    · rw [(kept _).1, mem, sent]
    · rw [(kept _).2.1, host, sent]
    · rw [ring, running, Collective.outcome]
      exact congrArg some (if_neg (by rw [show ({ m with summed := m.summed + k.payload.length } : Collective).ended = false from more]; exact Bool.false_ne_true))
  · intro a n st is awaited none_ from_ number runs waits own going
    obtain ⟨empty, mem, ended⟩ := State.ackPacket_last awaited none_ from_ number runs waits own going
    refine ⟨_, next (g := fun p => some (s.ackPacket p)) is rfl rfl, ?_, (kept _).1.trans mem, ?_⟩
    · rw [(kept _).2.2.2.2]
      exact empty
    · rw [ring]
      exact ended

end Sys2Proof.Machine
end

section
/-! PROOFS. Number operations whose value no flag decides (R73, R75): flags are only collected. -/
namespace Sys2Proof.Machine

/-- The value does not depend on the flags that stand already. -/
def FM.Steady {α : Type} (m : FM α) : Prop := ∀ fl, (m.run fl).1 = (m.run {}).1

section
variable {α β : Type}

@[simp] theorem FM.steady_pure (x : α) : FM.Steady (pure x : FM α) := fun _ => rfl

@[simp] theorem FM.steady_modify (g : Flags → Flags) : FM.Steady (modify g : FM Unit) := fun _ => rfl

@[simp] theorem FM.steady_setInv : FM.Steady setInv := fun _ => rfl
@[simp] theorem FM.steady_setOvf : FM.Steady setOvf := fun _ => rfl
@[simp] theorem FM.steady_setUfl : FM.Steady setUfl := fun _ => rfl
@[simp] theorem FM.steady_setInx : FM.Steady setInx := fun _ => rfl
@[simp] theorem FM.steady_setSat : FM.Steady setSat := fun _ => rfl
@[simp] theorem FM.steady_setClamped : FM.Steady setClamped := fun _ => rfl

@[simp] theorem FM.steady_bind {m : FM α} {k : α → FM β} (first : FM.Steady m) (rest : ∀ x, FM.Steady (k x)) : FM.Steady (m >>= k) := fun fl => by
  rw [FM.bind_run, FM.bind_run, first fl, rest _ (m.run fl).2, rest _ (m.run {}).2]

@[simp] theorem FM.steady_ite {c : Prop} [Decidable c] {x y : FM α} (yes : FM.Steady x) (no : FM.Steady y) : FM.Steady (if c then x else y) := by
  split
  · exact yes
  · exact no

@[simp] theorem FM.steady_map {m : FM α} (g : α → β) (first : FM.Steady m) : FM.Steady (g <$> m) := fun fl => congrArg g (first fl)

theorem FM.value_bind {m : FM α} {k : α → FM β} (rest : ∀ x, FM.Steady (k x)) (fl : Flags) :
    ((m >>= k).run fl).1 = ((k (m.run fl).1).run {}).1 := rest _ _

/-- The values of a list of steady operations are those of each by itself. -/
theorem FM.value_mapM {f : α → FM β} (each : ∀ x, FM.Steady (f x)) (l : List α) (fl : Flags) :
    ((l.mapM f).run fl).1 = l.map fun x => ((f x).run {}).1 := by
  induction l generalizing fl with
  | nil => rfl
  | cons x l ih =>
    have step : ((x :: l).mapM f) = f x >>= fun y => l.mapM f >>= fun ys => pure (y :: ys) := List.mapM_cons
    rw [step, FM.bind_run, FM.bind_run, List.map_cons, ← ih ((f x).run fl).2, ← each x fl]
    rfl

theorem FM.steady_mapM {f : α → FM β} (each : ∀ x, FM.Steady (f x)) (l : List α) : FM.Steady (l.mapM f) := fun fl => by
  rw [FM.value_mapM each, FM.value_mapM each]

end

/-! ## Formats (R15 to R43) -/

@[simp] theorem decodeFloat_steady (code : Nat) (f : FloatFmt) (bits : Nat) : FM.Steady (decodeFloat code f bits) := by
  simp (maxDischargeDepth := 60) [decodeFloat]

@[simp] theorem decodeElem_steady (code bits : Nat) : FM.Steady (decodeElem code bits) := by
  unfold decodeElem
  split
  · exact decodeFloat_steady _ _ _
  · split <;> simp (maxDischargeDepth := 60)

@[simp] theorem overflowBits_steady (code : Nat) (f : FloatFmt) (e4nan s fromInf : Bool) : FM.Steady (overflowBits code f e4nan s fromInf) := by
  simp (maxDischargeDepth := 60) [overflowBits]

@[simp] theorem encodeFloat_steady (code : Nat) (f : FloatFmt) (e4nan : Bool) (v : Num) : FM.Steady (encodeFloat code f e4nan v) := by
  unfold encodeFloat
  split <;> simp (maxDischargeDepth := 60)

@[simp] theorem encodeInt_steady (sg : Bool) (w : Nat) (v : Num) : FM.Steady (encodeInt sg w v) := by
  unfold encodeInt
  cases v <;> simp (maxDischargeDepth := 60)

@[simp] theorem encodeUn16_steady (v : Num) : FM.Steady (encodeUn16 v) := by
  unfold encodeUn16
  cases v <;> simp (maxDischargeDepth := 60)

@[simp] theorem encodeElem_steady (w : BitVec 8) (v : Num) : FM.Steady (encodeElem w v) := by
  unfold encodeElem
  extract_lets code
  split
  · simp
  · split
    · exact encodeInt_steady _ _ _
    · simp

@[simp] theorem toFp32_steady (v : Num) : FM.Steady (toFp32 v) := by simp (maxDischargeDepth := 60) [toFp32]
@[simp] theorem ofFp32_steady (w : Word32) : FM.Steady (ofFp32 w) := decodeFloat_steady _ _ _
@[simp] theorem readFp32_steady (code bits : Nat) : FM.Steady (readFp32 code bits) := by simp (maxDischargeDepth := 60) [readFp32]

/-! ## FP32 operations and fixed functions (R57, R135 to R138) -/

@[simp] theorem fpRound_steady (ins : List Num) (exact_ : Num) : FM.Steady (fpRound ins exact_) := by simp (maxDischargeDepth := 60) [fpRound]
@[simp] theorem fpAdd_steady (a b : Word32) : FM.Steady (fpAdd a b) := by simp (maxDischargeDepth := 60) [fpAdd]
@[simp] theorem fpMul_steady (a b : Word32) : FM.Steady (fpMul a b) := by simp (maxDischargeDepth := 60) [fpMul]
@[simp] theorem fpSub_steady (a b : Word32) : FM.Steady (fpSub a b) := by simp (maxDischargeDepth := 60) [fpSub]
@[simp] theorem fpDiv_steady (a b : Word32) : FM.Steady (fpDiv a b) := by simp (maxDischargeDepth := 60) [fpDiv]
@[simp] theorem laneRound_steady (v : Num) : FM.Steady (laneRound v) := by simp (maxDischargeDepth := 60) [laneRound]
@[simp] theorem laneNaN_steady : FM.Steady laneNaN := by simp (maxDischargeDepth := 60) [laneNaN]

@[simp] theorem governorFinite_steady (code : Nat) (neg : Bool) (n : Nat) (e : Int) : FM.Steady (governorFinite code neg n e) := by
  unfold governorFinite
  extract_lets x
  split <;> simp (maxDischargeDepth := 60)

@[simp] theorem governorInf_steady (code : Nat) (neg : Bool) : FM.Steady (governorInf code neg) := by
  unfold governorInf
  split <;> simp (maxDischargeDepth := 60)

@[simp] theorem governorFixed_steady (code : Nat) (x : Word32) : FM.Steady (governorFixed code x) := by
  unfold governorFixed
  split <;> simp (maxDischargeDepth := 60)

@[simp] theorem GovTable.eval_steady (t : GovTable) (w : Word32) : FM.Steady (t.eval w) := by simp (maxDischargeDepth := 60) [GovTable.eval]

@[simp] theorem governor_steady (tables : List GovTable) (code : Nat) (x : Word32) : FM.Steady (governor tables code x) := by simp (maxDischargeDepth := 60) [governor]

/-! ## Draws and samples (R325 to R330) -/

@[simp] theorem invNormal_steady (k : Nat) : FM.Steady (invNormal k) := by simp (maxDischargeDepth := 60) [invNormal]

@[simp] theorem DrawSpec.place_steady (x : DrawSpec) (u : Num) : FM.Steady (x.place u) := by simp (maxDischargeDepth := 60) [DrawSpec.place]

@[simp] theorem DrawSpec.value_steady (x : DrawSpec) (c : SetCtx) (e : Nat) : FM.Steady (x.value c e) := by simp (maxDischargeDepth := 60) [DrawSpec.value]

@[simp] theorem bolterLogit_steady (fmt : BitVec 8) (code : Nat) : FM.Steady (bolterLogit fmt code) := by simp (maxDischargeDepth := 60) [bolterLogit]

@[simp] theorem bolterSums_steady (zmax : Word32) (l : List (Nat × Word32)) : ∀ s, FM.Steady (bolterSums zmax l s) := by
  induction l with
  | nil => exact fun s => FM.steady_pure []
  | cons c l ih =>
    intro s
    simp (maxDischargeDepth := 60) [bolterSums, ih]

@[simp] theorem bolterToken_steady (d : Desc) (x : List Word32) (w : Word32) : FM.Steady (bolterToken d x w) := by
  unfold bolterToken
  extract_lets greedy k u rest
  have goesOn (z : List Word32) : FM.Steady (rest z) := by
    simp only [rest]
    split <;> simp (maxDischargeDepth := 60)
  exact FM.steady_ite (FM.steady_bind (FM.steady_pure x) goesOn) (FM.steady_bind (FM.steady_mapM (fun v => fpDiv_steady v d.temp) x) goesOn)

end Sys2Proof.Machine
end

section
/-! PROOFS. Draws and samples (R320 to R330): DAMSEL_DRAW, BOLTER_SAMPLE. -/
namespace Sys2Proof.Machine

/-! ## Packed rows (R32, R33) -/

theorem groupElems_dvd (bits u : Nat) : groupElems bits ∣ 256 * u := by
  have divides : groupElems bits ∣ 256 := by
    unfold groupElems
    split
    · exact ⟨128, rfl⟩
    · split
      · exact ⟨64, rfl⟩
      · exact ⟨256, rfl⟩
  exact divides.mul_right u

/-- A packed row in two parts, the first of whole groups. -/
theorem packRow_append (bits : Nat) (xs ys : List Nat) (whole : groupElems bits ∣ xs.length) :
    packRow bits (xs ++ ys) = packRow bits xs ++ packRow bits ys := by
  obtain ⟨k, size⟩ := whole
  have pos := groupElems_pos bits
  have groups : ceilDiv xs.length (groupElems bits) = k := by rw [size, Nat.mul_comm]; exact ceilDiv_mul k pos
  have total : ceilDiv (xs ++ ys).length (groupElems bits) = k + ceilDiv ys.length (groupElems bits) := by
    unfold ceilDiv
    rw [List.length_append, size, Nat.add_assoc, Nat.add_sub_assoc (by omega), Nat.mul_add_div pos]
  unfold packRow
  rw [total, groups, List.range_add, List.flatMap_append, List.flatMap_map]
  congr 1
  · refine List.flatMap_congr fun g mem => ?_
    have low : (g + 1) * groupElems bits ≤ xs.length := by
      rw [size, Nat.mul_comm]
      exact Nat.mul_le_mul_left _ (List.mem_range.mp mem)
    rw [Nat.succ_mul] at low
    rw [List.drop_append_of_le_length (by omega), List.take_append_of_le_length (by rw [List.length_drop]; omega)]
  · refine List.flatMap_congr fun g _ => ?_
    rw [Nat.add_mul, Nat.mul_comm k, ← size, List.drop_length_add_append]

theorem packedOff_eq (bits u : Nat) {codes : List Nat} (size : codes.length = 256 * u) : packedOff bits (256 * u) = (packRow bits codes).length := by
  obtain ⟨k, whole⟩ := groupElems_dvd bits u
  rw [length_packRow, rowBytes, size, packedOff, whole, Nat.mul_div_cancel_left _ (groupElems_pos bits), Nat.mul_comm (groupElems bits) k,
    ceilDiv_mul _ (groupElems_pos bits)]

/-! ## Loops of an engine -/

/-- A loop whose every step succeeds keeps what its steps keep. -/
theorem Run.foldlM_range {β : Type} {f : β → Nat → Run β} (P : Nat → β → Eng → Prop) (n : Nat)
    (step : ∀ j < n, ∀ x e, P j x e → ∃ x' e', (f x j).run.run e = (.ok x', e') ∧ P (j + 1) x' e') {x : β} {e : Eng} (start : P 0 x e) :
    ∃ x' e', ((List.range n).foldlM f x).run.run e = (.ok x', e') ∧ P n x' e' := by
  induction n with
  | zero => exact ⟨x, e, rfl, start⟩
  | succ n ih =>
    obtain ⟨y, t, run, known⟩ := ih fun j low => step j (Nat.lt_succ_of_lt low)
    obtain ⟨z, u, next, after⟩ := step n (Nat.lt_succ_self n) y t known
    refine ⟨z, u, ?_, after⟩
    rw [List.range_succ, List.foldlM_append, Run.bind_of_ok run, List.foldlM_cons, Run.bind_of_ok next]
    rfl

theorem Run.byMemory_foldlM {α β : Type} {kept : Bool} {f : β → α → Run β} (each : ∀ x a, Run.ByMemory kept (f x a)) (l : List α) :
    ∀ x, Run.ByMemory kept (l.foldlM f x) := by
  induction l with
  | nil => exact fun x => Run.byMemory_pure x
  | cons a l ih =>
    intro x
    rw [List.foldlM_cons]
    exact Run.byMemory_bind (each x a) ih

/-- Number operations of an engine, one after another: their values, whatever flags they set. -/
theorem Run.mapM_withFlags {α β : Type} (g : α → FM β) (l : List α) : ∀ e : Eng, ∃ fl, (l.mapM fun x => withFlags (g x)).run.run e =
    (.ok (l.map fun x => ((g x).run {}).1), { e with flags := fl }) := by
  induction l with
  | nil => exact fun e => ⟨e.flags, rfl⟩
  | cons x l ih =>
    intro e
    obtain ⟨fl, rest⟩ := ih { e with flags := e.flags.or ((g x).run {}).2 }
    have first : (withFlags (g x)).run.run e = (.ok ((g x).run {}).1, { e with flags := e.flags.or ((g x).run {}).2 }) := rfl
    refine ⟨fl, ?_⟩
    rw [List.mapM_cons, Run.bind_of_ok first, Run.bind_of_ok rest]
    rfl

/-! ## Ends of a command without a side buffer (R354) -/

section
variable {s : State} {f r : Nat} {c : Running}

/-- Side records of a command without a side buffer are lost. -/
theorem State.sides_of_no_buffer (none_ : c.desc.sideLen = 0) (recs : List (Nat × List Byte)) (fault : Option FaultRec) :
    ∀ {s : State} {c' : Running}, c'.desc = c.desc → s.running f r = some c' →
      let u := s.sides f r recs fault
      u.mem = s.mem ∧ u.hostMem = s.hostMem ∧ u.ends = s.ends ∧
        u.running f r = some { c' with sideOvf := c'.sideOvf || (!recs.isEmpty || fault.isSome) } := by
  have again {s : State} {c' : Running} (same : c'.desc = c.desc) (runs : s.running f r = some c') (kind : Nat) (body : List Byte) :
      s.side f r kind body = s.setRunning f r (some { c' with sideOvf := true }) :=
    State.side_of_no_buffer runs kind body (by rw [same]; exact none_)
  induction recs with
  | nil =>
    intro s c' same runs
    cases fault with
    | none =>
      refine ⟨rfl, rfl, rfl, runs.trans (congrArg some ?_)⟩
      rw [List.isEmpty_nil, Bool.not_true, Bool.false_or, Option.isSome_none, Bool.or_false]
    | some x =>
      have lost : s.sides f r [] (some x) = s.setRunning f r (some { c' with sideOvf := true }) := again same runs 0x03 x.body
      dsimp only
      rw [lost, Option.isSome_some, Bool.or_true, Bool.or_true]
      exact ⟨rfl, rfl, rfl, s.running_setRunning f r _⟩
  | cons x recs ih =>
    intro s c' same runs
    have lost : s.sides f r (x :: recs) fault = (s.setRunning f r (some { c' with sideOvf := true })).sides f r recs fault :=
      congrArg (fun t : State => t.sides f r recs fault) (again same runs x.1 x.2)
    obtain ⟨mem, host, ends, running⟩ := ih (s := s.setRunning f r (some { c' with sideOvf := true })) (c' := { c' with sideOvf := true }) same
      (s.running_setRunning f r _)
    dsimp only
    rw [lost]
    refine ⟨mem, host, ends, running.trans (congrArg some ?_)⟩
    rw [List.isEmpty_cons, Bool.not_false, Bool.true_or, Bool.true_or, Bool.or_true]

/-- A command without a side buffer that ends: its flags, status and RESULT. -/
theorem State.finishWith_flagged (runs : s.running f r = some c) (waits : c.wait = .none) (going : c.done = none) (none_ : c.desc.sideLen = 0)
    (fl : Flags) (st : Status) (res : Word32) (recs : List (Nat × List Byte)) (fault : Option FaultRec) :
    let u := (s.addFlags f r fl).finishWith f r st res recs fault
    u.mem = s.mem ∧ u.hostMem = s.hostMem ∧ u.running f r = some { c with
      flags := c.flags.or fl, done := some (c.statusOf st, res), doneAt := s.ends, sideOvf := c.sideOvf || (!recs.isEmpty || fault.isSome) } := by
  have flagged : s.addFlags f r fl = s.setRunning f r (some { c with flags := c.flags.or fl }) := State.modRunning_of_running _ runs _
  obtain ⟨mem, host, at_, running⟩ := State.sides_of_no_buffer (c := c) (f := f) (r := r) none_ recs fault
    (s := s.setRunning f r (some { c with flags := c.flags.or fl })) (c' := { c with flags := c.flags.or fl }) rfl (s.running_setRunning f r _)
  dsimp only
  rw [flagged, State.finishWith]
  generalize (s.setRunning f r (some { c with flags := c.flags.or fl })).sides f r recs fault = t at mem host at_ running
  rw [State.finish_of_running t f r _ _ _ running]
  refine ⟨mem, host, (State.running_setRunning _ f r _).trans (congrArg some ?_)⟩
  dsimp only
  rw [going, ← waits, at_]
  rfl

/-- A command without a side buffer that stops with a RESULT of its own. -/
theorem State.stopped_flagged (runs : s.running f r = some c) (waits : c.wait = .none) (going : c.done = none) (none_ : c.desc.sideLen = 0)
    (fl : Flags) (x : Stop) (res : Word32) (recs : List (Nat × List Byte)) :
    let u := (s.addFlags f r fl).stopped f r x recs (some res)
    u.mem = s.mem ∧ u.hostMem = s.hostMem ∧ u.running f r = some { c with
      flags := c.flags.or fl, done := some (c.statusOf x.status, res), doneAt := s.ends
      sideOvf := c.sideOvf || (!recs.isEmpty || x.report.isSome) } := by
  have eq : (s.addFlags f r fl).stopped f r x recs (some res) = (s.addFlags f r fl).finishWith f r x.status res recs x.report := by
    rw [State.stopped, State.running_addFlags runs]
  dsimp only
  rw [eq]
  exact State.finishWith_flagged runs waits going none_ fl x.status res recs x.report

/-- The advanced counter waits for the completion. -/
theorem State.dueCounter_fields (runs : s.running f r = some c) (va : Nat) (x : SetCtx) (n : Nat) :
    let u := s.dueCounter f r va x n
    u.mem = s.mem ∧ u.hostMem = s.hostMem ∧ u.running f r = some { c with counter := some (BitVec.ofNat 48 va, x.counter + BitVec.ofNat 128 n) } := by
  have eq := s.modRunning_of_running runs (fun k : Running => { k with counter := some (BitVec.ofNat 48 va, x.counter + BitVec.ofNat 128 n) })
  dsimp only [State.dueCounter]
  rw [eq]
  exact ⟨rfl, rfl, s.running_setRunning f r _⟩

end

/-- Nothing written clears no stored error. -/
theorem Eng.clearWritten_of_none {e : Eng} (none_ : e.wrote = []) : e.clearWritten = e := by
  obtain ⟨s, flags, device, wrote⟩ := e
  obtain rfl : wrote = [] := none_
  have keeps (k : Nat) : eccWritten [] k = false := by
    unfold eccWritten
    cases span : eccSpan k with
    | none => rfl
    | some x =>
      have bytes : 0 < x.2 := by
        unfold eccSpan granuleBytes at span
        split at span
        · obtain rfl := Option.some.inj span
          dsimp only
          split <;> decide
        · split at span
          · obtain rfl := Option.some.inj span
            exact Nat.succ_pos 7
          · exact nomatch span
      refine List.all_eq_false.mpr ⟨0, List.mem_range.mpr bytes, ?_⟩
      exact Bool.false_ne_true
  have drop : Table.drop s.ecc (eccWritten []) = s.ecc := List.filter_eq_self.mpr fun c _ => by rw [keeps]; rfl
  simp only [Eng.clearWritten, drop]

/-! ## Stream records (R320, R323) -/

theorem readStream_of_reaches {s : State} {a : Acc} {va pa : Nat} (clean : s.ecc = []) (low : va < 2 ^ 48) (writable : s.Reaches a true va 32 pa)
    (readable : s.Reaches a false va 32 pa) : (readStream a va).exec s = (.ok (some (s.mem.readN pa 32)), { s := s }) := by
  obtain ⟨nc, leads⟩ := writable.leads clean (i := 0) (by decide) (e := { s := s }) rfl
  rw [Nat.add_zero, Nat.mod_eq_of_lt low] at leads
  refine Run.exec_of_run clean (fl := {}) ?_
  rw [readStream, Run.bind_of_ok (streamPage_of_dev leads)]
  rw [Bool.not_true, if_neg Bool.false_ne_true, Run.bind_of_ok (readSV_of_reaches clean readable rfl)]
  rfl

theorem readStream_byMemory {kept : Bool} (a : Acc) (va : Nat) : Run.ByMemory kept (readStream a va) := by
  have page : Run.ByMemory kept (streamPage a va) := by
    refine Run.byMemory_tryCatch (Run.byMemory_bind (translate_byMemory _ _ _) fun _ => Run.byMemory_pure _) fun x => ?_
    exact Run.byMemory_ite (Run.byMemory_pure _) (Run.byMemory_throw _)
  refine Run.byMemory_bind page fun good => Run.byMemory_ite (Run.byMemory_pure _) ?_
  exact Run.byMemory_bind (readSV_byMemory _ _ _) fun _ => Run.byMemory_pure _

/-! ## Draws (R325 to R328) -/

namespace DrawSpec

theorem tensor_byMemory (x : DrawSpec) (a : Acc) (c : SetCtx) (base n : Nat) : Run.ByMemory false (x.tensor a c base n) := by
  refine Run.byMemory_foldlM (fun h u => ?_) _ _
  exact Run.byMemory_bind (Run.byMemory_modify fun e => .refl e.s) fun _ => Run.byMemory_bind (writeV_local_byMemory _ _ _) fun _ =>
    Run.byMemory_pure _

/-- The code of an element by itself. -/
def code (x : DrawSpec) (c : SetCtx) (e : Nat) : Nat := (pureFlags (do let y ← x.value c e; encodeElem x.fmt (fp32 y.1))).1

/-- The codes of a unit are those of its elements. -/
theorem unit_codes (x : DrawSpec) (c : SetCtx) (first n : Nat) : (pureFlags (x.unit c first n)).1.map (·.1) = (upFrom first n).map (x.code c) := by
  have each (e : Nat) : FM.Steady (do
      let y ← x.value c e
      let v := fp32 y.1
      let k ← encodeElem x.fmt v
      return (k, v, y.2) : FM (Nat × Mark)) := by
    simp (maxDischargeDepth := 60) only [FM.steady_bind, FM.steady_pure, value_steady, encodeElem_steady, implies_true]
  refine (congrArg (List.map fun k : Nat × Mark => k.1) (FM.value_mapM each (upFrom first n) {})).trans ?_
  rw [List.map_map]
  rfl

/-- The bytes of the first `n` elements of a tensor. -/
def bytes (x : DrawSpec) (c : SetCtx) (n : Nat) : List Byte := packRow (bitsOfFmt x.fmt) ((List.range n).map (x.code c))

theorem bytes_zero (x : DrawSpec) (c : SetCtx) : x.bytes c 0 = [] := by
  refine List.eq_nil_of_length_eq_zero ?_
  have none_ : ceilDiv (0 * groupElems (bitsOfFmt x.fmt)) (groupElems (bitsOfFmt x.fmt)) = 0 := ceilDiv_mul 0 (groupElems_pos _)
  rw [Nat.zero_mul] at none_
  rw [bytes, length_packRow, rowBytes, List.length_map, List.length_range, none_, Nat.zero_mul]

/-- One unit of a draw: its flags, its codes written, its part of the histogram. -/
def drawUnit (x : DrawSpec) (a : Acc) (c : SetCtx) (base : Nat) (h : Hist) (u : Nat) : Run Hist := do
  let y := pureFlags (x.unit c (256 * u) (min 256 (x.count - 256 * u)))
  modify (fun e => { e with flags := e.flags.or y.2 })
  writeV a (base + packedOff (bitsOfFmt x.fmt) (256 * u)) (packRow (bitsOfFmt x.fmt) (y.1.map (·.1)))
  let h := y.1.foldl (fun h k => h.add k.2.1 k.2.2 (fwCode x.fmt)) h
  return { h with flags := h.flags.or y.2 }

theorem tensor_eq (x : DrawSpec) (a : Acc) (c : SetCtx) (base n : Nat) : x.tensor a c base n =
    (List.range (ceilDiv x.count 256)).foldlM (x.drawUnit a c base) { tensor := n, format := x.fmt } := rfl

/-- The engine once the first `n` elements of a tensor stand at `pb`. -/
def Drew (x : DrawSpec) (c : SetCtx) (pb : Nat) (e : Eng) (n : Nat) (e' : Eng) : Prop :=
  ∃ t w fl, e' = { e with s := t, wrote := w, flags := fl } ∧ e.s.Stored t pb (x.bytes c n)

section
variable {x : DrawSpec} {a : Acc} {c : SetCtx} {base pb : Nat} {e : Eng} (clean : e.s.ecc = [])
  (reach : e.s.ReachesApart [(pb, (x.bytes c x.count).length)] a true base (x.bytes c x.count).length pb)
include clean reach

theorem drawUnit_of_apart {u : Nat} (few : u < ceilDiv x.count 256) (h : Hist) {e' : Eng} (known : x.Drew c pb e (min (256 * u) x.count) e') :
    ∃ h' e'', (x.drawUnit a c base h u).run.run e' = (.ok h', e'') ∧ x.Drew c pb e (min (256 * (u + 1)) x.count) e'' := by
  obtain ⟨t, w, fl, rfl, stored⟩ := known
  have short : 256 * u < x.count := by unfold ceilDiv at few; omega
  have before : min (256 * u) x.count = 256 * u := Nat.min_eq_left short.le
  generalize width : min 256 (x.count - 256 * u) = m
  have after : min (256 * (u + 1)) x.count = 256 * u + m := by omega
  unfold drawUnit
  rw [width]
  extract_lets y hist
  have codes : y.1.map (·.1) = (List.range m).map fun i => x.code c (256 * u + i) := by
    rw [unit_codes, upFrom, List.map_map]
    rfl
  clear_value y
  have all : x.bytes c (256 * u + m) = x.bytes c (256 * u) ++ packRow (bitsOfFmt x.fmt) (y.1.map (·.1)) := by
    rw [bytes, bytes, codes, List.range_add, List.map_append, List.map_map, packRow_append]
    · rfl
    · rw [List.length_map, List.length_range]
      exact groupElems_dvd _ u
  have offset : packedOff (bitsOfFmt x.fmt) (256 * u) = (x.bytes c (256 * u)).length :=
    packedOff_eq _ u (by rw [List.length_map, List.length_range])
  have inside : (x.bytes c (256 * u + m)).length ≤ (x.bytes c x.count).length := by
    rw [bytes, bytes, length_packRow, length_packRow, rowBytes, rowBytes, List.length_map, List.length_range, List.length_map, List.length_range]
    refine Nat.mul_le_mul_right _ ?_
    unfold ceilDiv
    exact Nat.div_le_div_right (by omega)
  rw [before] at stored
  rw [all, List.length_append] at inside
  have apart := stored.apartFrom (runs := [(pb, (x.bytes c x.count).length)]) clean ⟨_, .head _, Nat.le_refl _, Nat.add_le_add_left (by omega) pb⟩
  obtain ⟨t', w', run, stored'⟩ := writeV_of_apart (e := { e with s := t, wrote := w, flags := fl.or y.2 }) stored.ecc
    ((reach.of_apart apart).sub inside) ⟨_, .head _, Nat.le_add_right _ _, by dsimp only; omega⟩
  have flags : (modify (fun e : Eng => { e with flags := e.flags.or y.2 }) : Run Unit).run.run { e with s := t, wrote := w, flags := fl } =
      (.ok (), { e with s := t, wrote := w, flags := fl.or y.2 }) := rfl
  refine ⟨{ hist with flags := hist.flags.or y.2 }, { e with s := t', wrote := w', flags := fl.or y.2 }, ?_, t', w', fl.or y.2, rfl, ?_⟩
  · rw [Run.bind_of_ok flags, offset, Run.bind_of_ok run]
    rfl
  · rw [after, all]
    exact stored.append stored'

theorem tensor_of_apart (n : Nat) : ∃ h t w fl, (x.tensor a c base n).run.run e = (.ok h, { e with s := t, wrote := w, flags := fl }) ∧
    e.s.Stored t pb (x.bytes c x.count) := by
  have start : x.Drew c pb e (min (256 * 0) x.count) e :=
    ⟨e.s, e.wrote, e.flags, rfl, by rw [Nat.mul_zero, Nat.zero_min, bytes_zero]; exact .nil clean pb⟩
  obtain ⟨h, e', run, t, w, fl, rfl, stored⟩ := Run.foldlM_range (f := x.drawUnit a c base) (fun u _ e' => x.Drew c pb e (min (256 * u) x.count) e')
    (ceilDiv x.count 256) (fun u few h e' known => drawUnit_of_apart clean reach few h known) (x := { tensor := n, format := x.fmt }) start
  have whole : min (256 * ceilDiv x.count 256) x.count = x.count := by unfold ceilDiv; omega
  rw [whole] at stored
  exact ⟨h, t, w, fl, run, stored⟩

end

end DrawSpec

/-! ## Tensors one after another -/

theorem drawAll_byMemory {kept : Bool} (l : List (Run Hist)) (each : ∀ m ∈ l, Run.ByMemory kept m) : ∀ hs, Run.ByMemory kept (drawAll l hs) := by
  induction l with
  | nil => exact fun hs => Run.byMemory_pure _
  | cons m l ih =>
    intro hs
    rw [drawAll]
    refine Run.byMemory_bind (Run.byMemory_tryCatch (Run.byMemory_bind (each m (.head l)) fun _ => Run.byMemory_pure _) fun _ => Run.byMemory_pure _) fun y => ?_
    split
    · exact ih (fun m mem => each m (.tail _ mem)) _
    · exact Run.byMemory_pure _

theorem drawAll_one {m : Run Hist} {e e' : Eng} {h : Hist} (run : m.run.run e = (.ok h, e')) :
    (drawAll [m] []).run.run e = (.ok ([h], none), e') := by
  have caught := Run.tryCatch_of_ok (m := (do return (some (← m), none) : Run (Option Hist × Option Stop))) ((Run.bind_of_ok run _).trans rfl)
    (fun e => return (none, some e))
  rw [drawAll, Run.bind_of_ok caught]
  rfl

/-! ## Samples (R329, R330) -/

theorem Memory.take_drop_readN (m : Memory) (a : Nat) {n k j : Nat} (inside : k + j ≤ n) : ((m.readN a n).drop k).take j = m.readN (a + k) j := by
  have split : m.readN a n = m.readN a k ++ (m.readN (a + k) j ++ m.readN (a + k + j) (n - k - j)) := by
    rw [Memory.readN_append, Memory.readN_append]
    congr 1
    omega
  rw [split, List.drop_append_of_le_length (by rw [Memory.length_readN]), List.drop_of_length_le (by rw [Memory.length_readN]), List.nil_append,
    List.take_append_of_le_length (by rw [Memory.length_readN]), List.take_of_length_le (by rw [Memory.length_readN])]

/-- The token of row `n` whose logits stand at `pl`. -/
def sampledToken (d : Desc) (c : SetCtx) (m : Memory) (pl n : Nat) : Option Nat :=
  let fmt : BitVec 8 := BitVec.ofNat 8 (d.op0 24 17)
  let w := elemBytes fmt
  (pureFlags (do
    let ls ← (List.range (d.field 0x30 18 0)).mapM (fun j => bolterLogit fmt (leNat (m.readN (pl + w * j) w)))
    bolterToken d (ls.map (·.1)) ((c.call n).headD 0))).1

/-- The bytes of the tokens of the first `n` rows. -/
def tokenBytes (token : Nat → Option Nat) (n : Nat) : List Byte := (List.range n).flatMap fun i => natLe 4 ((token i).getD 0xFFFF_FFFF)

theorem tokenBytes_succ (token : Nat → Option Nat) (n : Nat) :
    tokenBytes token (n + 1) = tokenBytes token n ++ natLe 4 ((token n).getD 0xFFFF_FFFF) := by
  rw [tokenBytes, List.range_succ, List.flatMap_append, List.flatMap_singleton]
  rfl

theorem length_tokenBytes (token : Nat → Option Nat) (n : Nat) : (tokenBytes token n).length = 4 * n := by
  induction n with
  | zero => rfl
  | succ n ih => rw [tokenBytes_succ, List.length_append, ih, length_natLe, Nat.mul_succ]

/-- The token of a row, from its logits as an engine has read them. -/
theorem sampledToken_eq (d : Desc) (c : SetCtx) (m : Memory) (pl n : Nat) : sampledToken d c m pl n =
    ((bolterToken d (((List.range (d.field 0x30 18 0)).map fun j => ((bolterLogit (BitVec.ofNat 8 (d.op0 24 17)) (leNat
      (((m.readN pl (elemBytes (BitVec.ofNat 8 (d.op0 24 17)) * d.field 0x30 18 0)).drop (elemBytes (BitVec.ofNat 8 (d.op0 24 17)) * j)).take
        (elemBytes (BitVec.ofNat 8 (d.op0 24 17)))))).run {}).1).map (·.1)) ((c.call n).headD 0)).run {}).1 := by
  unfold sampledToken
  extract_lets fmt w
  rw [pureFlags, FM.value_bind fun (ls : List (Word32 × Bool)) => bolterToken_steady d (ls.map (·.1)) ((c.call n).headD 0),
    FM.value_mapM fun j => bolterLogit_steady _ _]
  have same : ((List.range (d.field 0x30 18 0)).map fun j => ((bolterLogit fmt (leNat (m.readN (pl + w * j) w))).run {}).1) =
      (List.range (d.field 0x30 18 0)).map fun j => ((bolterLogit fmt (leNat (((m.readN pl (w * d.field 0x30 18 0)).drop (w * j)).take w))).run {}).1 := by
    refine List.map_congr_left fun j mem => ?_
    have low : w * j + w ≤ w * d.field 0x30 18 0 := by
      rw [← Nat.mul_succ]
      exact Nat.mul_le_mul_left w (List.mem_range.mp mem)
    rw [Memory.take_drop_readN m pl low]
  rw [same]

/-- The engine once the tokens of the first `n` rows stand at `pb`. -/
def Sampled (token : Nat → Option Nat) (pb : Nat) (e : Eng) (n : Nat) (rep : BolterReport) (e' : Eng) : Prop :=
  (∃ t w fl, e' = { e with s := t, wrote := w, flags := fl } ∧ e.s.Stored t pb (tokenBytes token n)) ∧
    rep.empty = BitVec.ofNat 32 ((List.range n).countP fun i => (token i).isNone)

theorem sat32_count {n : Nat} (few : n + 1 < 2 ^ 32) : sat32 (BitVec.ofNat 32 n) 1 = BitVec.ofNat 32 (n + 1) := by
  unfold sat32
  rw [BitVec.toNat_ofNat, Nat.mod_eq_of_lt (by omega), if_neg (by omega), BitVec.ofNat_add]

section
variable {a : Acc} {d : Desc} {c : SetCtx} {pb rows : Nat} {pl : Nat → Nat} {e : Eng} (clean : e.s.ecc = []) (few : rows < 2 ^ 32)
  (logits : ∀ i < rows, e.s.ReachesApart [(pb, 4 * rows)] a false (d.addr 0x10 + i * d.addr 0x18)
    (elemBytes (BitVec.ofNat 8 (d.op0 24 17)) * d.field 0x30 18 0) (pl i) ∧
    (pl i + elemBytes (BitVec.ofNat 8 (d.op0 24 17)) * d.field 0x30 18 0 ≤ pb ∨ pb + 4 * rows ≤ pl i))
  (dest : e.s.ReachesApart [(pb, 4 * rows)] a true (d.addr 0x20) (4 * rows) pb)
include clean few logits dest

theorem bolterRow_of_apart {n : Nat} (low : n < rows) {rep : BolterReport} {e' : Eng}
    (known : Sampled (fun i => sampledToken d c e.s.mem (pl i) i) pb e n rep e') : ∃ rep' e'',
      (bolterRow a d c n rep).run.run e' = (.ok rep', e'') ∧ Sampled (fun i => sampledToken d c e.s.mem (pl i) i) pb e (n + 1) rep' e'' := by
  obtain ⟨⟨t, w, fl, rfl, stored⟩, count⟩ := known
  generalize tokens : (fun i => sampledToken d c e.s.mem (pl i) i) = token at stored count ⊢
  have length := length_tokenBytes token n
  have apart := stored.apartFrom (runs := [(pb, 4 * rows)]) clean ⟨_, .head _, Nat.le_refl _, by dsimp only; omega⟩
  obtain ⟨source, away⟩ := logits n low
  unfold bolterRow
  extract_lets fmt size v
  have same : t.mem.readN (pl n) (size * v) = e.s.mem.readN (pl n) (size * v) := by
    rw [Memory.readN_eq, Memory.readN_eq]
    refine List.map_congr_left fun i mem => stored.others _ ?_
    have inside := List.mem_range.mp mem
    have away' : pl n + size * v ≤ pb ∨ pb + 4 * rows ≤ pl n := away
    omega
  have read := readV_of_reaches stored.ecc (source.reaches apart) (e := { e with s := t, wrote := w, flags := fl }) rfl
  obtain ⟨fl1, decode⟩ := Run.mapM_withFlags (fun j => bolterLogit fmt (leNat (((t.mem.readN (pl n) (size * v)).drop (size * j)).take size)))
    (List.range v) { e with s := t, wrote := w, flags := fl }
  generalize values : ((List.range v).map fun j => ((bolterLogit fmt (leNat (((t.mem.readN (pl n) (size * v)).drop (size * j)).take size))).run {}).1) = ls
    at decode
  have chosen : ((bolterToken d (ls.map (·.1)) ((c.call n).headD 0)).run {}).1 = token n := by
    rw [← tokens, ← values, same]
    exact (sampledToken_eq d c e.s.mem (pl n) n).symm
  generalize answer : (bolterToken d (ls.map (·.1)) ((c.call n).headD 0)).run {} = y at chosen
  have choose_ : (withFlags (bolterToken d (ls.map (·.1)) ((c.call n).headD 0))).run.run { e with s := t, wrote := w, flags := fl1 } =
      (.ok (token n), { e with s := t, wrote := w, flags := fl1.or y.2 }) := by
    rw [← chosen, ← answer]
    rfl
  have place := (dest.of_apart apart).sub (o := 4 * n) (m := (natLe 4 ((token n).getD 0xFFFF_FFFF)).length) (by rw [length_natLe]; omega)
  obtain ⟨t', w', run, stored'⟩ := writeV_of_apart (e := { e with s := t, wrote := w, flags := fl1.or y.2 }) stored.ecc place
    ⟨_, .head _, Nat.le_add_right _ _, by rw [length_natLe]; omega⟩
  rw [← length] at stored'
  refine ⟨{ empty := if (token n).isNone then sat32 rep.empty 1 else rep.empty
            nans := sat32 rep.nans (ls.filter (·.2)).length
            first := if (token n).isNone && rep.first == 0xFFFF_FFFF then BitVec.ofNat 32 n else rep.first },
    { e with s := t', wrote := w', flags := fl1.or y.2 }, ?_, ⟨t', w', fl1.or y.2, rfl, ?_⟩, ?_⟩
  · rw [Run.bind_of_ok read, Run.bind_of_ok decode, Run.bind_of_ok choose_, Run.bind_of_ok run]
    rfl
  · rw [tokenBytes_succ]
    exact stored.append stored'
  · rw [List.range_succ, List.countP_append, List.countP_singleton]
    dsimp only
    have bound : (List.range n).countP (fun i => (token i).isNone) ≤ n := by
      have most := List.countP_le_length (p := fun i => (token i).isNone) (l := List.range n)
      rwa [List.length_range] at most
    cases token n with
    | none =>
      rw [count]
      exact sat32_count (by omega)
    | some k => exact count

/-- Rows from `n` on. -/
theorem bolterRows_of_apart (m : Nat) : ∀ (n : Nat) (rep : BolterReport) (e' : Eng), n + m = rows →
    Sampled (fun i => sampledToken d c e.s.mem (pl i) i) pb e n rep e' → ∃ rep' e'',
      (bolterRows a d c (List.range' n m) rep).run.run e' = (.ok (rep', none), e'') ∧
      Sampled (fun i => sampledToken d c e.s.mem (pl i) i) pb e rows rep' e'' := by
  induction m with
  | zero =>
    rintro n rep e' rfl known
    exact ⟨rep, e', rfl, known⟩
  | succ m ih =>
    intro n rep e' total known
    obtain ⟨rep', e'', run, next⟩ := bolterRow_of_apart clean few logits dest (n := n) (by omega) known
    obtain ⟨rep2, e2, rest, ends⟩ := ih (n + 1) rep' e'' (by omega) next
    have caught := Run.tryCatch_of_ok (m := (do return (← bolterRow a d c n rep, none) : Run (BolterReport × Option Stop)))
      ((Run.bind_of_ok run _).trans rfl) (fun e => return (rep, some e))
    refine ⟨rep2, e2, ?_, ends⟩
    rw [List.range'_succ, bolterRows, Run.bind_of_ok caught]
    exact rest

theorem bolterRows_whole : ∃ rep t w fl, (bolterRows a d c (List.range rows) {}).run.run e = (.ok (rep, none), { e with s := t, wrote := w, flags := fl }) ∧
    e.s.Stored t pb (tokenBytes (fun i => sampledToken d c e.s.mem (pl i) i) rows) ∧
    rep.empty = BitVec.ofNat 32 ((List.range rows).countP fun i => (sampledToken d c e.s.mem (pl i) i).isNone) := by
  obtain ⟨rep, e', run, ⟨t, w, fl, rfl, stored⟩, count⟩ := bolterRows_of_apart (c := c) clean few logits dest rows 0 {} e (Nat.zero_add rows)
    ⟨⟨e.s, e.wrote, e.flags, rfl, .nil clean pb⟩, rfl⟩
  rw [← List.range_eq_range'] at run
  exact ⟨rep, t, w, fl, run, stored, count⟩

end

theorem bolterRows_byMemory (a : Acc) (d : Desc) (c : SetCtx) (l : List Nat) : ∀ rep, Run.ByMemory false (bolterRows a d c l rep) := by
  have row (n : Nat) (rep : BolterReport) : Run.ByMemory false (bolterRow a d c n rep) :=
    Run.byMemory_bind (readV_byMemory _ _ _) fun _ => Run.byMemory_bind (Run.byMemory_mapM (fun _ e => .refl e.s) _) fun _ =>
      Run.byMemory_bind (fun e => .refl e.s) fun _ => Run.byMemory_bind (writeV_local_byMemory _ _ _) fun _ => Run.byMemory_pure _
  induction l with
  | nil => exact fun rep => Run.byMemory_pure _
  | cons n l ih =>
    intro rep
    rw [bolterRows]
    refine Run.byMemory_bind (Run.byMemory_tryCatch (Run.byMemory_bind (row n rep) fun _ => Run.byMemory_pure _) fun _ => Run.byMemory_pure _) fun y => ?_
    split
    · exact ih _
    · exact Run.byMemory_pure _

/-! ## DAMSEL_DRAW and BOLTER_SAMPLE, whole -/

section
variable {s : State} {f : FnId} {r : RingIx} {c : Running} {record : List Byte} {e : Eng}

/-- A draw or a sample that a check turns away. -/
theorem State.fail_drawn (runs : e.s.running f r = some c) (opcode : opcodeOf c.desc.opcode = some .damselDraw ∨ opcodeOf c.desc.opcode = some .bolterSample)
    (st : Status) : ∃ res, e.s.fail f r st = ({ e.s with freeCount := e.s.freeCount + 1 } : State).turnedAway f r c st res := by
  have free : e.s.failResult c.desc = e.s.freeWord := by
    unfold State.failResult
    rcases opcode with draw | sample
    · rw [draw]
    · rw [sample]
  exact ⟨_, State.fail_of_freeWord runs free st⟩

theorem readStream_runs {a : Acc} {va : Nat} {x : Except Stop (Option (List Byte))} (reads : (readStream a va).exec s = (x, e)) (g q : Nat) :
    e.s.running g q = s.running g q := by
  have work := Run.ByMemory.exec (readStream_byMemory (kept := true) a va) s
  rw [reads] at work
  exact work.running g q

/-! ### Draws -/

section
variable (list : c.desc.op0 22 22 = 0)
include list

theorem State.damselDraw_no_record (reads : (readStream (stoneAcc f (c.desc.op0 31 25)) (c.desc.addr 0x28)).exec s = (.ok none, e)) :
    s.damselDraw f r c = e.s.fail f r .access := by
  unfold State.damselDraw
  extract_lets d a x list' y
  have one : list' = false := beq_eq_false_iff_ne.mpr (by rw [show d.op0 22 22 = 0 from list]; decide)
  have read : y = (.ok none, e) := by
    simp only [y, one]
    exact reads
  rewrite [read]
  rfl

theorem State.damselDraw_of_record (reads : (readStream (stoneAcc f (c.desc.op0 31 25)) (c.desc.addr 0x28)).exec s = (.ok (some record), e)) :
    s.damselDraw f r c = match e.s.drawStone f (c.desc.op0 31 25) with
      | .error st => e.s.fail f r st
      | .ok _ => if c.desc.draw.ok = false then e.s.fail f r .malformed
        else (e.s.drawOver f r c.desc.drawSmall
          [c.desc.draw.tensor (stoneAcc f (c.desc.op0 31 25)) (damselCtx record) (c.desc.addr 0x10) 0]).dueCounter f r (c.desc.addr 0x28)
            (damselCtx record) c.desc.draw.calls := by
  unfold State.damselDraw
  extract_lets d a x list' y s' z
  have one : list' = false := beq_eq_false_iff_ne.mpr (by rw [show d.op0 22 22 = 0 from list]; decide)
  have read : y = (.ok (some record), e) := by
    simp only [y, one]
    exact reads
  have here : s' = e.s := by simp only [s', read]
  rewrite [read, one]
  dsimp only
  rewrite [here]
  cases e.s.drawStone f (c.desc.op0 31 25) with
  | error st => rfl
  | ok p =>
    dsimp only
    cases good : c.desc.draw.ok with
    | false => exact (if_pos rfl).trans (if_pos rfl).symm
    | true =>
      refine (if_neg Bool.false_ne_true).trans ?_
      exact (if_neg Bool.false_ne_true).trans (if_neg Bool.noConfusion).symm

end

theorem State.damselDraw_of_list {p : Nat} {bs : List Byte} (list : c.desc.op0 22 22 = 1) (stone : s.drawStone f (c.desc.op0 31 25) = .ok p)
    (good : c.desc.draw.ok = true) (reads : (readSV (stoneAcc f (c.desc.op0 31 25)) (c.desc.addr 0x28) (64 * c.desc.op0 20 12)).exec s = (.ok bs, e)) :
    s.damselDraw f r c = e.s.drawOver f r c.desc.drawSmall (c.desc.draw.list (stoneAcc f (c.desc.op0 31 25)) c.desc
      ((List.range (c.desc.op0 20 12)).map fun i => (bs.drop (64 * i)).take 64)) := by
  unfold State.damselDraw
  extract_lets d a x list' y s' z
  have many : list' = true := beq_iff_eq.mpr list
  have read : y = (.ok (some []), ({ s := s } : Eng).clearWritten) := by
    simp only [y, many, if_pos]
    rfl
  have still : s' = s := by
    simp only [s', read]
    rw [Eng.clearWritten_of_none (e := { s := s }) rfl]
  have record : z = (.ok bs, e) := by
    simp only [z, still]
    exact reads
  rewrite [read]
  dsimp only
  rewrite [still, stone]
  dsimp only
  rewrite [if_neg (show ¬(!x.ok) = true by rw [show x.ok = true from good]; exact Bool.false_ne_true), if_pos many, record]
  rfl

section
variable {ms : List (Run Hist)} {small : Bool} {e' : Eng} (runs : s.running f r = some c) (waits : c.wait = .none) (going : c.done = none)
  (none_ : c.desc.sideLen = 0) (each : ∀ m ∈ ms, Run.ByMemory false m)
include runs waits going none_ each

/-- Tensors that are all drawn end the command. -/
theorem State.drawOver_ok {hs : List Hist} (draws : (drawAll ms []).exec s { ufl := small } = (.ok (hs, none), e')) :
    let u := s.drawOver f r small ms
    u.mem = e'.s.mem ∧ u.hostMem = e'.s.hostMem ∧ u.running f r = some { c with
      flags := c.flags.or e'.flags, done := some (c.statusOf e'.status, BitVec.ofNat 32 hs.length), doneAt := e'.s.ends
      sideOvf := c.sideOvf || !(if e'.status.noHist = true then [] else hs).isEmpty } := by
  have work := Run.ByMemory.exec (drawAll_byMemory ms each []) s { ufl := small }
  rw [draws] at work
  have eq : s.drawOver f r small ms = (e'.s.addFlags f r e'.flags).finishWith f r e'.status (BitVec.ofNat 32 hs.length)
      (if e'.status.noHist then [] else hs.map (fun h => (0x01, h.bytes))) := by
    unfold State.drawOver
    rewrite [draws]
    rfl
  obtain ⟨mem, host, running⟩ := State.finishWith_flagged ((work.running f r).trans runs) waits going none_ e'.flags e'.status
    (BitVec.ofNat 32 hs.length) (if e'.status.noHist then [] else hs.map (fun h => (0x01, h.bytes))) none
  dsimp only
  rw [eq]
  refine ⟨mem, host, running.trans (congrArg some ?_)⟩
  have lost : (!(if e'.status.noHist = true then [] else hs.map (fun h => (0x01, h.bytes))).isEmpty || (none : Option FaultRec).isSome) =
      !(if e'.status.noHist = true then [] else hs).isEmpty := by
    rw [Option.isSome_none, Bool.or_false]
    split
    · rfl
    · rw [List.isEmpty_map]
  rw [lost]

/-- A draw that stops reports the tensors drawn whole. -/
theorem State.drawOver_stops {hs : List Hist} {x : Stop} (draws : (drawAll ms []).exec s { ufl := small } = (.ok (hs, some x), e')) :
    ∃ k, (s.drawOver f r small ms).running f r = some k ∧ k.done = some (c.statusOf (x.met e').status, BitVec.ofNat 32 hs.length) := by
  have work := Run.ByMemory.exec (drawAll_byMemory ms each []) s { ufl := small }
  rw [draws] at work
  have eq : s.drawOver f r small ms = (e'.s.addFlags f r e'.flags).stopped f r (x.met e') [] (some (BitVec.ofNat 32 hs.length)) := by
    unfold State.drawOver
    rewrite [draws]
    rfl
  obtain ⟨-, -, running⟩ := State.stopped_flagged ((work.running f r).trans runs) waits going none_ e'.flags (x.met e') (BitVec.ofNat 32 hs.length) []
  rw [eq]
  exact ⟨_, running, rfl⟩

end

/-! ### Samples -/

theorem State.bolterSample_no_record (reads : (readStream (stoneAcc f (c.desc.op0 31 25)) (c.desc.addr 0x38)).exec s = (.ok none, e)) :
    s.bolterSample f r c = e.s.fail f r .access := by
  unfold State.bolterSample
  extract_lets d a y
  have read : y = (.ok none, e) := reads
  rewrite [read]
  rfl

/-- The rows of a sample. -/
def State.sampleRows (s : State) (f : Nat) (d : Desc) (x : SetCtx) : Except Stop (BolterReport × Option Stop) × Eng :=
  (bolterRows (stoneAcc f (d.op0 31 25)) d x (List.range (d.field 0x30 63 32)) {}).exec s { ufl := isSubnormal (BitVec.ofNat 32 (d.field 0x28 63 32)) }

theorem State.bolterSample_away (reads : (readStream (stoneAcc f (c.desc.op0 31 25)) (c.desc.addr 0x38)).exec s = (.ok (some record), e))
    {st : Status} (cannot : e.s.drawStone f (c.desc.op0 31 25) = .error st ∨
      (∃ p, e.s.drawStone f (c.desc.op0 31 25) = .ok p) ∧ bolterOk c.desc = false ∧ st = .malformed) :
    s.bolterSample f r c = e.s.fail f r st := by
  unfold State.bolterSample
  extract_lets d a y s'
  have read : y = (.ok (some record), e) := reads
  have here : s' = e.s := by simp only [s', read]
  rewrite [read]
  dsimp only
  rewrite [here]
  rcases cannot with stone | ⟨⟨p, stone⟩, bad, rfl⟩
  · rewrite [stone]
    rfl
  · rewrite [stone]
    exact if_pos (by rw [show bolterOk d = false from bad]; rfl)

section
variable {p : Nat} {e' : Eng} {rep : BolterReport} (reads : (readStream (stoneAcc f (c.desc.op0 31 25)) (c.desc.addr 0x38)).exec s = (.ok (some record), e))
  (runs : s.running f r = some c) (waits : c.wait = .none) (going : c.done = none) (none_ : c.desc.sideLen = 0)
  (stone : e.s.drawStone f (c.desc.op0 31 25) = .ok p) (good : bolterOk c.desc = true)
include reads runs waits going none_ stone good

theorem State.bolterSample_ok (samples : e.s.sampleRows f c.desc (damselCtx record) = (.ok (rep, none), e')) :
    let u := s.bolterSample f r c
    u.mem = e'.s.mem ∧ u.hostMem = e'.s.hostMem ∧ u.running f r = some { c with
      flags := c.flags.or e'.flags, done := some (c.statusOf e'.status, rep.empty), doneAt := e'.s.ends, sideOvf := true
      counter := if c.desc.field 0x30 63 32 = 0 then c.counter
        else some (BitVec.ofNat 48 (c.desc.addr 0x38), (damselCtx record).counter + BitVec.ofNat 128 (c.desc.field 0x30 63 32)) } := by
  have work := Run.ByMemory.exec (bolterRows_byMemory (stoneAcc f (c.desc.op0 31 25)) c.desc (damselCtx record) (List.range (c.desc.field 0x30 63 32)) {}) e.s
    { ufl := isSubnormal (BitVec.ofNat 32 (c.desc.field 0x28 63 32)) }
  have samples' := samples
  unfold State.sampleRows at samples
  rw [samples] at work
  have runs' : e'.s.running f r = some c := (work.running f r).trans ((readStream_runs reads f r).trans runs)
  obtain ⟨mem, host, running⟩ := State.finishWith_flagged runs' waits going none_ e'.flags e'.status rep.empty [(0x06, rep.bytes)] none
  have eq : s.bolterSample f r c =
      if c.desc.field 0x30 63 32 = 0 then (e'.s.addFlags f r e'.flags).finishWith f r e'.status rep.empty [(0x06, rep.bytes)]
      else ((e'.s.addFlags f r e'.flags).finishWith f r e'.status rep.empty [(0x06, rep.bytes)]).dueCounter f r (c.desc.addr 0x38) (damselCtx record)
        (c.desc.field 0x30 63 32) := by
    unfold State.bolterSample
    extract_lets d a y s' rows
    have read : y = (.ok (some record), e) := reads
    have here : s' = e.s := by simp only [s', read]
    rewrite [read]
    dsimp only
    rewrite [here, stone]
    dsimp only
    have legal : ¬(!bolterOk d) = true := by rw [show bolterOk d = true from good]; exact Bool.false_ne_true
    rewrite [if_neg legal, show (bolterRows a d (damselCtx record) (List.range rows) {}).exec e.s
      { ufl := isSubnormal (BitVec.ofNat 32 (d.field 0x28 63 32)) } = (.ok (rep, none), e') from samples']
    rfl
  dsimp only at mem host running ⊢
  rw [eq]
  generalize (e'.s.addFlags f r e'.flags).finishWith f r e'.status rep.empty [(0x06, rep.bytes)] = t at mem host running
  rw [List.isEmpty_cons, Bool.not_false, Bool.true_or, Bool.or_true] at running
  split
  next empty => exact ⟨mem, host, running⟩
  next some_ =>
    obtain ⟨mem', host', running'⟩ := State.dueCounter_fields running (c.desc.addr 0x38) (damselCtx record) (c.desc.field 0x30 63 32)
    exact ⟨mem'.trans mem, host'.trans host, running'⟩

theorem State.bolterSample_stops {x : Stop} (samples : e.s.sampleRows f c.desc (damselCtx record) = (.ok (rep, some x), e')) :
    ∃ k, (s.bolterSample f r c).running f r = some k ∧ k.done = some (c.statusOf (x.met e').status, rep.empty) ∧ k.counter = c.counter := by
  have work := Run.ByMemory.exec (bolterRows_byMemory (stoneAcc f (c.desc.op0 31 25)) c.desc (damselCtx record) (List.range (c.desc.field 0x30 63 32)) {}) e.s
    { ufl := isSubnormal (BitVec.ofNat 32 (c.desc.field 0x28 63 32)) }
  have samples' := samples
  unfold State.sampleRows at samples
  rw [samples] at work
  have runs' : e'.s.running f r = some c := (work.running f r).trans ((readStream_runs reads f r).trans runs)
  obtain ⟨-, -, running⟩ := State.stopped_flagged runs' waits going none_ e'.flags (x.met e') rep.empty [(0x06, rep.bytes)]
  have eq : s.bolterSample f r c = (e'.s.addFlags f r e'.flags).stopped f r (x.met e') [(0x06, rep.bytes)] (some rep.empty) := by
    unfold State.bolterSample
    extract_lets d a y s' rows
    have read : y = (.ok (some record), e) := reads
    have here : s' = e.s := by simp only [s', read]
    rewrite [read]
    dsimp only
    rewrite [here, stone]
    dsimp only
    have legal : ¬(!bolterOk d) = true := by rw [show bolterOk d = true from good]; exact Bool.false_ne_true
    rewrite [if_neg legal, show (bolterRows a d (damselCtx record) (List.range rows) {}).exec e.s
      { ufl := isSubnormal (BitVec.ofNat 32 (d.field 0x28 63 32)) } = (.ok (rep, some x), e') from samples']
    rfl
  rw [eq]
  exact ⟨_, running, rfl, rfl⟩

end

end

/-- Settles O51: the checks in their order; a draw by its tensors, a sample by its rows, each to the end of what succeeds. -/
theorem drawsAndSamplesComplete : Obligations.DrawsAndSamplesComplete := by
  intro s f r c record e d a ctx stone away
  have draws (fresh : s.fresh f r .damselDraw = some c) : exec (.damselDraw f r) s = .next (s.damselDraw f r c).settle :=
    congrArg (fun u : State => Host.Outcome.next u.settle) (s.runCmd_of_fresh f r .damselDraw _ c fresh)
  have samples (fresh : s.fresh f r .bolterSample = some c) : exec (.bolterSample f r) s = .next (s.bolterSample f r c).settle :=
    congrArg (fun u : State => Host.Outcome.next u.settle) (s.runCmd_of_fresh f r .bolterSample _ c fresh)
  have turned {j : Instr} {st : Status} (goes : exec j s = .next (e.s.fail f r st).settle) (runs : e.s.running f r = some c)
      (opcode : opcodeOf c.desc.opcode = some .damselDraw ∨ opcodeOf c.desc.opcode = some .bolterSample) : away st j := by
    obtain ⟨res, fails⟩ := State.fail_drawn runs opcode st
    exact ⟨res, by rw [goes, fails]⟩
  refine ⟨fun fresh list => ⟨fun reads => ?_, fun reads => ?_⟩, ?lists, ?places, fun fresh => ?_⟩
  · obtain ⟨runs, -, -, opcode, -⟩ := (s.fresh_iff f r .damselDraw c).mp fresh
    exact turned (by rw [draws fresh, State.damselDraw_no_record list reads]) ((readStream_runs reads f r).trans runs) (.inl opcode)
  · obtain ⟨runs, waits, going, opcode, -⟩ := (s.fresh_iff f r .damselDraw c).mp fresh
    have runs' := (readStream_runs reads f r).trans runs
    have goes := draws fresh
    rw [State.damselDraw_of_record list reads] at goes
    have one : ∀ m ∈ [d.draw.tensor a ctx (d.addr 0x10) 0], Run.ByMemory false m := fun m mem => by
      rw [List.mem_singleton.mp mem]
      exact DrawSpec.tensor_byMemory _ _ _ _ _
    refine ⟨fun st bad => ?_, fun p known bad => ?_, fun p h e' known good none_ drawn => ?_, fun p x e' known good none_ drawn => ?_⟩
    · refine turned (goes.trans ?_) runs' (.inl opcode)
      rw [show e.s.drawStone f (c.desc.op0 31 25) = .error st from bad]
    · refine turned (goes.trans ?_) runs' (.inl opcode)
      rw [show e.s.drawStone f (c.desc.op0 31 25) = .ok p from known]
      dsimp only
      rw [if_pos (show c.desc.draw.ok = false from bad)]
    · rw [show e.s.drawStone f (c.desc.op0 31 25) = .ok p from known] at goes
      dsimp only at goes
      rw [if_neg (by rw [show c.desc.draw.ok = true from good]; exact Bool.noConfusion)] at goes
      obtain ⟨mem, host, running⟩ := State.drawOver_ok (small := d.drawSmall) runs' waits going none_ one drawn
      obtain ⟨mem', host', running'⟩ := State.dueCounter_fields running (d.addr 0x28) ctx d.draw.calls
      refine ⟨_, goes, mem'.trans mem, host'.trans host, running'.trans (congrArg some ?_)⟩
      have lost : (!(if e'.status.noHist = true then [] else [h]).isEmpty) = !e'.status.noHist := by
        cases e'.status.noHist <;> rfl
      rw [lost]
      rfl
    · rw [show e.s.drawStone f (c.desc.op0 31 25) = .ok p from known] at goes
      dsimp only at goes
      rw [if_neg (by rw [show c.desc.draw.ok = true from good]; exact Bool.noConfusion)] at goes
      obtain ⟨k, running, ends⟩ := State.drawOver_stops (small := d.drawSmall) runs' waits going none_ one drawn
      obtain ⟨-, -, running'⟩ := State.dueCounter_fields running (d.addr 0x28) ctx d.draw.calls
      exact ⟨_, _, goes, running', ends⟩
  case lists =>
    intro p bs e1 hs e' fresh list known good none_ reads drawn
    obtain ⟨runs, waits, going, -, -⟩ := (s.fresh_iff f r .damselDraw c).mp fresh
    have work := Run.ByMemory.exec (readSV_byMemory (kept := true) a (d.addr 0x28) (64 * d.op0 20 12)) s
    rw [reads] at work
    have each : ∀ m ∈ d.draw.list a d ((List.range (d.op0 20 12)).map fun i => (bs.drop (64 * i)).take 64), Run.ByMemory false m := fun m mem => by
      unfold DrawSpec.list at mem
      obtain ⟨y, -, rfl⟩ := List.mem_map.mp mem
      exact DrawSpec.tensor_byMemory _ _ _ _ _
    obtain ⟨mem, host, running⟩ := State.drawOver_ok (small := d.drawSmall) ((work.running f r).trans runs) waits going none_ each drawn
    exact ⟨_, _, (draws fresh).trans (congrArg (fun u : State => Host.Outcome.next u.settle) (State.damselDraw_of_list list known good reads)),
      mem, host, running, rfl⟩
  case places =>
    intro p pr pb fresh list clean known good none_ writable readable x code row dest
    obtain ⟨runs, waits, going, -, -⟩ := (s.fresh_iff f r .damselDraw c).mp fresh
    have reads := readStream_of_reaches (a := a) clean (d.addr_lt 0x28) writable readable
    have goes := draws fresh
    rw [State.damselDraw_of_record list reads] at goes
    rw [show ({ s := s } : Eng).s.drawStone f (c.desc.op0 31 25) = .ok p from known] at goes
    dsimp only at goes
    rw [if_neg (by rw [show c.desc.draw.ok = true from good]; exact Bool.noConfusion)] at goes
    obtain ⟨h, t, w, fl, run, stored⟩ := DrawSpec.tensor_of_apart (x := d.draw) (a := a) (c := x) (e := { s := s, flags := { ufl := d.drawSmall } }) clean dest 0
    have drawn : (drawAll [d.draw.tensor a x (d.addr 0x10) 0] []).exec s { ufl := d.drawSmall } = (.ok ([h], none), { s := t, wrote := w, flags := fl }) := by
      rw [Run.exec, drawAll_one run]
      exact congrArg (Prod.mk _) (Eng.clearWritten_of_clean (e := { s := t, wrote := w, flags := fl }) stored.ecc)
    have one : ∀ m ∈ [d.draw.tensor a x (d.addr 0x10) 0], Run.ByMemory false m := fun m mem => by
      rw [List.mem_singleton.mp mem]
      exact DrawSpec.tensor_byMemory _ _ _ _ _
    obtain ⟨mem, host, running⟩ := State.drawOver_ok (small := d.drawSmall) runs waits going none_ one drawn
    obtain ⟨mem', host', running'⟩ := State.dueCounter_fields running (d.addr 0x28) x d.draw.calls
    refine ⟨_, _, fl, goes, ?_, fun b out => ?_, (host'.trans host).trans stored.host, running', rfl, rfl, rfl⟩
    · rw [mem', mem]
      exact stored.bytes
    · rw [mem', mem]
      exact stored.others b out
  · obtain ⟨runs, waits, going, opcode, -⟩ := (s.fresh_iff f r .bolterSample c).mp fresh
    intro rows small
    have goes := samples fresh
    refine ⟨fun reads => ?_, fun reads => ?_, ?places⟩
    · exact turned (by rw [goes, State.bolterSample_no_record reads]) ((readStream_runs reads f r).trans runs) (.inr opcode)
    · have runs' := (readStream_runs reads f r).trans runs
      refine ⟨fun st bad => ?_, fun p known bad => ?_, fun p rep e' known good none_ sampled => ?_, fun p rep x e' known good none_ sampled => ?_⟩
      · exact turned (by rw [goes, State.bolterSample_away reads (.inl bad)]) runs' (.inr opcode)
      · exact turned (by rw [goes, State.bolterSample_away reads (.inr ⟨⟨p, known⟩, bad, rfl⟩)]) runs' (.inr opcode)
      · obtain ⟨mem, host, running⟩ := State.bolterSample_ok reads runs waits going none_ known good sampled
        exact ⟨_, goes, mem, host, running⟩
      · obtain ⟨k, running, ends, counter⟩ := State.bolterSample_stops reads runs waits going none_ known good sampled
        exact ⟨_, k, goes, running, ends, counter⟩
    case places =>
      intro p pr pb pl clean known good none_ writable readable x fmt w v logits dest token
      have reads := readStream_of_reaches (a := a) clean (d.addr_lt 0x38) writable readable
      have few : rows < 2 ^ 32 := Nat.mod_lt _ (Nat.two_pow_pos 32)
      obtain ⟨rep, t, w', fl, run, stored, count⟩ := bolterRows_whole (a := a) (d := d) (c := x) (pl := pl) (e := { s := s, flags := small }) clean few logits dest
      have sampled : State.sampleRows s f d x = (.ok (rep, none), { s := t, wrote := w', flags := fl }) := by
        rw [State.sampleRows, Run.exec]
        refine (congrArg (fun y : Except Stop (BolterReport × Option Stop) × Eng => (y.1, y.2.clearWritten)) run).trans ?_
        exact congrArg (Prod.mk _) (Eng.clearWritten_of_clean (e := { s := t, wrote := w', flags := fl }) stored.ecc)
      obtain ⟨mem, host, running⟩ := State.bolterSample_ok reads runs waits going none_ known good sampled
      have bytes := stored.bytes
      have others := stored.others
      rw [length_tokenBytes] at bytes others
      refine ⟨_, _, fl, goes, ?_, fun b out => ?_, host.trans stored.host, running, rfl, congrArg (fun n => some (c.statusOf fl.status, n)) count, fun some_ => if_neg some_⟩
      · rw [mem]
        exact bytes
      · rw [mem]
        exact others b out

end Sys2Proof.Machine
end

section
/-! PROOFS. The copy engine (R174 to R179): COPY, FILL, staged copies. -/
namespace Sys2Proof.Machine

/-! ## Bytes and numbers -/

theorem natLe_leNat (bs : List Byte) : natLe bs.length (leNat bs) = bs := by
  induction bs with
  | nil => rfl
  | cons b bs ih =>
    have low : BitVec.ofNat 8 (b.toNat + 256 * leNat bs) = b := by
      refine BitVec.eq_of_toNat_eq ?_
      rw [BitVec.toNat_ofNat, Nat.add_mul_mod_self_left]
      exact Nat.mod_eq_of_lt b.isLt
    have high : (b.toNat + 256 * leNat bs) / 256 = leNat bs := by
      have small : b.toNat < 256 := b.isLt
      omega
    rw [List.length_cons, natLe, leNat, low, high, ih]

theorem storageBits_le (code : Nat) : storageBits code ≤ 32 := by
  unfold storageBits
  split <;> decide

/-! ## One row of elements of whole bytes -/

/-- A job on one row of `n` elements of `z` bytes. -/
structure CopyJob.Row (j : CopyJob) (n z : Nat) (src : Int) : Prop where
  some_ : 0 < n
  wide  : 0 < z
  shape : j.shape = { ext := [n, 1, 1, 1], src := [src, 0, 0, 0], dst := [(z : Int), 0, 0, 0] }
  bits  : j.bd = 8 * z

/-- The element of a row with a number. -/
def rowIx (i : Nat) : List Nat := [i, 0, 0, 0]

section
variable {z : Nat}

theorem isPacked_bytes : isPacked (8 * z) = false := by
  rw [isPacked, Bool.or_eq_false_iff, beq_eq_false_iff_ne, beq_eq_false_iff_ne]
  omega

theorem groupElems_bytes : groupElems (8 * z) = 1 := by
  rw [groupElems, if_neg (by omega), if_neg (by omega)]

theorem elemAt_row (base i : Nat) (step : Nat) : elemAt base [(step : Int), 0, 0, 0] (8 * z) (rowIx i) = (base + i * step) % 2 ^ 48 := by
  have four : List.range 4 = [0, 1, 2, 3] := rfl
  rw [elemAt, isPacked_bytes, four]
  simp only [rowIx, strideAt, Bool.and_false, Bool.false_eq_true, if_false, List.map_cons, List.map_nil, List.foldl_cons, List.foldl_nil,
    List.getD_cons_zero, List.getD_cons_succ, Int.mul_zero, Int.add_zero, Int.zero_add]
  have cast : (base : Int) + (i : Int) * (step : Int) = ((base + i * step : Nat) : Int) := by push_cast; rfl
  rw [toTwos, cast, ← Int.natCast_mod, Int.toNat_natCast]

end

namespace CopyJob.Row

variable {j : CopyJob} {n z : Nat} {src : Int} (row : j.Row n z src)
include row

theorem group : j.group = 1 := by rw [CopyJob.group, row.bits, groupElems_bytes]

theorem n_zero : j.shape.n 0 = n := by rw [row.shape]; rfl

theorem count : j.shape.count = n := by
  rw [CopyShape.count, row.shape]
  simp [CopyShape.n]

theorem stridesOk (st : List Int) (four : st = [src, 0, 0, 0] ∨ st = [(z : Int), 0, 0, 0]) (small : src = z ∨ src = 0) (width : z ≤ 4) :
    j.shape.stridesOk st (8 * z) = true := by
  have narrow : st.all (fun v => decide (v.natAbs < 2 ^ 47)) = true := by
    refine List.all_eq_true.mpr fun v mem => decide_eq_true ?_
    have zero : v = z ∨ v = 0 := by
      rcases four with rfl | rfl
      · simp only [List.mem_cons, List.not_mem_nil, or_false] at mem
        rcases small with rfl | rfl <;> tauto
      · simp only [List.mem_cons, List.not_mem_nil, or_false] at mem
        tauto
    rcases zero with rfl | rfl
    · rw [Int.natAbs_natCast]
      omega
    · decide
  have six : (8 * z != 6) = true := bne_iff_ne.mpr (by omega)
  rw [CopyShape.stridesOk, narrow, isPacked_bytes, six]
  rfl

theorem nested : j.shape.nested [(z : Int), 0, 0, 0] (8 * z) = true := by
  have unit : j.shape.unitBytes (8 * z) = z := by
    rw [CopyShape.unitBytes, isPacked_bytes, if_neg Bool.false_ne_true]
    omega
  have four : List.range 4 = [0, 1, 2, 3] := rfl
  have sizes : j.shape.n 0 = n ∧ j.shape.n 1 = 1 ∧ j.shape.n 2 = 1 ∧ j.shape.n 3 = 1 := by rw [row.shape]; exact ⟨rfl, rfl, rfl, rfl⟩
  obtain ⟨n0, n1, n2, n3⟩ := sizes
  unfold CopyShape.nested
  rw [isPacked_bytes, unit, four]
  by_cases many : n > 1
  · simp [n0, n1, n2, n3, many, sortBy, strideAt]
  · simp [n0, n1, n2, n3, many, sortBy]

theorem elems {i : Nat} (low : i < n) : j.elems (rowIx i) = [rowIx i] := by
  unfold CopyJob.elems
  rw [row.group, row.n_zero]
  dsimp only
  have one : min 1 (n - (rowIx i).getD 0 0 * 1) = 1 := by
    show min 1 (n - i * 1) = 1
    omega
  rw [one]
  show [(rowIx i).set 0 ((rowIx i).getD 0 0 * 1 + 0)] = _
  rw [Nat.add_zero, Nat.mul_one]
  rfl

/-- The elements of a row, in one order or the other. -/
theorem units : ∃ l : List Nat, l.Perm (List.range n) ∧ j.units = l.map rowIx := by
  have sizes : j.size 0 = n ∧ j.size 1 = 1 ∧ j.size 2 = 1 ∧ j.size 3 = 1 := by
    refine ⟨?_, ?_, ?_, ?_⟩
    · rw [CopyJob.size, if_pos rfl, row.n_zero, row.group, ceilDiv]
      omega
    all_goals
      rw [CopyJob.size, if_neg (by decide), row.shape]
      rfl
  obtain ⟨n0, n1, n2, n3⟩ := sizes
  have one : List.range 1 = [0] := rfl
  have single (desc : Nat → Bool) (d : Nat) (inner : List Nat) (size : j.size d = 1) :
      walkIx j.size desc (d :: inner) = (walkIx j.size desc inner).map fun ix => ix.set d 0 := by
    rw [walkIx, size, one]
    cases desc d <;> exact List.append_nil _
  have rows (l : List Nat) : l.flatMap (fun i => [[0, 0, 0, 0]].map fun ix => ix.set 0 i) = l.map rowIx := List.map_eq_flatMap.symm
  unfold CopyJob.units
  split
  · have mono : j.monoOrder = [0, 3, 2, 1] := by
      unfold CopyJob.monoOrder
      rw [row.shape, row.bits, isPacked_bytes]
      simp [sortBy, insertBy, strideAt, row.wide.ne']
    rw [mono, walkIx, n0, single _ 3 _ n3, single _ 2 _ n2, single _ 1 _ n1]
    refine ⟨_, ?_, rows _⟩
    split
    · exact List.reverse_perm _
    · exact .refl _
  · rw [single _ 3 _ n3, single _ 2 _ n2, single _ 1 _ n1, walkIx, n0, if_neg Bool.false_ne_true]
    refine ⟨List.range n, .refl _, ?_⟩
    refine (congrArg (fun l => ((l.map fun ix => ix.set 1 0).map fun ix => ix.set 2 0).map fun ix => ix.set 3 0) (rows (List.range n))).trans ?_
    rw [List.map_map, List.map_map, List.map_map]
    rfl

/-- A row whose strides agree is copied in place without staging. -/
theorem monotone (same : src = z) (bits : j.bs = j.bd) : j.monotone = true := by
  have strides : j.shape.src = [(z : Int), 0, 0, 0] ∧ j.shape.dst = [(z : Int), 0, 0, 0] := by rw [row.shape, same]; exact ⟨rfl, rfl⟩
  obtain ⟨source, dest⟩ := strides
  rw [CopyJob.monotone, source, dest, bits, row.bits, row.nested, beq_self_eq_true, beq_self_eq_true]
  rfl

theorem width : z ≤ 4 := by
  have most := storageBits_le (fwCode j.fd)
  have bits : storageBits (fwCode j.fd) = 8 * z := row.bits
  omega

theorem not_malformed (same : src = z) (formats : j.fs = j.fd) : j.malformed = false := by
  have bits : j.bs = 8 * z := (congrArg (fun x => storageBits (fwCode x)) formats).trans row.bits
  have strides : j.shape.src = [(z : Int), 0, 0, 0] ∧ j.shape.dst = [(z : Int), 0, 0, 0] := by rw [row.shape, same]; exact ⟨rfl, rfl⟩
  obtain ⟨source, dest⟩ := strides
  rw [CopyJob.malformed, source, dest, bits, row.bits, row.stridesOk _ (.inr rfl) (.inl same) row.width, row.nested, formats, bne_self_eq_false]
  simp

theorem not_fillMalformed (still : src = 0) : j.fillMalformed = false := by
  have strides : j.shape.src = [0, 0, 0, 0] ∧ j.shape.dst = [(z : Int), 0, 0, 0] := by rw [row.shape, still]; exact ⟨rfl, rfl⟩
  obtain ⟨source, dest⟩ := strides
  rw [CopyJob.fillMalformed, source, dest, row.bits, row.stridesOk _ (.inr rfl) (.inr still) row.width, row.nested]
  simp

end CopyJob.Row

/-! ## Elements written one by one -/

/-- `t` is `s` but for the elements `done` of a row at `pb`, which hold what `v` gives. -/
structure State.Placed (s t : State) (pb z : Nat) (done : List Nat) (v : Nat → List Byte) : Prop where
  bytes  : ∀ i ∈ done, t.mem.readN (pb + i * z) z = v i
  others : ∀ b, (∀ i ∈ done, b < pb + i * z ∨ pb + i * z + z ≤ b) → t.mem.read b = s.mem.read b
  host   : t.hostMem = s.hostMem
  ecc    : t.ecc = []
  engine : State.ByMemory false s t

section
variable {s t : State} {pb z n : Nat} {done : List Nat} {v : Nat → List Byte}

theorem State.Placed.start (clean : s.ecc = []) : s.Placed s pb z [] v :=
  ⟨fun _ mem => absurd mem List.not_mem_nil, fun _ _ => rfl, rfl, clean, .refl s⟩

/-- Two elements of a row lie apart. -/
theorem elements_apart {i k : Nat} (other : i ≠ k) (pb z : Nat) : pb + i * z + z ≤ pb + k * z ∨ pb + k * z + z ≤ pb + i * z := by
  rcases Nat.lt_or_gt_of_ne other with less | more
  · left
    have := Nat.mul_le_mul_right z (Nat.succ_le_of_lt less)
    rw [Nat.succ_mul] at this
    omega
  · right
    have := Nat.mul_le_mul_right z (Nat.succ_le_of_lt more)
    rw [Nat.succ_mul] at this
    omega

/-- An element of a row lies in it. -/
theorem element_inside {i : Nat} (low : i < n) (z : Nat) : i * z + z ≤ n * z := by
  rw [← Nat.succ_mul]
  exact Nat.mul_le_mul_right z low

theorem State.Placed.next {u : State} {i : Nat} (placed : s.Placed t pb z done v) (fresh : i ∉ done) (size : (v i).length = z)
    (stored : t.Stored u (pb + i * z) (v i)) : s.Placed u pb z (i :: done) v where
  bytes k mem := by
    rcases List.mem_cons.mp mem with rfl | early
    · have here := stored.bytes
      rwa [size] at here
    · refine Eq.trans ?_ (placed.bytes k early)
      have apart := elements_apart (fun same : k = i => fresh (same ▸ early)) pb z
      rw [Memory.readN_eq, Memory.readN_eq]
      refine List.map_congr_left fun o low => stored.others _ ?_
      have inside := List.mem_range.mp low
      rw [size]
      omega
  others b out := by
    have here := out i (.head _)
    rw [stored.others b (by rw [size]; exact here), placed.others b fun k mem => out k (.tail _ mem)]
  host := stored.host.trans placed.host
  ecc := stored.ecc
  engine := placed.engine.trans stored.engine

theorem State.Placed.apartFrom (placed : s.Placed t pb z done v) (clean : s.ecc = []) (few : ∀ i ∈ done, i < n) :
    State.ApartFrom [(pb, n * z)] s t where
  walks := placed.engine.sameWalks
  outside b out := placed.others b fun i mem => by
    have apart := out _ (.head _)
    have inside := element_inside (few i mem) z
    dsimp only at apart
    omega
  before := clean
  clean := placed.ecc

/-- A row whose every element is written holds them one after another. -/
theorem State.Placed.row (placed : s.Placed t pb z done v) (whole : ∀ i, i < n ↔ i ∈ done) :
    t.mem.readN pb (n * z) = (List.range n).flatMap v ∧ ∀ b, b < pb ∨ pb + n * z ≤ b → t.mem.read b = s.mem.read b := by
  refine ⟨?_, fun b out => placed.others b fun i mem => ?_⟩
  · have upTo (m : Nat) (few : m ≤ n) : t.mem.readN pb (m * z) = (List.range m).flatMap v := by
      induction m with
      | zero => rw [Nat.zero_mul, Memory.readN_eq]; rfl
      | succ m ih =>
        rw [Nat.succ_mul, ← Memory.readN_append, ih (by omega), List.range_succ, List.flatMap_append, List.flatMap_singleton,
          placed.bytes m ((whole m).mp (by omega))]
    exact upTo n (Nat.le_refl n)
  · have inside := element_inside ((whole i).mpr mem) z
    omega

end

section
variable {j : CopyJob} {n z : Nat} {src : Int} (row : j.Row n z src) {s : State} {pb : Nat} {v : Nat → List Byte} (clean : s.ecc = [])
  (dest : s.ReachesApart [(pb, n * z)] j.a true j.dst (n * z) pb) {done : List Nat} (few : ∀ i ∈ done, i < n) {i : Nat} (low : i < n) (fresh : i ∉ done)
include row clean dest few low fresh

/-- An element of a row whose destination lies in device memory is written there. -/
theorem CopyJob.write_row {e : Eng} (placed : s.Placed e.s pb z done v) {code : Nat} (value : natLe z code = v i) :
    ∃ t w, (j.write (rowIx i) [code]).run.run e = (.ok (), { e with s := t, wrote := w }) ∧ s.Placed t pb z (i :: done) v := by
  have size : (v i).length = z := by rw [← value, length_natLe]
  have inside := element_inside low z
  have place := ((dest.of_apart (placed.apartFrom clean few)).sub (o := i * z) (m := (v i).length) (by rw [size]; exact inside)).wrap
  obtain ⟨t, w, run, stored⟩ := writeV_of_apart placed.ecc place ⟨_, .head _, Nat.le_add_right _ _, by dsimp only; omega⟩ j.remote
  refine ⟨t, w, ?_, placed.next fresh size stored⟩
  have addr : elemAt j.dst j.shape.dst j.bd ((rowIx i).set 0 ((rowIx i).getD 0 0 * j.group)) = (j.dst + i * z) % 2 ^ 48 := by
    have same : (rowIx i).set 0 ((rowIx i).getD 0 0 * j.group) = rowIx i := by
      rw [row.group, Nat.mul_one]
      rfl
    rw [same, row.bits, show j.shape.dst = [(z : Int), 0, 0, 0] by rw [row.shape], elemAt_row]
  have bytes : j.bd / 8 = z := by rw [row.bits]; omega
  unfold CopyJob.write
  rw [addr, bytes, row.bits, isPacked_bytes, if_neg Bool.false_ne_true]
  refine Eq.trans ?_ run
  rw [← value]
  rfl

end

section
variable {j : CopyJob} {n z : Nat} (row : j.Row n z z) (formats : j.fs = j.fd)
include row formats

/-- An element of a row whose source lies in device memory is read there. -/
theorem CopyJob.read_row {e : Eng} {pa i : Nat} (clean : e.s.ecc = []) (source : e.s.Reaches j.a false j.src (n * z) pa) (low : i < n) :
    (j.read (rowIx i)).run.run e = (.ok [leNat (e.s.mem.readN (pa + i * z) z)], e) := by
  have bits : j.bs = 8 * z := (congrArg (fun x => storageBits (fwCode x)) formats).trans row.bits
  have bytes : j.bs / 8 = z := by rw [bits]; omega
  have place := (source.sub (o := i * z) (m := z) (element_inside low z)).wrap
  have read := readV_of_reaches clean place (e := e) rfl
  have one : (readElemV j.a j.src j.shape.src j.bs (rowIx i)).run.run e = (.ok (leNat (e.s.mem.readN (pa + i * z) z)), e) := by
    rw [readElemV, bytes, bits, isPacked_bytes, show j.shape.src = [(z : Int), 0, 0, 0] by rw [row.shape], elemAt_row]
    dsimp only
    rewrite [if_neg Bool.false_ne_true, Run.bind_of_ok read]
    rfl
  rw [CopyJob.read, row.elems low, List.mapM_cons, Run.bind_of_ok one]
  rfl

omit row in
/-- Equal formats move codes as they are. -/
theorem CopyJob.convert_same (codes : List Nat) (h : Hist) (e : Eng) : (j.convert codes h).run.run e = (.ok (codes, h), e) := by
  cases codes with
  | nil => rfl
  | cons c cs =>
    rw [CopyJob.convert, if_pos formats]
    rfl

end

/-! ## Walks -/

section
variable {j : CopyJob} {n z : Nat} {src : Int} (row : j.Row n z src) {s : State} {pb : Nat} (clean : s.ecc = [])
  (dest : s.ReachesApart [(pb, n * z)] j.a true j.dst (n * z) pb)
include row clean dest

/-- A FILL writes its value to every element. -/
theorem CopyJob.fill_rows (value : Nat) (l : List Nat) : ∀ (done : List Nat) (e : Eng), (l.reverse ++ done).Nodup →
    (∀ i ∈ l.reverse ++ done, i < n) → s.Placed e.s pb z done (fun _ => natLe z value) →
    ∃ t w, ((l.map rowIx).forM fun ix => j.write ix ((j.elems ix).map fun _ => value)).run.run e = (.ok (), { e with s := t, wrote := w }) ∧
      s.Placed t pb z (l.reverse ++ done) (fun _ => natLe z value) := by
  induction l with
  | nil => exact fun done e _ _ placed => ⟨e.s, e.wrote, rfl, placed⟩
  | cons i l ih =>
    intro done e distinct few placed
    have order : (i :: l).reverse ++ done = l.reverse ++ i :: done := by rw [List.reverse_cons, List.append_assoc]; rfl
    rw [order] at distinct few ⊢
    have tail := (List.nodup_append.mp distinct).2.1
    obtain ⟨t, w, run, placed'⟩ := CopyJob.write_row row clean dest (fun k mem => few k (List.mem_append_right _ (.tail _ mem)))
      (few i (List.mem_append_right _ (.head _))) (List.nodup_cons.mp tail).1 placed (code := value) rfl
    obtain ⟨t', w', rest, ends⟩ := ih (i :: done) { e with s := t, wrote := w } distinct few placed'
    refine ⟨t', w', ?_, ends⟩
    have elems : (j.elems (rowIx i)).map (fun _ => value) = [value] := by rw [row.elems (few i (List.mem_append_right _ (.head _)))]; rfl
    have split : (((i :: l).map rowIx).forM fun ix => j.write ix ((j.elems ix).map fun _ => value)) =
        j.write (rowIx i) ((j.elems (rowIx i)).map fun _ => value) >>= fun _ => (l.map rowIx).forM fun ix => j.write ix ((j.elems ix).map fun _ => value) := rfl
    rw [split, elems, Run.bind_of_ok run]
    exact rest

variable (formats : j.fs = j.fd) {v : Nat → List Byte} (size : ∀ i, (v i).length = z)
include formats size

/-- One unit of a copy whose codes are known. -/
theorem CopyJob.moves_unit {done : List Nat} {e : Eng} (few : ∀ i ∈ done, i < n) {i : Nat} (low : i < n) (fresh : i ∉ done)
    (placed : s.Placed e.s pb z done v) (h : Hist) {m : Run (List Nat)} (codes : m.run.run e = (.ok [leNat (v i)], e)) :
    ∃ t w, (tryCatch (do
      let y ← j.convert (← m) h
      j.write (rowIx i) y.1
      return (y.2, none)) (fun e => return (h, some e)) : Run (Hist × Option Stop)).run.run e = (.ok (h, none), { e with s := t, wrote := w }) ∧
      s.Placed t pb z (i :: done) v := by
  have value : natLe z (leNat (v i)) = v i := by
    have whole := natLe_leNat (v i)
    rwa [size] at whole
  obtain ⟨t, w, run, placed'⟩ := CopyJob.write_row row clean dest few low fresh placed value
  refine ⟨t, w, Run.tryCatch_of_ok ?_ _, placed'⟩
  rw [Run.bind_of_ok codes, Run.bind_of_ok (CopyJob.convert_same formats _ h e), Run.bind_of_ok run]
  rfl

end

section
variable {j : CopyJob} {n z : Nat} (row : j.Row n z z) {s : State} {pa pb : Nat} (clean : s.ecc = [])
  (dest : s.ReachesApart [(pb, n * z)] j.a true j.dst (n * z) pb) (formats : j.fs = j.fd)
include row clean dest formats

/-- A direct copy from a source apart from its destination. -/
theorem CopyJob.direct_rows (source : s.ReachesApart [(pb, n * z)] j.a false j.src (n * z) pa) (apart : pa + n * z ≤ pb ∨ pb + n * z ≤ pa)
    (h : Hist) (l : List Nat) : ∀ (done : List Nat) (e : Eng), (l.reverse ++ done).Nodup → (∀ i ∈ l.reverse ++ done, i < n) →
      s.Placed e.s pb z done (fun i => s.mem.readN (pa + i * z) z) →
      ∃ t w, (j.direct (l.map rowIx) h).run.run e = (.ok (h, none), { e with s := t, wrote := w }) ∧
        s.Placed t pb z (l.reverse ++ done) (fun i => s.mem.readN (pa + i * z) z) := by
  induction l with
  | nil => exact fun done e _ _ placed => ⟨e.s, e.wrote, rfl, placed⟩
  | cons i l ih =>
    intro done e distinct few placed
    have order : (i :: l).reverse ++ done = l.reverse ++ i :: done := by rw [List.reverse_cons, List.append_assoc]; rfl
    rw [order] at distinct few ⊢
    have tail := (List.nodup_append.mp distinct).2.1
    have early : ∀ k ∈ done, k < n := fun k mem => few k (List.mem_append_right _ (.tail _ mem))
    have low : i < n := few i (List.mem_append_right _ (.head _))
    have same : e.s.mem.readN (pa + i * z) z = s.mem.readN (pa + i * z) z := by
      rw [Memory.readN_eq, Memory.readN_eq]
      refine List.map_congr_left fun o mem => (placed.apartFrom clean early).outside _ fun x one => ?_
      obtain rfl := List.mem_singleton.mp one
      have inside := element_inside low z
      have less := List.mem_range.mp mem
      dsimp only
      omega
    have codes := CopyJob.read_row row formats placed.ecc (source.reaches (placed.apartFrom clean early)) low
    rw [same] at codes
    obtain ⟨t, w, run, placed'⟩ := CopyJob.moves_unit row clean dest formats (fun i => Memory.length_readN _ _ _) early low (List.nodup_cons.mp tail).1 placed h codes
    obtain ⟨t', w', rest, ends⟩ := ih (i :: done) { e with s := t, wrote := w } distinct few placed'
    refine ⟨t', w', ?_, ends⟩
    rw [List.map_cons, CopyJob.direct, Run.bind_of_ok run]
    exact rest

/-- The destination of a staged copy, whose source codes stand in the Pond. -/
theorem CopyJob.unload_rows {v : Nat → List Byte} (size : ∀ i, (v i).length = z) (h : Hist) (l : List Nat) : ∀ (done : List Nat) (e : Eng),
    (l.reverse ++ done).Nodup → (∀ i ∈ l.reverse ++ done, i < n) → s.Placed e.s pb z done v →
      ∃ t w, (j.unload (l.map fun i => (rowIx i, [leNat (v i)])) h).run.run e = (.ok (h, none), { e with s := t, wrote := w }) ∧
        s.Placed t pb z (l.reverse ++ done) v := by
  induction l with
  | nil => exact fun done e _ _ placed => ⟨e.s, e.wrote, rfl, placed⟩
  | cons i l ih =>
    intro done e distinct few placed
    have order : (i :: l).reverse ++ done = l.reverse ++ i :: done := by rw [List.reverse_cons, List.append_assoc]; rfl
    rw [order] at distinct few ⊢
    have tail := (List.nodup_append.mp distinct).2.1
    obtain ⟨t, w, run, placed'⟩ := CopyJob.moves_unit row clean dest formats size (fun k mem => few k (List.mem_append_right _ (.tail _ mem)))
      (few i (List.mem_append_right _ (.head _))) (List.nodup_cons.mp tail).1 placed h (m := pure [leNat (v i)]) rfl
    obtain ⟨t', w', rest, ends⟩ := ih (i :: done) { e with s := t, wrote := w } distinct few placed'
    refine ⟨t', w', ?_, ends⟩
    rw [pure_bind] at run
    rw [List.map_cons, CopyJob.unload, Run.bind_of_ok run]
    exact rest

/-- A staged copy: the destination takes what the source held before. -/
theorem CopyJob.staged_rows (source : s.Reaches j.a false j.src (n * z) pa) (h : Hist) (l : List Nat) (distinct : l.Nodup) (few : ∀ i ∈ l, i < n) {e : Eng}
    (here : e.s = s) : ∃ t w, (j.staged (l.map rowIx) h).run.run e = (.ok (h, none), { e with s := t, wrote := w }) ∧
      s.Placed t pb z l.reverse (fun i => s.mem.readN (pa + i * z) z) := by
  subst here
  have reads : ((l.map rowIx).mapM j.read).run.run e = (.ok ((l.map rowIx).map fun ix => [leNat (e.s.mem.readN (pa + ix.getD 0 0 * z) z)]), e) := by
    refine Run.mapM_of_ok _ fun ix mem => ?_
    obtain ⟨i, listed, rfl⟩ := List.mem_map.mp mem
    exact CopyJob.read_row row formats clean source (few i listed)
  have caught := Run.tryCatch_of_ok (m := (do return (← (l.map rowIx).mapM j.read, none) : Run (List (List Nat) × Option Stop)))
    ((Run.bind_of_ok reads _).trans rfl) (fun e => return ([], some e))
  have zipped : (l.map rowIx).zip ((l.map rowIx).map fun ix => [leNat (e.s.mem.readN (pa + ix.getD 0 0 * z) z)]) =
      l.map fun i => (rowIx i, [leNat (e.s.mem.readN (pa + i * z) z)]) := by
    rw [List.map_map, List.zip_map', Function.comp_def]
    rfl
  obtain ⟨t, w, run, placed⟩ := CopyJob.unload_rows row clean dest formats (v := fun i => e.s.mem.readN (pa + i * z) z) (fun i => Memory.length_readN _ _ _) h l []
    e (by rw [List.append_nil]; exact (List.nodup_reverse.mpr distinct)) (fun i mem => few i (by simpa using mem)) (.start clean)
  rw [List.append_nil] at placed
  refine ⟨t, w, ?_, placed⟩
  rw [CopyJob.staged, Run.bind_of_ok caught]
  dsimp only
  rw [zipped]
  exact run

end

end Sys2Proof.Machine
end

section
/-! PROOFS. COPY and FILL whole (R174 to R179): checks, ends, what memory then holds, the staging of a house. -/
namespace Sys2Proof.Machine

/-! ## The engine's work -/

section
variable {α β : Type}

theorem Run.linkWork_tryCatch {m : Run α} {k : Stop → Run α} (first : Run.LinkWork m) (rest : ∀ x, Run.LinkWork (k x)) :
    Run.LinkWork (tryCatch m k) := fun e => by
  have here := first e
  rw [Run.tryCatch_run_state]
  generalize m.run.run e = answer at here
  obtain ⟨x | x, e'⟩ := answer
  · exact here.trans (rest x e')
  · exact here

theorem Run.linkWork_pure (x : α) : Run.LinkWork (pure x : Run α) := (Run.byMemory_pure x).linkWork

theorem Run.linkWork_forM {f : α → Run PUnit} (each : ∀ x, Run.LinkWork (f x)) (l : List α) : Run.LinkWork (l.forM f) := by
  induction l with
  | nil => exact Run.linkWork_pure _
  | cons x l ih => exact Run.linkWork_bind (each x) fun _ => ih

end

theorem writeV_linkWork (a : Acc) (va : Nat) (bs : List Byte) (remote : Nat → Nat → List Byte → State → State)
    (links : ∀ m pa d u, State.LinkWork u (remote m pa d u)) : Run.LinkWork (writeV a va bs remote) := by
  unfold writeV
  apply Run.linkWork_forM
  intro x
  refine Run.linkWork_bind (translate_byMemory a true x.1).linkWork fun t => ?_
  dsimp only
  split
  · exact (Run.byMemory_modify fun e => e.s.byMemory_devStore _ _ _).linkWork
  · exact (Run.byMemory_modS fun u => u.byMemory_hostWrite _ _).linkWork
  · exact fun e => links _ _ _ e.s

theorem State.linkWork_leat (s : State) (l : Leat) : s.LinkWork { s with leat := l } := ⟨l, .refl _⟩

namespace CopyJob

theorem read_byMemory {kept : Bool} (j : CopyJob) (ix : List Nat) : Run.ByMemory kept (j.read ix) := by
  refine Run.byMemory_mapM (fun e => ?_) _
  unfold readElemV
  extract_lets at_ k
  exact Run.byMemory_ite (Run.byMemory_bind (readV_byMemory _ _ _) fun _ => Run.byMemory_pure _)
    (Run.byMemory_bind (readV_byMemory _ _ _) fun _ => Run.byMemory_pure _)

theorem convert_byMemory {kept : Bool} (j : CopyJob) (codes : List Nat) : ∀ h, Run.ByMemory kept (j.convert codes h) := by
  induction codes with
  | nil => exact fun h => Run.byMemory_pure _
  | cons c cs ih =>
    intro h
    rw [convert]
    exact Run.byMemory_ite (Run.byMemory_pure _) (Run.byMemory_bind (fun e => .refl e.s) fun x => Run.byMemory_bind (ih x.2) fun _ => Run.byMemory_pure _)

/-- Bytes for other modules wait in the links. -/
def Sends (j : CopyJob) : Prop := ∀ m pa d u, State.LinkWork u (j.remote m pa d u)

variable {j : CopyJob} (sends : j.Sends)
include sends

theorem write_linkWork (ix codes : List Nat) : Run.LinkWork (j.write ix codes) := by
  unfold write
  extract_lets at_
  exact Run.linkWork_ite (writeV_linkWork _ _ _ _ sends) (writeV_linkWork _ _ _ _ sends)

theorem moves_linkWork {m : Run (List Nat)} (reads : Run.LinkWork m) (ix : List Nat) (h : Hist) : Run.LinkWork (tryCatch (do
      let y ← j.convert (← m) h
      j.write ix y.1
      return (y.2, none)) (fun e => return (h, some e)) : Run (Hist × Option Stop)) :=
  Run.linkWork_tryCatch (Run.linkWork_bind reads fun codes => Run.linkWork_bind (convert_byMemory j codes h).linkWork fun _ =>
    Run.linkWork_bind (write_linkWork sends _ _) fun _ => Run.linkWork_pure _) fun _ => Run.linkWork_pure _

theorem direct_linkWork (l : List (List Nat)) : ∀ h, Run.LinkWork (j.direct l h) := by
  induction l with
  | nil => exact fun h => Run.linkWork_pure _
  | cons ix l ih =>
    intro h
    rw [direct]
    exact Run.linkWork_bind (moves_linkWork sends (read_byMemory j ix).linkWork ix h) fun x => Run.linkWork_ite (Run.linkWork_pure _) (ih x.1)

theorem unload_linkWork (l : List (List Nat × List Nat)) : ∀ h, Run.LinkWork (j.unload l h) := by
  induction l with
  | nil => exact fun h => Run.linkWork_pure _
  | cons x l ih =>
    intro h
    have moves := moves_linkWork sends (m := pure x.2) (Run.linkWork_pure _) x.1 h
    rw [pure_bind] at moves
    rw [unload]
    exact Run.linkWork_bind moves fun x => Run.linkWork_ite (Run.linkWork_pure _) (ih x.1)

theorem staged_linkWork (l : List (List Nat)) (h : Hist) : Run.LinkWork (j.staged l h) := by
  refine Run.linkWork_bind (Run.linkWork_tryCatch (Run.linkWork_bind (Run.byMemory_mapM (fun ix => read_byMemory j ix) l).linkWork
    fun _ => Run.linkWork_pure _) fun _ => Run.linkWork_pure _) fun x => ?_
  split
  · exact Run.linkWork_pure _
  · exact unload_linkWork sends _ h

end CopyJob

/-- The work of a copy engine: direct, or by way of the Pond. -/
def CopyJob.moves (j : CopyJob) (staged : Bool) : Run (Hist × Option Stop) := do
  meetBuf 0 j.a.unit
  if staged then j.staged j.units { format := j.fd } else j.direct j.units { format := j.fd }

theorem CopyJob.moves_work {j : CopyJob} (sends : j.Sends) (staged : Bool) : Run.LinkWork (j.moves staged) :=
  Run.linkWork_bind (meetBuf_byMemory (kept := false) 0 j.a.unit).linkWork fun _ =>
    Run.linkWork_ite (CopyJob.staged_linkWork sends _ _) (CopyJob.direct_linkWork sends _ _)

theorem State.copyJob_sends (s : State) (f r : Nat) (c : Running) (x : CopyShape) : (s.copyJob f r c x).Sends :=
  fun _ _ _ u => u.linkWork_leat _

/-! ## Ends of a COPY (R174, R234) -/

section
variable {s : State} {f r : Nat} {c : Running}

/-- A command that ends without side records. -/
theorem State.finish_flagged (runs : s.running f r = some c) (waits : c.wait = .none) (going : c.done = none) (fl : Flags) (st : Status) (res : Word32) :
    let u := (s.addFlags f r fl).finishWith f r st res
    u.mem = s.mem ∧ u.hostMem = s.hostMem ∧ u.running f r = some { c with
      flags := c.flags.or fl, done := some (c.statusOf st, res), doneAt := s.ends } := by
  have flagged : s.addFlags f r fl = s.setRunning f r (some { c with flags := c.flags.or fl }) := State.modRunning_of_running _ runs _
  dsimp only
  rw [flagged, State.finishWith, State.sides_nil, State.finish_of_running _ f r _ _ _ (s.running_setRunning f r _)]
  refine ⟨rfl, rfl, (State.running_setRunning _ f r _).trans (congrArg some ?_)⟩
  dsimp only
  rw [going, ← waits]
  rfl

/-- A copy that has moved all its elements, to no other module. -/
theorem State.runCopy_moved {j : CopyJob} {staged : Bool} {h : Hist} {e : Eng} (runs : e.s.running f r = some c) (waits : c.wait = .none)
    (going : c.done = none) (here : j.reachesLink s = false ∨ s.remoteRead j.a j.sources = none) (moves : (j.moves staged).exec s = (.ok (h, none), e))
    (owes : e.s.OwesNothing f r c.seq) (good : e.device = false) (side : j.fs = j.fd ∨ c.desc.sideLen = 0) :
    let u := s.runCopy f r j staged
    u.mem = e.s.mem ∧ u.hostMem = e.s.hostMem ∧ u.running f r = some { c with
      flags := c.flags.or e.flags, done := some (c.statusOf e.flags.status, 0), doneAt := e.s.ends, sideOvf := c.sideOvf || j.fs != j.fd } := by
  have noFault : (if j.reachesLink s then s.remoteRead j.a j.sources else none) = none := by
    rcases here with stays | reads
    · rw [stays, if_neg Bool.false_ne_true]
    · rw [reads, ite_self]
  have status : endStatus none e = e.flags.status := by rw [endStatus, Eng.status, good, if_neg Bool.false_ne_true]
  have counted : e.flags.status.noHist = false := by
    unfold Flags.status
    split <;> rfl
  have flagged : (e.s.addFlags f r e.flags).running f r = some { c with flags := c.flags.or e.flags } := State.running_addFlags runs e.flags
  have owes' : (e.s.addFlags f r e.flags).OwesNothing f r c.seq := by
    have same : (e.s.addFlags f r e.flags).leat = e.s.leat := by rw [State.addFlags, State.modRunning, runs]; rfl
    rw [State.OwesNothing, same]
    exact owes
  have goes : s.runCopy f r j staged = (e.s.addFlags f r e.flags).finishWith f r e.flags.status 0
      (if j.fs = j.fd then [] else [(0x01, { h with flags := e.flags }.bytes)]) := by
    unfold State.runCopy
    rewrite [noFault]
    dsimp only
    rewrite [show (do meetBuf 0 j.a.unit; if staged then j.staged j.units { format := j.fd } else j.direct j.units { format := j.fd } :
      Run (Hist × Option Stop)).exec s = (.ok (h, none), e) from moves]
    dsimp only
    rewrite [status, State.finishAcked_of_owesNothing flagged owes', counted]
    refine congrArg (fun l => (e.s.addFlags f r e.flags).finishWith f r e.flags.status 0 l) ((List.append_nil _).trans ?_)
    by_cases same : j.fs = j.fd
    · rw [if_pos same, if_neg fun other => other.1 same]
    · rw [if_neg same, if_pos ⟨same, rfl⟩]
  dsimp only
  rw [goes]
  by_cases same : j.fs = j.fd
  · obtain ⟨mem, host, running⟩ := State.finish_flagged runs waits going e.flags e.flags.status 0
    rw [if_pos same]
    refine ⟨mem, host, running.trans (congrArg some ?_)⟩
    rw [same, bne_self_eq_false, Bool.or_false]
  · obtain ⟨mem, host, running⟩ := State.finishWith_flagged runs waits going (side.resolve_left same) e.flags e.flags.status 0
      [(0x01, { h with flags := e.flags }.bytes)] none
    rw [if_neg same]
    refine ⟨mem, host, running.trans (congrArg some ?_)⟩
    rw [bne_iff_ne.mpr same]
    rfl

/-! ## Checks of a COPY (R371, R372, R177) -/

/-- The effect of a COPY whose shape has been read. -/
def State.copyOn (s : State) (f r : Nat) (c : Running) (ws : List Word64) : State :=
  let j := s.copyJob f r c (copyShapeOf ws)
  if j.malformed then s.fail f r .malformed
  else if j.shape.count = 0 then s.finish f r .ok 0
  else if s.leat.state ≠ .run ∧ j.reachesLink s then s.fail f r .state
  else if j.overlaps && !j.monotone then
    if j.sourceBytes > s.stageLimit j.a.unit then s.finish f r .range 0
    else if (s.house j.a.unit).staged ≠ 0 then s.setRunning f r (some { c with wait := .staging j.a.unit ws })
    else s.stageCopy f r j
  else s.runCopy f r j false

theorem State.copy_of_words {ws : List Word64} {e : Eng} (reads : (readWords (ringAcc f r) c.desc.shape 10).exec s = (.ok ws, e)) :
    s.copy f r c = e.s.copyOn f r c ws := by
  unfold State.copy
  rewrite [reads]
  rfl

section
variable {ws : List Word64} (runs : s.running f r = some c) (opcode : opcodeOf c.desc.opcode = some .copy)
include runs

include opcode in
theorem State.copyOn_malformed (bad : (s.copyJob f r c (copyShapeOf ws)).malformed = true) : s.copyOn f r c ws = s.turnedAway f r c .malformed 0 := by
  have zero : s.failResult c.desc = (0, s) := by rw [State.failResult, opcode]
  exact (if_pos bad).trans (s.fail_of_running f r .malformed 0 runs zero)

variable (good : (s.copyJob f r c (copyShapeOf ws)).malformed = false)
include good

theorem State.copyOn_empty (none_ : (s.copyJob f r c (copyShapeOf ws)).shape.count = 0) : s.copyOn f r c ws = s.endedWith f r c .ok 0 :=
  (if_neg (by rw [good]; exact Bool.false_ne_true)).trans ((if_pos none_).trans (s.finish_of_running f r c .ok 0 runs))

variable (some_ : (s.copyJob f r c (copyShapeOf ws)).shape.count ≠ 0)
include some_

include opcode in
theorem State.copyOn_down (links : (s.copyJob f r c (copyShapeOf ws)).reachesLink s = true) (down : s.leat.state ≠ .run) :
    s.copyOn f r c ws = s.turnedAway f r c .state 0 := by
  have zero : s.failResult c.desc = (0, s) := by rw [State.failResult, opcode]
  exact (if_neg (by rw [good]; exact Bool.false_ne_true)).trans ((if_neg some_).trans ((if_pos ⟨down, links⟩).trans
    (s.fail_of_running f r .state 0 runs zero)))

variable (up : s.leat.state = .run ∨ (s.copyJob f r c (copyShapeOf ws)).reachesLink s = false)
include up

omit runs in
theorem State.copyOn_moves : s.copyOn f r c ws =
    let j := s.copyJob f r c (copyShapeOf ws)
    if j.overlaps && !j.monotone then
      if j.sourceBytes > s.stageLimit j.a.unit then s.finish f r .range 0
      else if (s.house j.a.unit).staged ≠ 0 then s.setRunning f r (some { c with wait := .staging j.a.unit ws })
      else s.stageCopy f r j
    else s.runCopy f r j false :=
  (if_neg (by rw [good]; exact Bool.false_ne_true)).trans ((if_neg some_).trans (if_neg fun cannot =>
    up.elim cannot.1 fun stays => Bool.false_ne_true (stays.symm.trans cannot.2)))

end

/-! ## FILL (R179) -/

theorem CopyJob.fill_byMemory (j : CopyJob) (stays : ∀ m pa d u, j.remote m pa d u = u) (value : Nat) : Run.ByMemory false (j.fill value) := by
  refine Run.byMemory_forM (fun ix => ?_) _
  have local_ (m pa : Nat) (d : List Byte) (u : State) : State.ByMemory false u (j.remote m pa d u) := by
    rw [stays]
    exact .refl u
  unfold CopyJob.write
  extract_lets at_
  exact Run.byMemory_ite (writeV_byMemory _ _ _ _ local_) (writeV_byMemory _ _ _ _ local_)

section
variable {ws : List Word64} {e : Eng} (reads : (readWords (ringAcc f r) c.desc.shape 10).exec s = (.ok ws, e)) (runs : e.s.running f r = some c)
include reads runs

theorem State.fill_malformed (opcode : opcodeOf c.desc.opcode = some .fill) (bad : (e.s.fillJob f c.desc (copyShapeOf ws)).fillMalformed = true) :
    s.fill f r c = e.s.turnedAway f r c .malformed 0 := by
  have zero : e.s.failResult c.desc = (0, e.s) := by rw [State.failResult, opcode]
  unfold State.fill
  rewrite [reads]
  exact (if_pos bad).trans (e.s.fail_of_running f r .malformed 0 runs zero)

variable (good : (e.s.fillJob f c.desc (copyShapeOf ws)).fillMalformed = false)
include good

theorem State.fill_empty (none_ : (e.s.fillJob f c.desc (copyShapeOf ws)).shape.count = 0) : s.fill f r c = e.s.endedWith f r c .ok 0 := by
  unfold State.fill
  rewrite [reads]
  exact (if_neg (by rw [good]; exact Bool.false_ne_true)).trans ((if_pos none_).trans (e.s.finish_of_running f r c .ok 0 runs))

theorem State.fill_written {e' : Eng} (some_ : (e.s.fillJob f c.desc (copyShapeOf ws)).shape.count ≠ 0)
    (fills : (do meetBuf 0 (e.s.fillJob f c.desc (copyShapeOf ws)).a.unit; (e.s.fillJob f c.desc (copyShapeOf ws)).fill (c.desc.op0 31 0) : Run Unit).exec e.s =
      (.ok (), e')) : s.fill f r c = e'.s.endedWith f r c (if e'.device = true then .deviceError else .ok) 0 := by
  have work := Run.ByMemory.exec (Run.byMemory_bind (meetBuf_byMemory (kept := false) 0 (e.s.fillJob f c.desc (copyShapeOf ws)).a.unit) fun _ =>
    CopyJob.fill_byMemory (e.s.fillJob f c.desc (copyShapeOf ws)) (fun _ _ _ _ => rfl) (c.desc.op0 31 0)) e.s
  rw [fills] at work
  unfold State.fill
  rewrite [reads]
  refine (if_neg (by rw [good]; exact Bool.false_ne_true)).trans ((if_neg some_).trans ?_)
  rewrite [fills]
  exact e'.s.finish_of_running f r c _ 0 ((work.running f r).trans runs)

end

end

end Sys2Proof.Machine
end

section
/-! PROOFS. Rows that a copy engine moves in device memory, the staging of a house, and what COPY and FILL leave (R174 to R179). -/
namespace Sys2Proof.Machine

/-! ## Rows in device memory -/

theorem Memory.readN_rows (m : Memory) (pa z n : Nat) : (List.range n).flatMap (fun i => m.readN (pa + i * z) z) = m.readN pa (n * z) := by
  induction n with
  | zero => rw [Nat.zero_mul, Memory.readN_eq]; rfl
  | succ n ih => rw [List.range_succ, List.flatMap_append, List.flatMap_singleton, ih, Memory.readN_append, Nat.succ_mul]

namespace CopyJob.Row

variable {j : CopyJob} {n z : Nat} {src : Int} (row : j.Row n z src) {s : State} {pa pb : Nat}
include row

/-- A row in device memory reaches no other module. -/
theorem stays (dest : s.Reaches j.a true j.dst (n * z) pb) : j.reachesLink s = false := by
  obtain ⟨l, perm, units⟩ := row.units
  unfold CopyJob.reachesLink
  rw [units, List.any_eq_false]
  intro ix mem
  obtain ⟨i, listed, rfl⟩ := List.mem_map.mp mem
  have low : i < n := List.mem_range.mp (perm.mem_iff.mp listed)
  have inside := element_inside low z
  have wide := row.wide
  obtain ⟨nc, e, run⟩ := dest (i * z) (by omega)
  have same : (rowIx i).set 0 ((rowIx i).getD 0 0 * j.group) = rowIx i := by
    rw [row.group, Nat.mul_one]
    rfl
  have leads : s.leads j.a true (elemAt j.dst j.shape.dst j.bd (rowIx i)) = some (.dev (pb + i * z)) := by
    rw [State.leads, row.bits, show j.shape.dst = [(z : Int), 0, 0, 0] by rw [row.shape], elemAt_row, run]
  rw [same, leads]
  exact Bool.false_ne_true

variable (clean : s.ecc = []) (dest : s.ReachesApart [(pb, n * z)] j.a true j.dst (n * z) pb)
include clean dest

/-- A FILL of a row. -/
theorem fills (value : Nat) : ∃ t w, (do meetBuf 0 j.a.unit; j.fill value : Run Unit).exec s = (.ok (), { s := t, wrote := w }) ∧
    t.mem.readN pb (n * z) = (List.replicate n (natLe z value)).flatten ∧ (∀ b, b < pb ∨ pb + n * z ≤ b → t.mem.read b = s.mem.read b) ∧
    t.hostMem = s.hostMem ∧ State.ByMemory false s t := by
  obtain ⟨l, perm, units⟩ := row.units
  have listed (i : Nat) : i < n ↔ i ∈ l.reverse ++ [] := by simp [perm.mem_iff]
  have distinct : (l.reverse ++ []).Nodup := by
    rw [List.append_nil]
    exact List.nodup_reverse.mpr (perm.nodup_iff.mpr List.nodup_range)
  obtain ⟨t, w, run, placed⟩ := CopyJob.fill_rows row clean dest value l [] { s := s } distinct (fun i mem => (listed i).mpr mem) (.start clean)
  obtain ⟨bytes, others⟩ := placed.row listed
  refine ⟨t, w, ?_, bytes.trans ?_, others, placed.host, placed.engine⟩
  · rw [Run.exec, Run.bind_of_ok (meetBuf_of_clean 0 j.a.unit { s := s } clean), CopyJob.fill, units, run]
    exact congrArg (Prod.mk _) (Eng.clearWritten_of_clean (e := { s := t, wrote := w }) placed.ecc)
  · rw [List.flatMap_def, List.map_const', List.length_range]

end CopyJob.Row

section
variable {j : CopyJob} {n z : Nat} (row : j.Row n z z) (formats : j.fs = j.fd) {s : State} {pa pb : Nat} (clean : s.ecc = [])
  (dest : s.ReachesApart [(pb, n * z)] j.a true j.dst (n * z) pb)
include row formats clean dest

/-- A copy of a row, whole: direct from a source apart from it, or staged. -/
theorem CopyJob.moves_row {staged : Bool} (source : if staged = true then s.Reaches j.a false j.src (n * z) pa
      else s.ReachesApart [(pb, n * z)] j.a false j.src (n * z) pa ∧ (pa + n * z ≤ pb ∨ pb + n * z ≤ pa)) :
    ∃ h t w, (j.moves staged).exec s = (.ok (h, none), { s := t, wrote := w }) ∧ t.mem.readN pb (n * z) = s.mem.readN pa (n * z) ∧
      (∀ b, b < pb ∨ pb + n * z ≤ b → t.mem.read b = s.mem.read b) ∧ t.hostMem = s.hostMem ∧ State.ByMemory false s t := by
  obtain ⟨l, perm, units⟩ := row.units
  have listed (i : Nat) : i < n ↔ i ∈ l.reverse ++ [] := by simp [perm.mem_iff]
  have distinct : l.Nodup := perm.nodup_iff.mpr List.nodup_range
  have few : ∀ i ∈ l.reverse ++ [], i < n := fun i mem => (listed i).mpr mem
  have moved : ∃ t w, (if staged then j.staged j.units { format := j.fd } else j.direct j.units { format := j.fd } : Run (Hist × Option Stop)).run.run { s := s } =
      (.ok ({ format := j.fd }, none), { s := t, wrote := w }) ∧ s.Placed t pb z (l.reverse ++ []) (fun i => s.mem.readN (pa + i * z) z) := by
    rw [units]
    cases staged with
    | true =>
      rw [List.append_nil]
      exact CopyJob.staged_rows row clean dest formats source { format := j.fd } l distinct (fun i mem => few i (by simpa using mem)) (e := { s := s }) rfl
    | false =>
      obtain ⟨source, apart⟩ := source
      exact CopyJob.direct_rows row clean dest formats source apart { format := j.fd } l [] { s := s }
        (by rw [List.append_nil]; exact List.nodup_reverse.mpr distinct) few (.start clean)
  obtain ⟨t, w, run, placed⟩ := moved
  obtain ⟨bytes, others⟩ := placed.row listed
  refine ⟨{ format := j.fd }, t, w, ?_, bytes.trans (Memory.readN_rows _ _ _ _), others, placed.host, placed.engine⟩
  rw [Run.exec, CopyJob.moves, Run.bind_of_ok (meetBuf_of_clean 0 j.a.unit { s := s } clean), run]
  exact congrArg (Prod.mk _) (Eng.clearWritten_of_clean (e := { s := t, wrote := w }) placed.ecc)

end

/-! ## The staging of a house (R177) -/

/-- A command that holds the staging of a house, which counts its units. -/
def State.Holds (s : State) (f r h n : Nat) : Prop := ∃ k, s.running f r = some k ∧ k.staged = some (h, n) ∧ (s.house h).staged = n

section
variable {s : State} {f r h n : Nat} (holds : s.Holds f r h n)
include holds

theorem State.Holds.linkWork {t : State} (work : s.LinkWork t) : t.Holds f r h n := by
  obtain ⟨k, runs, takes, counts⟩ := holds
  refine ⟨k, (work.running f r).trans runs, takes, ?_⟩
  obtain ⟨l, by_⟩ := work
  obtain ⟨w, house⟩ := by_.house h
  exact (congrArg HouseRegs.staged house).trans counts

theorem State.Holds.modRunning (g : Running → Running) (keeps : ∀ k, (g k).staged = k.staged) : (s.modRunning f r g).Holds f r h n := by
  obtain ⟨k, runs, takes, counts⟩ := holds
  rw [s.modRunning_of_running runs]
  exact ⟨g k, s.running_setRunning f r _, (keeps k).trans takes, counts⟩

theorem State.Holds.addFlags (fl : Flags) : (s.addFlags f r fl).Holds f r h n := holds.modRunning _ fun _ => rfl

theorem State.Holds.side (kind : Nat) (body : List Byte) : (s.side f r kind body).Holds f r h n := by
  obtain ⟨k, runs, takes, counts⟩ := id holds
  have lost : (s.setRunning f r (some { k with sideOvf := true })).Holds f r h n := ⟨_, s.running_setRunning f r _, takes, counts⟩
  have wrote := holds.linkWork (Run.ByMemory.exec (writeV_local_byMemory (sideAcc f r) (k.desc.sideBase + 16 * k.sideUsed) (sideBytes kind body)) s).linkWork
  unfold State.side
  rewrite [runs]
  dsimp only
  split
  · exact lost
  · split
    · exact lost
    · split
      · exact wrote.modRunning _ fun _ => rfl
      · exact wrote.modRunning _ fun _ => rfl

theorem State.Holds.sides (recs : List (Nat × List Byte)) (fault : Option FaultRec) : (s.sides f r recs fault).Holds f r h n := by
  have all : (recs.foldl (fun s x => s.side f r x.1 x.2) s).Holds f r h n :=
    List.foldlRecOn (motive := fun t : State => t.Holds f r h n) recs _ holds fun t known x _ => known.side x.1 x.2
  unfold State.sides
  cases fault with
  | none => exact all
  | some x => exact all.side 0x03 x.body

theorem State.Holds.finish (st : Status) (res : Word32) : (s.finish f r st res).Holds f r h n := by
  obtain ⟨k, runs, takes, counts⟩ := holds
  exact State.Holds.modRunning (s := s.ended) ⟨k, runs, takes, counts⟩ _ fun _ => rfl

theorem State.Holds.finishWith (st : Status) (res : Word32) (recs : List (Nat × List Byte)) (fault : Option FaultRec) :
    (s.finishWith f r st res recs fault).Holds f r h n := (holds.sides recs fault).finish st res

theorem State.Holds.stopped (x : Stop) : (s.stopped f r x).Holds f r h n := by
  obtain ⟨k, runs, takes, counts⟩ := id holds
  have drawn : (s.failResult k.desc).2.Holds f r h n := by
    rcases s.failResult_eq k.desc with same | same
    · rw [same]
      exact holds
    · rw [same]
      exact ⟨k, runs, takes, counts⟩
  unfold State.stopped
  rewrite [runs]
  exact drawn.finishWith _ _ _ _

omit holds in
theorem State.linkWork_emit (s : State) (p : Packet) : s.LinkWork (s.emit p).1 := by
  obtain ⟨l, sent⟩ := (s.emit_links p).1
  rw [sent]
  exact s.linkWork_leat l

omit holds in
theorem State.linkWork_sendQueued (m : Nat) : ∀ s : State, s.LinkWork (s.sendQueued m) := by
  induction m with
  | zero => exact fun s => (State.ByMemory.refl s).linkWork
  | succ m ih =>
    intro s
    rw [State.sendQueued]
    split
    · exact (State.ByMemory.refl s).linkWork
    · split
      · exact (State.ByMemory.refl s).linkWork
      · exact ((s.linkWork_leat _).trans (State.linkWork_emit _ _)).trans ((State.linkWork_leat _ _).trans (ih _))

theorem State.Holds.finishAcked (st : Status) (res : Word32) (recs : List (Nat × List Byte)) : (s.finishAcked f r st res recs).Holds f r h n := by
  have sent := holds.linkWork (State.linkWork_sendQueued s.leat.queued.length s)
  obtain ⟨k, runs, takes, counts⟩ := id sent
  have runs' : s.sendAll.running f r = some k := runs
  unfold State.finishAcked
  extract_lets t
  rw [show t.running f r = some k from runs']
  dsimp only
  split
  · exact sent.finishWith _ _ _ _
  · exact ⟨_, State.running_setRunning _ f r _, takes, counts⟩

theorem State.Holds.runCopy {j : CopyJob} (sends : j.Sends) (staged : Bool) : (s.runCopy f r j staged).Holds f r h n := by
  have work := holds.linkWork ((CopyJob.moves_work sends staged).exec s)
  unfold State.runCopy
  extract_lets hist x e
  have worked : e.s.Holds f r h n := work
  split
  · exact holds.stopped _
  · split
    · exact worked.stopped _
    · exact (worked.addFlags _).finishAcked _ _ _

end

end Sys2Proof.Machine
end

section
/-! PROOFS. COPY, FILL and the staging queue (R174 to R179). -/
namespace Sys2Proof.Machine

/-! ## Taking the staging of a house (R177) -/

/-- The state in which a command has taken the staging of a house. -/
def State.takeStaging (s : State) (f r h n : Nat) : State :=
  ((s.setHouse h { s.house h with staged := n }).evalWeir (.copyStaging (houseIx h))).modRunning f r
    (fun c => { c with staged := some (h, n), wait := .none })

theorem State.stageCopy_eq (s : State) (f r : Nat) (j : CopyJob) :
    s.stageCopy f r j = (s.takeStaging f r j.a.unit (ceilDiv j.sourceBytes 65536)).runCopy f r j true := rfl

section
variable {s : State} {f r : Nat} {c : Running} (runs : s.running f r = some c) (h n : Nat)

section
include runs

/-- The command that has taken the staging no longer waits. -/
theorem State.running_takeStaging : (s.takeStaging f r h n).running f r = some { c with staged := some (h, n), wait := .none } := by
  have marked := (s.setHouse h { s.house h with staged := n }).marksOnly_evalWeir (.copyStaging (houseIx h))
  rw [State.takeStaging, State.modRunning_of_running _ ((marked.running f r).trans runs), State.running_setRunning]

theorem State.holds_takeStaging : (s.takeStaging f r h n).Holds f r h n := by
  have marked := (s.setHouse h { s.house h with staged := n }).marksOnly_evalWeir (.copyStaging (houseIx h))
  refine ⟨_, State.running_takeStaging runs h n, rfl, ?_⟩
  obtain ⟨_, _, _, _, house⟩ := marked.house h
  have stays (g : Running → Running) (u : State) (known : u.running f r = some c) : (u.modRunning f r g).house h = u.house h := by
    rw [State.modRunning_of_running _ known]
    rfl
  rw [State.takeStaging, stays _ _ ((marked.running f r).trans runs), house, State.house_setHouse]

end

/-- Taking the staging changes the count of one house, marks, and the command. -/
theorem State.takeStaging_fields : let t := s.takeStaging f r h n
    t.mem = s.mem ∧ t.hostMem = s.hostMem ∧ t.ecc = s.ecc ∧ t.ends = s.ends ∧ t.leat = s.leat ∧ s.SameWalks t := by
  have counted : s.SameWalks (s.setHouse h { s.house h with staged := n }) :=
    ⟨rfl, rfl, rfl, rfl, fun _ => ⟨rfl, rfl, rfl, rfl⟩, fun k => by
      by_cases here : k = h
      · rw [here, State.house_setHouse]
        exact ⟨rfl, rfl, rfl⟩
      · rw [State.house_setHouse_ne _ _ _ _ here]
        exact ⟨rfl, rfl, rfl⟩⟩
  have marked := (s.setHouse h { s.house h with staged := n }).marksOnly_evalWeir (.copyStaging (houseIx h))
  have same (u : State) (g : Running → Running) : (u.modRunning f r g).mem = u.mem ∧ (u.modRunning f r g).hostMem = u.hostMem ∧
      (u.modRunning f r g).ecc = u.ecc ∧ (u.modRunning f r g).ends = u.ends ∧ (u.modRunning f r g).leat = u.leat ∧ u.SameWalks (u.modRunning f r g) := by
    unfold State.modRunning
    split
    · exact ⟨rfl, rfl, rfl, rfl, rfl, .of_tables rfl rfl rfl rfl rfl rfl⟩
    · exact ⟨rfl, rfl, rfl, rfl, rfl, .refl u⟩
  obtain ⟨mem, host, ecc, ends, leat, walks⟩ := same ((s.setHouse h { s.house h with staged := n }).evalWeir (.copyStaging (houseIx h)))
    (fun c => { c with staged := some (h, n), wait := .none })
  have parts := marked.part
  have houses := marked.house
  obtain ⟨fns, msgs, hs, ps, rest⟩ := marked.rest
  have weighed : (s.setHouse h { s.house h with staged := n }).SameWalks ((s.setHouse h { s.house h with staged := n }).evalWeir (.copyStaging (houseIx h))) :=
    ⟨by rw [rest], by rw [rest], by rw [rest], by rw [rest], fun p => by
      obtain ⟨_, _, part⟩ := parts p
      rw [part]
      exact ⟨rfl, rfl, rfl, rfl⟩, fun k => by
      obtain ⟨_, _, _, _, house⟩ := houses k
      rw [house]
      exact ⟨rfl, rfl, rfl⟩⟩
  exact ⟨mem.trans (by rw [rest]; rfl), host.trans (by rw [rest]; rfl), ecc.trans (by rw [rest]; rfl), ends.trans (by rw [rest]; rfl),
    leat.trans (by rw [rest]; rfl), (counted.trans weighed).trans walks⟩

end

/-- A module that translates alike, with the same memory, leads apart from the same runs. -/
theorem State.SameWalks.apartFrom {s t : State} (same : s.SameWalks t) (clean : s.ecc = []) (clean' : t.ecc = []) (runs : List (Nat × Nat)) :
    State.ApartFrom runs s t where
  walks := by
    have unchanged : ({ s with mem := t.mem } : State) = s := by rw [same.mem]
    rw [unchanged]
    exact same
  outside b _ := by rw [same.mem]
  before := clean
  clean := clean'

/-! ## Rows in device memory -/

section
variable {j : CopyJob} {n z : Nat} (row : j.Row n z z) (formats : j.fs = j.fd) {s : State} {f r : Nat} {c : Running} {pa pb : Nat} (clean : s.ecc = [])
  (dest : s.ReachesApart [(pb, n * z)] j.a true j.dst (n * z) pb)
include row formats clean dest

/-- A row moved in device memory by a command that has not ended. -/
theorem State.runCopy_row {staged : Bool} (runs : s.running f r = some c) (waits : c.wait = .none) (going : c.done = none)
    (owes : s.OwesNothing f r c.seq) (source : if staged = true then s.Reaches j.a false j.src (n * z) pa
      else s.ReachesApart [(pb, n * z)] j.a false j.src (n * z) pa ∧ (pa + n * z ≤ pb ∨ pb + n * z ≤ pa)) :
    let u := s.runCopy f r j staged
    u.mem.readN pb (n * z) = s.mem.readN pa (n * z) ∧ (∀ b, b < pb ∨ pb + n * z ≤ b → u.mem.read b = s.mem.read b) ∧ u.hostMem = s.hostMem ∧
      u.running f r = some { c with done := some (c.statusOf .ok, 0), doneAt := s.ends } := by
  obtain ⟨h, t, w, moves, bytes, others, host, engine⟩ := CopyJob.moves_row row formats clean dest source
  have known : t.running f r = some c := (engine.running f r).trans runs
  have still : t.OwesNothing f r c.seq := by
    rw [State.OwesNothing, engine.leat]
    exact owes
  obtain ⟨mem, host', running⟩ := State.runCopy_moved (e := { s := t, wrote := w }) known waits going (.inl (row.stays (dest.now clean))) moves still rfl (.inl formats)
  dsimp only at mem host' running ⊢
  refine ⟨by rw [mem, bytes], fun b out => by rw [mem, others b out], host'.trans host, running.trans (congrArg some ?_)⟩
  rw [Flags.or_none, formats, bne_self_eq_false, Bool.or_false, engine.ends]
  rfl

end

/-! ## The statement -/

section
variable {s : State} {f : FnId} {r : RingIx} {c : Running}

theorem exec_copy (fresh : s.fresh f r .copy = some c) (alone : c.desc.ringEn = false) : exec (.copy f r) s = .next (s.copy f r c).settle :=
  congrArg (fun u : State => Host.Outcome.next u.settle) ((s.runCmd_of_fresh f r .copy _ c fresh).trans
    (if_neg (by rw [alone]; exact Bool.false_ne_true)))

theorem exec_fill (fresh : s.fresh f r .fill = some c) : exec (.fill f r) s = .next (s.fill f r c).settle :=
  congrArg (fun u : State => Host.Outcome.next u.settle) (s.runCmd_of_fresh f r .fill _ c fresh)

section
variable {h : Nat} {ws : List Word64} (runs : s.running f r = some c) (waits : c.wait = .staging h ws)
include runs waits

theorem State.startStaged_waits (held : (s.house h).staged ≠ 0 ∨ (s.overshotWaits h = true ∧ (s.sq f r).overshot = false)) : s.startStaged f r = s := by
  unfold State.startStaged
  rewrite [runs]
  dsimp only
  rewrite [waits]
  refine if_pos (held.imp_right fun first => ⟨first.1, ?_⟩)
  rw [first.2]
  rfl

theorem State.startStaged_starts (free : (s.house h).staged = 0) (first : (s.sq f r).overshot = true ∨ s.overshotWaits h = false) :
    let j := s.copyJob f r c (copyShapeOf ws)
    s.startStaged f r = s.stageCopy f r { j with a := { j.a with unit := h } } := by
  unfold State.startStaged
  rewrite [runs]
  dsimp only
  rewrite [waits]
  refine if_neg fun held => held.elim (fun some_ => some_ free) fun behind => ?_
  obtain ⟨other, mine⟩ := behind
  rcases first with over_ | none_
  · rw [over_] at mine
    exact Bool.false_ne_true mine
  · exact Bool.false_ne_true (none_.symm.trans other)

end

end

/-- Settles O40: the checks by `copyOn_…` and `fill_…`, rows by `runCopy_row` and `fills`, the staging by `Holds`. -/
theorem copyAndFillMoveTheirElements : Obligations.CopyAndFillMoveTheirElements := by
  unfold Obligations.CopyAndFillMoveTheirElements
  intro s f r c owesNothing row
  refine ⟨fun ws e reads => ⟨?_, ?_⟩, ?_, fun h ws runs waits => ⟨?_, ?_⟩⟩
  · intro fresh alone j
    obtain ⟨known, waits, going, opcode, -⟩ := (s.fresh_iff f r .copy c).mp fresh
    have engine := Run.ByMemory.exec (readWords_byMemory (kept := false) (ringAcc f r) c.desc.shape 10) s
    rw [reads] at engine
    have runs : e.s.running f r = some c := (engine.running f r).trans known
    have next : exec (.copy f r) s = .next (e.s.copyOn f r c ws).settle := by rw [exec_copy fresh alone, State.copy_of_words reads]
    refine ⟨fun bad => ?_, fun good none_ => ?_, fun good some_ links down => ?_, fun good some_ up => ⟨fun h e' direct here moves side dev owes => ?_, fun over_ => ⟨fun long => ?_, fun short held => ?_⟩⟩⟩
    · rw [next, State.copyOn_malformed runs opcode bad]
    · rw [next, State.copyOn_empty runs good none_]
    · rw [next, State.copyOn_down runs opcode good some_ links down]
    · have work := (CopyJob.moves_work (e.s.copyJob_sends f r c (copyShapeOf ws)) false).exec e.s
      have moves' : (j.moves false).exec e.s = (.ok (h, none), e') := moves
      rw [show (CopyJob.moves (e.s.copyJob f r c (copyShapeOf ws)) false).exec e.s = (.ok (h, none), e') from moves] at work
      refine ⟨_, next.trans (congrArg (fun u : State => Host.Outcome.next u.settle) ?_),
        State.runCopy_moved ((work.running f r).trans runs) waits going here moves' owes dev side⟩
      rw [State.copyOn_moves good some_ up]
      exact if_neg (by rw [direct]; exact Bool.false_ne_true)
    · rw [next, State.copyOn_moves good some_ up]
      refine congrArg (fun u : State => Host.Outcome.next u.settle) ((if_pos over_).trans ((if_pos long).trans ?_))
      exact e.s.finish_of_running f r c .range 0 runs
    · rw [next, State.copyOn_moves good some_ up]
      exact congrArg (fun u : State => Host.Outcome.next u.settle) ((if_pos over_).trans ((if_neg (Nat.not_lt.mpr short)).trans (if_pos held)))
  · intro fresh j
    obtain ⟨known, waits, going, opcode, -⟩ := (s.fresh_iff f r .fill c).mp fresh
    have engine := Run.ByMemory.exec (readWords_byMemory (kept := false) (ringAcc f r) c.desc.shape 10) s
    rw [reads] at engine
    have runs : e.s.running f r = some c := (engine.running f r).trans known
    refine ⟨fun bad => ?_, fun good none_ => ?_, fun e' good some_ fills => ?_⟩
    · rw [exec_fill fresh, State.fill_malformed reads runs opcode bad]
    · rw [exec_fill fresh, State.fill_empty reads runs good none_]
    · rw [exec_fill fresh, State.fill_written reads runs good some_ fills]
  · intro at_ n z pa pb clean owes reach ws
    refine ⟨?_, ?_⟩
    · intro fresh alone formats bits shape apart apart' a source dest
      obtain ⟨known, waits, going, opcode, -⟩ := (s.fresh_iff f r .copy c).mp fresh
      obtain ⟨some_, wide, shape⟩ := shape
      have line : (s.copyJob f r c (copyShapeOf ws)).Row n z z := ⟨some_, wide, shape, bits⟩
      have reads := readWords_exec (n := 10) clean reach
      have stays := line.stays (dest.now clean)
      obtain ⟨bytes, others, host, running⟩ := State.runCopy_row (staged := false) line formats clean dest known waits going owes ⟨source, apart'⟩
      refine ⟨_, (exec_copy fresh alone).trans (congrArg (fun u : State => Host.Outcome.next u.settle) ?_), bytes, others, host, running⟩
      rw [State.copy_of_words reads, State.copyOn_moves (line.not_malformed rfl formats) (by rw [line.count]; omega) (.inr stays)]
      refine if_neg ?_
      rw [line.monotone rfl (congrArg (fun x => storageBits (fwCode x)) formats), Bool.not_true, Bool.and_false]
      exact Bool.false_ne_true
    · intro fresh bits shape dest
      obtain ⟨known, waits, going, opcode, -⟩ := (s.fresh_iff f r .fill c).mp fresh
      obtain ⟨some_, wide, shape⟩ := shape
      have line : (s.fillJob f c.desc (copyShapeOf ws)).Row n z 0 := ⟨some_, wide, shape, bits⟩
      obtain ⟨t, w, fills, bytes, others, host, engine⟩ := line.fills clean dest (c.desc.op0 31 0)
      refine ⟨_, (exec_fill fresh).trans (congrArg (fun u : State => Host.Outcome.next u.settle)
        (State.fill_written (readWords_exec (n := 10) clean reach) known (line.not_fillMalformed rfl) (by rw [line.count]; omega) fills)), bytes, others, host, ?_⟩
      refine (State.running_setRunning _ f r _).trans (congrArg some ?_)
      dsimp only
      rw [going, engine.ends, ← waits]
      rfl
  · intro held
    exact congrArg (fun u : State => Host.Outcome.next u.settle) (State.startStaged_waits runs waits held)
  · intro free first j
    have starts : exec (.stagedCopyStart f r) s = .next (s.stageCopy f r { j with a := { j.a with unit := h } }).settle :=
      congrArg (fun u : State => Host.Outcome.next u.settle) (State.startStaged_starts runs waits free first)
    refine ⟨?_, fun n z pa pb clean owes going formats bits shape source dest => ?_⟩
    · have sends : CopyJob.Sends { j with a := { j.a with unit := h } } := s.copyJob_sends f r c (copyShapeOf ws)
      obtain ⟨k, running, takes, counts⟩ := (State.holds_takeStaging runs h (ceilDiv j.sourceBytes 65536)).runCopy sends true
      exact ⟨_, k, starts, running, takes, counts⟩
    · obtain ⟨some_, wide, shape⟩ := shape
      have line : CopyJob.Row { j with a := { j.a with unit := h } } n z z := ⟨some_, wide, shape, bits⟩
      obtain ⟨mem, host, ecc, ends, leat, walks⟩ := State.takeStaging_fields (s := s) (f := f) (r := r) h (ceilDiv j.sourceBytes 65536)
      have clean' := ecc.trans clean
      have still : (s.takeStaging f r h (ceilDiv j.sourceBytes 65536)).OwesNothing f r c.seq := by
        rw [State.OwesNothing, leat]
        exact owes
      obtain ⟨bytes, others, host', running⟩ := State.runCopy_row (staged := true) line formats clean'
        (dest.of_apart (walks.apartFrom clean clean' _)) (State.running_takeStaging runs h _) rfl going still
        (source.of_sameWalks walks clean clean')
      exact ⟨_, _, starts, bytes.trans (by rw [mem]), fun b out => (others b out).trans (by rw [mem]), host'.trans host, running, rfl⟩

end Sys2Proof.Machine
end

section
/-! PROOFS. Race commands: their checks, their ends, the stream they leave (R296, R299, R308, R309). -/
namespace Sys2Proof.Machine

/-! ## What the end of a command changes -/

/-- `t` is `s` but for rings and the number of ended commands. -/
structure State.RingsOnly (s t : State) : Prop where
  rest : ∃ fns n, t = { s with fns := fns, ends := n }
  aer  : ∀ g, (t.fn g).aer = (s.fn g).aer

theorem State.RingsOnly.refl (s : State) : s.RingsOnly s := ⟨⟨s.fns, s.ends, rfl⟩, fun _ => rfl⟩

theorem State.RingsOnly.trans {s t u : State} (first : s.RingsOnly t) (next : t.RingsOnly u) : s.RingsOnly u where
  rest := by
    obtain ⟨_, _, rfl⟩ := first.rest
    obtain ⟨fns, n, rfl⟩ := next.rest
    exact ⟨fns, n, rfl⟩
  aer g := (next.aer g).trans (first.aer g)

theorem State.RingsOnly.rac {s t : State} (rings : s.RingsOnly t) (h i : Nat) : t.rac h i = s.rac h i := by
  obtain ⟨_, _, rfl⟩ := rings.rest
  rfl

theorem State.ringsOnly_setRunning (s : State) (f r : Nat) (k : Option Running) : s.RingsOnly (s.setRunning f r k) where
  rest := ⟨_, s.ends, rfl⟩
  aer g := by
    by_cases here : g = f
    · rw [here, State.setRunning, State.setSq, s.fn_setFn]
    · rw [State.setRunning, State.setSq, s.fn_setFn_ne f g _ here]

theorem State.ringsOnly_modRunning (s : State) (f r : Nat) (g : Running → Running) : s.RingsOnly (s.modRunning f r g) := by
  unfold State.modRunning
  split
  · exact s.ringsOnly_setRunning f r _
  · exact .refl s

theorem State.ringsOnly_finish (s : State) (f r : Nat) (st : Status) (res : Word32) : s.RingsOnly (s.finish f r st res) :=
  (show s.RingsOnly s.ended from ⟨⟨_, _, rfl⟩, fun _ => rfl⟩).trans (State.ringsOnly_modRunning _ f r _)

section
variable {f r : Nat} {c : Running} (none_ : c.desc.sideLen = 0)
include none_

/-- Lost side records change the command alone. -/
theorem State.ringsOnly_sides (recs : List (Nat × List Byte)) (fault : Option FaultRec) :
    ∀ {s : State} {c' : Running}, c'.desc = c.desc → s.running f r = some c' → s.RingsOnly (s.sides f r recs fault) := by
  have lost {s : State} {c' : Running} (same : c'.desc = c.desc) (runs : s.running f r = some c') (kind : Nat) (body : List Byte) :
      s.side f r kind body = s.setRunning f r (some { c' with sideOvf := true }) :=
    State.side_of_no_buffer runs kind body (by rw [same]; exact none_)
  induction recs with
  | nil =>
    intro s c' same runs
    cases fault with
    | none => exact .refl s
    | some x =>
      rw [show s.sides f r [] (some x) = s.setRunning f r (some { c' with sideOvf := true }) from lost same runs 0x03 x.body]
      exact s.ringsOnly_setRunning f r _
  | cons x recs ih =>
    intro s c' same runs
    rw [show s.sides f r (x :: recs) fault = (s.setRunning f r (some { c' with sideOvf := true })).sides f r recs fault from
      congrArg (fun t : State => t.sides f r recs fault) (lost same runs x.1 x.2)]
    exact (s.ringsOnly_setRunning f r _).trans (ih (c' := { c' with sideOvf := true }) same (s.running_setRunning f r _))

/-- A Race command without a side buffer that ends. -/
theorem State.raceOver_fields {s : State} (runs : s.running f r = some c) (waits : c.wait = .none) (going : c.done = none) (st : Status)
    (fl : Flags) (rep : RaceReport) (hist : Option Hist) (fault : Option FaultRec) :
    let u := s.raceOver f r st fl rep hist fault
    s.RingsOnly u ∧ u.mem = s.mem ∧ u.hostMem = s.hostMem ∧ u.running f r = some { c with
      flags := c.flags.or fl, done := some (c.statusOf st, BitVec.ofNat 32 rep.bytes), sideOvf := true, doneAt := s.ends } := by
  have flagged : s.addFlags f r fl = s.setRunning f r (some { c with flags := c.flags.or fl }) := State.modRunning_of_running _ runs _
  obtain ⟨mem, host, running⟩ := State.finishWith_flagged runs waits going none_ fl st (BitVec.ofNat 32 rep.bytes)
    ((0x05, rep.body) :: (match hist with | some h => if st.noHist then [] else [(0x01, h.bytes)] | none => [])) fault
  refine ⟨?_, mem, host, running.trans (congrArg some ?_)⟩
  · unfold State.raceOver State.finishWith
    rw [flagged]
    exact ((s.ringsOnly_setRunning f r _).trans (State.ringsOnly_sides (c := c) none_ _ fault (c' := { c with flags := c.flags.or fl }) rfl
      (s.running_setRunning f r _))).trans (State.ringsOnly_finish _ f r _ _)
  · rw [List.isEmpty_cons, Bool.not_false, Bool.true_or, Bool.or_true]

end

/-! ## Closing (R299) -/

/-- The stream of a Race command after it: closed if CLOSE is set. -/
def State.afterRace (s : State) (d : Desc) : State := if d.closeBit then s.closeRace d.raceHouse d.raceStream else s

theorem State.rac_setRac (s : State) (h i : Nat) (x : RaceStream) : (s.setRac h i x).rac h i = x := by simp [State.setRac, State.rac]

/-- The media carve-out released. -/
theorem State.releaseMedia_fields (s : State) (h n : Nat) : let u := s.releaseMedia h n
    u.mem = s.mem ∧ u.hostMem = s.hostMem ∧ (∀ f r, u.running f r = s.running f r) ∧ u.race = s.race ∧ u.hopper = s.hopper ∧ u.ends = s.ends := by
  unfold State.releaseMedia
  split
  · exact ⟨rfl, rfl, fun _ _ => rfl, rfl, rfl, rfl⟩
  · have marked := State.marksOnly_evalWeir (s.setHouse h { s.house h with mediaUsed := (s.house h).mediaUsed - n }) (.media (houseIx h))
    have same := marked.sameContents
    obtain ⟨_, _, _, _, rest⟩ := marked.rest
    exact ⟨same.mem, same.hostMem, same.running, by rw [rest]; rfl, by rw [rest]; rfl, same.ends⟩

theorem State.rac_closeRace (s : State) (h i : Nat) : ((s.closeRace h i).rac h i).opened = false := by
  obtain ⟨-, -, -, race, -⟩ := (s.setRac h i { s.rac h i with opened := false, claim := 0, bufs := [] }).releaseMedia_fields h (s.rac h i).claim
  rw [State.closeRace, State.rac, race]
  exact congrArg RaceStream.opened (s.rac_setRac h i _)

theorem State.closeRace_fields (s : State) (h i : Nat) : let u := s.closeRace h i
    u.mem = s.mem ∧ u.hostMem = s.hostMem ∧ ∀ f r, u.running f r = s.running f r := by
  obtain ⟨mem, host, running, -⟩ := (s.setRac h i { s.rac h i with opened := false, claim := 0, bufs := [] }).releaseMedia_fields h (s.rac h i).claim
  exact ⟨mem, host, running⟩

theorem State.afterRace_fields (s : State) (d : Desc) : let u := s.afterRace d
    u.mem = s.mem ∧ u.hostMem = s.hostMem ∧ ∀ f r, u.running f r = s.running f r := by
  unfold State.afterRace
  split
  · exact s.closeRace_fields _ _
  · exact ⟨rfl, rfl, fun _ _ => rfl⟩

/-- A stream is closed after the command, or as the command leaves it. -/
theorem State.afterRace_stream {s : State} {d : Desc} {p : RaceStream → Prop} (known : p (s.rac d.raceHouse d.raceStream)) :
    if d.closeBit = true then ((s.afterRace d).rac d.raceHouse d.raceStream).opened = false else p ((s.afterRace d).rac d.raceHouse d.raceStream) := by
  unfold State.afterRace
  by_cases shut : d.closeBit = true
  · rw [if_pos shut, if_pos shut]
    exact s.rac_closeRace _ _
  · rw [if_neg shut, if_neg shut]
    exact known

/-! ## Checks (R296) -/

section
variable {s : State} {f : Nat} {d : Desc} {enc : Bool}

theorem State.enterRace_foreign (foreign : ¬(s.owns (s.partOf f) d.raceHouse = true ∧
      ((s.rac d.raceHouse d.raceStream).opened = true → (s.rac d.raceHouse d.raceStream).owner = some f))) :
    s.enterRace f d enc = (.error { status := .access }, s) := by
  unfold State.enterRace
  refine if_pos ?_
  cases owned : s.owns (s.partOf f) d.raceHouse with
  | false => rfl
  | true =>
    have other : ¬((s.rac d.raceHouse d.raceStream).opened = true → (s.rac d.raceHouse d.raceStream).owner = some f) := fun mine => foreign ⟨owned, mine⟩
    obtain ⟨opened, owner⟩ := Classical.not_imp.mp other
    rw [opened, bne_iff_ne.mpr owner]
    rfl

variable (mine : s.owns (s.partOf f) d.raceHouse = true ∧
  ((s.rac d.raceHouse d.raceStream).opened = true → (s.rac d.raceHouse d.raceStream).owner = some f))
include mine

theorem State.race_mine : (!s.owns (s.partOf f) d.raceHouse || ((s.rac d.raceHouse d.raceStream).opened &&
    (s.rac d.raceHouse d.raceStream).owner != some f)) = false := by
  obtain ⟨owned, owner⟩ := mine
  rw [owned]
  cases opened : (s.rac d.raceHouse d.raceStream).opened with
  | false => rfl
  | true =>
    rw [owner opened, bne_self_eq_false]
    rfl

theorem State.enterRace_start (start : (s.rac d.raceHouse d.raceStream).opened = d.startBit) :
    s.enterRace f d enc = (.error { status := .state }, s) := by
  unfold State.enterRace
  rewrite [if_neg (by rw [State.race_mine mine]; exact Bool.false_ne_true)]
  exact if_pos (beq_iff_eq.mpr start)

variable (opened : (s.rac d.raceHouse d.raceStream).opened = true) (goes_on : d.startBit = false)
include opened goes_on

theorem State.enterRace_opened : s.enterRace f d enc = if (s.rac d.raceHouse d.raceStream).spec.encode != enc then (.error { status := .state }, s) else (.ok s, s) := by
  unfold State.enterRace
  rewrite [if_neg (by rw [State.race_mine mine]; exact Bool.false_ne_true), if_neg (by rw [opened, goes_on]; decide), goes_on]
  rfl

end

/-- The opening of a stream leaves the command. -/
theorem State.running_openRace (s : State) (h i f : Nat) (x : RaceSpec) (g q : Nat) : (s.openRace h i f x).running g q = s.running g q := by
  unfold State.openRace State.claimMedia
  split
  · rfl
  · exact (State.marksOnly_evalWeir _ _).running g q

/-- The checks leave every command. -/
theorem State.running_enterRace {s : State} {f : Nat} {d : Desc} {enc : Bool} {x : Except Stop State} {t' : State} (enters : s.enterRace f d enc = (x, t'))
    (g q : Nat) : t'.running g q = s.running g q ∧ ∀ t, x = .ok t → t.running g q = s.running g q := by
  have read := Run.ByMemory.exec (readSV_byMemory (kept := true) (raceAcc f d.raceHouse) (d.addr 0x10) 64) s
  have runs := read.running g q
  unfold State.enterRace at enters
  extract_lets h i y no z t at enters
  have stands : z.2.s.running g q = s.running g q := runs
  have same : t.running g q = s.running g q := runs
  clear_value z t
  split at enters
  · cases enters
    exact ⟨rfl, fun _ bad => nomatch bad⟩
  split at enters
  · cases enters
    exact ⟨rfl, fun _ bad => nomatch bad⟩
  split at enters
  · split at enters
    · cases enters
      exact ⟨rfl, fun _ bad => nomatch bad⟩
    · cases enters
      exact ⟨rfl, fun _ good => by cases good; rfl⟩
  split at enters
  · cases enters
    exact ⟨stands, fun _ bad => nomatch bad⟩
  split at enters
  · cases enters
    exact ⟨same, fun _ bad => nomatch bad⟩
  split at enters
  · cases enters
    exact ⟨same, fun _ bad => nomatch bad⟩
  split at enters
  · cases enters
    exact ⟨same, fun _ bad => nomatch bad⟩
  split at enters
  · cases enters
    exact ⟨same, fun _ bad => nomatch bad⟩
  · cases enters
    exact ⟨same, fun _ good => by cases good; exact (State.running_openRace _ h i f _ g q).trans same⟩

end Sys2Proof.Machine
end

section
/-! PROOFS. What RACE_DECODE and RACE_ENCODE leave, by the outcome of their reads and writes (R308, R309, R311, R312). -/
namespace Sys2Proof.Machine

section
variable {s : State} {f r : Nat} {c : Running}

/-- A Race command that ends, and its stream. -/
theorem State.raceOver_after (none_ : c.desc.sideLen = 0) (runs : s.running f r = some c) (waits : c.wait = .none) (going : c.done = none) (st : Status)
    (fl : Flags) (rep : RaceReport) (hist : Option Hist) (fault : Option FaultRec) {p : RaceStream → Prop}
    (known : p (s.rac c.desc.raceHouse c.desc.raceStream)) :
    let u := (s.raceOver f r st fl rep hist fault).afterRace c.desc
    (if c.desc.closeBit = true then (u.rac c.desc.raceHouse c.desc.raceStream).opened = false else p (u.rac c.desc.raceHouse c.desc.raceStream)) ∧
      u.mem = s.mem ∧ u.hostMem = s.hostMem ∧ u.running f r = some { c with
        flags := c.flags.or fl, done := some (c.statusOf st, BitVec.ofNat 32 rep.bytes), sideOvf := true, doneAt := s.ends } := by
  obtain ⟨rings, mem, host, running⟩ := State.raceOver_fields none_ runs waits going st fl rep hist fault
  obtain ⟨mem', host', running'⟩ := (s.raceOver f r st fl rep hist fault).afterRace_fields c.desc
  exact ⟨State.afterRace_stream (by rw [rings.rac]; exact known), mem'.trans mem, host'.trans host, (running' f r).trans running⟩

/-- A Race command that its checks turn away. -/
theorem State.raceCmd_away {enc : Bool} {k : State → State} {x : Stop} {t : State} (enters : s.enterRace f c.desc enc = (.error x, t))
    (runs : s.running f r = some c) (opcode : opcodeOf c.desc.opcode = some .raceDecode ∨ opcodeOf c.desc.opcode = some .raceEncode)
    (quiet : x.report = none) (sound : x.status ≠ .deviceError) :
    ∃ res, s.raceCmd f r c enc k = ({ t with freeCount := t.freeCount + 1 } : State).turnedAway f r c x.status res := by
  have free : t.failResult c.desc = t.freeWord := by
    unfold State.failResult
    rcases opcode with decode | encode
    · rw [decode]
    · rw [encode]
  have known := ((State.running_enterRace enters f r).1).trans runs
  refine ⟨_, Eq.trans ?_ (State.fail_of_freeWord known free x.status)⟩
  unfold State.raceCmd
  extract_lets d y
  rewrite [show y = (.error x, t) from enters]
  dsimp only
  rw [quiet, if_neg (by simpa using sound)]

/-- A Race command that passes them. -/
theorem State.raceCmd_enters {enc : Bool} {k : State → State} {t t' : State} (enters : s.enterRace f c.desc enc = (.ok t, t')) :
    s.raceCmd f r c enc k = (k t).afterRace c.desc := by
  unfold State.raceCmd
  extract_lets d y
  rewrite [show y = (.ok t, t') from enters]
  rfl

theorem UnitResult.report_bytes (v : UnitResult) (serial : Nat) : (v.report serial).bytes = v.unit.bytes := by
  unfold UnitResult.report
  extract_lets rep
  cases v.picture <;> rfl

/-! ## The engines' memory work -/

theorem raceBufs_byMemory {kept : Bool} (h : Nat) : Run.ByMemory kept (raceBufs h) :=
  Run.byMemory_bind (meetBuf_byMemory 2 h) fun _ => meetBuf_byMemory 4 h

theorem raceRead_byMemory {kept : Bool} (h : Nat) (a : Acc) (va n : Nat) : Run.ByMemory kept (do raceBufs h; readV a va n : Run (List Byte)) :=
  Run.byMemory_bind (raceBufs_byMemory h) fun _ => readV_byMemory a va n

theorem RaceSpec.source_byMemory {kept : Bool} (x : RaceSpec) (a : Acc) (pic : Nat) : Run.ByMemory kept (x.source a pic) := by
  have plane (pl : Nat × Nat × Nat × Nat) : Run.ByMemory kept (readPlane a x.fmt pl) :=
    Run.byMemory_mapM (fun y => Run.byMemory_bind (readV_byMemory a _ _) fun _ => Run.byMemory_pure _) _
  refine Run.byMemory_bind (Run.byMemory_mapM plane _) fun planes => ?_
  exact Run.byMemory_ite (fun e => .refl e.s) (fun e => .refl e.s)

theorem UnitResult.write_byMemory (v : UnitResult) (a : Acc) (n : Nat) (fr : Config.Frame) (pic : Nat) : Run.ByMemory false (v.write a n fr pic) := by
  refine Run.byMemory_foldlM (fun h pl => Run.byMemory_foldlM (fun h y => ?_) _ _) _ _
  exact Run.byMemory_bind (Run.byMemory_modify fun e => .refl e.s) fun _ => Run.byMemory_bind (writeV_local_byMemory _ _ _) fun _ =>
    Run.byMemory_pure _

/-! ## RACE_DECODE -/

/-- What memory destroyed on the way makes of a status. -/
def lostStatus (e : Eng) : Status := if e.device then .deviceError else .ok

/-- Status of a decoded unit by its errors and references (R308). -/
def UnitResult.status (v : UnitResult) : Status := if v.errors ≠ 0 then .dataError else if v.missing ≠ 0 then .refMissing else .ok

section
variable {t t' : State} (enters : s.enterRace f c.desc false = (.ok t, t')) {bs : List Byte} {e : Eng}
  (reads : (do raceBufs c.desc.raceHouse; readV (raceAcc f c.desc.raceHouse) (c.desc.addr 0x20) (c.desc.field 0x28 31 0) : Run (List Byte)).exec t = (.ok bs, e))
include enters reads

/-- The unit that a RACE_DECODE has read. -/
theorem State.raceDecode_read : let x := e.s.rac c.desc.raceHouse c.desc.raceStream
    let v := x.decode bs (e.s.decodable c.desc.raceHouse x)
    s.raceDecode f r c = (if !v.ok then
        (e.s.setRac c.desc.raceHouse c.desc.raceStream { x with serial := x.serial + 1 }).raceOver f r (worse (lostStatus e) .dataError) {} (v.report x.serial) none none
      else
        let s := e.s.setRac c.desc.raceHouse c.desc.raceStream { v.stream.count v with serial := x.serial + 1 }
        let base := worse v.status (lostStatus e)
        match v.picture with
        | none => s.raceOver f r base {} (v.report x.serial) none none
        | some (n, fr) =>
          if !fr.shown then s.raceOver f r base {} (v.report x.serial) none none
          else
            let z := (v.write (raceAcc f c.desc.raceHouse) n fr (c.desc.addr 0x18)).exec s
            match z.1 with
            | .error e => z.2.s.raceOver f r (worse (e.met z.2).status base) z.2.flags (v.report x.serial) none e.report
            | .ok hist => z.2.s.raceOver f r (worse z.2.status base) z.2.flags { v.report x.serial with written := true } (some hist) none).afterRace c.desc := by
  refine (State.raceCmd_enters enters).trans ?_
  dsimp only
  rewrite [reads]
  rfl

variable (runs : s.running f r = some c)
include runs

theorem State.running_raceRead : e.s.running f r = some c := by
  have work := Run.ByMemory.exec (raceRead_byMemory (kept := false) c.desc.raceHouse (raceAcc f c.desc.raceHouse) (c.desc.addr 0x20) (c.desc.field 0x28 31 0)) t
  rw [reads] at work
  exact (work.running f r).trans (((State.running_enterRace enters f r).2 t rfl).trans runs)

variable (none_ : c.desc.sideLen = 0) (waits : c.wait = .none) (going : c.done = none)
include none_ waits going

/-- A unit that is not sound (R308). -/
theorem State.raceDecode_unsound : let x := e.s.rac c.desc.raceHouse c.desc.raceStream
    let v := x.decode bs (e.s.decodable c.desc.raceHouse x)
    v.ok = false → ∃ u : State, s.raceDecode f r c = u ∧
      (if c.desc.closeBit = true then (u.rac c.desc.raceHouse c.desc.raceStream).opened = false
        else u.rac c.desc.raceHouse c.desc.raceStream = { x with serial := x.serial + 1 }) ∧ u.mem = e.s.mem ∧ u.hostMem = e.s.hostMem ∧
      u.running f r = some { c with
        done := some (c.statusOf (worse (lostStatus e) .dataError), BitVec.ofNat 32 v.unit.bytes), sideOvf := true, doneAt := e.s.ends } := by
  intro x v bad
  obtain ⟨stream, mem, host, running⟩ := State.raceOver_after none_
    (s := e.s.setRac c.desc.raceHouse c.desc.raceStream { x with serial := x.serial + 1 }) (State.running_raceRead enters reads runs) waits going
    (worse (lostStatus e) .dataError) {} (v.report x.serial) none none (p := fun y => y = { x with serial := x.serial + 1 }) (e.s.rac_setRac _ _ _)
  refine ⟨_, (State.raceDecode_read enters reads).trans (congrArg (fun u : State => u.afterRace c.desc) (if_pos ?_)), stream, mem, host, ?_⟩
  · rw [bad]
    rfl
  · rw [running, UnitResult.report_bytes, Flags.or_none]
    rfl

/-- A sound unit whose picture is not shown. -/
theorem State.raceDecode_hidden : let x := e.s.rac c.desc.raceHouse c.desc.raceStream
    let v := x.decode bs (e.s.decodable c.desc.raceHouse x)
    v.ok = true → (∀ n fr, v.picture = some (n, fr) → fr.shown = false) → ∃ u : State, s.raceDecode f r c = u ∧
      (if c.desc.closeBit = true then (u.rac c.desc.raceHouse c.desc.raceStream).opened = false
        else u.rac c.desc.raceHouse c.desc.raceStream = { v.stream.count v with serial := x.serial + 1 }) ∧ u.mem = e.s.mem ∧ u.hostMem = e.s.hostMem ∧
      u.running f r = some { c with
        done := some (c.statusOf (worse v.status (lostStatus e)), BitVec.ofNat 32 v.unit.bytes), sideOvf := true, doneAt := e.s.ends } := by
  intro x v good hidden
  obtain ⟨stream, mem, host, running⟩ := State.raceOver_after none_
    (s := e.s.setRac c.desc.raceHouse c.desc.raceStream { v.stream.count v with serial := x.serial + 1 }) (State.running_raceRead enters reads runs) waits going
    (worse v.status (lostStatus e)) {} (v.report x.serial) none none (p := fun y => y = { v.stream.count v with serial := x.serial + 1 }) (e.s.rac_setRac _ _ _)
  refine ⟨_, (State.raceDecode_read enters reads).trans (congrArg (fun u : State => u.afterRace c.desc) ?_), stream, mem, host, ?_⟩
  · refine (if_neg (by rw [good]; exact Bool.false_ne_true)).trans ?_
    dsimp only
    split
    · rfl
    next n fr shown =>
      rw [hidden n fr shown]
      rfl
  · rw [running, UnitResult.report_bytes, Flags.or_none]
    rfl

/-- A sound unit whose picture is shown and written. -/
theorem State.raceDecode_shown : let x := e.s.rac c.desc.raceHouse c.desc.raceStream
    let v := x.decode bs (e.s.decodable c.desc.raceHouse x)
    ∀ n fr hist e', v.ok = true → v.picture = some (n, fr) → fr.shown = true →
      (v.write (raceAcc f c.desc.raceHouse) n fr (c.desc.addr 0x18)).exec
        (e.s.setRac c.desc.raceHouse c.desc.raceStream { v.stream.count v with serial := x.serial + 1 }) = (.ok hist, e') →
      ∃ u : State, s.raceDecode f r c = u ∧
      (if c.desc.closeBit = true then (u.rac c.desc.raceHouse c.desc.raceStream).opened = false
        else u.rac c.desc.raceHouse c.desc.raceStream = { v.stream.count v with serial := x.serial + 1 }) ∧ u.mem = e'.s.mem ∧ u.hostMem = e'.s.hostMem ∧
      u.running f r = some { c with flags := c.flags.or e'.flags
                                    done := some (c.statusOf (worse e'.status (worse v.status (lostStatus e))), BitVec.ofNat 32 v.unit.bytes)
                                    sideOvf := true, doneAt := e'.s.ends } := by
  intro x v n fr hist e' good picture shown writes
  have work := Run.ByMemory.exec (UnitResult.write_byMemory v (raceAcc f c.desc.raceHouse) n fr (c.desc.addr 0x18))
    (e.s.setRac c.desc.raceHouse c.desc.raceStream { v.stream.count v with serial := x.serial + 1 })
  rw [writes] at work
  have stays : e'.s.rac c.desc.raceHouse c.desc.raceStream = { v.stream.count v with serial := x.serial + 1 } := by
    rw [State.rac, show e'.s.race = _ from (congrArg State.race work.rest :)]
    exact e.s.rac_setRac _ _ _
  obtain ⟨stream, mem, host, running⟩ := State.raceOver_after none_ (s := e'.s) ((work.running f r).trans (State.running_raceRead enters reads runs)) waits going
    (worse e'.status (worse v.status (lostStatus e))) e'.flags { v.report x.serial with written := true } (some hist) none
    (p := fun y => y = { v.stream.count v with serial := x.serial + 1 }) stays
  refine ⟨_, (State.raceDecode_read enters reads).trans (congrArg (fun u : State => u.afterRace c.desc) ?_), stream, mem, host, ?_⟩
  · refine (if_neg (by rw [good]; exact Bool.false_ne_true)).trans ?_
    dsimp only
    rewrite [show (RaceStream.decode (e.s.rac c.desc.raceHouse c.desc.raceStream) bs (e.s.decodable c.desc.raceHouse (e.s.rac c.desc.raceHouse c.desc.raceStream))).picture
      = some (n, fr) from picture]
    dsimp only
    rewrite [shown, if_neg (by decide)]
    rewrite [writes]
    rfl
  · rw [running, UnitResult.report_bytes]

end

/-! ## RACE_ENCODE -/

/-- What an encoder tries for a picture (R311). -/
def State.raceTries (s : State) (x : RaceStream) (planes : List (List (List Nat))) : List Byte × Nat × Nat × Bool :=
  attempts (x.code (Config.encRev s.fw.version) planes (planes.flatMap (fun pl => pl.flatMap (fun row => row.flatMap (fun v => natLe 2 v)))))
    (decide (x.spec.capBits ≠ 0)) x.budget x.spec.quantisers 0

section
variable {t t' : State} (enters : s.enterRace f c.desc true = (.ok t, t')) {planes : List (List (List Nat))} {e : Eng}
  (reads : (do raceBufs c.desc.raceHouse; (t.rac c.desc.raceHouse c.desc.raceStream).spec.source (raceAcc f c.desc.raceHouse) (c.desc.addr 0x18) :
    Run (List (List (List Nat)))).exec t = (.ok planes, e))
include enters reads

/-- An encoded picture that fits its buffer. -/
theorem State.raceEncode_fits : let x := t.rac c.desc.raceHouse c.desc.raceStream
    let out := (e.s.raceTries x planes).1
    ∀ m e', out.length ≤ c.desc.field 0x28 31 0 →
      (writePieces (raceAcc f c.desc.raceHouse) out (pieces (c.desc.addr 0x20) out.length) 0).exec e.s = (.ok (m, none), e') →
      ∃ next rep, next.serial = x.serial + 1 ∧ next.cPictures = sat32 x.cPictures 1 ∧ rep.bytes = out.length ∧
        s.raceEncode f r c = ((e'.s.setRac c.desc.raceHouse c.desc.raceStream next).raceOver f r e.status e.flags rep none none).afterRace c.desc := by
  intro x out m e' fits writes
  rcases known : e.s.raceTries x planes with ⟨unit_, q, n, miss⟩
  have first : out = unit_ := congrArg Prod.fst known
  rw [first] at fits writes ⊢
  rewrite [show s.raceEncode f r c = _ from State.raceCmd_enters enters]
  dsimp only
  rewrite [reads]
  dsimp only
  rewrite [show attempts _ _ _ _ 0 = (unit_, q, n, miss) from known]
  dsimp only
  rewrite [if_neg (Nat.not_lt.mpr fits), writes]
  refine ⟨_, _, ?_, ?_, ?_, rfl⟩
  all_goals rfl

/-- An encoded picture that does not fit. -/
theorem State.raceEncode_long : let x := t.rac c.desc.raceHouse c.desc.raceStream
    let out := (e.s.raceTries x planes).1
    ∀ e', c.desc.field 0x28 31 0 < out.length →
      (writeV (raceAcc f c.desc.raceHouse) (c.desc.addr 0x20) (e.s.freeBytes (c.desc.field 0x28 31 0)).1).exec (e.s.freeBytes (c.desc.field 0x28 31 0)).2 = (.ok (), e') →
      ∃ rep, s.raceEncode f r c = (e'.s.freeWord.2.tick.raceOver f r (worse e.status .range) e.flags rep none none).afterRace c.desc := by
  intro x out e' long writes
  rcases known : e.s.raceTries x planes with ⟨unit_, q, n, miss⟩
  have first : out = unit_ := congrArg Prod.fst known
  rw [first] at long
  rewrite [show s.raceEncode f r c = _ from State.raceCmd_enters enters]
  dsimp only
  rewrite [reads]
  dsimp only
  rewrite [show attempts _ _ _ _ 0 = (unit_, q, n, miss) from known]
  dsimp only
  rewrite [if_pos long, writes]
  exact ⟨_, rfl⟩

variable (runs : s.running f r = some c)
include runs

theorem State.running_raceSource : e.s.running f r = some c ∧ e.s.rac c.desc.raceHouse c.desc.raceStream = t.rac c.desc.raceHouse c.desc.raceStream := by
  have work := Run.ByMemory.exec (Run.byMemory_bind (raceBufs_byMemory (kept := false) c.desc.raceHouse) fun _ =>
    RaceSpec.source_byMemory (t.rac c.desc.raceHouse c.desc.raceStream).spec (raceAcc f c.desc.raceHouse) (c.desc.addr 0x18)) t
  rw [reads] at work
  exact ⟨(work.running f r).trans (((State.running_enterRace enters f r).2 t rfl).trans runs),
    by rw [State.rac, State.rac, show e.s.race = _ from (congrArg State.race work.rest :)]; rfl⟩

end

end

end Sys2Proof.Machine
end

section
/-! PROOFS. Race pictures and units in device memory (R300 to R302, R312). -/
namespace Sys2Proof.Machine

/-! ## Writes to several places -/

/-- `t` is `s` but for runs of device bytes, which hold what was written there. -/
structure State.Landed (s t : State) (l : List (Nat × List Byte)) : Prop where
  bytes  : ∀ x ∈ l, t.mem.readN x.1 x.2.length = x.2
  others : ∀ b, (∀ x ∈ l, b < x.1 ∨ x.1 + x.2.length ≤ b) → t.mem.read b = s.mem.read b
  host   : t.hostMem = s.hostMem
  ecc    : t.ecc = []
  engine : State.ByMemory false s t

theorem State.Landed.start {s : State} (clean : s.ecc = []) : s.Landed s [] :=
  ⟨fun _ mem => absurd mem List.not_mem_nil, fun _ _ => rfl, rfl, clean, .refl s⟩

section
variable {s t : State} {l : List (Nat × List Byte)} (landed : s.Landed t l)
include landed

theorem State.Landed.next {u : State} {pa : Nat} {bs : List Byte} (apart : ∀ x ∈ l, x.1 + x.2.length ≤ pa ∨ pa + bs.length ≤ x.1)
    (stored : t.Stored u pa bs) : s.Landed u (l ++ [(pa, bs)]) where
  bytes x mem := by
    rcases List.mem_append.mp mem with early | here
    · refine Eq.trans ?_ (landed.bytes x early)
      have away := apart x early
      rw [Memory.readN_eq, Memory.readN_eq]
      refine List.map_congr_left fun o low => stored.others _ ?_
      have inside := List.mem_range.mp low
      omega
    · obtain rfl := List.mem_singleton.mp here
      exact stored.bytes
  others b out := by
    rw [stored.others b (out _ (List.mem_append_right _ (.head _))), landed.others b fun x mem => out x (List.mem_append_left _ mem)]
  host := stored.host.trans landed.host
  ecc := stored.ecc
  engine := landed.engine.trans stored.engine

theorem State.Landed.apartFrom (clean : s.ecc = []) {runs : List (Nat × Nat)} (inside : ∀ x ∈ l, (x.1, x.2.length) ∈ runs) : State.ApartFrom runs s t where
  walks := landed.engine.sameWalks
  outside b out := landed.others b fun x mem => out _ (inside x mem)
  before := clean
  clean := landed.ecc

end

/-- A loop whose every step succeeds keeps what its steps keep of the elements done. -/
theorem Run.foldlM_prefix {α β : Type} {f : β → α → Run β} (P : List α → Eng → Prop) (l : List α) : ∀ (done : List α) (x : β) (e : Eng),
    (∀ early a late, done ++ l = early ++ a :: late → ∀ x e, P early e → ∃ x' e', (f x a).run.run e = (.ok x', e') ∧ P (early ++ [a]) e') →
    P done e → ∃ x' e', (l.foldlM f x).run.run e = (.ok x', e') ∧ P (done ++ l) e' := by
  induction l with
  | nil => exact fun done x e _ known => ⟨x, e, rfl, by rw [List.append_nil]; exact known⟩
  | cons a l ih =>
    intro done x e step known
    obtain ⟨y, t, run, after⟩ := step done a l rfl x e known
    have order : done ++ a :: l = (done ++ [a]) ++ l := by rw [List.append_assoc]; rfl
    rw [order] at step ⊢
    obtain ⟨z, u, rest, ends⟩ := ih (done ++ [a]) y t step after
    exact ⟨z, u, by rw [List.foldlM_cons, Run.bind_of_ok run, rest], ends⟩

/-! ## A decoded picture -/

namespace UnitResult

/-- A row of a decoded picture in its format. -/
def row (v : UnitResult) (n : Nat) (fr : Config.Frame) (plane y cols : Nat) : List Byte :=
  (List.range cols).flatMap fun z => natLe (elemBytes v.stream.spec.fmt)
    (pureFlags (encodeElem v.stream.spec.fmt (sampleValue v.stream.spec.fmt fr.depth (v.sample n fr plane y z)))).1

/-- Write a row. -/
def writeRow (v : UnitResult) (a : Acc) (n : Nat) (fr : Config.Frame) (pl : Nat × Nat × Nat × Nat × Nat) (h : Hist) (y : Nat) : Run Hist := do
  let fmt := v.stream.spec.fmt
  let vs := (List.range pl.2.2.1).map (fun z => sampleValue fmt fr.depth (v.sample n fr pl.1 y z))
  let r := pureFlags (vs.mapM (fun v => encodeElem fmt v))
  modify (fun e => { e with flags := e.flags.or r.2 })
  writeV a (pl.2.2.2.1 + y * pl.2.2.2.2) (r.1.flatMap (fun c => natLe (elemBytes fmt) c))
  let h := vs.foldl (fun h v => h.add v false (fwCode fmt)) h
  return { h with flags := h.flags.or r.2 }

theorem write_eq (v : UnitResult) (a : Acc) (n : Nat) (fr : Config.Frame) (pic : Nat) : v.write a n fr pic =
    (numbered (v.stream.spec.planes fr.chroma fr.width fr.height pic false)).foldlM
      (fun h pl => (List.range pl.2.1).foldlM (v.writeRow a n fr pl) h) { format := v.stream.spec.fmt } := rfl

theorem length_row (v : UnitResult) (n : Nat) (fr : Config.Frame) (plane y cols : Nat) : (v.row n fr plane y cols).length = elemBytes v.stream.spec.fmt * cols := by
  rw [row, List.length_flatMap, List.map_congr_left (g := fun _ => elemBytes v.stream.spec.fmt) fun z _ => length_natLe _ _, List.map_const', List.length_range,
    List.sum_replicate, smul_eq_mul, Nat.mul_comm]

theorem writeRow_of_apart {v : UnitResult} {a : Acc} {n : Nat} {fr : Config.Frame} {pl : Nat × Nat × Nat × Nat × Nat} {y pa : Nat} {runs : List (Nat × Nat)}
    {e : Eng} (clean : e.s.ecc = []) (dest : e.s.ReachesApart runs a true (pl.2.2.2.1 + y * pl.2.2.2.2) (elemBytes v.stream.spec.fmt * pl.2.2.1) pa)
    (inside : (pa, elemBytes v.stream.spec.fmt * pl.2.2.1) ∈ runs) (h : Hist) :
    ∃ h' t w fl, (v.writeRow a n fr pl h y).run.run e = (.ok h', { e with s := t, wrote := w, flags := fl }) ∧
      e.s.Stored t pa (v.row n fr pl.1 y pl.2.2.1) := by
  let vs := (List.range pl.2.2.1).map (fun z => sampleValue v.stream.spec.fmt fr.depth (v.sample n fr pl.1 y z))
  let fl := (pureFlags (vs.mapM fun v' => encodeElem v.stream.spec.fmt v')).2
  have codes : ((pureFlags (vs.mapM fun v' => encodeElem v.stream.spec.fmt v')).1.flatMap fun c => natLe (elemBytes v.stream.spec.fmt) c) = v.row n fr pl.1 y pl.2.2.1 := by
    rw [pureFlags, FM.value_mapM fun x => encodeElem_steady _ x, List.map_map, row, List.flatMap_map]
    rfl
  have size := v.length_row n fr pl.1 y pl.2.2.1
  obtain ⟨t, w, run, stored⟩ := writeV_of_apart (e := { e with flags := e.flags.or fl }) (bs := v.row n fr pl.1 y pl.2.2.1) clean (by rw [size]; exact dest)
    ⟨_, inside, Nat.le_refl _, by rw [size]⟩
  let h' := vs.foldl (fun h v' => h.add v' false (fwCode v.stream.spec.fmt)) h
  refine ⟨{ h' with flags := h'.flags.or fl }, t, w, e.flags.or fl, ?_, stored⟩
  have counted : (modify (fun e => { e with flags := e.flags.or fl }) : Run Unit).run.run e = (.ok (), { e with flags := e.flags.or fl }) := rfl
  unfold writeRow
  dsimp only
  rw [Run.bind_of_ok counted, show ((pureFlags (((List.range pl.2.2.1).map fun z => sampleValue v.stream.spec.fmt fr.depth (v.sample n fr pl.1 y z)).mapM
    fun v' => encodeElem v.stream.spec.fmt v')).1.flatMap fun c => natLe (elemBytes v.stream.spec.fmt) c) = v.row n fr pl.1 y pl.2.2.1 from codes, Run.bind_of_ok run]
  rfl

section
variable {v : UnitResult} {a : Acc} {n : Nat} {fr : Config.Frame} {planes : List (Nat × Nat × Nat × Nat × Nat)} {pd : Nat → Nat → Nat} {e : Eng}

/-- The rows of a plane, each with its place. -/
def planeRows (v : UnitResult) (n : Nat) (fr : Config.Frame) (pd : Nat → Nat → Nat) (pl : Nat × Nat × Nat × Nat × Nat) : List (Nat × List Byte) :=
  (List.range pl.2.1).map fun y => (pd pl.1 y, v.row n fr pl.1 y pl.2.2.1)

/-- Where the rows of a picture lie. -/
def runs (v : UnitResult) (planes : List (Nat × Nat × Nat × Nat × Nat)) (pd : Nat → Nat → Nat) : List (Nat × Nat) :=
  planes.flatMap fun p => (List.range p.2.1).map fun y => (pd p.1 y, elemBytes v.stream.spec.fmt * p.2.2.1)

theorem runs_eq : (planes.flatMap (v.planeRows n fr pd)).map (fun x => (x.1, x.2.length)) = v.runs planes pd := by
  rw [List.map_flatMap, runs]
  refine List.flatMap_congr fun p _ => ?_
  rw [planeRows, List.map_map]
  refine List.map_congr_left fun y _ => ?_
  exact Prod.ext rfl (v.length_row n fr p.1 y p.2.2.1)

variable (clean : e.s.ecc = [])
  (dest : ∀ p ∈ planes, ∀ y < p.2.1, e.s.ReachesApart (v.runs planes pd) a true (p.2.2.2.1 + y * p.2.2.2.2) (elemBytes v.stream.spec.fmt * p.2.2.1) (pd p.1 y))
  (apart : (v.runs planes pd).Pairwise fun j k => j.1 + j.2 ≤ k.1 ∨ k.1 + k.2 ≤ j.1)
include clean dest apart

/-- The engine once some rows of a picture stand in their places. -/
def Painted (e : Eng) (done : List (Nat × List Byte)) (e' : Eng) : Prop :=
  ∃ t w fl, e' = { e with s := t, wrote := w, flags := fl } ∧ e.s.Landed t done

/-- One plane of a picture, after those before it. -/
theorem writePlane_of_apart {early late : List (Nat × Nat × Nat × Nat × Nat)} {pl : Nat × Nat × Nat × Nat × Nat} (order : planes = early ++ pl :: late)
    (h : Hist) {e' : Eng} (known : Painted e (early.flatMap (v.planeRows n fr pd)) e') :
    ∃ h' e'', ((List.range pl.2.1).foldlM (v.writeRow a n fr pl) h).run.run e' = (.ok h', e'') ∧
      Painted e ((early ++ [pl]).flatMap (v.planeRows n fr pd)) e'' := by
  have here : pl ∈ planes := by rw [order]; exact List.mem_append_right _ (.head _)
  have distinct : (planes.flatMap (v.planeRows n fr pd)).Pairwise fun j k => j.1 + j.2.length ≤ k.1 ∨ k.1 + k.2.length ≤ j.1 := by
    rw [← runs_eq (n := n) (fr := fr), List.pairwise_map] at apart
    exact apart
  rw [order, List.flatMap_append, List.flatMap_cons, ← List.append_assoc] at distinct
  have first := (List.pairwise_append.mp distinct).1
  let place (y : Nat) : Nat × List Byte := (pd pl.1 y, v.row n fr pl.1 y pl.2.2.1)
  have step (ys : List Nat) (y : Nat) (rest : List Nat) (order' : [] ++ List.range pl.2.1 = ys ++ y :: rest) (h : Hist) (e' : Eng)
      (known : Painted e (early.flatMap (v.planeRows n fr pd) ++ ys.map place) e') :
      ∃ h' e'', (v.writeRow a n fr pl h y).run.run e' = (.ok h', e'') ∧
        Painted e (early.flatMap (v.planeRows n fr pd) ++ (ys ++ [y]).map place) e'' := by
    rw [List.nil_append] at order'
    obtain ⟨t, w, fl, rfl, landed⟩ := known
    have split : v.planeRows n fr pd pl = ys.map place ++ place y :: rest.map place := by rw [planeRows, order', List.map_append, List.map_cons]
    have low : y < pl.2.1 := List.mem_range.mp (by rw [order']; exact List.mem_append_right _ (.head _))
    rw [split, ← List.append_assoc] at first
    have listed (x : Nat × List Byte) (mem : x ∈ early.flatMap (v.planeRows n fr pd) ++ ys.map place) : (x.1, x.2.length) ∈ v.runs planes pd := by
      rw [← runs_eq (n := n) (fr := fr), order, List.flatMap_append, List.flatMap_cons, split, List.append_assoc, ← List.append_assoc]
      exact List.mem_map_of_mem (List.mem_append_left _ mem)
    have inside : (pd pl.1 y, elemBytes v.stream.spec.fmt * pl.2.2.1) ∈ v.runs planes pd :=
      List.mem_flatMap.mpr ⟨pl, here, List.mem_map.mpr ⟨y, List.mem_range.mpr low, rfl⟩⟩
    obtain ⟨h', t', w', fl', run, stored⟩ := writeRow_of_apart (v := v) (n := n) (fr := fr) (pl := pl) (y := y) (e := { e with s := t, wrote := w, flags := fl })
      landed.ecc ((dest pl here y low).of_apart (landed.apartFrom clean listed)) inside h
    refine ⟨h', _, run, t', w', fl', rfl, ?_⟩
    rw [List.map_append, ← List.append_assoc]
    exact landed.next (fun x mem => (List.pairwise_append.mp first).2.2 x mem _ (.head _)) stored
  obtain ⟨h', e'', run, after⟩ := Run.foldlM_prefix (fun ys e' => Painted e (early.flatMap (v.planeRows n fr pd) ++ ys.map place) e') (List.range pl.2.1) [] h e'
    step (by rw [List.map_nil, List.append_nil]; exact known)
  refine ⟨h', e'', run, ?_⟩
  rw [List.flatMap_append, List.flatMap_singleton]
  exact after

/-- A picture whose planes lie in device memory, apart from each other, is written there. -/
theorem write_of_apart (h : Hist) : ∃ h' t w fl,
    (planes.foldlM (fun h pl => (List.range pl.2.1).foldlM (v.writeRow a n fr pl) h) h).run.run e = (.ok h', { e with s := t, wrote := w, flags := fl }) ∧
      e.s.Landed t (planes.flatMap (v.planeRows n fr pd)) := by
  obtain ⟨h', e', run, t, w, fl, rfl, landed⟩ := Run.foldlM_prefix (fun done e' => Painted e (done.flatMap (v.planeRows n fr pd)) e') planes [] h e
    (fun early pl late order h e' known => writePlane_of_apart clean dest apart order h known) ⟨e.s, e.wrote, e.flags, rfl, .start clean⟩
  exact ⟨h', t, w, fl, run, landed⟩

end

end UnitResult

/-! ## Engines in a module without stored errors -/

theorem raceBufs_of_clean (h : Nat) {e : Eng} (clean : e.s.ecc = []) : (raceBufs h).run.run e = (.ok (), e) := by
  rw [raceBufs, Run.bind_of_ok (meetBuf_of_clean 2 h e clean)]
  exact meetBuf_of_clean 4 h e clean

/-! ## A source picture (R302) -/

/-- A plane of codes in device memory. -/
theorem readPlane_of_reaches {s : State} {e : Eng} {a : Acc} {fmt : BitVec 8} {pl : Nat × Nat × Nat × Nat} {pa : Nat → Nat} (clean : e.s.ecc = []) (here : e.s = s)
    (reach : ∀ y < pl.1, e.s.Reaches a false (pl.2.2.1 + y * pl.2.2.2) (elemBytes fmt * pl.2.1) (pa y)) :
    (readPlane a fmt pl).run.run e = (.ok ((List.range pl.1).map fun y => (List.range pl.2.1).map fun z =>
      leNat (s.mem.readN (pa y + elemBytes fmt * z) (elemBytes fmt))), e) := by
  refine Run.mapM_of_ok _ fun y mem => ?_
  rw [Run.bind_of_ok (readV_of_reaches clean (reach y (List.mem_range.mp mem)) rfl)]
  refine congrArg (fun l => (Except.ok l, e)) (List.map_congr_left fun z low => ?_)
  have inside : elemBytes fmt * z + elemBytes fmt ≤ elemBytes fmt * pl.2.1 := by
    rw [← Nat.mul_succ]
    exact Nat.mul_le_mul_left _ (List.mem_range.mp low)
  rw [Memory.take_drop_readN _ _ inside, here]

/-! ## A coded unit (R312) -/

theorem writePieces_snoc {a : Acc} {bs : List Byte} {x : Nat × Nat × Nat} {m : Nat} {e1 e2 : Eng}
    (last : (writeV a x.1 ((bs.drop x.2.1).take x.2.2)).run.run e1 = (.ok (), e2)) (l : List (Nat × Nat × Nat)) : ∀ (n : Nat) (e : Eng),
    (writePieces a bs l n).run.run e = (.ok (m, none), e1) → (writePieces a bs (l ++ [x]) n).run.run e = (.ok (m + x.2.2, none), e2) := by
  have one (y : Nat × Nat × Nat) {e e' : Eng} (run : (writeV a y.1 ((bs.drop y.2.1).take y.2.2)).run.run e = (.ok (), e')) :
      (tryCatch (do writeV a y.1 ((bs.drop y.2.1).take y.2.2); return none) (fun e => return some e) : Run (Option Stop)).run.run e = (.ok none, e') :=
    Run.tryCatch_of_ok (by rw [Run.bind_of_ok run]; rfl) _
  induction l with
  | nil =>
    intro n e run
    cases run
    rw [List.nil_append, writePieces, Run.bind_of_ok (one x last)]
    rfl
  | cons y l ih =>
    intro n e run
    rw [List.cons_append]
    rw [writePieces] at run ⊢
    cases known : (writeV a y.1 ((bs.drop y.2.1).take y.2.2)).run.run e with
    | mk out e' =>
      cases out with
      | ok u =>
        rw [Run.bind_of_ok (one y known)] at run ⊢
        exact ih _ _ run
      | error stop =>
        have caught : (tryCatch (do writeV a y.1 ((bs.drop y.2.1).take y.2.2); return none) (fun e => return some e) : Run (Option Stop)).run.run e = (.ok (some stop), e') := by
          simp only [tryCatch, tryCatchThe, MonadExceptOf.tryCatch, ExceptT.tryCatch, ExceptT.run_mk]
          rw [StateT.run_bind, show StateT.run (do writeV a y.1 ((bs.drop y.2.1).take y.2.2); return none : Run (Option Stop)) e = (.error stop, e') from
            Run.bind_of_error known _]
          rfl
        rw [Run.bind_of_ok caught] at run
        cases run

/-- A unit whose place lies in device memory is stored there. -/
theorem writePieces_of_apart {e : Eng} {a : Acc} {va pb : Nat} {bs : List Byte} (clean : e.s.ecc = [])
    (dest : e.s.ReachesApart [(pb, bs.length)] a true va bs.length pb) : ∃ t w,
    (writePieces a bs (pieces va bs.length) 0).run.run e = (.ok (bs.length, none), { e with s := t, wrote := w }) ∧ e.s.Stored t pb bs := by
  have prefixes := pieces_prefixes (P := fun l o => o ≤ bs.length → ∃ t w,
    (writePieces a bs l 0).run.run e = (.ok (o, none), { e with s := t, wrote := w }) ∧ e.s.Stored t pb (bs.take o)) va bs.length
    (fun _ => ⟨e.s, e.wrote, rfl, .nil clean pb⟩) ?next
  case next =>
    intro l o m known some_ low _
    obtain ⟨t, w, run, stored⟩ := known (by omega)
    have done : (bs.take o).length = o := by rw [List.length_take]; omega
    have size : ((bs.drop o).take m).length = m := by rw [List.length_take, List.length_drop]; omega
    have place := ((dest.of_apart (stored.apartFrom clean ⟨_, .head _, Nat.le_refl _, by rw [done]; dsimp only; omega⟩)).sub low).wrap
    obtain ⟨t', w', last, stored'⟩ := writeV_of_apart (e := { e with s := t, wrote := w }) (bs := (bs.drop o).take m) stored.ecc
      (by rw [size]; exact place) ⟨_, .head _, Nat.le_add_right _ _, by rw [size]; dsimp only; omega⟩
    refine ⟨t', w', writePieces_snoc (x := ((va + o) % 2 ^ 48, o, m)) last l 0 e run, ?_⟩
    have whole : bs.take (o + m) = bs.take o ++ (bs.drop o).take m := List.take_add
    rw [whole]
    exact stored.append (by rw [done]; exact stored')
  obtain ⟨t, w, run, stored⟩ := prefixes (Nat.le_refl _)
  rw [List.take_length] at stored
  exact ⟨t, w, run, stored⟩

end Sys2Proof.Machine
end

section
/-! PROOFS. RACE_DECODE and RACE_ENCODE (R296, R300 to R302, R308, R309, R311, R312). -/
namespace Sys2Proof.Machine

section
variable {s : State} {f : FnId} {r : RingIx} {c : Running}

/-- A stream that the function has opened, used by a command that neither opens nor closes it, in a module without stored errors. -/
structure State.RaceOpen (s : State) (f : Nat) (d : Desc) (x : RaceStream) : Prop where
  owned  : s.owns (s.partOf f) d.raceHouse = true
  opened : x.opened = true
  owner  : x.owner = some f
  start  : d.startBit = false
  close  : d.closeBit = false
  side   : d.sideLen = 0
  clean  : s.ecc = []

theorem State.RaceOpen.enters {enc : Bool} (opened : s.RaceOpen f c.desc (s.rac c.desc.raceHouse c.desc.raceStream))
    (direction : (s.rac c.desc.raceHouse c.desc.raceStream).spec.encode = enc) : s.enterRace f c.desc enc = (.ok s, s) :=
  (State.enterRace_opened ⟨opened.owned, fun _ => opened.owner⟩ opened.opened opened.start).trans (if_neg (by rw [direction, bne_self_eq_false]; exact Bool.false_ne_true))

theorem exec_raceDecode (fresh : s.fresh f r .raceDecode = some c) : exec (.raceDecode f r) s = .next (s.raceDecode f r c).settle :=
  congrArg (fun u : State => Host.Outcome.next u.settle) (s.runCmd_of_fresh f r .raceDecode _ c fresh)

theorem exec_raceEncode (fresh : s.fresh f r .raceEncode = some c) : exec (.raceEncode f r) s = .next (s.raceEncode f r c).settle :=
  congrArg (fun u : State => Host.Outcome.next u.settle) (s.runCmd_of_fresh f r .raceEncode _ c fresh)

/-! ## A host read that times out (R337) -/

section
variable {enc : Bool} (runs : s.running f r = some c) (waits : c.wait = .none) (going : c.done = none)
  (opcode : enc = false ∧ opcodeOf c.desc.opcode = some .raceDecode ∨ enc = true ∧ opcodeOf c.desc.opcode = some .raceEncode)
  {va : BitVec 48} {ha : Nat} (leads : s.leads (raceAcc f c.desc.raceHouse) false va.toNat = some (.host ha))
include runs waits going opcode leads

theorem State.readTimedOut_race : s.readTimedOut f r va = (s.setAer f aerTimeout).raceCmd f r c enc fun t =>
    t.raceStop f r { serial := (t.rac c.desc.raceHouse c.desc.raceStream).serial }
      { status := .dataError, report := some ((raceAcc f c.desc.raceHouse).fault 6 va.toNat) } { s := t } := by
  have reader : s.hostReader f r c va.toNat = some (raceAcc f c.desc.raceHouse) := by
    unfold State.hostReader
    extract_lets d word shape data
    rcases opcode with ⟨-, decode⟩ | ⟨-, encode⟩
    · rw [decode, waits]
    · rw [encode, waits]
  rw [State.readTimedOut, runs]
  dsimp only
  rw [going, if_neg (by decide), reader]
  dsimp only
  rw [leads]
  dsimp only
  rw [State.readEnds, waits]
  dsimp only
  rcases opcode with ⟨rfl, decode⟩ | ⟨rfl, encode⟩
  · rw [decode]
  · rw [encode]

theorem exec_raceTimeout (opened : s.RaceOpen f c.desc (s.rac c.desc.raceHouse c.desc.raceStream))
    (direction : (s.rac c.desc.raceHouse c.desc.raceStream).spec.encode = enc) :
    ∃ u : State, exec (.completionTimeout f r va) s = .next u.settle ∧ u.rac c.desc.raceHouse c.desc.raceStream = s.rac c.desc.raceHouse c.desc.raceStream ∧
      (u.fn f).aer.getLsbD 14 = true ∧ u.mem = s.mem ∧ u.hostMem = s.hostMem ∧ u.running f r = some { c with
        done := some (c.statusOf .dataError, 0), sideOvf := true, doneAt := s.ends } := by
  have up := State.byMemory_setAer (kept := true) s f aerTimeout
  obtain ⟨mem', host'⟩ := up.memories rfl
  have enters : (s.setAer f aerTimeout).enterRace f c.desc enc = (.ok (s.setAer f aerTimeout), s.setAer f aerTimeout) :=
    State.RaceOpen.enters (s := s.setAer f aerTimeout) ⟨opened.owned, opened.opened, opened.owner, opened.start, opened.close, opened.side, opened.clean⟩ direction
  obtain ⟨rings, mem, host, running⟩ := State.raceOver_fields opened.side ((up.running f r).trans runs) waits going .dataError {}
    { serial := ((s.setAer f aerTimeout).rac c.desc.raceHouse c.desc.raceStream).serial } none (some ((raceAcc f c.desc.raceHouse).fault 6 va.toNat))
  refine ⟨_, congrArg (fun u : State => Host.Outcome.next u.settle) ((State.readTimedOut_race runs waits going opcode leads).trans
    ((State.raceCmd_enters enters).trans (if_neg (by rw [opened.close]; exact Bool.false_ne_true)))), (rings.rac _ _).trans rfl, ?_, mem.trans mem', host.trans host', running.trans ?_⟩
  · refine (congrArg (·.getLsbD 14) (rings.aer f)).trans ?_
    rw [State.setAer, s.fn_setFn]
    simp [aerTimeout]
  · rw [Flags.or_none, up.ends]
    rfl

end

/-! ## Operands in device memory -/

theorem lostStatus_kept (t : State) (st : Status) (fine : st = .dataError ∨ st = .refMissing ∨ st = .ok) : worse st (lostStatus { s := t }) = st := by
  rcases fine with rfl | rfl | rfl <;> rfl

theorem UnitResult.status_cases (v : UnitResult) : v.status = .dataError ∨ v.status = .refMissing ∨ v.status = .ok := by
  unfold UnitResult.status
  split
  · exact .inl rfl
  · split
    · exact .inr (.inl rfl)
    · exact .inr (.inr rfl)

section
variable (opened : s.RaceOpen f c.desc (s.rac c.desc.raceHouse c.desc.raceStream))
include opened

/-- A coded unit in device memory is read. -/
theorem raceRead_of_reaches {pl len : Nat} (reach : s.Reaches (raceAcc f c.desc.raceHouse) false (c.desc.addr 0x20) len pl) :
    (do raceBufs c.desc.raceHouse; readV (raceAcc f c.desc.raceHouse) (c.desc.addr 0x20) len : Run (List Byte)).exec s = (.ok (s.mem.readN pl len), { s := s }) := by
  refine Run.exec_of_run opened.clean (fl := {}) ?_
  rw [Run.bind_of_ok (raceBufs_of_clean _ (e := { s := s }) opened.clean)]
  exact readV_of_reaches opened.clean reach rfl

theorem State.RaceOpen.stream {u : State} {p : RaceStream → Prop} (known : if c.desc.closeBit = true then (u.rac c.desc.raceHouse c.desc.raceStream).opened = false
    else p (u.rac c.desc.raceHouse c.desc.raceStream)) : p (u.rac c.desc.raceHouse c.desc.raceStream) := by
  rwa [if_neg (by rw [opened.close]; exact Bool.false_ne_true)] at known

/-- A picture decoded in device memory is written to planes there. -/
theorem UnitResult.write_exec {v : UnitResult} {spec : RaceSpec} (same : v.stream.spec = spec) {n : Nat} {fr : Config.Frame} {pic : Nat}
    {pd : Nat → Nat → Nat} (y : RaceStream) :
    let planes := numbered (spec.planes fr.chroma fr.width fr.height pic false)
    let runs := planes.flatMap (fun p => (List.range p.2.1).map (fun z => (pd p.1 z, elemBytes spec.fmt * p.2.2.1)))
    (∀ p ∈ planes, ∀ z < p.2.1, s.ReachesApart runs (raceAcc f c.desc.raceHouse) true (p.2.2.2.1 + z * p.2.2.2.2) (elemBytes spec.fmt * p.2.2.1) (pd p.1 z)) →
    runs.Pairwise (fun j k => j.1 + j.2 ≤ k.1 ∨ k.1 + k.2 ≤ j.1) →
    ∃ hist t w fl, (v.write (raceAcc f c.desc.raceHouse) n fr pic).exec (s.setRac c.desc.raceHouse c.desc.raceStream y) =
        (.ok hist, { s := t, wrote := w, flags := fl }) ∧
      (∀ p ∈ planes, ∀ z < p.2.1, t.mem.readN (pd p.1 z) (elemBytes spec.fmt * p.2.2.1) = (List.range p.2.2.1).flatMap (fun k => natLe (elemBytes spec.fmt)
        (pureFlags (encodeElem spec.fmt (sampleValue spec.fmt fr.depth (v.sample n fr p.1 z k)))).1)) ∧
      (∀ b, (∀ k ∈ runs, b < k.1 ∨ k.1 + k.2 ≤ b) → t.mem.read b = s.mem.read b) ∧ t.hostMem = s.hostMem ∧ t.ends = s.ends := by
  subst same
  intro planes runs dest apart
  have places : s.SamePlaces (s.setRac c.desc.raceHouse c.desc.raceStream y) := ⟨rfl, rfl, rfl, rfl, rfl, rfl, rfl, rfl⟩
  obtain ⟨hist, t, w, fl, run, landed⟩ := UnitResult.write_of_apart (v := v) (n := n) (fr := fr) (e := { s := s.setRac c.desc.raceHouse c.desc.raceStream y })
    opened.clean (fun p mem z low => (dest p mem z low).of_samePlaces places opened.clean) apart { format := v.stream.spec.fmt }
  refine ⟨hist, t, w, fl, ?_, fun p mem z low => ?_, fun b out => landed.others b fun x mem => ?_, landed.host, landed.engine.ends⟩
  · rw [Run.exec, UnitResult.write_eq, run]
    exact congrArg (Prod.mk _) (Eng.clearWritten_of_clean (e := { s := t, wrote := w, flags := fl }) landed.ecc)
  · have bytes := landed.bytes _ (List.mem_flatMap.mpr ⟨p, mem, List.mem_map.mpr ⟨z, List.mem_range.mpr low, rfl⟩⟩)
    rwa [v.length_row] at bytes
  · refine out (x.1, x.2.length) ?_
    have listed : (x.1, x.2.length) ∈ v.runs planes pd := by
      rw [← UnitResult.runs_eq (n := n) (fr := fr)]
      exact List.mem_map_of_mem mem
    exact listed

omit opened in
theorem Run.mapM_numbered {α β : Type} {g : α → Run β} {y : Nat × α → β} {e : Eng} (l : List α) (each : ∀ p ∈ numbered l, (g p.2).run.run e = (.ok (y p), e)) :
    (l.mapM g).run.run e = (.ok ((numbered l).map y), e) := by
  have plain : (numbered l).map Prod.snd = l := List.map_snd_zip (by rw [List.length_range])
  have run := Run.mapM_of_ok (f := fun p : Nat × α => g p.2) (numbered l) each
  rw [← plain, List.mapM_map, plain]
  exact run

/-- A source picture in device memory is read. -/
theorem RaceSpec.source_exec {x : RaceSpec} {ps : Nat → Nat → Nat} {pic : Nat}
    (reach : ∀ p ∈ numbered (x.planes x.chroma x.width x.height pic x.inRgb), ∀ y < p.2.1,
      s.Reaches (raceAcc f c.desc.raceHouse) false (p.2.2.2.1 + y * p.2.2.2.2) (elemBytes x.fmt * p.2.2.1) (ps p.1 y)) :
    let codes : List (List (List Nat)) := (numbered (x.planes x.chroma x.width x.height pic x.inRgb)).map (fun p =>
      (List.range p.2.1).map (fun y => (List.range p.2.2.1).map (fun z => leNat (s.mem.readN (ps p.1 y + elemBytes x.fmt * z) (elemBytes x.fmt)))))
    let planes := pureFlags (if x.inRgb = true then rgbPicture x (if x.tenBit then 10 else 8) codes
      else codes.mapM (fun pl => pl.mapM (fun row => row.mapM (sourceSample x.fmt (if x.tenBit then 10 else 8)))))
    (do raceBufs c.desc.raceHouse; x.source (raceAcc f c.desc.raceHouse) pic : Run (List (List (List Nat)))).exec s = (.ok planes.1, { s := s, flags := planes.2 }) := by
  intro codes planes
  have reads := Run.mapM_numbered (x.planes x.chroma x.width x.height pic x.inRgb) (e := { s := s }) fun p mem =>
    readPlane_of_reaches (fmt := x.fmt) (a := raceAcc f c.desc.raceHouse) (pa := ps p.1) opened.clean (s := s) rfl fun y low => reach p mem y low
  have run : (do raceBufs c.desc.raceHouse; x.source (raceAcc f c.desc.raceHouse) pic : Run (List (List (List Nat)))).run.run { s := s } =
      (.ok planes.1, { s := s, flags := planes.2 }) := by
    rw [Run.bind_of_ok (raceBufs_of_clean _ (e := { s := s }) opened.clean), RaceSpec.source, Run.bind_of_ok reads]
    unfold planes
    split <;> rfl
  rw [Run.exec, run]
  exact congrArg (Prod.mk _) (Eng.clearWritten_of_clean (e := { s := s, flags := planes.2 }) opened.clean)

end

end

theorem RaceStream.decode_spec (x : RaceStream) (bs : List Byte) (fits : Nat → Nat → Bool) : (x.decode bs fits).stream.spec = x.spec := by
  unfold RaceStream.decode
  extract_lets codec u d y
  split <;> rfl

theorem writePieces_byMemory (a : Acc) (bs : List Byte) (l : List (Nat × Nat × Nat)) : ∀ n, Run.ByMemory false (writePieces a bs l n) := by
  induction l with
  | nil => exact fun n => Run.byMemory_pure _
  | cons x l ih =>
    intro n
    rw [writePieces]
    refine Run.byMemory_bind (Run.byMemory_tryCatch (Run.byMemory_bind (writeV_local_byMemory _ _ _) fun _ => Run.byMemory_pure _)
      fun _ => Run.byMemory_pure _) fun stop => ?_
    cases stop with
    | none => exact ih _
    | some e => exact Run.byMemory_pure _

/-! ## The statement -/

/-- Settles O52. -/
theorem raceCommandsComplete : Obligations.RaceCommandsComplete := by
  intro s f r c d h i a away opened stream
  refine ⟨fun j enc which => ?_, fun fresh => ⟨?_, ?_⟩, fun fresh => ⟨?_, ?_⟩⟩
  · have facts : s.running f r = some c ∧ c.wait = .none ∧ c.done = none ∧ (∃ k, exec j s = .next (s.raceCmd f r c enc k).settle) ∧
        (enc = false ∧ opcodeOf c.desc.opcode = some .raceDecode ∨ enc = true ∧ opcodeOf c.desc.opcode = some .raceEncode) := by
      rcases which with ⟨rfl, rfl, fresh⟩ | ⟨rfl, rfl, fresh⟩
      · obtain ⟨runs, waits, going, opcode, -⟩ := (s.fresh_iff f r .raceDecode c).mp fresh
        exact ⟨runs, waits, going, ⟨_, exec_raceDecode fresh⟩, .inl ⟨rfl, opcode⟩⟩
      · obtain ⟨runs, waits, going, opcode, -⟩ := (s.fresh_iff f r .raceEncode c).mp fresh
        exact ⟨runs, waits, going, ⟨_, exec_raceEncode fresh⟩, .inr ⟨rfl, opcode⟩⟩
    obtain ⟨runs, waits, going, ⟨k, goes⟩, opcode⟩ := facts
    have turned (x : Stop) (t : State) (enters : s.enterRace f d enc = (.error x, t)) (quiet : x.report = none) (sound : x.status ≠ .deviceError) : away t x.status j := by
      obtain ⟨res, same⟩ := State.raceCmd_away (k := k) enters runs (opcode.imp And.right And.right) quiet sound
      exact ⟨res, goes.trans (by rw [same])⟩
    intro x mine
    refine ⟨fun foreign => turned { status := .access } s (State.enterRace_foreign foreign) rfl (by decide), fun owned start => turned { status := .state } s (State.enterRace_start owned start) rfl (by decide),
      fun owned is start other => turned { status := .state } s ((State.enterRace_opened owned is start).trans (if_pos (bne_iff_ne.mpr other))) rfl (by decide),
      fun e t enters quiet sound => turned e t enters quiet sound, fun va ha is direction leads => ?_⟩
    obtain ⟨owned, isOpen, owner, start, close, side, clean⟩ := is
    exact exec_raceTimeout runs waits going opcode leads ⟨owned, isOpen, owner, start, close, side, clean⟩ direction
  · intro t t' bs e enters side reads x v lost base next
    obtain ⟨runs, waits, going, opcode, -⟩ := (s.fresh_iff f r .raceDecode c).mp fresh
    refine ⟨fun bad => ?_, fun good hidden => ?_, fun n fr hist e' good picture shown writes => ?_⟩
    · obtain ⟨u, is, left, mem, -, running⟩ := State.raceDecode_unsound enters reads runs side waits going bad
      exact ⟨u, by rw [exec_raceDecode fresh, is], left, mem, running⟩
    · obtain ⟨u, is, left, mem, -, running⟩ := State.raceDecode_hidden enters reads runs side waits going good hidden
      exact ⟨u, by rw [exec_raceDecode fresh, is], left, mem, running⟩
    · obtain ⟨u, is, -, mem, host, running⟩ := State.raceDecode_shown enters reads runs side waits going n fr hist e' good picture shown writes
      exact ⟨u, by rw [exec_raceDecode fresh, is], mem, host, running⟩
  · intro pl is direction reach x v base ends
    obtain ⟨runs, waits, going, opcode, -⟩ := (s.fresh_iff f r .raceDecode c).mp fresh
    obtain ⟨owned, isOpen, owner, start, close, side, clean⟩ := is
    have isOpen : s.RaceOpen f c.desc (s.rac c.desc.raceHouse c.desc.raceStream) := ⟨owned, isOpen, owner, start, close, side, clean⟩
    have enters := isOpen.enters direction
    have reads := raceRead_of_reaches isOpen reach
    have status : worse v.status (lostStatus { s := s }) = base := lostStatus_kept s _ v.status_cases
    refine ⟨fun bad => ?_, fun good hidden => ?_, ?_⟩
    · obtain ⟨u, here, left, mem, host, running⟩ := State.raceDecode_unsound enters reads runs side waits going bad
      exact ⟨u, by rw [exec_raceDecode fresh, here], isOpen.stream (p := fun y => y = _) left, mem, host, running.trans (by rw [Flags.or_none]; rfl)⟩
    · obtain ⟨u, here, left, mem, host, running⟩ := State.raceDecode_hidden enters reads runs side waits going good hidden
      refine ⟨u, by rw [exec_raceDecode fresh, here], isOpen.stream (p := fun y => y = _) left, mem, host, running.trans ?_⟩
      rewrite [Flags.or_none, ← status]
      rfl
    · intro n fr pd good picture shown w planes runs' dest apart
      obtain ⟨hist, t, w', fl, writes, bytes, others, host, count⟩ := UnitResult.write_exec isOpen (v := v) (x.decode_spec _ _) (n := n) (fr := fr) (pic := d.addr 0x18)
        { v.stream.count v with serial := x.serial + 1 } dest apart
      obtain ⟨u, here, left, mem, host', running⟩ := State.raceDecode_shown enters reads runs side waits going n fr hist _ good picture shown writes
      refine ⟨u, fl, by rw [exec_raceDecode fresh, here], isOpen.stream (p := fun y => y = _) left, fun p mem' y low => by rw [mem]; exact bytes p mem' y low,
        fun b out => by rw [mem]; exact others b out, host'.trans host, running.trans ?_⟩
      rewrite [← status, ← count]
      rfl
  · intro t t' planes e enters side reads x out
    obtain ⟨runs, waits, going, opcode, -⟩ := (s.fresh_iff f r .raceEncode c).mp fresh
    obtain ⟨known, same⟩ := State.running_raceSource enters reads runs
    refine ⟨fun m e' fits writes => ?_, fun e' long writes => ?_⟩
    · obtain ⟨next, rep, serial, pictures, size, here⟩ := State.raceEncode_fits (r := r) enters reads m e' fits writes
      have work := Run.ByMemory.exec (writePieces_byMemory a out (pieces (d.addr 0x20) out.length) 0) e.s
      rw [writes] at work
      obtain ⟨left, mem, host, running⟩ := State.raceOver_after side (s := e'.s.setRac h i next) ((work.running f r).trans known) waits going e.status e.flags rep none none
        (p := fun y => y.serial = x.serial + 1 ∧ y.cPictures = sat32 x.cPictures 1) (by rw [State.rac_setRac]; exact ⟨serial, pictures⟩)
      exact ⟨_, by rw [exec_raceEncode fresh, here], left, mem, host, running.trans (by rw [size]; rfl)⟩
    · obtain ⟨rep, here⟩ := State.raceEncode_long (r := r) enters reads e' long writes
      have work := Run.ByMemory.exec (writeV_local_byMemory a (d.addr 0x20) (e.s.freeBytes (d.field 0x28 31 0)).1) (e.s.freeBytes (d.field 0x28 31 0)).2
      rw [writes] at work
      obtain ⟨left, mem, host, running⟩ := State.raceOver_after side (s := e'.s.freeWord.2.tick) ((work.running f r).trans known) waits going
        (worse e.status .range) e.flags rep none none (p := fun y => y = e'.s.rac h i) rfl
      exact ⟨_, _, by rw [exec_raceEncode fresh, here], left, mem, running, rfl⟩
  · intro ps pb is direction x w depth rows reach codes planes out fits dest
    obtain ⟨runs, waits, going, opcode, -⟩ := (s.fresh_iff f r .raceEncode c).mp fresh
    obtain ⟨owned, isOpen, owner, start, close, side, clean⟩ := is
    have isOpen : s.RaceOpen f c.desc (s.rac c.desc.raceHouse c.desc.raceStream) := ⟨owned, isOpen, owner, start, close, side, clean⟩
    have enters := isOpen.enters direction
    have reads := RaceSpec.source_exec isOpen reach
    obtain ⟨t, w', run, stored⟩ := writePieces_of_apart (e := { s := s }) clean dest
    have writes : (writePieces a out (pieces (d.addr 0x20) out.length) 0).exec s = (.ok (out.length, none), { s := t, wrote := w' }) := by
      rw [Run.exec, run]
      exact congrArg (Prod.mk _) (Eng.clearWritten_of_clean (e := { s := t, wrote := w' }) stored.ecc)
    obtain ⟨next, rep, serial, pictures, size, here⟩ := State.raceEncode_fits (r := r) enters reads out.length _ fits writes
    obtain ⟨left, mem, host, running⟩ := State.raceOver_after side (s := t.setRac h i next) ((stored.engine.running f r).trans runs) waits going
      planes.2.status planes.2 rep none none (p := fun y => y = next) (State.rac_setRac _ _ _ _)
    have last := isOpen.stream (p := fun y => y = next) left
    refine ⟨_, by rw [exec_raceEncode fresh, here]; rfl, by rw [mem]; exact stored.bytes, fun b away_ => by rw [mem]; exact stored.others b away_,
      host.trans stored.host, by rw [last]; exact serial, by rw [last]; exact pictures, running.trans ?_⟩
    rw [size, ← stored.engine.ends]
    rfl

end Sys2Proof.Machine
end

section
/-! PROOFS. Hopper batches: the line of a stream, and how a batch ends (R272, R275, R288 to R290). -/
namespace Sys2Proof.Machine

/-! ## A command changed twice -/

theorem Table.put_put {α : Type} [DecidableEq α] (d : α) (t : Table α) (k : Nat) (v w : α) : Table.put d (Table.put d t k v) k w = Table.put d t k w := by
  have low (l : Table α) : (l.filter (fun c => k < c.1)).filter (fun c => c.1 < k) = [] := by
    rw [List.filter_filter, List.filter_eq_nil_iff]
    intro c _
    simp only [Bool.and_eq_true, decide_eq_true_eq]
    omega
  have high (l : Table α) : (l.filter (fun c => c.1 < k)).filter (fun c => k < c.1) = [] := by
    rw [List.filter_filter, List.filter_eq_nil_iff]
    intro c _
    simp only [Bool.and_eq_true, decide_eq_true_eq]
    omega
  have here (p : Nat × α → Bool) (no : p (k, v) = false) : (if v = d then [] else [(k, v)] : Table α).filter p = [] := by
    split
    · rfl
    · rw [List.filter_cons, no]
      rfl
  unfold Table.put
  rw [List.filter_append, List.filter_append, List.filter_append, List.filter_append, here _ (by simp), here _ (by simp), low, high, List.filter_filter, List.filter_filter]
  simp

theorem State.setFn_setFn (s : State) (f : Nat) (v w : Func) : (s.setFn f v).setFn f w = s.setFn f w :=
  congrArg (fun l => { s with fns := l }) (Table.put_put _ _ _ _ _)

theorem State.setSq_setSq (s : State) (f r : Nat) (v w : SubRing) : (s.setSq f r v).setSq f r w = s.setSq f r w := by
  unfold State.setSq
  rw [s.fn_setFn, State.setFn_setFn, Table.put_put]

theorem State.setRunning_setRunning (s : State) (f r : Nat) (k k' : Option Running) : (s.setRunning f r k).setRunning f r k' = s.setRunning f r k' := by
  unfold State.setRunning
  rw [s.sq_setSq, State.setSq_setSq]

theorem State.hop_setHop (s : State) (h i : Nat) (x : HopperStream) : (s.setHop h i x).hop h i = x := by simp [State.setHop, State.hop]

theorem State.RingsOnly.hop {s t : State} (rings : s.RingsOnly t) (h i : Nat) : t.hop h i = s.hop h i := by
  obtain ⟨_, _, rfl⟩ := rings.rest
  rfl

/-! ## The end of a batch -/

section
variable {s : State} {f r : Nat} {c : Running} (none_ : c.desc.sideLen = 0) (runs : s.running f r = some c) (going : c.done = none)
include none_ runs going

/-- A command without a side buffer that ends with records, whatever it waited for. -/
theorem State.finishWith_lost (st : Status) (res : Word32) (x : Nat × List Byte) (recs : List (Nat × List Byte)) (fault : Option FaultRec) :
    let u := s.finishWith f r st res (x :: recs) fault
    s.RingsOnly u ∧ u.mem = s.mem ∧ u.hostMem = s.hostMem ∧ u.running f r = some { c with
      done := some (c.statusOf st, res), wait := .none, doneAt := s.ends, sideOvf := true } := by
  obtain ⟨mem, host, ends, running⟩ := State.sides_of_no_buffer (c := c) (f := f) (r := r) none_ (x :: recs) fault rfl runs
  have rings := State.ringsOnly_sides (c := c) (f := f) (r := r) none_ (x :: recs) fault rfl runs
  dsimp only
  rw [State.finishWith]
  refine ⟨rings.trans (State.ringsOnly_finish _ f r st res), ?_⟩
  generalize s.sides f r (x :: recs) fault = t at mem host ends running
  rw [State.finish_of_running t f r _ _ _ running]
  refine ⟨mem, host, (State.running_setRunning _ f r _).trans (congrArg some ?_)⟩
  rw [List.isEmpty_cons, Bool.not_false, Bool.true_or, Bool.or_true]
  dsimp only
  rw [going, ends]
  rfl

end

/-- The stream of a batch after it: closed if CLOSE is set. -/
def State.closeAfter (s : State) (j : HopperJob) : State := if j.close then s.closeHopper j.house j.stream else s

theorem State.closeHopper_fields (s : State) (h i : Nat) : let u := s.closeHopper h i
    u.mem = s.mem ∧ u.hostMem = s.hostMem ∧ (∀ f r, u.running f r = s.running f r) ∧ u.ends = s.ends ∧
      u.hop h i = { s.hop h i with opened := false, claim := 0 } := by
  obtain ⟨mem, host, running, -, hopper, ends⟩ := (s.setHop h i { s.hop h i with opened := false, claim := 0 }).releaseMedia_fields h (s.hop h i).claim
  refine ⟨mem, host, running, ends, ?_⟩
  rw [State.closeHopper, State.hop, hopper]
  exact s.hop_setHop h i _

theorem State.closeAfter_fields (s : State) (j : HopperJob) : let u := s.closeAfter j
    u.mem = s.mem ∧ u.hostMem = s.hostMem ∧ (∀ f r, u.running f r = s.running f r) ∧ u.ends = s.ends ∧
      (u.hop j.house j.stream).serial = (s.hop j.house j.stream).serial ∧ (u.hop j.house j.stream).pos = (s.hop j.house j.stream).pos ∧
      (u.hop j.house j.stream).epoch = (s.hop j.house j.stream).epoch ∧
      (u.hop j.house j.stream).opened = ((s.hop j.house j.stream).opened && !j.close) := by
  unfold State.closeAfter
  cases shut : j.close with
  | true =>
    obtain ⟨mem, host, running, ends, hop⟩ := s.closeHopper_fields j.house j.stream
    refine ⟨mem, host, running, ends, ?_⟩
    dsimp only at hop ⊢
    rw [if_pos rfl, hop, Bool.not_true, Bool.and_false]
    exact ⟨rfl, rfl, rfl, rfl⟩
  | false => exact ⟨rfl, rfl, fun _ _ => rfl, rfl, rfl, rfl, rfl, (Bool.and_true _).symm⟩

section
variable {s : State} {f r : Nat} {c : Running} (none_ : c.desc.sideLen = 0) (runs : s.running f r = some c) (going : c.done = none) (j : HopperJob)
include none_ runs going

/-- A batch that an engine's stop ends (R272, R337). -/
theorem State.batchStop_fields (e : Stop) : let x := s.hop j.house j.stream
    let u := s.batchStop f r j e
    u.mem = s.mem ∧ (u.hop j.house j.stream).serial = x.serial ∧ (u.hop j.house j.stream).pos = x.pos ∧
      (u.hop j.house j.stream).opened = (x.opened && !j.close) ∧ u.running f r = some { c with
        wait := .none, flags := c.flags.or j.flags, sideOvf := true, doneAt := s.ends
        done := some (c.statusOf (if j.device = true then worse e.status .deviceError else e.status), x.serial) } := by
  have flagged : s.addFlags f r j.flags = s.setRunning f r (some { c with flags := c.flags.or j.flags }) := State.modRunning_of_running _ runs _
  let t := ((s.addFlags f r j.flags).freeVideo j)
  have frees : t.mem = s.mem ∧ t.ends = s.ends ∧ t.hopper = s.hopper ∧ t.running f r = some { c with flags := c.flags.or j.flags } := by
    unfold t State.freeVideo
    rw [flagged]
    split <;> exact ⟨rfl, rfl, rfl, s.running_setRunning f r _⟩
  obtain ⟨mem, ends, hopper, known⟩ := frees
  have hop : t.hop j.house j.stream = s.hop j.house j.stream := by rw [State.hop, hopper]; rfl
  obtain ⟨mem', -, running', ends', serial, pos, -, isOpen⟩ := t.closeAfter_fields j
  let e' : Stop := if j.device then { e with status := worse e.status .deviceError } else e
  have report : e'.status = if j.device = true then worse e.status .deviceError else e.status := by
    unfold e'
    split <;> rfl
  have stops : s.batchStop f r j e = (t.closeAfter j).finishWith f r e'.status (s.hop j.house j.stream).serial
      (j.records e'.status (j.report (s.hop j.house j.stream).serial (s.hop j.house j.stream).epoch (s.hop j.house j.stream).pos false)) e'.report := by
    have eq : s.batchStop f r j e = (t.closeAfter j).stopped f r e' (j.records e'.status (j.report (s.hop j.house j.stream).serial
      (s.hop j.house j.stream).epoch (s.hop j.house j.stream).pos false)) (some (s.hop j.house j.stream).serial) := rfl
    rw [eq, State.stopped, (running' f r).trans known]
  obtain ⟨rings, mem'', -, running⟩ := State.finishWith_lost (s := t.closeAfter j) (c := { c with flags := c.flags.or j.flags }) none_ ((running' f r).trans known) going
    e'.status (s.hop j.house j.stream).serial _ _ e'.report
  dsimp only
  rw [stops]
  refine ⟨mem''.trans (mem'.trans mem), ?_, ?_, ?_, running.trans ?_⟩
  · exact (congrArg HopperStream.serial (rings.hop _ _)).trans (serial.trans (by rw [hop]))
  · exact (congrArg HopperStream.pos (rings.hop _ _)).trans (pos.trans (by rw [hop]))
  · exact (congrArg HopperStream.opened (rings.hop _ _)).trans (isOpen.trans (by rw [hop]))
  · rw [report, ends', ends]
    rfl

/-- A batch whose slots are full (R288 to R290). -/
theorem State.batchOver_full (full : (s.hop j.house j.stream).spec.batch ≤ j.slot) : let x := s.hop j.house j.stream
    let ended := decide (x.spec.n ≤ j.pos)
    let u := s.batchOver f r j
    (u.hop j.house j.stream).serial = x.serial + 1 ∧ (u.hop j.house j.stream).opened = (x.opened && !j.close) ∧
      (u.hop j.house j.stream).epoch = (if (ended && x.spec.autoEpoch) = true then j.epoch + 1 else j.epoch) ∧
      (u.hop j.house j.stream).pos = (if (ended && x.spec.autoEpoch) = true then 0 else j.pos) ∧
      u.running f r = some { c with flags := c.flags.or j.flags, wait := .none, sideOvf := true, doneAt := s.ends
                                    done := some (c.statusOf (worse
        (worse (if j.device = true then .deviceError else .ok) (if x.spec.replaceLimit ≤ j.total then .dataError else .ok))
        (worse (if 0 < j.total then .replaced else .ok) (c.flags.or j.flags).status)), x.serial) } ∧ u.mem = s.mem ∧ u.hostMem = s.hostMem := by
  intro x ended u
  have flagged : s.addFlags f r j.flags = s.setRunning f r (some { c with flags := c.flags.or j.flags }) := State.modRunning_of_running _ runs _
  have none_left : ((upFrom j.slot (x.spec.batch - j.slot)).forM (fun k => x.spec.blank (hopperAcc f j.house) x.serial.toNat k)).exec s = (.ok (), { s := s }) := by
    rw [show x.spec.batch - j.slot = 0 from Nat.sub_eq_zero_of_le full]
    exact congrArg (Prod.mk _) (Eng.clearWritten_of_none (e := { s := s }) rfl)
  let next := if ended && x.spec.autoEpoch then (j.epoch + 1, 0) else (j.epoch, j.pos)
  let t := (s.addFlags f r j.flags).setHop j.house j.stream { x with epoch := next.1, pos := next.2, serial := x.serial + 1 }
  have known : t.running f r = some { c with flags := c.flags.or j.flags } := by
    unfold t
    rw [flagged]
    exact s.running_setRunning f r _
  let status := worse (worse (if j.device = true then .deviceError else .ok) (if x.spec.replaceLimit ≤ j.total then .dataError else .ok))
    (worse (if 0 < j.total then .replaced else .ok) (c.flags.or j.flags).status)
  have ending : u = (t.closeAfter j).finishWith f r status x.serial (j.records status (j.report x.serial next.1 next.2 ended)) := by
    unfold u State.batchOver
    dsimp only
    rewrite [none_left]
    dsimp only
    rewrite [show (s.addFlags f r j.flags).running f r = some { c with flags := c.flags.or j.flags } from known, Bool.or_false]
    rfl
  obtain ⟨mem, host, running, ends, serial, pos, epoch, isOpen⟩ := t.closeAfter_fields j
  obtain ⟨rings, mem', host', running'⟩ := State.finishWith_lost (s := t.closeAfter j) (c := { c with flags := c.flags.or j.flags }) none_ ((running f r).trans known) going
    status x.serial (0x04, j.report x.serial next.1 next.2 ended) (if status.noHist then [] else [(0x01, j.imgHist.bytes), (0x01, j.condHist.bytes)]) none
  have hop : t.hop j.house j.stream = { x with epoch := next.1, pos := next.2, serial := x.serial + 1 } := State.hop_setHop _ _ _ _
  have before : t.mem = s.mem ∧ t.hostMem = s.hostMem ∧ t.ends = s.ends := by
    unfold t
    rw [flagged]
    exact ⟨rfl, rfl, rfl⟩
  obtain ⟨mem0, host0, ends0⟩ := before
  have stream := rings.hop j.house j.stream
  rw [ending]
  refine ⟨(congrArg HopperStream.serial stream).trans (serial.trans (by rw [hop])), (congrArg HopperStream.opened stream).trans (isOpen.trans (by rw [hop])),
    (congrArg HopperStream.epoch stream).trans (epoch.trans ?_), (congrArg HopperStream.pos stream).trans (pos.trans ?_), running'.trans ?_,
    mem'.trans (mem.trans mem0), host'.trans (host.trans host0)⟩
  · rw [hop]
    unfold next
    split <;> rfl
  · rw [hop]
    unfold next
    split <;> rfl
  · rw [ends, ends0]
    rfl

end

end Sys2Proof.Machine
end

section
/-! PROOFS. HOPPER_BATCH, SAMPLE_DEADLINE, SAMPLE_BUFFERS_TAKEN (R272, R275, R282, R287 to R290, R316, R337). -/
namespace Sys2Proof.Machine

/-! ## The line of a stream (R275) -/

/-- Some command of the module runs a batch of the stream. -/
theorem State.hopperBusy_iff (s : State) (h i : Nat) : s.hopperBusy h i = true ↔
    ∃ g, ∃ q < 16, ∃ c j, s.running g q = some c ∧ c.wait = .hopper j ∧ j.house = h ∧ j.stream = i := by
  have ring (g q : Nat) : (match s.running g q with
      | some c => (match c.wait with | .hopper j => j.house == h && j.stream == i | _ => false)
      | none => false) = true ↔ ∃ c j, s.running g q = some c ∧ c.wait = .hopper j ∧ j.house = h ∧ j.stream = i := by
    cases s.running g q with
    | none => simp
    | some c => cases wait : c.wait <;> simp [wait]
  have listed {g q : Nat} {c : Running} (runs : s.running g q = some c) : ∃ v, (g, v) ∈ s.fns := by
    cases found : s.fns.find? (fun x => x.1 == g) with
    | some x =>
      have same : x.1 = g := beq_iff_eq.mp (List.find?_some (p := fun y : Nat × Func => y.1 == g) found)
      exact ⟨x.2, same ▸ List.mem_of_find?_eq_some found⟩
    | none =>
      have empty : s.fn g = {} := by rw [State.fn, Table.get, found]
      rw [State.running, State.sq, empty] at runs
      exact nomatch runs
  unfold State.hopperBusy
  simp only [List.any_eq_true, List.mem_range]
  constructor
  · rintro ⟨fn, -, q, low, known⟩
    exact ⟨fn.1, q, low, (ring fn.1 q).mp known⟩
  · rintro ⟨g, q, low, c, j, runs, rest⟩
    obtain ⟨v, mem⟩ := listed runs
    exact ⟨(g, v), mem, q, low, (ring g q).mpr ⟨c, j, runs, rest⟩⟩

theorem State.hopperBusy_of_running {s t : State} (same : ∀ g q, t.running g q = s.running g q) (h i : Nat) : t.hopperBusy h i = s.hopperBusy h i := by
  rw [Bool.eq_iff_iff, State.hopperBusy_iff, State.hopperBusy_iff]
  simp only [same]

section
variable {s : State} {f r : Nat} {c : Running} {h i : Nat}

theorem State.batchWaits_of_first (first : (s.hopperBusy h i = false ∧ (s.hopLine h i = [] ∨ (s.hopLine h i).head? = some (f, r, c.seq))) ∨ (s.hop h i).owner ≠ some f) :
    s.batchWaits f r c h i = false := by
  unfold State.batchWaits
  rcases first with ⟨idle, front⟩ | other
  · rw [idle, Bool.false_or]
    rcases front with empty | mine
    · rw [empty]
      exact Bool.and_false _
    · rw [mine, Option.any_some, bne_self_eq_false, Bool.and_false]
  · rw [beq_eq_false_iff_ne.mpr other, Bool.false_and]

theorem State.batchWaits_of_not_first (behind : ¬((s.hopperBusy h i = false ∧ (s.hopLine h i = [] ∨ (s.hopLine h i).head? = some (f, r, c.seq))) ∨
    (s.hop h i).owner ≠ some f)) : s.batchWaits f r c h i = true := by
  obtain ⟨waits, owner⟩ := not_or.mp behind
  unfold State.batchWaits
  rw [beq_iff_eq.mpr (Classical.not_not.mp owner), Bool.true_and]
  cases busy : s.hopperBusy h i with
  | true => rfl
  | false =>
    cases line : s.hopLine h i with
    | nil => exact absurd ⟨busy, .inl line⟩ waits
    | cons x l =>
      have other : x ≠ (f, r, c.seq) := fun same => waits ⟨busy, .inr (by rw [line, List.head?_cons, same])⟩
      rw [List.head?_cons, Option.any_some, bne_iff_ne.mpr other]
      rfl

/-- The state in which a batch has left its stream's line. -/
def State.leaveLine (s : State) (f r : Nat) (c : Running) : State :=
  s.setHop c.desc.hopHouse c.desc.hopStream { s.hop c.desc.hopHouse c.desc.hopStream with
    line := (s.hopLine c.desc.hopHouse c.desc.hopStream).filter (· != (f, r, c.seq)) }

theorem State.hopperCmd_first {k : State → HopperJob → State} (first : s.batchWaits f r c c.desc.hopHouse c.desc.hopStream = false) :
    s.hopperCmd f r c k =
      let x := (s.leaveLine f r c).enterHopper f c.desc
      match x.1 with
      | .error e => if e.report.isSome || e.status = .deviceError then x.2.failRead f r e else x.2.fail f r e.status
      | .ok (s, fl) =>
        let st := s.hop c.desc.hopHouse c.desc.hopStream
        if st.spec.n ≤ st.pos then
          if c.desc.closeBit then (s.closeHopper c.desc.hopHouse c.desc.hopStream).finish f r .ok st.serial else s.fail f r .state
        else
          let j := st.job c.desc.hopHouse c.desc.hopStream c.desc.closeBit fl
          k (s.putJob f r j) j :=
  if_neg (by rw [first]; exact Bool.false_ne_true)

theorem State.hopperCmd_behind {k : State → HopperJob → State} (behind : s.batchWaits f r c c.desc.hopHouse c.desc.hopStream = true) :
    s.hopperCmd f r c k = s.setHop c.desc.hopHouse c.desc.hopStream { s.hop c.desc.hopHouse c.desc.hopStream with
      line := if (f, r, c.seq) ∈ s.hopLine c.desc.hopHouse c.desc.hopStream then s.hopLine c.desc.hopHouse c.desc.hopStream
        else s.hopLine c.desc.hopHouse c.desc.hopStream ++ [(f, r, c.seq)] } := by
  refine (if_pos behind).trans ?_
  simp only [List.contains_iff_mem]

end

/-! ## Checks (R272) -/

section
variable {s : State} {f : Nat} {d : Desc}

theorem State.enterHopper_foreign (foreign : s.owns (s.partOf f) d.hopHouse = false ∨
      ((s.hop d.hopHouse d.hopStream).opened = true ∧ (s.hop d.hopHouse d.hopStream).owner ≠ some f)) :
    s.enterHopper f d = (.error { status := .access }, s) := by
  unfold State.enterHopper
  refine if_pos ?_
  rcases foreign with other | ⟨opened, owner⟩
  · rw [other]
    rfl
  · rw [opened, bne_iff_ne.mpr owner, Bool.true_and, Bool.or_true]

variable (owned : s.owns (s.partOf f) d.hopHouse = true) (owner : (s.hop d.hopHouse d.hopStream).opened = true → (s.hop d.hopHouse d.hopStream).owner = some f)
include owned owner

theorem State.hopper_mine : (!s.owns (s.partOf f) d.hopHouse || ((s.hop d.hopHouse d.hopStream).opened && (s.hop d.hopHouse d.hopStream).owner != some f)) = false := by
  rw [owned]
  cases opened : (s.hop d.hopHouse d.hopStream).opened with
  | false => rfl
  | true =>
    rw [owner opened, bne_self_eq_false]
    rfl

theorem State.enterHopper_start (start : (s.hop d.hopHouse d.hopStream).opened = d.startBit) : s.enterHopper f d = (.error { status := .state }, s) := by
  unfold State.enterHopper
  rewrite [if_neg (by rw [State.hopper_mine owned owner]; exact Bool.false_ne_true)]
  exact if_pos (beq_iff_eq.mpr start)

theorem State.enterHopper_opened (opened : (s.hop d.hopHouse d.hopStream).opened = true) (goes_on : d.startBit = false) : s.enterHopper f d = (.ok (s, {}), s) := by
  unfold State.enterHopper
  rewrite [if_neg (by rw [State.hopper_mine owned owner]; exact Bool.false_ne_true), if_neg (by rw [opened, goes_on]; decide), goes_on]
  rfl

end

section
variable {kept : Bool} (a : Acc)

theorem checkShards_byMemory (x : Ingest) (k : Nat) : ∀ i prev, Run.ByMemory kept (checkShards a x k i prev) := by
  induction k with
  | zero => exact fun i prev => Run.byMemory_pure _
  | succ k ih =>
    intro i prev
    rw [checkShards]
    refine Run.byMemory_bind (readSV_byMemory _ _ _) fun bs => ?_
    split
    · exact Run.byMemory_pure _
    · exact Run.byMemory_ite (ih _ _) (Run.byMemory_pure _)

theorem dictEntry_byMemory (dict i : Nat) : Run.ByMemory kept (dictEntry a dict i) :=
  Run.byMemory_bind (readSV_byMemory _ _ _) fun _ => Run.byMemory_pure _

theorem dictCount_byMemory (dict : Nat) : Run.ByMemory kept (dictCount a dict) :=
  Run.byMemory_bind (readSV_byMemory _ _ _) fun _ => Run.byMemory_pure _

theorem checkDict_byMemory (dict pool k : Nat) : ∀ i prev, Run.ByMemory kept (checkDict a dict pool k i prev) := by
  induction k with
  | zero => exact fun i prev => Run.byMemory_pure _
  | succ k ih =>
    intro i prev
    rw [checkDict]
    refine Run.byMemory_bind (dictEntry_byMemory a _ _) fun e => Run.byMemory_ite (Run.byMemory_pure _) ?_
    exact Run.byMemory_bind (readSV_byMemory _ _ _) fun bs => Run.byMemory_ite (ih _ _) (Run.byMemory_pure _)

theorem checkIngest_byMemory (x : Ingest) : Run.ByMemory kept (checkIngest a x) := by
  refine Run.byMemory_bind (checkShards_byMemory a x _ _ _) fun good => Run.byMemory_ite (Run.byMemory_pure _) ?_
  refine Run.byMemory_bind (dictCount_byMemory a _) fun n => ?_
  cases n with
  | none => exact Run.byMemory_pure _
  | some n => exact checkDict_byMemory a _ _ _ _ _

end

theorem State.running_claimMedia (s : State) (h n g q : Nat) : (s.claimMedia h n).running g q = s.running g q := by
  unfold State.claimMedia
  split
  · rfl
  · exact (State.marksOnly_evalWeir _ _).running g q

/-- The checks leave every command. -/
theorem State.running_enterHopper {s : State} {f : Nat} {d : Desc} {x : Except Stop (State × Flags)} {t' : State} (enters : s.enterHopper f d = (x, t'))
    (g q : Nat) : t'.running g q = s.running g q ∧ ∀ y fl, x = .ok (y, fl) → y.running g q = s.running g q := by
  unfold State.enterHopper at enters
  extract_lets h i y no a z t at enters
  have read : Run.ByMemory (α := Ingest × Bool) true (do
      let bs ← readSV a (d.addr 0x10) 256
      match ingestOf bs with
      | none => halt .malformed
      | some x =>
        if !x.ok then halt .malformed
        let good ← checkIngest a x
        if !good then halt .malformed
        return (x, ingestSmall bs)) := by
    refine Run.byMemory_bind (readSV_byMemory _ _ _) fun bs => ?_
    split
    · exact Run.byMemory_halt _
    · refine Run.byMemory_check _ (Run.byMemory_bind (checkIngest_byMemory a _) fun good => Run.byMemory_check _ (Run.byMemory_pure _))
  have same : z.2.s.running g q = s.running g q := (Run.ByMemory.exec read s).running g q
  have stands : t.running g q = s.running g q := same
  clear_value t z
  split at enters
  · cases enters
    exact ⟨rfl, fun _ _ bad => nomatch bad⟩
  split at enters
  · cases enters
    exact ⟨rfl, fun _ _ bad => nomatch bad⟩
  split at enters
  · cases enters
    exact ⟨rfl, fun _ _ good => by cases good; rfl⟩
  split at enters
  · cases enters
    exact ⟨same, fun _ _ bad => nomatch bad⟩
  · split at enters
    · cases enters
      exact ⟨stands, fun _ _ bad => nomatch bad⟩
    · cases enters
      refine ⟨stands, fun _ _ good => ?_⟩
      cases good
      exact (State.running_claimMedia _ _ _ g q).trans stands

/-! ## What a batch does first -/

section
variable {s : State} {f r : Nat} {c : Running} (runs : s.running f r = some c)
include runs

theorem State.putJob_eq (j : HopperJob) : s.putJob f r j = s.setRunning f r (some { c with wait := .hopper j }) := State.modRunning_of_running _ runs _

/-- With a deadline, the next sample is issued (R287). -/
theorem State.batchRun_issue {j : HopperJob} {fuel : Nat} (some_ : 0 < fuel) (slots : j.slot < (s.hop j.house j.stream).spec.batch) (left : j.pos < (s.hop j.house j.stream).spec.n)
    (skips : j.total < (s.hop j.house j.stream).spec.replaceLimit) (clock : (s.hop j.house j.stream).spec.deadline ≠ 0) (idle : j.phase = .idle) :
    State.batchRun f r fuel s j = s.setRunning f r (some { c with wait := .hopper { j with phase := .issued } }) := by
  obtain ⟨n, rfl⟩ := Nat.exists_eq_succ_of_ne_zero some_.ne'
  rw [State.batchRun]
  dsimp only
  rw [if_neg (by simp only [Bool.or_eq_true, decide_eq_true_eq]; omega), if_pos (by simp [clock, idle])]
  exact State.putJob_eq runs _

end

theorem batchFuel_pos : 0 < batchFuel := by
  unfold batchFuel
  omega

theorem Ingest.replaceLimit_pos (x : Ingest) : 0 < x.replaceLimit := by
  unfold Ingest.replaceLimit
  split <;> omega

end Sys2Proof.Machine
end

section
/-! PROOFS. The statement on Hopper batches (R272, R275, R287 to R290, R316, R337). -/
namespace Sys2Proof.Machine

section
variable {s : State} {f r : Nat} {c : Running}

theorem State.batchWaits_of_running {t : State} (same : ∀ g q, t.running g q = s.running g q) (hopper : t.hopper = s.hopper) (h i : Nat) :
    t.batchWaits f r c h i = s.batchWaits f r c h i := by
  have hop : t.hop h i = s.hop h i := by rw [State.hop, State.hop, hopper]
  have line : t.hopLine h i = s.hopLine h i := by simp only [State.hopLine, hop, same]
  rw [State.batchWaits, State.batchWaits, hop, line, State.hopperBusy_of_running same]

/-! ## A batch after its checks -/

section
variable (first : s.batchWaits f r c c.desc.hopHouse c.desc.hopStream = false)
include first

/-- A batch that its checks turn away. -/
theorem State.hopperCmd_away {k : State → HopperJob → State} (runs : s.running f r = some c) (opcode : opcodeOf c.desc.opcode = some .hopperBatch) {x : Stop} {t : State}
    (enters : (s.leaveLine f r c).enterHopper f c.desc = (.error x, t)) (quiet : x.report = none) (sound : x.status ≠ .deviceError) :
    ∃ res, s.hopperCmd f r c k = ({ t with freeCount := t.freeCount + 1 } : State).turnedAway f r c x.status res := by
  have free : t.failResult c.desc = t.freeWord := by rw [State.failResult, opcode]
  have known : t.running f r = some c := ((State.running_enterHopper enters f r).1).trans runs
  refine ⟨_, (State.hopperCmd_first first).trans (Eq.trans ?_ (State.fail_of_freeWord known free x.status))⟩
  dsimp only
  rewrite [enters]
  dsimp only
  rw [quiet, if_neg (by simpa using sound)]

variable {k : State → HopperJob → State} {y : State} {fl : Flags} {t' : State} (enters : (s.leaveLine f r c).enterHopper f c.desc = (.ok (y, fl), t'))
include enters

theorem State.hopperCmd_ended (runs : s.running f r = some c) (last : (y.hop c.desc.hopHouse c.desc.hopStream).spec.n ≤ (y.hop c.desc.hopHouse c.desc.hopStream).pos) :
    (c.desc.closeBit = false → s.hopperCmd f r c k = y.fail f r .state) ∧
    (c.desc.closeBit = true → s.hopperCmd f r c k = (y.closeHopper c.desc.hopHouse c.desc.hopStream).endedWith f r c .ok
      (y.hop c.desc.hopHouse c.desc.hopStream).serial) := by
  have known : y.running f r = some c := ((State.running_enterHopper enters f r).2 y fl rfl).trans runs
  have goes := State.hopperCmd_first (k := k) first
  dsimp only at goes
  rw [enters] at goes
  dsimp only at goes
  rw [if_pos last] at goes
  refine ⟨fun stays => goes.trans (if_neg (by rw [stays]; exact Bool.false_ne_true)), fun shut => goes.trans ((if_pos shut).trans ?_)⟩
  obtain ⟨-, -, running, -⟩ := y.closeHopper_fields c.desc.hopHouse c.desc.hopStream
  exact State.finish_of_running _ f r c _ _ ((running f r).trans known)

theorem State.hopperCmd_enters (more : (y.hop c.desc.hopHouse c.desc.hopStream).pos < (y.hop c.desc.hopHouse c.desc.hopStream).spec.n) :
    let j := (y.hop c.desc.hopHouse c.desc.hopStream).job c.desc.hopHouse c.desc.hopStream c.desc.closeBit fl
    s.hopperCmd f r c k = k (y.putJob f r j) j := by
  have goes := State.hopperCmd_first (k := k) first
  dsimp only at goes
  rw [enters] at goes
  exact goes.trans (if_neg (Nat.not_le.mpr more))

omit first in
/-- A batch of a stream with a deadline starts by issuing its first sample. -/
theorem State.batchRun_first (runs : s.running f r = some c) (more : (y.hop c.desc.hopHouse c.desc.hopStream).pos < (y.hop c.desc.hopHouse c.desc.hopStream).spec.n)
    (slots : 0 < (y.hop c.desc.hopHouse c.desc.hopStream).spec.batch) (clock : (y.hop c.desc.hopHouse c.desc.hopStream).spec.deadline ≠ 0) :
    let j := (y.hop c.desc.hopHouse c.desc.hopStream).job c.desc.hopHouse c.desc.hopStream c.desc.closeBit fl
    State.batchRun f r batchFuel (y.putJob f r j) j = y.setRunning f r (some { c with wait := .hopper { j with phase := .issued } }) := by
  intro j
  have known : y.running f r = some c := ((State.running_enterHopper enters f r).2 y fl rfl).trans runs
  rw [State.putJob_eq known j]
  have running := y.running_setRunning f r (some { c with wait := .hopper j })
  have issues := State.batchRun_issue (j := j) running batchFuel_pos slots more (Ingest.replaceLimit_pos _) clock rfl
  rw [issues, State.setRunning_setRunning]

end

/-! ## A batch of a stream that is open -/

theorem State.leaveLine_enters (owned : s.owns (s.partOf f) c.desc.hopHouse = true) (opened : (s.hop c.desc.hopHouse c.desc.hopStream).opened = true)
    (owner : (s.hop c.desc.hopHouse c.desc.hopStream).owner = some f) (goes_on : c.desc.startBit = false) :
    (s.leaveLine f r c).enterHopper f c.desc = (.ok (s.leaveLine f r c, {}), s.leaveLine f r c) := by
  have stream : (s.leaveLine f r c).hop c.desc.hopHouse c.desc.hopStream = { s.hop c.desc.hopHouse c.desc.hopStream with
    line := (s.hopLine c.desc.hopHouse c.desc.hopStream).filter (· != (f, r, c.seq)) } := s.hop_setHop _ _ _
  exact State.enterHopper_opened owned (fun _ => by rw [stream]; exact owner) (by rw [stream]; exact opened) goes_on

end

/-! ## A batch that runs -/

section
variable {s : State} {f : FnId} {r : RingIx} {c : Running}

theorem exec_hopperStart (fresh : s.fresh f r .hopperBatch = some c) :
    exec (.hopperBatch f r) s = .next (s.hopperCmd f r c (State.batchRun f r batchFuel)).settle := by
  obtain ⟨runs, waits, -⟩ := (s.fresh_iff f r .hopperBatch c).mp fresh
  have none_ : s.jobOf f r = none := by
    rw [State.jobOf, runs]
    dsimp only
    rw [waits]
  refine congrArg (fun u : State => Host.Outcome.next u.settle) (Eq.trans ?_ (s.runCmd_of_fresh f r .hopperBatch (s.hopperStart f r) c fresh))
  rw [none_]

variable {j : HopperJob} (runs : s.running f r = some c) (waits : c.wait = .hopper j)
include runs waits

theorem State.jobOf_of_running : s.jobOf f r = some j := by
  rw [State.jobOf, runs]
  dsimp only
  rw [waits]

/-- A sample whose deadline passes (R287). -/
theorem State.sampleLate_skips (clock : (s.hop j.house j.stream).spec.deadline ≠ 0) (issued : j.phase ≠ .idle) (slots : j.slot < (s.hop j.house j.stream).spec.batch)
    (left : j.pos + 1 < (s.hop j.house j.stream).spec.n) (skips : j.total + 1 < (s.hop j.house j.stream).spec.replaceLimit) :
    let u := s.sampleLate f r
    (u.hop j.house j.stream).cDeadline = sat32 (s.hop j.house j.stream).cDeadline 1 ∧ u.running f r = some { c with wait := .hopper { j with
      skips := j.skips + 1, total := j.total + 1, pos := j.pos + 1, deadline := j.deadline + 1, phase := .issued } } ∧
    (u.house j.house).hopperBufs = (s.house j.house).hopperBufs - (if j.phase = .decoding then 9 else 0) ∧ u.mem = s.mem := by
  have frees : (s.freeVideo j).running f r = some c ∧ (s.freeVideo j).hopper = s.hopper ∧ (s.freeVideo j).mem = s.mem ∧
      ((s.freeVideo j).house j.house).hopperBufs = (s.house j.house).hopperBufs - (if j.phase = .decoding then 9 else 0) := by
    unfold State.freeVideo
    by_cases taken : j.phase = .decoding
    · rw [if_pos taken, if_pos taken, State.house_setHouse]
      exact ⟨runs, rfl, rfl, rfl⟩
    · rw [if_neg taken, if_neg taken]
      exact ⟨runs, rfl, rfl, rfl⟩
  obtain ⟨known, hopper, mem, bufs⟩ := frees
  have hop : (s.freeVideo j).hop j.house j.stream = s.hop j.house j.stream := by rw [State.hop, hopper]; rfl
  let x := (s.hop j.house j.stream).skip .deadline
  let k := j.skip .deadline
  let t := (s.freeVideo j).setHop j.house j.stream x
  have stream : (t.setRunning f r (some { c with wait := .hopper k })).hop j.house j.stream = x := State.hop_setHop _ _ _ _
  have goes : s.sampleLate f r = t.setRunning f r (some { c with wait := .hopper { k with phase := .issued } }) := by
    have skip : s.skipSample f r j .deadline = (t.setRunning f r (some { c with wait := .hopper k }), k) := by
      rw [State.skipSample, hop]
      exact congrArg (fun u : State => (u, k)) (State.putJob_eq (s := t) known k)
    unfold State.sampleLate
    rewrite [State.jobOf_of_running runs waits]
    dsimp only
    rewrite [if_neg (by simp [clock, issued]), skip]
    refine (State.batchRun_issue (s := t.setRunning f r (some { c with wait := .hopper k })) (c := { c with wait := .hopper k }) (j := k) (State.running_setRunning _ f r _) batchFuel_pos
      ?_ ?_ ?_ ?_ rfl).trans (State.setRunning_setRunning _ _ _ _ _)
    all_goals rw [show (t.setRunning f r (some { c with wait := .hopper k })).hop k.house k.stream = x from stream]
    · exact slots
    · exact left
    · exact skips
    · exact clock
  dsimp only
  rw [goes]
  exact ⟨congrArg HopperStream.cDeadline stream, State.running_setRunning _ f r _, bufs, mem⟩

end

section
variable {s : State} {f : FnId} {r : RingIx} {c : Running} {va : BitVec 48} {ha h : Nat}

/-- A host read of a batch that times out. -/
theorem State.readTimedOut_batch (runs : s.running f r = some c) (going : c.done = none) (reader : s.hostReader f r c va.toNat = some (hopperAcc f h))
    (leads : s.leads (hopperAcc f h) false va.toNat = some (.host ha)) :
    s.readTimedOut f r va = (s.setAer f aerTimeout).readEnds f r c { status := .dataError, report := some ((hopperAcc f h).fault 6 va.toNat) } := by
  rw [State.readTimedOut, runs]
  dsimp only
  rw [going, if_neg (by decide), reader]
  dsimp only
  rw [leads]

end

section
variable {s : State} {f : FnId} {r : RingIx} {c : Running} {va : BitVec 48} {ha : Nat} (side : c.desc.sideLen = 0)
include side

/-- A host read of a batch that has not started times out: the batch ends at its first read (R337). -/
theorem exec_hopperTimeout_started (fresh : s.fresh f r .hopperBatch = some c) (first : s.batchWaits f r c c.desc.hopHouse c.desc.hopStream = false)
    (owned : s.owns (s.partOf f) c.desc.hopHouse = true) (opened : (s.hop c.desc.hopHouse c.desc.hopStream).opened = true)
    (owner : (s.hop c.desc.hopHouse c.desc.hopStream).owner = some f.val) (start : c.desc.startBit = false)
    (more : (s.hop c.desc.hopHouse c.desc.hopStream).pos < (s.hop c.desc.hopHouse c.desc.hopStream).spec.n)
    (leads : s.leads (hopperAcc f c.desc.hopHouse) false va.toNat = some (.host ha)) :
    let x := s.hop c.desc.hopHouse c.desc.hopStream
    ∃ u : State, exec (.completionTimeout f r va) s = .next u.settle ∧ u.mem = s.mem ∧
      (u.hop c.desc.hopHouse c.desc.hopStream).serial = x.serial ∧ (u.hop c.desc.hopHouse c.desc.hopStream).pos = x.pos ∧
      (u.hop c.desc.hopHouse c.desc.hopStream).opened = !c.desc.closeBit ∧ u.running f r = some { c with
        done := some (c.statusOf .dataError, x.serial), sideOvf := true, doneAt := s.ends } := by
  intro x
  obtain ⟨runs, waits, going, opcode, -⟩ := (s.fresh_iff f r .hopperBatch c).mp fresh
  have up := State.byMemory_setAer (kept := true) s f aerTimeout
  let t := s.setAer f aerTimeout
  let e : Stop := { status := .dataError, report := some ((hopperAcc f c.desc.hopHouse).fault 6 va.toNat) }
  have wait : t.batchWaits f r c c.desc.hopHouse c.desc.hopStream = false := (State.batchWaits_of_running up.running rfl _ _).trans first
  have known : t.running f r = some c := (up.running f r).trans runs
  have enters := State.leaveLine_enters (s := t) (r := r) owned opened owner start
  have same : (t.leaveLine f r c).hop c.desc.hopHouse c.desc.hopStream =
      { x with line := (t.hopLine c.desc.hopHouse c.desc.hopStream).filter (· != (f.val, r.val, c.seq)) } := t.hop_setHop _ _ _
  let j := ((t.leaveLine f r c).hop c.desc.hopHouse c.desc.hopStream).job c.desc.hopHouse c.desc.hopStream c.desc.closeBit {}
  have reader : s.hostReader f r c va.toNat = some (hopperAcc f c.desc.hopHouse) := by
    unfold State.hostReader
    extract_lets d word shape data
    rw [opcode, waits]
  have goes : s.readTimedOut f r va = ((t.leaveLine f r c).putJob f r j).batchStop f r j e := by
    rw [State.readTimedOut_batch runs going reader leads, State.readEnds, waits]
    dsimp only
    rw [opcode]
    exact State.hopperCmd_enters (k := fun s j => s.batchStop f r j e) wait enters (by rw [same]; exact more)
  have job : ((t.leaveLine f r c).putJob f r j) = (t.leaveLine f r c).setRunning f r (some { c with wait := .hopper j }) :=
    State.putJob_eq (s := t.leaveLine f r c) known j
  rw [job] at goes
  obtain ⟨mem, serial, pos, isOpen, running⟩ := State.batchStop_fields (s := (t.leaveLine f r c).setRunning f r (some { c with wait := .hopper j }))
    (c := { c with wait := .hopper j }) side (State.running_setRunning _ f r _) going j e
  have stream : ((t.leaveLine f r c).setRunning f r (some { c with wait := .hopper j })).hop j.house j.stream = (t.leaveLine f r c).hop c.desc.hopHouse c.desc.hopStream := rfl
  rw [stream, same] at serial pos isOpen running
  refine ⟨_, congrArg (fun u : State => Host.Outcome.next u.settle) goes, mem.trans (up.memories rfl).1, serial, pos, isOpen.trans ?_, running.trans ?_⟩
  · rw [show x.opened = true from opened, Bool.true_and]
    rfl
  · refine congrArg some ?_
    rw [show (c.flags.or j.flags) = c.flags from Flags.or_none _]
    rewrite [← waits]
    rfl

/-- A host read of a batch that runs times out. -/
theorem exec_hopperTimeout_running {j : HopperJob} (runs : s.running f r = some c) (waits : c.wait = .hopper j) (going : c.done = none)
    (opcode : opcodeOf c.desc.opcode = some .hopperBatch) (leads : s.leads (hopperAcc f j.house) false va.toNat = some (.host ha)) :
    let x := s.hop j.house j.stream
    ∃ u : State, exec (.completionTimeout f r va) s = .next u.settle ∧ u.mem = s.mem ∧ (u.hop j.house j.stream).serial = x.serial ∧
      (u.hop j.house j.stream).pos = x.pos ∧ (u.hop j.house j.stream).opened = (x.opened && !j.close) ∧ u.running f r = some { c with
        wait := .none, flags := c.flags.or j.flags, sideOvf := true, doneAt := s.ends
        done := some (c.statusOf (if j.device = true then .deviceError else .dataError), x.serial) } := by
  intro x
  have up := State.byMemory_setAer (kept := true) s f aerTimeout
  have reader : s.hostReader f r c va.toNat = some (hopperAcc f j.house) := by
    unfold State.hostReader
    extract_lets d word shape data
    rw [opcode, waits]
  obtain ⟨mem, serial, pos, isOpen, running⟩ := State.batchStop_fields (s := s.setAer f aerTimeout) side ((up.running f r).trans runs) going j
    { status := .dataError, report := some ((hopperAcc f j.house).fault 6 va.toNat) }
  refine ⟨_, congrArg (fun u : State => Host.Outcome.next u.settle) ((State.readTimedOut_batch runs going reader leads).trans ?_), mem.trans (up.memories rfl).1,
    serial, pos, isOpen, running.trans ?_⟩
  · rw [State.readEnds, waits]
  · rw [up.ends]
    rfl

end

section
variable {s : State} {f r : Nat} {c : Running} {j : HopperJob}

/-- A batch whose slots are full is over. -/
theorem State.batchRun_full {fuel : Nat} (some_ : 0 < fuel) (full : (s.hop j.house j.stream).spec.batch ≤ j.slot) : State.batchRun f r fuel s j = s.batchOver f r j := by
  obtain ⟨n, rfl⟩ := Nat.exists_eq_succ_of_ne_zero some_.ne'
  rw [State.batchRun]
  exact if_pos (by rw [decide_eq_true full]; rfl)

end

/-- A waiting video sample takes its buffers (R316). -/
theorem State.sampleTakes_buffers {s : State} {f : FnId} {r : RingIx} {c : Running} {j : HopperJob} (runs : s.running f r = some c) (waits : c.wait = .hopper j)
    (waiting : j.phase = .waiting) (free : 9 ≤ s.freeVideoBufs j.house) : let u := s.sampleTakes f r
    (u.house j.house).hopperBufs = (s.house j.house).hopperBufs + 9 ∧ u.running f r = some { c with wait := .hopper { j with phase := .decoding } } ∧ u.mem = s.mem := by
  let t := s.setHouse j.house { s.house j.house with hopperBufs := (s.house j.house).hopperBufs + 9 }
  have takes : s.sampleTakes f r = t.setRunning f r (some { c with wait := .hopper { j with phase := .decoding } }) := by
    unfold State.sampleTakes
    rewrite [State.jobOf_of_running runs waits]
    refine (if_pos (by simp [waiting, free])).trans ?_
    exact State.putJob_eq (s := t) runs _
  dsimp only
  rw [takes]
  exact ⟨congrArg HouseRegs.hopperBufs (s.house_setHouse _ _), State.running_setRunning _ f r _, rfl⟩

/-! ## The statement -/

/-- Settles O53. -/
theorem hopperBatchesRunAndEnd : Obligations.HopperBatchesRunAndEnd := by
  unfold Obligations.HopperBatchesRunAndEnd
  refine ⟨?_, ?_⟩
  · intro s f r c fresh d h i x me line first t away
    obtain ⟨runs, waits, going, opcode, -⟩ := (s.fresh_iff f r .hopperBatch c).mp fresh
    have goes := exec_hopperStart fresh
    have turned (isFirst : first) (e : Stop) (t' : State) (enters : t.enterHopper f d = (.error e, t')) (quiet : e.report = none) (sound : e.status ≠ .deviceError) :
        away t' e.status := by
      obtain ⟨res, same⟩ := State.hopperCmd_away (k := State.batchRun f r batchFuel) (State.batchWaits_of_first isFirst) runs opcode enters quiet sound
      exact ⟨res, goes.trans (by rw [same])⟩
    have stream : t.hop h i = { x with line := line.filter (· != me) } := s.hop_setHop _ _ _
    refine ⟨fun behind => ?_, fun isFirst foreign => ?_, fun isFirst owned owner start => ?_, fun e t' isFirst enters quiet sound => turned isFirst e t' enters quiet sound,
      ?_, fun isFirst owned opened owner start => ⟨fun last shut => ?_, fun more slots clock => ?_, fun va ha more side leads => ?_⟩⟩
    · rw [goes, State.hopperCmd_behind (State.batchWaits_of_not_first behind)]
    · exact turned isFirst { status := .access } t (State.enterHopper_foreign (by rw [show t.hop d.hopHouse d.hopStream = _ from stream]; exact foreign)) rfl (by decide)
    · exact turned isFirst { status := .state } t (State.enterHopper_start owned (by rw [show t.hop d.hopHouse d.hopStream = _ from stream]; exact owner)
        (by rw [show t.hop d.hopHouse d.hopStream = _ from stream]; exact start)) rfl (by decide)
    · intro y fl t' isFirst enters z
      have wait := State.batchWaits_of_first isFirst
      have free : y.failResult c.desc = y.freeWord := by rw [State.failResult, opcode]
      have known : y.running f r = some c := ((State.running_enterHopper enters f r).2 y fl rfl).trans runs
      refine ⟨fun last stays => ⟨y.freeWord.1, goes.trans ?_⟩, fun last shut => goes.trans ?_, fun more slots clock => goes.trans ?_⟩
      · rw [(State.hopperCmd_ended wait enters runs last).1 stays, State.fail_of_freeWord known free]
      · rw [(State.hopperCmd_ended wait enters runs last).2 shut]
      · rw [State.hopperCmd_enters wait enters more, State.batchRun_first enters runs more slots clock]
    · have enters := State.leaveLine_enters (r := r) owned opened owner start
      have same : (s.leaveLine f r c).hop c.desc.hopHouse c.desc.hopStream = { x with line := line.filter (· != me) } := stream
      refine goes.trans ?_
      rewrite [(State.hopperCmd_ended (State.batchWaits_of_first isFirst) enters runs (by rw [same]; exact last)).2 shut, same]
      rfl
    · have enters := State.leaveLine_enters (r := r) owned opened owner start
      have same : (s.leaveLine f r c).hop c.desc.hopHouse c.desc.hopStream = { x with line := line.filter (· != me) } := stream
      refine goes.trans ?_
      rewrite [State.hopperCmd_enters (State.batchWaits_of_first isFirst) enters (by rw [same]; exact more),
        State.batchRun_first enters runs (by rw [same]; exact more) (by rw [same]; exact slots) (by rw [same]; exact clock), same]
      rfl
    · exact exec_hopperTimeout_started side fresh (State.batchWaits_of_first isFirst) owned opened owner start more leads
  · intro s f r c j runs waits going x ended
    have goes : exec (.hopperBatch f r) s = .next (State.batchRun f r batchFuel s j).settle := by
      refine congrArg (fun u : State => Host.Outcome.next u.settle) ?_
      rw [State.jobOf_of_running runs waits]
    refine ⟨fun full side => ?_, fun calm => ?_, fun clock issued slots left skips => ?_, fun waiting free => ?_, fun cannot => ?_, fun va ha opcode side leads => ?_⟩
    · obtain ⟨serial, isOpen, epoch, pos, running, mem, host⟩ := State.batchOver_full side runs going j full
      refine ⟨_, _, goes.trans (congrArg (fun u : State => Host.Outcome.next u.settle) (State.batchRun_full batchFuel_pos full)), serial, isOpen, epoch, pos, running,
        rfl, rfl, mem, host⟩
    · refine congrArg (fun u : State => Host.Outcome.next u.settle) ?_
      unfold State.sampleLate
      rewrite [State.jobOf_of_running runs waits]
      exact if_pos (by simpa using calm)
    · obtain ⟨count, running, bufs, mem⟩ := State.sampleLate_skips runs waits clock issued slots left skips
      exact ⟨_, rfl, count, running, bufs, mem⟩
    · obtain ⟨bufs, running, mem⟩ := State.sampleTakes_buffers runs waits waiting free
      exact ⟨_, rfl, bufs, running, mem⟩
    · refine congrArg (fun u : State => Host.Outcome.next u.settle) ?_
      unfold State.sampleTakes
      rewrite [State.jobOf_of_running runs waits]
      refine if_neg fun takes => ?_
      obtain ⟨waiting, free⟩ := by simpa using takes
      rcases cannot with other | few
      · exact other waiting
      · omega
    · exact exec_hopperTimeout_running side runs waits going opcode leads

end Sys2Proof.Machine
end

section
/-! PROOFS. The statement on SNAPSHOT and RESTORE fails (R257 to R261): in a state whose table of stones lists one stone twice, SNAPSHOT
ends with another RESULT than the size of the image it found. -/
namespace Sys2Proof.Machine

/-! ## The state -/

/-- A set of PF0's ring 1 that waits. -/
def idleSet : SetCtx := { state := .waiting, r := 1, plan := { binUnits := 0 } }

/-- A SNAPSHOT of ring 1's plan into 1,152 bytes from 0x4000. -/
def takingImage : Running := { desc := [BitVec.ofNat 64 (0x30 + 1 * 2 ^ 32), 0, 0, 0x4000, 1152, 0, 0, 0] }

/-- A plan of one stage, on stone 5. -/
def onStone5 : PlanRun := { stages := [{ stone := 5, set := 0 }] }

/-- PF0's partition serves and its tables map gibibyte 0; stone 5 is listed twice: a write of it drops the ACTIVE entry. -/
def listedTwice : State :=
  { (State.reset.setPart 0 { State.reset.part 0 with state := .active }).setBind 0 { valid := true, rootValid := true, root := 1 } with
    mem := [(0x1000, 0x01), (0x1001, 0x20), (0x2000, 0x07)]
    fns := [(0, { sqs := [(0, { running := some takingImage }), (1, { running := some { wait := .plan onStone5 } })] })]
    stones := [(5, { state := .spare, sets := [(0, idleSet)] }), (5, { state := .active, sets := [(0, idleSet)] })] }

/-- The state that an outcome goes on with. -/
def afterOf (x : Host.Outcome State Fault Refusal) : State :=
  match x with
  | .next t => t
  | _ => {}

theorem listedTwice_image : listedTwice.imageSize 0 1 0 = 1152 ∧ listedTwice.sectionsOf 0 1 0 = [(0x7F, 5, 0)] := by decide +kernel

theorem listedTwice_result : ((afterOf (exec (.snapshot 0 0) listedTwice)).running 0 0).map (·.done) = some (some (.ok, 64)) ∧
    ∀ x ∈ (afterOf (exec (.snapshot 0 0) listedTwice)).stones, x.2.state ≠ .retired := by decide +kernel

/-- What holds of every stone as shipped and of every listed stone holds of every stone. -/
theorem State.stone_of_listed {P : Stone → Prop} {s : State} (shipped : ∀ p, P (stoneShipped p)) (listed : ∀ x ∈ s.stones, P x.2) (p : Nat) :
    P (s.stone p) := by
  rw [State.stone, Table.get]
  split
  next c found => exact listed c (List.mem_of_find?_eq_some found)
  next => exact shipped p

theorem stoneShipped_ecc (p : Nat) : (stoneShipped p).ecc = [] := by
  unfold stoneShipped
  split <;> rfl

theorem stoneShipped_not_retired (p : Nat) : (stoneShipped p).state ≠ .retired := by
  unfold stoneShipped
  split <;> exact StoneState.noConfusion

/-! ## The buffer lies in device memory, whatever the image's bytes hold -/

section
variable {a : Acc} {va l table bits : Nat} {e : Eng} {w : Word64} (clean : e.s.ecc = [])
    (dram : e.s.inDram (e.s.partOf a.f) table = true) (pool : e.s.inRacePool table = false)
include clean dram pool

/-- A word that names a table leads the walk one level down (R158, R159). -/
theorem walk_of_table (word : word64At (e.s.mem.readN (table + 8 * (va / 2 ^ (12 + 9 * (l + 1)) % 512)) 8) 0 = w)
    (valid : (!bitAt w 0 || fld w 11 6 != 0) = false) (inner : bitAt w 1 = false) (plain : (fld w 5 4 != 0 || fld w 63 44 != 0) = false) :
    (walk a va (l + 1) table).run.run e = (walk a va l (fld w 43 12 * 4096)).run.run e := by
  have here : getS.run.run e = (.ok e.s, e) := rfl
  rw [walk, Run.bind_of_ok here]
  simp only [dram, pool, Bool.not_true, Bool.or_false, Bool.false_eq_true, if_false]
  rw [Run.bind_of_ok (readStruct_of_clean a va _ _ e clean), word]
  simp only [valid, inner, plain, Bool.false_eq_true, if_false]

/-- The word 7 is a writable leaf of device memory from 0: it ends a walk above the last level and below the root (R159). -/
theorem walk_of_seven (upper : l ≠ 2) (word : word64At (e.s.mem.readN (table + 8 * (va / 2 ^ (12 + 9 * (l + 1)) % 512)) 8) 0 = 7) :
    (walk a va (l + 1) table).run.run e = (.ok (7, 12 + 9 * (l + 1)), e) := by
  have here : getS.run.run e = (.ok e.s, e) := rfl
  have valid : (!bitAt (7 : Word64) 0 || fld (7 : Word64) 11 6 != 0) = false := by decide
  have leaf : bitAt (7 : Word64) 1 = true := by decide
  have device : fld (7 : Word64) 5 4 = 0 ∧ fld (7 : Word64) 53 44 = 0 ∧ fld (7 : Word64) 63 54 = 0 ∧ fld (7 : Word64) 63 12 = 0 := by decide
  obtain ⟨type, high, top, page⟩ := device
  rw [walk, Run.bind_of_ok here]
  simp only [dram, pool, Bool.not_true, Bool.or_false, Bool.false_eq_true, if_false]
  rw [Run.bind_of_ok (readStruct_of_clean a va _ _ e clean), word]
  simp only [valid, leaf, upper, walk.leaf, type, high, top, page, Bool.false_eq_true, if_false, if_true]
  rfl

end

/-- Addresses of gibibyte 0 lead to device memory from 0, whatever the memory holds beside the tables. -/
theorem listedTwice_translate {mem : Memory} (root : word64At (mem.readN 0x1000 8) 0 = 0x2001) (leaf : word64At (mem.readN 0x2000 8) 0 = 7)
    {a : Acc} (pf0 : a.f = 0) {va : Nat} (low : va < 2 ^ 30) (mine : listedTwice.reaches 0 va = true)
    (pool : listedTwice.inRacePool va = false) (slot : listedTwice.poolSlot 0 va = none) :
    ∃ nc e, (translate a true va).exec { listedTwice with mem := mem } = (.ok (.dev va, nc), e) := by
  let s : State := { listedTwice with mem := mem }
  let e : Eng := { s := s }
  have here : getS.run.run e = (.ok s, e) := rfl
  have clean : e.s.ecc = [] := rfl
  have partition : listedTwice.partOf 0 = 0 := by decide +kernel
  have part : s.partOf a.f = 0 := by rw [pf0]; exact partition
  have rooted : (listedTwice.bind 0).rootValid = true ∧ (listedTwice.bind 0).root.toNat * 4096 = 0x1000 := by decide +kernel
  have bound : (s.bind a.f).rootValid = true ∧ (s.bind a.f).root.toNat * 4096 = 0x1000 := by rw [pf0]; exact rooted
  have tables : listedTwice.inDram 0 0x1000 = true ∧ listedTwice.inRacePool 0x1000 = false ∧
      listedTwice.inDram 0 0x2000 = true ∧ listedTwice.inRacePool 0x2000 = false := by decide +kernel
  obtain ⟨dram₁, pool₁, dram₂, pool₂⟩ := tables
  have top : va / 2 ^ (12 + 9 * (2 + 1)) % 512 = 0 := by omega
  have next : va / 2 ^ (12 + 9 * (1 + 1)) % 512 = 0 := by omega
  have below : fld (0x2001 : Word64) 43 12 * 4096 = 0x2000 := by decide
  have walked : (walk a va 3 0x1000).run.run e = (.ok (7, 30), e) := by
    rw [walk_of_table (w := 0x2001) clean (by rw [part]; exact dram₁) pool₁ (by rw [top]; exact root) (by decide) (by decide) (by decide), below]
    exact walk_of_seven clean (by rw [part]; exact dram₂) pool₂ (by decide) (by rw [next]; exact leaf)
  have word : fld (7 : Word64) 5 4 = 0 ∧ bitAt (7 : Word64) 2 = true ∧ fld (7 : Word64) 43 12 = 0 := by decide
  obtain ⟨type, writable, page⟩ := word
  have off : va % 2 ^ 30 = va := Nat.mod_eq_of_lt low
  have mine' : s.reaches 0 va = true := mine
  have pool' : s.inRacePool va = false := pool
  have slot' : s.poolSlot 0 va = none := slot
  have run : (translate a true va).run.run e = (.ok (.dev va, bitAt 7 3), e) := by
    rw [translate, Run.bind_of_ok (mmuBuf_of_clean a e clean), Run.bind_of_ok here]
    simp only [bound, Bool.not_true, Bool.false_eq_true, if_false]
    rw [Run.bind_of_ok walked]
    dsimp only
    rw [Run.bind_of_ok here]
    simp only [type, writable, page, off, part, mine', pool', slot', Nat.zero_mul, Nat.zero_add, Bool.not_true, Bool.and_false, Bool.or_self,
      Bool.false_eq_true, if_false, OfNat.zero_ne_ofNat]
    rfl
  exact ⟨_, _, Run.exec_of_run clean run⟩

/-- The image's bytes lie in device memory at 0x4000, apart from the tables that lead there. -/
theorem listedTwice_buffer (a : Acc) (pf0 : a.f = 0) : listedTwice.ReachesApart [(0x4000, 1152)] a true 0x4000 1152 0x4000 := by
  intro mem same i inside
  have places : ∀ i < 1152, listedTwice.reaches 0 (0x4000 + i) = true ∧ listedTwice.inRacePool (0x4000 + i) = false ∧
      listedTwice.poolSlot 0 (0x4000 + i) = none := by decide +kernel
  have kept (pa : Nat) (below : pa + 8 ≤ 0x4000) : mem.readN pa 8 = listedTwice.mem.readN pa 8 := by
    rw [Memory.readN_eq, Memory.readN_eq]
    refine List.map_congr_left fun k known => same _ fun x only => .inl ?_
    rw [List.mem_singleton.1 only]
    have := List.mem_range.1 known
    omega
  have words : word64At (listedTwice.mem.readN 0x1000 8) 0 = 0x2001 ∧ word64At (listedTwice.mem.readN 0x2000 8) 0 = 7 := by decide +kernel
  obtain ⟨mine, pool, slot⟩ := places i inside
  rw [Nat.mod_eq_of_lt (by omega)]
  exact listedTwice_translate (by rw [kept _ (by decide)]; exact words.1) (by rw [kept _ (by decide)]; exact words.2) pf0 (by omega) mine pool slot

/-! ## The refutation -/

/-- Refutes O54: no hypothesis asks that the table of stones lists each stone once. Where it lists one twice, the set that stops for the
SNAPSHOT is written back to the first entry and the other is dropped: the image then has no section and 64 bytes, and the SNAPSHOT ends with
that size, where the statement wants the 1,152 bytes found at its start. -/
theorem not_snapshotAndRestoreComplete : ¬ Obligations.SnapshotAndRestoreComplete := by
  unfold Obligations.SnapshotAndRestoreComplete
  intro claim
  obtain ⟨size, sections⟩ := listedTwice_image
  obtain ⟨result, working⟩ := listedTwice_result
  have sound (p : Nat) : (listedTwice.stone p).ecc = [] :=
    State.stone_of_listed (P := fun x => x.ecc = []) stoneShipped_ecc (by decide) p
  have idle : listedTwice.setCtx 5 0 = idleSet := by decide +kernel
  have fits : listedTwice.imageSize 0 1 0 ≤ 1152 := size.le
  have set : ∀ x ∈ listedTwice.sectionsOf 0 1 0, x = (0x7F, 5, 0) := by
    rw [sections]
    exact fun x => List.mem_singleton.1
  have buffer : listedTwice.ReachesApart [(0x4000, listedTwice.imageSize 0 1 0)] (stoneAcc 0 0) true 0x4000 1152 0x4000 := by
    rw [size]
    exact listedTwice_buffer _ rfl
  obtain ⟨u, _, own, _, next, _, _, ran, done, _⟩ := (claim.1 listedTwice 0 0 takingImage rfl).2 onStone5 { wait := .plan onStone5 } 0x4000 rfl
    sound (by decide +kernel) rfl rfl fits (by decide) buffer
    (by
      intro x known
      rw [set x known]
      dsimp only
      rw [idle]
      exact ⟨.inl rfl, rfl, rfl, rfl, rfl, rfl, fun _ known => absurd known List.not_mem_nil, fun _ known => absurd known List.not_mem_nil⟩)
    (fun n t known => nomatch known)
  rw [next] at result working
  obtain ⟨l, settled⟩ := State.settle_of_none_retired (s := u)
    (State.stone_of_listed (P := fun x => x.state ≠ .retired) stoneShipped_not_retired working)
  have ended : (u.settle.running 0 0).map (·.done) = some (some (.ok, 64)) := result
  have kept : u.settle.running 0 0 = some own := by
    rw [settled]
    exact ran
  rw [kept, Option.map_some, done] at ended
  exact absurd ended (by decide +kernel)

end Sys2Proof.Machine
end
